-- ==== Sys2Proof/Word.lean ====
section
/-! DEFINITION. The word types of the machine (12 R221) and nothing else. -/

namespace Sys2Proof

/-- A scalar register (12 R221) and one 64-bit word of a record or a register map. -/
abbrev Word := BitVec 64

/-- One byte of memory (00 R4). -/
abbrev Byte := BitVec 8

/-- A scalar instruction word (12 R229). -/
abbrev IWord := BitVec 32

/-- A scalar, vector or stream register number as an instruction word holds it (12 R229). -/
abbrev Reg := BitVec 5

/-- A vector register (12 R221, R222). -/
abbrev VWord := BitVec 1024

/-- A mask register, one bit for each byte lane (12 R221, R222). -/
abbrev KWord := BitVec 128

end Sys2Proof
end

