-- ==== Sys2Proof/Config.lean ====
section
/-! DEFINITION. What the spec leaves to another standard or leaves open: constants with no body, so that no proof can see a value. -/

namespace Sys2Proof.Config

/-- A byte of memory of another chip, which this state does not hold: by address and by the counter of the state at the time of reading (log 24). -/
opaque farByte : Nat → Nat → Byte

/-- A byte of a packet or flit whose layout the spec does not state: by the draw of the counter and by its place (log 4). -/
opaque packetByte : Nat → Nat → Byte

/-- The value that ordinary data leaves unstated is drawn from here as well: a word of memory of another chip, as farByte (log 24). -/
opaque farWord : Nat → Nat → Word

/-- A free word, drawn by a counter of the state (log 4). -/
opaque freeWord : Nat → Word

/-- The 64-bit xorshift generator of the error injector (04 R74), whose shifts the spec does not state (log 32). -/
opaque xorshift : Word → Word

/-- SM3, the hash of 03 R56, R58, R59 and 04 R73: a standard outside the spec (log 8). -/
opaque sm3 : List Byte → List Byte

/-- The keyed tag over SM3 that 03 R58 and 04 R73 use: key, then message (log 8). -/
opaque tagOf : List Byte → List Byte → List Byte

/-- An SM2 signature check: public key, message, signature (log 8). -/
opaque sm2Verify : List Byte → List Byte → List Byte → Bool

/-- An SM2 signature: private key, message (log 8). -/
opaque sm2Sign : List Byte → List Byte → List Byte

/-- Whether a number of bytes at an address lies in the region of a context that a remote memory key opens (23 R377): context, key, address, bytes. The
spec states no registration of keys (log 43). -/
opaque nicRegion : Nat → Nat → Nat → Nat → Bool

/-- The key derivation of 03 R58 and R59: a secret and a purpose (log 8). -/
opaque kdf : List Byte → Nat → List Byte

/-- The public half of an SM2 private key (log 8). -/
opaque sm2Public : List Byte → List Byte

/-- Nerral's key, whose digest the boot ROM holds (03 R58; log 6). -/
opaque nerralKey : List Byte

/-- The boot ROM's image, which attestation measures (03 R59; log 6). -/
opaque bootRom : List Byte

/-- The stepping that attestation reports: B0 (00 R1, 03 R59), coded as IDENT.STEP is (12 R226). -/
def stepping : Nat := 0xB0

/-- The granules that a port's buffer of a class holds (01 R18, 02 R31), which the spec does not state (log 45). -/
opaque linkBuffer : Nat → Nat

/-- Whether a core of another chip, by its agent number, serves another partition than the one given: the records of other chips are not this state's (03 R55;
log 53). -/
opaque farForeign : Nat → Nat → Bool

/-- Where the hold words of a context's registration of a number begin, in units of 256 bytes (21 R350 states only the alignment; log 36). -/
opaque holdAt : Nat → Nat → Nat

/-- The bytes of LAND in a slot of a core of another chip, by its agent number and slot (05 R93; log 53). -/
opaque farLand : Nat → Nat → Nat

/-- Whether a signed image or record asks the boot ROM to raise the floor (03 R58 step 6): where it says so is not stated (log 6). -/
opaque floorRequest : List Byte → Bool

end Sys2Proof.Config
end

