-- ==== Sys2Proof/Machine/Bits.lean ====
section
/-! DEFINITION. Bit fields, sign extension and byte order (00 R4, R8), used by the decoder and by the machine. -/

namespace Sys2Proof.Machine

/-- The field hi:lo of a number, both end bits included (00 R4). -/
def fldN (n hi lo : Nat) : Nat := (n / 2 ^ lo) % 2 ^ (hi + 1 - lo)

/-- The field hi:lo of a 64-bit word (00 R4). -/
def fld (w : Word) (hi lo : Nat) : Nat := fldN w.toNat hi lo

/-- Bit i of a 64-bit word. -/
def bit (w : Word) (i : Nat) : Bool := w.getLsbD i

/-- A word with its field hi:lo replaced by v, cut to the field's width. -/
def setFld (w : Word) (hi lo v : Nat) : Word :=
  let m := 2 ^ (hi + 1 - lo)
  BitVec.ofNat 64 (w.toNat - (fld w hi lo) * 2 ^ lo + (v % m) * 2 ^ lo)

/-- A 64-bit word from a number, modulo 2^64 (00 R8). -/
def wd (n : Nat) : Word := BitVec.ofNat 64 n

/-- A 64-bit word from an integer, modulo 2^64 (00 R8). -/
def wdI (n : Int) : Word := BitVec.ofInt 64 n

/-- SExt of 00 R8: an n-bit field, sign-extended to 64 bits. -/
def sext {n : Nat} (x : BitVec n) : Word := x.signExtend 64

/-- ZExt of 00 R8. -/
def zext {n : Nat} (x : BitVec n) : Word := x.setWidth 64

/-- The low n bits of a number read as two's complement. -/
def signedN (n x : Nat) : Int :=
  let y := x % 2 ^ n
  if 2 * y < 2 ^ n then (y : Int) else (y : Int) - (2 ^ n : Nat)

/-- An integer as an n-bit two's-complement number. -/
def wrapN (n : Nat) (x : Int) : Nat := (x % ((2 ^ n : Nat) : Int)).toNat

/-- 1 or 0. -/
def b2n (b : Bool) : Nat := if b then 1 else 0

/-- The number whose bytes these are, the first byte least significant (00 R4). -/
def leNat : List Byte → Nat
  | [] => 0
  | b :: bs => b.toNat + 256 * leNat bs

/-- The n low bytes of a number, the least significant first (00 R4). -/
def leBytes : Nat → Nat → List Byte
  | 0, _ => []
  | n + 1, x => BitVec.ofNat 8 x :: leBytes n (x / 256)

/-- The 64-bit words of a byte string, eight bytes each (00 R4). -/
def leWords : Nat → List Byte → List Word
  | 0, _ => []
  | n + 1, bs => wd (leNat (bs.take 8)) :: leWords n (bs.drop 8)

/-- The bytes of a list of 64-bit words (00 R4). -/
def wordsBytes (ws : List Word) : List Byte := ws.flatMap fun w => leBytes 8 w.toNat

/-- x rounded up to a multiple of m. -/
def roundUp (x m : Nat) : Nat := (x + m - 1) / m * m

/-- The number of set bits of a number below 2^n. -/
def popN : Nat → Nat → Nat
  | 0, _ => 0
  | n + 1, x => x % 2 + popN n (x / 2)

/-- The positions of the set bits of a number below 2^n, ascending from lo. -/
def setBits : Nat → Nat → Nat → List Nat
  | 0, _, _ => []
  | n + 1, lo, x => (if x % 2 = 1 then [lo] else []) ++ setBits n (lo + 1) (x / 2)

/-- One more than the place of the highest set bit, searched from bit n downward (0 for zero): the bit length. -/
def bitLen : Nat → Nat → Nat
  | 0, _ => 0
  | n + 1, x => if x / 2 ^ n % 2 = 1 then n + 1 else bitLen n x

/-- The place of the lowest set bit from place i on, or i + n when none is set. -/
def lowBit : Nat → Nat → Nat → Nat
  | 0, i, _ => i
  | n + 1, i, x => if x % 2 = 1 then i else lowBit n (i + 1) (x / 2)

/-- The n low bits of x in reverse order. -/
def revBits : Nat → Nat → Nat
  | 0, _ => 0
  | n + 1, x => (x % 2) * 2 ^ n + revBits n (x / 2)

/-- The carry-less product over GF(2) of the n low bits of a with b (14 R263). -/
def clmulN : Nat → Nat → Nat → Nat
  | 0, _, _ => 0
  | n + 1, a, b => (if a % 2 = 1 then b else 0) ^^^ clmulN n (a / 2) (2 * b)

/-- Replace element i of a list, leaving the list alone when it is shorter. -/
def listSet {α : Type} (l : List α) (i : Nat) (a : α) : List α := l.set i a

/-- Keep the elements of a list that are not equal to a. -/
def without {α : Type} [DecidableEq α] (a : α) (l : List α) : List α := l.filter fun b => !decide (b = a)

/-- Add a to a list unless it stands there already. -/
def addTo {α : Type} [DecidableEq α] (a : α) (l : List α) : List α := if a ∈ l then l else l ++ [a]

end Sys2Proof.Machine
end

