-- ==== Sys2Proof/Machine/Numerics.lean ====
section
/-! DEFINITION. Number formats and arithmetic (chapter 11): values, the one rounding, the block dot product, EXP2, the trees. -/

namespace Sys2Proof.Machine

/-- A floating format: sign present, exponent and mantissa widths, bias, SPEC (11 R210, R212); native formats are instances. -/
structure Fmt where
  s : Bool
  ew : Nat
  mw : Nat
  bias : Int
  spec : Nat
  deriving DecidableEq, Repr

/-- binary32 (11 R209). -/
def f32 : Fmt := ⟨true, 8, 23, 127, 0⟩

/-- binary16 (11 R209). -/
def f16 : Fmt := ⟨true, 5, 10, 15, 0⟩

/-- bfloat16 (11 R209). -/
def bf16 : Fmt := ⟨true, 8, 7, 127, 0⟩

/-- A format's width in bits (11 R211). -/
def Fmt.width (f : Fmt) : Nat := b2n f.s + f.ew + f.mw

/-- The format of a narrow descriptor; none for UNSET (11 R210, R211). -/
def descFmt (d : BitVec 64) : Option Fmt :=
  if d = 0 then none else some ⟨bit d 0, fld d 6 4, fld d 10 8, signedN 8 (fld d 23 16), fld d 13 12⟩

/-- The width in bits of the field that holds a code of w bits in memory (11 R211). -/
def fieldW (w : Nat) : Nat := if w ≥ 5 then 8 else if w ≥ 3 then 4 else 2

/-- A native integer type as a format without exponent. -/
def intFmt (sg : Bool) (w : Nat) : Fmt := ⟨sg, 0, w - b2n sg, 0, 0⟩

/-- A value: NaN, an infinity, a zero with its sign, the exact zero of a sum of operands of opposite sign (11 R216 step 6), or
the number (-1)^neg x m x 2^e with m positive. -/
inductive FV where
  | nan
  | inf (neg : Bool)
  | zero (neg : Bool)
  | zsum
  | num (neg : Bool) (m : Nat) (e : Int)
  deriving DecidableEq, Repr

/-- The bit length of a number. -/
def blen (m : Nat) : Nat := if m = 0 then 0 else Nat.log2 m + 1

/-- A sign, a magnitude and an exponent as a value. -/
def FV.mk' (neg : Bool) (m : Nat) (e : Int) : FV := if m = 0 then .zero neg else .num neg m e

/-- An integer as a value. -/
def FV.ofInt (i : Int) : FV := FV.mk' (decide (i < 0)) i.natAbs 0

/-- The value of a code of a format (11 R212). -/
def fval (f : Fmt) (c : Nat) : FV :=
  let m := c % 2 ^ f.mw
  let e := c / 2 ^ f.mw % 2 ^ f.ew
  let s := f.s && decide (c / 2 ^ (f.mw + f.ew) % 2 = 1)
  let top := e + 1 = 2 ^ f.ew
  if f.ew = 0 then FV.ofInt (if f.s then signedN f.width c else ((c % 2 ^ f.width : Nat) : Int))
  else if f.spec = 0 ∧ top ∧ m = 0 then .inf s
  else if f.spec = 0 ∧ top then .nan
  else if f.spec = 1 ∧ top ∧ m + 1 = 2 ^ f.mw then .nan
  else if e = 0 then FV.mk' s m (1 - f.bias - f.mw)
  else .num s (2 ^ f.mw + m) ((e : Int) - f.bias - f.mw)

/-- Whether a code is subnormal: exponent field zero and mantissa not (11 R216 step 2). -/
def subnormal (f : Fmt) (c : Nat) : Bool :=
  decide (f.ew ≠ 0) && decide (c / 2 ^ f.mw % 2 ^ f.ew = 0) && decide (c % 2 ^ f.mw ≠ 0)

/-- The value of an input code, a subnormal read as a zero of its sign when FZ is set (11 R216 step 2). -/
def fin (f : Fmt) (fz : Bool) (c : Nat) : FV :=
  if fz && subnormal f c then .zero (f.s && decide (c / 2 ^ (f.mw + f.ew) % 2 = 1)) else fval f c

/-- The sampled rounding state of one rounding: MODE, FZ and the 24-bit RND (11 R214 to R217). -/
structure RM where
  mode : Nat := 0
  fz : Bool := false
  rnd : Nat := 0
  deriving DecidableEq, Repr

/-- RNE with no flush, in which the fabric, EXP2 and ROUND12 round. -/
def rne : RM := {}

/-- The mixing function of 11 R217. -/
def mix (z : Nat) : Nat :=
  let m := 2 ^ 64
  let z := z ^^^ (z / 2 ^ 30)
  let z := z * 0xBF58476D1CE4E5B9 % m
  let z := z ^^^ (z / 2 ^ 27)
  let z := z * 0x94D049BB133111EB % m
  z ^^^ (z / 2 ^ 31)

/-- RND of a seed and a position word (11 R217). -/
def rnd24 (seed p : Nat) : Nat := fldN (mix (mix (seed % 2 ^ 32) ^^^ (p % 2 ^ 64))) 63 40

/-- The rounding state that a sampled RMODE gives at a position word (11 R214, R215, R217). -/
def rmAt (rmode : Word) (p : Nat) : RM :=
  { mode := fld rmode 2 0, fz := bit rmode 8, rnd := if fld rmode 2 0 = 5 then rnd24 (fld rmode 63 32) p else 0 }

/-- Step 3 of 11 R216: the integer chosen for q = n + rem / den, with 0 ≤ rem < den, by the mode and the sign. -/
def roundN (r : RM) (neg : Bool) (n rem den : Nat) : Nat :=
  match r.mode with
  | 0 => if 2 * rem > den ∨ (2 * rem = den ∧ n % 2 = 1) then n + 1 else n
  | 1 => n
  | 2 => if neg ∧ rem ≠ 0 then n + 1 else n
  | 3 => if ¬ neg ∧ rem ≠ 0 then n + 1 else n
  | 4 => if 2 * rem ≥ den then n + 1 else n
  | _ => if rem * 2 ^ 24 / den > r.rnd then n + 1 else n

/-- m x 2^sh rounded to an integer. A shift far below the last bit is cut: no mode sees the difference. -/
def roundShift (r : RM) (neg : Bool) (m : Nat) (sh : Int) : Nat :=
  if 0 ≤ sh then m * 2 ^ sh.toNat
  else
    let k := min (-sh).toNat (blen m + 30)
    roundN r neg (m / 2 ^ k) (m % 2 ^ k) (2 ^ k)

/-- The code of MAXF, sign bit left out (11 R212). -/
def maxCode (f : Fmt) : Nat :=
  match f.spec with
  | 0 => (2 ^ f.ew - 1) * 2 ^ f.mw - 1
  | 1 => 2 ^ (f.ew + f.mw) - 2
  | _ => 2 ^ (f.ew + f.mw) - 1

/-- The canonical NaN of a format, or +0 where it has none (11 R209, R212, R216). -/
def nanCode (f : Fmt) : Nat :=
  match f.spec with
  | 0 => (2 ^ f.ew - 1) * 2 ^ f.mw + 2 ^ (f.mw - 1)
  | 1 => 2 ^ (f.ew + f.mw) - 1
  | _ => 0

/-- A magnitude code with its sign; a format without a sign bit turns a negative result and -0 into +0 (11 R216 step 7). -/
def withSign (f : Fmt) (neg : Bool) (c : Nat) : Nat :=
  if neg then (if f.s then 2 ^ (f.ew + f.mw) + c else 0) else c

/-- The infinity of a sign, or MAXF where the format has none (11 R216 step 1). -/
def infCode (f : Fmt) (neg : Bool) : Nat :=
  withSign f neg (if f.spec = 0 then (2 ^ f.ew - 1) * 2 ^ f.mw else maxCode f)

/-- The code of an overflow, by mode and sign (11 R216 step 4). -/
def overflow (f : Fmt) (r : RM) (neg : Bool) : Nat :=
  let big := withSign f neg (maxCode f)
  match r.mode with
  | 1 => big
  | 2 => if neg then infCode f neg else big
  | 3 => if neg then big else infCode f neg
  | _ => infCode f neg

/-- Steps 3 to 5 and 7 of 11 R216 for the number (-1)^neg x m x 2^k, m positive. -/
def roundNum (f : Fmt) (r : RM) (neg : Bool) (m : Nat) (k : Int) : Nat :=
  let emin := 1 - f.bias
  let e := max (k + blen m - 1) emin
  let n := roundShift r neg m (k - e + f.mw)
  let c := ((e + f.bias - 1) * (2 ^ f.mw : Nat) + n).toNat
  if c > maxCode f then overflow f r neg
  else if r.fz ∧ c < 2 ^ f.mw then withSign f neg 0
  else withSign f neg c

/-- The least and the greatest value of an integer format of w bits. -/
def intMin (sg : Bool) (w : Nat) : Int := if sg then -((2 ^ (w - 1) : Nat) : Int) else 0
def intMax (sg : Bool) (w : Nat) : Int := if sg then (2 ^ (w - 1) : Nat) - 1 else (2 ^ w : Nat) - 1

/-- An integer cut to the range of an integer format. -/
def saturate (sg : Bool) (w : Nat) (i : Int) : Int := max (intMin sg w) (min (intMax sg w) i)

/-- RoundTo an integer format: round, then saturate; NaN gives 0 (11 R216). -/
def roundToInt (sg : Bool) (w : Nat) (r : RM) : FV → Int
  | .nan => 0
  | .inf true => intMin sg w
  | .inf false => intMax sg w
  | .zero _ => 0
  | .zsum => 0
  | .num neg m e =>
    let n : Int := if blen m + e > w + 2 then (2 ^ (w + 2) : Nat) else roundShift r neg m e
    saturate sg w (if neg then -n else n)

/-- RoundTo of 11 R216, to a code of the format. -/
def roundTo (f : Fmt) (r : RM) (x : FV) : Nat :=
  if f.ew = 0 then wrapN f.width (roundToInt f.s f.width r x)
  else
    match x with
    | .nan => nanCode f
    | .inf neg => infCode f neg
    | .zero neg => withSign f neg 0
    | .zsum => withSign f (decide (r.mode = 2)) 0
    | .num neg m e => roundNum f r neg m e

/-- The number as a signed integer times 2^e. -/
def FV.int : FV → Int
  | .num neg m _ => if neg then -(m : Int) else m
  | _ => 0

/-- The sum of two numbers on the common exponent; an exact zero is marked. -/
def addNum (n1 : Bool) (m1 : Nat) (e1 : Int) (n2 : Bool) (m2 : Nat) (e2 : Int) : FV :=
  let e := min e1 e2
  let a : Int := (m1 : Int) * (2 ^ (e1 - e).toNat : Nat)
  let b : Int := (m2 : Int) * (2 ^ (e2 - e).toNat : Nat)
  let t := (if n1 then -a else a) + (if n2 then -b else b)
  if t = 0 then .zsum else .num (decide (t < 0)) t.natAbs e

/-- The exact sum under IEEE 754 (18 R308). -/
def fadd : FV → FV → FV
  | .nan, _ => .nan
  | _, .nan => .nan
  | .inf a, .inf b => if a = b then .inf a else .nan
  | .inf a, _ => .inf a
  | _, .inf b => .inf b
  | .num n1 m1 e1, .num n2 m2 e2 => addNum n1 m1 e1 n2 m2 e2
  | .num n m e, _ => .num n m e
  | _, .num n m e => .num n m e
  | .zero a, .zero b => if a = b then .zero a else .zsum
  | .zsum, _ => .zsum
  | _, .zsum => .zsum

/-- The negated value. -/
def fneg : FV → FV
  | .inf a => .inf (!a)
  | .zero a => .zero (!a)
  | .num n m e => .num (!n) m e
  | v => v

/-- The sign of a value. -/
def FV.neg : FV → Bool
  | .inf a => a
  | .zero a => a
  | .num n _ _ => n
  | _ => false

/-- Whether a value is a zero, an infinity, a NaN. -/
def FV.isZero : FV → Bool
  | .zero _ => true
  | .zsum => true
  | _ => false
def FV.isInf : FV → Bool
  | .inf _ => true
  | _ => false
def FV.isNan : FV → Bool
  | .nan => true
  | _ => false

/-- The exact product under IEEE 754 (18 R308). -/
def fmul : FV → FV → FV
  | .nan, _ => .nan
  | _, .nan => .nan
  | .inf a, b => if b.isZero then .nan else .inf (a != b.neg)
  | a, .inf b => if a.isZero then .nan else .inf (a.neg != b)
  | .num n1 m1 e1, .num n2 m2 e2 => .num (n1 != n2) (m1 * m2) (e1 + e2)
  | a, b => .zero (a.neg != b.neg)

/-- The order of two numbers that are not NaN, -0 equal to +0: -1, 0 or 1. -/
def fcmp (a b : FV) : Int :=
  match a, b with
  | .inf x, .inf y => if x = y then 0 else if x then -1 else 1
  | .inf x, _ => if x then -1 else 1
  | _, .inf y => if y then 1 else -1
  | a, b =>
    match fadd a (fneg b) with
    | .num n _ _ => if n then -1 else 1
    | _ => 0

/-- a < b with -0 below +0, as MIN and MAX order them (18 R313). -/
def fless (a b : FV) : Bool :=
  if fcmp a b = 0 then a.isZero && b.isZero && a.neg && !b.neg else decide (fcmp a b < 0)

/-- MIN and MAX of two codes (18 R313): a NaN operand gives the canonical NaN. -/
def fminmax (f : Fmt) (fz mx : Bool) (a b : Nat) : Nat :=
  let x := fin f fz a
  let y := fin f fz b
  let out := fun (v : FV) => roundTo f {} v
  if x.isNan || y.isNan then nanCode f else if fless y x = mx then out x else out y

/-- A tree reduction (11 R220, 18 R318): the node over 2^k identifiers combines its lower half, the left operand, with its upper
half; an absent half gives the other's value. h is the node's heap number. -/
def treeRed {α : Type} (op : Nat → α → α → α) : Nat → Nat → Nat → List (Nat × α) → Option α
  | _, _, _, [] => none
  | _, _, _, [(_, v)] => some v
  | 0, _, _, (_, v) :: _ => some v
  | k + 1, base, h, l =>
    let mid := base + 2 ^ k
    let lo := treeRed op k base (2 * h) (l.filter fun p => decide (p.1 < mid))
    let hi := treeRed op k mid (2 * h + 1) (l.filter fun p => decide (mid ≤ p.1))
    match lo, hi with
    | some a, some b => some (op h a b)
    | some a, none => some a
    | none, b => b

/-- Powers of two times an integer, rounded toward minus infinity (11 R218's truncation). -/
def floorShift (i : Int) (sh : Int) : Int :=
  if 0 ≤ sh then i * (2 ^ sh.toNat : Nat) else i / ((2 ^ (-sh).toNat : Nat) : Int)

/-- ⌊log2⌋ of a number's magnitude. -/
def flog2 : FV → Int
  | .num _ m e => e + blen m - 1
  | _ => 0

/-- One term of T: the product scaled so that bit E falls on bit 46, floored (11 R218). -/
def truncTerm (e : Int) : FV → Int
  | .num n m k => floorShift (if n then -(m : Int) else m) (k + 46 - e)
  | _ => 0

/-- BLOCK of 11 R218, to an f32 code. -/
def block (r : RM) (a b : List FV) (sa sb : FV) : Nat :=
  let ps := List.zipWith fmul a b
  if sa.isNan || sb.isNan || ps.any FV.isNan then nanCode f32
  else
    let pinf := ps.any fun p => decide (p = .inf false)
    let ninf := ps.any fun p => decide (p = .inf true)
    if pinf || ninf then
      if (pinf && ninf) || sa.isZero || sb.isZero then nanCode f32 else infCode f32 ninf
    else if ps.all FV.isZero then 0
    else
      let es := (ps.filter fun p => !p.isZero).map flog2
      let e := es.foldl max (es.headD 0)
      let t := (ps.map (truncTerm e)).sum
      let tv := if t = 0 then FV.zsum else .num (decide (t < 0)) t.natAbs (e - 46)
      match tv with
      | .zsum => roundTo f32 r .zsum
      | v => roundTo f32 r (fmul (fmul v sa) sb)

/-- A scale byte's value under SFMT (11 R213). -/
def scaleVal (sfmt c : Nat) : FV :=
  match sfmt with
  | 0 => if c = 0xFF then .nan else .num false 1 ((c : Int) - 127)
  | 1 => if c = 0xFF then .nan else if c / 8 = 0 then FV.mk' false (c % 8) (-17) else .num false (8 + c % 8) ((c / 8 : Nat) - 18)
  | _ => .num false 1 0

/-- The floor of a value as an integer. -/
def FV.floor : FV → Int
  | .num n m e => floorShift (if n then -(m : Int) else m) e
  | _ => 0

/-- EXP2 of 11 R219 on f32 codes. -/
def exp2 (x : Nat) : Nat :=
  match fval f32 x with
  | .nan => nanCode f32
  | .inf neg => if neg then 0 else infCode f32 false
  | v =>
    let n := v.floor
    let f := fadd v (FV.ofInt (-n))
    let stepc := fun (t : Nat) (c : Nat) =>
      roundTo f32 rne (fadd (fval f32 (roundTo f32 rne (fmul (fval f32 t) f))) (fval f32 c))
    let t := [0x3C134806, 0x3D64AA23, 0x3E75EAD4, 0x3F31727B, 0x3F800000].foldl stepc 0x3AF61905
    match fval f32 t with
    | .num s m e => roundTo f32 rne (.num s m (e + n))
    | z => roundTo f32 rne z

/-- The integer square root, by bits from 2^k down: the greatest n with n x n ≤ x found bit by bit. -/
def isqrtBits : Nat → Nat → Nat → Nat
  | 0, _, r => r
  | k + 1, x, r =>
    let r' := r + 2 ^ k
    isqrtBits k x (if r' * r' ≤ x then r' else r)

/-- The integer square root. -/
def isqrt (x : Nat) : Nat := isqrtBits (blen x / 2 + 1) x 0

/-- The result of ROUND12 from its chosen integer n on the grid 2^(e - 11) (18 R321): ±∞ above MAXF, then FZ. -/
def round12 (fz neg : Bool) (n : Nat) (e : Int) : Nat :=
  let v := FV.mk' neg n (e - 11)
  match v with
  | .num neg m k =>
    let c := roundTo f32 { mode := 0, fz := false } (.num neg m k)
    if fz && subnormal f32 c then withSign f32 neg 0 else c
  | z => roundTo f32 rne z

/-- VRCP on an f32 code (18 R321). -/
def recip (fz : Bool) (x : Nat) : Nat :=
  match fin f32 fz x with
  | .nan => nanCode f32
  | .zero neg => infCode f32 neg
  | .zsum => infCode f32 false
  | .inf neg => withSign f32 neg 0
  | .num neg m k =>
    -- ⌊log2 (1 / (m 2^k))⌋: exact powers of two lie on the bound
    let lg : Int := if m = 2 ^ (blen m - 1) then -(k + blen m - 1) else -(k + blen m)
    let e := max lg (-126)
    -- q = 2^(11 - e - k) / m
    let a := (11 - e - k).toNat
    round12 fz neg (roundN rne neg (2 ^ a / m) (2 ^ a % m) m) e

/-- VRSQ on an f32 code (18 R321). -/
def rsqrt (fz : Bool) (x : Nat) : Nat :=
  match fin f32 fz x with
  | .nan => nanCode f32
  | .zero neg => infCode f32 neg
  | .zsum => infCode f32 false
  | .inf neg => if neg then nanCode f32 else 0
  | .num true _ _ => nanCode f32
  | .num false m k =>
    -- x = m' 2^(2h); 1 / sqrt x = 2^(-h) / sqrt m'
    let odd := k % 2 = 1
    let m' := if odd then 2 * m else m
    let h : Int := if odd then (k - 1) / 2 else k / 2
    -- scaled to 64 guard bits: r = ⌊2^64 / sqrt m'⌋ fixes the exponent
    let r := isqrt (2 ^ 128 / m')
    let e := (blen r : Int) - 1 - 64 - h
    -- q = 2^(11 - e - h) / sqrt m'
    let a := (11 - e - h).toNat
    let n := isqrt (2 ^ (2 * a) / m')
    let up := (2 * n + 1) * (2 * n + 1) * m' < 4 * 2 ^ (2 * a)
    let tie := (2 * n + 1) * (2 * n + 1) * m' = 4 * 2 ^ (2 * a)
    round12 fz false (if up ∨ (tie ∧ n % 2 = 1) then n + 1 else n) e

/-! The atomic function (16 R291). -/

/-- The new value of an atomic on a w-bit value m with operand b and compare value c; FADD rounds in r (16 R291). -/
def amoNew (op w m b c : Nat) (r : RM) : Nat :=
  let mm := 2 ^ w
  let b := b % mm
  let c := c % mm
  match op with
  | 0 => b
  | 1 => if m = c then b else m
  | 2 => (m + b) % mm
  | 3 => m &&& b
  | 4 => m ||| b
  | 5 => m ^^^ b
  | 6 => if signedN w m ≤ signedN w b then m else b
  | 7 => if signedN w m ≤ signedN w b then b else m
  | 8 => if m ≤ b then m else b
  | 9 => if m ≤ b then b else m
  | _ => roundTo f32 r (fadd (fin f32 r.fz m) (fin f32 r.fz b))

/-! ### Combining (02 R44 to R46; 11 R220; 23 R371) -/

/-- Bytes of an element of a combining type: 2 i32, 3 i64, 6 n32, 8 f32. -/
def elSize (typ : Nat) : Nat := if typ = 3 then 8 else 4

/-- The types that an operator allows: 0 SUM, 1 MAX, 2 MIN. -/
def combAllowed (op typ : Nat) : Bool :=
  match op with
  | 0 => decide (typ = 2 ∨ typ = 3 ∨ typ = 8)
  | 1 => decide (typ = 2 ∨ typ = 6 ∨ typ = 8)
  | 2 => decide (typ = 2 ∨ typ = 6 ∨ typ = 8)
  | _ => false

/-- Two elements combined, a the left operand. -/
def combEl (op typ : Nat) (r : RM) (a b : Nat) : Nat :=
  match op with
  | 0 => if typ = 8 then roundTo f32 r (fadd (fin f32 r.fz a) (fin f32 r.fz b)) else (a + b) % 2 ^ (8 * elSize typ)
  | _ =>
    let mx := decide (op = 1)
    if typ = 8 then fminmax f32 r.fz mx a b
    else
      let less := if typ = 2 then decide (signedN 32 a < signedN 32 b) else decide (a < b)
      if less = mx then b else a

/-- The rescaling combine of two triples m, s and v (02 R45). -/
def rescale (a b : List Nat) : List Nat :=
  let m := fun (l : List Nat) => fval f32 (l.headD 0)
  let mul := fun (w x : Nat) => fval f32 (roundTo f32 rne (fmul (fval f32 w) (fval f32 x)))
  let big := fun (x : FV) => x.isNan || (x.isInf && !x.neg)
  if big (m a) || big (m b) then a.map fun _ => nanCode f32
  else if (m a).isInf then b
  else if (m b).isInf then a
  else
    let top := fminmax f32 false true (a.headD 0) (b.headD 0)
    let w := fun (l : List Nat) => exp2 (roundTo f32 rne (fadd (m l) (fneg (fval f32 top))))
    top :: List.zipWith (fun x y => roundTo f32 rne (fadd (mul (w a) x) (mul (w b) y))) a.tail b.tail

end Sys2Proof.Machine
end

