-- ==== Sys2Proof/Machine/SMap.lean ====
section
/-! DEFINITION. Sparse data by number: sorted lists of (key, value) pairs, and byte memory in its canonical form. -/

namespace Sys2Proof.Machine

/-- A sorted association list: keys strictly rising. -/
abbrev SMap (α : Type) := List (Nat × α)

/-- The value at a key. -/
def mget {α : Type} : SMap α → Nat → Option α
  | [], _ => none
  | (k, v) :: m, a => if k = a then some v else mget m a

/-- The value at a key, or d. -/
def mgetD {α : Type} (m : SMap α) (a : Nat) (d : α) : α := (mget m a).getD d

/-- The map with a key's value replaced or entered in its place. -/
def mput {α : Type} : SMap α → Nat → α → SMap α
  | [], a, v => [(a, v)]
  | (k, w) :: m, a, v => if a < k then (a, v) :: (k, w) :: m else if a = k then (a, v) :: m else (k, w) :: mput m a v

/-- The map without a key. -/
def mdel {α : Type} (m : SMap α) (a : Nat) : SMap α := m.filter fun p => !decide (p.1 = a)

/-- The map with the value at a key changed by f, from d where the key is not listed. -/
def mupd {α : Type} (m : SMap α) (a : Nat) (d : α) (f : α → α) : SMap α := mput m a (f (mgetD m a d))

/-- A memory: (address, byte) pairs (08 R147), addresses rising, no listed byte equal to what an unlisted address reads as. -/
abbrev Memory := List Host.Cell

/-- What a byte that nothing has written reads as: 0. DESIGN CHOICE (log 7). -/
def unlistedByte : Byte := 0

/-- One byte of memory. -/
def rdByte : Memory → Nat → Byte
  | [], _ => unlistedByte
  | (k, v) :: m, a => if k = a then v else rdByte m a

/-- Memory with one byte written; writing the unlisted value removes the entry, which keeps the canonical form. -/
def wrByte : Memory → Nat → Byte → Memory
  | [], a, v => if v = unlistedByte then [] else [(a, v)]
  | (k, w) :: m, a, v =>
    if a < k then (if v = unlistedByte then (k, w) :: m else (a, v) :: (k, w) :: m)
    else if a = k then (if v = unlistedByte then m else (a, v) :: m)
    else (k, w) :: wrByte m a v

/-- n bytes from a (00 R8: LM[a, n], Mem[pa, n] as bytes). -/
def rdBytes (m : Memory) (a : Nat) : Nat → List Byte
  | 0 => []
  | n + 1 => rdByte m a :: rdBytes m (a + 1) n

/-- Bytes written from a upward. -/
def wrBytes (m : Memory) (a : Nat) : List Byte → Memory
  | [] => m
  | b :: bs => wrBytes (wrByte m a b) (a + 1) bs

/-- n bytes from a, read little-endian (00 R8). -/
def rdLE (m : Memory) (a n : Nat) : Nat := leNat (rdBytes m a n)

/-- The n low bytes of v written at a, little-endian. -/
def wrLE (m : Memory) (a n v : Nat) : Memory := wrBytes m a (leBytes n v)

/-- The canonical form, with every address above lo: addresses strictly rising and no entry that reads as an unlisted one. -/
def memWfFrom : Option Nat → Memory → Bool
  | _, [] => true
  | lo, (k, v) :: m => (lo.all fun l => decide (l < k)) && decide (v ≠ unlistedByte) && memWfFrom (some k) m

/-- Memory.wf: the canonical form holds. -/
def Memory.wf (m : Memory) : Bool := memWfFrom none m

end Sys2Proof.Machine
end

