-- ==== Sys2Proof/Machine/Packet.lean ====
section
/-! DEFINITION. What travels: message headers, stream headers, packets and flits. Plain data. -/

namespace Sys2Proof.Machine

/-- A message header (10 R185), with the two words that a dispatcher-task message adds (06 R113). -/
structure MsgHdr where
  msgid : Nat := 0
  job : Nat := 0
  kernel : Nat := 0
  trank : Nat := 0
  srank : Nat := 0
  tag : Nat := 0
  handler : Nat := 0
  queue : Nat := 0
  prio : Nat := 0
  mkind : Nat := 0
  x6 : Nat := 0
  x7 : Nat := 0
  x8 : Nat := 0
  /-- non-zero when a reserved bit of the header was non-zero (10 R185) -/
  rsv : Nat := 0
  /-- the model's own: earlier restartable aborts of a message that has left its queue for a spill list (07 R126), and of the activation that sent a LAUNCH
  to another chip (07 R135) -/
  aborts : Nat := 0
  deriving DecidableEq, Repr

/-- The first granule of a stream packet (10 R195). -/
structure StrmHdr where
  sid : Nat := 0
  scid : Nat := 0
  seq : Nat := 0
  /-- TYPE of a notice: 1 REROUTE, 2 REACK, 3 CREDIT, 4 ORPHAN, 5 FINACK, 6 RETIRE, 7 BOUNCE -/
  typ : Nat := 0
  /-- kind of the end this packet is addressed to: 0 producer, 1 consumer -/
  ekind : Nat := 0
  sgen : Nat := 0
  pgen : Nat := 0
  nrank : Nat := 0
  cause : Nat := 0
  /-- rank the packet is addressed to -/
  trank : Nat := 0
  /-- rank of the sending end, where an answer goes -/
  srank : Nat := 0
  deriving DecidableEq, Repr

/-- A contribution to, or the result of, an in-switch combining group (02 R44 to R47, 23 R379). -/
structure Contrib where
  cid : Nat := 0
  inc : Nat := 0
  gid : Nat := 0
  round : Nat := 0
  op : Nat := 0
  typ : Nat := 0
  arr : Bool := false
  len : Nat := 0
  /-- the span-list mask of participants -/
  pmask : Nat := 0
  /-- the chips that the mask names -/
  chips : List Nat := []
  chip : Nat := 0
  /-- other chips whose contributions a switch has combined into this one (arrival mode) -/
  also : List Nat := []
  /-- element bit patterns; for RESCALE m, s and then v -/
  vals : List Nat := []
  deriving DecidableEq, Repr

/-- The delivery operand of COPY.M data (02 R42, 23 R370). -/
structure MOperand where
  rankbase : Nat := 0
  setfull : Bool := false
  offset : Nat := 0
  mask : Nat := 0
  deriving DecidableEq, Repr

/-- A lock request or release of the dispatcher (06 R108, R111, R116, R351). -/
structure LockReq where
  /-- die and window entry of the requesting task, and its chip -/
  chip : Nat := 0
  die : Nat := 0
  widx : Nat := 0
  /-- the task's age, which tells it from a later one in the same entry -/
  age : Nat := 0
  reg : Nat := 0
  /-- (element, write) pairs, ascending -/
  locks : List (Nat × Bool) := []
  /-- 0 try, 1 staked acquisition, 2 release, 3 stake placement, 4 stake lift; at an engine, 5: waits until an older stake is lifted -/
  kind : Nat := 0
  /-- all or none in one step (R351) -/
  compound : Bool := false
  /-- stake key: clock, chip, die, slot; none when not staked -/
  key : Option (Nat × Nat × Nat × Nat) := none
  /-- at an engine: the context and incarnation of the message, and the engine's slice -/
  cid : Nat := 0
  inc : Nat := 0
  eng : Nat := 0
  deriving DecidableEq, Repr

/-- A contribution to an ordered reduction (23 R371): its group's shape, where the result goes, the contributor's rank and its values. -/
structure RedC where
  tag : Nat := 0
  n : Nat := 1
  op : Nat := 0
  typ : Nat := 0
  rmode : Nat := 0
  /-- the destination's NI, slot and local address; own: the contributor's own LM, which its command has checked -/
  dst : Nat := 0
  slot : Nat := 0
  addr : Nat := 0
  own : Bool := false
  full : Bool := false
  rank : Nat := 0
  vals : List Nat := []
  /-- how many elements the whole contribution has: a packet carries up to 256 granules of it (02 R28) -/
  total : Nat := 0
  deriving DecidableEq, Repr

/-- A kernel (05 R85, R86, R89). State: 0 WAITING, 1 READY, 2 RUNNING, 3 DONE, 4 CANCELLED, 5 KILLED. -/
structure Kernel where
  kid : Nat
  cid : Nat
  inc : Nat
  die : Nat
  state : Nat := 0
  /-- the cycle in which it became READY (05 R91) -/
  age : Nat := 0
  wq : Nat := 0
  wmask : Word := 0
  sq : Nat := 0
  smask : Word := 0
  job : Nat := 0
  prio : Nat := 0
  subtag : Word := 0
  budget : Nat := 0
  args : Nat := 0
  handler : Nat := 0
  queue : Nat := 0
  crew : Nat := 1
  gang : Nat := 1
  shape : Nat := 0
  paired : Bool := false
  plen : Nat := 0
  /-- the ranks its mask names, in mask order (05 R85) -/
  ranks : List Nat := []
  /-- element kernel (06 R106) -/
  adj : Nat := 0
  radius : Nat := 0
  place : Nat := 0
  first : Nat := 0
  count : Nat := 0
  live : Int := 0
  qentry : Bool := true
  /-- gates armed and not yet dropped: row numbers (05 R93) -/
  gates : List Nat := []
  /-- gangs armed so far; whether the places of all of them have been checked, and the gangs, or the first gangs of crews, that this chip has still to arm -/
  armed : Nat := 0
  placed : Bool := false
  todo : List Nat := []
  /-- the initial elements of each die, numbered 2 x chip + die, while they are being handed over (06 R106) -/
  hand : List (Nat × List Nat) := []
  deriving DecidableEq, Repr

/-- A registered adjacency record (06 R103, R104) with its page snapshot. -/
structure AdjReg where
  cid : Nat
  inc : Nat
  num : Nat
  nelem : Nat
  blkshift : Nat
  off : Nat
  nbr : Nat
  map : Nat
  recAddr : Nat
  /-- (virtual 32 KiB page, physical page) -/
  pages : SMap Nat
  /-- H: where its hold words begin in the hold stores of the owners' dies (21 R350) -/
  hbase : Nat := 0
  /-- the die of this chip at which it was registered, in whose hold store the snapshot lies (08 R166); none where another chip registered it -/
  home : Option Nat := none
  deriving DecidableEq, Repr

/-- The operation a packet carries (02 R30) and its operand granules (16 R294). -/
inductive Body where
  | load (addr w tok : Nat)
  | store (addr w : Nat) (val : Word) (full : Bool) (tok : Nat)
  | subStore (addr off size : Nat) (val : Word) (tok : Nat)
  | amo (addr op w : Nat) (b c rmode : Word) (tok : Nat)
  | hins (addr : Nat) (newer : Bool) (key data : Word) (tok : Nat)
  | engWrite (addr : Nat) (val : Word) (full poison : Bool) (tok : Nat)
  | engRead (addr tok : Nat)
  | arm (addr : Nat) (expect : Word) (tok : Nat)
  | rowLd (addr w : Nat) (sx : Bool) (tok : Nat)
  /-- a full/empty form on the row channel: 0 LD.F, 1 FEC, 2 FES with the new bit -/
  | rowFe (addr kind : Nat) (v : Word) (tok : Nat)
  | rowSt (addr w : Nat) (val : Word) (full : Bool) (tok : Nat)
  | msg (h : MsgHdr) (pay : List Byte) (poison : Bool)
  | handle (h : MsgHdr) (h0 h1 i0 i1 i2 : Word)
  | launch (h : MsgHdr) (mask : Nat) (pay : List Byte)
  | item (h : StrmHdr) (items : List Word) (poison : Bool)
  | eos (h : StrmHdr) (word : Word)
  | notice (h : StrmHdr)
  | ksub (rec : List Word) (tok : Nat)
  | setev (q : Nat) (mask : Word) (clr : Bool)
  | dspn (h : MsgHdr) (elem : Nat) (pay : List Byte)
  | jcan (job tok : Nat)
  | adjreg (reg addr tok : Nat)
  | lock (r : LockReq)
  | lockRsp (r : LockReq) (granted : Bool) (older : Bool) (clock : Nat)
  | rdata (tok : Nat) (val : Word) (poison : Bool)
  | amorsp (tok : Nat) (val : Word)
  | status (tok cause : Nat)
  | marker (count tok : Nat)
  | fenceack (tok cause : Nat)
  | bfack (mtag : Nat) (drop : Bool)
  | e2eack (cls next : Nat)
  | mdata (mtag : Nat) (bitmap : List Nat) (o : MOperand) (words : List (Word × Bool)) (standsFor : Option Nat)
  /-- RED data: a whole contribution of an ordered reduction, or one word of one in arrival mode -/
  | redc (c : RedC) (tok : Nat)
  | redw (addr op typ rmode : Nat) (vals : List Nat) (full : Bool) (tok : Nat)
  | contrib (c : Contrib)
  | result (c : Contrib) (mtag : Nat) (status : Nat)
  | bcast (bcid binc : Nat)
  | mgmt (code arg : Nat)
  /-- an adjacency registration for another chip's dispatchers, a question whether it can be dropped, or its drop: 0, 1 or 2 (log 49) -/
  | adjcopy (a : AdjReg) (what tok : Nat)
  deriving DecidableEq, Repr

/-- A packet (02 R28, R29). Agents are numbers chip x 2^16 + DAGENT. -/
structure Packet where
  dst : Nat := 0
  src : Nat := 0
  cls : Nat := 0
  op : Nat := 0
  cid : Nat := 0
  inc : Nat := 0
  seq : Nat := 0
  /-- a response: the SEQ and the class of the request that it answers (02 R29) -/
  rseq : Nat := 0
  rcls : Nat := 0
  slot : Nat := 0
  mcast : Bool := false
  comb : Bool := false
  /-- reserved header bits as received -/
  rsv : Nat := 0
  /-- the sender's token for its unacknowledged set (09 R168); no part of the header -/
  tok : Nat := 0
  /-- the effective attribute of the translated access is uncached (08 R149, R154) -/
  unc : Bool := false
  /-- payload granules, 0 to 256 -/
  len : Nat := 0
  /-- its data words carry poison (04 R68) -/
  bad : Bool := false
  body : Body
  /-- what the kernel that the header names is: the model's own, for chips whose schedulers do not hold it (log 49) -/
  kinfo : Option Kernel := none
  deriving DecidableEq, Repr

/-- A flit (01 R18): the header's fields, the payload and the CRC as received. -/
structure Flit where
  lseq : Nat := 0
  ackseq : Nat := 0
  kind : Nat := 0
  cls : Nat := 0
  crcnt : Nat := 0
  crcls : Nat := 0
  rsv : Nat := 0
  payload : List Byte := []
  crc : Nat := 0
  deriving DecidableEq, Repr

/-- A packet of the Ultra Ethernet transport (25 R383 to R385). -/
structure NicPkt where
  /-- sending endpoint: address tag, context, die -/
  from_ : Nat := 0
  scid : Nat := 0
  /-- the sender's peer table entry: packets and messages are numbered for each sending context and peer (25 R383) -/
  peer : Nat := 0
  /-- receiving endpoint: the peer entry's address words -/
  toLo : Nat := 0
  toHi : Nat := 0
  psn : Nat := 0
  /-- 0 SEND data, 1 WRITE data -/
  kind : Nat := 0
  jobid : Nat := 0
  pid : Nat := 0
  ridx : Nat := 0
  msgno : Nat := 0
  offset : Nat := 0
  total : Nat := 0
  rva : Nat := 0
  rkey : Nat := 0
  data : List Byte := []
  deriving DecidableEq, Repr

end Sys2Proof.Machine
end

