-- ==== Sys2Proof/Machine/CoreTypes.lean ====
section
/-! DEFINITION. The state of one core and its NI (07, 10, 12). Plain data. -/

namespace Sys2Proof.Machine

/-- One level of the hardware loop stack (14 R269). -/
structure LoopLvl where
  start : Word
  stop : Word
  count : Nat
  deriving DecidableEq, Repr

/-- A tile z: its clear mark and its words that are not zero, word (i, j) at key 128 i + j (07 R128, 12 R221); bad: its poisoned words (04 R68). -/
structure Tile where
  clear : Bool := true
  w : SMap (BitVec 32) := []
  bad : List Nat := []
  deriving DecidableEq, Repr

/-- A resident: the context, incarnation and rank a slot holds (07 R123). -/
structure Resident where
  cid : Nat
  inc : Nat
  rank : Nat
  deriving DecidableEq, Repr

/-- A message in a handler queue: header, sender's CID and INC, and its LAND blocks (07 R126). -/
structure QMsg where
  hdr : MsgHdr
  cid : Nat
  inc : Nat
  addr : Nat
  len : Nat
  aborts : Nat := 0
  poison : Bool := false
  /-- bytes as they landed, for a save area (15 R281) -/
  pay : List Byte := []
  /-- the end-of-stream end this message belongs to (10 R196): SCID and SID -/
  eosEnd : Option (Nat × Nat) := none
  /-- the dispatcher task behind it: die and age in the window (06 R112) -/
  task : Option (Nat × Nat) := none
  /-- a gang or crew launch behind its gate (05 R93) -/
  gate : Bool := false
  /-- its place in the order of arrival at this package's NIs (07 R126) -/
  seq : Nat := 0
  /-- a launch message whose payload, in `pay`, waits for the blocks that the running activation still holds (07 R126) -/
  late : Bool := false
  /-- rows that a paired message whose copies differed does not run on again (04 R71) -/
  avoid : List Nat := []
  deriving DecidableEq, Repr

/-- A handler queue with what ageing needs (05 R90, R91). -/
structure HQueue where
  msgs : List QMsg := []
  served : Nat := 0
  age : Nat := 0
  bump : Nat := 0
  deriving DecidableEq, Repr

/-- The slot state (07 R123, R125, R126, R128; 12 R227, R228). rg: CODE, FRAME, LAND, P0 to P3. -/
structure Slot where
  resident : Option Resident := none
  rg : Vector Word 7 := Vector.replicate 7 0
  xb : Word := 0
  trapvec : Word := 0
  mb : Vector Word 8 := Vector.replicate 8 0
  handlers : SMap (BitVec 32) := []
  queues : Vector HQueue 4 := Vector.replicate 4 {}
  deriving DecidableEq, Repr

/-- An end record (10 R190). Kind 0 producer, 1 consumer; state as STRSTAT codes it. -/
structure EndRec where
  scid : Nat
  sid : Nat
  kind : Nat
  slot : Nat
  /-- the resident that holds the end, or whose forwarding record this is: its CID and rank (10 R208) -/
  res : Nat × Nat := (0, 0xFFFF)
  state : Nat
  prev : Nat := 1
  gen : Nat := 0
  ocid : Nat
  oinc : Nat
  peerRank : Nat := 0
  peerGen : Nat := 0
  fwd : Nat := 0
  cause : Nat := 0
  nextSeq : Nat := 0
  relSeq : Nat := 0
  popSeq : Nat := 0
  /-- POPSEQ when the running activation started: where a restartable abort returns to (07 R134) -/
  popMark : Nat := 0
  /-- consumer: sequence of the next item to be written to the ring -/
  wrSeq : Nat := 0
  rsize : Nat := 0
  rbase : Nat := 0
  /-- the setting: TAG, EHND, EQ (10 R188) and the kernel it is counted in -/
  tag : Nat := 0
  ehnd : Nat := 0
  eq : Nat := 0
  setKernel : Option Nat := none
  fwdRank : Nat := 0
  reack : Option Nat := none
  /-- forwarding record of a consumer: every item below this number has been forwarded, and so have these beyond it (10 R202) -/
  fwdDone : Nat := 0
  fwdAhead : List Nat := []
  /-- end-of-stream word received and not yet delivered -/
  eosWord : Option Word := none
  /-- items beyond a gap, or items for an end with no ring, and which of them are poisoned (04 R69) -/
  held : SMap Word := []
  heldBad : List Nat := []
  /-- the end-of-stream word came poisoned -/
  eosBad : Bool := false
  /-- notices and words held by a PENDING record (10 R196) -/
  heldPk : List Packet := []
  /-- created by the running activation (10 R187) -/
  fresh : Bool := false
  deriving DecidableEq, Repr

/-- The key of an end record at an NI (10 R187): SCID, SID, kind. -/
abbrev EndKey := Nat × Nat × Nat

/-- What a send-buffer entry does when it leaves (07 R130). -/
inductive Effect where
  | msg (h : MsgHdr) (pay : List Byte)
  | handle (h : MsgHdr) (h0 h1 : Word) (e : EndKey)
  | launch (h : MsgHdr) (mask : Nat) (pay : List Byte)
  | ksub (rec : List Word) (die tok : Nat)
  | dspn (h : MsgHdr) (elem : Nat) (pay : List Byte)
  | setev (q : Nat) (mask : Word) (clr : Bool)
  | jcan (job tok : Nat)
  | store (g w : Nat) (val : Word) (full : Bool)
  | subStore (g off size : Nat) (val : Word)
  | streos (e : EndKey) (value : Nat)
  | push (e : EndKey) (items : List Word)
  /-- an operation that a paired activation compares and issues once (04 R71): it is folded and never leaves as an entry -/
  | op (words : List Word)
  deriving DecidableEq, Repr

/-- A send-buffer entry: the effect, its payload bytes (R130) and the messages it counts (05 R89). -/
structure SbEntry where
  eff : Effect
  bytes : Nat
  counted : Nat
  tok : Nat
  /-- its payload carries poison (04 R68) -/
  poison : Bool := false
  deriving DecidableEq, Repr

/-- How a returned value is written to its register. -/
inductive RetKind where
  | load (w : Nat) (sx : Bool)
  | amo (w : Nat)
  | hins
  | answer
  | arm
  | stg
  | marker
  /-- a word of a fused window, by its number, for an instruction that gathers words (09 R173) -/
  | rowWord (w : Nat)
  /-- LD.F or FEC of another member's word, which asks again where it was empty -/
  | fe
  deriving DecidableEq, Repr

/-- An entry of the outstanding table (09 R168). -/
structure OutE where
  tok : Nat
  rd : Nat
  kind : RetKind
  g : Nat
  /-- false once the activation that issued it has ended: its answer is dropped (09 R184) -/
  live : Bool := true
  /-- the CID and INC for which it was issued -/
  own : Nat × Nat := (0, 0)
  deriving DecidableEq, Repr

/-- A flushed effect not yet acknowledged (09 R168), tagged with its target agent and, for a store, its address. -/
structure UnE where
  tok : Nat
  target : Nat
  g : Nat
  w : Nat
  msgid : Nat
  /-- its target has applied or dropped it, and the ACK step is due (09 R169) -/
  applied : Bool := false
  /-- a message: the context and rank it was sent to (05 R98) -/
  rank : Option (Nat × Nat) := none
  /-- a LAUNCH to another chip: the ranks of its copies -/
  ranks : List Nat := []
  /-- the CID and INC for which it left -/
  own : Nat × Nat := (0, 0)
  /-- the rank, kernel and earlier restartable aborts of the activation for which it left (07 R135) -/
  by_ : Nat × Nat × Nat := (0xFFFF, 0, 0)
  deriving DecidableEq, Repr

/-- Where the instruction at the scalar issue point stands, for one that takes several steps. -/
inductive Wait where
  | idle
  /-- its flush is in progress -/
  | flush
  /-- drained: waiting for the acknowledgement of stores to its bytes (09 R171) -/
  | drain
  /-- translation asked from the RTU under this token (16 R293) -/
  | xl (tok : Nat)
  /-- translated, with the uncached attribute or without (08 R154) -/
  | xlOk (pa : Nat) (unc : Bool)
  | xlFail (cause : Nat)
  /-- an acquire waits for its RETURN (09 R176) -/
  | ret (tok : Nat)
  /-- WAITM sleeps (09 R182) -/
  | armed (tok : Nat)
  | woke (reason : Nat)
  /-- BAR or CREWBAR waits for the phase to leave p (07 R143) -/
  | barrier (p : Nat)
  /-- FENCE: flush done, waiting under 09 R174; markers sent to other chips -/
  | fence (marked : Bool)
  /-- a supervisor instruction waits for its acknowledgements, and then has its status -/
  | sup (tok : Nat)
  | supDone (status : Nat)
  /-- an operation of a paired activation waits for the comparison, and then for its being issued once (04 R71) -/
  | pairOp
  deriving DecidableEq, Repr

/-- A command in the FIFO (12 R236, R238): the four words with the sampled fields, and the side store. -/
structure Cmd where
  w0 : Word
  w1 : Word
  w2 : Word
  w3 : Word
  fmta : Word := 0
  fmtb : Word := 0
  fmtc : Word := 0
  fmts : Word := 0
  seed : Nat := 0
  rd : Nat := 0
  tok : Nat := 0
  slot : Nat := 0
  cid : Nat := 0
  inc : Nat := 0
  /-- the slot's INH when CMD placed it, and the inherited tiles (07 R132) -/
  inh : Bool := false
  /-- the issuing activation still runs, so the status is written and pushed (23 R356) -/
  live : Bool := true
  /-- a paired activation's command issued once: its completion signals go to both copies (04 R71) -/
  mirror : Bool := false
  /-- the cycle in which CMD placed it -/
  at_ : Nat := 0
  deriving DecidableEq, Repr

/-- A started command at its engine (23 R355). -/
structure RunCmd where
  cmd : Cmd
  /-- order of acceptance in the package -/
  ord : Nat := 0
  /-- element operations: how many, which are issued, which applied or refused, and how many of these refused or lost (23 R369) -/
  total : Nat := 0
  asked : List Nat := []
  done_ : List Nat := []
  refused : Nat := 0
  /-- source words that have come back from their homes, by the number under which they were asked for, and whether each is poisoned; the numbers of
  those asked for and not yet back -/
  reads : SMap (Word × Bool) := []
  pend : List Nat := []
  /-- blocks or items completed -/
  prog : Nat := 0
  /-- an element operation waits at the RTU (23 R365) -/
  stalled : Bool := false
  /-- a matrix fetch has failed, and the command ends once it has come to the block (23 R365) -/
  failed : Bool := false
  /-- the block of a matrix command whose fetch waits or has failed; 0 of other commands -/
  stallAt : Nat := 0
  /-- MMA.G: its gang, whether the eight slices have joined, the step within the block, and the block's operands as fetched: codes of A and B, scales of
  A and B (23 R363) -/
  gang : Option Nat := none
  joined : Bool := false
  sub : Nat := 0
  ops : Option (List Nat × List Nat × List Nat × List Nat) := none
  /-- status, AUX and VALUE once the command has ended -/
  result : Option (Nat × Nat × Nat) := none
  /-- the cycle in which CMD placed it, or its contribution left -/
  started : Nat := 0
  deriving DecidableEq, Repr

/-- A standing loop, or one being set up (18 R323, R324). -/
structure StandLoop where
  slot : Nat
  body : List IWord
  rmode : Word
  fmta : Word
  fmtb : Word
  fmtc : Word
  fmts : Word := 0
  iter : Nat := 0
  endk : EndKey
  /-- 0 set up, 1 standing, 2 ended with its end-of-stream activation to come or running -/
  phase : Nat := 0
  /-- the body instruction at which the iteration in progress stands blocked on a queue register, and the RMODE it sampled -/
  mid : Option (Nat × Word) := none
  deriving DecidableEq, Repr

/-- The running activation (07 R127, R133, R134). -/
structure Act where
  slot : Nat := 0
  queue : Nat := 0
  handler : Nat := 0
  msg : QMsg
  cid : Nat := 0
  inc : Nat := 0
  rank : Nat := 0
  /-- entry x6, x7, x8, which a successor receives again (20 R339) -/
  e6 : Word := 0
  e7 : Word := 0
  e8 : Word := 0
  /-- inherited tiles (20 R339) -/
  tiles : Nat := 0
  gang : Option Nat := none
  /-- it was started from its handler queue, not from a gate, as a second copy, or as a successor (05 R91) -/
  fromQ : Bool := true
  /-- a paired activation: the core in whose queue its message stood -/
  home : Option Nat := none
  /-- restart point of a successor: payload address, length, tag (07 R134) -/
  succ : Option (Nat × Nat × Nat) := none
  deriving DecidableEq, Repr

/-- A cached rank entry (05 R96). -/
structure RankE where
  cid : Nat
  rank : Nat
  entry : Word
  deriving DecidableEq, Repr

/-- A monitor armed at a home (09 R182): block address, the core and its token. -/
structure Monitor where
  /-- true: LM of the core key `home`; false: physical memory -/
  lm : Bool
  home : Nat
  block : Nat
  core : Nat
  tok : Nat
  /-- the arming request, when a core of another chip sent it -/
  far : Option Packet := none
  deriving DecidableEq, Repr

/-- One core with its NI. -/
structure Core where
  x : Vector Word 32 := Vector.replicate 32 0
  v : Vector VWord 32 := Vector.replicate 32 0
  k : Vector KWord 8 := Vector.replicate 8 0
  z : Vector Tile 8 := Vector.replicate 8 {}
  q : Vector (List Word) 4 := Vector.replicate 4 []
  /-- poisoned registers, x r as r, v r as 64 + r, k r as 128 + r, and poisoned entries of queue registers: register and place from the head (04 R68) -/
  badRegs : List Nat := []
  badQ : List (Nat × Nat) := []
  sbind : Vector (Option EndKey) 16 := Vector.replicate 16 none
  vqbind : Option EndKey := none
  pc : Word := 0
  loops : List LoopLvl := []
  rmode : Word := 0
  fmta : Word := 0
  fmtb : Word := 0
  fmtc : Word := 0
  fmts : Word := 0
  restart : Bool := true
  trapped : Bool := false
  inh : Bool := false
  pair : Bool := false
  pend : Bool := false
  clrby : Nat := 0
  aborts : Nat := 0
  wdog : Nat := 0
  hold : Bool := false
  trapcause : Word := 0
  trappc : Word := 0
  trapaddr : Word := 0
  /-- pending registers (12 R223): register number and the token that will write it -/
  pendx : List (Nat × Nat) := []
  /-- the instruction at the issue point: words of LM, by number, that it has read so far, each with its poison; and how many units it has stored
  (09 R173, R177) -/
  vgot : SMap (Word × Bool) := []
  vpos : Nat := 0
  /-- a trap owed at the next instruction boundary (12 R235): cause and the address it concerns -/
  owed : Option (Nat × Option Word) := none
  sb : List SbEntry := []
  /-- entries of the flush in progress still to leave; none: no flush -/
  flush : Option Nat := none
  /-- reports of the flush in progress that the scheduler has not yet acknowledged (05 R89) -/
  rptWait : Nat := 0
  /-- the model's own: how many activations have ended here, which tells this one's acknowledgements from earlier ones' -/
  rptId : Nat := 0
  /-- the spawn of the flush in progress that has gone to another chip's dispatcher, by its token, and whether it has entered that spawn queue (06 R115) -/
  spawnSent : Option (Nat × Bool) := none
  /-- the report of the flush in progress already counts the activation's end (05 R89) -/
  exited : Bool := false
  out : List OutE := []
  unack : List UnE := []
  wait : Wait := .idle
  /-- the token and the virtual address of the translation granted to the instruction at the issue point: the token its request will carry (08 R162) -/
  grant : Option (Nat × Nat) := none
  /-- elements that a SENDNZ in stream form has already scanned (20 R331) -/
  scan : Nat := 0
  tok : Nat := 1
  fifo : List Cmd := []
  run : List RunCmd := []
  /-- the command whose status waits for room in a full queue register, which blocks the tile-command stream (07 R140) -/
  blocked : Option Nat := none
  act : Option Act := none
  ends : List EndRec := []
  rcache : List RankE := []
  transit : List Packet := []
  /-- invalidations of ranks not yet acknowledged: cid and rank (05 R98) -/
  invq : List (Nat × Nat) := []
  cancel : List (Nat × Bool) := []
  stale : Nat := 0
  strmdrop : Nat := 0
  sealed_ : Bool := false
  stopped : Bool := false
  lm : Memory := []
  /-- full words: local address / 8, ascending (09 R180) -/
  fe : List Nat := []
  /-- poisoned words: local address / 8 (04 R68) -/
  poison : List Nat := []
  slots : Vector Slot 4 := Vector.replicate 4 {}
  loop : Option StandLoop := none
  /-- the gang and the crew of which the core was most recently a member (20 R341) -/
  gangRec : Option Nat := none
  crewRec : Option Nat := none
  /-- gate messages waiting for this core (05 R93): kernel, slot and message -/
  gates : List (Nat × Nat × QMsg) := []
  /-- targets (chip x 2 + die) of counted stores since the last fabric fence (02 R39) -/
  storedTo : List Nat := []
  /-- a successor that waits for the core's started commands to end (07 R133, R134) -/
  succ : Option Act := none
  /-- live-count deltas of consumer settings made since the last flush report: kernel and number (10 R188) -/
  settings : List (Nat × Int) := []
  /-- paired dispatch (04 R71): the other copy's core, the effects folded so far, and when this copy reached the comparison -/
  twin : Option Nat := none
  folded : List SbEntry := []
  cmpAt : Option Nat := none
  deriving DecidableEq, Repr

end Sys2Proof.Machine
end

