-- ==== Sys2Proof/Machine/DieTypes.lean ====
section
/-! DEFINITION. The state of the die's and the package's other agents (01 to 06, 08, 10, 23). Plain data. -/

namespace Sys2Proof.Machine

/-- A combined translation a TLB holds (08 R155). -/
structure TlbE where
  cid : Nat
  /-- virtual page base, page size in bytes, physical base -/
  va : Nat
  size : Nat
  pa : Nat
  /-- partition page base, for a stage-2 invalidation -/
  part : Nat
  pid : Nat
  rd : Bool
  wr : Bool
  at_ : Bool
  unc : Bool
  rpmask : Nat
  deriving DecidableEq, Repr

/-- A request at an RTU (08 R155 to R158). -/
structure XReq where
  /-- requesting agent and, when it is a core, its key -/
  agent : Nat
  core : Nat
  cls : Nat
  cid : Nat
  inc : Nat
  va : Nat
  /-- 0 load, 1 store, 2 atomic or insert -/
  acc : Nat
  tok : Nat
  /-- the packet to send on; none: the requester holds its issue point and is told the address -/
  pkt : Option Packet
  /-- row pair, when RPMASK applies (08 R154) -/
  rp : Option Nat
  deriving DecidableEq, Repr

/-- A walker (08 R155, R156): the walk's next stage-1 level and node, and the requests joined to it. -/
structure Walker where
  cid : Nat
  va : Nat
  lvl : Nat
  node : Nat
  reqs : List XReq
  /-- a read of it is held by a migration window, and the pages from which such a read has gone on: base, size and new page (08 R163) -/
  held : Bool := false
  moved : List (Nat × Nat × Nat) := []
  deriving DecidableEq, Repr

/-- An occupied fault slot (08 R158 to R160). -/
structure FSlot where
  idx : Nat
  kind : Nat
  level : Nat
  why : Nat
  seq : Nat
  va : Nat
  paddr : Nat
  cid : Nat
  inc : Nat
  acc : Nat
  reqs : List XReq
  since : Nat
  deriving DecidableEq, Repr

/-- A walk-cache entry (08 R155): the node of a level for the addresses with a given upper part; at level 0, the stage-2 translation of a stage-1 node:
its partition address and its physical address. -/
structure WcE where
  cid : Nat
  lvl : Nat
  /-- the address above that level's index -/
  pre : Nat
  /-- the node's partition address -/
  node : Nat
  pid : Nat
  deriving DecidableEq, Repr

/-- A row translation unit (08 R155). -/
structure Rtu where
  tlb : List TlbE := []
  wcache : List WcE := []
  walkers : List Walker := []
  fslots : List FSlot := []
  seq : Nat := 0
  queue : List XReq := []
  mig : List XReq := []
  /-- invalidations applied and to be acknowledged: operation token, and the (core, token) pairs of requests that DRAIN waits for -/
  invs : List (Nat × List (Nat × Nat)) := []
  deriving DecidableEq, Repr

/-- A live-count report on its way to the scheduler (05 R89). -/
structure Report where
  kernel : Nat
  delta : Int
  /-- the core that waits for the acknowledgement, and 2048 x its RPTID; 2^64 x (chip + 1) more for one of another chip -/
  ackTo : Option Nat
  deriving DecidableEq, Repr

/-- A gang on one row, or a crew on one die (07 R142, R143). -/
structure Gang where
  gid : Nat
  kernel : Nat
  /-- core keys in rank order: the positions -/
  members : List Nat
  present : List Nat
  arrived : List Nat := []
  /-- arrivals made and not yet recorded; a second one waits for the phase to advance (20 R340) -/
  again : List Nat := []
  ph : Nat := 0
  size : Nat
  row : Nat
  crew : Option Nat := none
  isCrew : Bool := false
  /-- the region words of its members that are fused, from its start to its end (07 R139) -/
  fused : List Word := []
  deriving DecidableEq, Repr

/-- A failure record to be written (07 R135). -/
structure FailRec where
  cause : Nat
  kind : Nat
  inc : Nat
  cid : Nat
  aborts : Nat := 0
  rank : Nat := 0xFFFF
  msgid : Nat := 0
  subtag : Word := 0
  detail : Word := 0
  /-- the context whose queue takes the record, when it is not the record's own (22 R353) -/
  dest : Option Nat := none
  deriving DecidableEq, Repr

/-- A hold word (06 R107). -/
structure HoldW where
  cid : Nat
  reg : Nat
  elem : Nat
  w : Bool := false
  readers : Nat := 0
  wchip : Nat := 0
  wdie : Nat := 0
  widx : Nat := 0
  /-- the standing stake's key: clock, chip, die, slot -/
  stake : Option (Nat × Nat × Nat × Nat) := none
  deriving DecidableEq, Repr

/-- A dispatcher task in the window (06 R111 to R116). -/
structure Task where
  /-- age: unique within the die -/
  age : Nat
  widx : Nat
  kernel : Nat
  cid : Nat
  inc : Nat
  reg : Nat
  elem : Nat
  radius : Nat
  pay : List Byte := []
  spawned : Bool := false
  tag : Nat := 0
  srank : Nat := 0xFFFF
  fails : Nat := 0
  failedAt : Nat := 0
  /-- it has failed since the last release on the die over its registration (06 R111 step 3) -/
  failedSince : Bool := false
  aborts : Nat := 0
  /-- 0 pending, 1 tries in flight, 2 waits for a stake slot, 3 staked, 4 issued, 5 waits behind an older stake, 6 to be issued -/
  state : Nat := 0
  locks : List (Nat × Bool) := []
  granted : List (Nat × Bool) := []
  refused : Bool := false
  waiting : Nat := 0
  /-- identifier of the message that an issued task became (06 R112) -/
  msgid : Nat := 0
  /-- target rank of the issued task -/
  rank : Nat := 0
  key : Option (Nat × Nat × Nat × Nat) := none
  /-- its payload carries poison (04 R68) -/
  poison : Bool := false
  deriving DecidableEq, Repr

/-- A spawn in the spawn queue (06 R115). -/
structure Spawn where
  kernel : Nat
  cid : Nat
  inc : Nat
  elem : Nat
  tag : Nat
  srank : Nat
  pay : List Byte
  poison : Bool := false
  deriving DecidableEq, Repr

/-- A cursor over a kernel's initial elements of one die (06 R106): those that the die owned when it was handed over and that have not entered the
window, ascending. -/
structure Cursor where
  kernel : Nat
  elems : List Nat
  deriving DecidableEq, Repr

/-- An issued task whose chain has ended and whose locks are not yet released (06 R114): its age, whether it returns to the window, and the core it
ran on with the token from which effects are later ones. -/
structure EndedTask where
  age : Nat
  again : Bool
  core : Nat
  tok : Nat
  deriving DecidableEq, Repr

/-- A die's dispatcher with its lock engines (06 R108, R111, R116, R120). -/
structure Dispatcher where
  window : List Task := []
  spawnq : List Spawn := []
  cursors : List Cursor := []
  nextAge : Nat := 0
  clock : Nat := 0
  /-- the clock of each slice's lock engine -/
  engClocks : SMap Nat := []
  stakes : List Nat := []
  fails : Nat := 0
  waiters : List LockReq := []
  ended : List EndedTask := []
  deriving DecidableEq, Repr

/-- A resident's list in the overflow store (05 R99, 07 R126, 10 R201). -/
structure OvList where
  cid : Nat
  rank : Nat
  items : List (Packet × Nat) := []
  trapped : Bool := false
  deriving DecidableEq, Repr

/-- A threshold unit (04 R83). -/
structure Thr where
  ctl : Word := 0
  thresh : Word := 0
  target : Word := 0
  /-- the selected counter's count when ARM was last set -/
  base : Nat := 0
  deriving DecidableEq, Repr

/-- Queue registers of a context (07 R136, 23 R375). -/
structure QRegs where
  fqbase : Word := 0
  fqsize : Word := 4
  frbase : Word := 0
  frsize : Word := 4
  nicid : Word := 0
  deriving DecidableEq, Repr

/-- A migration window (08 R163) and the requests it holds. -/
structure MigWin where
  w0 : Word := 0
  w1 : Word := 0
  held : List Packet := []
  deriving DecidableEq, Repr

/-- A resident that the scheduler moved away from a row under test: where it was and where it is (04 R72). -/
structure Away where
  res : Resident
  core : Nat
  slot : Nat
  nowCore : Nat
  nowSlot : Nat
  deriving DecidableEq, Repr

/-- A row's power and test state (04 R72, R75 to R77). -/
structure RowSt where
  powered : Bool := false
  step : Nat := 7
  target : Nat := 7
  cause : Nat := 0
  idle : Bool := true
  changes : Nat := 0
  /-- demands standing: (cause, step) -/
  demands : List (Nat × Nat) := []
  /-- step changes asked of the ramp controller and not yet granted: (when, up) -/
  asked : List (Nat × Bool) := []
  fenced : Bool := false
  testing : Bool := false
  lastTest : Nat := 0
  away : List Away := []
  taint : List (Nat × Nat × Nat × Nat) := []
  taintOver : Bool := false
  /-- CID, INC and kernel of activations that ran once the log was full -/
  taintSet : List (Nat × Nat × Nat) := []
  /-- the kernels for which the array runs, and the one whose end its ramp down is charged to -/
  kerns : List Nat := []
  fill : Nat := 0
  /-- since when CAUSE holds, and the cycles before in which it was 3 or 4 (04 R83) -/
  since : Nat := 0
  acc3 : Nat := 0
  acc4 : Nat := 0
  deriving DecidableEq, Repr

/-- A recovery of one damaged flit (01 R22). -/
structure Recov where
  lseq : Nat
  flit : Flit
  first : Nat
  /-- 1, 2: parity increment asked; 3: replay asked -/
  step : Nat := 1
  asked : Nat := 0
  again : Bool := false
  replays : Nat := 0
  inc1 : Option (List Byte) := none
  deriving DecidableEq, Repr

/-- A flit of a replay buffer, as sent, and the packets whose granules it carries. -/
structure TxFlit where
  flit : Flit
  pkts : List Packet
  deriving DecidableEq, Repr

/-- A port (01 R18 to R24, 04 R82). State: 0 DOWN, 1 TRAINING, 2 UP, 3 DEGRADED. -/
structure Port where
  state : Nat := 0
  txSeq : Nat := 0
  rxSeq : Nat := 0
  replay : List TxFlit := []
  held : List Flit := []
  recov : List Recov := []
  /-- credits for injection by class -/
  credits : SMap Nat := []
  /-- flits to send: answers, recovery requests, data -/
  tx : List Flit := []
  rxFlits : List Flit := []
  /-- buffer credits to be returned, by class (01 R18) -/
  owed : SMap Nat := []
  /-- granules received of a packet that is not yet whole, by class, and the packets put together (02 R28) -/
  asm : SMap (List Byte) := []
  rxPkts : List (List Byte) := []
  trainAt : Nat := 0
  crcfail : Nat := 0
  parfix : Nat := 0
  replayed : Nat := 0
  retrain : Nat := 0
  deriving DecidableEq, Repr

/-- An unacknowledged packet of the end-to-end layer (02 R36, R37). -/
structure E2eOut where
  seq : Nat
  pkt : Packet
  sent : Nat
  resends : Nat := 0
  deriving DecidableEq, Repr

/-- End-to-end state of one (chip, class): key chip x 16 + class (02 R35, R36). -/
structure E2e where
  txNext : Nat := 0
  unacked : List E2eOut := []
  /-- packets that wait at injection behind 1,024 unacknowledged ones -/
  waiting : List Packet := []
  rxNext : Nat := 0
  rxHeld : SMap Packet := []
  /-- packets received since the last E2EACK, and when the first of them came -/
  ackDue : Nat := 0
  ackAt : Nat := 0
  deriving DecidableEq, Repr

/-- A multicast packet outstanding at its source (02 R43). -/
structure MOut where
  mtag : Nat
  src : Nat
  cid : Nat
  inc : Nat
  core : Nat
  tok : Nat
  pkt : Packet
  sent : Nat
  resends : Nat := 0
  /-- unicast fallback copies not yet acknowledged -/
  uni : Option (List Nat) := none
  drop : Bool := false
  deriving DecidableEq, Repr

/-- A replication entry of a switch (02 R42). -/
structure RepE where
  src : Nat
  mtag : Nat
  /-- the output ports whose branches have not yet answered -/
  left : List Nat
  drop : Bool := false
  since : Nat
  deriving DecidableEq, Repr

/-- A combining group at a switch (02 R44 to R47). -/
structure CombG where
  c : Contrib
  got : List Contrib
  since : Nat
  /-- a contribution has disagreed -/
  bad : Bool := false
  /-- the result is on its way -/
  sent : Bool := false
  deriving DecidableEq, Repr

/-- A switch of the panel (02 R42 to R48). -/
structure Switch where
  /-- the output port toward each chip; from 2^32 on, this switch is also the root of the groups whose lowest chip it is (log 44) -/
  routes : SMap Nat := []
  reps : List RepE := []
  groups : List CombG := []
  deriving DecidableEq, Repr

/-- A layout (23 R372) with its page snapshot. -/
structure Layout where
  cid : Nat
  inc : Nat
  num : Nat
  base : Nat
  rows : Nat
  rowbytes : Nat
  stride : Nat
  wr : Bool
  rd : Bool
  pages : SMap Nat
  deriving DecidableEq, Repr

/-- A standing group of an ordered reduction (23 R371). -/
structure RedG where
  cid : Nat
  inc : Nat
  /-- the first contribution: the group's shape and destination -/
  c : RedC
  /-- contributors: rank, who waits for the status (a core key, or 2^20 and the agent of another chip), command token, values -/
  got : List (Nat × Nat × Nat × List Nat)
  since : Nat
  /-- contributions have disagreed -/
  bad : Bool := false
  /-- its number while the result is being written, the words that their home has not yet applied or refused, and how many it refused -/
  id : Nat := 0
  left : Option Nat := none
  no : Nat := 0
  deriving DecidableEq, Repr

/-- A packet of a work request (25 R383, R385). -/
structure WPkt where
  psn : Nat
  off : Nat
  n : Nat
  /-- when it was last sent -/
  sent : Option Nat := none
  resends : Nat := 0
  /-- higher PSNs that SACKs had shown when it was last sent -/
  hi : Nat := 0
  acked : Bool := false
  deriving DecidableEq, Repr

/-- A posted work request (23 R376, R377; 25 R383 to R385). -/
structure Wrq where
  id : Nat
  cid : Nat
  inc : Nat
  core : Nat
  slot : Nat
  op : Nat
  cqe : Bool
  len : Nat
  lg : Bool
  buf : Nat
  peer : Nat
  rva : Nat
  rkey : Nat
  cctr : Nat
  utag : Word
  /-- the layout pages of its buffer and counter, as at posting: virtual page and physical page -/
  pages : SMap Nat := []
  /-- bytes read at posting, for SEND and WRITE -/
  data : List Byte := []
  msgno : Nat := 0
  pkts : List WPkt := []
  /-- RECV: matched sender (endpoint, context, peer entry, message), bytes placed, total, and packets not yet placed -/
  match_ : Option (Nat × Nat × Nat × Nat) := none
  placed : Nat := 0
  total : Nat := 0
  far : Nat := 0
  deriving DecidableEq, Repr

/-- What a NIC engine has received of one pair of sending context and peer (25 R385). -/
structure RxPair where
  from_ : Nat
  scid : Nat
  peer : Nat
  pid : Nat
  /-- below this PSN everything is received -/
  cum : Nat := 0
  got : List Nat := []
  /-- messages refused as longer than their RECV -/
  bad : List Nat := []
  deriving DecidableEq, Repr

/-- A received packet whose bytes are on their way to their homes: it is acknowledged when all are placed (23 R377, 25 R385). -/
structure Placing where
  id : Nat
  cid : Nat
  inc : Nat
  /-- the packet, without its bytes -/
  pkt : NicPkt
  /-- the RECV that it fills; none for a WRITE -/
  req : Option Nat
  /-- words not yet applied -/
  left : Nat
  deriving DecidableEq, Repr

/-- A completion entry (23 R378). -/
structure CqE where
  cid : Nat
  inc : Nat
  utag : Word
  status : Nat
  op : Nat
  bytes : Nat
  deriving DecidableEq, Repr

/-- A die's NIC engine (23 R374 to R378). -/
structure Nic where
  wrqs : List Wrq := []
  nextId : Nat := 0
  /-- next PSN and message number per (context x 4096 + peer) -/
  psn : SMap Nat := []
  msgno : SMap Nat := []
  rx : List RxPair := []
  placing : List Placing := []
  cq : List CqE := []
  /-- packets, SACKs (endpoint, context, peer, cumulative PSN, bitmap) and refusals (endpoint, context, peer, PSN) given to the network -/
  out : List NicPkt := []
  sacks : List (Nat × Nat × Nat × Nat × Nat) := []
  refusals : List (Nat × Nat × Nat × Nat) := []
  deriving DecidableEq, Repr

/-- A combining round of this chip (23 R380). -/
structure RoundE where
  cid : Nat
  inc : Nat
  gid : Nat
  round : Nat
  /-- 1 sent and awaiting, 2 received -/
  state : Nat
  /-- COLL commands running: core key, token, destination, SETFULL, placed at -/
  running : List (Nat × Nat × Nat × Bool × Nat)
  at_ : Nat
  contributed : Bool := true
  deriving DecidableEq, Repr

/-- Per-die state. -/
structure Die where
  rtus : SMap Rtu := []
  /-- WSTAT.REJ, ACC and CRED of a context (03 R52) -/
  rej : SMap Nat := []
  acc : SMap Nat := []
  cred : SMap Nat := []
  cancelJobs : List (Nat × Nat) := []
  /-- the event vectors as this die's scheduler knows them where the other die's holds them, key CID x 4 + quarter (05 R87) -/
  evView : SMap Word := []
  schedage : Word := 0x0000_0100_0000_0040
  disp : Dispatcher := {}
  ov : List OvList := []
  ovUsed : SMap Nat := []
  incTab : SMap Nat := []
  counters : Vector Nat 10 := Vector.replicate 10 0
  thr : Vector Thr 32 := Vector.replicate 32 {}
  /-- sensors: the die's temperature in units of 0.125 °C, the package's power in watts, and the cycles of ring starvation of each of its rows -/
  temp : Nat := 0
  power : Nat := 0
  starve : SMap Nat := []
  qregs : SMap QRegs := []
  /-- peer table words, key (CID x 4096 + index) x 4 + word -/
  peers : SMap Word := []
  mig : Vector MigWin 4 := Vector.replicate 4 {}
  trimsel : Word := 0
  s2sel : Word := 0
  einjseed : Word := 0
  einjctl : Word := 0
  rows : SMap RowSt := []
  /-- energy in microjoules charged to a kernel on this die, and when it was updated (04 R78) -/
  energy : SMap (Nat × Nat) := []
  layouts : List Layout := []
  reds : List RedG := []
  /-- contributions of other chips of which only a part has come: context, incarnation, who waits for the status, token, values so far (02 R28) -/
  redIn : List (Nat × Nat × Nat × Nat × RedC) := []
  nic : Nic := {}
  rounds : List RoundE := []
  /-- counted stores taken from each source chip (02 R39) -/
  taken : SMap Nat := []
  /-- fence markers answered and stage-2 fault reports for the partition manager's ring -/
  pmRing : List (List Word) := []
  deriving DecidableEq, Repr

/-- A context table entry's two words (03 R60). -/
structure Ctx where
  w0 : Word := 0
  w1 : Word := 0
  events : Vector Word 4 := Vector.replicate 4 0
  sidNext : Nat := 0
  msgNext : Nat := 1
  /-- the die that holds the context's partition manager instance (03 R60) -/
  home : Nat := 0
  deriving DecidableEq, Repr

/-- A partition of the configuration record (03 R54, R56). -/
structure Part where
  pairs : Nat := 0
  cidFirst : Nat := 0
  cidCount : Nat := 0
  pmax : Nat := 0
  test : Bool := false
  shared : Bool := false
  weight : Nat := 0
  ovMiB : Nat := 0
  s2root : Word := 0
  deriving DecidableEq, Repr

/-- A kill, a reclaim, a TLB invalidation or a RANKSET in progress (03 R62, R65; 08 R162; 05 R98). -/
structure Op where
  tok : Nat
  /-- 0 kill, 1 reclaim, 2 TLBINV, 3 RANKSET, 4 JCAN, 5 ADJREG; 6 a kill or reclaim put to the home chip, 7 a kill that waits for another of its context, 8 a
  failed restore's kill put to the home chip, 9 a SLOTLOAD that reads its area -/
  kind : Nat
  /-- the core that waits, where no other chip asked -/
  core : Nat
  cid : Nat
  sample : Nat := 0
  u : Nat := 0
  /-- agents that have not yet acknowledged or answered -/
  left : List Nat
  /-- agents that the message has not yet reached -/
  todo : List Nat := []
  /-- agents whose acknowledgement or answer is on its way -/
  back : List Nat := []
  /-- another chip asked: the agent that the answer goes to, and its token -/
  org : Option (Nat × Nat) := none
  /-- another chip's CTX.KILL or CTX.RECL, which the home chip serialises (03 R62): the fabric agent that asked, and its token -/
  asked : Option (Nat × Nat) := none
  /-- operands: TLBINV's base and control word; RANKSET's rank and entry; a cancelled job; the incarnation that a SLOTLOAD restores -/
  arg : Nat := 0
  arg2 : Nat := 0
  deriving DecidableEq, Repr

/-- Package flash (03 R56, R58). -/
structure Flash where
  puf : List Byte := []
  floor : List Byte := []
  floorMac : List Byte := []
  fw : List Byte := []
  fwSig : List Byte := []
  fwVersion : Nat := 0
  owner : List Byte := []
  ownerSig : List Byte := []
  cfgA : List Byte := []
  cfgB : List Byte := []
  usedChips : List Nat := []
  /-- Nerral's certificate of the device identity key -/
  idCert : List Byte := []
  deriving DecidableEq, Repr

/-- A saved initial image of a resident, kept in supervisor memory (04 R70). -/
structure Image where
  cid : Nat
  inc : Nat
  rank : Nat
  slot : Slot
  /-- the contents of CODE and of P0 to P3: base and bytes -/
  mem : List (Nat × List Byte)
  /-- the full words of P0 to P3 -/
  fe : List Nat
  deriving DecidableEq, Repr

end Sys2Proof.Machine
end

