-- ==== Sys2Proof/Syntax.lean ====
section
/-! DEFINITION. The abstract instructions: one constructor for each row of the opcode table. The first 168 are scalar words
(12 R229), the next 16 tile commands as their four words (12 R236), the rest the steps of the other agents (spec/95). -/

namespace Sys2Proof

/-- One step of the part, as spec/opcode_table.json lists them. A register-write form names its operand registers as the word
that it is a form of does. A step of another agent names the agent, and the message where that comes from outside the model. -/
inductive Instr where
  /-- ADD (R254). -/
  | add (rd ra rb : Reg)
  /-- SUB (R254). -/
  | sub (rd ra rb : Reg)
  /-- AND (R254). -/
  | and (rd ra rb : Reg)
  /-- OR (R254). -/
  | or (rd ra rb : Reg)
  /-- XOR (R254). -/
  | xor (rd ra rb : Reg)
  /-- ANDN (R254). -/
  | andn (rd ra rb : Reg)
  /-- SLL (R255). -/
  | sll (rd ra rb : Reg)
  /-- SRL (R255). -/
  | srl (rd ra rb : Reg)
  /-- SRA (R255). -/
  | sra (rd ra rb : Reg)
  /-- ROL (R255). -/
  | rol (rd ra rb : Reg)
  /-- ROR (R255). -/
  | ror (rd ra rb : Reg)
  /-- SLT (R256). -/
  | slt (rd ra rb : Reg)
  /-- SLTN (R256). -/
  | sltn (rd ra rb : Reg)
  /-- MIN (R256). -/
  | min (rd ra rb : Reg)
  /-- MAX (R256). -/
  | max (rd ra rb : Reg)
  /-- MINN (R256). -/
  | minn (rd ra rb : Reg)
  /-- MAXN (R256). -/
  | maxn (rd ra rb : Reg)
  /-- MUL (R257). -/
  | mul (rd ra rb : Reg)
  /-- MULH (R257). -/
  | mulh (rd ra rb : Reg)
  /-- MULHN (R257). -/
  | mulhn (rd ra rb : Reg)
  /-- DIV (R258). -/
  | div (rd ra rb : Reg)
  /-- DIVN (R258). -/
  | divn (rd ra rb : Reg)
  /-- REM (R258). -/
  | rem (rd ra rb : Reg)
  /-- REMN (R258). -/
  | remn (rd ra rb : Reg)
  /-- CLZ (R261). -/
  | clz (rd ra : Reg)
  /-- CTZ (R261). -/
  | ctz (rd ra : Reg)
  /-- POPC (R261). -/
  | popc (rd ra : Reg)
  /-- BREV (R261). -/
  | brev (rd ra : Reg)
  /-- BSWAP (R261). -/
  | bswap (rd ra : Reg)
  /-- CLMUL (R263). -/
  | clmul (rd ra rb : Reg)
  /-- CLMULH (R263). -/
  | clmulh (rd ra rb : Reg)
  /-- SEL (R264). -/
  | sel (rd ra rb : Reg)
  /-- EXTS (R262). -/
  | exts (rd ra : Reg) (len pos : BitVec 6)
  /-- EXTZ (R262). -/
  | extz (rd ra : Reg) (len pos : BitVec 6)
  /-- INS (R262). -/
  | ins (rd ra : Reg) (len pos : BitVec 6)
  /-- ADDI (R259). -/
  | addi (rd ra : Reg) (imm : BitVec 15)
  /-- ANDI (R259). -/
  | andi (rd ra : Reg) (imm : BitVec 15)
  /-- ORI (R259). -/
  | ori (rd ra : Reg) (imm : BitVec 15)
  /-- XORI (R259). -/
  | xori (rd ra : Reg) (imm : BitVec 15)
  /-- SLLI (R259). -/
  | slli (rd ra : Reg) (c : BitVec 6)
  /-- SRLI (R259). -/
  | srli (rd ra : Reg) (c : BitVec 6)
  /-- SRAI (R259). -/
  | srai (rd ra : Reg) (c : BitVec 6)
  /-- SLTI (R259). -/
  | slti (rd ra : Reg) (imm : BitVec 15)
  /-- LUI (R260). -/
  | lui (rd : Reg) (imm : BitVec 20)
  /-- ADDPC (R260). -/
  | addpc (rd : Reg) (imm : BitVec 20)
  /-- BEQ (R265). -/
  | beq (ra rb : Reg) (off : BitVec 15)
  /-- BNE (R265). -/
  | bne (ra rb : Reg) (off : BitVec 15)
  /-- BLT (R265). -/
  | blt (ra rb : Reg) (off : BitVec 15)
  /-- BGE (R265). -/
  | bge (ra rb : Reg) (off : BitVec 15)
  /-- BLTN (R265). -/
  | bltn (ra rb : Reg) (off : BitVec 15)
  /-- BGEN (R265). -/
  | bgen (ra rb : Reg) (off : BitVec 15)
  /-- J (R266). -/
  | jump (off : BitVec 20)
  /-- JAL (R266). -/
  | jal (rd : Reg) (off : BitVec 20)
  /-- JR (R267). -/
  | jr (ra : Reg) (imm : BitVec 15)
  /-- JALR (R267). -/
  | jalr (rd ra : Reg) (imm : BitVec 15)
  /-- LOOPI (R269). -/
  | loopi (l : BitVec 5) (n : BitVec 19)
  /-- LOOPI_REG (R269). -/
  | loopiReg (l : BitVec 5) (xs : Reg)
  /-- LD (R289). -/
  | ld (rd ra : Reg) (w : BitVec 2) (off : BitVec 13)
  /-- LDN (R289). -/
  | ldn (rd ra : Reg) (w : BitVec 2) (off : BitVec 13)
  /-- ST (R289). -/
  | st (ra rb : Reg) (w : BitVec 2) (off : BitVec 13)
  /-- LD_F (R290). -/
  | ldF (rd ra : Reg) (off : BitVec 13)
  /-- ST_F (R290). -/
  | stF (ra rb : Reg) (off : BitVec 13)
  /-- FEC (R290). -/
  | fec (rd ra : Reg) (off : BitVec 13)
  /-- FES (R290). -/
  | fes (rd ra : Reg) (off : BitVec 13)
  /-- AMO (R292). -/
  | amo (rd ra rb : Reg) (op : BitVec 4) (w : BitVec 2)
  /-- RLD (R295). -/
  | rld (rd ra : Reg) (zx : BitVec 1) (w : BitVec 2)
  /-- RLD_ACQ (R295). -/
  | rldAcq (rd ra : Reg) (zx : BitVec 1) (w : BitVec 2)
  /-- RST (R296). -/
  | rst (ra rb : Reg) (w : BitVec 2)
  /-- RSTN (R296). -/
  | rstn (ra rb : Reg) (off : BitVec 3) (size : BitVec 2)
  /-- RAMO (R297). -/
  | ramo (rd ra rb : Reg) (op : BitVec 4) (w : BitVec 2)
  /-- HINS (R299). -/
  | hins (rd ra rb : Reg)
  /-- HINS_TAG (R299). -/
  | hinsTag (rd ra rb : Reg)
  /-- FLUSH (R302). -/
  | flush
  /-- FENCE_ROW (R303). -/
  | fenceRow
  /-- FENCE_DIE (R303). -/
  | fenceDie
  /-- FENCE_PKG (R303). -/
  | fencePkg
  /-- FENCE_FAB (R303). -/
  | fenceFab
  /-- WAITM (R304). -/
  | waitm (rd ra rb : Reg)
  /-- LDG (R301). -/
  | ldg (rd ra : Reg) (w : BitVec 2) (off : BitVec 13)
  /-- STG (R301). -/
  | stg (ra rb : Reg) (w : BitVec 2) (off : BitVec 13)
  /-- SEND (R330). -/
  | send (xw xa xl : Reg)
  /-- SENDNZ (R331). -/
  | sendnz (xw xa xn : Reg) (es : BitVec 2) (flt : BitVec 1)
  /-- SENDNZ_STREAM (R331). -/
  | sendnzStream (sn : BitVec 4) (xa xn : Reg) (es : BitVec 2) (flt : BitVec 1)
  /-- SENDH (R332). -/
  | sendh (rd xw xh : Reg)
  /-- STRNEW (R333). -/
  | strnew (rd xs xb : Reg)
  /-- STRBIND (R334). -/
  | strbind (rd xh xw : Reg)
  /-- STRUNB (R335). -/
  | strunb (rd xh : Reg)
  /-- STREOS (R336). -/
  | streos (rd xh xv : Reg)
  /-- STRSTAT (R337). -/
  | strstat (rd xh : Reg)
  /-- EXIT (R338). -/
  | exit
  /-- EXIT_S (R339). -/
  | exitS (xw xp : Reg)
  /-- BAR (R340). -/
  | bar (rd : Reg)
  /-- BAR_A (R340). -/
  | barA (rd : Reg)
  /-- BAR_T (R340). -/
  | barT (rd xp : Reg)
  /-- BAR_T_P (R340). -/
  | barTP (rd xp : Reg)
  /-- CREWBAR (R340). -/
  | crewbar (rd : Reg)
  /-- CREWBAR_A (R340). -/
  | crewbarA (rd : Reg)
  /-- CREWBAR_T (R340). -/
  | crewbarT (rd xp : Reg)
  /-- LAUNCH (R342). -/
  | launch (xw xm xa : Reg) (n : BitVec 9)
  /-- KSUB (R343). -/
  | ksub (rd xa xd : Reg)
  /-- DSPN (R345). -/
  | dspn (xw xe xa : Reg) (n : BitVec 6)
  /-- ADJREG (R346). -/
  | adjreg (rd xn xr : Reg)
  /-- SETEV (R347). -/
  | setev (xm : Reg) (q : BitVec 2)
  /-- SETEV_CLR (R347). -/
  | setevClr (xm : Reg) (q : BitVec 2)
  /-- JCAN (R348). -/
  | jcan (rd xj : Reg)
  /-- CMD (R354). -/
  | cmd (rd ra : Reg) (imm : BitVec 15)
  /-- CMD_NB (R354). -/
  | cmdNb (rd ra : Reg) (imm : BitVec 15)
  /-- CSRR (R273). -/
  | csrr (rd : Reg) (n : BitVec 12)
  /-- CSRW (R273). -/
  | csrw (ra : Reg) (n : BitVec 12)
  /-- CSRS (R273). -/
  | csrs (ra : Reg) (n : BitVec 12)
  /-- CSRC (R273). -/
  | csrc (ra : Reg) (n : BitVec 12)
  /-- TRAP (R274). -/
  | trap (n : BitVec 7)
  /-- RTA (R241). -/
  | rta
  /-- ABORT (R275). -/
  | abort
  /-- BKPT (R275). -/
  | bkpt
  /-- HALT (R286). -/
  | halt (rd ra rb : Reg)
  /-- CTX_KILL (R277). -/
  | ctxKill (rd ra : Reg)
  /-- CTX_RECL (R278). -/
  | ctxRecl (rd ra : Reg)
  /-- TLBINV (R279). -/
  | tlbinv (rd ra rb : Reg)
  /-- RANKSET (R280). -/
  | rankset (rd ra rb : Reg)
  /-- RESMOVE (R285). -/
  | resmove (rd ra rb : Reg)
  /-- SLOTSAVE (R283). -/
  | slotsave (rd ra rb : Reg)
  /-- SLOTDROP (R287). -/
  | slotdrop (rd ra : Reg)
  /-- SLOTLOAD (R284). -/
  | slotload (rd ra rb : Reg)
  /-- VLD (R310). -/
  | vld (v xa : Reg) (t : BitVec 4) (m : BitVec 3)
  /-- VST (R310). -/
  | vst (v xa : Reg) (t : BitVec 4) (m : BitVec 3)
  /-- VLDS (R310). -/
  | vlds (v xa xs : Reg) (t : BitVec 4) (m : BitVec 3)
  /-- VSTS (R310). -/
  | vsts (v xa xs : Reg) (t : BitVec 4) (m : BitVec 3)
  /-- VGATH (R311). -/
  | vgath (v xa vo : Reg) (t : BitVec 4) (m : BitVec 3)
  /-- VSCAT (R311). -/
  | vscat (v xa vo : Reg) (t : BitVec 4) (m : BitVec 3)
  /-- VADD (R313). -/
  | vadd (vd va vb : Reg) (t : BitVec 4) (m : BitVec 3)
  /-- VSUB (R313). -/
  | vsub (vd va vb : Reg) (t : BitVec 4) (m : BitVec 3)
  /-- VMUL (R313). -/
  | vmul (vd va vb : Reg) (t : BitVec 4) (m : BitVec 3)
  /-- VFMA (R313). -/
  | vfma (vd va vb : Reg) (t : BitVec 4) (m : BitVec 3)
  /-- VMIN (R313). -/
  | vmin (vd va vb : Reg) (t : BitVec 4) (m : BitVec 3)
  /-- VMAX (R313). -/
  | vmax (vd va vb : Reg) (t : BitVec 4) (m : BitVec 3)
  /-- VABS (R313). -/
  | vabs (vd va : Reg) (t : BitVec 4) (m : BitVec 3)
  /-- VNEG (R313). -/
  | vneg (vd va : Reg) (t : BitVec 4) (m : BitVec 3)
  /-- VAND (R314). -/
  | vand (vd va vb : Reg) (t : BitVec 4) (m : BitVec 3)
  /-- VOR (R314). -/
  | vor (vd va vb : Reg) (t : BitVec 4) (m : BitVec 3)
  /-- VXOR (R314). -/
  | vxor (vd va vb : Reg) (t : BitVec 4) (m : BitVec 3)
  /-- VSHL (R314). -/
  | vshl (vd va vb : Reg) (t : BitVec 4) (m : BitVec 3)
  /-- VSHR (R314). -/
  | vshr (vd va vb : Reg) (t : BitVec 4) (m : BitVec 3)
  /-- VSRA (R314). -/
  | vsra (vd va vb : Reg) (t : BitVec 4) (m : BitVec 3)
  /-- VCMP_EQ (R315). -/
  | vcmpEq (kd : BitVec 3) (va vb : Reg) (t : BitVec 4) (m : BitVec 3)
  /-- VCMP_NE (R315). -/
  | vcmpNe (kd : BitVec 3) (va vb : Reg) (t : BitVec 4) (m : BitVec 3)
  /-- VCMP_LT (R315). -/
  | vcmpLt (kd : BitVec 3) (va vb : Reg) (t : BitVec 4) (m : BitVec 3)
  /-- VCMP_LE (R315). -/
  | vcmpLe (kd : BitVec 3) (va vb : Reg) (t : BitVec 4) (m : BitVec 3)
  /-- VCMP_GT (R315). -/
  | vcmpGt (kd : BitVec 3) (va vb : Reg) (t : BitVec 4) (m : BitVec 3)
  /-- VCMP_GE (R315). -/
  | vcmpGe (kd : BitVec 3) (va vb : Reg) (t : BitVec 4) (m : BitVec 3)
  /-- VCMP_UN (R315). -/
  | vcmpUn (kd : BitVec 3) (va vb : Reg) (t : BitVec 4) (m : BitVec 3)
  /-- VSEL (R316). -/
  | vsel (vd va vb : Reg) (t : BitVec 4) (m : BitVec 3)
  /-- VCVT (R317). -/
  | vcvt (vd va : Reg) (src : BitVec 4) (t : BitVec 4) (m : BitVec 3)
  /-- VRED (R318). -/
  | vred (xd va op : Reg) (t : BitVec 4) (m : BitVec 3)
  /-- VPERM (R316). -/
  | vperm (vd va vb : Reg) (t : BitVec 4) (m : BitVec 3)
  /-- VBCST (R316). -/
  | vbcst (vd xa : Reg) (t : BitVec 4) (m : BitVec 3)
  /-- VEXT (R316). -/
  | vext (xd va xi : Reg) (t : BitVec 4)
  /-- VINS (R316). -/
  | vins (vd xa xi : Reg) (t : BitVec 4)
  /-- VPOPC (R316). -/
  | vpopc (vd va : Reg) (t : BitVec 4) (m : BitVec 3)
  /-- VCLMUL (R319). -/
  | vclmul (vd va vb : Reg) (t : BitVec 4) (m : BitVec 3)
  /-- VCLMULH (R319). -/
  | vclmulh (vd va vb : Reg) (t : BitVec 4) (m : BitVec 3)
  /-- VEXP2 (R320). -/
  | vexp2 (vd va : Reg) (m : BitVec 3)
  /-- VRCP (R321). -/
  | vrcp (vd va : Reg) (m : BitVec 3)
  /-- VRSQ (R321). -/
  | vrsq (vd va : Reg) (m : BitVec 3)
  /-- KAND (R322). -/
  | kand (kd ka kb : BitVec 3)
  /-- KOR (R322). -/
  | kor (kd ka kb : BitVec 3)
  /-- KNOT (R322). -/
  | knot (kd ka : BitVec 3)
  /-- VLOOP (R323). -/
  | vloop (l : BitVec 5) (xs : Reg)
  /-- ZCLR (R359). -/
  | zclr (w0 w1 w2 w3 : Word)
  /-- ZLD (R367). -/
  | zld (w0 w1 w2 w3 : Word)
  /-- ZST (R367). -/
  | zst (w0 w1 w2 w3 : Word)
  /-- MMA_S (R362). -/
  | mmaS (w0 w1 w2 w3 : Word)
  /-- MMA_G (R363). -/
  | mmaG (w0 w1 w2 w3 : Word)
  /-- COPY (R369). -/
  | copy (w0 w1 w2 w3 : Word)
  /-- COPY_M (R370). -/
  | copyM (w0 w1 w2 w3 : Word)
  /-- RED (R371). -/
  | red (w0 w1 w2 w3 : Word)
  /-- LAYREG (R372). -/
  | layreg (w0 w1 w2 w3 : Word)
  /-- LAYDROP (R372). -/
  | laydrop (w0 w1 w2 w3 : Word)
  /-- STRFILL (R373). -/
  | strfill (w0 w1 w2 w3 : Word)
  /-- STRDRAIN (R373). -/
  | strdrain (w0 w1 w2 w3 : Word)
  /-- NICPOST (R374). -/
  | nicpost (w0 w1 w2 w3 : Word)
  /-- NICCQ (R378). -/
  | niccq (w0 w1 w2 w3 : Word)
  /-- COLL (R379). -/
  | coll (w0 w1 w2 w3 : Word)
  /-- CPROBE (R380). -/
  | cprobe (w0 w1 w2 w3 : Word)
  /-- XB_WRITE (R138). -/
  | xbWrite (ra : Reg)
  /-- TRAPPC_WRITE (R225). -/
  | trappcWrite (ra : Reg)
  /-- QUEUE_POP (R140). -/
  | queuePop (rd : Reg) (n : BitVec 2)
  /-- QUEUE_PUSH (R140). -/
  | queuePush (n : BitVec 2) (ra : Reg)
  /-- STREAM_POP (R194). -/
  | streamPop (rd : Reg) (n : BitVec 4)
  /-- STREAM_PUSH (R193). -/
  | streamPush (n : BitVec 4) (ra : Reg)
  /-- MAILBOX_WRITE (R227). -/
  | mailboxWrite (n : BitVec 3) (ra : Reg)
  /-- FORMAT_WRITE (R211). -/
  | formatWrite (n : BitVec 2) (ra : Reg)
  /-- FMTS_WRITE (R213). -/
  | fmtsWrite (ra : Reg)
  /-- RMODE_WRITE (R214). -/
  | rmodeWrite (ra : Reg)
  /-- WSTAT_READ (R52). -/
  | wstatRead (die cid : Nat)
  /-- WINDOW_SUBMISSION (R53). -/
  | windowSubmission (die cid off : Nat) (data : List Byte)
  /-- REGISTER_WRITE (R80). -/
  | registerWrite (die off width : Nat) (v : Word)
  /-- THRESHOLD_CTL_WRITE (R83). -/
  | thresholdCtlWrite (die u : Nat) (v : Word)
  /-- FRES_RETRY (R160). -/
  | fresRetry (die cid : Nat) (v : Word)
  /-- FRES_FAIL (R160). -/
  | fresFail (die cid : Nat) (v : Word)
  /-- S2RES_RETRY (R160). -/
  | s2resRetry (die : Nat) (v : Word)
  /-- S2RES_FAIL (R160). -/
  | s2resFail (die : Nat) (v : Word)
  /-- MIGWIN_HOLD (R163). -/
  | migwinHold (die n : Nat) (v : Word)
  /-- MIGWIN_RELEASE (R163). -/
  | migwinRelease (die n : Nat)
  /-- MIGWIN_CLOSE (R163). -/
  | migwinClose (die n : Nat)
  /-- FLIT_RECEIVE (R22). -/
  | flitReceive (port : Nat) (f : Machine.Flit)
  /-- RECOVERY_REQUEST_RECEIVE (R22). -/
  | recoveryRequestReceive (port lseq step : Nat)
  /-- PARITY_INCREMENT_RECEIVE (R21). -/
  | parityIncrementReceive (port : Nat) (f : Machine.Flit)
  /-- RECOVERY_RETRY_TIMEOUT (R22). -/
  | recoveryRetryTimeout (port lseq : Nat)
  /-- LINKRECMAX_EXPIRE (R23). -/
  | linkrecmaxExpire (port lseq : Nat)
  /-- RETRAIN_COMPLETE (R24). -/
  | retrainComplete (port : Nat) (four : Bool)
  /-- RETRAIN_TIMEOUT (R24). -/
  | retrainTimeout (port : Nat)
  /-- PACKET_INJECT (R40): the waiting packet n mod 2^32, and n / 2^32 more of its class behind it. -/
  | packetInject (port n : Nat)
  /-- FABRIC_PACKET_ARRIVE (R35). -/
  | fabricPacketArrive (p : Machine.Packet)
  /-- E2EACK_SEND (R35). -/
  | e2eackSend (chip cls : Nat)
  /-- E2EACK_RECEIVE (R36). -/
  | e2eackReceive (chip cls next : Nat)
  /-- E2E_TIMEOUT (R37). -/
  | e2eTimeout (chip cls seq : Nat)
  /-- FENCE_MARKER_ARRIVE (R39). -/
  | fenceMarkerArrive (src die : Nat)
  /-- FENCEACK_RECEIVE (R39). -/
  | fenceackReceive (src core : Nat)
  /-- MULTICAST_REPLICATE (R42). -/
  | multicastReplicate (sw : Nat) (p : Machine.Packet)
  /-- REPLICATION_ENTRY_TIMEOUT (R42). -/
  | replicationEntryTimeout (sw src mtag : Nat)
  /-- MULTICAST_LEAF_DELIVER (R42). -/
  | multicastLeafDeliver (p : Machine.Packet)
  /-- BFACK_SEND (R43). -/
  | bfackSend (src mtag : Nat)
  /-- BFACK_RECEIVE (R43): of the packet with tag mtag mod 2^24, at a switch from its branch mtag / 2^24. -/
  | bfackReceive (sw : Option Nat) (src mtag : Nat) (drop : Bool)
  /-- MULTICAST_RESEND (R43). -/
  | multicastResend (src mtag : Nat)
  /-- MTAG_PAIR_EXPIRE (R43). -/
  | mtagPairExpire (src mtag : Nat)
  /-- COMB_CONTRIBUTION_ARRIVE (R46). -/
  | combContributionArrive (sw : Nat) (c : Machine.Contrib)
  /-- COMBTO_EXPIRE (R47). -/
  | combtoExpire (sw cid gid round : Nat)
  /-- BOOT (R58). -/
  | boot
  /-- ATTESTATION_REQUEST (R59). -/
  | attestationRequest (nonce : List Byte)
  /-- INCARNATION_BROADCAST (R62). -/
  | incarnationBroadcast (agent cid inc : Nat)
  /-- KILL_ACK_RECEIVE (R62). -/
  | killAckReceive (agent cid : Nat)
  /-- RECL_QUERY (R65). -/
  | reclQuery (agent cid : Nat)
  /-- RECL_ANSWER (R65). -/
  | reclAnswer (agent cid : Nat)
  /-- RECL_ANSWER_RECEIVE (R65). -/
  | reclAnswerReceive (agent cid : Nat)
  /-- PATROL_SCRUB (R68). -/
  | patrolScrub (addr : Nat)
  /-- RESIDENT_REBUILD (R70). -/
  | residentRebuild (core slot target tslot : Nat)
  /-- CORE_TEST_COMPLETE (R70). -/
  | coreTestComplete (core : Nat) (pass : Bool)
  /-- PAIR_TIMEOUT (R71). -/
  | pairTimeout (core : Nat)
  /-- ROW_TEST_START (R72). -/
  | rowTestStart (die row : Nat)
  /-- ROW_TEST_COMPLETE (R72). -/
  | rowTestComplete (die row : Nat) (pass : Bool)
  /-- POWER_UP (R75). -/
  | powerUp
  /-- ROW_GROUP_POWER_ON (R75). -/
  | rowGroupPowerOn (g : Nat)
  /-- TRIM_STEP_GRANT (R76). -/
  | trimStepGrant
  /-- ENERGY_UPDATE (R78). -/
  | energyUpdate (die kid uj : Nat)
  /-- THRESHOLD_CROSSING (R79). -/
  | thresholdCrossing (die u : Nat) (v : Word)
  /-- KERNEL_ACCEPT (R85). -/
  | kernelAccept (die : Nat)
  /-- KSUB_ARRIVE (R343). -/
  | ksubArrive (src die : Nat)
  /-- SETEV_APPLY (R347). -/
  | setevApply (src die : Nat)
  /-- SCHEDULER_LAUNCH (R95). -/
  | schedulerLaunch (die kid : Nat)
  /-- GATE_ARM (R93). -/
  | gateArm (die kid : Nat)
  /-- LIVE_COUNT_REPORT (R89). -/
  | liveCountReport
  /-- LIVE_COUNT_ACK (R89). -/
  | liveCountAck (core : Nat)
  /-- ACTIVATION_START (R90). -/
  | activationStart (core : Nat)
  /-- AGEING_TICK (R91). -/
  | ageingTick (core slot queue : Nat)
  /-- RANK_INVALIDATE (R96). -/
  | rankInvalidate (core cid rank : Nat)
  /-- RANK_INVALIDATE_ACK (R98). -/
  | rankInvalidateAck (core cid rank : Nat)
  /-- OVERFLOW_PARK (R99). -/
  | overflowPark (src die : Nat)
  /-- OVERFLOW_DRAIN (R99). -/
  | overflowDrain (die cid rank : Nat)
  /-- JCAN_APPLY (R101). -/
  | jcanApply (src die : Nat)
  /-- JCAN_COMPLETE (R101). -/
  | jcanComplete (op : Nat)
  /-- ADJREG_REQUEST (R104). -/
  | adjregRequest (src die : Nat)
  /-- WINDOW_REFILL (R111). -/
  | windowRefill (die : Nat)
  /-- TASK_TRY (R111). -/
  | taskTry (die age : Nat)
  /-- LOCK_REQUEST (R108). -/
  | lockRequest (src eng : Nat)
  /-- LOCK_RESPONSE (R111). -/
  | lockResponse (src die : Nat)
  /-- LOCK_RELEASE (R108). -/
  | lockRelease (src eng : Nat)
  /-- TASK_CHAIN_END (R114). -/
  | taskChainEnd (die age : Nat)
  /-- STAKE_SLOT_GRANT (R116). -/
  | stakeSlotGrant (die age : Nat)
  /-- STAKE_REQUEST (R116). -/
  | stakeRequest (src eng : Nat)
  /-- DSPN_ARRIVE (R115). -/
  | dspnArrive (src die : Nat)
  /-- MESSAGE_LAND (R126). -/
  | messageLand (src core : Nat)
  /-- FAILURE_RECORD_WRITE (R136). -/
  | failureRecordWrite
  /-- WATCHDOG_EXPIRE (R137). -/
  | watchdogExpire (core : Nat)
  /-- BARRIER_ARRIVE (R143). -/
  | barrierArrive (core gid : Nat)
  /-- BARRIER_ADVANCE (R143). -/
  | barrierAdvance (gid : Nat)
  /-- LOOP_ITERATION (R324). -/
  | loopIteration (core : Nat)
  /-- TRANSLATION_REQUEST (R157). -/
  | translationRequest (die rtu : Nat)
  /-- WALK_STEP (R156). -/
  | walkStep (die rtu n : Nat)
  /-- FSTO_EXPIRE (R160). -/
  | fstoExpire (die rtu idx : Nat)
  /-- TLBINV_ARRIVE (R162). -/
  | tlbinvArrive (die rtu op : Nat)
  /-- TLBINV_ACK (R162). -/
  | tlbinvAck (die rtu op : Nat)
  /-- TLBINV_ACK_RECEIVE (R162). -/
  | tlbinvAckReceive (die rtu op : Nat)
  /-- LINE_EVICT (R149). -/
  | lineEvict (addr : Nat)
  /-- LEAVE (R169). -/
  | leave (core : Nat)
  /-- APPLY (R170). -/
  | applyStep (src dst cls : Nat)
  /-- SPURIOUS_WAKE (R182). -/
  | spuriousWake (core : Nat)
  /-- RETURN (R169). -/
  | returnStep (src core : Nat)
  /-- ACK (R175). -/
  | ack (core tok : Nat)
  /-- ENGINE (R179). -/
  | engine (core cmd k : Nat)
  /-- STREAM_ITEM_ARRIVE (R193). -/
  | streamItemArrive (src core : Nat)
  /-- STREAM_EOS_ARRIVE (R196). -/
  | streamEosArrive (src core : Nat)
  /-- CREDIT_ARRIVE (R194). -/
  | creditArrive (src core : Nat)
  /-- REROUTE_ARRIVE (R200). -/
  | rerouteArrive (src core : Nat)
  /-- REACK_ARRIVE (R202). -/
  | reackArrive (src core : Nat)
  /-- ORPHAN_ARRIVE (R206). -/
  | orphanArrive (src core : Nat)
  /-- FINACK_ARRIVE (R196). -/
  | finackArrive (src core : Nat)
  /-- RETIRE_ARRIVE (R202). -/
  | retireArrive (src core : Nat)
  /-- BOUNCE_ARRIVE (R203). -/
  | bounceArrive (src core : Nat)
  /-- STRMWAIT_EXPIRE (R203). -/
  | strmwaitExpire (die cid rank : Nat)
  /-- UNREACHABLE_DECLARATION_RECEIVE (R204). -/
  | unreachableDeclarationReceive (chip : Nat)
  /-- COMMAND_START (R355). -/
  | commandStart (core : Nat)
  /-- COMMAND_COMPLETE (R356). -/
  | commandComplete (core cmd : Nat)
  /-- MMAG_JOIN (R363). -/
  | mmagJoin (gid : Nat)
  /-- MMAG_STEP (R363). -/
  | mmagStep (gid : Nat)
  /-- RED_CONTRIBUTION_ARRIVE (R371). -/
  | redContributionArrive (core cmd : Nat)
  /-- RED_TIMEOUT (R371). -/
  | redTimeout (die cid tag : Nat)
  /-- COLL_TIMEOUT (R379). -/
  | collTimeout (core cmd : Nat)
  /-- ROUND_FORGET (R380). -/
  | roundForget (die cid gid round : Nat)
  /-- NIC_PACKET_SEND (R383). -/
  | nicPacketSend (die n : Nat)
  /-- NIC_PACKET_RECEIVE (R384). -/
  | nicPacketReceive (die : Nat) (p : Machine.NicPkt)
  /-- NIC_SACK_RECEIVE (R385). -/
  | nicSackReceive (die cid peer cum bitmap : Nat)
  /-- NIC_RETRANSMIT_TIMEOUT (R385). -/
  | nicRetransmitTimeout (die cid peer psn : Nat)
  /-- PORT_TRAINING (R13). -/
  | portTraining (port : Nat) (partnerOk : Bool)
  /-- TRIM_STEP_DEMAND (R76). -/
  | trimStepDemand (die row cause step : Nat)
  /-- NIC_REFUSAL_RECEIVE (R375). -/
  | nicRefusalReceive (die cid peer psn : Nat)
  /-- ILLEGAL_WORD (R234). -/
  | illegalWord (w : IWord)
  /-- FETCH_TRAP (R138). -/
  | fetchTrap
  deriving DecidableEq, Repr

end Sys2Proof
end

