-- ==== Sys2Proof/Machine/State.lean ====
section
/-! DEFINITION. The state of the machine: one package with all of its agents (00 to 26), as plain data, and its value at reset. -/

namespace Sys2Proof.Machine

/-- Why the machine stops. -/
inductive Fault where
  /-- Raised by the scalar stream of a core when the boot has failed and the package is halted (03 R58): nothing runs. Safe. -/
  | packageHalted
  deriving DecidableEq, Repr

/-- Why a step is refused. -/
inductive Refusal where
  /-- Raised by the arm of an instruction that has no meaning yet. Safe. -/
  | notModelled (mnemonic : String)
  deriving DecidableEq, Repr

/-- One move of the run (09 R169: the choice among enabled steps is free): time passing by n cycles, one move of a core's scalar
stream, or a step of another agent. -/
inductive Move where
  | tick (n : Nat)
  | core (c : Nat)
  | ev (i : Instr)
  deriving DecidableEq, Repr

/-- A first-in, first-out channel: an ordered pair of agents and a class (09 R168). -/
structure Chan where
  src : Nat
  dst : Nat
  cls : Nat
  q : List Packet
  deriving DecidableEq, Repr

/-- A submission waiting for acceptance (05 R85): from a window, or from KSUB with the core and token of its answer (20 R343). -/
structure SubReq where
  die : Nat
  cid : Nat
  inc : Nat
  words : List Word
  ans : Option (Nat × Nat)
  deriving DecidableEq, Repr

/-- A (source, MTAG) pair that this chip remembers as a leaf (02 R43). -/
structure LeafPair where
  src : Nat
  mtag : Nat
  since : Nat
  drop : Bool
  /-- the BFACK is due -/
  due : Bool
  deriving DecidableEq, Repr

/-- The boot status register (04 R81), and what the boot ROM leaves to the firmware (03 R59). -/
structure BootReg where
  count : Nat := 0
  failstep : Nat := 0
  cfg : Nat := 0
  state : Nat := 0
  /-- what boot has measured and derived (03 R59): the three digests, the attestation private key, its certificate, and the version that was booted -/
  digests : List Byte := []
  attPriv : List Byte := []
  attCert : List Byte := []
  fwVersion : Nat := 0
  deriving DecidableEq, Repr

/-- The whole machine. -/
structure State where
  /-- cycles since reset: CYCLE (12 R226) -/
  now : Nat := 0
  /-- the model's own: the moves to come, in the order in which this run takes them -/
  agenda : List Move := []
  /-- the model's own: the core whose scalar stream moves when no agenda move is left -/
  cur : Nat := 0
  /-- the model's own: free values drawn so far (log 4) -/
  free : Nat := 0
  chip : Nat := 0
  boot : BootReg := {}
  flash : Flash := {}
  ctxs : SMap Ctx := []
  /-- the span lists in supervisor memory, by the index that SPAN gives (03 R60, R64) -/
  spans : SMap (List Nat) := []
  /-- rank table entries, key CID x 2^16 + rank (05 R96) -/
  ranks : SMap Word := []
  parts : SMap Part := []
  /-- retired rows (03 R56) -/
  retired : List Nat := []
  mem : Memory := []
  /-- poisoned words of memory: physical address / 8 (04 R68) -/
  memPoison : List Nat := []
  /-- lines present in the slices: physical address / 64 (08 R149) -/
  lines : List Nat := []
  monitors : List Monitor := []
  chans : List Chan := []
  cores : SMap Core := []
  dies : Vector Die 2 := Vector.replicate 2 {}
  ports : SMap Port := []
  /-- end-to-end state, key chip x 16 + class (02 R35, R36) -/
  e2e : SMap E2e := []
  /-- counted stores sent, key (chip x 2 + die) (02 R39) -/
  counted : SMap Nat := []
  /-- packets for other chips that no port has taken yet (02 R28, R40) -/
  egress : List Packet := []
  switches : SMap Switch := []
  /-- multicast packets and contributions that have left a port or a switch and that no switch or leaf has taken yet (02 R42, R46) -/
  wire : List Packet := []
  mouts : List MOut := []
  mtagNext : Nat := 0
  pairs : List LeafPair := []
  adjs : List AdjReg := []
  /-- HOLDSZ: hold store of each die in MiB (03 R56, 06 R107) -/
  holdMiB : Nat := 4096
  holds : List HoldW := []
  kernels : List Kernel := []
  /-- kernels accepted so far; an identifier is the chip x 2^22 and this number (log 26) -/
  kidNext : Nat := 1
  reports : List Report := []
  /-- cores to which a scheduler's acknowledgement of a report is on its way, each with 2048 x the RPTID that it answers (05 R89) -/
  acks : List Nat := []
  gangs : List Gang := []
  frecs : List FailRec := []
  ops : List Op := []
  opNext : Nat := 1
  /-- messages that have landed so far, which numbers them in order of arrival (07 R126) -/
  landNext : Nat := 0
  images : List Image := []
  /-- consumer ends with no record, by SCID, SID and kind, for which a spill list had no room: their streams are cut short with CAUSE UCE (10 R201) -/
  lostEnds : List EndKey := []
  subs : List SubReq := []
  /-- agents of the package that a kill's broadcast has not reached: the incarnation that they still know, key agent x 4096 + CID (03 R61, R62) -/
  incLag : SMap Nat := []
  /-- what the host has read and what the maintenance interface has answered (03 R52, R59) -/
  hostOut : List Word := []
  reportsOut : List (List Byte) := []
  /-- the other chips of the fabric domain (01 R25, R27) -/
  domain : List Nat := []
  /-- expander capacity of a port in bytes (01 R27) -/
  cxl : SMap Nat := []
  /-- an input: lines (physical address / 64) that their CXL expander answers poisoned when a slice next fills them (01 R14) -/
  cxlPoison : List Nat := []
  /-- in-field test period in seconds (03 R56, 04 R72) -/
  testper : Nat := 86400
  /-- when the power-up of the rows began (04 R75) -/
  powerAt : Option Nat := none
  /-- cycles of the step changes that the ramp controller has granted in the last 10 µs (04 R76) -/
  grants : List Nat := []
  deriving DecidableEq, Repr

/-- The machine right after reset: every field at the value the spec states, or at the value that log 5 names. -/
def State.reset : State := {}

end Sys2Proof.Machine
end

