-- ==== Sys2Proof/Machine/Base.lean ====
section
/-! DEFINITION. Access to the state: cores, dies, contexts, ranks, agents and channels (05 R96, 02 R29, 09 R168). -/

namespace Sys2Proof.Machine

/-- The outcome of a meaning. -/
abbrev Out := Host.Outcome State Fault Refusal

/-! ### Cores: key die x 1024 + agent (05 R96) -/

/-- A core's state. -/
def coreOf (s : State) (c : Nat) : Core := mgetD s.cores c {}

/-- The state with a core replaced. -/
def setCore (s : State) (c : Nat) (k : Core) : State := { s with cores := mput s.cores c k }

/-- The state with a core changed. -/
def updCore (s : State) (c : Nat) (f : Core → Core) : State := setCore s c (f (coreOf s c))

/-- The current core's state. -/
def cc (s : State) : Core := coreOf s s.cur

/-- The state with the current core replaced. -/
def setCC (s : State) (k : Core) : State := setCore s s.cur k

def dieOf (c : Nat) : Nat := c / 1024
def agentOf (c : Nat) : Nat := c % 1024
def isCompute (c : Nat) : Bool := decide (agentOf c < 512)
def isMemCore (c : Nat) : Bool := decide (512 ≤ agentOf c) && decide (agentOf c < 640)
def isSup (c : Nat) : Bool := decide (640 ≤ agentOf c) && decide (agentOf c < 648)

/-- Row of a compute core, 0 to 127 (07 R121). -/
def rowOf (c : Nat) : Nat := dieOf c * 64 + agentOf c / 8

/-- Row pair of a compute core (03 R54). -/
def pairOf (c : Nat) : Nat := rowOf c / 2

/-- RTU that serves a core (08 R155). -/
def rtuOf (c : Nat) : Nat := if isCompute c then agentOf c / 8 else if isMemCore c then 64 + (agentOf c - 512) / 8 else 81

/-- Every core of the package. -/
def allCores : List Nat := (List.range 648) ++ (List.range 648).map (· + 1024)

/-! ### Registers (12 R221) -/

/-- x[r]: x0 reads as 0. -/
def rx (k : Core) (r : Reg) : Word := if r = 0 then 0 else k.x[r.toNat]'(by have := r.isLt; omega)

/-- The core with a register's poison gone: x r is r, v r is 64 + r, k r is 128 + r (04 R68). -/
def cleanReg (k : Core) (n : Nat) : Core := { k with badRegs := k.badRegs.filter fun m => !decide (m = n) }

/-- The core with x[r] written; a write to x0 is discarded. -/
def wx (k : Core) (r : Reg) (v : Word) : Core :=
  if r = 0 then k else cleanReg { k with x := k.x.set r.toNat v (by have := r.isLt; omega) } r.toNat

/-- Whether x[r] is poisoned. -/
def xbad (k : Core) (r : Reg) : Bool := decide (r.toNat ∈ k.badRegs)

/-- A register named by a number below 32. -/
def rg5 (n : Nat) : Reg := BitVec.ofNat 5 n

/-- v[r]. -/
def rv (k : Core) (r : Reg) : VWord := k.v[r.toNat]'(by have := r.isLt; omega)

/-- The core with v[r] written. -/
def wv (k : Core) (r : Reg) (v : VWord) : Core := cleanReg { k with v := k.v.set r.toNat v (by have := r.isLt; omega) } (64 + r.toNat)

/-- Whether v[r] is poisoned. -/
def vbad (k : Core) (r : Reg) : Bool := decide (64 + r.toNat ∈ k.badRegs)

/-- k[r]. -/
def rk (k : Core) (r : BitVec 3) : KWord := k.k[r.toNat]'(by have := r.isLt; omega)

/-- The core with k[r] written. -/
def wk (k : Core) (r : BitVec 3) (v : KWord) : Core := cleanReg { k with k := k.k.set r.toNat v (by have := r.isLt; omega) } (128 + r.toNat)

/-- Queue register n (07 R140). -/
def qreg (k : Core) (n : Nat) : List Word := k.q.toList.getD (n % 4) []

/-- The core with queue register n replaced. -/
def setQreg (k : Core) (n : Nat) (l : List Word) : Core := { k with q := k.q.set (n % 4) l (by omega) }

/-- The head of queue register n popped, the poison of the entries behind it moving up with them. -/
def popQ (k : Core) (n : Nat) : Core :=
  { setQreg k n (qreg k n).tail with badQ := (k.badQ.filter fun x => !decide (x.1 = n % 4 ∧ x.2 = 0)).map fun x => if x.1 = n % 4 then (x.1, x.2 - 1) else x }

/-- Whether the head of queue register n is poisoned. -/
def headBad (k : Core) (n : Nat) : Bool := decide ((n % 4, 0) ∈ k.badQ)

/-- Slot n of a core. -/
def slotOf (k : Core) (n : Nat) : Slot := k.slots[n % 4]'(by omega)

/-- The core with slot n replaced. -/
def setSlot (k : Core) (n : Nat) (t : Slot) : Core := { k with slots := k.slots.set (n % 4) t (by omega) }

/-- The core with slot n changed. -/
def updSlot (k : Core) (n : Nat) (f : Slot → Slot) : Core := setSlot k n (f (slotOf k n))

/-- Handler queue n of a slot. -/
def queueOf (t : Slot) (n : Nat) : HQueue := t.queues[n % 4]'(by omega)

/-- The slot with handler queue n replaced. -/
def setQueue (t : Slot) (n : Nat) (q : HQueue) : Slot := { t with queues := t.queues.set (n % 4) q (by omega) }

/-- Mailbox counter n of a slot. -/
def mbOf (t : Slot) (n : Nat) : Word := t.mb[n % 8]'(by omega)

/-- The slot with mailbox counter n replaced. -/
def setMb (t : Slot) (n : Nat) (w : Word) : Slot := { t with mb := t.mb.set (n % 8) w (by omega) }

/-- Region register n of a slot: 0 CODE, 1 FRAME, 2 LAND, 3 to 6 P0 to P3 (07 R123). -/
def rgOf (t : Slot) (n : Nat) : Word := t.rg.toList.getD n 0

/-- Tile n of a core. -/
def tileOf (k : Core) (n : Nat) : Tile := k.z[n % 8]'(by omega)

/-- The core with tile n replaced. -/
def setTile (k : Core) (n : Nat) (z : Tile) : Core := { k with z := k.z.set (n % 8) z (by omega) }

/-- The slot of the running activation, or slot 0 when none runs. -/
def curSlot (k : Core) : Nat := match k.act with | some a => a.slot | none => 0

/-- A core with a fresh token drawn: the token, and the core after it. -/
def freshTok (k : Core) : Nat × Core := (k.tok, { k with tok := k.tok + 1 })

/-! ### Dies -/

def dieAt (s : State) (d : Nat) : Die := s.dies[d % 2]'(by omega)
def setDie (s : State) (d : Nat) (x : Die) : State := { s with dies := s.dies.set (d % 2) x (by omega) }
def updDie (s : State) (d : Nat) (f : Die → Die) : State := setDie s d (f (dieAt s d))

/-- One more in a die counter of 04 R82, modulo 2^32: 0 STALEDROP, 1 STRMDROP, 2 PROTOERR, 3 REGERR, 4 ECCCE, 5 ECCUE, 6 NICLOST,
7 DUPDROP, 8 QLOST, 9 NOCTXDROP. -/
def count (s : State) (d n : Nat) : State :=
  updDie s d fun x => { x with counters := x.counters.set (n % 10) ((x.counters[n % 10]'(by omega) + 1) % 2 ^ 32) (by omega) }

/-- A free value's number, and the state after it is drawn (log 4). -/
def drawFree (s : State) : Nat × State := (s.free, { s with free := s.free + 1 })

/-! ### Contexts, incarnations and partitions (03 R54, R60, R61) -/

def ctxOf (s : State) (cid : Nat) : Ctx := mgetD s.ctxs cid {}
def updCtx (s : State) (cid : Nat) (f : Ctx → Ctx) : State := { s with ctxs := mupd s.ctxs cid {} f }
def ctxState (x : Ctx) : Nat := fld x.w0 63 62
def ctxPart (x : Ctx) : Nat := fld x.w0 61 56
def ctxPmax (x : Ctx) : Nat := fld x.w0 55 53
def ctxUnrec (x : Ctx) : Nat := fld x.w0 52 50
def ctxInc (x : Ctx) : Nat := fld x.w0 47 36

/-- FREE, which the reserved value 3 is treated as (03 R60). -/
def ctxFree (x : Ctx) : Bool := decide (ctxState x = 0) || decide (ctxState x = 3)

/-- The partition that owns a row pair: its number. -/
def pairPart (s : State) (pair : Nat) : Option Nat :=
  (s.parts.find? fun p => decide (p.2.pairs / 2 ^ pair % 2 = 1)).map (·.1)

/-- The partition that a core serves: its row pair's, or the residents' for a shared core (03 R54, 07 R123). -/
def corePart (s : State) (c : Nat) : Option Nat :=
  if isCompute c then pairPart s (pairOf c)
  else
    let rs := (coreOf s c).slots.toList.filterMap (·.resident)
    rs.head?.map fun r => ctxPart (ctxOf s r.cid)

/-- Whether a core can take a resident of a partition: it exists, its row is neither retired nor fenced, and it serves that
partition alone (07 R123, 03 R55). -/
def rowState (s : State) (row : Nat) : RowSt := mgetD (dieAt s (row / 64)).rows row {}
def coreUsable (s : State) (c part : Nat) : Bool :=
  decide (agentOf c < 648) &&
  (if isCompute c then
    !decide (rowOf c ∈ s.retired) && !(rowState s (rowOf c)).fenced && decide (pairPart s (pairOf c) = some part)
   else decide (corePart s c = none) || decide (corePart s c = some part))

/-! ### Agents: number chip x 2^16 + DAGENT (02 R29) -/

def agentId (s : State) (die kind idx : Nat) : Nat := s.chip * 65536 + die * 32768 + kind * 4096 + idx

/-- The NI of a core: kind 0, 2 or 5, index its agent number (log 21). -/
def niOf (s : State) (c : Nat) : Nat := agentId s (dieOf c) (if isCompute c then 0 else if isMemCore c then 2 else 5) (agentOf c)
def sliceOf (s : State) (die n : Nat) : Nat := agentId s die 1 n
def copyEng (s : State) (die row : Nat) : Nat := agentId s die 3 row
def nicOf (s : State) (die : Nat) : Nat := agentId s die 4 0
def dispOf (s : State) (die : Nat) : Nat := agentId s die 6 0
/-- Agents for which 02 R29 has no kind take indexes of the fabric agent's kind: 0 the fabric agent itself, 1 the host home agent,
2 the register block, 3 the scheduler, 4 the overflow store, 5 the affine units (log 21). -/
def fabOf (s : State) (die : Nat) : Nat := agentId s die 7 0
def hostOf (s : State) (die : Nat) : Nat := agentId s die 7 1
def regOf (s : State) (die : Nat) : Nat := agentId s die 7 2
def schedOf (s : State) (die : Nat) : Nat := agentId s die 7 3
def storeOf (s : State) (die : Nat) : Nat := agentId s die 7 4

def agChip (a : Nat) : Nat := a / 65536
def agDie (a : Nat) : Nat := a / 32768 % 2
def agKind (a : Nat) : Nat := a / 4096 % 8
def agIdx (a : Nat) : Nat := a % 4096

/-- A die's RTU as an agent (log 21). -/
def rtuAgent (die n : Nat) : Nat := die * 32768 + 7 * 4096 + 256 + n

/-- The current incarnation of a CID as an agent of this package knows it: its die's table, or the one before while a kill's broadcast is on
its way to the agent (03 R61, R62). -/
def incAt (s : State) (a cid : Nat) : Option Nat :=
  match mget s.incLag (a % 65536 * 4096 + cid) with
  | some i => some i
  | none => mget (dieAt s (a / 32768)).incTab cid

/-- Whether an item passes an admission or execution point of an agent: its INC is the table's (03 R61). -/
def incOk (s : State) (a cid inc : Nat) : Bool := decide (incAt s a cid = some inc)

/-- The core behind an NI's agent number. -/
def agCore (a : Nat) : Nat := agDie a * 1024 + agIdx a

/-- Whether an agent number is a core's NI. -/
def agIsCore (a : Nat) : Bool := decide (agKind a = 0) || decide (agKind a = 2) || decide (agKind a = 5)

/-! ### Physical addresses (01 R25 to R27, 08 R147, R148) -/

def paChip (pa : Nat) : Nat := fldN pa 55 46
def paClass (pa : Nat) : Nat := fldN pa 45 44
def paOff (pa : Nat) : Nat := fldN pa 43 0

/-- The die of an HBM or CXL address (01 R26). -/
def paDie (pa : Nat) : Nat :=
  if paClass pa = 0 then fldN pa 38 38 else if paClass pa = 1 then fldN pa 42 42 else if paClass pa = 3 then fldN pa 40 40 else 0

/-- The slice of an address (08 R148). -/
def paSlice (pa : Nat) : Nat :=
  fldN pa 13 8 ^^^ fldN pa 19 14 ^^^ fldN pa 25 20 ^^^ fldN pa 31 26 ^^^ fldN pa 37 32 ^^^ fldN pa 43 38

/-- The HBM channel of an HBM address, served by memory core 512 + channel of its die, and its stack (08 R148). -/
def paChannel (pa : Nat) : Nat := fldN pa 14 8 ^^^ fldN pa 21 15 ^^^ fldN pa 28 22 ^^^ fldN pa 35 29
def paStack (pa : Nat) : Nat := 4 * paDie pa + paChannel pa / 32

/-- Whether an address is populated (01 R27). What expanders another chip has is not known here; its HBM has the bound of every chip's. DESIGN CHOICE: a
CXL offset with bit 43 set, which 01 R26 gives no meaning, is unpopulated (log 51). -/
def populated (s : State) (pa : Nat) : Bool :=
  if paClass pa = 0 ∧ 0x8000000000 ≤ paOff pa then false
  else if paChip pa ≠ s.chip then decide (paChip pa ∈ s.domain)
  else if paClass pa = 0 then true
  else if paClass pa = 1 then
    decide (fldN pa 43 43 = 0) && decide (fldN pa 40 0 < mgetD s.cxl (fldN pa 42 41) 0)
  else true

/-- The home agent of a physical address, for a requester on a die (08 R147). -/
def homeOf (s : State) (die pa : Nat) : Nat :=
  let local_ :=
    if paClass pa = 2 then hostOf s die
    else if paClass pa = 3 then regOf s (paDie pa)
    else sliceOf s (paDie pa) (paSlice pa)
  if paChip pa = s.chip then local_ else paChip pa * 65536 + local_ % 65536

/-- The key of a die's port 0 to 17, or 18 for its end of the die-to-die link (04 R82). -/
def portKey (die p : Nat) : Nat := die * 32 + p
def portOf (s : State) (k : Nat) : Port := mgetD s.ports k {}
def updPort (s : State) (k : Nat) (f : Port → Port) : State := { s with ports := mupd s.ports k {} f }

/-! ### Channels (09 R168, R172) -/

/-- The packets in a channel. -/
def chanQ (s : State) (src dst cls : Nat) : List Packet :=
  match s.chans.find? fun h => decide (h.src = src ∧ h.dst = dst ∧ h.cls = cls) with
  | some h => h.q
  | none => []

/-- Channel contents replaced; an empty channel is not listed. -/
def setChan (s : State) (src dst cls : Nat) (q : List Packet) : State :=
  let rest := s.chans.filter fun h => !decide (h.src = src ∧ h.dst = dst ∧ h.cls = cls)
  { s with chans := if q = [] then rest else rest ++ [⟨src, dst, cls, q⟩] }

/-- A packet appended to its channel. -/
def chanPush (s : State) (p : Packet) : State := setChan s p.src p.dst p.cls (chanQ s p.src p.dst p.cls ++ [p])

/-- The head of a channel removed. -/
def chanPop (s : State) (src dst cls : Nat) : State := setChan s src dst cls (chanQ s src dst cls).tail

/-! ### End-to-end sending (02 R35, R36) -/

/-- The key of a triple. -/
def e2eKey (chip cls : Nat) : Nat := chip * 16 + cls

/-- Whether a packet to a chip can be taken: on this chip always; else the triple has room (02 R36). -/
def canSend (s : State) (dst cls : Nat) : Bool :=
  decide (agChip dst = s.chip) ||
  (let e := mgetD s.e2e (e2eKey (agChip dst) cls) {}; decide (e.unacked.length < 1024) && e.waiting.isEmpty)

/-- OPs whose stores are counted (02 R39). -/
def countedOp (op : Nat) : Bool := decide (op = 2) || decide (op = 3) || decide (op = 6)

def kernelOf (s : State) (kid : Nat) : Option Kernel := s.kernels.find? fun k => decide (k.kid = kid)

/-- The chip whose scheduler holds a kernel (log 26). -/
def kernelChip (kid : Nat) : Nat := kid / 2 ^ 22 % 1024

/-- The kernel that a packet's message names. -/
def bodyKernel : Body → Nat
  | .msg h _ _ => h.kernel
  | .launch h _ _ => h.kernel
  | .handle h _ _ _ _ _ => h.kernel
  | .dspn h _ _ => h.kernel
  | _ => 0

/-- The packet of a triple that is next: numbered, kept for resending, counted, and handed to the ports; a fence marker carries the count at this moment (02
R28, R35, R36, R39). -/
def e2eNumber (s : State) (p : Packet) : State :=
  let key := e2eKey (agChip p.dst) p.cls
  let e := mgetD s.e2e key {}
  let die := agChip p.dst * 2 + agDie p.dst
  let body := match p.body with | .marker _ t => Body.marker (mgetD s.counted die 0) t | b => b
  let p' := { p with seq := e.txNext, body := body, kinfo := p.kinfo.orElse fun _ => kernelOf s (bodyKernel p.body) }
  let e' := { e with txNext := (e.txNext + 1) % 2 ^ 24, unacked := e.unacked ++ [{ seq := e.txNext, pkt := p', sent := s.now }] }
  let s := { s with e2e := mput s.e2e key e', egress := s.egress ++ [p'] }
  if countedOp p.op ∧ p.cls = 1 then { s with counted := mupd s.counted die 0 fun n => (n + 1) % 2 ^ 32 } else s

/-- A unicast packet to another chip: behind 1,024 unacknowledged ones of its triple it waits at injection (02 R36, R48). -/
def e2eSend (s : State) (p : Packet) : State :=
  if canSend s p.dst p.cls then e2eNumber s p
  else { s with e2e := mupd s.e2e (e2eKey (agChip p.dst) p.cls) {} fun e => { e with waiting := e.waiting ++ [p] } }

/-- Packets of a triple that wait leave while there is room. -/
def e2eDrain (key : Nat) : Nat → State → State
  | 0, s => s
  | n + 1, s =>
    let e := mgetD s.e2e key {}
    match e.waiting with
    | p :: ps => if e.unacked.length < 1024 then e2eDrain key n (e2eNumber { s with e2e := mput s.e2e key { e with waiting := ps } } p) else s
    | [] => s

/-- A packet sent: into its channel on this chip, or to the end-to-end layer. -/
def emit (s : State) (p : Packet) : State := if agChip p.dst = s.chip then chanPush s p else e2eSend s p

/-! ### Ranks (05 R96, R97) -/

def rankEntry (s : State) (cid rank : Nat) : Word := mgetD s.ranks (cid * 65536 + rank % 65536) 0
def reState (e : Word) : Nat := fld e 63 62
def reChip (e : Word) : Nat := fld e 61 52
def reDie (e : Word) : Nat := fld e 51 51
def reCore (e : Word) : Nat := fld e 51 51 * 1024 + fld e 50 41
def reSlot (e : Word) : Nat := fld e 40 39

/-- A rank resolved at an NI through its cache of 256 entries (05 R96): the entry, and the core with the entry cached. -/
def resolve (s : State) (c cid rank : Nat) : Word × State :=
  let k := coreOf s c
  match k.rcache.find? fun e => decide (e.cid = cid ∧ e.rank = rank % 65536) with
  | some e => (e.entry, s)
  | none =>
    let w := rankEntry s cid rank
    let l := k.rcache ++ [⟨cid, rank % 65536, w⟩]
    (w, setCore s c { k with rcache := if l.length > 256 then l.tail else l })

/-- The NI that an entry names, on whichever chip. -/
def reAgent (s : State) (e : Word) : Nat := reChip e * 65536 + niOf s (reCore e) % 65536

/-- Whether the core that a rank entry names serves another partition than the context's (03 R55): a compute core by its row pair, a memory or supervisor
core by the resident of the slot; of another chip's cores nothing is known here (log 53). -/
def foreignCore (s : State) (cid : Nat) (e : Word) : Bool :=
  let part := ctxPart (ctxOf s cid)
  if reChip e ≠ s.chip then Config.farForeign (reAgent s e) part
  else if isCompute (reCore e) then decide (pairPart s (pairOf (reCore e)) ≠ some part)
  else (slotOf (coreOf s (reCore e)) (reSlot e)).resident.any fun r => decide (ctxPart (ctxOf s r.cid) ≠ part)

/-! ### Other chips (log 40) -/

/-- The span list of a context: the one that SPAN of its entry selects (03 R60, R64). -/
def spanOf (s : State) (cid : Nat) : List Nat := mgetD s.spans (fld (ctxOf s cid).w0 23 16) []

/-- The other chips of a context's span (03 R64). -/
def spanOthers (s : State) (cid : Nat) : List Nat := (spanOf s cid).filter fun c => decide (c ≠ s.chip)

/-- A management packet to another chip's fabric agent. -/
def mgmtPkt (s : State) (chip cid : Nat) (op : Nat) (body : Body) : Packet :=
  { src := fabOf s 0, dst := chip * 65536 + 7 * 4096, cls := 7, op := op, cid := cid, inc := ctxInc (ctxOf s cid), len := 1, body := body }

/-- It sent. -/
def mgmtTo (s : State) (chip cid : Nat) (op : Nat) (body : Body) : State := emit s (mgmtPkt s chip cid op body)

/-- The home chip of a context: the first of its span list (03 R60). -/
def homeChip (s : State) (cid : Nat) : Nat := (spanOf s cid).headD s.chip

/-! ### Kernels, reports and failure records (05 R89, 07 R135) -/

def updKernel (s : State) (kid : Nat) (f : Kernel → Kernel) : State :=
  { s with kernels := s.kernels.map fun k => if k.kid = kid then f k else k }

/-- A live-count report; a message of KERNEL 0 is not counted. -/
def report (s : State) (kid : Nat) (delta : Int) (ackTo : Option Nat) : State :=
  if kid = 0 then s else { s with reports := s.reports ++ [⟨kid, delta, ackTo⟩] }

/-- The SUBTAG of a kernel. -/
def subtagOf (s : State) (kid : Nat) : Word := match kernelOf s kid with | some k => k.subtag | none => 0

/-- A failure record queued for its ring (07 R135, R136). -/
def failRec (s : State) (r : FailRec) : State := { s with frecs := s.frecs ++ [r] }

/-- A message identifier drawn for a context by an NI (07 R127). -/
def freshMsg (s : State) (cid : Nat) : Nat × State := (s.chip * 2 ^ 48 + (ctxOf s cid).msgNext, updCtx s cid fun x => { x with msgNext := x.msgNext + 1 })

/-- The payload granules of a message of n bytes with its header (10 R185). -/
def msgLen (n : Nat) : Nat := 2 + (n + 15) / 16

end Sys2Proof.Machine
end

