-- ==== Sys2Proof/Machine/Land.lean ====
section
/-! DEFINITION. Local memory with its monitors, and messages landing in a slot (07 R124 to R126, R389; 09 R182; 10 R185). -/

namespace Sys2Proof.Machine

/-! ### Regions of a slot (07 R123, R124, R138) -/

def rgV (r : Word) : Bool := bit r 63
def rgFuse (r : Word) : Bool := bit r 62
def rgBase (r : Word) : Nat := fld r 18 8 * 256
def rgSize (r : Word) : Nat := fld r 51 40 * 256
def rgHas (r : Word) (a : Nat) : Bool := rgV r && decide (rgBase r ≤ a) && decide (a < rgBase r + rgSize r)

/-- Whether a byte lies in P0 to P3. -/
def inP (t : Slot) (a : Nat) : Bool := (t.rg.toList.drop 3).any fun r => rgHas r a
def inFrame (t : Slot) (a : Nat) : Bool := rgHas (rgOf t 1) a

/-- XB as a number: BOUND x 256 (07 R138). -/
def xbOf (t : Slot) : Nat := fld t.xb 19 8 * 256

/-- The cause that an activation's own access of one byte takes, if any (07 R124): 0x21 XONLY, 0x27 PRIV. -/
def byteFault (t : Slot) (a : Nat) (wr : Bool) : Option Nat :=
  if rgHas (rgOf t 0) a then (if a < xbOf t then some 0x21 else none)
  else if inFrame t a || inP t a then none
  else if rgHas (rgOf t 2) a then (if wr then some 0x27 else none)
  else some 0x27

/-- The first byte of [a, a + n) that faults, with its cause: regions and XB have bounds of 256 bytes. -/
def rangeFault (t : Slot) (a n : Nat) (wr : Bool) : Option (Nat × Nat) :=
  if n = 0 then none
  else
    let pts := (List.range ((a + n - 1) / 256 - a / 256 + 1)).map fun i => max a ((a / 256 + i) * 256)
    pts.findSome? fun p => (byteFault t p wr).map fun c => (c, p)

/-! ### LM and its monitors -/

/-- The answer to the arming request of another chip's core: its wake reason (09 R182; 02 R29). -/
def farWake (s : State) (p : Packet) (tok reason : Nat) : State :=
  emit s { dst := p.src, src := p.dst, cls := 4, op := 0x10, cid := p.cid, inc := p.inc, rseq := p.seq, rcls := p.cls, len := 1, body := .rdata tok (wd reason) false }

/-- A core whose WAITM sleeps wakes with a reason; its monitor goes and its outstanding entry completes, also where the activation that slept has ended
meanwhile (09 R182, R184; 16 R304). Numbers from 2^40 on are cores of other chips, whose answer goes back. -/
def wakeCore (s : State) (c reason : Nat) : State :=
  let mine := s.monitors.filter fun m => decide (m.core = c)
  let s := { s with monitors := s.monitors.filter fun m => !decide (m.core = c) }
  if 2 ^ 40 ≤ c then mine.foldl (fun s m => match m.far with | some p => farWake s p m.tok reason | none => s) s
  else
    let k := coreOf s c
    let gone := fun (o : OutE) => decide (o.kind = .arm) && (decide (k.wait = .armed o.tok) || mine.any fun m => decide (m.tok = o.tok))
    match k.wait, mine with
    | .armed _, _ => setCore s c { k with wait := .woke reason, out := k.out.filter fun o => !gone o }
    | _, [] => s
    | _, _ => setCore s c { k with out := k.out.filter fun o => !gone o }

/-- The cores whose monitor at a home covers a byte of [a, a + n). -/
def watchers (s : State) (lm : Bool) (home a n : Nat) : List Nat :=
  (s.monitors.filter fun m =>
    decide (m.lm = lm) && (!lm || decide (m.home = home)) && decide (m.block < a + n) && decide (a < m.block + 64)).map (·.core)

/-- Every watcher of [a, a + n) woken. -/
def wakeAll (s : State) (lm : Bool) (home a n reason : Nat) : State :=
  (watchers s lm home a n).foldl (fun s c => wakeCore s c reason) s

/-- Word numbers (address / 8) that [a, a + n) covers whole. -/
def wholeWords (a n : Nat) : List Nat := (List.range (n / 8 + 1)).map (fun i => (a + 7) / 8 + i) |>.filter fun w => decide (w * 8 + 8 ≤ a + n)

/-- Word numbers that [a, a + n) touches. -/
def touchWords (a n : Nat) : List Nat := if n = 0 then [] else (List.range ((a + n - 1) / 8 - a / 8 + 1)).map (· + a / 8)

/-- Bytes written into a core's LM: whole words lose their poison, and watchers wake (09 R182, 04 R68). -/
def lmWrite (s : State) (c a : Nat) (bs : List Byte) : State :=
  let k := coreOf s c
  let whole := wholeWords a bs.length
  let s := setCore s c { k with lm := wrBytes k.lm a bs, poison := k.poison.filter fun w => !decide (w ∈ whole) }
  wakeAll s true c a bs.length 1

/-- Words added to a sorted list without repeats. -/
def addSorted : List Nat → Nat → List Nat
  | [], a => [a]
  | b :: l, a => if a < b then a :: b :: l else if a = b then b :: l else b :: addSorted l a

/-- A full/empty bit written; a change wakes watchers (09 R180, R182). -/
def feSet (s : State) (c a : Nat) (full : Bool) : State :=
  let k := coreOf s c
  let w := a / 8
  let was := decide (w ∈ k.fe)
  let s := setCore s c { k with fe := if full then addSorted k.fe w else k.fe.filter fun x => !decide (x = w) }
  if was = full then s else wakeAll s true c (w * 8) 8 2

/-- A write that sets the word at a full in the same step. A sleeper on the block of a word that was empty is woken by the write and by the change of
the bit at once, and its reason is 1 or 2: the spec does not say which (log 46). -/
def feFill (s : State) (c a : Nat) : State :=
  let k := coreOf s c
  let w := a / 8
  let was := decide (w ∈ k.fe)
  let s := setCore s c { k with fe := addSorted k.fe w }
  if was then s else wakeAll s true c (w * 8) 8 (if bit (Config.freeWord s.free) 0 then 1 else 2)

/-- Bytes written into a core's LM, and every word they touch set full where asked, in one step. -/
def lmWriteFull (s : State) (c a : Nat) (bs : List Byte) (full : Bool) : State :=
  lmWrite (if full then (touchWords a bs.length).foldl (fun s w => feFill s c (8 * w)) s else s) c a bs

/-- Poison put on the words that [a, a + n) touches. -/
def lmPoison (s : State) (c a n : Nat) : State :=
  updCore s c fun k => { k with poison := (touchWords a n).foldl addSorted k.poison }

/-- Whether a word of [a, a + n) is poisoned. -/
def lmBad (k : Core) (a n : Nat) : Bool := (touchWords a n).any fun w => decide (w ∈ k.poison)

/-! ### The error injector (04 R74) -/

/-- One access of a context at a die, against a target bit of EINJCTL: the generator's next state, and whether the access is poisoned. -/
def inject (s : State) (die cid target : Nat) : Bool × State :=
  let d := dieAt s die
  let p := fld d.einjctl 37 32
  if d.einjseed ≠ 0 ∧ bit d.einjctl target = true ∧ p < 40 ∧ ctxPart (ctxOf s cid) = p ∧ (mgetD s.parts p {}).test = true then
    let x := Config.xorshift d.einjseed
    (decide (fld x 31 0 < fld d.einjctl 31 8 * 256), setDie s die { d with einjseed := x })
  else (false, s)

/-! ### Physical memory -/

/-- Bytes written to memory at their home: whole words lose their poison, and watchers wake (09 R182). -/
def memWrite (s : State) (pa : Nat) (bs : List Byte) : State :=
  let whole := wholeWords pa bs.length
  let s := { s with mem := wrBytes s.mem pa bs, memPoison := s.memPoison.filter fun w => !decide (w ∈ whole) }
  wakeAll s false 0 pa bs.length 1

def memPoisonAdd (s : State) (pa n : Nat) : State := { s with memPoison := (touchWords pa n).foldl addSorted s.memPoison }
def memBad (s : State) (pa n : Nat) : Bool := (touchWords pa n).any fun w => decide (w ∈ s.memPoison)

/-- A line leaves its slice: watchers of it wake (09 R182). -/
def evict (s : State) (pa : Nat) : State :=
  if pa / 64 ∈ s.lines then wakeAll { s with lines := s.lines.filter fun l => !decide (l = pa / 64) } false 0 (pa / 64 * 64) 64 3 else s

/-- The lines of 64 bytes that a slice of 8 MiB holds (01 R9, 08 R149). -/
def sliceLines : Nat := 131072

/-- A line filled at its slice where it is not present. A full slice gives up one of its lines first: which is not stated, and the model takes the one
of the lowest address (DESIGN CHOICE, log 51). A poisoned response of a CXL expander poisons the line (01 R14). -/
def fillLine (s : State) (pa : Nat) : State :=
  if pa / 64 ∈ s.lines then s
  else
    let mine := s.lines.filter fun l => decide (paDie (64 * l) = paDie pa ∧ paSlice (64 * l) = paSlice pa)
    let s := if mine.length < sliceLines then s else match mine.head? with | some l => evict s (64 * l) | none => s
    let s := { s with lines := addSorted s.lines (pa / 64) }
    if paClass pa = 1 ∧ pa / 64 ∈ s.cxlPoison then memPoisonAdd { s with cxlPoison := s.cxlPoison.erase (pa / 64) } (pa / 64 * 64) 64 else s

/-- The lines that [pa, pa + n) touches become present at their slice, or leave it when the access is uncached (08 R149). -/
def touchLines (s : State) (pa n : Nat) (unc : Bool) : State :=
  if paClass pa ≥ 2 ∨ paChip pa ≠ s.chip ∨ n = 0 then s
  else (List.range ((pa + n - 1) / 64 - pa / 64 + 1)).foldl (fun s i => if unc then evict s (64 * (pa / 64 + i)) else fillLine s (64 * (pa / 64 + i))) s

/-! ### The acknowledgement of an effect (09 R169, R175) -/

/-- The first record of a token and a target in an unacknowledged set marked as applied. One effect may stand for several packets. -/
def markFirst (tok dst : Nat) : List UnE → List UnE
  | [] => []
  | u :: us => if u.tok = tok ∧ u.applied = false ∧ (u.target = dst ∨ u.target = 0) then { u with applied := true } :: us else u :: markFirst tok dst us

/-- The token of element operation i of a command of a core: all of them lie above those of scalar effects. -/
def engTok (core cmd i : Nat) : Nat := 2 ^ 60 + (cmd * 2048 + core) * 2 ^ 33 + i

/-- Whether a token is an element operation's; its core, its command and its number. -/
def isEng (tok : Nat) : Bool := decide (2 ^ 60 ≤ tok)
def engOf (tok : Nat) : Nat × Nat × Nat :=
  let n := tok - 2 ^ 60
  (n / 2 ^ 33 % 2048, n / 2 ^ 33 / 2048, n % 2 ^ 33)

/-- A started command changed. -/
def updRun (s : State) (core cmd : Nat) (f : RunCmd → RunCmd) : State :=
  updCore s core fun k => { k with run := k.run.map fun r => if r.cmd.tok = cmd then f r else r }

/-- An element operation applied at its home, or refused there (09 R179, 23 R369). -/
def engDone (s : State) (tok : Nat) (refused : Bool) : State :=
  let (core, cmd, i) := engOf tok
  updRun s core cmd fun r =>
    { r with asked := if i ∈ r.asked then r.asked else r.asked ++ [i], done_ := if i ∈ r.done_ then r.done_ else r.done_ ++ [i]
             refused := r.refused + b2n refused, pend := r.pend.erase i }

/-- A source word of a command has come back from its home. -/
def engGot (s : State) (tok : Nat) (v : Word) (bad : Bool) : State :=
  let (core, cmd, i) := engOf tok
  updRun s core cmd fun r => if i ∈ r.pend then { r with reads := mput r.reads i (v, bad), pend := r.pend.erase i } else r

/-- A read of a command that brings no word: the word counts as refused where each word is an element operation of its own (ZLD, COPY); for every other
command it is a consumed uncorrectable error, as a poisoned word is (02 R34, R37; 23 R369). -/
def engLost (s : State) (tok : Nat) : State :=
  let (core, cmd, _) := engOf tok
  let code := ((coreOf s core).run.find? fun r => decide (r.cmd.tok = cmd)).map fun r => fld r.cmd.w0 63 56
  if code = some 0x02 ∨ code = some 0x10 then engDone s tok true else engGot s tok 0 true

/-- Whether a token is that of a word asked for. -/
def engPends (s : State) (tok : Nat) : Bool :=
  let (core, cmd, i) := engOf tok
  (coreOf s core).run.any fun r => decide (r.cmd.tok = cmd ∧ i ∈ r.pend)

/-- A command ends: status, AUX and no VALUE (23 R365, R366). -/
def endRun (s : State) (core cmd st aux : Nat) : State := updRun s core cmd fun r => { r with result := some (st, aux, 0), stalled := false }

/-- A contributor told how its contribution to an ordered reduction ended: its command on this chip, or its chip (log 40). -/
def redEnd (s : State) (cid who tok status : Nat) : State :=
  if who < 2 ^ 20 then endRun s who tok status 0 else mgmtTo s (agChip (who - 2 ^ 20)) cid 0x21 (.mgmt 11 (status + 256 * tok))

/-- The token of a word of an ordered reduction's result on its way to its destination, by the number of its group. -/
def redTok (id : Nat) : Nat := 2 ^ 58 + id
def isRedTok (tok : Nat) : Bool := decide (2 ^ 58 ≤ tok) && decide (tok < 2 ^ 59)

/-- A word of an ordered reduction's result applied or refused at its home: with the last of them every contributor completes (23 R371). -/
def redWordDone (s : State) (die tok : Nat) (refused : Bool) : State :=
  match (dieAt s die).reds.find? fun g => decide (redTok g.id = tok) && g.left.isSome with
  | none => s
  | some g =>
    let g' := { g with left := g.left.map (· - 1), no := g.no + b2n refused }
    if g'.left = some 0 then
      let s := updDie s die fun d => { d with reds := d.reds.filter fun x => !decide (x.id = g.id ∧ x.left.isSome = true) }
      g.got.foldl (fun s x => redEnd s g.cid x.2.1 x.2.2.1 (if g'.no = 0 then 0 else 0x6A)) s
    else updDie s die fun d => { d with reds := d.reds.map fun x => if x = g then g' else x }

/-- The effect with a token in the sender's unacknowledged set has been applied or dropped at its target: its ACK step is due. -/
def markApplied (s : State) (src tok dst : Nat) : State :=
  if agChip src = s.chip ∧ isEng tok = true then engDone s tok false
  else if agChip src = s.chip ∧ isRedTok tok = true then redWordDone s (agDie src) tok false
  else if agChip src = s.chip ∧ agKind src = 4 then
    updDie s (agDie src) fun d => { d with nic := { d.nic with placing := d.nic.placing.map fun r => if 2 ^ 59 + r.id = tok then { r with left := r.left - 1 } else r } }
  else if agChip src = s.chip ∧ agIsCore src then updCore s (agCore src) fun k => { k with unack := markFirst tok dst k.unack } else s

/-! ### Landing (07 R126, R389) -/

/-- LAND blocks taken in a slot: (address, bytes) of queued messages, of the running activation's and of waiting gates. -/
def landUsed (k : Core) (slot : Nat) : List (Nat × Nat) :=
  let qs := (slotOf k slot).queues.toList.flatMap (·.msgs)
  let as_ := match k.act with | some a => if a.slot = slot then [a.msg] else [] | none => []
  let ss := match k.succ with | some a => if a.slot = slot then [a.msg] else [] | none => []
  let gs := k.gates.filterMap fun g => if g.2.1 = slot then some g.2.2 else none
  ((qs ++ as_ ++ ss ++ gs).filter fun m => decide (m.len ≠ 0)).map fun m => (m.addr, roundUp m.len 64)

/-- The lowest-addressed run of free blocks of LAND that holds n bytes; the base of LAND for an empty payload (07 R126). -/
def landPlace (k : Core) (slot n : Nat) : Option Nat :=
  let r := rgOf (slotOf k slot) 2
  if n = 0 then some (rgBase r)
  else
    let need := roundUp n 64
    let used := landUsed k slot
    let ok := fun a => decide (a + need ≤ rgBase r + rgSize r) && used.all fun u => decide (a + need ≤ u.1) || decide (u.1 + u.2 ≤ a)
    let cand := (rgBase r :: used.map fun u => u.1 + u.2).filter ok
    match cand with
    | [] => none
    | c :: cs => some (cs.foldl min c)

/-- A message reported failed without having started: KIND 1, and its live count falls by 1 (07 R135, 05 R89). DETAIL is not
stated for it: a free value. -/
def failMsg (s : State) (cause cid inc rank aborts : Nat) (h : MsgHdr) : State :=
  let (f, s) := drawFree s
  let s := failRec s { cause := cause, kind := 1, inc := inc, cid := cid, aborts := aborts, rank := rank, msgid := h.msgid,
                       subtag := subtagOf s h.kernel, detail := Config.freeWord f }
  report s h.kernel (-1) none

/-- One more dropped stale item at a core's NI (03 R61, 04 R82). -/
def staleAt (s : State) (c : Nat) : State := count (updCore s c fun k => { k with stale := (k.stale + 1) % 2 ^ 32 }) (dieOf c) 0

/-- The bytes that a message takes in the overflow store (05 R99). -/
def parkSize (n : Nat) : Nat := 64 + roundUp n 64

/-- The payload of a message packet. -/
def payOf : Body → List Byte
  | .msg _ p _ => p
  | .launch _ _ p => p
  | .handle _ h0 h1 _ _ _ => wordsBytes [h0, h1]
  | .dspn _ _ p => p
  | .item _ items _ => wordsBytes items
  | _ => []

/-- The header of a message packet. -/
def hdrOf : Body → MsgHdr
  | .msg h _ _ => h
  | .launch h _ _ => h
  | .handle h _ _ _ _ _ => h
  | .dspn h _ _ => h
  | _ => {}

/-- A resident's list in a die's overflow store. -/
def ovOf (s : State) (die cid rank : Nat) : Option OvList := (dieAt s die).ov.find? fun o => decide (o.cid = cid ∧ o.rank = rank)

/-- A partition's share of a die's overflow store in bytes (03 R56, 05 R99). -/
def ovShare (s : State) (cid : Nat) : Nat := (mgetD s.parts (ctxPart (ctxOf s cid)) {}).ovMiB * 2 ^ 20

/-- Bytes in use of a partition's share. -/
def ovUsed (s : State) (die cid : Nat) : Nat := mgetD (dieAt s die).ovUsed (ctxPart (ctxOf s cid)) 0

/-- A list of the store replaced; an empty list without a raised trap is not kept. -/
def setOv (s : State) (die : Nat) (o : OvList) : State :=
  updDie s die fun d =>
    let rest := d.ov.filter fun x => !decide (x.cid = o.cid ∧ x.rank = o.rank)
    { d with ov := if o.items = [] ∧ o.trapped = false then rest else rest ++ [o] }

/-- A packet put at the end (or the head) of a resident's list with its size; none when the partition's share is full. -/
def ovPut (s : State) (die cid rank : Nat) (p : Packet) (atHead : Bool) : Option State :=
  let sz := parkSize (payOf p.body).length
  if ovUsed s die cid + sz > ovShare s cid then none
  else
    let o := (ovOf s die cid rank).getD { cid := cid, rank := rank }
    let o := { o with items := if atHead then (p, s.now) :: o.items else o.items ++ [(p, s.now)] }
    some (updDie (setOv s die o) die fun d => { d with ovUsed := mupd d.ovUsed (ctxPart (ctxOf s cid)) 0 (· + sz) })

/-- A packet's room in the store given back. -/
def ovFree (s : State) (die cid : Nat) (p : Packet) : State :=
  updDie s die fun d => { d with ovUsed := mupd d.ovUsed (ctxPart (ctxOf s cid)) 0 (· - parkSize (payOf p.body).length) }

/-- Whether a resident has a list that later arrivals follow (07 R126): one that holds messages. -/
def spilling (s : State) (die cid rank : Nat) : Bool :=
  match ovOf s die cid rank with
  | some o => o.items.any fun p => decide (p.1.cls = 2)
  | none => false

/-- The priority of the activation that runs; above every message's when none does. -/
def runPrio (k : Core) : Nat := match k.act with | some a => a.msg.hdr.prio | none => 8

/-- What PEND says of a core that runs an activation: an armed gate, a pre-emption request, or a queued message of a higher base priority waits for it
(07 R129). DEDUCED: HALT's STOP is the pre-emption request (log 56). -/
def pendOf (k : Core) : Bool :=
  !k.gates.isEmpty || k.stopped || k.slots.toList.any fun t => t.queues.toList.any fun q => q.msgs.any fun m => decide (runPrio k < m.hdr.prio)

/-- PEND set on a core whose running activation it concerns; it wakes a WAITM (07 R129, R137; 09 R182). -/
def setPend (s : State) (c : Nat) : State :=
  if (coreOf s c).act.isSome then wakeCore (updCore s c fun k => { k with pend := true }) c 5 else s

/-- PEND as it stands, where what it told of may have gone. -/
def pendNow (s : State) (c : Nat) : State := updCore s c fun k => { k with pend := k.pend && k.act.isSome && pendOf k }

/-- The issued dispatcher task of this chip that became a message, with its die (06 R112). -/
def taskOf (s : State) (cid msgid : Nat) : Option (Nat × Task) :=
  let at_ := fun (die : Nat) => ((dieAt s die).disp.window.find? fun t => decide (t.state = 4 ∧ t.cid = cid ∧ t.msgid = msgid)).map fun t => (die, t)
  (at_ 0).orElse fun _ => at_ 1

/-- A message placed in a handler queue and its payload in LAND. -/
def enqueue (s : State) (c slot addr cid inc : Nat) (h : MsgHdr) (pay : List Byte) (poison : Bool) : State :=
  let s := if pay = [] then s else lmWrite s c addr pay
  let s := if poison then lmPoison s c addr pay.length else s
  let task := if h.mkind = 5 then taskOf s cid h.msgid else none
  let m : QMsg := { task := task.map fun t => (t.1, t.2.age), aborts := (task.map (·.2.aborts)).getD h.aborts, hdr := { h with aborts := 0 }, cid := cid, inc := inc, addr := addr, len := pay.length,
                    poison := poison, seq := s.landNext,
                    eosEnd := if h.mkind = 6 then some (h.x7, h.x6) else none }
  let s := updCore { s with landNext := s.landNext + 1 } c fun k => updSlot k slot fun t =>
    let q := queueOf t h.queue
    setQueue t h.queue { q with msgs := q.msgs ++ [m] }
  let k := coreOf s c
  let s := match k.act with
    | some a => if a.slot = slot then wakeCore s c 4 else s
    | none => s
  if decide (k.act.isSome) && decide (runPrio k < h.prio) then setPend s c else s

/-- A message placed at its LAND blocks, where the error injector may strike (04 R74): whether it landed poisoned. -/
def landNow (s : State) (c slot a : Nat) (p : Packet) (h : MsgHdr) (pay : List Byte) (poison : Bool) : Bool × State :=
  let (hit, s) := if pay = [] then (false, s) else inject s (dieOf c) p.cid 0
  (poison || hit, enqueue s c slot a p.cid p.inc h pay (poison || hit))

/-- A message packet for a slot, past its checks: landed, spilled, or reported (07 R126); and whether it has landed poisoned, which consumes the poison
(04 R69). -/
def landAt (s : State) (c slot : Nat) (p : Packet) : Bool × State :=
  let k := coreOf s c
  let t := slotOf k slot
  let h := hdrOf p.body
  let pay := payOf p.body
  match t.resident with
  | none => (false, failMsg s 0x42 p.cid p.inc h.trank 0 h)
  | some r =>
    if roundUp pay.length 64 > rgSize (rgOf t 2) then (false, failMsg s 0x29 p.cid p.inc h.trank 0 h)
    else
      let room := decide ((queueOf t h.queue).msgs.length < 256)
      match landPlace k slot pay.length, room && !spilling s (dieOf c) r.cid r.rank with
      | some a, true => landNow s c slot a p h pay (p.bad || match p.body with | .msg _ _ b => b | _ => false)
      | _, _ =>
        match ovPut s (dieOf c) r.cid r.rank p false with
        | some s => (false, s)
        | none => (false, failMsg s 0x29 p.cid p.inc h.trank 0 h)

/-- A message of the NI's own, for an ended stream: one whose word is poisoned seals its core when its activation starts (10 R196). -/
def land (s : State) (c slot : Nat) (p : Packet) : State := (landAt s c slot p).2

/-- A message header that an NI drops (10 R185). -/
def badHdr (h : MsgHdr) (n : Nat) : Bool := decide (h.mkind > 8) || decide (h.rsv ≠ 0) || decide (n > 2048)

end Sys2Proof.Machine
end

