-- ==== Sys2Proof/Machine/Streams.lean ====
section
/-! DEFINITION. Stream ends at an NI, and what travels between them (10 R187 to R208). End states are those of 10 R190: 0 FREE,
1 OPEN, 2 PENDING, 3 UNRINGED, 4 ENDED, 5 CLOSED, 6 ORPHANED, 7 FORWARD; kinds are 0 producer, 1 consumer. -/

namespace Sys2Proof.Machine

/-! ### Sending to a rank (05 R97) -/

/-- The slot that a packet's rank resolves to, written into the packet. -/
def addressed (s : State) (e : Word) (p : Packet) : Packet := { p with dst := reAgent s e, slot := reSlot e }

/-- Whether the NI still holds packets for a rank: later ones follow them (10 R186). -/
def holdsFor (k : Core) (cid rank : Nat) : Bool := k.transit.any fun p => decide (p.cid = cid ∧ p.dst = rank)

/-- A packet put in its way from a core's NI to a rank of its context (05 R97). An INVALID rank reports a message with NORANK and drops a stream packet. -/
def sendRank' (s : State) (c cid rank : Nat) (p : Packet) : State :=
  let (e, s) := resolve s c cid rank
  let p := { p with src := niOf s c }
  match (if holdsFor (coreOf s c) cid rank then 2 else reState e) with
  | 1 => emit s (addressed s e p)
  | 2 => updCore s c fun k => { k with transit := k.transit ++ [{ p with dst := rank }] }
  | 3 => emit s { p with dst := reChip e * 65536 + storeOf s (reDie e) % 65536, slot := reSlot e }
  | _ =>
    match p.body with
    | .msg h _ _ => failMsg s 0x42 cid p.inc rank 0 h
    | .handle h _ _ _ _ _ => failMsg s 0x42 cid p.inc rank 0 h
    | _ => count s (dieOf c) 1

/-- Whether a packet of a class to a rank must wait in the send buffer: for a place among the 16 messages of the transit buffer, or for the end-to-end layer. -/
def rankWaits (s : State) (c cid rank cls : Nat) : Bool :=
  let e := (resolve s c cid rank).1
  match (if holdsFor (coreOf s c) cid rank then 2 else reState e) with
  | 1 => !canSend s (reAgent s e) cls
  | 2 => decide (cls = 2) && decide (16 ≤ ((coreOf s c).transit.filter fun p => decide (p.cls = 2)).length)
  | 3 => !canSend s (reChip e * 65536 + storeOf s (reDie e) % 65536) cls
  | _ => false

/-- A packet sent so, or none while it must wait. -/
def sendRank (s : State) (c cid rank : Nat) (p : Packet) : Option State :=
  if rankWaits s c cid rank p.cls then none else some (sendRank' s c cid rank p)

/-! ### End records -/

/-- A stream packet's header, with the header replaced. -/
def strmHdr : Body → StrmHdr
  | .item h _ _ => h
  | .eos h _ => h
  | .notice h => h
  | _ => {}
def withHdr (b : Body) (h : StrmHdr) : Body :=
  match b with
  | .item _ i p => .item h i p
  | .eos _ w => .eos h w
  | .notice _ => .notice h
  | b => b

def keyOf (e : EndRec) : EndKey := (e.scid, e.sid, e.kind)

/-- The record for a stream's end at an NI; a holding record before a forwarding one. -/
def endRec (k : Core) (key : EndKey) : Option EndRec :=
  match k.ends.find? fun e => decide (keyOf e = key ∧ e.state ≠ 7) with
  | some e => some e
  | none => k.ends.find? fun e => decide (keyOf e = key)

/-- The record that takes a packet for an end: the forwarding record of the generation behind the one that the sender believes in, else the holding
record, else the newest forwarding record (10 R202). -/
def recFor (k : Core) (key : EndKey) (pgen : Nat) : Option EndRec :=
  let fwd := k.ends.filter fun e => decide (keyOf e = key ∧ e.state = 7)
  match fwd.find? fun e => decide (e.gen = (pgen + 1) % 256), k.ends.find? fun e => decide (keyOf e = key ∧ e.state ≠ 7) with
  | some e, _ => some e
  | none, some e => some e
  | none, none => fwd.getLast?

/-- The holding record, or where fwd the forwarding record of its generation, replaced. -/
def putEnd (k : Core) (e : EndRec) (fwd : Bool) : Core :=
  { k with ends := k.ends.map fun x => if keyOf x = keyOf e ∧ decide (x.state = 7) = fwd ∧ (fwd = true → x.gen = e.gen) then e else x }

/-- Whether a consumer end has no ring: UNRINGED, or PENDING from it (10 R190). -/
def unringed (e : EndRec) : Bool := decide (e.state = 3 ∨ (e.state = 2 ∧ e.prev = 3 ∧ e.kind = 1))

/-- Whether the resident that holds an end has left its slot: its ring is not in LM (10 R208). -/
def isAway (k : Core) (e : EndRec) : Bool := !decide (((slotOf k e.slot).resident.map fun r => (r.cid, r.rank)) = some e.res)

/-- The holding record with a key changed. -/
def updEnd (s : State) (c : Nat) (key : EndKey) (f : EndRec → EndRec) : State :=
  updCore s c fun k => { k with ends := k.ends.map fun x => if keyOf x = key ∧ x.state ≠ 7 then f x else x }

/-- Bindings of an end removed. -/
def unbind (k : Core) (key : EndKey) : Core :=
  { k with sbind := k.sbind.map fun b => if b = some key then none else b, vqbind := if k.vqbind = some key then none else k.vqbind }

/-- The holding record freed, and its bindings with it. -/
def freeEnd (s : State) (c : Nat) (key : EndKey) : State :=
  updCore s c fun k => unbind { k with ends := k.ends.filter fun x => !decide (keyOf x = key ∧ x.state ≠ 7) } key

/-- A forwarding record freed. -/
def freeFwd (s : State) (c : Nat) (key : EndKey) (gen : Nat) : State :=
  updCore s c fun k => { k with ends := k.ends.filter fun x => !decide (keyOf x = key ∧ x.state = 7 ∧ x.gen = gen) }

/-- a - b modulo 2^32. -/
def seqDiff (a b : Nat) : Nat := (a + 2 ^ 32 - b % 2 ^ 32) % 2 ^ 32

/-- a comes before b, modulo 2^32. -/
def seqLt (a b : Nat) : Bool := decide (0 < seqDiff b a) && decide (seqDiff b a < 2 ^ 31)

/-- The stream's capacity in items (10 R188). -/
def ritems (e : EndRec) : Nat := e.rsize * 32

/-- The LM address of an item in the ring (10 R188). -/
def ringAt (e : EndRec) (n : Nat) : Nat := e.rbase + 8 * (n % (max 1 (ritems e)))

/-- The rank of a slot's resident, 0xFFFF when it has none. -/
def slotRank (k : Core) (slot : Nat) : Nat := match (slotOf k slot).resident with | some r => r.rank | none => 0xFFFF

/-- A stream packet from an end to its peer. -/
def endPacket (e : EndRec) (op typ seq nrank cause : Nat) : Packet :=
  let h : StrmHdr := { sid := e.sid, scid := e.scid, seq := seq % 2 ^ 32, typ := typ, ekind := 1 - e.kind, sgen := e.gen, pgen := e.peerGen,
                       nrank := nrank, cause := cause, trank := e.peerRank, srank := e.res.2 }
  { cls := 3, op := op, cid := e.ocid, inc := e.oinc, len := 1, body := .notice h }

/-- A notice from an end to its peer's rank (10 R195). -/
def notice (s : State) (c : Nat) (e : EndRec) (typ seq nrank cause : Nat) : State :=
  sendRank' s c e.ocid e.peerRank (endPacket e 0x0C typ seq nrank cause)

/-- CREDIT of a consumer end up to its POPSEQ (10 R194). -/
def credit (s : State) (c : Nat) (e : EndRec) : State :=
  notice (updEnd s c (keyOf e) fun x => { x with relSeq := e.popSeq }) c e 3 e.popSeq 0 0

/-- CREDIT of every consumer end that the running activation's resident holds, at a flush or at the activation's end: also where nothing has been popped, so
that a CREDIT that was lost is made good (10 R194). -/
def credits (s : State) (c : Nat) : State :=
  match (coreOf s c).act with
  | none => s
  | some a =>
    ((coreOf s c).ends.filter fun e => decide (e.kind = 1 ∧ 1 ≤ e.state ∧ e.state ≤ 4 ∧ e.res = (a.cid, a.rank))).foldl (fun s e => credit s c e) s

/-- The end-of-stream word (10 R196). -/
def eosWord (cause value seq : Nat) : Word := wd (cause % 16 * 2 ^ 60 + value % 2 ^ 16 * 2 ^ 32 + seq % 2 ^ 32)

/-- A consumer end becomes ENDED and its activation is queued (10 R196); a standing loop bound to it stops, and the incomplete
last group lies in v16 (18 R325). -/
def endStream (s : State) (c : Nat) (e : EndRec) (w : Word) : State :=
  let s := updEnd s c (keyOf e) fun x => { x with state := 4, cause := fld w 63 60, eosWord := some w, held := [], heldBad := [] }
  let k := coreOf s c
  let s := match k.loop with
    | some l =>
      if l.endk = keyOf e ∧ l.phase = 1 then
        let n := seqDiff e.wrSeq e.popSeq
        let items := (List.range n).map fun j => rdLE k.lm (ringAt e (e.popSeq + j)) 8
        let v : Nat := (items.zipIdx.map fun p => p.1 * 2 ^ (64 * p.2)).sum
        let s := setCore s c { wv k 16 (BitVec.ofNat 1024 v) with loop := some { l with phase := 2 } }
        updEnd s c (keyOf e) fun x => { x with popSeq := e.wrSeq }
      else s
    | none => s
  let (id, s) := freshMsg s e.ocid
  let kid := e.setKernel.getD 0
  let kn := kernelOf s kid
  let h : MsgHdr := { msgid := id, job := (kn.map (·.job)).getD 0, kernel := kid, trank := e.res.2, srank := 0xFFFF, tag := e.tag,
                      handler := e.ehnd, queue := e.eq, prio := (kn.map (·.prio)).getD 7, mkind := 6, x6 := e.sid, x7 := e.scid }
  let p : Packet := { src := niOf s c, dst := niOf s c, cls := 2, op := 8, cid := e.ocid, inc := e.oinc, slot := e.slot,
                      len := msgLen 8, body := .msg h (wordsBytes [w]) e.eosBad }
  if isAway (coreOf s c) e then sendRank' s c e.ocid e.res.2 p else land s c e.slot p

/-- Whether a loop bound to an end is still to stand, or has a whole group of items before it: the end-of-stream word is delivered after
them (18 R324, R325). -/
def loopBusy (k : Core) (e : EndRec) : Bool :=
  k.loop.any fun l => decide (l.endk = keyOf e) && (decide (l.phase = 0) || (decide (l.phase = 1) && (l.mid.isSome || decide (16 ≤ seqDiff e.wrSeq e.popSeq))))

/-- Whether a spill list holds items or a word for an end. -/
def spilled (s : State) (key : EndKey) : Bool :=
  s.dies.toList.any fun d => d.ov.any fun o => o.items.any fun x =>
    let h := strmHdr x.1.body
    decide (x.1.cls = 3 ∧ x.1.op ≠ 0x0C ∧ (h.scid, h.sid, h.ekind) = key)

/-- The word that an end has before it. A stream of which a part was lost (CAUSE UCE) is cut short after its last delivered item, once no spill list holds
more of it (10 R201). -/
def eosBefore (s : State) (e : EndRec) : Option Word :=
  if e.kind = 1 ∧ e.state = 1 ∧ e.cause = 2 ∧ (e.eosWord.all fun w => decide (fld w 31 0 ≠ e.wrSeq)) = true ∧ spilled s (keyOf e) = false
  then some (eosWord 2 0 e.wrSeq) else e.eosWord

/-- An end whose word has come ends once every item before the word is in the ring (10 R196). -/
def tryEos (s : State) (c : Nat) (key : EndKey) : State :=
  match endRec (coreOf s c) key with
  | some e =>
    match eosBefore s e with
    | some w => if (e.state = 1) ∧ e.wrSeq = fld w 31 0 ∧ loopBusy (coreOf s c) e = false then endStream s c e w else s
    | none => s
  | none => s

/-- Held items written to the ring while the next one is there (10 R193); n bounds the number. -/
def drainItems : Nat → State → Nat → EndKey → State
  | 0, s, _, _ => s
  | n + 1, s, c, key =>
    match endRec (coreOf s c) key with
    | some e =>
      match mget e.held e.wrSeq with
      | some w =>
        let s := lmWrite s c (ringAt e e.wrSeq) (leBytes 8 w.toNat)
        let s := if e.wrSeq ∈ e.heldBad then lmPoison s c (ringAt e e.wrSeq) 8 else s
        let s := updEnd s c key fun x => { x with held := mdel x.held x.wrSeq, heldBad := x.heldBad.erase x.wrSeq, wrSeq := (x.wrSeq + 1) % 2 ^ 32 }
        drainItems n s c key
      | none => s
    | none => s

/-- Items for a consumer end that has its ring: each is written in sequence order, later ones are held, earlier ones are repeats. None is taken from
the sequence number of the end's end-of-stream word on (10 R206). -/
def putItems (s : State) (c : Nat) (key : EndKey) (seq : Nat) (items : List Word) (poison : Bool) : State :=
  match endRec (coreOf s c) key with
  | some e =>
    let past := fun (n : Nat) => e.eosWord.any fun w => !seqLt n (fld w 31 0)
    let new := items.zipIdx.filter fun p => !seqLt (seq + p.2) e.wrSeq && !past (seq + p.2)
    let s := updEnd s c key fun x => { x with held := new.foldl (fun m p => mput m ((seq + p.2) % 2 ^ 32) p.1) x.held
                                              heldBad := if poison then new.foldl (fun l p => addTo ((seq + p.2) % 2 ^ 32) l) x.heldBad else x.heldBad }
    let s := drainItems (items.length + e.held.length) s c key
    tryEos s c key
  | none => s

/-- An ORPHAN notice at an end (10 R206, R207): the first cuts a consumer's stream short; a producer, also a PENDING one, becomes ORPHANED. -/
def orphanAt (s : State) (c : Nat) (e : EndRec) (cause : Nat) : State :=
  if e.kind = 1 then
    if e.state = 4 ∨ e.eosWord.any (fun w => decide (fld w 63 60 ≠ 0)) = true then s
    else tryEos (updEnd s c (keyOf e) fun x => { x with eosWord := some (eosWord cause 0 x.wrSeq), held := [], heldBad := [] }) c (keyOf e)
  else if e.state = 5 then freeEnd s c (keyOf e)
  else updEnd s c (keyOf e) fun x => { x with state := 6, prev := 6, cause := cause }

/-- REROUTE at a holding end (10 R200): the peer's new place, REACK, and a consumer's release count to the new rank. -/
def rerouteAt (s : State) (c : Nat) (e : EndRec) (h : StrmHdr) : State :=
  let d := (h.sgen + 256 - e.peerGen % 256) % 256
  let newer := decide (0 < d) && decide (d < 128)
  let seq := if e.kind = 0 then e.nextSeq else e.relSeq
  let re := { endPacket e 0x0C 2 seq 0 0 with
    body := .notice { sid := e.sid, scid := e.scid, seq := seq, typ := 2, ekind := 1 - e.kind, sgen := e.gen, pgen := h.sgen,
                      trank := h.srank, srank := e.res.2 } }
  if newer then
    let s := updEnd s c (keyOf e) fun x => { x with peerRank := h.nrank, peerGen := h.sgen }
    let s := sendRank' s c e.ocid h.srank re
    if e.kind = 1 then notice s c { e with peerRank := h.nrank, peerGen := h.sgen } 3 e.relSeq 0 0 else s
  else sendRank' s c e.ocid h.srank re

/-- A forwarding record retires: RETIRE to its new rank, and it frees (10 R202). -/
def retire (s : State) (c : Nat) (e : EndRec) : State :=
  let h : StrmHdr := { sid := e.sid, scid := e.scid, typ := 6, ekind := e.kind, sgen := e.gen, pgen := e.gen, trank := e.fwdRank, srank := e.res.2 }
  let s := freeFwd s c (keyOf e) e.gen
  sendRank' s c e.ocid e.fwdRank { cls := 3, op := 0x0C, cid := e.ocid, inc := e.oinc, len := 1, body := .notice h }

/-- The next item to be forwarded, from what has been: n bounds the number of those ahead. -/
def fwdNext : Nat → Nat → List Nat → Nat × List Nat
  | 0, done, l => (done, l)
  | n + 1, done, l => if done ∈ l then fwdNext n ((done + 1) % 2 ^ 32) (l.erase done) else (done, l)

/-- A record that has forwarded items from a number on (10 R202). -/
def noteFwd (e : EndRec) (seq n : Nat) : EndRec :=
  let new := ((List.range n).map fun i => (seq + i) % 2 ^ 32).filter fun x => !seqLt x e.fwdDone
  let l := new.foldl (fun l x => addTo x l) e.fwdAhead
  let (done, l) := fwdNext l.length e.fwdDone l
  { e with fwdDone := done, fwdAhead := l }

/-- A packet passed on by a forwarding record (10 R202), to its new rank in the rank table of the CID that the packet carries (22 R352): PGEN its own GEN; it
notes a REROUTE it passes, retires on an ORPHAN, and a consumer's record on the last item that its REACK names. -/
def passOn (s : State) (c : Nat) (e : EndRec) (p : Packet) : State :=
  let h := strmHdr p.body
  let h' := { h with pgen := e.gen, trank := e.fwdRank }
  let s := sendRank' s c p.cid e.fwdRank { p with body := withHdr p.body h' }
  let e' := match p.body with | .item _ i _ => noteFwd e h.seq i.length | _ => e
  let e' := if h.typ = 1 ∧ p.op = 0x0C then { e' with peerRank := h.nrank, peerGen := h.sgen } else e'
  let s := updCore s c fun k => putEnd k e' true
  if p.op = 0x0C ∧ h.typ = 4 then retire s c e'
  else
    match e'.reack with
    | some n => if !seqLt e'.fwdDone n then retire s c e' else s
    | none => s

/-- REACK at the forwarding record that it answers (10 R202). -/
def reackAt (s : State) (c : Nat) (e : EndRec) (seq : Nat) : State :=
  if e.kind = 0 ∨ !seqLt e.fwdDone seq then retire s c e else updCore s c fun k => putEnd k { e with reack := some seq } true

/-- A bounced or dropped packet (10 R203): a REROUTE or an ORPHAN goes back as BOUNCE to the rank of the end that sent it, whatever records have passed it
on; everything else is dropped and counted. -/
def noRecord (s : State) (c : Nat) (p : Packet) : State :=
  let h := strmHdr p.body
  if p.op = 0x0C ∧ (h.typ = 1 ∨ h.typ = 4) then
    let b : StrmHdr := { sid := h.sid, scid := h.scid, seq := h.seq, typ := 7, ekind := 1 - h.ekind, pgen := h.sgen, trank := h.srank, srank := h.trank }
    sendRank' s c p.cid h.srank { src := niOf s c, dst := p.src, cls := 3, op := 0x0C, cid := p.cid, inc := p.inc, slot := 0, len := 1, body := .notice b }
  else count (updCore s c fun k => { k with strmdrop := (k.strmdrop + 1) % 2 ^ 32 }) (dieOf c) 1

/-- Items or a word for a consumer end lost: the end gets an end-of-stream word with CAUSE UCE after its last delivered item, the record when it comes
(10 R201). -/
def markLost (s : State) (p : Packet) : State :=
  let h := strmHdr p.body
  let key : EndKey := (h.scid, h.sid, h.ekind)
  if h.ekind ≠ 1 ∨ p.op = 0x0C then s
  else
    match s.cores.find? fun kv => kv.2.ends.any fun e => decide (keyOf e = key ∧ e.state ≠ 7) with
    | some (c, _) => tryEos (updEnd s c key fun x => if x.state = 4 then x else { x with cause := 2 }) c key
    | none => { s with lostEnds := addTo key s.lostEnds }

/-- A packet held in a resident's spill list (10 R201, R203); with the share full it is lost. -/
def holdFor (s : State) (c cid rank : Nat) (p : Packet) : State :=
  match ovPut s (dieOf c) cid rank p false with
  | some s => s
  | none =>
    let (f, s) := drawFree s
    markLost (failRec s { cause := 0x29, kind := 1, inc := p.inc, cid := p.cid, rank := (strmHdr p.body).trank, detail := Config.freeWord f }) p

/-- A packet held in the spill list of its slot's resident. -/
def holdPacket (s : State) (c : Nat) (p : Packet) : State :=
  match (slotOf (coreOf s c) p.slot).resident with
  | none => noRecord s c p
  | some r => holdFor s c r.cid r.rank p

/-- A stream packet applied at an NI (10 R193 to R207). -/
def strmAt (s : State) (c : Nat) (p : Packet) : State :=
  let k := coreOf s c
  let h := strmHdr p.body
  let key : EndKey := (h.scid, h.sid, h.ekind)
  let isNotice := decide (p.op = 0x0C)
  if isNotice && (decide (h.typ = 0) || decide (7 < h.typ)) then count s (dieOf c) 2
  else
  match (k.ends.find? fun e => decide (keyOf e = key ∧ e.state = 7 ∧ e.gen = h.pgen ∧ isNotice ∧ h.typ = 2)) with
  | some e => reackAt s c e h.seq
  | none =>
    let rec_ := if isNotice && decide (h.typ = 7) then (k.ends.find? fun e => decide (keyOf e = key ∧ e.state = 7 ∧ e.gen = h.pgen)).orElse fun _ => recFor k key h.pgen
                else recFor k key h.pgen
    match rec_ with
    | none =>
      if isNotice && (decide (h.typ = 5) || decide (h.typ = 6) || decide (h.typ = 7)) then noRecord s c p
      else holdPacket s c p
    | some e =>
      if e.state = 7 then
        if isNotice && decide (h.typ = 7) then
          -- the bounced REROUTE goes to the newest peer rank this record knows (10 R203)
          notice s c e 1 (if e.kind = 1 then e.popSeq else e.nextSeq) e.fwdRank 0
        else passOn s c e p
      -- what would write a ring that is not there, or no longer in LM, waits in the resident's list (10 R201, R208)
      else if e.kind = 1 ∧ isAway k e = true ∧ (isNotice = false ∨ h.typ = 4) then holdFor s c e.res.1 e.res.2 p
      else if unringed e = true ∧ (isNotice = false ∨ h.typ = 1 ∨ h.typ = 4) then holdPacket s c p
      else if isNotice then
        match h.typ with
        | 1 => rerouteAt s c e h
        | 2 => s
        | 3 => if e.kind = 0 ∧ seqLt e.relSeq h.seq then updEnd s c key fun x => { x with relSeq := h.seq } else s
        | 4 =>
          if e.state = 2 ∧ e.kind = 1 then updEnd s c key fun x => { x with heldPk := x.heldPk ++ [p] }
          else orphanAt s c e h.cause
        | 5 => if e.kind = 0 ∧ e.state = 5 then freeEnd s c key else s
        | 6 => updEnd s c key fun x => { x with fwd := x.fwd - 1 }
        | _ => s
      else
        match p.body with
        | .item _ items poison => putItems s c key h.seq items poison
        | .eos _ w =>
          if e.state = 2 then updEnd s c key fun x => { x with heldPk := x.heldPk ++ [p] }
          else tryEos (updEnd s c key fun x => if x.eosWord.isNone then { x with eosWord := some w, eosBad := p.bad } else x) c key
        | _ => s

/-- Held packets of a record replayed in arrival order (10 R201). -/
def replayEnd (s : State) (c : Nat) (e : EndRec) : State :=
  let die := dieOf c
  let mine := fun (x : Packet × Nat) =>
    decide (x.1.cls = 3 ∧ ((strmHdr x.1.body).scid, (strmHdr x.1.body).sid, (strmHdr x.1.body).ekind) = keyOf e)
  match ovOf s die e.res.1 e.res.2 with
  | none => s
  | some o =>
    (o.items.filter mine).foldl (fun s x =>
      match ovOf s die e.res.1 e.res.2 with
      | none => s
      | some o => strmAt (ovFree (setOv s die { o with items := o.items.erase x }) die e.res.1 x.1) c x.1) s

/-- A record whose buffered SENDH or STREOS is discarded returns to its former state, and what it held is applied (10 R196). -/
def unpend (s : State) (c : Nat) (e : EndRec) : State :=
  let s := updEnd s c (keyOf e) fun x => { x with state := x.prev, heldPk := [] }
  let s := e.heldPk.foldl (fun s p => strmAt s c p) s
  tryEos s c (keyOf e)

/-- The live count of a consumer setting falls by 1 because its activation will not run (10 R188). -/
def unset (s : State) (e : EndRec) : State :=
  match e.setKernel with | some kid => report s kid (-1) none | none => s

/-- An end dies at an agent: ORPHAN to the peer's rank, and the record frees (10 R205). Cause 1 ORPHAN, 2 UCE, 3 CLOSED. -/
def killEnd (s : State) (c : Nat) (e : EndRec) (cause : Nat) : State :=
  let s := if e.kind = 1 ∧ e.state ≠ 4 then unset s e else s
  let s := notice s c e 4 (if e.kind = 0 then e.nextSeq else 0) 0 cause
  freeEnd s c (keyOf e)

/-- The handle words of a record (10 R189). -/
def handleWords (e : EndRec) (rank : Nat) : Word × Word :=
  (wd (e.sid % 2 ^ 32 * 2 ^ 32 + e.ocid % 4096 * 2 ^ 20 + e.oinc % 4096 * 2 ^ 8 + e.gen % 256),
   wd (rank % 65536 * 2 ^ 48 + e.scid % 4096 * 2 ^ 36 + e.kind))

/-- The record image of SENDH (10 R198). -/
def imageOf (e : EndRec) : Word × Word × Word :=
  (wd (if e.kind = 0 then e.nextSeq else e.popSeq), wd e.relSeq,
   wd (e.peerRank % 65536 * 2 ^ 48 + e.peerGen % 256 * 2 ^ 40 + (e.fwd + 1) % 8 * 2 ^ 37 + e.rsize % 2048 * 2 ^ 26 +
       e.cause % 16 * 2 ^ 22 + e.prev % 16 * 2 ^ 18))

/-- The record that a handle message creates in a slot (10 R199): producer OPEN, consumer UNRINGED; GEN is the handle's plus 1. DEDUCED: a producer whose image
says that it was ORPHANED stays so, as its stream is dead wherever it goes (10 R198, R207; log 30). -/
def recordOf (slot cid inc rank : Nat) (h0 h1 i0 i1 i2 : Word) : EndRec :=
  let kind := fld h1 0 0
  let seq := fld i0 31 0
  { scid := fld h1 47 36, sid := fld h0 63 32, kind := kind, slot := slot, res := (cid, rank),
    state := if kind = 0 then (if fld i2 21 18 = 6 then 6 else 1) else 3,
    gen := (fld h0 7 0 + 1) % 256, ocid := cid, oinc := inc, peerRank := fld i2 63 48, peerGen := fld i2 47 40, fwd := fld i2 39 37,
    cause := fld i2 25 22, nextSeq := if kind = 0 then seq else 0, relSeq := fld i1 31 0, popSeq := seq, popMark := seq, wrSeq := seq,
    rsize := fld i2 36 26 }

/-- A record created at an NI; one for a stream of which a part was lost has CAUSE UCE before it (10 R201). -/
def addEnd (s : State) (c : Nat) (e : EndRec) : State :=
  let lost := decide (keyOf e ∈ s.lostEnds)
  updCore { s with lostEnds := s.lostEnds.erase (keyOf e) } c fun k => { k with ends := k.ends ++ [if lost then { e with cause := 2 } else e] }

/-- Ends whose records an NI has free (10 R190). -/
def freeRecs (k : Core) : Nat := 64 - k.ends.length

/-- A handle message applied at an NI (10 R189, R199): the record is created for the receiving resident, and the handle that lands
names the new generation, rank and owner. The packet spills when no record is free. The answer says whether it landed poisoned. -/
def landHandle (s : State) (c slot : Nat) (p : Packet) : Bool × State :=
  match p.body with
  | .handle h h0 h1 i0 i1 i2 =>
    match (slotOf (coreOf s c) slot).resident with
    | none => (false, failMsg s 0x42 p.cid p.inc h.trank 0 h)
    | some r =>
      if freeRecs (coreOf s c) = 0 then
        match ovPut s (dieOf c) r.cid r.rank p false with
        | some s => (false, s)
        | none => (false, failMsg s 0x29 p.cid p.inc h.trank 0 h)
      else
        let e := recordOf slot r.cid r.inc r.rank h0 h1 i0 i1 i2
        let s := addEnd s c e
        let (n0, n1) := handleWords e r.rank
        let (bad, s) := landAt s c slot { p with body := .msg { h with mkind := 2 } (wordsBytes [n0, n1]) false }
        (bad, if e.kind = 0 then replayEnd s c e else s)
  | _ => (false, s)

end Sys2Proof.Machine
end

