-- ==== Sys2Proof/Machine/Ops.lean ====
section
/-! DEFINITION. The operations that the meanings share: the PC and the loop stack, activations starting and ending, taking an
exception and returning from one, the send buffer and its flush (07 R127 to R137, 12 R240 to R242, 14 R268 to R271). -/

namespace Sys2Proof.Machine

/-! ### PC and loop stack (14 R268 to R271) -/

/-- The end check at the passage from address p to p + 4, innermost level first: the levels left, and where the PC goes when a
level begins again (14 R270). -/
def endCheck (p : Word) : List LoopLvl → List LoopLvl × Option Word
  | [] => ([], none)
  | l :: ls =>
    if l.stop = p then
      if l.count - 1 ≠ 0 then ({ l with count := l.count - 1 } :: ls, some l.start) else endCheck p ls
    else (l :: ls, none)

/-- The PC moves from p to p + 4, with the end check where no handler runs (14 R270, R271). -/
def passTo (k : Core) (p : Word) : Core :=
  if k.trapped then { k with pc := p + 4 }
  else
    let (ls, t) := endCheck p k.loops
    { k with loops := ls, pc := t.getD (p + 4) }

/-- The sequential advance after an instruction (14 R270). -/
def advance (k : Core) : Core := passTo { k with vgot := [], vpos := 0 } k.pc

/-- The loop stack after a taken transfer to t: every level whose body does not hold t is popped, with the levels inside it
(14 R271). -/
def popLoops (t : Word) : List LoopLvl → List LoopLvl
  | [] => []
  | l :: ls =>
    let rest := popLoops t ls
    if rest.length < ls.length then rest
    else if l.start.toNat ≤ t.toNat ∧ t.toNat ≤ l.stop.toNat then l :: ls else ls

/-- The current core with an instruction completed: f changes it, and the PC advances. -/
def done (s : State) (f : Core → Core) : State := setCC s (advance (f (cc s)))

/-- x[rd] written, and the PC advances. -/
def writeX (s : State) (rd : Reg) (v : Word) : Out := .next (done s fun k => wx k rd v)

/-! ### Gangs (07 R142) -/

/-- A core leaves the gang and the crew of its chain: it counts as present no more. -/
def leaveGang (s : State) (c : Nat) (g : Option Nat) : State :=
  match g with
  | none => s
  | some gid =>
    let crew := (s.gangs.find? fun x => decide (x.gid = gid)).bind (·.crew)
    { s with gangs := s.gangs.map fun x =>
        if x.gid = gid ∨ some x.gid = crew then { x with present := without c x.present, arrived := without c x.arrived, again := without c x.again }
        else x }

/-! ### Ends of an activation (07 R133, R134) -/

/-- What every end does to the core: no activation, nothing buffered, commands that have not started gone, queues and bindings
empty, outstanding answers to be dropped (07 R133, R140; 09 R184; 10 R192). -/
def clearRun (k : Core) : Core :=
  { k with act := none, vgot := [], vpos := 0, sb := [], flush := none, rptWait := 0, rptId := k.rptId + 1, spawnSent := none, wait := .idle, grant := none, owed := none, pendx := [], loops := [],
           q := Vector.replicate 4 [], sbind := Vector.replicate 16 none, vqbind := none, trapped := false, hold := false, pend := false,
           fifo := [], blocked := none, scan := 0, badRegs := [], badQ := [], run := k.run.map fun r => { r with cmd := { r.cmd with live := false } },
           out := (k.out.filter fun o => !decide (o.kind = .arm)).map fun o => { o with live := false }, settings := [], twin := none, folded := [], cmpAt := none, exited := false }

/-- The end of a standing loop: its bank is cleared (07 R141). -/
def clearBank (k : Core) : Core :=
  { k with loop := none,
           v := Vector.ofFn fun i => if i.val < 16 then k.v[i.val] else 0,
           k := Vector.ofFn fun i => if i.val < 4 then k.k[i.val] else 0 }

/-- The end of an ended stream frees with FINACK when its end-of-stream activation ends (10 R196). -/
def releaseEos (s : State) (c : Nat) (a : Act) : State :=
  match a.msg.eosEnd with
    | some (scid, sid) =>
      match endRec (coreOf s c) (scid, sid, 1) with
      | some e =>
        if e.state = 4 then freeEnd (notice s c e 5 (match e.eosWord with | some w => fld w 31 0 | none => 0) 0 0) c (keyOf e) else s
      | none => s
    | none => s

/-- What the end of a message's activation releases beside the core: an ended stream's end, the dispatcher's task, the gang
(06 R114, 07 R142). -/
def releaseMsg (s : State) (c : Nat) (a : Act) (aborted : Bool) : State :=
  let s := releaseEos s c a
  let s := match a.msg.task with
    | some (d, age) => updDie s d fun x => { x with disp := { x.disp with ended := x.disp.ended ++ [{ age := age, again := aborted, core := c, tok := (coreOf s c).tok }] } }
    | none => s
  leaveGang s c a.gang

/-- What stands behind a queued message that never runs is released: its element's task ends, and its ended stream's record is freed (06 R118,
10 R196). -/
def msgGone (s : State) (c : Nat) (m : QMsg) : State :=
  let s := match m.task with
    | some (d, age) => updDie s d fun x => { x with disp := { x.disp with ended := x.disp.ended ++ [{ age := age, again := false, core := c, tok := 0 }] } }
    | none => s
  match m.eosEnd with
  | some (scid, sid) =>
    match endRec (coreOf s c) (scid, sid, 1) with
    | some e => if e.state = 4 then freeEnd (notice s c e 5 (match e.eosWord with | some w => fld w 31 0 | none => 0) 0 0) c (keyOf e) else s
    | none => s
  | none => s

/-- The state of the standing loop at an end: one set up stands after an EXIT and is discarded by an abort; one whose end-of-stream
activation ends is over (07 R141, 18 R324, R325). -/
def settleLoop (k : Core) (a : Act) (isExit : Bool) : Core :=
  match k.loop with
  | none => k
  | some l =>
    if l.phase = 0 then (if isExit then { k with loop := some { l with phase := 1 } } else { k with loop := none })
    else if l.phase = 2 ∧ a.msg.eosEnd = some (l.endk.1, l.endk.2.1) then clearBank k
    else k

/-- Live-count changes of consumer settings that no flush report carried (10 R188). -/
def reportSettings (s : State) (c : Nat) (less : Nat) : State :=
  let n : Int := ((coreOf s c).settings.map (·.2)).sum - less
  match (coreOf s c).settings with
  | [] => s
  | (kid, _) :: _ => if n = 0 then s else report s kid n none

/-- An activation ends for good: pops are credited, and what it held is released (07 R133). -/
def finishAct (s : State) (c : Nat) (a : Act) (isExit : Bool) : State :=
  let s := credits s c
  let s := updCore s c fun k => { k with ends := k.ends.map fun e => { e with fresh := false } }
  let s := releaseMsg s c a false
  updCore s c fun k => clearRun (settleLoop k a isExit)

/-! ### Starting an activation (07 R127 to R129, R137) -/

/-- The watchdog budget of a message's chain (07 R137, 05 R91). A kernel that this chip's schedulers do not hold gets the
management budget (log 20). -/
def budgetOf (s : State) (c kid : Nat) : Nat :=
  let w := (dieAt s (dieOf c)).schedage
  let mb := fld w 56 16
  let m := if mb = 0 ∨ mb > 2 ^ 40 then 2 ^ 40 else mb
  match kernelOf s kid with
  | some k => k.budget
  | none => m

/-- The entry of a handler table, and whether it is valid (07 R125). -/
def handlerOf (t : Slot) (n : Nat) : BitVec 32 := mgetD t.handlers n 0
def handlerV (e : BitVec 32) : Bool := e.getLsbD 31
def handlerPc (e : BitVec 32) : Word := wd (fldN e.toNat 18 2 * 4)

/-- The scalar registers at entry: x1 to x8 as given, all others zero (07 R127, R128). -/
def entryRegs (x1 x2 x3 x4 x5 x6 x7 x8 : Word) : Vector Word 32 :=
  Vector.ofFn fun i => [0, x1, x2, x3, x4, x5, x6, x7, x8].getD i.val 0

/-- The core as every activation finds it, but for its entry registers, PC and ACTSTAT; a standing loop keeps its bank, and the
tiles of the mask stay (07 R128, R141). -/
def freshRun (k : Core) (tiles : Nat) : Core :=
  let bank := k.loop.any fun l => decide (l.phase ≠ 0)
  { k with
    v := Vector.ofFn fun i => if bank && decide (16 ≤ i.val) then k.v[i.val] else 0
    k := Vector.ofFn fun i => if bank && decide (4 ≤ i.val) then k.k[i.val] else 0
    z := Vector.ofFn fun i => if tiles / 2 ^ i.val % 2 = 1 then k.z[i.val] else {}
    q := Vector.replicate 4 [], sbind := Vector.replicate 16 none, vqbind := none, loops := [], badRegs := [], badQ := []
    rmode := 0, fmta := 0, fmtb := 0, fmtc := 0, fmts := 0, restart := true, trapped := false, pend := false, clrby := 0
    trapcause := 0, trappc := 0, trapaddr := 0, owed := none, wait := .idle, grant := none, pendx := [], settings := [], hold := false
    ends := k.ends.map fun e => { e with popMark := e.popSeq, fresh := false } }

/-- One activation in the row's taint log, which holds 2^20 entries; of later ones it keeps CID, INC and kernel (04 R72). -/
def taint (s : State) (c cid inc msgid : Nat) (kid : Nat) : State :=
  if isCompute c then
    updDie s (dieOf c) fun d => { d with rows := mupd d.rows (rowOf c) {} fun r =>
      if r.taint.length < 2 ^ 20 then { r with taint := r.taint ++ [(cid, inc, kid, msgid)] }
      else { r with taintOver := true, taintSet := addTo (cid, inc, kid) r.taintSet } }
  else s

/-- A queued message's activation starts on a core (07 R127, R128). One that starts from a gate, or as a second copy, serves no queue (05 R90, R91). -/
def startAct (s : State) (c slot qn : Nat) (m : QMsg) (gang crew : Option Nat) (fromQ : Bool := true) : State :=
  let t := slotOf (coreOf s c) slot
  let h := m.hdr
  match t.resident with
  | none => s
  | some r =>
    let e := handlerOf t h.handler
    let x3 := if h.mkind = 4 then 0 else wd h.tag
    let x5 := if h.mkind = 4 ∨ h.mkind ≥ 6 then 0xFFFF else wd h.srank
    let x6 := if h.mkind ≤ 2 ∨ h.mkind = 8 then 0 else wd h.x6
    let x7 := if h.mkind = 5 then wd h.x7 else 0
    let x8 := if h.mkind = 5 then wd h.x8 else 0
    let a : Act := { slot := slot, queue := qn, handler := h.handler, msg := m, cid := r.cid, inc := r.inc, rank := r.rank,
                     e6 := x6, e7 := x7, e8 := x8, gang := gang, fromQ := fromQ }
    let s := taint s c r.cid r.inc h.msgid h.kernel
    let b := budgetOf s c h.kernel
    let paired := (kernelOf s h.kernel).any (·.paired)
    updCore s c fun k =>
      let k := freshRun k 0
      let k := if fromQ then updSlot k slot fun t => setQueue t qn { queueOf t qn with served := s.now, age := 0, bump := 0 } else k
      { k with x := entryRegs (wd m.addr) (wd m.len) x3 (wd h.msgid) x5 x6 x7 x8, pc := handlerPc e, act := some a, aborts := m.aborts
               inh := false, pair := paired, wdog := b
               gangRec := if gang.isSome then gang else k.gangRec, crewRec := if crew.isSome then crew else k.crewRec
               pend := pendOf { k with act := some a } }

/-- A successor that waits starts on its core, with the frame and its tiles as left (20 R339, 07 R134). One whose handler entry is
not valid, or whose job is cancelled, does not start, and the chain ends (20 R339, 05 R101). -/
def startSucc (s : State) (c : Nat) : State :=
  let k := coreOf s c
  match k.succ with
  | none => s
  | some a =>
    let e := handlerOf (slotOf k a.slot) a.handler
    let s := setCore s c { k with succ := none }
    if decide (incAt s (niOf s c) a.cid ≠ some a.inc) then releaseMsg s c a false
    else if k.cancel.any fun j => decide (j.1 = a.msg.hdr.job) then
      report (releaseMsg s c a false) a.msg.hdr.kernel (-1) none
    else if !handlerV e then
      failMsg (releaseMsg s c a false) 0x41 a.cid a.inc a.rank a.msg.aborts a.msg.hdr
    else
      let (p, n, tag) := a.succ.getD (0, 0, 0)
      let s := taint s c a.cid a.inc a.msg.hdr.msgid a.msg.hdr.kernel
      updCore s c fun k =>
        let k := freshRun k a.tiles
        { k with x := entryRegs (wd p) (wd n) (wd tag) (wd a.msg.hdr.msgid) (wd a.rank) a.e6 a.e7 a.e8, pc := handlerPc e, act := some a
                 aborts := a.msg.aborts, inh := true, pair := k.pair, pend := pendOf { k with act := some a } }

/-- Whether a core may start an activation now (07 R133, 15 R286, 04 R70, R72, R75); none does on a halted package, or on one that booted unconfigured, whose
supervisor cores serve the maintenance interface alone (03 R56, R58). -/
def canStart (s : State) (c : Nat) : Bool :=
  let k := coreOf s c
  k.act.isNone && k.run.isEmpty && !k.sealed_ && !decide (s.boot.state = 2 ∨ s.boot.state = 3) &&
    (!isCompute c || ((rowState s (rowOf c)).powered && !(rowState s (rowOf c)).fenced && !(rowState s (rowOf c)).testing))

/-- Two cores linked as the copies of one paired activation (04 R71). -/
def linkPair (s : State) (c d : Nat) : State :=
  if (coreOf s c).act.isSome && (coreOf s d).act.isSome then
    updCore (updCore s c fun k => { k with twin := some d }) d fun k => { k with twin := some c, wdog := (coreOf s c).wdog }
  else s

/-! ### Aborts (07 R134) -/

/-- The other copy of a paired activation gone: its run is cleared, and the copy that owns the message (the lower core) is left, which
restarts only where both restart bits are still set (04 R71). -/
def unpair (s : State) (c : Nat) : Nat × State :=
  let k := coreOf s c
  match k.twin with
  | none => (c, s)
  | some t =>
    let kt := coreOf s t
    let (own, other) := if t < c then (t, c) else (c, t)
    let s := updCore s other clearRun
    (own, updCore s own fun x => { x with twin := none, cmpAt := none, restart := k.restart && kt.restart })

/-- Whether two slots hold the same image of one resident: identity, regions, code bound, vector, handlers and code bytes. -/
def sameImage (s : State) (c d slot : Nat) : Bool :=
  let a := slotOf (coreOf s c) slot
  let b := slotOf (coreOf s d) slot
  let r := rgOf a 0
  decide (a.resident.map (fun x => (x.cid, x.inc)) = b.resident.map fun x => (x.cid, x.inc)) && a.resident.isSome && decide (a.rg = b.rg) &&
  decide (a.xb = b.xb) && decide (a.trapvec = b.trapvec) && decide (a.handlers = b.handlers) &&
  decide (rdBytes (coreOf s c).lm (rgBase r) (rgSize r) = rdBytes (coreOf s d).lm (rgBase r) (rgSize r))

/-- A core on which a paired message of a slot can run beside another: idle, in another row of the same die and partition, with the same
image and the message's blocks of LAND free (04 R71; the choice of the lowest is log 27's). -/
def pairable (s : State) (c slot addr len : Nat) (avoid : List Nat) : Option Nat :=
  (s.cores.map (·.1)).find? fun d =>
    isCompute d && decide (dieOf d = dieOf c) && decide (rowOf d ≠ rowOf c) && !decide (rowOf d ∈ avoid) &&
    decide (pairPart s (pairOf d) = pairPart s (pairOf c)) && canStart s d && !(coreOf s d).stopped && (coreOf s d).succ.isNone && sameImage s c d slot &&
    (landUsed (coreOf s d) slot).all fun u => decide (addr + roundUp len 64 ≤ u.1) || decide (u.1 + u.2 ≤ addr)

/-- Where an aborted message goes back: the head of its queue; after a mismatch of two copies, the head of that queue on a core of another
row that holds the same image, where there is one (04 R71, 07 R134). -/
def requeue (s : State) (c : Nat) (a : Act) (mis : Option (Nat × Nat)) : State :=
  let m := { a.msg with aborts := (coreOf s c).aborts + 1 }
  let s := updCore s c fun k => clearRun (settleLoop k a false)
  let c := a.home.getD c
  let put := fun (s : State) (d : Nat) (m : QMsg) => updCore s d fun k => updSlot k a.slot fun t =>
    let q := queueOf t a.queue
    setQueue t a.queue { q with msgs := m :: q.msgs }
  match mis with
  | none => put s c m
  | some (r1, r2) =>
    let av := addTo r1 (addTo r2 m.avoid)
    match pairable s c a.slot m.addr m.len av with
    | none => put s c { m with avoid := av }
    | some d => put (lmWrite s d m.addr (rdBytes (coreOf s c).lm m.addr m.len)) d { m with avoid := av }

/-- A core's monitor taken down, where an activation that waits on it ends (09 R182, R184). -/
def disarm (s : State) (c : Nat) : State := { s with monitors := s.monitors.filter fun m => !decide (m.core = c) }

/-- A core's activation aborts with a cause and the DETAIL of its record; mis names the rows of two copies that differed. -/
def abortWith (s : State) (c cause : Nat) (detail : Word) (mis : Option (Nat × Nat)) : State :=
  let s := match (coreOf s c).twin with | some t => disarm (disarm s c) t | none => disarm s c
  let (c, s) := unpair s c
  let k := coreOf s c
  match k.act with
  | none => s
  | some a =>
    let again := k.restart && decide (k.aborts < 3) && a.gang.isNone
    -- buffered SENDH and STREOS are discarded: their records return to their former states (10 R198)
    let s := (k.ends.filter fun e => decide (e.state = 2)).foldl (fun s e => unpend s c e) s
    if again then
      let gone := (coreOf s c).ends.filter fun e => e.fresh && decide (e.state ≠ 7)
      let s := reportSettings s c (gone.filter fun e => decide (e.kind = 1)).length
      let s := updCore s c fun k =>
        { k with ends := (k.ends.filter fun e => !(e.fresh && decide (e.state ≠ 7))).map fun e =>
                   if e.kind = 1 then { e with popSeq := e.popMark } else e }
      if k.inh then
        let a' := { a with msg := { a.msg with aborts := k.aborts + 1 } }
        let s := updCore s c fun k => { clearRun (settleLoop k a false) with succ := some a' }
        if canStart s c then startSucc s c else s
      else if a.msg.task.isSome then
        let s := releaseMsg s c a true
        updCore s c fun k => clearRun (settleLoop k a false)
      else requeue s c a mis
    else
      let s := failRec s { cause := cause, kind := 0, inc := a.inc, cid := a.cid, aborts := k.aborts, rank := a.rank,
                           msgid := a.msg.hdr.msgid, subtag := subtagOf s a.msg.hdr.kernel, detail := detail }
      let s := reportSettings s c 0
      let s := if k.exited then s else report s a.msg.hdr.kernel (-1) none
      finishAct s c a false

/-- A core's activation aborts with a cause and the DETAIL of its record; an end-of-stream word that waited for a loop which the abort has
discarded is delivered (18 R324). -/
def abortAct (s : State) (c cause : Nat) (detail : Word) : State :=
  let s := abortWith s c cause detail none
  ((coreOf s c).ends.filter fun e => decide (e.kind = 1 ∧ e.state = 1)).foldl (fun s e => tryEos s c (keyOf e)) s

/-! ### Taking an exception and returning from one (12 R240 to R242) -/

/-- The resuming causes: OVLY, ATYPE, BKPT, ALIGN (15 R272). -/
def resuming (cause : Nat) : Bool := decide (0x10 ≤ cause) && decide (cause ≤ 0x13)

/-- A trap of a core's scalar stream: addr is the address that the trap concerns where its rule sets one, none where the rule
states TRAPADDR = 0 as a constant. A resuming trap enters the handler when one is installed and none runs; every other trap aborts
(12 R240, R242), with DETAIL the address or TRAPPC (07 R135). -/
def takeTrap (s : State) (c cause : Nat) (addr : Option Word) : State :=
  let k := coreOf s c
  let vec := (slotOf k (curSlot k)).trapvec
  if resuming cause && !k.trapped && bit vec 63 then
    let enter := fun (k : Core) => { k with trappc := k.pc, trapcause := wd (0x100 + cause), trapaddr := addr.getD 0, trapped := true,
                                            pc := wd (fld vec 18 2 * 4), wait := .idle, vgot := [], vpos := 0 }
    let s := setCore s c (enter k)
    match k.twin with
    | some t => if (coreOf s t).wait = .pairOp then updCore s t enter else s
    | none => s
  else abortAct s c cause (addr.getD k.pc)

/-- A trap of the current core. -/
def trap (s : State) (cause : Nat) (addr : Option Word) : Out := .next (takeTrap s s.cur cause addr)

/-- ILL, whose TRAPADDR is the constant 0 (12 R234). -/
def ill (s : State) : Out := trap s 0x20 none

/-- Return from a resuming trap: PC from TRAPPC, TRAPPED cleared, and the end check when the return lands at end + 4 (12 R241,
14 R270). -/
def returnTrap (k : Core) : Core :=
  let p := wd (fld k.trappc 18 2 * 4)
  let k := { k with trapped := false }
  if k.loops.any fun l => decide (l.stop + 4 = p) then passTo k (p - 4) else { k with pc := p }

/-! ### Control transfers (14 R268) -/

/-- A taken branch or jump to t, an unbounded integer, with its link register: XONLY when t is no word of LM; else the link is
written and the PC moves. -/
def transfer (s : State) (link : Option Reg) (t : Int) : Out :=
  if t % 4 ≠ 0 ∨ t < 0 ∨ 0x7FFFF < t then trap s 0x21 (some (wdI t))
  else
    let k := cc s
    let k := match link with | some r => wx k r (k.pc + 4) | none => k
    let w := wdI t
    .next (setCC s { k with pc := w, loops := if k.trapped then k.loops else popLoops w k.loops })

/-! ### The restart bit (07 R132) -/

/-- RESTART cleared for a reason of CLRBY; the first reason stays. -/
def clearRestart (k : Core) (by_ : Nat) : Core := if k.restart then { k with restart := false, clrby := by_ } else k

/-! ### The send buffer and the flush (07 R130, R131; 05 R89) -/

/-- The bytes that an entry takes: 16 and its payload rounded up to 16. -/
def entrySize (e : SbEntry) : Nat := 16 + roundUp e.bytes 16

def sbBytes (k : Core) : Nat := (k.sb.map entrySize).sum

/-- Whether an entry of n payload bytes fits (07 R130). -/
def sbRoom (k : Core) (n : Nat) : Bool := decide (k.sb.length < 64) && decide (sbBytes k + 16 + roundUp n 16 ≤ 4096)

/-- The kernel of the running activation (05 R89). -/
def actKernel (k : Core) : Nat := match k.act with | some a => a.msg.hdr.kernel | none => 0

/-- The kernel in which an entry's messages are counted: a spawn's target, else the sender's (05 R89, 20 R345). -/
def entryKernel (k : Core) (e : SbEntry) : Nat :=
  match e.eff with | .dspn h _ _ => h.kernel | _ => actKernel k

/-- What a report names for its acknowledgement: the core, and which of its activations. -/
def ackTag (k : Core) (c : Nat) : Nat := c + 2048 * k.rptId

/-- What a flush does first: RESTART cleared, credits returned, and the report of counted messages sent, with the change that an EXIT
adds. Counted messages wait for the scheduler's acknowledgement; with nothing to send the flush is complete at once (07 R131, R132;
05 R89; 10 R188, R194). -/
def flushReports (s : State) (c : Nat) : State :=
  let k := coreOf s c
  let s := credits (setCore s c (clearRestart k 1)) c
  let k := coreOf s c
  let extra : Int := if k.exited then -1 else 0
  let kid := actKernel k
  let mine := k.sb.filter fun e => decide (entryKernel k e = kid)
  let n : Int := ((mine.map (·.counted)).sum : Nat)
  let m : Int := (k.settings.map (·.2)).sum
  let waits := decide (n + m > 0 ∧ kid ≠ 0)
  let s := if n + m + extra = 0 ∧ waits = false then s else report s kid (n + m + extra) (if waits then some (ackTag k c) else none)
  let others := k.sb.filter fun e => decide (entryKernel k e ≠ kid ∧ entryKernel k e ≠ 0 ∧ e.counted ≠ 0)
  let s := others.foldl (fun s e => report s (entryKernel k e) (e.counted : Int) (some (ackTag k c))) s
  let len := k.sb.length
  let w := b2n waits + others.length
  updCore s c fun k => { k with settings := [], rptWait := w, flush := if len = 0 ∧ w = 0 then none else some len }

/-- A flush begins. In a paired activation it first waits for the comparison of the copies (04 R71). -/
def beginFlush (s : State) (c : Nat) (extra : Int) : State :=
  let s := updCore s c fun k => { k with exited := decide (extra < 0) }
  if (coreOf s c).twin.isSome then updCore s c fun k => { k with flush := some k.sb.length, cmpAt := some s.now }
  else flushReports s c

/-- The part of an instruction that flushes first: the first time it begins the flush; while the flush goes on it waits; and then
cont runs (07 R131). -/
def afterFlush (s : State) (extra : Int) (cont : State → Out) : Out :=
  match (cc s).wait with
  | .idle =>
    let s := beginFlush s s.cur extra
    if (cc s).flush.isNone then cont s else .next (setCC s { cc s with wait := .flush })
  | .flush => if (cc s).flush.isNone then cont (setCC s { cc s with wait := .idle }) else .next s
  | _ => cont s

/-- A buffered effect: appended when it fits, after an automatic flush when it does not, and the instruction completes
(07 R130, 09 R169). The effect and the core's change may name the entry's token; bad: its payload is poisoned. -/
def bufferT (s : State) (eff : Nat → Effect) (bytes counted : Nat) (f : Nat → Core → Core) (bad : Bool := false) : Out :=
  let put := fun (s : State) =>
    let k := cc s
    let (t, k) := freshTok k
    let e : SbEntry := { eff := eff t, bytes := bytes, counted := counted, tok := t, poison := bad }
    let k := { k with sb := k.sb ++ [e], folded := if k.twin.isSome then k.folded ++ [{ e with eff := eff 0, tok := 0 }] else k.folded }
    Host.Outcome.next (setCC s (advance (f t k)))
  if (cc s).wait = .idle ∧ sbRoom (cc s) bytes then put s else afterFlush s 0 put

/-- A buffered effect that needs no token. -/
def buffer (s : State) (eff : Effect) (bytes counted : Nat) (f : Core → Core) (bad : Bool := false) : Out :=
  bufferT s (fun _ => eff) bytes counted (fun _ => f) bad

/-- The rank, kernel and earlier restartable aborts of the running activation (07 R135). -/
def actBy (k : Core) : Nat × Nat × Nat := match k.act with | some a => (a.rank, a.msg.hdr.kernel, k.aborts) | none => (0xFFFF, 0, 0)

/-- The CID and INC of the running activation. -/
def actOwn (k : Core) : Nat × Nat := match k.act with | some a => (a.cid, a.inc) | none => (0, 0)

/-- A register made pending for an answer that a token names (12 R223, 20 R344). -/
def pendReg (k : Core) (rd : Reg) (tok : Nat) : Core := if rd = 0 then k else { k with pendx := k.pendx ++ [(rd.toNat, tok)] }

/-- The token under which the other copy of a paired activation waits for what this one issues (04 R71). -/
def twinTok (tok : Nat) : Nat := tok + 2 ^ 50

/-- An entry of the outstanding table and the register that it will write made pending (09 R168, 12 R223). -/
def outstanding (k : Core) (tok : Nat) (rd : Reg) (kind : RetKind) (g : Nat) : Core :=
  { k with out := k.out ++ [{ tok := tok, rd := rd.toNat, kind := kind, g := g, own := actOwn k }],
           pendx := if rd = 0 then k.pendx else k.pendx ++ [(rd.toNat, tok)] }

/-! ### Sealing a core that consumes poison (04 R69, R70) -/

/-- A rank entry written by the device, with every cached copy of this package gone, and the span's other chips told (04 R70; log 40). An entry that
becomes VALID lets the overflow store raise a trap again (05 R99). -/
def putRank (s : State) (cid rank : Nat) (e : Word) : State :=
  let s := { s with ranks := mput s.ranks (cid * 65536 + rank) e
                    cores := s.cores.map fun kv => (kv.1, { kv.2 with rcache := kv.2.rcache.filter fun x => !decide (x.cid = cid ∧ x.rank = rank) }) }
  let clear := fun (s : State) (d : Nat) => match ovOf s d cid rank with | some o => setOv s d { o with trapped := false } | none => s
  let s := if reState e = 1 then clear (clear s 0) 1 else s
  (spanOthers s cid).foldl (fun s c => mgmtTo s c cid 0x21 (.mgmt 3 (2 ^ 32 - 1 + 2 ^ 32 * (rank + 65536 * e.toNat)))) s

/-- Rank entries of a core's residents set in transit: those that stand VALID at this core and slot (04 R70). -/
def transitRanks (s : State) (c : Nat) : State :=
  (List.range 4).foldl (fun s i =>
    match (slotOf (coreOf s c) i).resident with
    | none => s
    | some r =>
      let e := rankEntry s r.cid r.rank
      if reState e = 1 ∧ reChip e = s.chip ∧ reCore e = c ∧ reSlot e = i then putRank s r.cid r.rank (setFld e 63 62 2) else s) s

/-- The STATUS SEALED of a request that waits at a core's LM: a monitor that another core has armed there (04 R70 step 3). -/
def sealedTo (s : State) (c : Nat) (m : Monitor) : State :=
  match m.far with
  | some p => emit s { dst := p.src, src := niOf s c, cls := 4, op := 0x12, cid := p.cid, inc := p.inc, rseq := p.seq, rcls := p.cls, len := 1, body := .status m.tok 0x24 }
  | none =>
    let own := (((coreOf s m.core).out.find? fun o => decide (o.tok = m.tok)).map (·.own)).getD (0, 0)
    emit s { dst := niOf s m.core, src := niOf s c, cls := 4, op := 0x12, cid := own.1, inc := own.2, len := 1, body := .status m.tok 0x24 }

/-- Every monitor that another core has armed at a core's LM answered SEALED. -/
def sealMonitors (s : State) (c : Nat) : State :=
  let mine := fun (m : Monitor) => m.lm && decide (m.home = c ∧ m.core ≠ c)
  (s.monitors.filter mine).foldl (fun s m => sealedTo s c m) { s with monitors := s.monitors.filter fun m => !mine m }

/-- A core is sealed: mailbox counters sealed, the activation aborted with UCE, waiting requests answered SEALED, the streams of its
producer ends ended with UCE, and its ranks in transit (04 R70). A supervisor core is not sealed: its activation aborts. -/
def sealCore (s : State) (c : Nat) : State :=
  let k := coreOf s c
  if isSup c then takeTrap s c 0x25 none
  else
    let s := setCore s c { k with sealed_ := true, restart := k.restart && !k.inh, loop := none }
    let s := takeTrap s c 0x25 none
    let s := if k.loop.isSome then updCore s c clearBank else s
    let s := sealMonitors s c
    let s := ((coreOf s c).ends.filter fun e => decide (e.state ≠ 7)).foldl (fun s e => killEnd s c e 2) s
    transitRanks s c

/-- A trap owed at the next boundary, unless one is owed already (12 R235). -/
def oweTrap (s : State) (c cause : Nat) (detail : Option Word) : State :=
  let k := coreOf s c
  if k.owed.isSome then s else setCore s c { k with owed := some (cause, detail) }

/-- A refused effect of a core: the trap is owed while its activation still runs, else a failure record of KIND 0 is written
(16 R293, R301; 20 R328). -/
def refused (s : State) (c cause msgid cid inc rank kid : Nat) (detail : Word) (own : Option Word) (aborts : Nat := 0) : State :=
  match (coreOf s c).act with
  | some a =>
    if a.msg.hdr.msgid = msgid then oweTrap s c cause own
    else failRec s { cause := cause, kind := 0, inc := inc, cid := cid, aborts := aborts, rank := rank, msgid := msgid, subtag := subtagOf s kid, detail := detail }
  | none => failRec s { cause := cause, kind := 0, inc := inc, cid := cid, aborts := aborts, rank := rank, msgid := msgid, subtag := subtagOf s kid, detail := detail }

/-! ### Operations that many agents acknowledge (03 R62, R65; 08 R162; 05 R98) -/

/-- An operation in progress, by its token. -/
def opOf (s : State) (tok : Nat) : Option Op := s.ops.find? fun o => decide (o.tok = tok)
def updOp (s : State) (tok : Nat) (f : Op → Op) : State := { s with ops := s.ops.map fun o => if o.tok = tok then f o else o }

/-- Another chip as one of the agents that an operation waits for. -/
def chipCode (chip : Nat) : Nat := 2 ^ 30 + chip

/-- The management code of the answer to an operation of another chip (log 40). -/
def answerCode (kind : Nat) : Nat := match kind with | 0 => 9 | 1 => 8 | 2 => 6 | _ => 4

/-- The agents of a die that keep an incarnation table (03 R61; log 21). -/
def killAgentsOf (s : State) (die : Nat) : List Nat :=
  ((List.range 512).map fun i => agentId s die 0 i) ++ ((List.range 128).map fun i => agentId s die 2 (512 + i)) ++
  ((List.range 8).map fun i => agentId s die 5 (640 + i)) ++ ((List.range 64).map fun i => agentId s die 1 i) ++
  ((List.range 64).map fun i => agentId s die 3 i) ++ [agentId s die 4 0] ++ ((List.range 65).map fun i => agentId s die 6 i) ++
  ((List.range 5).map fun i => agentId s die 7 i) ++ ((List.range 82).map fun i => agentId s die 7 (256 + i))

/-- The agents of both dies. -/
def killAgents (s : State) : List Nat := killAgentsOf s 0 ++ killAgentsOf s 1

/-- The context table's part of a kill (03 R62): INC and UNREC rise, and OLDINC is set where nothing was unreclaimed. -/
def killEntry (x : Ctx) : Ctx :=
  let w := setFld (setFld x.w0 47 36 (ctxInc x + 1)) 52 50 (ctxUnrec x + 1)
  { x with w0 := if ctxUnrec x = 0 then setFld w 35 24 (ctxInc x) else w }

/-- A new incarnation on its way to every agent of the package: each still knows the old one until the broadcast reaches it (03 R62). -/
def broadcast (s : State) (cid old new : Nat) : State :=
  let lag := fun (m : SMap Nat) (a : Nat) =>
    let key := a % 65536 * 4096 + cid
    if (mget m key).isSome then m else mput m key old
  let set := fun (s : State) (d : Nat) => updDie s d fun x => { x with incTab := mput x.incTab cid new }
  set (set { s with incLag := (killAgents s).foldl lag s.incLag } 0) 1

/-- A kill begins: the table entry, the broadcast, and the copies for the other chips of the span; status is what the instruction is to write.
A kill by a failed restore is marked, on every chip (04 R73); asked: who of another chip waits for it. -/
def startKill (s : State) (core cid status : Nat) (restore : Bool) (asked : Option (Nat × Nat)) : Nat × State :=
  let old := ctxInc (ctxOf s cid)
  let s := updCtx s cid killEntry
  let new := ctxInc (ctxOf s cid)
  let s := broadcast s cid old new
  let others := spanOthers s cid
  let all := killAgents s
  let o : Op := { tok := s.opNext, kind := 0, core := core, cid := cid, sample := old, left := all ++ others.map chipCode, todo := all, arg := status,
                  arg2 := b2n restore, asked := asked }
  let s := { s with ops := s.ops ++ [o], opNext := s.opNext + 1 }
  (o.tok, others.foldl (fun s c => mgmtTo s c cid 0x20 (.bcast cid (new + 4096 * b2n restore))) s)

/-- A reclaim begins: SAMPLE and U are read, and every agent of the span is asked (03 R65). -/
def startRecl (s : State) (core cid : Nat) (asked : Option (Nat × Nat)) : Nat × State :=
  let others := spanOthers s cid
  let all := killAgents s
  let x := ctxOf s cid
  let o : Op := { tok := s.opNext, kind := 1, core := core, cid := cid, sample := ctxInc x, u := ctxUnrec x, left := all ++ others.map chipCode, todo := all,
                  asked := asked }
  let s := { s with ops := s.ops ++ [o], opNext := s.opNext + 1 }
  (o.tok, others.foldl (fun s c => mgmtTo s c cid 0x21 (.mgmt 7 (o.tok + 2 ^ 32 * (o.sample + 4096 * o.u)))) s)

/-- Whether a kill of a context is in progress. -/
def killing (s : State) (cid : Nat) : Bool := s.ops.any fun o => decide (o.kind = 0 ∧ o.cid = cid)

/-- The status of a kill or reclaim goes back to the chip that asked for it (03 R62; log 40). -/
def askedBack (s : State) (cid : Nat) (asked : Nat × Nat) (status : Nat) : State :=
  emit s { src := fabOf s 0, dst := asked.1, cls := 7, op := 0x21, cid := cid, inc := ctxInc (ctxOf s cid), len := 1, body := .mgmt 21 (asked.2 + 2 ^ 32 * status) }

/-- Another chip's CTX.KILL at the home table (03 R62): refused, kept until the kill in progress is over, or begun. -/
def homeKill (s : State) (cid : Nat) (restore : Bool) (asked : Nat × Nat) : State :=
  if ctxFree (ctxOf s cid) then askedBack s cid asked 0x4B
  else if killing s cid then
    { s with ops := s.ops ++ [{ tok := s.opNext, kind := 7, core := 0, cid := cid, left := [], arg2 := b2n restore, asked := some asked }], opNext := s.opNext + 1 }
  else if ctxUnrec (ctxOf s cid) = 7 then askedBack s cid asked 1
  else (startKill s 0 cid 0 restore (some asked)).2

/-- Another chip's CTX.RECL at the home table (03 R65). -/
def homeRecl (s : State) (cid : Nat) (asked : Nat × Nat) : State :=
  if ctxFree (ctxOf s cid) then askedBack s cid asked 0x4B
  else if ctxUnrec (ctxOf s cid) = 0 then askedBack s cid asked 0
  else (startRecl s 0 cid (some asked)).2

/-- The next kill that waited for one of its context begins. -/
def nextKill (s : State) (cid : Nat) : State :=
  match s.ops.find? fun o => decide (o.kind = 7 ∧ o.cid = cid) with
  | none => s
  | some o => homeKill { s with ops := s.ops.erase o } cid (decide (o.arg2 = 1)) (o.asked.getD (0, 0))

/-- An operation ends: the supervisor core that waits has its status, or the chip that asked its answer. -/
def opDone (s : State) (o : Op) (status : Nat) : State :=
  let s := { s with ops := s.ops.filter fun x => !decide (x.tok = o.tok) }
  match o.org, o.asked with
  | none, some a => askedBack s o.cid a status
  | none, none => updCore s o.core fun k => if k.wait = .sup o.tok then { k with wait := .supDone status } else k
  | some (dst, tok), _ =>
    emit s { src := fabOf s 0, dst := dst, cls := 7, op := 0x21, cid := o.cid, inc := ctxInc (ctxOf s o.cid), len := 1,
             body := .mgmt (answerCode o.kind) tok }

/-- The KILLED records of a kill: one for each kernel of the old incarnation that was queued or running (03 R63). -/
def killedRecords (s : State) (cid old : Nat) : State :=
  let new := wd (ctxInc (ctxOf s cid))
  (s.kernels.filter fun k => decide (k.cid = cid ∧ k.inc = old ∧ k.state = 5)).foldl (fun s k =>
    failRec s { cause := 0x47, kind := 2, inc := old, cid := cid, subtag := k.subtag, detail := new }) s

/-- The table after a reclaim that sampled an incarnation (03 R65). -/
def reclaimed (s : State) (cid sample : Nat) : State :=
  updCtx s cid fun x =>
    let u := (ctxInc x + 4096 - sample % 4096) % 4096
    let w := setFld x.w0 52 50 u
    { x with w0 := if u = 0 then w else setFld w 35 24 sample }

/-- An operation for which every acknowledgement is in ends with what it does last. -/
def opSettle (s : State) (tok : Nat) : State :=
  match opOf s tok with
  | none => s
  | some o =>
    if o.left ≠ [] then s
    else
      let s := if o.kind = 0 then killedRecords s o.cid o.sample else if o.kind = 1 ∧ o.org.isNone then reclaimed s o.cid o.sample else s
      let s := opDone s o (if o.kind = 0 then o.arg else 0)
      if o.kind = 0 ∧ o.org.isNone then nextKill s o.cid else s

end Sys2Proof.Machine
end

