-- ==== Sys2Proof/Machine/Operands.lean ====
section
/-! DEFINITION. The operand forms of scalar instructions: register pairs, immediates, local addresses, global addresses and their
checks (12 R229, 14 R253, 16 R288, 08 R145, R146). -/

namespace Sys2Proof.Machine

/-- op rd, ra, rb: a function of two registers, as 64-bit words. -/
def alu (s : State) (rd ra rb : Reg) (f : Word → Word → Word) : Out := writeX s rd (f (rx (cc s) ra) (rx (cc s) rb))

/-- op rd, ra. -/
def alu1 (s : State) (rd ra : Reg) (f : Word → Word) : Out := writeX s rd (f (rx (cc s) ra))

/-- op rd, ra, imm with a sign-extended immediate (14 R259). -/
def aluI (s : State) (rd ra : Reg) (imm : BitVec 15) (f : Word → Word → Word) : Out := writeX s rd (f (rx (cc s) ra) (sext imm))

/-- The target of a branch or jump: PC + 4 x SExt(off), unbounded (14 R265, R266). -/
def target {n : Nat} (s : State) (off : BitVec n) : Int := (cc s).pc.toNat + 4 * off.toInt

/-- A conditional branch (14 R265). -/
def branch (s : State) (ra rb : Reg) (off : BitVec 15) (p : Word → Word → Bool) : Out :=
  if p (rx (cc s) ra) (rx (cc s) rb) then transfer s none (target s off) else .next (done s id)

/-- The address of a load or store of LM: x[ra] + SExt(off) over 64 bits (16 R288). -/
def eaddr (s : State) (ra : Reg) (off : BitVec 13) : Word := rx (cc s) ra + sext off

/-- The width in bytes of a 2-bit width code (12 R229). -/
def wbytes (w : BitVec 2) : Nat := 2 ^ w.toNat

/-- The fused windows of the running activation: window base, bytes per member and members (07 R139). -/
def fusedWins (s : State) (c : Nat) : List (Nat × Nat × List Nat) :=
  match (coreOf s c).act with
  | none => []
  | some act =>
    match act.gang.bind fun gid => s.gangs.find? fun g => decide (g.gid = gid) with
    | none => []
    | some g => g.fused.map fun r => (rgBase r, rgSize r, g.members)

/-- Whether an address lies in a fused window. -/
def inWin (w : Nat × Nat × List Nat) (a : Nat) : Bool := decide (w.1 ≤ a) && decide (a < w.1 + 8 * w.2.1)

/-- The fused window of the running activation that covers an address. -/
def fusedAt (s : State) (c : Nat) (a : Nat) : Option (Nat × Nat × List Nat) := (fusedWins s c).find? fun w => inWin w a

/-- The owner and its physical address of a byte of a fused window (07 R139). -/
def fusedMap (win : Nat × Nat × List Nat) (a : Nat) : Nat × Nat :=
  let o := a - win.1
  (win.2.2.getD (o / 256 % 8) 0, win.1 + o / 2048 * 256 + o % 256)

/-- The region fault of an activation's access of n bytes, fused windows counted as P regions (07 R124, R139). -/
def accessFault (s : State) (c slot a n : Nat) (wr : Bool) : Option (Nat × Nat) :=
  match fusedAt s c a with
  | some _ => none
  | none => rangeFault (slotOf (coreOf s c) slot) a n wr

/-- The checks of a local access of n bytes at a (16 R288): ALIGN, PRIV for bits above 18, the region table, the fused window. The
cause and the address it concerns. -/
def localCheck (s : State) (a : Word) (n : Nat) (wr : Bool) : Option (Nat × Word) :=
  if a.toNat % n ≠ 0 then some (0x13, a)
  else if a.toNat ≥ 2 ^ 19 then some (0x27, a)
  else
    match accessFault s s.cur (curSlot (cc s)) a.toNat n wr with
    | some (cause, p) => some (cause, wd p)
    | none => if (fusedAt s s.cur a.toNat).isSome ∧ a.toNat / 256 ≠ (a.toNat + n - 1) / 256 then some (0x13, a) else none

/-- A local write by the current core: RESTART falls for a protected range (07 R132), then the bytes are written. -/
def protect (s : State) (a : Nat) : State :=
  let k := cc s
  let t := slotOf k (curSlot k)
  if inP t a || (fusedAt s s.cur a).isSome || (k.inh && inFrame t a) then setCC s (clearRestart k 3) else s

/-- An access of the current core's activation to the bytes [a, a + n) of a core's LM under the error injector: where it strikes, their words are
poisoned (04 R74). -/
def struck (s : State) (c a n : Nat) : State :=
  let (bad, s) := inject s (dieOf c) (actOwn (cc s)).1 0
  if bad then lmPoison s c a n else s

/-- A store to the core's own LM. -/
def localWrite (s : State) (a : Nat) (bs : List Byte) : State := struck (lmWrite (protect s a) s.cur a bs) s.cur a bs.length

/-- A global address's form: virtual, or peer with rank and offset; a non-zero zero-field is malformed (08 R146). -/
inductive GAddr where
  | virt (va : Nat)
  | peer (rank off : Nat)
  | bad
  deriving DecidableEq, Repr

def gform (g : Word) : GAddr :=
  if bit g 63 then (if fld g 62 48 = 0 ∧ fld g 31 19 = 0 then .peer (fld g 47 32) (fld g 18 0) else .bad)
  else if fld g 62 57 = 0 then .virt (fld g 56 0) else .bad

/-- The sampled RMODE of an FADD, STEP advanced after it in SR (11 R215). -/
def sampleStep (k : Core) : Core :=
  if fld k.rmode 2 0 = 5 then { k with rmode := setFld k.rmode 31 16 ((fld k.rmode 31 16 + 1) % 2 ^ 16) } else k

end Sys2Proof.Machine
end

