-- ==== Sys2Proof/Machine/Remote.lean ====
section
/-! DEFINITION. Remote operations at issue (16 R293 to R301): the comparison with the send buffer, the resolution or translation of
the address, the target's capability, and the request that leaves. -/

namespace Sys2Proof.Machine

/-! ### The comparison with the send buffer (09 R171) -/

/-- What the youngest buffered store does to the byte at an address as issued: nothing, a value, or part of the byte. -/
def sbByte (k : Core) (a : Nat) : Option (Option Byte) :=
  k.sb.reverse.findSome? fun e =>
    match e.eff with
    | .store g w v _ => if g ≤ a ∧ a < g + w then some (some (BitVec.ofNat 8 (v.toNat / 2 ^ (8 * (a - g))))) else none
    | .subStore g _ _ _ => if a = g then some none else none
    | _ => none

/-- The bytes of an operation as the buffer holds them. -/
def sbBytesAt (k : Core) (g n : Nat) : List (Option (Option Byte)) := (List.range n).map fun i => sbByte k (g + i)

/-- The whole value of a load that the buffer serves (09 R171). -/
def served (k : Core) (g n : Nat) : Option (List Byte) := (sbBytesAt k g n).mapM fun b => b.join

/-- Whether a buffered store writes any of an operation's bytes. -/
def overlaps (k : Core) (g n : Nat) : Bool := (sbBytesAt k g n).any Option.isSome

/-- Whether a flushed store to any of an operation's bytes is not yet acknowledged. -/
def unackedAt (k : Core) (g n : Nat) : Bool := k.unack.any fun u => decide (u.w ≠ 0 ∧ u.g < g + n ∧ g < u.g + u.w)

/-- An instruction that drains stores to its bytes first (09 R171): a flush, then the acknowledgements, and then cont. -/
def afterDrain (s : State) (g n : Nat) (cont : State → Out) : Out :=
  let k := cc s
  match k.wait with
  | .idle =>
    if overlaps k g n then afterFlush s 0 fun s => .next (setCC s { cc s with wait := .drain }) else cont s
  | .flush => afterFlush s 0 fun s => .next (setCC s { cc s with wait := .drain })
  | .drain => if unackedAt k g n then .next s else cont (setCC s { k with wait := .idle })
  | _ => cont s

/-! ### Translation requests (08 R155, R157) -/

/-- An RTU of a die. -/
def rtuAt (s : State) (d n : Nat) : Rtu := mgetD (dieAt s d).rtus n {}
def updRtu (s : State) (d n : Nat) (f : Rtu → Rtu) : State := updDie s d fun x => { x with rtus := mupd x.rtus n {} f }

/-- A request put to a core's RTU, acting for the running activation: acc 0 load, 1 store, 2 atomic or insert. -/
def askRtu (s : State) (c cid inc cls acc va tok : Nat) (pkt : Option Packet) : State :=
  updRtu s (dieOf c) (rtuOf c) fun r =>
    { r with queue := r.queue ++ [{ agent := niOf s c % 65536, core := c, cls := cls, cid := cid, inc := inc, va := va, acc := acc, tok := tok,
                                    pkt := pkt, rp := if isCompute c then some (pairOf c) else none }] }

/-- The context, incarnation and rank under which a core's activation acts. -/
def actCtx (k : Core) : Nat × Nat × Nat := match k.act with | some a => (a.cid, a.inc, a.rank) | none => (0, 0, 0)

/-! ### Peer addresses (16 R293 step 3) -/

/-- What the NI finds for a peer rank: the owner's NI and slot, a cause to refuse with, or a wait while the rank moves or is absent
(log 22). -/
inductive PeerAt where
  | at_ (dst slot : Nat)
  | refuse (cause : Nat)
  | waits
  deriving DecidableEq, Repr

def peerAt (s : State) (c cid rank : Nat) : PeerAt × State :=
  let (e, s) := resolve s c cid rank
  match reState e with
  | 1 =>
    if reChip e = s.chip ∧ (slotOf (coreOf s (reCore e)) (reSlot e)).resident.isNone then (.refuse 0x26, s)
    else if foreignCore s cid e then (.refuse 0x27, s)
    else (.at_ (reAgent s e) (reSlot e), s)
  | 0 => (.refuse 0x26, s)
  | _ => (.waits, s)

/-! ### Capabilities of a target (16 R298) -/

/-- Whether a RAMO's operator and width are executed by a target: 0 an NI, 1 a slice, 2 host memory, 3 device registers. -/
def amoAllowed (kind op w : Nat) : Bool :=
  match kind with
  | 2 => decide (w = 8) && (decide (op = 1) || decide (op = 2))
  | 3 => false
  | _ => if op = 10 then decide (w = 4) else decide (w = 4) || decide (w = 8)

/-- Whether a target executes hash inserts. -/
def hinsAllowed (kind : Nat) : Bool := decide (kind = 1)

/-- The kind of target of a physical address. -/
def paKind (pa : Nat) : Nat := if paClass pa < 2 then 1 else paClass pa

/-! ### Issue -/

/-- The token under which a request leaves: the one of the translation granted for it, or a fresh one. -/
def takeTok (k : Core) : Nat × Core :=
  match k.grant with
  | some (t, _) => (t, { k with grant := none })
  | none => freshTok k

/-- A request to a home entered in the outstanding table; the issue point advances unless the operation is an acquire (09 R169,
R176). -/
def issueReq (s : State) (dst op : Nat) (slot : Nat) (body : Nat → Body) (rd : Reg) (kind : RetKind) (g : Nat) (acq unc : Bool)
    (f : Core → Core) (cls : Nat := 0) : Out :=
  let k := cc s
  if canSend s dst cls then
    let (cid, inc, _) := actCtx k
    let (t, k) := takeTok k
    let k := f (outstanding k t rd kind g)
    let k' := if acq then { k with wait := .ret t } else advance { k with wait := .idle }
    let s := match k.twin, kind with
      | some d, .amo _ => updCore s d fun x => f (advance (pendReg { x with wait := .idle } rd (twinTok t)))
      | some d, .hins => updCore s d fun x => f (advance (pendReg { x with wait := .idle } rd (twinTok t)))
      | _, _ => s
    .next (emit (setCC s k') { src := niOf s s.cur, dst := dst, cls := cls, op := op, cid := cid, inc := inc, slot := slot, unc := unc, len := 2, body := body t })
  else .next s

/-- A returning operation past its first checks: the peer rank resolved, or the virtual address translated at the RTU, and the
target's capability checked; each check that fails traps with the address g (16 R293). -/
def returning (s : State) (g : Word) (acc : Nat) (allowed : Nat → Bool) (go : State → Nat → Nat → Nat → Bool → Out) : Out :=
  let k := cc s
  let (cid, inc, _) := actCtx k
  match k.wait with
  | .xl _ => .next s
  | .xlFail cause => trap (setCC s { k with wait := .idle }) cause (some g)
  | .xlOk pa unc =>
    if allowed (paKind pa) then go (setCC s { k with wait := .idle }) (homeOf s (dieOf s.cur) pa) 0 pa unc
    else trap (setCC s { k with wait := .idle, grant := none }) 0x11 (some g)
  | _ =>
    match gform g with
    | .bad => trap s 0x26 (some g)
    | .peer rank _ =>
      match peerAt s s.cur cid rank with
      | (.at_ dst slot, s) => if allowed 0 then go s dst slot g.toNat false else trap s 0x11 (some g)
      | (.refuse cause, s) => trap s cause (some g)
      | (.waits, s) => .next s
    | .virt va =>
      let (t, k) := freshTok k
      .next (askRtu (setCC s { k with wait := .xl t }) s.cur cid inc 0 acc va t none)

/-- RLD, RLD.ACQ and LDG of n bytes at g (16 R295, R301): served from the buffer, drained, or issued. -/
def remoteLoad (s : State) (rd : Reg) (g : Word) (n : Nat) (sx acq : Bool) : Out :=
  let k := cc s
  match k.wait with
  | .ret t => if k.out.any fun o => decide (o.tok = t) then .next s else .next (setCC s (advance { k with wait := .idle }))
  | _ =>
    if g.toNat % n ≠ 0 then trap s 0x13 (some g)
    else if gform g = .bad then trap s 0x26 (some g)
    else
      match k.wait, served k g.toNat n with
      | .idle, some bs => writeX s rd (if sx then wdI (signedN (8 * n) (leNat bs)) else wd (leNat bs))
      | _, _ =>
        afterDrain s g.toNat n fun s =>
          returning s g 0 (fun _ => true) fun s dst slot addr unc =>
            issueReq s dst 1 slot (fun t => .load addr n t) rd (.load n sx) g.toNat acq unc id

/-- An operation of a paired activation that counts as a flush (04 R71): the copies are compared first, the lower core goes on with cont,
and the other waits for what the lower one issues. -/
def pairFirst (s : State) (words : List Word) (cont : State → Out) : Out :=
  let k := cc s
  match k.twin with
  | none => cont s
  | some t =>
    match k.wait with
    | .idle =>
      let s := beginFlush (setCC s { k with folded := k.folded ++ [{ eff := .op words, bytes := 0, counted := 0, tok := 0 }] }) s.cur 0
      .next (setCC s { cc s with wait := .pairOp })
    | .pairOp =>
      if k.cmpAt.isSome ∨ k.flush.isSome ∨ t < s.cur then .next s
      else
        match cont (setCC s { k with wait := .idle }) with
        | .next s' => if (cc s').wait = .idle ∧ (coreOf s' t).wait = .pairOp then .next (setCC s' { cc s' with wait := .pairOp }) else .next s'
        | o => o
    | _ => cont s

/-- RAMO at g (16 R297): the request clears RESTART as it leaves. -/
def remoteAmo (s : State) (rd : Reg) (g : Word) (op n : Nat) (b c : Word) : Out :=
  if g.toNat % n ≠ 0 then trap s 0x13 (some g)
  else if gform g = .bad then trap s 0x26 (some g)
  else
    pairFirst s [g, wd op, wd n, b, c] fun s => afterDrain s g.toNat n fun s =>
      returning s g 2 (fun k => amoAllowed k op n) fun s dst slot addr unc =>
        let rm := (cc s).rmode
        issueReq s dst 4 slot (fun t => .amo addr op n b c rm t) rd (.amo n) g.toNat false unc
          fun k => let k := clearRestart k 2; if op = 10 then sampleStep k else k

/-- HINS and HINS.TAG at g (16 R299). -/
def remoteHins (s : State) (rd : Reg) (g : Word) (newer : Bool) (key data : Word) : Out :=
  if g.toNat % 256 ≠ 0 then trap s 0x13 (some g)
  else if gform g = .bad then trap s 0x26 (some g)
  else
    pairFirst s [g, key, data, wd (b2n newer)] fun s => afterDrain s g.toNat 256 fun s =>
      returning s g 2 hinsAllowed fun s dst slot addr unc =>
        issueReq s dst 5 slot (fun t => .hins addr newer key data t) rd .hins g.toNat false unc fun k => clearRestart k 2

/-- One of an effect's records in the unacknowledged set. -/
def unacked (k : Core) (tok target g w msgid : Nat) : Core :=
  { k with unack := k.unack ++ [{ tok := tok, target := target, g := g, w := w, msgid := msgid, own := actOwn k, by_ := actBy k }] }

/-- The message identifier of the running activation. -/
def actMsg (k : Core) : Nat := match k.act with | some a => a.msg.hdr.msgid | none => 0

/-- A die of another chip noted as a target of counted stores since the last fabric fence (02 R39). -/
def noteStore (s : State) (k : Core) (dst : Nat) : Core :=
  if agChip dst = s.chip then k else { k with storedTo := addSorted k.storedTo (agChip dst * 2 + agDie dst) }

/-- The refusal of a store at g, which the storing activation takes at its next boundary (16 R293). -/
def refuseStore (s : State) (c cause msgid cid inc rank kid : Nat) (g : Word) (aborts : Nat := 0) : State :=
  refused s c cause msgid cid inc rank kid g (if cause = 0x26 ∨ cause = 0x27 then some g else none) aborts

/-- A store that leaves the NI toward its home under a token (16 R293 steps 3 and 4): none while it must wait. -/
def storeOut (s : State) (c : Nat) (g w : Nat) (body : Nat → Body) (op tok : Nat) (bad : Bool := false) : Option State :=
  let k := coreOf s c
  let (cid, inc, rank) := actCtx k
  let msgid := actMsg k
  let kid := actKernel k
  match gform (wd g) with
  | .bad => some (refuseStore s c 0x26 msgid cid inc rank kid (wd g))
  | .peer r _ =>
    match peerAt s c cid r with
    | (.waits, _) => none
    | (.refuse cause, s) => some (refuseStore s c cause msgid cid inc rank kid (wd g))
    | (.at_ dst slot, s) =>
      if canSend s dst 1 then
        let s := updCore s c fun k => noteStore s (unacked k tok dst g w msgid) dst
        some (emit s { src := niOf s c, dst := dst, cls := 1, op := op, cid := cid, inc := inc, slot := slot, len := 2, bad := bad, body := body g })
      else none
  | .virt va =>
    let s := updCore s c fun k => unacked k tok 0 g w msgid
    let p : Packet := { src := niOf s c, dst := 0, cls := 1, op := op, cid := cid, inc := inc, len := 2, bad := bad, body := body g }
    some (askRtu s c cid inc 1 1 va tok (some p))

/-! ### The row channel (09 R173) -/

/-- The class number of the row channels, which are not the fabric's. -/
def rowCls : Nat := 8

/-- A word of LM that another member of the gang holds asked for over the row channel. -/
def askRow (s : State) (owner at_ w : Nat) : State :=
  let (cid, inc, _) := actCtx (cc s)
  let (t, k) := freshTok (cc s)
  emit (setCC s (outstanding k t 0 (.rowWord w) 0))
    { src := niOf s s.cur, dst := niOf s owner, cls := rowCls, op := 1, cid := cid, inc := inc, len := 1, body := .rowLd at_ 8 false t }

/-- A store over the row channel, which joins the unacknowledged set. -/
def rowStore (s : State) (owner at_ n : Nat) (v : Word) (full bad : Bool) : State :=
  let (t, k) := freshTok (cc s)
  let (cid, inc, _) := actCtx k
  let s := setCC s (unacked k t (niOf s owner) 0 0 (actMsg k))
  emit s { src := niOf s s.cur, dst := niOf s owner, cls := rowCls, op := 2, cid := cid, inc := inc, len := 2, bad := bad, body := .rowSt at_ n v full t }

/-- Whether a word has been asked for and is not back yet. -/
def rowAsked (k : Core) (w : Nat) : Bool := k.out.any fun o => decide (o.kind = .rowWord w) && o.live

/-- The words of [a, a + n). -/
def wordsOf (a n : Nat) : List Nat := if n = 0 then [] else (List.range ((a + n - 1) / 8 - a / 8 + 1)).map (a / 8 + ·)

/-- The core and its own address that hold a byte of the running activation's LM (07 R139). -/
def lmHome (s : State) (a : Nat) : Nat × Nat := match fusedAt s s.cur a with | some win => fusedMap win a | none => (s.cur, a)

/-- An instruction with an LM operand: words of it that other members hold are read over the row channel first, one after the other. -/
def rowFirst (s : State) (a n : Nat) (cont : Out) : Out :=
  let far := if (fusedWins s s.cur).isEmpty then [] else (wordsOf a n).filter fun w => decide ((lmHome s (8 * w)).1 ≠ s.cur)
  if far.all fun w => (mget (cc s).vgot w).isSome then cont
  else
    match far.find? fun w => (mget (cc s).vgot w).isNone && !rowAsked (cc s) w with
    | some w => .next (askRow s (lmHome s (8 * w)).1 (lmHome s (8 * w)).2 w)
    | none => .next s

/-! ### Fence scopes (09 R174, R175) -/

/-- Whether a target agent lies within a scope of a core: 0 row, 1 die, 2 package, 3 fabric. A store whose translation is not yet known (target 0) lies in
no row, since its address is no peer's; wider scopes wait until it is known. -/
def inScope (s : State) (c scope target : Nat) : Bool :=
  match scope with
  | 3 => true
  | 2 => decide (target = 0) || decide (agChip target = s.chip)
  | 1 => decide (target = 0) || (decide (agChip target = s.chip) && decide (agDie target = dieOf c))
  | _ => decide (target ≠ 0) && decide (agChip target = s.chip) && decide (agKind target = 0) && isCompute c && decide (rowOf (agCore target) = rowOf c)

/-- Fence markers to every die of another chip that the core stored to since its last fabric fence (02 R39). -/
def sendMarkers (s : State) (c : Nat) : State :=
  let k := coreOf s c
  let (cid, inc, _) := actCtx k
  let s := setCore s c { k with storedTo := [] }
  k.storedTo.foldl (fun s d =>
    let (t, k) := freshTok (coreOf s c)
    let s := setCore s c (outstanding k t 0 .marker d)
    e2eSend s { src := niOf s c, dst := d / 2 * 65536 + d % 2 * 32768 + 7 * 4096, cls := 1, op := 0x18, cid := cid, inc := inc, len := 1,
                body := .marker 0 t }) s

/-- FENCE (09 R174): the flush; for a fabric fence the markers, once every store of the core has a home (02 R39); and the wait for the outstanding table and
the covered effects. -/
def fence (s : State) (scope : Nat) : Out :=
  let wait := fun (s : State) =>
    let k := cc s
    if k.out.isEmpty && !(k.unack.any fun u => inScope s s.cur scope u.target)
    then Host.Outcome.next (setCC s (advance { k with wait := .idle }))
    else .next s
  let mark := fun (s : State) =>
    if scope ≠ 3 then wait (setCC s { cc s with wait := .fence true })
    else if (cc s).unack.any fun u => decide (u.target = 0) then .next (setCC s { cc s with wait := .fence false })
    else wait (sendMarkers (setCC s { cc s with wait := .fence true }) s.cur)
  match (cc s).wait with
  | .fence true => wait s
  | .fence false => mark s
  | _ => afterFlush s 0 mark

/-! ### WAITM (09 R182, 16 R304) -/

/-- A monitor armed at this chip's memory or at a core's LM, for an arming request of another chip where there is one: the core wakes at once when the
block's first word differs. A core holds one monitor, and a later one replaces it. -/
def armAt (s : State) (lm : Bool) (home addr core tok : Nat) (expect : Word) (far : Option Packet := none) : State :=
  -- an aborted activation waits no more (09 R184)
  if far.isNone && !((coreOf s core).out.any fun o => decide (o.tok = tok)) then s else
  let v := if lm then rdLE (coreOf s home).lm addr 8 else rdLE s.mem addr 8
  if v ≠ expect.toNat then
    match far with
    | some p => farWake s p tok 0
    | none => wakeCore s core 0
  else { s with monitors := (s.monitors.filter fun m => !decide (m.core = core)) ++ [{ lm := lm, home := home, block := addr, core := core, tok := tok, far := far }] }

/-- WAITM: the checks, the arming, and on the wake the reason in rd. -/
def waitmOp (s : State) (rd : Reg) (g expect : Word) : Out :=
  let k := cc s
  match k.wait with
  | .armed _ => .next s
  | .woke r => .next (setCC s (advance (wx { k with wait := .idle } rd (wd r))))
  | _ =>
    if g.toNat % 64 ≠ 0 then trap s 0x13 (some g)
    else
      let own : Option Nat := match gform g with
        | .peer r off => match k.act with | some a => if r = a.rank then some off else none | none => none
        | _ => none
      match own with
      | some off =>
        match rangeFault (slotOf k (curSlot k)) off 64 false with
        | some (cause, p) => trap s cause (some (setFld g 18 0 p))
        | none =>
          let (t, k) := freshTok k
          let k := outstanding { k with wait := .armed t } t 0 .arm g.toNat
          let s := armAt (setCC s k) true s.cur off s.cur t expect
          match (cc s).wait with
          | .woke r => .next (setCC s (advance (wx { cc s with wait := .idle } rd (wd r))))
          | _ => .next s
      | none =>
        returning s g 0 (fun _ => true) fun s dst slot addr unc =>
          if !bit g 63 && decide (paClass addr ≥ 2) then .next (setCC s (advance (wx (cc s) rd 7)))
          else if canSend s dst 0 then
            let k := cc s
            let (cid, inc, _) := actCtx k
            let (t, k) := takeTok k
            let k := outstanding { k with wait := .armed t } t 0 .arm g.toNat
            .next (emit (setCC s k) { src := niOf s s.cur, dst := dst, cls := 0, op := 1, cid := cid, inc := inc, slot := slot, unc := unc, len := 2,
                                      body := .arm addr expect t })
          else .next s

end Sys2Proof.Machine
end

