-- ==== Sys2Proof/Machine/Rtu.lean ====
section
/-! DEFINITION. Row translation units (08 R150 to R162): the tables, one level of a walk, the fault slots and their resolution, the
rings of records, and what a translated request does next. -/

namespace Sys2Proof.Machine

/-! ### Tables (08 R151 to R153) -/

/-- The lowest address bit that a level's index covers. -/
def lvlShift (lvl : Nat) : Nat := 60 - 9 * lvl

/-- The index of an address in a node of a level; top is the number of entries of the level-1 node. -/
def lvlIdx (top lvl a : Nat) : Nat := a / 2 ^ lvlShift lvl % (if lvl = 1 then top else 512)

/-- A word of memory at a physical address as an RTU reads it. Memory of another chip is no part of this state: the word is free (log 24). -/
def paWord (s : State) (pa : Nat) : Word := if paChip pa = s.chip then wd (rdLE s.mem pa 8) else Config.farWord pa s.free

/-- A table entry read at a physical address. -/
def entryAt (s : State) (pa : Nat) : Word × Word := (paWord s pa, paWord s (pa + 8))

/-- Whether a table node can be read: populated, and of the HBM or CXL class (08 R158). -/
def nodeOk (s : State) (pa : Nat) : Bool := populated s pa && decide (paClass pa < 2)

/-- A malformed entry (08 R153) at a level of stage 1 or 2. -/
def malformed (e : Word × Word) (lvl : Nat) (stage1 : Bool) : Bool :=
  let w := e.1
  let leaf := bit w 62
  (leaf && decide (lvl ≤ 2)) || (!leaf && decide (lvl = 5)) || bit w 12 ||
  (!leaf && (decide (fld w 61 56 ≠ 0) || decide (e.2 ≠ 0))) ||
  (leaf && !stage1 && decide (e.2 ≠ 0)) || (leaf && bit w 57) ||
  (leaf && decide (3 ≤ lvl) && decide (lvl ≤ 5) && decide (fld w (lvlShift lvl - 1) 13 ≠ 0)) ||
  (leaf && ((bit w 59 && !bit w 60) || (bit w 58 && !bit w 59)))

def entryAddr (w : Word) : Nat := fld w 55 13 * 2 ^ 13

/-- A leaf reached: the address, the page size, the permissions, the attribute and MIG. -/
structure LeafV where
  pa : Nat
  size : Nat
  rd : Bool
  wr : Bool
  at_ : Bool
  unc : Bool
  mig : Bool
  deriving DecidableEq, Repr

def leafOf (w : Word) (lvl a : Nat) : LeafV :=
  { pa := entryAddr w + a % 2 ^ lvlShift lvl, size := 2 ^ lvlShift lvl, rd := bit w 60, wr := bit w 59, at_ := bit w 58,
    unc := decide (fld w 57 56 = 1), mig := bit w 61 }

/-- A stage-2 walk's end: a leaf, or the failing level with S2WHY (08 R158, R159). -/
inductive S2R where
  | ok (l : LeafV) (lvl : Nat)
  | fault (lvl why : Nat)
  deriving DecidableEq, Repr

/-- The stage-2 walk from a node at a level; mv is where the read of an entry goes, for a read that a migration window has sent on (08 R163). Whether the
leaf's target is populated is the caller's check: a stage-1 node there is a node that cannot be read (08 R158). -/
def s2go (s : State) (mv : Nat → Nat) (addr : Nat) : Nat → Nat → Nat → S2R
  | 0, _, lvl => .fault lvl 1
  | n + 1, node, lvl =>
    if !nodeOk s node then .fault lvl 3
    else
      let e := entryAt s (mv (node + 16 * lvlIdx 32 lvl addr))
      if !bit e.1 63 then .fault lvl 0
      else if malformed e lvl false then .fault lvl 1
      else if bit e.1 62 then .ok (leafOf e.1 lvl addr) lvl
      else s2go s mv addr n (entryAddr e.1) (lvl + 1)

/-- The addresses of the entries that a stage-2 walk reads. -/
def s2reads (s : State) (mv : Nat → Nat) (addr : Nat) : Nat → Nat → Nat → List Nat
  | 0, _, _ => []
  | n + 1, node, lvl =>
    let a := mv (node + 16 * lvlIdx 32 lvl addr)
    if !nodeOk s node then []
    else
      let e := entryAt s a
      a :: if !bit e.1 63 || malformed e lvl false || bit e.1 62 then [] else s2reads s mv addr n (entryAddr e.1) (lvl + 1)

/-- The stage-2 root of a partition. -/
def s2rootOf (s : State) (part : Nat) : Nat := (mgetD s.parts part {}).s2root.toNat

/-- Stage 2 of a partition for a partition address (08 R150). -/
def s2walk (s : State) (part addr : Nat) (mv : Nat → Nat := id) : S2R := s2go s mv addr 5 (s2rootOf s part) 1

/-- What one level of a stage-1 walk comes to. -/
inductive WalkR where
  | more (node : Nat)
  | ok (e : TlbE)
  | fault (kind lvl why paddr : Nat)
  | xlate
  | mig
  deriving DecidableEq, Repr

/-- Whether permissions allow an access: 0 load, 1 store, 2 atomic or insert (08 R154). -/
def permit (acc : Nat) (rd wr at_ : Bool) : Bool := match acc with | 0 => rd | 1 => wr | _ => at_

/-- One level of the walk of 08 R156 for a context: the node at a partition address, whose physical address the walk cache may hold. -/
def walkNode (s : State) (mv : Nat → Nat) (cid va acc : Nat) (rp : Option Nat) (lvl node : Nat) (held : Option Nat) : WalkR :=
  let part := ctxPart (ctxOf s cid)
  let eaddr := node + 16 * lvlIdx 64 lvl va
  let read := fun (npa : Nat) =>
    let e := entryAt s (mv (npa + 16 * lvlIdx 64 lvl va))
    if !bit e.1 63 then WalkR.fault 1 lvl 0 0
    else if malformed e lvl true then .xlate
    else if !bit e.1 62 then .more (entryAddr e.1)
    else
      let f := leafOf e.1 lvl va
      if !permit acc f.rd f.wr f.at_ then .xlate
      else if (match rp with | some p => !bit e.2 p | none => false) then .xlate
      else if f.mig then .mig
      else
        match s2walk s part f.pa mv with
        | .fault l why => .fault 3 l why f.pa
        | .ok g l =>
          if !populated s g.pa then .fault 3 l 3 f.pa
          else if g.mig then .mig
          else if !permit acc g.rd g.wr g.at_ then .fault 3 l 2 f.pa
          else
            let size := min f.size g.size
            .ok { cid := cid, va := va / size * size, size := size, pa := g.pa / size * size, part := f.pa / size * size, pid := part,
                  rd := f.rd && g.rd, wr := f.wr && g.wr, at_ := f.at_ && g.at_, unc := f.unc || g.unc || decide (paClass g.pa = 3), rpmask := e.2.toNat }
  match held with
  | some npa => read npa
  | none =>
    match s2walk s part node mv with
    | .fault l why => .fault 2 l why eaddr
    | .ok n l =>
      -- a stage-1 node that cannot be read is reported with its own level (08 R158)
      if !nodeOk s n.pa then .fault 2 lvl 3 eaddr
      else if n.mig then .mig
      else if !n.rd then .fault 2 l 2 eaddr
      else read n.pa

/-- The same with nothing cached. -/
def walkLevel (s : State) (cid va acc : Nat) (rp : Option Nat) (lvl node : Nat) : WalkR := walkNode s id cid va acc rp lvl node none

/-- The physical addresses of the table entries that one level of a walk reads. -/
def walkReads (s : State) (mv : Nat → Nat) (cid va lvl node : Nat) (held : Option Nat) : List Nat :=
  let part := ctxPart (ctxOf s cid)
  let stage2 := fun (a : Nat) => s2reads s mv a 5 (s2rootOf s part) 1
  let npa := match held with
    | some npa => some npa
    | none => (match s2walk s part node mv with | .ok n _ => if nodeOk s n.pa then some n.pa else none | .fault .. => none)
  (if held.isSome then [] else stage2 node) ++
  match npa with
  | none => []
  | some npa =>
    let a := mv (npa + 16 * lvlIdx 64 lvl va)
    let e := entryAt s a
    a :: if bit e.1 63 && bit e.1 62 then stage2 (leafOf e.1 lvl va).pa else []

/-- The whole walk from a level, for the agents that translate in one step. -/
def walkFrom (s : State) (cid va acc : Nat) (rp : Option Nat) : Nat → Nat → Nat → WalkR
  | 0, _, _ => .xlate
  | n + 1, lvl, node =>
    match walkLevel s cid va acc rp lvl node with
    | .more nd => walkFrom s cid va acc rp n (lvl + 1) nd
    | r => r

/-- S1ROOT of a context (03 R60). -/
def s1root (s : State) (cid : Nat) : Nat := fld (ctxOf s cid).w1 55 13 * 2 ^ 13

def walk (s : State) (cid va acc : Nat) (rp : Option Nat) : WalkR := walkFrom s cid va acc rp 5 1 (s1root s cid)

/-- The physical address under an entry. -/
def TlbE.paOf (e : TlbE) (va : Nat) : Nat := e.pa + va % e.size

/-- A virtual address of a context translated at both stages with a permission, by a full walk. -/
def xlate? (s : State) (cid va acc : Nat) (rp : Option Nat := none) : Option Nat := match walk s cid va acc rp with | .ok e => some (e.paOf va) | _ => none

/-! ### Rings of records (07 R136) -/

/-- Words written by an agent at a physical address: memory of another chip takes them as engine writes (02 R30; log 24). -/
def paWrite (s : State) (src cid inc pa : Nat) (ws : List Word) : State :=
  if paChip pa = s.chip then memWrite s pa (wordsBytes ws)
  else ws.zipIdx.foldl (fun s x =>
    emit s { src := src, dst := homeOf s (agDie src) (pa + 8 * x.2), cls := 1, op := 6, cid := cid, inc := inc, len := 2, body := .engWrite (pa + 8 * x.2) x.1 false false 0 }) s

/-- A record of words added to a ring by an agent acting for a row pair or for none: the ring's header and its slot are read and written at the homes of
their pages. The flag says whether it was written. A ring that is full counts the loss in LOST; one that cannot be reached counts it in QLOST. -/
def ringAdd (s : State) (src cid inc : Nat) (base size : Word) (rec : List Word) (rp : Option Nat) : State × Bool :=
  let die := agDie src
  let lost := fun (s : State) => (count s die 8, false)
  let here := fun (va : Nat) =>
    match xlate? s cid va 0 rp, xlate? s cid va 1 rp with
    | some p, some _ => if paClass p < 3 then some p else none
    | _, _ => none
  if !bit base 63 then lost s
  else
    let b := fld base 56 6 * 64
    let n := 2 ^ fld size 4 0
    match here b with
    | none => lost s
    | some h =>
      let tail := (paWord s h).toNat
      let head := (paWord s (h + 8)).toNat
      if (tail + 2 ^ 64 - head) % 2 ^ 64 < n then
        match here (b + 64 + 32 * (tail % n)) with
        | none => lost s
        | some p => (paWrite (paWrite s src cid inc p rec) src cid inc h [wd (tail + 1)], true)
      else (count (paWrite s src cid inc (h + 16) [paWord s (h + 16) + 1]) die 8, false)

/-! ### Scheduler traps (05 R99, 08 R160) -/

/-- A scheduler-trap message from an agent of a die to a supervisor core of that die, with a payload of words. The firmware's choice of
core, slot, queue, handler, tag and priority is not stated: free values (log 25). -/
def schedTrap (s : State) (die src cid inc : Nat) (pay : List Word) : State :=
  let (f, s) := drawFree s
  let w := Config.freeWord f
  let c := die * 1024 + 640 + fld w 2 0
  let (id, s) := freshMsg s cid
  let h : MsgHdr := { msgid := id, srank := 0xFFFF, trank := fld w 31 16, tag := fld w 47 32, handler := fld w 53 48, queue := fld w 4 3,
                      prio := fld w 7 5, mkind := 8 }
  emit s { src := src, dst := niOf s c, cls := 2, op := 8, cid := cid, inc := inc, slot := fld w 9 8, len := msgLen (8 * pay.length),
           body := .msg h (wordsBytes pay) false }

/-! ### Requests held (08 R158 to R160) -/

/-- Every request that an RTU of the package holds for a fault or a migration. -/
def heldReqs (s : State) : List XReq :=
  (s.dies.toList.flatMap fun d => d.rtus.flatMap fun r => r.2.fslots.flatMap (·.reqs) ++ r.2.mig)

/-- The gang whose MMA.G a core's slice runs with the others (23 R363). -/
def joinedGang (k : Core) : Option Nat := (k.run.find? fun r => r.joined && r.result.isNone).bind (·.gang)

/-- Whether a held request holds its requester back: a matrix command goes on until it comes to the block whose fetch is held (23 R365). -/
def holdsBack (s : State) (q : XReq) : Bool :=
  decide (q.cls ≠ 9) || !((coreOf s q.core).run.any fun r => decide (r.cmd.tok = q.tok ∧ r.prog < r.stallAt))

/-- WDOG.HOLD of a core follows whether a request of it is held, or one of an MMA.G in which it has joined (07 R137, 08 R158, 23 R365). -/
def syncHold (s : State) (c : Nat) : State :=
  let g := joinedGang (coreOf s c)
  let h := (heldReqs s).any fun q => holdsBack s q && (decide (q.core = c) || (decide (q.cls = 9) && g.isSome && decide (joinedGang (coreOf s q.core) = g)))
  if (coreOf s c).hold = h then s else updCore s c fun k => { k with hold := h }

/-- The requests' cores, and the members of an MMA.G that they belong to, with HOLD brought up to date. -/
def syncHolds (s : State) (qs : List XReq) : State :=
  qs.foldl (fun s q =>
    let mates := match joinedGang (coreOf s q.core) with
      | some gid => (s.gangs.filter fun g => decide (g.gid = gid)).flatMap (·.members)
      | none => []
    (q.core :: mates).foldl syncHold s) s

/-- Whether a command is MMA.S or MMA.G. -/
def isMatrix (c : Cmd) : Bool := decide (fld c.w0 63 56 = 4 ∨ fld c.w0 63 56 = 5)

/-- An engine's command whose element operation waited at the RTU goes on; a matrix command whose fetch has failed still computes the blocks before it
(08 R158, 23 R365, R366). -/
def unstall (s : State) (q : XReq) (fail : Bool) : State :=
  updCore s q.core fun k => { k with run := k.run.map fun r =>
    if r.cmd.tok = q.tok then
      { r with stalled := false, failed := fail && isMatrix r.cmd, result := if fail && !isMatrix r.cmd then some (0x26, 0, 0) else r.result }
    else r }

/-- A request fails: its requester takes XLATE with the virtual address (08 R158, R160). Class 9 is an engine's. -/
def failReq (s : State) (q : XReq) : State :=
  if q.cls = 9 then unstall s q true
  else
    match q.pkt with
    | none => updCore s q.core fun k => if k.wait = .xl q.tok then { k with wait := .xlFail 0x26 } else k
    | some p =>
      let k := coreOf s q.core
      let u := k.unack.find? fun u => decide (u.tok = q.tok)
      let msgid := (u.map (·.msgid)).getD 0
      let (rank, kid, aborts) := (u.map (·.by_)).getD (0xFFFF, 0, 0)
      let s := setCore s q.core { k with unack := k.unack.filter fun u => !decide (u.tok = q.tok), out := k.out.filter fun o => !decide (o.tok = q.tok ∧ o.kind = .stg) }
      refuseStore s q.core 0x26 msgid p.cid p.inc rank kid (wd q.va) aborts

/-- A request translated to a physical address: the store leaves for its home, or the requester at its issue point is told. -/
def grantReq (s : State) (q : XReq) (pa : Nat) (unc : Bool) : State :=
  if q.cls = 9 then unstall s q false
  else
  match q.pkt with
  | none => updCore s q.core fun k => if k.wait = .xl q.tok then { k with wait := .xlOk pa unc, grant := some (q.tok, q.va) } else k
  | some p =>
    let body : Body := match p.body with
      | .store _ w v f t => .store pa w v f t
      | .subStore _ o z v t => .subStore pa o z v t
      | b => b
    let dst := homeOf s (dieOf q.core) pa
    let s := updCore s q.core fun k =>
      noteStore s { k with unack := k.unack.map fun u => if u.tok = q.tok then { u with target := dst } else u } dst
    emit s { p with dst := dst, unc := unc, body := body }

/-- The record of a fault report (08 R159). -/
def faultWords (die rtu : Nat) (f : FSlot) (q : XReq) : List Word :=
  [wd (f.kind * 2 ^ 56 + f.level * 2 ^ 53 + f.why * 2 ^ 50 + f.acc * 2 ^ 48 + f.inc % 4096 * 2 ^ 36 + f.cid % 4096 * 2 ^ 24 + die * 2 ^ 23 +
       rtu * 2 ^ 16 + f.idx * 2 ^ 12 + f.seq),
   wd f.va, wd f.paddr, wd (q.agent % 65536 * 2 ^ 32)]

/-- Requests held in a fault slot, with the report of it; with every slot busy they wait in the queue (08 R158 to R160). A report that
finds no room is not written and the requests take XLATE. -/
def holdFault (s : State) (die rtu kind lvl why paddr acc : Nat) (qs : List XReq) : State :=
  match qs with
  | [] => s
  | q :: _ =>
    let r := rtuAt s die rtu
    match (List.range 16).find? fun i => !(r.fslots.any fun f => decide (f.idx = i)) with
    | none => updRtu s die rtu fun r => { r with queue := qs ++ r.queue }
    | some i =>
      let f : FSlot := { idx := i, kind := kind, level := lvl, why := why, seq := r.seq, va := q.va, paddr := paddr, cid := q.cid, inc := q.inc,
                         acc := acc, reqs := qs, since := s.now }
      let s := updRtu s die rtu fun r => { r with fslots := r.fslots ++ [f], seq := (r.seq + 1) % 4096 }
      let words := faultWords die rtu f q
      if kind = 1 then
        let g := mgetD (dieAt s die).qregs q.cid {}
        let (s, ok) := ringAdd s (s.chip * 65536 + rtuAgent die rtu) q.cid q.inc g.frbase g.frsize words q.rp
        if ok then syncHolds s qs
        else
          let s := updRtu s die rtu fun r => { r with fslots := r.fslots.filter fun x => !decide (x.idx = i) }
          qs.foldl failReq s
      else
        let s := updDie s die fun d => { d with pmRing := d.pmRing ++ [words] }
        syncHolds (schedTrap s die (schedOf s die) q.cid q.inc words) qs

/-! ### TLB and walkers (08 R155 to R157) -/

/-- The TLB entry that serves a request: one that allows it. -/
def tlbHit (r : Rtu) (q : XReq) : Option TlbE :=
  r.tlb.find? fun e => decide (e.cid = q.cid ∧ e.va ≤ q.va ∧ q.va < e.va + e.size) && permit q.acc e.rd e.wr e.at_ &&
    (match q.rp with | some p => decide (e.rpmask / 2 ^ p % 2 = 1) | none => true)

/-- The set of a TLB that an entry belongs to: 512 sets of 8. Which address bits choose it is not stated: its page's number (DESIGN CHOICE, log 23). -/
def tlbSet (e : TlbE) : Nat := e.va / e.size % 512

/-- A TLB of 4,096 entries, 8 to a set, takes one more: a full set loses its oldest. -/
def tlbFill (r : Rtu) (e : TlbE) : Rtu :=
  let rest := without e r.tlb
  let set := rest.filter fun x => decide (tlbSet x = tlbSet e)
  let rest := if set.length < 8 then rest else (match set.head? with | some x => rest.erase x | none => rest)
  { r with tlb := rest ++ [e] }

/-- A walk cache of 256 entries takes one more. -/
def wcFill (r : Rtu) (e : WcE) : Rtu := { r with wcache := (without e r.wcache ++ [e]).drop ((without e r.wcache).length - 255) }

/-- The physical address of a stage-1 node that a walk cache holds. -/
def s2Held (r : Rtu) (pid node : Nat) : Option Nat := (r.wcache.find? fun e => decide (e.lvl = 0 ∧ e.pid = pid ∧ e.pre = node)).map (·.node)

/-- Requests waiting in an RTU hold back later ones of their source and class (08 R157). -/
def rtuWaits (r : Rtu) (q : XReq) : Bool :=
  ((r.walkers.flatMap (·.reqs)) ++ (r.fslots.flatMap (·.reqs)) ++ r.mig).any fun x => decide (x.agent = q.agent ∧ x.cls = q.cls)

/-- The first request of a queue that nothing of its source and class holds back, and the queue without it. -/
def nextReq (r : Rtu) : List XReq → List (Nat × Nat) → Option (XReq × List XReq)
  | [], _ => none
  | q :: qs, seen =>
    if (q.agent, q.cls) ∈ seen ∨ rtuWaits r q = true then (nextReq r qs ((q.agent, q.cls) :: seen)).map fun x => (x.1, q :: x.2)
    else some (q, qs)

/-- Where a new walk of a context begins: the deepest node that the walk cache holds for the address, else the root. -/
def walkStart (s : State) (r : Rtu) (cid va : Nat) : Nat × Nat :=
  match [5, 4, 3, 2].findSome? fun lvl =>
      (r.wcache.find? fun e => decide (e.cid = cid ∧ e.lvl = lvl ∧ e.pre = va / 2 ^ lvlShift (lvl - 1))).map fun e => (lvl, e.node) with
  | some x => x
  | none => (1, s1root s cid)

/-- The held walk that a request joins (08 R155, 24 R382): one of its page, context and incarnation; a KIND 3 report can rest on the access and the row
pair of its request, so it takes in requests of the same access and row pair only (log 48). -/
def heldWalk (r : Rtu) (q : XReq) : Option FSlot :=
  r.fslots.find? fun f =>
    decide (f.cid = q.cid ∧ f.inc = q.inc ∧ f.va / 2 ^ 15 = q.va / 2 ^ 15) &&
    (decide (f.kind ≠ 3) || f.reqs.any fun x => decide (x.acc = q.acc ∧ x.rp = q.rp))

/-- A request joined to a held walk. -/
def joinHeld (s : State) (die rtu : Nat) (f : FSlot) (q : XReq) : State :=
  syncHolds (updRtu s die rtu fun r => { r with fslots := r.fslots.map fun x => if x.idx = f.idx then { x with reqs := x.reqs ++ [q] } else x }) [q]

/-- A translation request served: dropped when its incarnation is not current (03 R61), answered from the TLB, joined to the walk of
its page, held or going on, or given a walker of the eight. -/
def serveReq (s : State) (die rtu : Nat) (q : XReq) : Option State :=
  let r := rtuAt s die rtu
  if !incOk s (rtuAgent die rtu) q.cid q.inc then 
    some (count (updCore s q.core fun k =>
      { k with unack := k.unack.filter fun u => !decide (u.tok = q.tok), out := k.out.filter fun o => !decide (o.tok = q.tok ∧ o.kind = .stg) }) die 0)
  else if rtu = 81 then
    let pa := q.va % 2 ^ 56
    if q.va / 2 ^ 56 % 2 = 0 ∧ populated s pa then some (grantReq s q pa false) else some (failReq s q)
  else
    match tlbHit r q with
    | some e => some (grantReq s q (e.paOf q.va) e.unc)
    | none =>
      match heldWalk r q with
      | some f => some (joinHeld s die rtu f q)
      | none =>
      let join := r.walkers.any fun w => decide (w.cid = q.cid ∧ w.va / 2 ^ 15 = q.va / 2 ^ 15)
      if join then
        some (updRtu s die rtu fun r => { r with walkers := r.walkers.map fun w =>
          if w.cid = q.cid ∧ w.va / 2 ^ 15 = q.va / 2 ^ 15 then { w with reqs := w.reqs ++ [q] } else w })
      else if r.walkers.length ≥ 8 then none
      else
        let (lvl, node) := walkStart s r q.cid q.va
        some (updRtu s die rtu fun r => { r with walkers := r.walkers ++ [{ cid := q.cid, va := q.va, lvl := lvl, node := node, reqs := [q] }] })

/-- A walker's requests once its walk has ended for the first of them: that one is answered, and the others look again. -/
def endWalk (s : State) (die rtu : Nat) (w : Walker) (f : State → XReq → State) : State :=
  match w.reqs with
  | [] => s
  | q :: qs => f (updRtu s die rtu fun r => { r with queue := qs ++ r.queue }) q

/-- Where the read of a table entry goes that a migration window has sent on. -/
def movedTo (ps : List (Nat × Nat × Nat)) (a : Nat) : Nat :=
  match ps.find? fun p => decide (p.1 ≤ a) && decide (a < p.1 + p.2.1) with
  | some (base, _, new) => new + (a - base)
  | none => a

/-- The level that a walker stands at, for a request joined to its walk, with what the walk cache holds of its node. -/
def walkAt (s : State) (r : Rtu) (w : Walker) (q : XReq) : WalkR :=
  walkNode s (movedTo w.moved) w.cid w.va q.acc q.rp w.lvl w.node (s2Held r (ctxPart (ctxOf s w.cid)) w.node)

/-- The migration window of a die that holds a request for an address (08 R163). -/
def migOf (s : State) (die n : Nat) : MigWin := (dieAt s die).mig[n % 4]'(by omega)
def migPage (w : MigWin) : Nat × Nat :=
  let size := 2 ^ (match fld w.w0 60 59 with | 0 => 15 | 1 => 24 | _ => 33)
  (fld w.w0 55 15 * 2 ^ 15 / size * size, size)
def migHeld (s : State) (die pa : Nat) : Option Nat :=
  (List.range 4).find? fun n =>
    let w := migOf s die n
    let (base, size) := migPage w
    decide (fld w.w0 63 62 = 1) && decide (base ≤ pa) && decide (pa < base + size)

/-- One step of walker i (08 R156): one stage-1 level, with the stage-2 walk of its node. Its reads are loads at the entries' home slices (08 R149), where a
migration window holds them as it holds other requests (08 R163). -/
def walkerStep (s : State) (die rtu i : Nat) : State :=
  let r := rtuAt s die rtu
  match r.walkers[i]? with
  | none => s
  | some w =>
    match w.reqs.head? with
    | none => updRtu s die rtu fun r => { r with walkers := r.walkers.eraseIdx i }
    | some q =>
      let part := ctxPart (ctxOf s w.cid)
      let reads := walkReads s (movedTo w.moved) w.cid w.va w.lvl w.node (s2Held r part w.node)
      if reads.any fun a => decide (paChip a = s.chip) && (migHeld s (paDie a) a).isSome then
        updRtu s die rtu fun r => { r with walkers := r.walkers.set i { w with held := true } }
      else
      let at_ := walkAt s r w q
      let same := fun (x : XReq) => match at_, walkAt s r w x with | .fault k l y a, .fault k' l' y' a' => decide (k' = k ∧ l' = l ∧ y' = y ∧ a' = a) | _, _ => false
      let s2 := match s2Held r part w.node, s2walk s part w.node (movedTo w.moved) with
        | none, .ok n _ => if nodeOk s n.pa && n.rd && !n.mig then some n.pa else none
        | _, _ => none
      let s := reads.foldl (fun s a => touchLines s a 16 false) s
      let s := match s2 with | some npa => updRtu s die rtu fun r => wcFill r { cid := 0, lvl := 0, pre := w.node, node := npa, pid := part } | none => s
      let gone := updRtu s die rtu fun r => { r with walkers := r.walkers.eraseIdx i }
      match at_ with
      | .more node =>
        updRtu s die rtu fun r =>
          wcFill { r with walkers := r.walkers.set i { w with lvl := w.lvl + 1, node := node, held := false, moved := [] } }
            { cid := w.cid, lvl := w.lvl + 1, pre := w.va / 2 ^ lvlShift w.lvl, node := node, pid := part }
      | .ok e => endWalk (updRtu gone die rtu fun r => tlbFill r e) die rtu w fun s q => grantReq s q (e.paOf q.va) e.unc
      | .xlate => endWalk gone die rtu w failReq
      | .mig => endWalk gone die rtu w fun s q => syncHolds (updRtu s die rtu fun r => { r with mig := r.mig ++ [q] }) [q]
      | .fault kind lvl why paddr =>
        -- the joined requests that meet the same fault share the slot and its report (24 R382); the others look again
        let s := updRtu gone die rtu fun r => { r with queue := (w.reqs.filter fun x => !same x) ++ r.queue }
        holdFault s die rtu kind lvl why paddr (if kind = 2 then 3 else q.acc) (w.reqs.filter same)

/-! ### Resolution (08 R160, R161) -/

/-- A fault slot resolved: RETRY frees it and its requests walk again, ahead of what came later; FAIL fails them. Requests whose
incarnation is not current are dropped at the release (03 R61). -/
def resolveSlot (s : State) (die rtu : Nat) (f : FSlot) (fail : Bool) : State :=
  let s := updRtu s die rtu fun r => { r with fslots := r.fslots.filter fun x => !decide (x.idx = f.idx) }
  let s :=
    if fail then f.reqs.foldl failReq s
    else
      let s := (f.reqs.filter fun q => decide (q.cls = 9)).foldl (fun s q => unstall s q false) s
      updRtu s die rtu fun r => { r with queue := (f.reqs.filter fun q => !decide (q.cls = 9)) ++ r.queue }
  syncHolds s f.reqs

/-- A write of FRES (cid given) or S2RES: the action, or the write is ignored and counted in REGERR (08 R161). -/
def resWrite (s : State) (die : Nat) (cid : Option Nat) (v : Word) : State :=
  let act := fld v 63 62
  match (rtuAt s die (fld v 22 16)).fslots.find? fun f => decide (f.idx = fld v 15 12) with
  | none => count s die 3
  | some f =>
    if f.seq ≠ fld v 11 0 ∨ cid.any (fun c => decide (f.cid ≠ c)) = true ∨ decide (f.kind = 1) ≠ cid.isSome then count s die 3
    else if act = 1 then resolveSlot s die (fld v 22 16) f false
    else if act = 2 then resolveSlot s die (fld v 22 16) f true
    else s

/-! ### Engines (08 R158, 23 R366) -/

/-- What an engine's access comes to: a physical address and its attribute, or a wait at the RTU. -/
inductive EngX where
  | ok (pa : Nat) (unc : Bool)
  | stall (s : State)

/-- An engine's element operation translated for a command of a core: from the TLB of its RTU, or by a request of class 9 under the command's token, which the
RTU serves as any other; a failure ends the command (08 R155, R158; 23 R365, R366). -/
def engXlate (s : State) (c rtu cid inc va acc tok agent : Nat) (rp : Option Nat) (blk : Nat := 0) : EngX :=
  let q : XReq := { agent := agent % 65536, core := c, cls := 9, cid := cid, inc := inc, va := va, acc := acc, tok := tok, pkt := none, rp := rp }
  match tlbHit (rtuAt s (dieOf c) rtu) q with
  | some e => .ok (e.paOf va) e.unc
  | none =>
    let wait := updCore s c fun k => { k with run := k.run.map fun r => if r.cmd.tok = tok then { r with stalled := true, stallAt := blk } else r }
    .stall (updRtu wait (dieOf c) rtu fun r => { r with queue := r.queue ++ [q] })

end Sys2Proof.Machine
end

