-- ==== Sys2Proof/Machine/Tick.lean ====
section
/-! DEFINITION. Time passing (00 R6): the cycle count, the watchdogs and the ageing counters (12 R226, 07 R137, 05 R91); the trim steps of the rows (04 R76). -/

namespace Sys2Proof.Machine

/-- Whether an activation started from a queue of a slot runs on a core (05 R91). -/
def servedNow (k : Core) (slot q : Nat) : Bool :=
  match k.act with | some a => a.fromQ && decide (a.slot = slot ∧ a.queue = q) | none => false

/-- A core n cycles later: the watchdog of a chain falls unless HOLD is set, and each waiting queue ages. -/
def coreTick (n : Nat) (k : Core) : Core :=
  { k with
    wdog := if (k.act.isSome || k.succ.isSome) && !k.hold then k.wdog - n else k.wdog
    slots := Vector.ofFn fun (i : Fin 4) =>
      let t := k.slots[i.val]
      { t with queues := Vector.ofFn fun (j : Fin 4) =>
          let q := t.queues[j.val]
          if q.msgs.isEmpty || servedNow k i.val j.val then q else { q with age := q.age + n } } }

/-- n cycles pass. -/
def tick (n : Nat) (s : State) : State :=
  { s with now := s.now + n, cores := s.cores.map fun p => (p.1, coreTick n p.2) }

/-- The ageing period of a die in cycles (05 R91). -/
def agePeriod (s : State) (die : Nat) : Nat := max 1 (fld (dieAt s die).schedage 15 0) * 1024

/-! ### Trim steps (04 R76) -/

/-- The step that a row's demands ask for: none for an idle array (04 R76). The kernel's own ramp is the demand of cause 1. -/
def wanted (r : RowSt) : Option Nat :=
  match r.demands.find? fun x => decide (x.1 = 1) with
  | none => none
  | some own => some ((r.demands.filter fun x => decide (x.1 ≥ 3)).foldl (fun m x => max m x.2) own.2)

/-- The next step change of a row: upward from idle and down in number, or downward; none where it holds what is demanded. -/
def nextChange (r : RowSt) : Option Bool :=
  match wanted r with
  | none => if r.idle then none else some false
  | some w => if r.idle then some true else if r.step < w then some false else if w < r.step then some true else none

/-- CAUSE: another cause that holds the row back, the ramp in progress, or none. -/
def rowCause (r : RowSt) : Nat :=
  let own := ((r.demands.find? fun x => decide (x.1 = 1)).map (·.2)).getD 0
  match (r.demands.filter fun x => decide (x.1 ≥ 3 ∧ x.2 > own)).foldl (fun (b : Option (Nat × Nat)) x => match b with | some y => if y.2 < x.2 then some x else b | none => some x) none with
  | some x => x.1
  | none => match nextChange r with | some true => 1 | some false => 2 | none => 0

/-- The cycles in which a row has held a cause, 3 or 4 (04 R83). -/
def heldFor (now cause : Nat) (r : RowSt) : Nat := (if cause = 3 then r.acc3 else r.acc4) + (if r.cause = cause then now - r.since else 0)

/-- A row with its request for a step change and its cause brought up to date. -/
def settleRow (now : Nat) (r : RowSt) : RowSt :=
  let r := { r with acc3 := heldFor now 3 r, acc4 := heldFor now 4 r, since := now, cause := rowCause r }
  match nextChange r, r.asked with
  | none, _ => { r with asked := [] }
  | some up, (_, u) :: _ => if u = up then r else { r with asked := [(now, up)] }
  | some up, [] => { r with asked := [(now, up)] }

/-- What a demand does to a row. -/
def demandRow (now cause step : Nat) (r : RowSt) : RowSt :=
  let rest := fun (c : Nat) => r.demands.filter fun x => !decide (x.1 = c)
  settleRow now (match cause with
    | 1 => { r with demands := (1, step) :: rest 1, target := step }
    | 2 => { r with demands := rest 1, target := 7, kerns := [] }
    | c => { r with demands := if step = 0 then rest c else (c, step) :: rest c })

/-- A kernel starts on a row: an idle array is to enter step 7, and the ramp from there to the kernel's target is a demand of its own (04 R76). -/
def kernelOn (now kid : Nat) (r : RowSt) : RowSt :=
  let r := { r with kerns := addTo kid r.kerns }
  if r.demands.any fun x => decide (x.1 = 1) then r else demandRow now 1 7 r

/-- A kernel has ended on a row: with the last of them the array descends to idle, and its filler operations are charged to that kernel. -/
def kernelOff (now kid : Nat) (r : RowSt) : RowSt :=
  if kid ∈ r.kerns then
    let r := { r with kerns := without kid r.kerns }
    if r.kerns = [] then { demandRow now 2 0 r with fill := kid } else r
  else r

/-- A kernel has ended on every row of the package. -/
def rampDown (s : State) (kid : Nat) : State :=
  let off := fun (s : State) (d : Nat) => updDie s d fun x => { x with rows := x.rows.map fun r => (r.1, kernelOff s.now kid r.2) }
  off (off s 0) 1

/-! ### Steps of time -/

/-- AGEING_TICK (05 R91): a queue whose counter has reached the period rises by 1, up to priority 7, and the counter restarts. -/
def execAgeingTick (core slot queue : Nat) (s : State) : Out :=
  let t := slotOf (coreOf s core) slot
  let q := queueOf t queue
  let p := agePeriod s (dieOf core)
  match q.msgs with
  | [] => .next s
  | m :: _ =>
    if q.age < p then .next s
    else
      let q' := { q with age := q.age - p, bump := min (q.bump + 1) (7 - min 7 m.hdr.prio) }
      .next (updCore s core fun k => updSlot k slot fun t => setQueue t queue q')

/-- WATCHDOG_EXPIRE (07 R137): the activation whose budget is spent takes WDOG. -/
def execWatchdogExpire (core : Nat) (s : State) : Out :=
  let k := coreOf s core
  if k.act.isSome ∧ k.wdog = 0 ∧ k.hold = false then .next (takeTrap s core 0x23 none) else .next s

end Sys2Proof.Machine
end

