-- ==== Sys2Proof/Machine/Regs.lean ====
section
/-! DEFINITION. The register blocks of the dies (04 R80 to R83, 03 R50 to R53, 07 R136, 08 R161, R163, 23 R375) and the supervisor
registers with rules of their own. -/

namespace Sys2Proof.Machine

/-- BOOTSTAT (04 R81). -/
def bootstat (s : State) : Word :=
  wd (s.boot.count % 2 ^ 32 * 2 ^ 32 + s.boot.failstep % 16 * 2 ^ 16 + s.boot.cfg % 4 * 2 ^ 8 + s.boot.state % 16)

/-- A word of a port's link counters (04 R82). -/
def portWord (p : Port) (w : Nat) : Word :=
  match w with
  | 0 => wd (p.crcfail % 2 ^ 32 * 2 ^ 32 + p.parfix % 2 ^ 32)
  | 1 => wd (p.replayed % 2 ^ 32 * 2 ^ 32 + p.retrain % 2 ^ 32)
  | 2 => wd (p.state % 4 * 2 ^ 62)
  | _ => 0

/-! ### Threshold units (04 R79, R83) -/

def thrOf (s : State) (die u : Nat) : Thr := (dieAt s die).thr[u % 32]'(by omega)
def setThr (s : State) (die u : Nat) (t : Thr) : State := updDie s die fun d => { d with thr := d.thr.set (u % 32) t (by omega) }

/-- The count behind the selected counter, since reset: of row ROW's ring starvation, or of its cycles with trim cause 4 or 3. -/
def thrCount (s : State) (ctl : Word) : Nat :=
  let row := fld ctl 47 41
  match fld ctl 55 48 with
  | 1 => mgetD (dieAt s (row / 64)).starve row 0
  | 3 => heldFor s.now 4 (rowState s row)
  | 4 => heldFor s.now 3 (rowState s row)
  | _ => 0

/-- VALUE: the selected counter's present value (04 R83). -/
def thrValue (s : State) (die u : Nat) : Word :=
  let t := thrOf s die u
  match fld t.ctl 55 48 with
  | 0 => 0
  | 2 => wd (dieAt s die).temp
  | 5 => wd (dieAt s die).power
  | _ => wd (thrCount s t.ctl - t.base)

/-- A write of CTL: a reserved selection leaves CSEL and is counted; a counter of cycles since ARM starts again when ARM is set, and, DESIGN CHOICE, when
another counter or row is selected (log 54). -/
def thrCtl (s : State) (die u : Nat) (v : Word) : State :=
  let t := thrOf s die u
  let bad := decide (fld v 55 48 > 5)
  let csel := if bad then fld t.ctl 55 48 else fld v 55 48
  let ctl := wd (fld v 63 62 * 2 ^ 62 + csel * 2 ^ 48 + fld v 47 41 * 2 ^ 41)
  let again := bit v 63 || decide (fld ctl 55 41 ≠ fld t.ctl 55 41)
  let s := setThr s die u { t with ctl := ctl, base := if again then thrCount s ctl else t.base }
  if bad then count s die 3 else s

/-- A write of a word of a threshold unit. -/
def thrWrite (s : State) (die u w : Nat) (v : Word) : State :=
  let t := thrOf s die u
  match w with
  | 0 => thrCtl s die u v
  | 1 => setThr s die u { t with thresh := v }
  | 2 => setThr s die u { t with target := wd (fld v 63 52 * 2 ^ 52 + fld v 47 8 * 2 ^ 8) }
  | _ => s

/-! ### Launch windows (03 R50 to R53) -/

def credOf (s : State) (die cid : Nat) : Nat := mgetD (dieAt s die).cred cid 64

/-- WSTAT (03 R52). -/
def wstat (s : State) (die cid : Nat) : Word :=
  wd (mgetD (dieAt s die).rej cid 0 * 2 ^ 32 + mgetD (dieAt s die).acc cid 0 * 2 ^ 16 + credOf s die cid)

/-- One more rejected submission, saturating. -/
def reject (s : State) (die cid : Nat) : State := updDie s die fun d => { d with rej := mupd d.rej cid 0 fun n => min (n + 1) 0xFFFF }

/-- The 8 words of a submission record that breaks R53: version, reserved bits or budget. -/
def recBad (w : List Word) : Bool :=
  let g := fun i => w.getD i 0
  decide (fld (g 0) 63 57 ≠ 0) || decide (fld (g 4) 63 48 ≠ 0) || bit (g 4) 15 || decide (g 7 ≠ 0) || decide ((g 5).toNat > 2 ^ 40) ||
  decide (fld (g 4) 7 0 ≠ 1)

/-- A write to the submission area of a window (03 R53). -/
def submit (s : State) (die cid off : Nat) (data : List Byte) : State :=
  let w := leWords 8 data
  if data.length ≠ 64 ∨ off % 64 ≠ 0 ∨ off ≥ 0x800 ∨ credOf s die cid = 0 ∨ recBad w = true ∨ ctxFree (ctxOf s cid) = true ∨ s.boot.state = 3 then reject s die cid
  else
    let s := updDie s die fun d => { d with acc := mupd d.acc cid 0 fun n => (n + 1) % 2 ^ 16, cred := mput d.cred cid (credOf s die cid - 1) }
    { s with subs := s.subs ++ [⟨die, cid, ctxInc (ctxOf s cid), w, none⟩] }

/-! ### Queue registers and peer tables (07 R136, 23 R375) -/

def qregsOf (s : State) (die cid : Nat) : QRegs := mgetD (dieAt s die).qregs cid {}

/-- FQSIZE and FRSIZE: the nearer limit of 4 to 20. -/
def ringSize (v : Word) : Word := wd (max 4 (min 20 (fld v 4 0)))
def ringBase (v : Word) : Word := wd (fld v 63 63 * 2 ^ 63 + fld v 56 6 * 64)

def qregWrite (s : State) (die cid i : Nat) (v : Word) : State :=
  updDie s die fun d => { d with qregs := mupd d.qregs cid {} fun g =>
    match i with
    | 0 => { g with fqbase := ringBase v }
    | 1 => { g with fqsize := ringSize v }
    | 2 => { g with frbase := ringBase v }
    | 3 => { g with frsize := ringSize v }
    | _ => { g with nicid := wd (fld v 63 63 * 2 ^ 63 + fld v 23 0) } }

def qregRead (s : State) (die cid i : Nat) : Word :=
  let g := qregsOf s die cid
  match i with
  | 0 => g.fqbase
  | 1 => g.fqsize
  | 2 => g.frbase
  | 3 => g.frsize
  | _ => g.nicid

def peerWord (s : State) (die cid i w : Nat) : Word := mgetD (dieAt s die).peers ((cid * 4096 + i) * 4 + w) 0
def peerWrite (s : State) (die cid i w : Nat) (v : Word) : State :=
  let v := match w with
    | 0 => wd (fld v 63 62 * 2 ^ 62 + fld v 51 0)
    | 1 => 0
    | _ => v
  updDie s die fun d => { d with peers := mput d.peers ((cid * 4096 + i) * 4 + w) v }

/-! ### The register space of a die (04 R80) -/

/-- What an offset names. -/
inductive RegAt where
  | boot
  | counter (n : Nat)
  | port (p w : Nat)
  | thr (u w : Nat)
  | window (cid off : Nat)
  | fault (cid off : Nat)
  | qreg (cid i : Nat)
  | peer (cid i w : Nat)
  | none_
  deriving DecidableEq, Repr

/-- The register at an offset (04 R80). -/
def regAt (off : Nat) : RegAt :=
  let base := off / 2 ^ 32
  let o := off % 2 ^ 32
  if base = 0 then
    if o = 0 then .boot
    else if 0x1000 ≤ o ∧ o < 0x1050 then .counter ((o - 0x1000) / 8)
    else if 0x2000 ≤ o ∧ o < 0x2260 then .port ((o - 0x2000) / 32) ((o - 0x2000) / 8 % 4)
    else if 0x10000 ≤ o ∧ o < 0x10400 then .thr ((o - 0x10000) / 32) ((o - 0x10000) / 8 % 4)
    else .none_
  else if base = 1 ∧ o < 0x1000000 then .window (o / 0x1000) (o % 0x1000)
  else if base = 2 ∧ o < 0x1000000 then .fault (o / 0x1000) (o % 0x1000)
  else if base = 3 ∧ o < 0x40000 ∧ o % 0x40 < 0x28 then .qreg (o / 0x40) (o % 0x40 / 8)
  else if base = 4 ∧ o < 0x20000000 then .peer (o / 0x20000) (o % 0x20000 / 32) (o % 32 / 8)
  else .none_

/-- A load of n bytes at an offset of a die's register space. -/
def regRead (s : State) (die off n : Nat) : Word × State :=
  match regAt off with
  | .window cid o =>
    if o < 0x800 then (0, s)
    else if n ≠ 8 ∨ off % 8 ≠ 0 then (0, count s die 3)
    else if o = 0x800 then (wstat s die cid, updDie s die fun d => { d with rej := mdel d.rej cid })
    else (0, s)
  | r =>
    if n ≠ 8 ∨ off % 8 ≠ 0 then (0, count s die 3)
    else
      match r with
      | .boot => (bootstat s, s)
      | .counter i => (wd ((dieAt s die).counters[i % 10]'(by omega)), s)
      | .port p w => (portWord (portOf s (portKey die p)) w, s)
      | .thr u w =>
        let t := thrOf s die u
        (match w with | 0 => t.ctl | 1 => t.thresh | 2 => t.target | _ => thrValue s die u, s)
      | .fault _ _ => (0, s)
      | .qreg cid i => (qregRead s die cid i, s)
      | .peer cid i w => (peerWord s die cid i w, s)
      | _ => (0, count s die 3)

/-- A store of n bytes at an offset of a die's register space. -/
def regWrite (s : State) (die off n : Nat) (v : Word) : State :=
  match regAt off with
  | .window cid o =>
    if o < 0x800 then submit s die cid o (leBytes n v.toNat)
    else if n ≠ 8 ∨ off % 8 ≠ 0 then count s die 3
    else s
  | r =>
    if n ≠ 8 ∨ off % 8 ≠ 0 then count s die 3
    else
      match r with
      | .boot => s
      | .counter _ => s
      | .port _ _ => s
      | .thr u w => thrWrite s die u w v
      | .fault cid o => if o = 0 then resWrite s die (some cid) v else s
      | .qreg cid i => qregWrite s die cid i v
      | .peer cid i w => peerWrite s die cid i w v
      | _ => count s die 3

/-! ### Migration windows (08 R163 to R166) -/

def setMig (s : State) (die n : Nat) (w : MigWin) : State := updDie s die fun d => { d with mig := d.mig.set (n % 4) w (by omega) }

/-- Whether a pinned page of a registration or a layout lies in [base, base + size) (08 R166). -/
def pinned (s : State) (base size : Nat) : Bool :=
  let hit := fun (m : SMap Nat) => m.any fun p => decide (p.2 < base + size) && decide (base < p.2 + 2 ^ 15)
  (s.adjs.any fun a => hit a.pages) || (s.dies.toList.any fun d => d.layouts.any fun l => hit l.pages)

/-- The window released: its held requests go to the same offsets of the new page, in arrival order, and it closes (08 R163). -/
def migRelease (s : State) (die n : Nat) : State :=
  let w := migOf s die n
  let (base, size) := migPage w
  let new := fld w.w1 55 15 * 2 ^ 15
  let move := fun (a : Nat) => new + (a - base) % size
  let s := setMig s die n { w with w0 := setFld w.w0 63 62 0, held := [] }
  let go := fun (x : Walker) => if x.held then { x with held := false, moved := (base, size, new) :: x.moved } else x
  let all := fun (s : State) (d : Nat) => updDie s d fun y => { y with rtus := y.rtus.map fun r => (r.1, { r.2 with walkers := r.2.walkers.map go }) }
  let s := all (all s 0) 1
  w.held.foldl (fun s p =>
    let (body, a) : Body × Nat := match p.body with
      | .load a n t => (.load (move a) n t, move a)
      | .store a n v f t => (.store (move a) n v f t, move a)
      | .subStore a o z v t => (.subStore (move a) o z v t, move a)
      | .amo a o n b c r t => (.amo (move a) o n b c r t, move a)
      | .hins a nw k d t => (.hins (move a) nw k d t, move a)
      | .engWrite a v f b t => (.engWrite (move a) v f b t, move a)
      | .engRead a t => (.engRead (move a) t, move a)
      | .arm a v t => (.arm (move a) v t, move a)
      | b => (b, 0)
    emit s { p with dst := homeOf s die a, body := body }) s

/-- A write of MIGWIN0: STATE 1 holds, unless a pinned page lies in the range or SIZE is reserved; 2 releases; 0 closes, and requests
still held leave as at a release; 3 is ignored. -/
def migWrite0 (s : State) (die n : Nat) (v : Word) : State :=
  let w := migOf s die n
  let st := fld v 63 62
  let fields := wd (fld v 60 59 * 2 ^ 59 + fld v 55 15 * 2 ^ 15)
  let new := { w with w0 := fields }
  let (base, size) := migPage new
  match st with
  | 1 =>
    if fld v 60 59 = 3 then s
    else if pinned s base size then setMig s die n { new with w0 := fields ||| wd (fld w.w0 63 62 * 2 ^ 62) ||| (1 <<< 61) }
    else setMig s die n { new with w0 := fields ||| (1 <<< 62) }
  | 3 => s
  | _ => let s := migRelease s die n; setMig s die n { migOf s die n with w0 := setFld fields 61 61 (fld w.w0 61 61) }

def migWrite1 (s : State) (die n : Nat) (v : Word) : State :=
  let w := migOf s die n
  setMig s die n { w with w1 := wd (fld v 55 15 * 2 ^ 15) }

/-- MIGWIN1 with HELD: the requests held, a walker's reads among them. -/
def migRead1 (s : State) (die n : Nat) : Word :=
  let (base, size) := migPage (migOf s die n)
  let open_ := decide (fld (migOf s die n).w0 63 62 = 1)
  let reads := fun (w : Walker) (r : Rtu) => (walkReads s (movedTo w.moved) w.cid w.va w.lvl w.node (s2Held r (ctxPart (ctxOf s w.cid)) w.node)).any fun a => decide (base ≤ a) && decide (a < base + size)
  let walks := if open_ then ((s.dies.toList.flatMap fun d => d.rtus.flatMap fun r => r.2.walkers.filter fun w => w.held && reads w r.2).length) else 0
  (migOf s die n).w1 ||| wd (min 512 ((migOf s die n).held.length + walks))

/-! ### SCHEDAGE, EINJCTL and DSPSTAT (05 R91, 04 R74, 06 R120) -/

/-- DSPSTAT of a die. -/
def dspstat (d : Die) : Word :=
  let w := d.disp.window
  wd (w.length % 2 ^ 13 * 2 ^ 48 + d.disp.stakes.length % 2 ^ 7 * 2 ^ 41 + (w.filter fun t => decide (t.state = 1)).length % 2 ^ 7 * 2 ^ 34 +
      d.disp.fails % 2 ^ 32)

end Sys2Proof.Machine
end

