-- ==== Sys2Proof/Machine/Flags.lean ====
section
/-! DEFINITION. The status words that the machine computes: ACTSTAT, WDOG, TRIMSTAT, ENERGY, SELF, COREID, STRSTAT, and the status word
of a command (07 R129, R137; 04 R77, R78; 12 R226; 10 R190; 23 R356). -/

namespace Sys2Proof.Machine

/-- ACTSTAT of a core (07 R129). -/
def actstat (k : Core) : Word :=
  let a := k.act
  wd (sbBytes k % 2 ^ 13 * 2 ^ 39 + k.sb.length % 2 ^ 7 * 2 ^ 32 + (a.map (·.slot)).getD 0 % 4 * 2 ^ 22 + (a.map (·.queue)).getD 0 % 4 * 2 ^ 20 +
      (a.map (·.handler)).getD 0 % 64 * 2 ^ 14 + k.aborts % 4 * 2 ^ 12 + k.clrby % 16 * 2 ^ 8 + b2n k.pend * 16 + b2n k.pair * 8 +
      b2n k.inh * 4 + b2n k.trapped * 2 + b2n k.restart)

/-- WDOG of a core (07 R137). -/
def wdogWord (k : Core) : Word := wd (b2n k.hold * 2 ^ 63 + k.wdog % 2 ^ 41)

/-- TRIMSTAT of a row of the package (04 R77). -/
def trimWord (r : RowSt) (row : Nat) : Word :=
  wd (r.changes % 2 ^ 16 * 2 ^ 32 + row % 128 * 2 ^ 16 + r.target % 8 * 2 ^ 8 + r.cause % 16 * 2 ^ 4 + b2n r.idle * 8 + r.step % 8)

/-- SELF (12 R226). -/
def selfWord (k : Core) : Word := let (cid, inc, rank) := actCtx k; wd (cid % 4096 * 2 ^ 28 + inc % 4096 * 2 ^ 16 + rank % 65536)

/-- COREID (12 R226). -/
def coreidWord (s : State) (c : Nat) : Word :=
  wd (s.chip % 1024 * 2 ^ 14 + dieOf c % 2 * 2 ^ 13 + agentOf c * 2 ^ 3 + curSlot (coreOf s c))

/-- IDENT: PART 0x7040, STEP 0xB0, FWMAJ 0x01 (12 R226). -/
def identWord : Word := 0x7040B001

/-- ENERGY of a kernel, read on a die: both dies' shares, STALE when the other's is older than 10 µs, 16,000 cycles, or has not come (04 R78). An
activation that counts in no kernel has been charged nothing. -/
def energyWord (s : State) (d kid : Nat) : Word :=
  if kid = 0 then 0
  else
    let own := mgetD (dieAt s d).energy kid (0, s.now)
    let other := mgetD (dieAt s (1 - d)).energy kid (0, 0)
    wd (b2n (decide (other.2 + 16000 < s.now)) * 2 ^ 63 + (own.1 + other.1) % 2 ^ 63)

/-- A stream's items in the ring not yet popped, or that its producer may still send (10 R190, R193); n buffered pushes are not yet
sent. -/
def endCount (e : EndRec) : Nat := if e.kind = 1 then seqDiff e.wrSeq e.popSeq else ritems e - min (ritems e) (seqDiff e.nextSeq e.relSeq)

/-- STRSTAT (10 R190). -/
def strstatWord (e : EndRec) : Word :=
  wd (e.state % 16 * 2 ^ 60 + e.kind % 2 * 2 ^ 59 + e.fwd % 8 * 2 ^ 56 + e.gen % 256 * 2 ^ 48 + e.cause % 16 * 2 ^ 44 + endCount e % 2 ^ 32)

/-- The status word of a command (23 R356). -/
def statusWord (status aux value prog : Nat) : Word :=
  wd (value % 2 ^ 32 * 2 ^ 32 + aux % 256 * 2 ^ 24 + (if status = 0 then 0 else prog % 2 ^ 16) * 2 ^ 8 + status % 256)

/-- A mailbox counter with one completion more, ERR set for a status other than OK (12 R227). -/
def mbInc (w : Word) (err : Bool) : Word :=
  wd (b2n (bit w 63 || err) * 2 ^ 63 + (fld w 31 0 + 1) % 2 ^ 32)

/-- An increment of a counter of a core's slot; a sealed core drops it (04 R70). -/
def mbBump (s : State) (c slot n : Nat) (err : Bool) : State :=
  if (coreOf s c).sealed_ then s else updCore s c fun k => updSlot k slot fun t => setMb t n (mbInc (mbOf t n) err)

end Sys2Proof.Machine
end

