-- ==== Sys2Proof/Machine/Control.lean ====
section
/-! DEFINITION. Control registers, their forms, and the traps that a program raises (12 R224 to R228, R239, R241; 15 R273 to R275). -/

namespace Sys2Proof.Machine

/-! ### The map (12 R224) -/

/-- Whether a number is assigned. -/
def csrKnown (n : Nat) : Bool :=
  decide (n ≤ 0x00C) || (decide (0x010 ≤ n) && decide (n ≤ 0x014)) || (decide (0x018 ≤ n) && decide (n ≤ 0x01B)) ||
  (decide (0x020 ≤ n) && decide (n ≤ 0x02F)) || (decide (0x030 ≤ n) && decide (n ≤ 0x037)) || (decide (0x060 ≤ n) && decide (n ≤ 0x066)) ||
  (decide (0x400 ≤ n) && decide (n ≤ 0x407)) || (decide (0x410 ≤ n) && decide (n ≤ 0x417))

/-- Registers whose fields are all RO. -/
def csrRO (n : Nat) : Bool := decide (n ≤ 0x007) || decide (n = 0x012) || decide (n = 0x014) || decide (n = 0x402)

def csrQueue (n : Nat) : Bool := decide (0x018 ≤ n) && decide (n ≤ 0x01B)
def csrStream (n : Nat) : Bool := decide (0x020 ≤ n) && decide (n ≤ 0x02F)
def csrFormat (n : Nat) : Bool := decide (0x009 ≤ n) && decide (n ≤ 0x00C)
def csrRegion (n : Nat) : Bool := decide (0x060 ≤ n) && decide (n ≤ 0x066)
def csrSup (n : Nat) : Bool := decide (0x400 ≤ n)

/-- The RW fields of a register. MIGWIN0's are given whole, its write rule being its own. DESIGN CHOICE: bits 7:6 of EINJCTL.TARGET, which 04 R74 calls reserved
inside a field that is RW, are stored and read back (log 32). -/
def csrRW (n : Nat) : Word :=
  match n with
  | 0x008 => 0xFFFFFFFFFFFF0107
  | 0x010 => 0x00000000000FFF00
  | 0x011 => 0x800000000007FFFC
  | 0x013 => 0x000000000007FFFC
  | 0x400 => 0x000000000000007F
  | 0x401 => 0x01FFFFFFFFFFFFFF
  | 0x403 => 0x00FFFFFFFFFFE000
  | 0x404 => 0
  | 0x405 => 0xFFFFFFFFFFFFFFFF
  | 0x406 => 0x0000003FFFFFFFFF
  | 0x407 => 0x000000000000003F
  | n =>
    if 0x030 ≤ n ∧ n ≤ 0x037 then 0x00000000FFFFFFFF
    else if n = 0x060 ∨ n = 0x061 ∨ n = 0x062 then 0x800FFF000007FF00
    else if csrRegion n then 0xC00FFF000007FF00
    else if 0x410 ≤ n then (if n % 2 = 0 then 0xD8FFFFFFFFFF8000 else 0x00FFFFFFFFFF8000)
    else 0

/-- cur(n): the value of a register, read with no side effect, on the current core (15 R273). -/
def csrCur (s : State) (n : Nat) : Word :=
  let c := s.cur
  let k := cc s
  let d := dieAt s (dieOf c)
  let t := slotOf k (curSlot k)
  match n with
  | 0x000 => wd s.now
  | 0x001 => energyWord s (dieOf c) (actKernel k)
  | 0x002 =>
    if isCompute c then trimWord (rowState s (rowOf c)) (rowOf c)
    else if isSup c then trimWord (rowState s (fld d.trimsel 6 0)) (fld d.trimsel 6 0)
    else Config.freeWord s.free
  | 0x003 => actstat k
  | 0x004 => wdogWord k
  | 0x005 => selfWord k
  | 0x006 => coreidWord s c
  | 0x007 => identWord
  | 0x008 => k.rmode
  | 0x009 => k.fmta
  | 0x00A => k.fmtb
  | 0x00B => k.fmtc
  | 0x00C => k.fmts
  | 0x010 => t.xb
  | 0x011 => t.trapvec
  | 0x012 => k.trapcause
  | 0x013 => k.trappc
  | 0x014 => k.trapaddr
  | 0x400 => d.trimsel
  | 0x401 => d.schedage
  | 0x402 => dspstat d
  | 0x403 => let p := fld d.s2sel 5 0; if p < 40 then (mgetD s.parts p {}).s2root else 0
  | 0x404 => 0
  | 0x405 => d.einjseed
  | 0x406 => d.einjctl
  | 0x407 => d.s2sel
  | n =>
    if 0x030 ≤ n ∧ n ≤ 0x037 then (if k.sealed_ then mbOf t (n - 0x030) ||| (1 <<< 63) else mbOf t (n - 0x030))
    else if csrRegion n then rgOf t (n - 0x060)
    else if 0x410 ≤ n ∧ n % 2 = 0 then (migOf s (dieOf c) ((n - 0x410) / 2)).w0
    else if 0x410 ≤ n then migRead1 s (dieOf c) ((n - 0x410) / 2)
    else 0

/-! ### Rules of single registers -/

/-- A descriptor that a CSRW may write (11 R211): 0, or one of a valid format. -/
def fmtValid (w : Word) : Bool :=
  let s := fld w 0 0
  let ew := fld w 6 4
  let mw := fld w 10 8
  let spec := fld w 13 12
  let bias := fld w 23 16
  decide (w = 0) ||
  (decide (w &&& 0xFFFFFFFFFF00C88E = 0) && decide (2 ≤ s + ew + mw) && decide (s + ew + mw ≤ 8) && decide (spec ≠ 3) &&
   (decide (ew ≠ 0) || (decide (bias = 0) && decide (spec = 0))) && (!(decide (spec = 0) && decide (ew ≠ 0)) || (decide (2 ≤ ew) && decide (1 ≤ mw))))

/-- A value that XB may take in a slot (07 R138). -/
def xbValid (t : Slot) (v : Word) : Bool :=
  decide (v &&& ~~~(0xFFF00 : Word) = 0) && decide (rgBase (rgOf t 0) ≤ v.toNat) && decide (v.toNat ≤ rgBase (rgOf t 0) + rgSize (rgOf t 0))

/-- The current core with its slot changed. -/
def onSlot (s : State) (f : Slot → Slot) : State := let k := cc s; setCC s (updSlot k (curSlot k) f)

/-- The RW fields of a register replaced from v. -/
def keepRO (n : Nat) (old v : Word) : Word := (old &&& ~~~ csrRW n) ||| (v &&& csrRW n)

/-- A change of the current core's die. -/
def onDie (s : State) (f : Die → Die) : State := updDie s (dieOf s.cur) f

/-- write(n, v) for a register that is neither queue nor stream (15 R273); w1c tells whether W1C fields follow v. -/
def csrSet (s : State) (n : Nat) (v : Word) (w1c : Bool) : Out :=
  let ok := fun (s : State) => Host.Outcome.next (done s id)
  let k := cc s
  match n with
  | 0x008 => if fld v 2 0 > 5 then ill s else ok (setCC s { k with rmode := keepRO n 0 v })
  | 0x009 => if fmtValid v then ok (setCC s { k with fmta := v }) else ill s
  | 0x00A => if fmtValid v then ok (setCC s { k with fmtb := v }) else ill s
  | 0x00B => if fmtValid v then ok (setCC s { k with fmtc := v }) else ill s
  | 0x00C => if fld v 1 0 = 3 then ill s else ok (setCC s { k with fmts := wd (fld v 1 0) })
  | 0x010 => if xbValid (slotOf k (curSlot k)) v then ok (onSlot s fun t => { t with xb := v }) else ill s
  | 0x011 => ok (onSlot s fun t => { t with trapvec := keepRO n 0 v })
  | 0x013 => ok (setCC s { k with trappc := keepRO n 0 v })
  | 0x400 => ok (onDie s fun d => { d with trimsel := keepRO n 0 v })
  | 0x401 => ok (onDie s fun d => { d with schedage := keepRO n 0 v })
  | 0x403 =>
    let p := fld (dieAt s (dieOf s.cur)).s2sel 5 0
    if p < 40 then ok { s with parts := mupd s.parts p {} fun q => { q with s2root := keepRO n 0 v } } else ok s
  | 0x404 => ok (resWrite s (dieOf s.cur) none v)
  | 0x405 => ok (onDie s fun d => { d with einjseed := v })
  | 0x406 => ok (onDie s fun d => { d with einjctl := keepRO n 0 v })
  | 0x407 => ok (onDie s fun d => { d with s2sel := keepRO n 0 v })
  | n =>
    if 0x030 ≤ n ∧ n ≤ 0x037 then
      ok (onSlot s fun t =>
        let old := mbOf t (n - 0x030)
        setMb t (n - 0x030) (wd (b2n (bit old 63 && !(w1c && bit v 63)) * 2 ^ 63 + fld v 31 0)))
    else if csrRegion n then ok (onSlot s fun t => { t with rg := Vector.ofFn fun i => if i.val = n - 0x060 then keepRO n 0 v else t.rg[i.val] })
    else if 0x410 ≤ n ∧ n % 2 = 0 then ok (migWrite0 s (dieOf s.cur) ((n - 0x410) / 2) v)
    else if 0x410 ≤ n then ok (migWrite1 s (dieOf s.cur) ((n - 0x410) / 2) v)
    else ill s

/-! ### Queue registers (07 R140; a poisoned entry that is popped is consumed, 04 R69) -/

def qPop (s : State) (rd : Reg) (i : Nat) : Out :=
  match qreg (cc s) i with
  | [] => .next s
  | v :: _ => if headBad (cc s) i then .next (sealCore s s.cur) else .next (done s fun k => wx (popQ k i) rd v)

def qPush (s : State) (i : Nat) (v : Word) : Out :=
  if (qreg (cc s) i).length ≥ 4 then .next s else .next (done s fun k => setQreg k i (qreg k i ++ [v]))

/-! ### Stream registers (10 R191 to R194) -/

/-- The end bound to a stream register of a core, when its kind and state permit the use and its owner is the activation's context at its current
incarnation. -/
def boundEnd (k : Core) (i kind : Nat) (states : List Nat) : Option EndRec :=
  match (k.sbind.toList.getD i none).bind fun key => endRec k key with
  | none => none
  | some e =>
    let (cid, inc, _) := actCtx k
    if e.kind = kind ∧ e.state ∈ states ∧ e.ocid = cid ∧ e.oinc = inc then some e else none

/-- NOTHELD of a stream register access: TRAPADDR is the constant 0 (10 R191). -/
def notHeld (s : State) : Out := trap s 0x28 none

/-- A pop of a stream register (10 R194): the item at POPSEQ, or 0 at the end of the stream, or a wait. -/
def streamPop (s : State) (rd : Reg) (i : Nat) : Out :=
  let k := cc s
  if k.pair then trap s 0x27 none
  else
    match boundEnd k i 1 [1, 4] with
    | none => notHeld s
    | some e =>
      if e.popSeq ≠ e.wrSeq then
        let a := ringAt e e.popSeq
        let s' := updEnd s s.cur (keyOf e) fun x => { x with popSeq := (x.popSeq + 1) % 2 ^ 32 }
        if lmBad k a 8 then .next (sealCore s s.cur) else writeX s' rd (wd (rdLE k.lm a 8))
      else if e.state = 4 then writeX s rd 0
      else .next s

/-- A push of items to an end as buffered effects: the last entry takes it when it is a push to the same end with room for it, and its 32
items are not full (07 R130, 10 R193). -/
def coalesce (k : Core) (key : EndKey) (v : Word) (bad : Bool := false) : Option Core :=
  match k.sb.getLast?, k.flush with
  | some e, none =>
    match e.eff with
    | .push key' items =>
      let e' : SbEntry := { e with eff := .push key (items ++ [v]), bytes := e.bytes + 8, poison := e.poison || bad }
      if key' = key ∧ items.length < 32 ∧ sbBytes k + entrySize e' ≤ 4096 + entrySize e then
        some { k with sb := k.sb.dropLast ++ [e'] }
      else none
    | _ => none
  | _, _ => none

def pushItem (s : State) (key : EndKey) (v : Word) (bad : Bool) : Out :=
  match (cc s).wait, coalesce (cc s) key v bad with
  | .idle, some k => .next (setCC s (advance k))
  | _, _ => buffer s (.push key [v]) 8 0 id bad

/-- A push of a value, which may be poisoned, to a stream register (10 R193). -/
def streamPush (s : State) (i : Nat) (v : Word) (bad : Bool) : Out :=
  let k := cc s
  if k.pair then trap s 0x27 none
  else
    match boundEnd k i 0 [1, 6] with
    | none => notHeld s
    | some e => pushItem s (keyOf e) v bad

/-! ### CSRR, CSRW, CSRS, CSRC (15 R273, 12 R225) -/

/-- Whether the current core may use trap-restricted writes (12 R239). -/
def trapRestricted (s : State) : Bool := (cc s).trapped || isSup s.cur

/-- CSRR. -/
def csrRead (s : State) (rd : Reg) (n : Nat) : Out :=
  if !csrKnown n then ill s
  else if csrSup n && !isSup s.cur then trap s 0x27 none
  else if csrQueue n then qPop s rd (n - 0x018)
  else if csrStream n then streamPop s rd (n - 0x020)
  else
    let v := csrCur s n
    let s := if n = 0x002 ∧ isMemCore s.cur then { s with free := s.free + 1 } else s
    writeX s rd v

/-- The refusals of a write, in the order of 12 R235: ILL, then PRIV. form is 0 CSRW, 1 CSRS, 2 CSRC. -/
def csrRefused (s : State) (n form : Nat) : Option Nat :=
  if !csrKnown n || csrRO n || (decide (form ≠ 0) && (csrQueue n || csrStream n || csrFormat n)) then some 0x20
  else if (csrSup n || csrRegion n) && !isSup s.cur then some 0x27
  else if (decide (n = 0x010) || decide (n = 0x013)) && !trapRestricted s then some 0x27
  else none

/-- CSRW of a value, which is poisoned only where a stream register passes the poison on (04 R69). -/
def csrWrite (s : State) (n : Nat) (v : Word) (bad : Bool := false) : Out :=
  match csrRefused s n 0 with
  | some c => trap s c none
  | none =>
    if csrQueue n then qPush s (n - 0x018) v
    else if csrStream n then streamPush s (n - 0x020) v bad
    else csrSet s n v true

/-- CSRS and CSRC. -/
def csrBits (s : State) (n : Nat) (v : Word) (set : Bool) : Out :=
  match csrRefused s n (if set then 1 else 2) with
  | some c => trap s c none
  | none =>
    let cur := csrCur s n
    csrSet s n (if set then cur ||| (v &&& csrRW n) else cur &&& ~~~(v &&& csrRW n)) false

def execCsrr (rd : Reg) (n : BitVec 12) (s : State) : Out := csrRead s rd n.toNat
def execCsrw (ra : Reg) (n : BitVec 12) (s : State) : Out := csrWrite s n.toNat (rx (cc s) ra) (xbad (cc s) ra)
def execCsrs (ra : Reg) (n : BitVec 12) (s : State) : Out := csrBits s n.toNat (rx (cc s) ra) true
def execCsrc (ra : Reg) (n : BitVec 12) (s : State) : Out := csrBits s n.toNat (rx (cc s) ra) false

/-! ### The register-write forms: CSRR and CSRW of one register -/

/-- CSRW of XB (07 R138). -/
def execXbWrite (ra : Reg) (s : State) : Out := csrWrite s 0x010 (rx (cc s) ra)
/-- CSRW of TRAPPC (12 R225). -/
def execTrappcWrite (ra : Reg) (s : State) : Out := csrWrite s 0x013 (rx (cc s) ra)
/-- CSRR of Q0 to Q3 (07 R140). -/
def execQueuePop (rd : Reg) (n : BitVec 2) (s : State) : Out := csrRead s rd (0x018 + n.toNat)
/-- CSRW of Q0 to Q3 (07 R140). -/
def execQueuePush (n : BitVec 2) (ra : Reg) (s : State) : Out := csrWrite s (0x018 + n.toNat) (rx (cc s) ra)
/-- CSRR of S0 to S15 (10 R194). -/
def execStreamPop (rd : Reg) (n : BitVec 4) (s : State) : Out := csrRead s rd (0x020 + n.toNat)
/-- CSRW of S0 to S15 (10 R193). -/
def execStreamPush (n : BitVec 4) (ra : Reg) (s : State) : Out := csrWrite s (0x020 + n.toNat) (rx (cc s) ra) (xbad (cc s) ra)
/-- CSRW of MB0 to MB7 (12 R227). -/
def execMailboxWrite (n : BitVec 3) (ra : Reg) (s : State) : Out := csrWrite s (0x030 + n.toNat) (rx (cc s) ra)
/-- CSRW of FMTA, FMTB and FMTC; number 3 is FMTS (11 R211). -/
def execFormatWrite (n : BitVec 2) (ra : Reg) (s : State) : Out := csrWrite s (0x009 + n.toNat) (rx (cc s) ra)
/-- CSRW of FMTS (11 R213). -/
def execFmtsWrite (ra : Reg) (s : State) : Out := csrWrite s 0x00C (rx (cc s) ra)
/-- CSRW of RMODE (11 R214). -/
def execRmodeWrite (ra : Reg) (s : State) : Out := csrWrite s 0x008 (rx (cc s) ra)

/-! ### Traps raised by the program (15 R274, R275; 12 R241) -/

/-- TRAP n: the aborting trap 0x80 + n. -/
def execTrap (n : BitVec 7) (s : State) : Out := trap s (0x80 + n.toNat) none

/-- RTA: ILL outside a handler. -/
def execRta (s : State) : Out := if (cc s).trapped then .next (setCC s (returnTrap (cc s))) else ill s

def execAbort (s : State) : Out := trap s 0x2B none

/-- BKPT: a resuming trap with TRAPADDR 0; taken as aborting it leaves TRAPPC in DETAIL (12 R242). -/
def execBkpt (s : State) : Out := trap s 0x12 none

end Sys2Proof.Machine
end

