-- ==== Sys2Proof/Machine/Message.lean ====
section
/-! DEFINITION. The message, stream, activation, barrier and dispatch instructions at issue (chapter 20). What their effects do when they
leave the send buffer stands with LEAVE. -/

namespace Sys2Proof.Machine

/-! ### LM operands (20 R327 step 3) -/

/-- A check that goes on only when it finds nothing. -/
def guardTrap (s : State) (f : Option (Nat × Word)) (cont : Out) : Out :=
  match f with
  | some (cause, a) => trap s cause (some a)
  | none => cont

/-- The first byte of [a, a + n) that an activation on the current core may not access, fused windows included (07 R124, R139; 08 R145). -/
def spanFault (s : State) (a : Word) (n : Nat) (wr : Bool) : Option (Nat × Word) :=
  if n = 0 then none
  else if a.toNat ≥ 2 ^ 19 then some (0x27, a)
  else
    let k := cc s
    let t := slotOf k (curSlot k)
    let pts := (List.range ((a.toNat + n - 1) / 256 - a.toNat / 256 + 1)).map fun i => max a.toNat ((a.toNat / 256 + i) * 256)
    pts.findSome? fun p =>
      if (fusedAt s s.cur p).isSome then none
      else if p ≥ 2 ^ 19 then some (0x27, wd p)
      else (byteFault t p wr).map fun c => (c, wd p)

/-- The bytes of [a, a + n) as a core's activation reads them, and whether a word of them is poisoned: of the words that other members hold, what has come
over the row channel. -/
def spanReadAt (s : State) (c a n : Nat) : List Byte × Bool :=
  let pts := List.range n
  let at_ := fun i => match fusedAt s c (a + i) with | some w => fusedMap w (a + i) | none => (c, a + i)
  if (fusedAt s c a).isNone && (fusedAt s c (a + n - 1)).isNone then (rdBytes (coreOf s c).lm a n, lmBad (coreOf s c) a n)
  else
    let got := fun (i : Nat) => if (at_ i).1 = c then none else mget (coreOf s c).vgot ((a + i) / 8)
    (pts.map fun i => match got i with | some x => BitVec.ofNat 8 (x.1.toNat / 256 ^ ((a + i) % 8)) | none => rdByte (coreOf s (at_ i).1).lm (at_ i).2,
     pts.any fun i => match got i with | some x => x.2 | none => lmBad (coreOf s (at_ i).1) (at_ i).2 1)

/-- The same for the current core. -/
def spanRead (s : State) (a n : Nat) : List Byte × Bool := spanReadAt s s.cur a n

/-- PRIV of stream instructions and accesses in a paired activation (10 R191). -/
def noPair (s : State) (cont : Out) : Out := if (cc s).pair then trap s 0x27 none else cont

/-! ### Send words (20 R329) -/

def sendWordOk (w : Word) : Bool := decide (fld w 23 0 = 0)

/-- The header of a message of the running activation under a send word. -/
def sendHdr (k : Core) (w : Word) (mkind : Nat) : MsgHdr :=
  let h := match k.act with | some a => a.msg.hdr | none => {}
  let (_, _, rank) := actCtx k
  { job := h.job, kernel := h.kernel, prio := h.prio, srank := rank, trank := fld w 47 32, tag := fld w 63 48, handler := fld w 31 26,
    queue := fld w 25 24, mkind := mkind }

/-! ### SEND, SENDNZ, SENDH (20 R330 to R332) -/

def execSend (xw xa xl : Reg) (s : State) : Out :=
  let k := cc s
  let w := rx k xw
  let a := rx k xa
  let len := (rx k xl).toNat
  if len > 2048 ∨ sendWordOk w = false then ill s
  else
    guardTrap s (spanFault s a len false) <| rowFirst s a.toNat len <|
      let (pay, bad) := spanRead s a.toNat len
      buffer s (.msg (sendHdr k w 0) pay) len 1 id bad

/-- The element width of SENDNZ in bytes. -/
def scanSize (es : BitVec 2) : Nat := 2 ^ es.toNat

/-- The item of element i, when it is not zero (20 R331). -/
def scanItem (flt : Bool) (size i e : Nat) : Option Word :=
  let z := if flt then e % 2 ^ (8 * size - 1) else e
  if z = 0 then none else some (wd (i * 2 ^ 32 + e))

/-- The items of elements i, i + 1, … of a run. -/
def scanItems (flt : Bool) (size : Nat) : Nat → Nat → List Byte → List (Nat × Word)
  | 0, _, _ => []
  | n + 1, i, bs =>
    let e := leNat (bs.take size)
    let rest := scanItems flt size n (i + 1) (bs.drop size)
    match scanItem flt size i e with
    | some w => (i, w) :: rest
    | none => rest

def execSendnz (xw xa xn : Reg) (es : BitVec 2) (flt : BitVec 1) (s : State) : Out :=
  let k := cc s
  let w := rx k xw
  let a := rx k xa
  let c := (rx k xn).toNat
  let size := scanSize es
  if c > 256 ∨ sendWordOk w = false then ill s
  else if a.toNat % size ≠ 0 then trap s 0x13 (some a)
  else
    guardTrap s (spanFault s a (c * size) false) <| rowFirst s a.toNat (c * size) <|
      let (bs, bad) := spanRead s a.toNat (c * size)
      let items := (scanItems (decide (flt = 1)) size c 0 bs).map (·.2)
      buffer s (.msg (sendHdr k w 1) (wordsBytes items)) (8 * items.length) 1 id bad

/-- Pushes added to the buffer while they fit: the core, and the first element left over. -/
def pushMany (key : EndKey) (bad : Bool) : Core → List (Nat × Word) → Core × Option Nat
  | k, [] => (k, none)
  | k, (i, v) :: l =>
    match coalesce k key v bad with
    | some k => pushMany key bad k l
    | none =>
      if sbRoom k 8 then
        let (t, k) := freshTok k
        pushMany key bad { k with sb := k.sb ++ [{ eff := .push key [v], bytes := 8, counted := 0, tok := t, poison := bad }] } l
      else (k, some i)

def execSendnzStream (sn : BitVec 4) (xa xn : Reg) (es : BitVec 2) (flt : BitVec 1) (s : State) : Out :=
  let k := cc s
  let a := rx k xa
  let c := (rx k xn).toNat
  let size := scanSize es
  if c > 65535 then ill s
  else
    noPair s <|
      if a.toNat % size ≠ 0 then trap s 0x13 (some a)
      else
        guardTrap s (spanFault s a (c * size) false) <| rowFirst s a.toNat (c * size) <|
          match boundEnd k sn.toNat 0 [1] with
          | none => notHeld s
          | some e =>
            if k.wait = .flush ∧ k.flush.isSome then .next s
            else
              let (bs, bad) := spanRead s (a.toNat + k.scan * size) ((c - k.scan) * size)
              let items := scanItems (decide (flt = 1)) size (c - k.scan) k.scan bs
              let (k, rest) := pushMany (keyOf e) bad { k with wait := .idle } items
              match rest with
              | none => .next (setCC s (advance { k with scan := 0 }))
              | some i =>
                let s := beginFlush (setCC s { k with scan := i }) s.cur 0
                .next (setCC s { cc s with wait := .flush })

/-! ### Handles (10 R189, R191) -/

/-- The checks of a handle operand at a local address: alignment, region, and the record held for it in one of the states; NOTHELD carries
the handle's address (10 R191). Poisoned handle words are consumed (04 R69). -/
def withHandle (s : State) (xh : Reg) (states : Nat → List Nat) (cont : Word → Word → EndRec → Out) : Out :=
  let k := cc s
  let a := rx k xh
  if a.toNat % 16 ≠ 0 then trap s 0x13 (some a)
  else
    guardTrap s (spanFault s a 16 false) <| rowFirst s a.toNat 16 <|
      let (bs, bad) := spanRead s a.toNat 16
      if bad then .next (sealCore s s.cur) else
      let h0 := wd (leNat (bs.take 8))
      let h1 := wd (leNat (bs.drop 8))
      let kind := fld h1 0 0
      let (cid, inc, _) := actCtx k
      match k.ends.find? fun e => decide (keyOf e = (fld h1 47 36, fld h0 63 32, kind) ∧ e.state ≠ 7 ∧ e.gen = fld h0 7 0) with
      | none => trap s 0x28 (some a)
      | some e =>
        if e.ocid = cid ∧ e.oinc = inc ∧ e.state ∈ states kind then cont h0 h1 e else trap s 0x28 (some a)

/-- A record made PENDING by a buffered SENDH or STREOS, its bindings removed by SENDH (10 R192, R198). -/
def pendEnd (key : EndKey) (k : Core) : Core :=
  { k with ends := k.ends.map fun e => if keyOf e = key ∧ e.state ≠ 7 then { e with prev := e.state, state := 2 } else e }

def execSendh (rd xw xh : Reg) (s : State) : Out :=
  let w := rx (cc s) xw
  if sendWordOk w = false then ill s
  else
    noPair s <| withHandle s xh (fun kind => if kind = 0 then [1] else [1, 3]) fun h0 h1 e =>
      if e.fwd = 4 then writeX s rd 1
      else buffer s (.handle (sendHdr (cc s) w 2) h0 h1 (keyOf e)) 16 1 fun k => wx (unbind (pendEnd (keyOf e) k) (keyOf e)) rd 0

/-! ### STRNEW, STRBIND, STRUNB, STREOS, STRSTAT (20 R333 to R337) -/

/-- Whether a ring lies wholly inside one of a slot's P0 to P3. -/
def ringInP (t : Slot) (base n : Nat) : Bool := (t.rg.toList.drop 3).any fun r => rgHas r base && decide (base + n ≤ rgBase r + rgSize r)

/-- The first byte of a 32-byte block outside FRAME. -/
def frameFault (k : Core) (a : Word) (n : Nat) : Option (Nat × Word) :=
  let t := slotOf k (curSlot k)
  if n = 0 then none
  else if a.toNat ≥ 2 ^ 19 then some (0x27, a)
  else
    let pts := (List.range ((a.toNat + n - 1) / 256 - a.toNat / 256 + 1)).map fun i => max a.toNat ((a.toNat / 256 + i) * 256)
    (pts.find? fun p => !inFrame t p).map fun p => (0x27, wd p)

/-- A setting counted in the running activation's kernel: its next flush reports it (10 R188). -/
def countSetting (k : Core) : Core := let kid := actKernel k; if kid = 0 then k else { k with settings := k.settings ++ [(kid, 1)] }

def execStrnew (rd xs xb : Reg) (s : State) : Out :=
  noPair s <|
    let k := cc s
    let w := rx k xs
    let b := rx k xb
    if b.toNat % 16 ≠ 0 then trap s 0x13 (some b)
    else
      guardTrap s (frameFault k b 32) <|
        let t := slotOf k (curSlot k)
        let rsize := fld w 39 29
        let base := fld w 18 0
        let (cid, inc, rank) := actCtx k
        let sid := (ctxOf s cid).sidNext
        if fld w 28 19 ≠ 0 ∨ rsize = 0 then writeX s rd 0x66
        else if base % 8 ≠ 0 ∨ ringInP t base (rsize * 256) = false then writeX s rd 0x60
        else if sid ≥ 2 ^ 32 ∨ freeRecs k < 2 then writeX s rd 1
        else
          let kid := actKernel k
          let p : EndRec := { scid := cid, sid := sid, kind := 0, slot := curSlot k, res := (cid, rank), state := 1, ocid := cid, oinc := inc, peerRank := rank,
                              rsize := rsize, fresh := true }
          let c : EndRec := { p with kind := 1, rbase := base, tag := fld w 63 48, ehnd := fld w 47 42, eq := fld w 41 40,
                                     setKernel := if kid = 0 then none else some kid }
          let (p0, p1) := handleWords p rank
          let (c0, c1) := handleWords c rank
          let s := updCtx s cid fun x => { x with sidNext := sid + 1 }
          let s := lmWrite s s.cur b.toNat (wordsBytes [p0, p1, c0, c1])
          .next (done s fun k => wx (countSetting { k with ends := k.ends ++ [p, c] }) rd 0)

/-- An end bound to a stream register, or to the vector operand queue (target 16), and removed from where it was bound. -/
def bindEnd (k : Core) (target : Nat) (key : EndKey) : Core :=
  let k := unbind k key
  if target = 16 then { k with vqbind := some key } else { k with sbind := Vector.ofFn fun i => if i.val = target then some key else k.sbind[i.val] }

def execStrbind (rd xh xw : Reg) (s : State) : Out :=
  noPair s <| withHandle s xh (fun kind => if kind = 0 then [1, 6] else [1, 3, 4]) fun _ _ e =>
    let k := cc s
    let w := rx k xw
    let target := fld w 23 19
    let t := slotOf k (curSlot k)
    if target > 16 ∨ fld w 28 24 ≠ 0 ∨ (e.kind = 0 ∧ target = 16) then writeX s rd 0x66
    else if e.state = 3 ∧ (fld w 39 29 < e.rsize ∨ fld w 18 0 % 8 ≠ 0 ∨ ringInP t (fld w 18 0) (fld w 39 29 * 256) = false) then writeX s rd 0x60
    else
      let s := setCC s (bindEnd k target (keyOf e))
      if e.state = 3 then
        let kid := actKernel k
        let s := updEnd s s.cur (keyOf e) fun x =>
          { x with state := 1, rbase := fld w 18 0, tag := fld w 63 48, ehnd := fld w 47 42, eq := fld w 41 40,
                   slot := curSlot k, setKernel := if kid = 0 then none else some kid }
        let s := setCC s (countSetting (cc s))
        let s := match endRec (cc s) (keyOf e) with | some e' => replayEnd s s.cur e' | none => s
        writeX (tryEos s s.cur (keyOf e)) rd 0
      else writeX s rd 0

def execStrunb (rd xh : Reg) (s : State) : Out :=
  noPair s <| withHandle s xh (fun kind => if kind = 0 then [1, 6] else [1, 3, 4]) fun _ _ e =>
    .next (done s fun k => wx (unbind k (keyOf e)) rd 0)

def execStreos (rd xh xv : Reg) (s : State) : Out :=
  noPair s <| withHandle s xh (fun kind => if kind = 0 then [1, 6] else [1, 3]) fun _ _ e =>
    let v := rx (cc s) xv
    if fld v 63 16 ≠ 0 then writeX s rd 0x66
    else if e.state = 6 then writeX (freeEnd s s.cur (keyOf e)) rd 0
    else buffer s (.streos (keyOf e) (fld v 15 0)) 0 0 fun k => wx (pendEnd (keyOf e) k) rd 0

def execStrstat (rd xh : Reg) (s : State) : Out :=
  noPair s <| withHandle s xh (fun _ => [1, 2, 3, 4, 5, 6]) fun _ _ e => writeX s rd (strstatWord e)

/-! ### EXIT and EXIT.S (20 R338, R339; 07 R133) -/

/-- Whether the head of the command FIFO waits on an empty queue register (12 R236). -/
def headWaits (k : Core) : Bool :=
  match k.fifo.head? with
  | some c => bit c.w0 48 && (qreg k (fld c.w0 46 45)).isEmpty
  | none => false

def execExit (s : State) : Out :=
  let k := cc s
  match k.act with
  | none => .next s
  | some _ =>
    if k.wait = .idle ∧ headWaits k = true then .next s
    else
      afterFlush s (-1) fun s => .next <|
        match (cc s).act, (cc s).twin with
        | some a, some t => if t < s.cur then s else updCore (finishAct s s.cur a true) t clearRun
        | some a, none => finishAct s s.cur a true
        | none, _ => s

/-- The successor that EXIT.S names: its message has a new identifier and no block of LAND. -/
def successor (s : State) (a : Act) (w p : Word) : Act × State :=
  let (id, s) := freshMsg s a.cid
  let h := { a.msg.hdr with msgid := id, handler := fld w 47 42, tag := fld w 63 48 }
  ({ a with fromQ := false, handler := fld w 47 42, tiles := fld w 41 34, succ := some (p.toNat, fld w 11 0, fld w 63 48)
            msg := { a.msg with hdr := h, addr := 0, len := 0, aborts := 0, poison := false, pay := [], eosEnd := none } }, s)

def execExitS (xw xp : Reg) (s : State) : Out :=
  let k := cc s
  let w := rx k xw
  let p := rx k xp
  match k.act with
  | none => .next s
  | some _ =>
    if fld w 33 12 ≠ 0 ∨ fld w 11 0 > 2048 ∨ (fld w 41 34 ≠ 0 ∧ isCompute s.cur = false) then ill s
    else
      guardTrap s (frameFault k p (fld w 11 0)) <|
        if k.wait = .idle ∧ headWaits k = true then .next s
        else
          afterFlush s 0 fun s => .next <|
            match (cc s).act, (cc s).twin with
            | none, _ => s
            | some a, some t =>
              if t < s.cur then s
              else
                let (a', s) := successor s a w p
                let s := setCC s { clearRun (cc s) with succ := some a' }
                let s := updCore s t fun k => { clearRun k with succ := some { a' with slot := (k.act.map (·.slot)).getD a'.slot } }
                if canStart s s.cur && canStart s t then linkPair (startSucc (startSucc s s.cur) t) s.cur t else s
            | some a, none =>
              let s := credits s s.cur
              let s := setCC s { cc s with ends := (cc s).ends.map fun e => { e with fresh := false } }
              let s := releaseEos s s.cur a
              let (a', s) := successor s a w p
              let s := setCC s { clearRun (settleLoop (cc s) a true) with succ := some a' }
              if canStart s s.cur then startSucc s s.cur else s

/-! ### Barriers (07 R143, R144; 20 R340, R341) -/

def gangOf (s : State) (gid : Nat) : Option Gang := s.gangs.find? fun g => decide (g.gid = gid)

/-- The gang, or the crew, of which the running activation is a present member. -/
def presentIn (s : State) (crew : Bool) : Option Gang :=
  match ((cc s).act.bind (·.gang)).bind (gangOf s) with
  | none => none
  | some g =>
    let x := if crew then g.crew.bind (gangOf s) else some g
    x.bind fun g => if s.cur ∈ g.present then some g else none

/-- The phase at which a member's next arrival counts: later ones than the first wait for the phase to advance. -/
def arrivalPhase (g : Gang) (c : Nat) : Nat := (g.ph + (if c ∈ g.arrived then 1 else 0) + (g.again.filter fun x => decide (x = c)).length) % 2 ^ 16

/-- An arrival made: BARRIER_ARRIVE records it. -/
def arrive (s : State) (gid c : Nat) : State :=
  { s with gangs := s.gangs.map fun g => if g.gid = gid then { g with again := g.again ++ [c] } else g }

/-- BAR and its like (20 R340): ILL for one that is no present member; the flush; the arrival; and the waiting form's wait until the phase
has left the one at which the member arrived. -/
def barrier (s : State) (rd : Reg) (crew wait : Bool) : Out :=
  match (cc s).wait with
  | .barrier p =>
    match presentIn s crew with
    | none => .next (setCC s (advance (wx { cc s with wait := .idle } rd (wd p))))
    | some g => if s.cur ∈ g.arrived ∨ s.cur ∈ g.again then .next s else .next (setCC s (advance (wx { cc s with wait := .idle } rd (wd p))))
  | _ =>
    match presentIn s crew with
    | none => ill s
    | some _ =>
      afterFlush s 0 fun s =>
        match presentIn s crew with
        | none => ill s
        | some g =>
          let p := arrivalPhase g s.cur
          let s := arrive s g.gid s.cur
          if wait then .next (setCC s { cc s with wait := .barrier p }) else writeX s rd (wd p)

/-- The phase of the gang or crew that a core records (20 R341). -/
def recordedPhase (s : State) (crew : Bool) : Option Nat :=
  ((if crew then (cc s).crewRec else (cc s).gangRec).bind (gangOf s)).map (·.ph)

/-- BAR.T and CREWBAR.T. -/
def phaseDist (s : State) (rd xp : Reg) (crew : Bool) : Out :=
  match recordedPhase s crew with
  | none => writeX s rd 0
  | some ph => writeX s rd (wd ((ph + 2 ^ 16 - fld (rx (cc s) xp) 15 0) % 2 ^ 16))

def execBar (rd : Reg) (s : State) : Out := barrier s rd false true
def execBarA (rd : Reg) (s : State) : Out := barrier s rd false false
def execBarT (rd xp : Reg) (s : State) : Out := phaseDist s rd xp false
def execBarTP (rd xp : Reg) (s : State) : Out :=
  match recordedPhase s false with
  | none => writeX s rd 0
  | some ph => writeX s rd (wd (b2n (decide (ph % 2 ≠ fld (rx (cc s) xp) 0 0))))
def execCrewbar (rd : Reg) (s : State) : Out := barrier s rd true true
def execCrewbarA (rd : Reg) (s : State) : Out := barrier s rd true false
def execCrewbarT (rd xp : Reg) (s : State) : Out := phaseDist s rd xp true

/-! ### Launch, submission, spawn, registration, events, cancel (20 R342 to R348) -/

def execLaunch (xw xm xa : Reg) (n : BitVec 9) (s : State) : Out :=
  let k := cc s
  let w := rx k xw
  let mask := (rx k xm).toNat
  let a := rx k xa
  let len := 8 * n.toNat
  if n.toNat > 256 ∨ sendWordOk w = false then ill s
  else
    guardTrap s (spanFault s a len false) <| rowFirst s a.toNat len <|
      let (pay, bad) := spanRead s a.toNat len
      buffer s (.launch { sendHdr k w 3 with x6 := mask } mask pay) len (popN 64 mask) id bad

def execKsub (rd xa xd : Reg) (s : State) : Out :=
  let k := cc s
  let a := rx k xa
  let d := rx k xd
  if fld d 63 1 ≠ 0 then ill s
  else if a.toNat % 64 ≠ 0 then trap s 0x13 (some a)
  else
    guardTrap s (spanFault s a 64 false) <| rowFirst s a.toNat 64 <|
      let (bs, bad) := spanRead s a.toNat 64
      bufferT s (fun t => .ksub (leWords 8 bs) (fld d 0 0) t) 64 0 (fun t k => pendReg k rd t) bad

def execDspn (xw xe xa : Reg) (n : BitVec 6) (s : State) : Out :=
  let k := cc s
  let w := rx k xw
  let e := rx k xe
  let a := rx k xa
  let len := 8 * n.toNat
  if n.toNat > 32 ∨ fld w 47 32 ≠ 0 ∨ fld e 63 32 ≠ 0 then ill s
  else
    guardTrap s (spanFault s a len false) <| rowFirst s a.toNat len <|
      let (pay, bad) := spanRead s a.toNat len
      let h0 := sendHdr k 0 5
      let h := { h0 with tag := fld w 63 48, kernel := if fld w 31 0 = 0 then h0.kernel else fld w 31 0 }
      buffer s (.dspn h (fld e 31 0) pay) (8 + len) 1 id bad

/-- ADJREG: not buffered; the request goes to the dispatcher of the issuing die (20 R346). -/
def execAdjreg (rd xn xr : Reg) (s : State) : Out :=
  let k := cc s
  let n := (rx k xn).toNat
  if n > 15 then writeX s rd 0x66
  else
    let (t, k) := freshTok k
    let (cid, inc, _) := actCtx k
    .next (emit (setCC s (advance (pendReg k rd t)))
      { src := niOf s s.cur, dst := dispOf s (dieOf s.cur), cls := 0, op := 0x21, cid := cid, inc := inc, len := 2,
        body := .adjreg n (rx k xr).toNat t })

def execSetev (xm : Reg) (q : BitVec 2) (s : State) : Out := buffer s (.setev q.toNat (rx (cc s) xm) false) 8 0 id
def execSetevClr (xm : Reg) (q : BitVec 2) (s : State) : Out := buffer s (.setev q.toNat (rx (cc s) xm) true) 8 0 id

def execJcan (rd xj : Reg) (s : State) : Out :=
  let j := rx (cc s) xj
  if fld j 63 32 ≠ 0 then ill s
  else bufferT s (fun t => .jcan (fld j 31 0) t) 0 0 fun t k => pendReg k rd t

end Sys2Proof.Machine
end

