-- ==== Sys2Proof/Machine/Effects.lean ====
section
/-! DEFINITION. The flush as its entries leave the NI, and their acknowledgement (09 R169, R175; 05 R97; 10 R193 to R198; 20 R328, R342 to
R348; 04 R71). -/

namespace Sys2Proof.Machine

/-! ### Paired dispatch (04 R71) -/

/-- What the pair checker makes of a copy's flush: it may go on, it waits, or the copies have ended. -/
inductive PairR where
  | go (s : State)
  | waits
  | ended (s : State)

/-- The token under which a KSUB or JCAN in the buffer is answered. -/
def ansTok : Effect → Option Nat
  | .ksub _ _ t => some t
  | .jcan _ t => some t
  | _ => none

/-- A register of a copy that waits under a token of its own waits for what the other copy's token brings (04 R71). -/
def shareAns (s : State) (t own other : Nat) : State :=
  updCore s t fun k => { k with pendx := k.pendx.map fun p => if p.2 = own then (p.1, twinTok other) else p }

/-- The comparison of two copies. The digest is taken to tell every pair of different effect sequences apart (log 28). -/
def pairCheck (s : State) (c : Nat) : PairR :=
  let k := coreOf s c
  match k.twin with
  | none => .go s
  | some t =>
    if t < c then .waits
    else if k.cmpAt.isNone then .go s
    else
      let kt := coreOf s t
      if kt.cmpAt.isNone then .waits
      else if k.folded ≠ kt.folded ∨ k.exited ≠ kt.exited then .ended (abortWith s c 0x40 k.pc (some (rowOf c, rowOf t)))
      else
        -- what answers this copy's KSUB or JCAN answers the other's too
        let s := (k.sb.zip kt.sb).foldl (fun s x => match ansTok x.1.eff, ansTok x.2.eff with | some a, some b => shareAns s t b a | _, _ => s) s
        let s := updCore s t fun x => { clearRestart x 1 with sb := [], flush := none, cmpAt := none, folded := [] }
        .go (flushReports (updCore s c fun x => { x with cmpAt := none, folded := [] }) c)

/-! ### The parts of LEAVE -/

/-- A packet of the running activation to a rank, which enters the unacknowledged set (09 R168): none while it must wait. -/
def sendTracked (s : State) (c cid rank : Nat) (p : Packet) (msgid : Nat) : Option State :=
  let e := (resolve s c cid rank).1
  match sendRank s c cid rank p with
  | none => none
  | some s =>
    let target := match reState e with
      | 1 => reAgent s e
      | 3 => reChip e * 65536 + storeOf s (reDie e) % 65536
      | _ => 0
    if reState e = 0 then some s else some (updCore s c fun k =>
      { k with unack := k.unack ++ [{ tok := p.tok, target := target, g := 0, w := 0, msgid := msgid, own := actOwn k, by_ := actBy k,
                                      rank := if p.cls = 2 then some (cid, rank) else none }] })

/-- A packet of the running activation to an agent of this package, or of another chip. -/
def sendAgent (s : State) (c : Nat) (p : Packet) (msgid : Nat) : Option State :=
  if canSend s p.dst p.cls then some (updCore (emit s { p with src := niOf s c }) c fun k => unacked k p.tok p.dst 0 0 msgid) else none

/-- A message for a rank that lies in another partition is dropped, and PRIV is owed or reported (20 R328); its live count falls by 1
(log 29). -/
def dropForeign (s : State) (c cid inc own kid mine : Nat) (dropped : Nat) : State :=
  report (refused s c 0x27 mine cid inc own kid (wd dropped) none) kid (-1) none

/-- One message leaves: a fresh identifier, the partition check, and its rank. -/
def leaveMsg (s : State) (c : Nat) (h : MsgHdr) (body : MsgHdr → Body) (op n tok : Nat) (bad : Bool := false) : Option State :=
  let k := coreOf s c
  let (cid, inc, rank) := actCtx k
  let mine := actMsg k
  let (id, s1) := freshMsg s cid
  let h := { h with msgid := id }
  let e := (resolve s c cid h.trank).1
  if decide (reState e = 1) && foreignCore s cid e then some (dropForeign s1 c cid inc rank h.kernel mine id)
  else sendTracked s1 c cid h.trank { dst := 0, src := 0, cls := 2, op := op, cid := cid, inc := inc, tok := tok, len := msgLen n, bad := bad, body := body h } mine

/-- The copies of a LAUNCH still in its mask, in ascending order: those for this chip, or for ranks that are not VALID, leave one by one;
those for a VALID rank of another chip wait for the end. The mask of the copies left over comes back with the state (20 R342). -/
def leaveCopies (h : MsgHdr) (all : Nat) (pay : List Byte) (poison : Bool) (tok : Nat) (c : Nat) : List Nat → State → Option (List Nat) × State
  | [], s => (none, s)
  | i :: is, s =>
    let (cid, _, _) := actCtx (coreOf s c)
    let rank := (h.trank + i) % 65536
    let e := (resolve s c cid rank).1
    if reState e = 1 ∧ reChip e ≠ s.chip then leaveCopies h all pay poison tok c is s
    else
      match leaveMsg s c { h with trank := rank, x6 := popN i all } (fun h => .msg h pay poison) 8 pay.length tok with
      | some s => leaveCopies h all pay poison tok c is s
      | none => (some (i :: is), s)

/-- The chips of the ranks of a LAUNCH that are VALID on another chip, with the bits of each. -/
def launchChips (s : State) (c cid : Nat) (trank : Nat) (bits : List Nat) : List (Nat × List Nat) :=
  let on := fun i => let e := (resolve s c cid ((trank + i) % 65536)).1
                     if reState e = 1 ∧ reChip e ≠ s.chip then some (reChip e) else none
  let chips := (bits.filterMap on).foldl addSorted []
  chips.map fun ch => (ch, bits.filter fun i => on i = some ch)

/-- One LAUNCH packet for each other chip, the payload once and the bits of that chip's ranks (20 R342). x6 of the header keeps the whole
mask, from which the copies take their ranks within the mask (05 R95). -/
def leaveChips (h : MsgHdr) (pay : List Byte) (poison : Bool) (tok c : Nat) : List (Nat × List Nat) → State → Option State
  | [], s => some s
  | (ch, bits) :: l, s =>
    let k := coreOf s c
    let (cid, inc, _) := actCtx k
    let dst := ch * 65536 + 7 * 4096
    let mask := (bits.map (2 ^ ·)).sum
    if canSend s dst 2 then
      let s := emit s { src := niOf s c, dst := dst, cls := 2, op := 8, cid := cid, inc := inc, tok := tok, len := msgLen pay.length, bad := poison, body := .launch { h with aborts := k.aborts } mask pay }
      leaveChips h pay poison tok c l (updCore s c fun k =>
        { k with unack := k.unack ++ [{ tok := tok, target := dst, g := 0, w := 0, msgid := actMsg k, own := actOwn k, by_ := actBy k, ranks := bits.map fun i => (h.trank + i) % 65536 }] })
    else none

/-- Items of a consumer's ring from HSEQ on, forwarded to the new rank in sequence order, 32 to a packet (10 R198 step 3). -/
def forwardItems (s : State) (c : Nat) (e : EndRec) (rank : Nat) : Nat → Nat → State
  | 0, _ => s
  | n + 1, seq =>
    let left := seqDiff e.wrSeq seq
    if left = 0 then s
    else
      let m := min 32 left
      let k := coreOf s c
      let items := (List.range m).map fun j => wd (rdLE k.lm (ringAt e (seq + j)) 8)
      let bad := (List.range m).any fun j => lmBad k (ringAt e (seq + j)) 8
      let h : StrmHdr := { sid := e.sid, scid := e.scid, seq := seq, ekind := 1, sgen := e.peerGen, pgen := (e.gen + 1) % 256, trank := rank,
                           srank := e.res.2 }
      let s := sendRank' s c e.ocid rank { dst := 0, src := 0, cls := 3, op := 10, cid := e.ocid, inc := e.oinc, len := 1 + (m + 1) / 2, body := .item h items bad }
      forwardItems s c e rank n ((seq + m) % 2 ^ 32)

/-- The packets that a moved end still has to pass on: items held beyond a gap, the end-of-stream word, and what a PENDING record held
(10 R196, R198). -/
def forwardHeld (s : State) (c : Nat) (e : EndRec) (rank : Nat) : State :=
  let h : StrmHdr := { sid := e.sid, scid := e.scid, ekind := e.kind, sgen := e.peerGen, pgen := (e.gen + 1) % 256, trank := rank,
                       srank := e.res.2 }
  let p : Packet := { dst := 0, src := 0, cls := 3, op := 10, cid := e.ocid, inc := e.oinc, len := 2, body := .notice h }
  let s := e.held.foldl (fun s x => sendRank' s c e.ocid rank { p with body := .item { h with seq := x.1 } [x.2] (decide (x.1 ∈ e.heldBad)) }) s
  let s := match e.eosWord with
    | some w => sendRank' s c e.ocid rank { p with op := 11, bad := e.eosBad, body := .eos { h with seq := fld w 31 0 } w }
    | none => s
  e.heldPk.foldl (fun s q => sendRank' s c e.ocid rank { q with body := withHdr q.body { strmHdr q.body with pgen := (e.gen + 1) % 256, trank := rank } }) s

/-- The owner that a moved end gets: the resident that its rank names (10 R199, 22 R352); of another chip's residents nothing is known here, and the
forwarding record carries the context whose rank it is (log 30). -/
def newOwner (s : State) (e : Word) (cid inc : Nat) : Nat × Nat :=
  match (slotOf (coreOf s (reCore e)) (reSlot e)).resident with
  | some r => if reState e = 1 ∧ reChip e = s.chip then (r.cid, r.inc) else (cid, inc)
  | none => (cid, inc)

/-- SENDH leaves (10 R198): one step of the NI. The forwarding record carries the new owner (10 R208). To a rank of another partition the handle does not
leave, and the record returns to its former state (log 30). -/
def leaveHandle (s : State) (c : Nat) (h : MsgHdr) (h0 h1 : Word) (key : EndKey) (tok : Nat) (bad : Bool) : Option State :=
  let k := coreOf s c
  match endRec k key with
  | none => some s
  | some e =>
    let (cid, inc, _) := actCtx k
    let r := (resolve s c cid h.trank).1
    let (ncid, ninc) := newOwner s r cid inc
    if decide (reState r = 1) && foreignCore s cid r then (leaveMsg s c h (fun h => .msg h [] false) 9 16 tok bad).map fun s => unpend s c e
    else
      let (i0, i1, i2) := imageOf e
      match leaveMsg s c h (fun h => .handle h h0 h1 i0 i1 i2) 9 40 tok bad with
      | none => none
      | some s =>
        let e' := { e with state := 7, gen := (e.gen + 1) % 256, ocid := ncid, oinc := ninc, fwdRank := h.trank, reack := none,
                           fwdDone := if e.kind = 1 then e.wrSeq else 0, fwdAhead := e.held.map (·.1), heldPk := [], held := [],
                           heldBad := [], eosWord := none, eosBad := false }
        let s := updCore s c fun k => putEnd k e' false
        let s := if e.kind = 1 then unset s e else s
        let s := if e.kind = 1 then forwardItems s c e h.trank (seqDiff e.wrSeq e.popSeq + 1) e.popSeq else s
        let s := replayEnd (forwardHeld s c e h.trank) c e
        let n : StrmHdr := { sid := e.sid, scid := e.scid, seq := if e.kind = 1 then e.popSeq else e.nextSeq, typ := 1, ekind := 1 - e.kind,
                             sgen := e'.gen, pgen := e.peerGen, nrank := h.trank, trank := e.peerRank, srank := e.res.2 }
        some (sendRank' s c e.ocid e.peerRank { dst := 0, src := 0, cls := 3, op := 12, cid := e.ocid, inc := e.oinc, len := 1, body := .notice n })

/-- Whether a peer rank resolves to a core of another partition (03 R55). -/
def foreignRank (s : State) (c cid rank : Nat) : Bool :=
  let r := (resolve s c cid rank).1
  decide (reState r = 1) && foreignCore s cid r

/-- A stream's items or word for a rank of another partition, dropped: PRIV, with the SID as its detail (03 R55; log 53). -/
def dropStream (s : State) (c sid : Nat) : State :=
  let k := coreOf s c
  let (cid, inc, rank) := actCtx k
  refused s c 0x27 (actMsg k) cid inc rank (actKernel k) (wd sid) none

/-- STREOS leaves (10 R196, R197): a producer sends the word and becomes CLOSED; a consumer's end frees with an ORPHAN of CAUSE CLOSED. -/
def leaveEos (s : State) (c : Nat) (key : EndKey) (value tok : Nat) (bad : Bool) : Option State :=
  match endRec (coreOf s c) key with
  | none => some s
  | some e =>
    if e.kind = 1 then some (killEnd s c e 3)
    else if e.state = 6 then some (freeEnd s c key)
    else if foreignRank s c e.ocid e.peerRank then some (unpend (dropStream s c e.sid) c e)
    else
      let k := coreOf s c
      let w := eosWord 0 value e.nextSeq
      let h : StrmHdr := { sid := e.sid, scid := e.scid, seq := e.nextSeq, ekind := 1, sgen := e.gen, pgen := e.peerGen, trank := e.peerRank,
                           srank := e.res.2 }
      match sendTracked s c e.ocid e.peerRank { dst := 0, src := 0, cls := 3, op := 11, cid := e.ocid, inc := e.oinc, tok := tok, len := 2, bad := bad, body := .eos h w } (actMsg k) with
      | none => none
      | some s =>
        let s := updEnd s c key fun x => { x with state := 5, heldPk := [] }
        some (e.heldPk.foldl (fun s p => strmAt s c p) s)

/-- How many items of a push may leave now (10 R193): n < RELSEQ + RITEMS. -/
def pushCredit (e : EndRec) : Nat := ritems e - min (ritems e) (seqDiff e.nextSeq e.relSeq)

/-- Pushes leave as far as credit goes: the items left over, and the state. An ORPHANED producer's are discarded (10 R207). -/
def leavePush (s : State) (c : Nat) (key : EndKey) (items : List Word) (poison : Bool) (tok : Nat) : Option (List Word × State) :=
  match endRec (coreOf s c) key with
  | none => some ([], s)
  | some e =>
    if e.state = 6 ∨ (e.state = 2 ∧ e.prev = 6) then some ([], s)
    else
      let m := min items.length (pushCredit e)
      if m = 0 then (if items = [] then some ([], s) else none)
      else if foreignRank s c e.ocid e.peerRank then some ([], dropStream s c e.sid)
      else
        let k := coreOf s c
        let h : StrmHdr := { sid := e.sid, scid := e.scid, seq := e.nextSeq, ekind := 1, sgen := e.gen, pgen := e.peerGen, trank := e.peerRank,
                             srank := e.res.2 }
        match sendTracked s c e.ocid e.peerRank
            { dst := 0, src := 0, cls := 3, op := 10, cid := e.ocid, inc := e.oinc, tok := tok, len := 1 + (m + 1) / 2, body := .item h (items.take m) poison } (actMsg k) with
        | none => none
        | some s => some (items.drop m, updEnd s c key fun x => { x with nextSeq := (x.nextSeq + m) % 2 ^ 32 })

/-- The registration that a running element kernel of a context names, and the owner's die of an element: for DSPN (06 R103, R115; 20 R345). -/
def kernelAdj (s : State) (kn : Kernel) : Option AdjReg := s.adjs.find? fun a => decide (a.cid = kn.cid ∧ a.inc = kn.inc ∧ a.num = kn.adj)

/-- A word of n bytes of a registered array, through its pinned pages (06 R104). -/
def adjRead (s : State) (a : AdjReg) (va n : Nat) : Nat :=
  match mget a.pages (va / 2 ^ 15) with
  | some p => if paChip p = s.chip then rdLE s.mem (p + va % 2 ^ 15) n else (Config.farWord (p + va % 2 ^ 15) s.free).toNat % 256 ^ n
  | none => 0

/-- The owner rank of an element (06 R103). -/
def ownerRank (s : State) (a : AdjReg) (e : Nat) : Nat :=
  let va := a.map + 2 * (e / 2 ^ a.blkshift)
  adjRead s a va 1 + 256 * adjRead s a (va + 1) 1

/-- The owner of an element: chip and die (06 R103). -/
def ownerAt (s : State) (a : AdjReg) (e : Nat) : Nat × Nat :=
  let r := rankEntry s a.cid (ownerRank s a e)
  (reChip r, reDie r)

/-- Where the hold word of an element lies in the HBM of a die (06 R107, 21 R350), and the slice whose engine owns it (08 R148). -/
def holdPa (a : AdjReg) (die e : Nat) : Nat := die * 2 ^ 38 + (a.hbase + 16 * e) % 2 ^ 38
def holdSlice (s : State) (a : AdjReg) (e : Nat) : Nat := paSlice (holdPa a (ownerAt s a e).2 e)

/-- The dispatcher to which a spawn goes: that of the owner's die; where the kernel or the element does not exist, that of the spawning
core's die, which reports it (20 R345; log 31). -/
def spawnTarget (s : State) (c cid : Nat) (h : MsgHdr) (elem : Nat) : Nat :=
  let here := dispOf s (dieOf c)
  match kernelOf s h.kernel with
  | none => here
  | some kn =>
    match kernelAdj s kn with
    | none => here
    | some a =>
      if elem ≥ a.nelem then here
      else
        let e := rankEntry s cid (ownerRank s a elem)
        reChip e * 65536 + dispOf s (reDie e) % 65536

/-- Removes the head of the send buffer, or replaces it. -/
def sbHead (s : State) (c : Nat) (rest : Option SbEntry) : State :=
  updCore s c fun k => { k with sb := match rest with | some e => e :: k.sb.tail | none => k.sb.tail, flush := k.flush.map (· - (if rest.isSome then 0 else 1)) }

/-- The flush is over once no entry is left and no report awaits its acknowledgement. -/
def endFlush (s : State) (c : Nat) : State :=
  updCore s c fun k => if k.flush = some 0 ∧ k.rptWait = 0 then { k with flush := none } else k

/-- The head entry of a flush leaves: the entry that is left of it, and the state; none while it must wait. Its poison goes with its data (04 R69). -/
def leaveEntry (s : State) (c : Nat) (e : SbEntry) : Option (Option SbEntry × State) :=
  let k := coreOf s c
  let (cid, inc, rank) := actCtx k
  let mine := actMsg k
  let gone := fun (r : Option State) => r.map fun s => ((none : Option SbEntry), s)
  let p : Packet := { dst := 0, src := 0, cls := 2, op := 8, cid := cid, inc := inc, tok := e.tok, len := 2, bad := e.poison, body := .mgmt 0 0 }
  match e.eff with
  | .msg h pay => gone (leaveMsg s c h (fun h => .msg h pay e.poison) 8 pay.length e.tok)
  | .handle h h0 h1 key => gone (leaveHandle s c h h0 h1 key e.tok e.poison)
  | .launch h mask pay =>
    let bits := setBits 64 0 mask
    let far := launchChips s c cid h.trank bits
    match leaveChips h pay e.poison e.tok c far s with
    | none => none
    | some s =>
      let near := bits.filter fun i => !(far.any fun x => decide (i ∈ x.2))
      match leaveCopies h h.x6 pay e.poison e.tok c near s with
      | (none, s) => some (none, s)
      | (some left, s) => some (some { e with eff := .launch h ((left.map (2 ^ ·)).sum) pay }, s)
  | .ksub rec_ die tok => gone (sendAgent s c { p with dst := schedOf s die, body := .ksub rec_ tok } mine)
  | .setev q mask clr =>
    gone (sendAgent s c { p with dst := homeChip s cid * 65536 + schedOf s (ctxOf s cid).home % 65536, body := .setev q mask clr } mine)
  | .dspn h elem pay =>
    let (id, s) := freshMsg s cid
    let d := spawnTarget s c cid h elem
    let far := decide (agChip d ≠ s.chip)
    if !far && decide ((dieAt s (agDie d)).disp.spawnq.length ≥ 65536) then none
    else
      -- one for another chip stands at the head until that chip's dispatcher has taken it
      let left := fun (r : Option State) => r.map fun s =>
        if far then (some e, updCore s c fun k => { k with spawnSent := some (e.tok, false) }) else (none, s)
      left (sendAgent s c { p with dst := d, len := msgLen (8 + pay.length), bad := e.poison, body := .dspn { h with msgid := id, srank := rank } elem pay } mine)
  | .jcan job tok => gone (sendAgent s c { p with dst := schedOf s (dieOf c), body := .jcan job tok } mine)
  | .store g w v full => gone (storeOut s c g w (fun a => .store a w v full e.tok) 2 e.tok e.poison)
  | .subStore g off size v => gone (storeOut s c g 1 (fun a => .subStore a off size v e.tok) 3 e.tok e.poison)
  | .streos key value => gone (leaveEos s c key value e.tok e.poison)
  | .push key items =>
    match leavePush s c key items e.poison e.tok with
    | none => none
    | some ([], s) => some (none, s)
    | some (l, s) => some (some { e with eff := .push key l }, s)
  | .op _ => some (none, s)

/-- Whether the head entry is a spawn that has left for another chip, and has entered the spawn queue there (06 R115). -/
def spawnOut (k : Core) (e : SbEntry) : Option Bool :=
  match k.spawnSent with
  | some (t, done) => if t = e.tok then some done else none
  | none => none

/-- LEAVE (09 R169): with a flush in progress and its reports acknowledged, the oldest entry goes. An entry of an incarnation that is no
longer current is dropped and counted (03 R61). The error injector poisons an entry as it leaves (04 R74). -/
def execLeave (core : Nat) (s : State) : Out :=
  let k := coreOf s core
  match k.flush with
  | none => .next s
  | some _ =>
    match pairCheck s core with
    | .waits => .next s
    | .ended s => .next s
    | .go s =>
      let k := coreOf s core
      if k.rptWait ≠ 0 then .next s
      else
        match k.sb with
        | [] => .next (endFlush (updCore s core fun k => { k with flush := k.flush.map fun _ => 0 }) core)
        | e :: _ =>
          let (cid, inc, _) := actCtx k
          if !incOk s (niOf s core) cid inc then .next (endFlush (staleAt (sbHead s core none) core) core)
          else if spawnOut k e = some false then .next s
          else if spawnOut k e = some true then .next (endFlush (sbHead (updCore s core fun k => { k with spawnSent := none }) core none) core)
          else
            let (bad, s1) := inject s (dieOf core) cid 4
            match leaveEntry s1 core { e with poison := e.poison || bad } with
            | none => .next s
            | some (rest, s) => .next (endFlush (sbHead s core rest) core)

/-- ACK (09 R169, R175): an applied effect leaves the unacknowledged set, and an STG's outstanding entry completes (16 R301). -/
def execAck (core tok : Nat) (s : State) : Out :=
  let k := coreOf s core
  match k.unack.find? fun u => u.tok = tok ∧ u.applied = true with
  | none => .next s
  | some u =>
    .next (setCore s core { k with unack := k.unack.erase u, out := k.out.filter fun o => !decide (o.tok = tok ∧ o.kind = .stg) })

end Sys2Proof.Machine
end

