-- ==== Sys2Proof/Machine/Home.lean ====
section
/-! DEFINITION. Homes applying the requests of their channels, and responses returning to the NIs (09 R169, R170, R175 to R180; 16 R291, R293,
R297 to R301; 08 R147, R149, R163; 04 R68 to R70). -/

namespace Sys2Proof.Machine

/-! ### Responses -/

/-- What the home of an engine's word answers: the word, or none (23 R369). -/
def engAnswer (s : State) : Body → State
  | .rdata t v bad => if isEng t then engGot s t v bad else s
  | .status t _ => if isEng t then engLost s t else s
  | _ => s

/-- The response to a request, on its way back to the requester: the SEQ and the class of the request go with it (02 R29). RETURN is a step of NIs (09
R169): an engine of this chip has its answer at once. -/
def respond (s : State) (p : Packet) (op : Nat) (body : Body) : State :=
  if agChip p.src = s.chip ∧ agIsCore p.src = false then engAnswer s body
  else
    emit s { dst := p.src, src := p.dst, cls := 4, op := op, cid := p.cid, inc := p.inc, rseq := p.seq, rcls := p.cls, len := 1, body := body }

def statusTo (s : State) (p : Packet) (tok cause : Nat) : State := respond s p 0x12 (.status tok cause)

/-! ### Hash insert (16 R299) -/

/-- Newer(t, u). -/
def newerTag (t u : Nat) : Bool :=
  let d := (t + 2 ^ 31 - u % 2 ^ 31) % 2 ^ 31
  decide (1 ≤ d) && decide (d ≤ 2 ^ 30 - 1)

/-- The probe of a bucket at base from step i on, n steps left: the memory after it and the result. -/
def hinsGo (m : Memory) (base : Nat) (newer : Bool) (key data : Word) : Nat → Nat → Memory × Word
  | 0, _ => (m, wd (3 * 2 ^ 60))
  | n + 1, i =>
    let j := (fld key 3 0 + i) % 16
    let a := base + 16 * j
    let k := rdLE m a 8
    let e := wd (rdLE m (a + 8) 8)
    let result := fun (out val : Nat) => wd (out * 2 ^ 60 + j * 2 ^ 56 + val)
    let new := 2 ^ 63 + fld data 62 0
    if !bit e 63 then (wrLE (wrLE m a 8 key.toNat) (a + 8) 8 new, result 0 (fld data 31 0))
    else if k = key.toNat then
      if newer && newerTag (fld data 62 32) (fld e 62 32) then (wrLE m (a + 8) 8 new, result 2 (fld e 31 0))
      else (m, result 1 (fld e 31 0))
    else hinsGo m base newer key data n (i + 1)

/-! ### Sub-byte stores (09 R178) -/

/-- The byte with size bits at off replaced. -/
def subByte (b : Byte) (off size : Nat) (v : Word) : Byte :=
  let m := 2 ^ size
  BitVec.ofNat 8 (b.toNat - b.toNat / 2 ^ off % m * 2 ^ off + v.toNat % m * 2 ^ off)

/-! ### An NI as a home (07 R124, R389; 16 R293, R298) -/

/-- The cause with which an NI refuses an access of n bytes at a local address of a slot: XLATE for an empty slot, SEALED, and PRIV outside
P0 to P3; an access that names its own slot obeys that slot's region table. -/
def niRefusal (s : State) (c slot src off n : Nat) (wr : Bool) : Option Nat :=
  let k := coreOf s c
  let t := slotOf k slot
  if t.resident.isNone then some 0x26
  else if k.sealed_ then some 0x24
  else if src = niOf s c ∧ (k.act.any fun a => decide (a.slot = slot)) = true then (rangeFault t off n wr).map (·.1)
  else if (List.range n).all fun i => inP t (off + i) then none else some 0x27

/-- The token of a request or store. -/
def bodyTok : Body → Nat
  | .load _ _ t => t
  | .store _ _ _ _ t => t
  | .subStore _ _ _ _ t => t
  | .amo _ _ _ _ _ _ t => t
  | .hins _ _ _ _ t => t
  | .engWrite _ _ _ _ t => t
  | .engRead _ t => t
  | .redc _ t => t
  | .redw _ _ _ _ _ _ t => t
  | .arm _ _ t => t
  | .rowLd _ _ _ t => t
  | .rowSt _ _ _ _ t => t
  | .rowFe _ _ _ t => t
  | .adjreg _ _ t => t
  | _ => 0

/-- The address and length of a request or store, and whether it writes. -/
def bodySpan : Body → Nat × Nat × Bool
  | .load a w _ => (a, w, false)
  | .store a w _ _ _ => (a, w, true)
  | .subStore a _ _ _ _ => (a, 1, true)
  | .amo a _ w _ _ _ _ => (a, w, true)
  | .hins a _ _ _ _ => (a, 256, true)
  | .engWrite a _ _ _ _ => (a, 8, true)
  | .engRead a _ => (a, 8, false)
  | .redw a _ typ _ vals _ _ => (a, elSize typ * vals.length, true)
  | .arm a _ _ => (a, 64, false)
  | _ => (0, 0, false)

/-- The sampled rounding of a RAMO (11 R215). -/
def amoMode (rmode : Word) : RM := rmAt rmode (fld rmode 31 16 * 2 ^ 32)

/-- Elements combined into a core's LM at an address, the prior value the left operand (11 R220, 23 R371). A poisoned prior value is used as an
operand, which consumes it and seals the core (04 R69, R70). -/
def redWordAt (s : State) (c a op typ : Nat) (rmode : Word) (vals : List Nat) (full : Bool) : State :=
  let n := elSize typ
  let k := coreOf s c
  if lmBad k a (n * vals.length) then (if k.sealed_ then s else sealCore s c)
  else
    let new := vals.zipIdx.map fun x => combEl op typ (rmAt rmode 0) (rdLE k.lm (a + n * x.2) n) x.1
    lmWriteFull s c a (new.flatMap (leBytes n)) full

/-- The operation of a packet performed on a core's LM at its NI. -/
def niDo (s : State) (c : Nat) (p : Packet) (bad : Bool) : State :=
  let at_ := fun (a : Nat) => a % 2 ^ 19
  match p.body with
  | .load a w t =>
    let s := if bad then lmPoison s c (at_ a) w else s
    respond s p 0x10 (.rdata t (wd (rdLE (coreOf s c).lm (at_ a) w)) (lmBad (coreOf s c) (at_ a) w))
  | .rowLd a w _ t =>
    let s := if bad then lmPoison s c a w else s
    respond s p 0x10 (.rdata t (wd (rdLE (coreOf s c).lm a w)) (lmBad (coreOf s c) a w))
  | .store a w v full _ =>
    let s := lmWriteFull s c (at_ a) (leBytes w v.toNat) full
    if bad then lmPoison s c (at_ a) w else s
  | .rowFe a kind v t =>
    let full := decide (a / 8 ∈ (coreOf s c).fe)
    if kind = 2 then respond (feSet s c a (bit v 0)) p 0x10 (.rdata t (wd (b2n full)) false)
    else if !full then statusTo s p t 0
    else
      let s := if bad then lmPoison s c a 8 else s
      if lmBad (coreOf s c) a 8 then respond s p 0x10 (.rdata t 0 true)
      else
        let v := wd (rdLE (coreOf s c).lm a 8)
        respond (if kind = 1 then feSet s c a false else s) p 0x10 (.rdata t v false)
  | .rowSt a w v full _ =>
    let s := lmWriteFull s c a (leBytes w v.toNat) full
    if bad then lmPoison s c a w else s
  | .subStore a o z v _ =>
    let s := lmWrite s c (at_ a) [subByte (rdByte (coreOf s c).lm (at_ a)) o z v]
    if bad then lmPoison s c (at_ a) 1 else s
  | .engWrite a v full poison _ =>
    let s := lmWriteFull s c (at_ a) (leBytes 8 v.toNat) full
    if poison || bad then lmPoison s c (at_ a) 8 else s
  | .engRead a t =>
    let s := if bad then lmPoison s c (at_ a) 8 else s
    respond s p 0x10 (.rdata t (wd (rdLE (coreOf s c).lm (at_ a) 8)) (lmBad (coreOf s c) (at_ a) 8))
  | .redw a op typ rm vals full _ => redWordAt (if bad then lmPoison s c (at_ a) 8 else s) c (at_ a) op typ (wd rm) vals full
  | .amo a op w b x rm t =>
    let s := if bad then lmPoison s c (at_ a) w else s
    let m := rdLE (coreOf s c).lm (at_ a) w
    if lmBad (coreOf s c) (at_ a) w then respond s p 0x11 (.rdata t (wd m) true)
    else
      let s := lmWrite s c (at_ a) (leBytes w (amoNew op (8 * w) m b.toNat x.toNat (amoMode rm)))
      respond s p 0x11 (.amorsp t (wd m))
  | .hins _ _ _ _ t => statusTo s p t 0x11
  | .arm a v t =>
    if agChip p.src = s.chip then armAt s true c (at_ a) (agCore p.src) t v
    else armAt s true c (at_ a) (2 ^ 40 + p.src) t v (some p)
  | _ => s

/-- A refused store or request: STATUS to its source; an element operation of an engine counts as refused (23 R369), as does a word of a reduction's
result (R371). -/
def refuse (s : State) (p : Packet) (cause : Nat) : State :=
  let t := bodyTok p.body
  if agChip p.src = s.chip ∧ isRedTok t = true then redWordDone s (agDie p.src) t true
  else if agChip p.src = s.chip ∧ isEng t = true then (match p.body with | .engRead .. => engLost s t | _ => engDone s t true)
  else if agChip p.src = s.chip ∧ agIsCore p.src = false then markApplied s p.src t p.dst
  else statusTo s p t cause

/-- A packet applied at a core's NI. -/
def niApply (s : State) (c : Nat) (p : Packet) : State :=
  let (bad, s) := inject s (dieOf c) p.cid 0
  let bad := bad || p.bad
  let ok := fun (s : State) => if (bodySpan p.body).2.2 || (match p.body with | .rowSt .. => true | _ => false) then markApplied s p.src (bodyTok p.body) p.dst else s
  -- the row channel, whose accesses the member has checked itself (09 R173)
  if p.cls = rowCls then (if (coreOf s c).sealed_ then refuse s p 0x24 else ok (niDo s c p bad))
  else
  match p.body with
  | b =>
    let (a, n, wr) := bodySpan b
    -- the local form of an engine's word names the issuing core's own LM, whose regions the command has checked (23 R368)
    let own := decide (a < 2 ^ 19) && decide (agChip p.src = s.chip) && !agIsCore p.src
    match (if own then none else niRefusal s c p.slot p.src (a % 2 ^ 19) n wr) with
    | some cause => refuse s p cause
    | none => ok (niDo s c p bad)

/-! ### A slice, host memory and the register blocks as homes (08 R147, R149, R163; 03 R49) -/

/-- The hold word of an element, empty where none is listed. -/
def holdOf (s : State) (cid reg e : Nat) : HoldW := (s.holds.find? fun h => decide (h.cid = cid ∧ h.reg = reg ∧ h.elem = e)).getD { cid := cid, reg := reg, elem := e }

/-- The two words of a hold word (06 R107). -/
def holdWord0 (h : HoldW) : Nat := b2n h.w * 2 ^ 63 + h.readers % 2 ^ 15 * 2 ^ 48 + h.wchip % 1024 * 2 ^ 38 + h.wdie % 2 * 2 ^ 37 + h.widx % 4096 * 2 ^ 25
def holdWord1 (h : HoldW) : Nat :=
  match h.stake with
  | some (clk, chip, die, slot) => 2 ^ 63 + clk % 2 ^ 32 * 2 ^ 17 + chip % 1024 * 2 ^ 7 + die % 2 * 2 ^ 6 + slot % 64
  | none => 0

/-- The byte of a hold word at an address of this chip's HBM; none where no registration's hold words lie. -/
def holdByte (s : State) (pa : Nat) : Option Byte :=
  s.adjs.findSome? fun a =>
    let off := pa % 2 ^ 38 - a.hbase % 2 ^ 38
    let e := off / 16
    if pa % 2 ^ 38 < a.hbase % 2 ^ 38 ∨ e ≥ a.nelem ∨ paClass pa ≠ 0 ∨ ownerAt s a e ≠ (paChip pa, paDie pa) then none
    else
      let h := holdOf s a.cid a.num e
      some (BitVec.ofNat 8 ((if off % 16 < 8 then holdWord0 h else holdWord1 h) / 256 ^ (off % 8)))

/-- A load of w bytes by supervisor code, which may read the hold words (06 R107). -/
def supLoad (s : State) (pa : Nat) : Nat → Nat
  | 0 => 0
  | w + 1 => ((holdByte s pa).getD (rdByte s.mem pa)).toNat + 256 * supLoad s (pa + 1) w

/-- The operation of a packet performed on memory. -/
def memDo (s : State) (p : Packet) (bad : Bool) : State :=
  match p.body with
  | .load a w t =>
    let s := if bad then memPoisonAdd s a w else s
    respond s p 0x10 (.rdata t (wd (if agKind p.src = 5 then supLoad s a w else rdLE s.mem a w)) (memBad s a w))
  | .store a w v _ _ =>
    let s := memWrite s a (leBytes w v.toNat)
    if bad then memPoisonAdd s a w else s
  | .subStore a o z v _ =>
    let s := memWrite s a [subByte (rdByte s.mem a) o z v]
    if bad then memPoisonAdd s a 1 else s
  | .engWrite a v _ poison _ =>
    let s := memWrite s a (leBytes 8 v.toNat)
    if poison || bad then memPoisonAdd s a 8 else s
  | .engRead a t =>
    let s := if bad then memPoisonAdd s a 8 else s
    respond s p 0x10 (.rdata t (wd (rdLE s.mem a 8)) (memBad s a 8))
  | .amo a op w b x rm t =>
    let s := if bad then memPoisonAdd s a w else s
    let m := rdLE s.mem a w
    if memBad s a w then respond s p 0x11 (.rdata t (wd m) true)
    else respond (memWrite s a (leBytes w (amoNew op (8 * w) m b.toNat x.toNat (amoMode rm)))) p 0x11 (.amorsp t (wd m))
  | .hins a nw key data t =>
    let s := if bad then memPoisonAdd s a 8 else s
    if memBad s a 256 then respond s p 0x11 (.rdata t 0 true)
    else
      let (m, r) := hinsGo s.mem a nw key data 16 0
      respond (wakeAll { s with mem := m } false 0 (a + 16 * fld r 59 56) (if fld r 63 60 = 0 ∨ fld r 63 60 = 2 then 16 else 0) 1) p 0x11 (.amorsp t r)
  | .arm a v t =>
    if agChip p.src = s.chip then armAt s false 0 a (agCore p.src) t v
    else armAt s false 0 a (2 ^ 40 + p.src) t v (some p)
  | _ => s

/-- A packet applied at a slice: none while a full migration window holds it back. -/
def sliceApply (s : State) (p : Packet) : Option State :=
  let (a, n, wr) := bodySpan p.body
  let die := agDie p.dst
  let hold := if agKind p.src = 5 then none else migHeld s die a
  match hold with
  | some n =>
    let w := migOf s die n
    if w.held.length ≥ 512 then none else some (setMig s die n { w with held := w.held ++ [p] })
  | none =>
    let s := touchLines s a n p.unc
    let (b1, s) := inject s die p.cid 1
    let (b2, s) := if paClass a = 0 then inject s die p.cid 2 else (false, s)
    -- an uncached access of a CXL address meets the expander's poisoned answer itself (01 R14)
    let s := if p.unc && decide (paClass a = 1) && decide (a / 64 ∈ s.cxlPoison) then memPoisonAdd s (a / 64 * 64) 64 else s
    let s := memDo s p (b1 || b2 || p.bad)
    some (if wr then markApplied s p.src (bodyTok p.body) p.dst else s)

/-- A packet applied at a register block (04 R80). DESIGN CHOICE: bits 43:41 of an address's offset, of which 01 R26 says nothing, are ignored (log 51). -/
def regApply (s : State) (p : Packet) : State :=
  let off := fun (a : Nat) => a % 2 ^ 40
  let die := agDie p.dst
  match p.body with
  | .load a w t => let (v, s) := regRead s die (off a) w; respond s p 0x10 (.rdata t v false)
  | .store a w v _ t => markApplied (regWrite s die (off a) w v) p.src t p.dst
  | .subStore _ _ _ _ t => markApplied (count s die 3) p.src t p.dst
  | .engWrite a v _ _ t => markApplied (regWrite s die (off a) 8 v) p.src t p.dst
  | .engRead a t => let (v, s) := regRead s die (off a) 8; respond s p 0x10 (.rdata t v false)
  | .amo _ _ _ _ _ _ t => statusTo s p t 0x11
  | .hins _ _ _ _ t => statusTo s p t 0x11
  | .arm _ _ t => respond s p 0x10 (.rdata t 7 false)
  | _ => s

/-- A packet applied at the host home agent (03 R49, 16 R298). -/
def hostApply (s : State) (p : Packet) : State :=
  match p.body with
  | .amo _ op w _ _ _ t => if amoAllowed 2 op w then memDo s p false else statusTo s p t 0x11
  | .hins _ _ _ _ t => statusTo s p t 0x11
  | .arm _ _ t => respond s p 0x10 (.rdata t 7 false)
  | b => let s := memDo s p false; if (bodySpan b).2.2 then markApplied s p.src (bodyTok b) p.dst else s

/-- A packet from an agent that is no core to a rank: to its NI, or to the overflow store of the die that its entry names; one to an INVALID rank is
reported, or dropped and counted (05 R97). -/
def forwardTo (s : State) (src cid rank : Nat) (p : Packet) : State :=
  let e := rankEntry s cid rank
  match reState e with
  | 1 => emit s { p with src := src, dst := reAgent s e, slot := reSlot e }
  | 0 => if p.cls = 2 then failMsg s 0x42 cid p.inc rank 0 (hdrOf p.body) else count s (agDie src) 1
  | _ => emit s { p with src := src, dst := reChip e * 65536 + storeOf s (reDie e) % 65536, slot := reSlot e }

/-- A stream end whose handle a dropped message carried is dead: its peer is told, with a cause (10 R204, R205). -/
def handleDead (s : State) (at_ : Nat) (p : Packet) (cause : Nat) : State :=
  match p.body with
  | .handle h h0 h1 i0 _ i2 =>
    let kind := fld h1 0 0
    let n : StrmHdr := { sid := fld h0 63 32, scid := fld h1 47 36, seq := if kind = 0 then fld i0 31 0 else 0, typ := 4, ekind := 1 - kind,
                         sgen := (fld h0 7 0 + 1) % 256, pgen := fld i2 47 40, cause := cause, trank := fld i2 63 48, srank := h.trank }
    forwardTo s at_ (fld h0 31 20) (fld i2 63 48) { dst := 0, cls := 3, op := 0x0C, cid := fld h0 31 20, inc := fld h0 19 8, len := 1, body := .notice n }
  | _ => s

/-- A stale item dropped at an agent of this package (03 R61): counted at the agent and in the die. -/
def staleDrop (s : State) (p : Packet) : State :=
  let s := handleDead s p.dst p 1
  let s := if agIsCore p.dst then staleAt s (agCore p.dst) else count s (agDie p.dst) 0
  let t := max p.tok (bodyTok p.body)
  if agChip p.src ≠ s.chip then s
  else if p.cls = 0 then
    -- a returning operation that its home drops leaves no entry behind at its requester (03 R65, R67)
    if isEng t then engLost s t else if agIsCore p.src then updCore s (agCore p.src) fun k => { k with out := k.out.filter fun o => !decide (o.tok = t) } else s
  else markApplied s p.src t p.dst

/-- APPLY (09 R169, R170): the home applies the head of a channel of class REQ or STORE, or of a row channel, after the incarnation check of its admission and
execution points (03 R61). Fence markers, and what goes to schedulers, dispatchers and the overflow store, are steps of their own. -/
def execApplyStep (src dst cls : Nat) (s : State) : Out :=
  if cls > 1 ∧ cls ≠ rowCls then .next s
  else
    match chanQ s src dst cls with
    | [] => .next s
    | p :: _ =>
      match p.body with
      | .marker .. => .next s
      | .adjreg .. => .next s
      | .lock .. => .next s
      | _ =>
        let s' := chanPop s src dst cls
        if !incOk s dst p.cid p.inc then .next (staleDrop s' p)
        else if agIsCore dst then .next (niApply s' (agCore dst) p)
        else if agKind dst = 1 then (match sliceApply s' p with | some t => .next t | none => .next s)
        else if agKind dst = 7 ∧ agIdx dst = 1 then .next (hostApply s' p)
        else if agKind dst = 7 ∧ agIdx dst = 2 then .next (regApply s' p)
        else .next s

/-! ### RETURN (09 R169; 12 R223; 16 R293, R301) -/

/-- A register that waits for a token receives its value, on the core and on the other copy of a paired activation (12 R223, 04 R71). -/
def deliver (s : State) (c tok : Nat) (v : Word) : State :=
  let one := fun (s : State) (c tok : Nat) => updCore s c fun k =>
    match k.pendx.find? fun p => decide (p.2 = tok) with
    | some (r, _) => wx { k with pendx := k.pendx.filter fun p => !decide (p.2 = tok) } (rg5 r) v
    | none => k
  let t := (coreOf s c).twin
  let s := one s c tok
  match t with | some d => one s d (twinTok tok) | none => s

/-- An answer for a token: the outstanding entry completes, and the register is written; a poisoned one is consumed and seals the core
(04 R69, R70). An answer whose activation has ended is dropped (09 R184). -/
def answerTo (s : State) (c tok : Nat) (v : Word) (poison : Bool) : State :=
  let k := coreOf s c
  match k.out.find? fun o => decide (o.tok = tok) with
  | none => deliver s c tok v
  | some o =>
    let s := setCore s c { k with out := k.out.filter fun o => !decide (o.tok = tok) }
    if !o.live then s
    else
      match o.kind with
      | .arm => updCore s c fun k => if k.wait = .armed tok then { k with wait := .woke v.toNat } else k
      | .rowWord w => updCore s c fun k => { k with vgot := mput k.vgot w (v, poison) }
      | .load w sx => if poison then sealCore s c else deliver s c tok (if sx then wdI (signedN (8 * w) v.toNat) else wd (v.toNat % 2 ^ (8 * w)))
      | .amo w => if poison then sealCore s c else deliver s c tok (wd (v.toNat % 2 ^ (8 * w)))
      | _ => if poison then sealCore s c else deliver s c tok v

/-- The trap and TRAPADDR of a STATUS: NOCTX is a consumed uncorrectable error (02 R34). -/
def statusCause (cause : Nat) : Nat := if cause = 0x4B then 0x25 else cause

/-- A STATUS for a token: a waiting operation of the running activation ends in that trap; a refused effect is reported under 16 R293. -/
def statusAt (s : State) (c : Nat) (p : Packet) (tok cause0 : Nat) : State :=
  let cause := statusCause cause0
  let k := coreOf s c
  match k.unack.find? fun u => decide (u.tok = tok) with
  | some u =>
    let s := setCore s c { k with unack := k.unack.erase u, out := k.out.filter fun o => !decide (o.tok = tok ∧ o.kind = .stg) }
    refuseStore s c cause u.msgid p.cid p.inc u.by_.1 u.by_.2.1 (wd u.g) u.by_.2.2
  | none =>
    match k.out.find? fun o => decide (o.tok = tok) with
    | none => s
    | some o =>
      let s := setCore s c { k with out := k.out.filter fun o => !decide (o.tok = tok) }
      -- the word was empty: LD.F or FEC asks again
      if o.kind = .fe ∧ cause = 0 then
        updCore s c fun k => { k with pendx := k.pendx.filter fun p => !decide (p.2 = tok), wait := if k.wait = .ret tok then .idle else k.wait }
      else if o.live then oweTrap s c cause (if cause = 0x26 ∨ cause = 0x27 ∨ cause = 0x11 then some (wd o.g) else none) else s

/-- FENCEACK for a token (02 R39): the marker's entry completes, and with it the stores to that die (09 R175); CNTMISS is owed, its record naming the target die. -/
def fenceackAt (s : State) (c tok cause : Nat) : State :=
  let k := coreOf s c
  match k.out.find? fun o => decide (o.tok = tok) with
  | none => s
  | some o =>
    let there := fun (u : UnE) => decide (u.w ≠ 0 ∧ agChip u.target * 2 + agDie u.target = o.g ∧ u.target ≠ 0)
    let s := setCore s c { k with out := k.out.filter fun o => !decide (o.tok = tok)
                                  unack := k.unack.map fun u => if there u then { u with applied := true } else u }
    if o.live && decide (cause = 0x2A) then oweTrap s c 0x2A (some (wd o.g)) else s

/-- RETURN: the head of the response channel from an agent to a core's NI, past its incarnation check (03 R61, R67). -/
def execReturnStep (src core : Nat) (s : State) : Out :=
  let dst := niOf s core
  match chanQ s src dst 4 with
  | [] => .next s
  | p :: _ =>
    let s' := chanPop s src dst 4
    if !incOk s dst p.cid p.inc then
      let t := match p.body with | .rdata t _ _ => t | .amorsp t _ => t | .status t _ => t | .fenceack t _ => t | _ => 0
      .next (updCore (staleAt s' core) core fun k => { k with out := k.out.filter fun o => !decide (o.tok = t) })
    else
      match p.body with
      | .rdata t v poison => .next (answerTo s' core t v poison)
      | .amorsp t v => .next (answerTo s' core t v false)
      | .status t cause => .next (statusAt s' core p t cause)
      | .fenceack .. => .next s
      | _ => .next s'

/-- FENCEACK_RECEIVE (02 R39). -/
def execFenceackReceive (src core : Nat) (s : State) : Out :=
  let dst := niOf s core
  match chanQ s src dst 4 with
  | [] => .next s
  | p :: _ =>
    match p.body with
    | .fenceack t cause =>
      let s' := chanPop s src dst 4
      .next (if incOk s dst p.cid p.inc then fenceackAt s' core t cause
             else updCore (staleAt s' core) core fun k => { k with out := k.out.filter fun o => !decide (o.tok = t) })
    | _ => .next s

/-! ### Lines, wakes and the patrol scrub (08 R149, 09 R182, 04 R68) -/

/-- LINE_EVICT: a slice gives up a line. -/
def execLineEvict (addr : Nat) (s : State) : Out := .next (evict s addr)

/-- SPURIOUS_WAKE (09 R182). -/
def execSpuriousWake (core : Nat) (s : State) : Out := .next (wakeCore s core 6)

/-- PATROL_SCRUB of a line: what it finds is not stated, and is free (log 33): nothing, an error corrected and counted, or an uncorrectable one,
which poisons the line and is counted. -/
def execPatrolScrub (addr : Nat) (s : State) : Out :=
  if paClass addr ≥ 2 ∨ paChip addr ≠ s.chip ∨ populated s addr = false then .next s
  else
    let (f, s) := drawFree s
    match fld (Config.freeWord f) 1 0 with
    | 1 => .next (count s (paDie addr) 4)
    | 2 => .next (count (memPoisonAdd s (addr / 64 * 64) 64) (paDie addr) 5)
    | _ => .next s

end Sys2Proof.Machine
end

