-- ==== Sys2Proof/Machine/Landing.lean ====
section
/-! DEFINITION. Arrivals at the NIs (07 R126, R389; 10 R185, R193 to R207), the overflow store (05 R99), rank invalidations (05 R96 to R98), and
the barrier trees (07 R143). -/

namespace Sys2Proof.Machine

/-! ### Messages (07 R126) -/

/-- A core that a landed message has made consume poison is sealed (04 R69, R70). -/
def sealLanded (c : Nat) (r : Bool × State) : State := if r.1 && !(coreOf r.2 c).sealed_ then sealCore r.2 c else r.2

/-- A message packet applied at an NI: dropped for a malformed header, a handle's record created, or landed. A payload that lands poisoned is consumed, and
the core is sealed (04 R69, R70). -/
def msgAt (s : State) (c : Nat) (p : Packet) : State :=
  let h := hdrOf p.body
  if badHdr h (payOf p.body).length then count s (dieOf c) 2
  else
    match p.body with
    | .handle .. => sealLanded c (landHandle s c p.slot p)
    | _ => sealLanded c (landAt s c p.slot p)

/-- MESSAGE_LAND: the head of the message channel from an agent to a core's NI. -/
def execMessageLand (src core : Nat) (s : State) : Out :=
  let dst := niOf s core
  match chanQ s src dst 2 with
  | [] => .next s
  | p :: _ =>
    let s' := chanPop s src dst 2
    if !incOk s dst p.cid p.inc then .next (staleDrop s' p)
    else .next (markApplied (msgAt s' core p) src p.tok dst)

/-! ### Stream packets (10 R195) -/

/-- TYPE of a notice, 0 for an item or word. -/
def noticeTyp (p : Packet) : Nat := if p.op = 0x0C then (strmHdr p.body).typ else 0

/-- ORPHAN, RETIRE and BOUNCE are exempt from the incarnation check (03 R61). -/
def incExempt (p : Packet) : Bool := decide (p.cls = 3) && (decide (noticeTyp p = 4) || decide (noticeTyp p = 6) || decide (noticeTyp p = 7))

/-- The head of the stream channel from an agent to a core's NI applied, where it is of the kind asked for. A packet whose slot holds no
resident, and whose record the NI does not hold, has no record (10 R203). -/
def strmArrive (s : State) (src core : Nat) (want : Packet → Bool) : Out :=
  let dst := niOf s core
  match chanQ s src dst 3 with
  | [] => .next s
  | p :: _ =>
    if !want p then .next s
    else
      let s' := chanPop s src dst 3
      if !incExempt p && !incOk s dst p.cid p.inc then .next (staleDrop s' p)
      else .next (markApplied (strmAt s' core p) src p.tok dst)

/-- Items, and notices of no TYPE, which are dropped and counted (10 R195). -/
def execStreamItemArrive (src core : Nat) (s : State) : Out :=
  strmArrive s src core fun p => decide (p.op = 0x0A) || (decide (p.op = 0x0C) && (decide (noticeTyp p = 0) || decide (noticeTyp p > 7)))
def execStreamEosArrive (src core : Nat) (s : State) : Out := strmArrive s src core fun p => decide (p.op = 0x0B)
def execCreditArrive (src core : Nat) (s : State) : Out := strmArrive s src core fun p => decide (noticeTyp p = 3)
def execRerouteArrive (src core : Nat) (s : State) : Out := strmArrive s src core fun p => decide (noticeTyp p = 1)
def execReackArrive (src core : Nat) (s : State) : Out := strmArrive s src core fun p => decide (noticeTyp p = 2)
def execOrphanArrive (src core : Nat) (s : State) : Out := strmArrive s src core fun p => decide (noticeTyp p = 4)
def execFinackArrive (src core : Nat) (s : State) : Out := strmArrive s src core fun p => decide (noticeTyp p = 5)
def execRetireArrive (src core : Nat) (s : State) : Out := strmArrive s src core fun p => decide (noticeTyp p = 6)
def execBounceArrive (src core : Nat) (s : State) : Out := strmArrive s src core fun p => decide (noticeTyp p = 7)

/-- An end whose peer is dead takes it as an ORPHAN notice of CAUSE UCE (10 R204 to R207). -/
def peerDead (s : State) (c : Nat) (e : EndRec) : State :=
  let h : StrmHdr := { sid := e.sid, scid := e.scid, typ := 4, ekind := e.kind, sgen := e.peerGen, pgen := e.gen, cause := 2, trank := e.res.2, srank := e.peerRank }
  strmAt s c { src := niOf s c, dst := niOf s c, cls := 3, op := 0x0C, cid := e.ocid, inc := e.oinc, slot := e.slot, len := 1, body := .notice h }

/-- Every end whose peer lies on a chip, or is parked in that chip's overflow store, is dead on that side (10 R204, R205). -/
def peersDead (s : State) (chip : Nat) : State :=
  s.cores.foldl (fun s kv =>
    ((coreOf s kv.1).ends.filter fun e =>
        decide (e.state ≠ 7) && (let r := rankEntry s e.ocid e.peerRank; decide (reState r = 1 ∨ reState r = 3) && decide (reChip r = chip))).foldl
      (fun s e => peerDead s kv.1 e) s) s

/-- UNREACHABLE_DECLARATION_RECEIVE (10 R204): a chip has declared its pair with this one unreachable. -/
def execUnreachableDeclarationReceive (chip : Nat) (s : State) : Out := .next (peersDead s chip)

/-! ### The overflow store (05 R99, 10 R201, R203) -/

/-- The core and slot of this package that hold a resident. -/
def whereIs (s : State) (cid rank : Nat) : Option (Nat × Nat) :=
  s.cores.findSome? fun kv =>
    ((List.range 4).find? fun i => decide (((slotOf kv.2 i).resident.map fun r => (r.cid, r.rank)) = some (cid, rank))).map fun i => (kv.1, i)

/-- A sender whose flush still waits takes OVFL for a message that could not be parked (05 R99). -/
def ovflSender (s : State) (p : Packet) : State :=
  if agChip p.src = s.chip ∧ agIsCore p.src = true then
    let c := agCore p.src
    let k := coreOf s c
    if k.flush.isSome ∧ (k.unack.any fun u => decide (u.tok = p.tok ∧ u.msgid = actMsg k)) = true then oweTrap s c 0x29 none else s
  else s

/-- A stream packet that could not be parked is lost (10 R201). -/
def lostItems (s : State) (p : Packet) : State :=
  let h := strmHdr p.body
  let (f, s) := drawFree s
  markLost (failRec s { cause := 0x29, kind := 1, inc := p.inc, cid := p.cid, rank := h.trank, detail := Config.freeWord f }) p

/-- The rank that a packet is for. -/
def packetRank (p : Packet) : Nat := if p.cls = 3 then (strmHdr p.body).trank else (hdrOf p.body).trank

/-- OVERFLOW_PARK: the head of a channel to a die's store parks; the first message of a resident raises the scheduler trap, one until the
resident is VALID again. Messages are taken before stream packets where both wait. -/
def execOverflowPark (src die : Nat) (s : State) : Out :=
  let dst := storeOf s die
  let cls := if (chanQ s src dst 2).isEmpty then 3 else 2
  match chanQ s src dst cls with
  | [] => .next s
  | p :: _ =>
    let s' := chanPop s src dst cls
    if !incExempt p && !incOk s dst p.cid p.inc then .next (staleDrop s' p)
    else
      let rank := packetRank p
      match ovPut s' die p.cid rank p false with
      | none =>
        let s' := if p.cls = 3 then lostItems s' p else ovflSender (failMsg s' 0x29 p.cid p.inc rank 0 (hdrOf p.body)) p
        .next (markApplied s' src p.tok dst)
      | some s' =>
        let o := (ovOf s' die p.cid rank).getD { cid := p.cid, rank := rank }
        let s' :=
          if o.trapped || decide (p.cls = 3) then s'
          else schedTrap (setOv s' die { o with trapped := true }) die dst p.cid p.inc [wd p.cid, wd p.inc, wd rank, 3]
        .next (markApplied s' src p.tok dst)

/-- Whether a stream packet of a list can be applied at an NI now: a record for it is there, with a ring where it needs one. -/
def strmReady (k : Core) (p : Packet) : Bool :=
  let h := strmHdr p.body
  match recFor k (h.scid, h.sid, h.ekind) h.pgen with
  | some e => !unringed e
  | none => false

/-- The first item of a list that can go to the resident at a core and slot, with the list without it. -/
def nextDrain (k : Core) (slot : Nat) : List (Packet × Nat) → Option ((Packet × Nat) × List (Packet × Nat))
  | [] => none
  | x :: xs =>
    if x.1.cls = 2 then
      let h := hdrOf x.1.body
      let ok := decide ((queueOf (slotOf k slot) h.queue).msgs.length < 256) && (landPlace k slot (payOf x.1.body).length).isSome &&
                (match x.1.body with | .handle .. => decide (freeRecs k ≠ 0) | _ => true)
      if ok then some (x, xs)
      else ((xs.find? fun y => decide (y.1.cls = 3) && strmReady k y.1)).map fun y => (y, x :: xs.erase y)
    else if strmReady k x.1 then some (x, xs)
    else (nextDrain k slot xs).map fun r => (r.1, x :: r.2)

/-- A message drained into its queue, behind what is there; a handle's record is created now (10 R199). One that lands poisoned seals the core (04 R69). -/
def drainMsg (s : State) (c slot : Nat) (r : Resident) (p : Packet) : State :=
  let h := hdrOf p.body
  let put := fun (s : State) (h : MsgHdr) (pay : List Byte) (poison : Bool) =>
    match landPlace (coreOf s c) slot pay.length with
    | some a => sealLanded c (landNow s c slot a p h pay (p.bad || poison))
    | none => s
  match p.body with
  | .handle h h0 h1 i0 i1 i2 =>
    let e := recordOf slot r.cid r.inc r.rank h0 h1 i0 i1 i2
    let s := addEnd s c e
    let (n0, n1) := handleWords e r.rank
    let s := put s { h with mkind := 2 } (wordsBytes [n0, n1]) false
    if e.kind = 0 then replayEnd s c e else s
  | .msg _ pay poison => put s h pay poison
  | b => put s h (payOf b) false

/-- What stays in a list when an item leaves it: stream packets that came behind a handle message count their time from its application (10 R203). -/
def afterDrained (now : Nat) (p : Packet) (items rest : List (Packet × Nat)) : List (Packet × Nat) :=
  match p.body with
  | .handle .. =>
    let n := (items.takeWhile fun x => !decide (x.1 = p)).length
    rest.take n ++ (rest.drop n).map fun x => if x.1.cls = 3 then (x.1, now) else x
  | _ => rest

/-- OVERFLOW_DRAIN: one item of a resident's list goes to the core that holds the resident (05 R99, 07 R126). -/
def execOverflowDrain (die cid rank : Nat) (s : State) : Out :=
  match ovOf s die cid rank, whereIs s cid rank with
  | some o, some (c, slot) =>
    match nextDrain (coreOf s c) slot o.items, (slotOf (coreOf s c) slot).resident with
    | some ((p, _), rest), some r =>
      let s' := ovFree (setOv s die { o with items := afterDrained s.now p o.items rest }) die cid p
      if !incExempt p && !incOk s (storeOf s die) p.cid p.inc then .next (handleDead (count s' die 0) (storeOf s die) p 1)
      else if p.cls = 3 then .next (strmAt s' c { p with slot := slot })
      else .next (drainMsg s' c slot r p)
    | _, _ => .next s
  | _, _ => .next s

/-- STRMWAIT in cycles: 1 ms. -/
def strmWait : Nat := 1600000

/-- STRMWAIT_EXPIRE (10 R203): a stream packet held at an NI for 1 ms, with no handle message held before it, has no record. -/
def execStrmwaitExpire (die cid rank : Nat) (s : State) : Out :=
  match ovOf s die cid rank, whereIs s cid rank with
  | some o, some (c, _) =>
    let open_ := o.items.takeWhile fun x => match x.1.body with | .handle .. => false | _ => true
    match open_.find? fun x => decide (x.1.cls = 3) && decide (s.now - x.2 ≥ strmWait) &&
        (let h := strmHdr x.1.body; (endRec (coreOf s c) (h.scid, h.sid, h.ekind)).isNone) with
    | some x => .next (noRecord (ovFree (setOv s die { o with items := o.items.erase x }) die cid x.1) c x.1)
    | none => .next s
  | _, _ => .next s

/-! ### Rank invalidations (05 R96 to R98) -/

/-- Packets held in a transit buffer for a rank go out in order under the entry's new state; those that must still wait stay. -/
def resend (c cid rank : Nat) : List Packet → State → State
  | [], s => s
  | p :: ps, s =>
    let keep := updCore s c fun k => { k with transit := k.transit ++ [p] }
    if p.cid = cid ∧ p.dst = rank then
      let e := (resolve s c cid rank).1
      if reState e = 2 then resend c cid rank ps keep
      else
        let s := sendRank' s c cid rank p
        let target := if reState e = 1 then reAgent s e else reChip e * 65536 + storeOf s (reDie e) % 65536
        resend c cid rank ps (updCore s c fun k =>
          { k with unack := k.unack.map fun u => if u.tok = p.tok ∧ u.target = 0 ∧ u.rank = some (cid, rank) then { u with target := target, applied := u.applied || decide (reState e = 0) } else u })
    else resend c cid rank ps keep

/-- RANK_INVALIDATE (05 R96, R98): a RANKSET's invalidation reaches an NI, which forgets its copy and notes the acknowledgement it owes. -/
def execRankInvalidate (core cid rank : Nat) (s : State) : Out :=
  match s.ops.find? fun o => decide (o.kind = 3 ∧ o.cid = cid ∧ o.arg = rank ∧ core ∈ o.todo) with
  | none => .next s
  | some o =>
    let s := { s with ops := s.ops.map fun x => if x.tok = o.tok then { x with todo := x.todo.erase core } else x }
    let k := coreOf s core
    let held := k.transit
    let s := setCore s core { k with rcache := k.rcache.filter fun e => !decide (e.cid = cid ∧ e.rank = rank), transit := [],
                                     invq := k.invq ++ [(cid, rank)] }
    .next (resend core cid rank held s)

/-- Whether a message to a rank from a scheduler or dispatcher of this package, or one that has come from another chip, is still on its way. -/
def agentMsg (s : State) (cid rank : Nat) : Bool :=
  s.chans.any fun h => decide (h.cls = 2) && (decide (6 ≤ agKind h.src) || decide (agChip h.src ≠ s.chip)) && h.q.any fun p => decide (p.cid = cid ∧ (hdrOf p.body).trank = rank)

/-- RANK_INVALIDATE_ACK (05 R98): once every message that the NI sent to the rank before the invalidation has landed or been parked. -/
def execRankInvalidateAck (core cid rank : Nat) (s : State) : Out :=
  let k := coreOf s core
  let e := rankEntry s cid rank
  let old := k.unack.any fun u => decide ((u.rank = some (cid, rank) ∨ (u.own.1 = cid ∧ rank ∈ u.ranks)) ∧ u.applied = false ∧ u.target ≠ 0) && !decide (reState e = 1 ∧ u.target = reAgent s e)
  if !decide ((cid, rank) ∈ k.invq) || old || agentMsg s cid rank then .next s
  else
    let s := setCore s core { k with invq := k.invq.erase (cid, rank) }
    match s.ops.find? fun o => decide (o.kind = 3 ∧ o.cid = cid ∧ o.arg = rank) with
    | none => .next s
    | some o => .next (opSettle (updOp s o.tok fun x => { x with left := x.left.erase core }) o.tok)

/-! ### Barriers (07 R143) -/

/-- BARRIER_ARRIVE: an arrival reaches the barrier; one for the next phase waits until the phase advances. -/
def execBarrierArrive (core gid : Nat) (s : State) : Out :=
  .next { s with gangs := s.gangs.map fun g =>
    if g.gid = gid ∧ core ∈ g.again ∧ core ∉ g.arrived then { g with again := g.again.erase core, arrived := g.arrived ++ [core] } else g }

/-- BARRIER_ADVANCE: every present member has arrived; the phase rises by 1 modulo 2^16 and the arrivals clear. -/
def execBarrierAdvance (gid : Nat) (s : State) : Out :=
  .next { s with gangs := s.gangs.map fun g =>
    if g.gid = gid ∧ g.arrived ≠ [] ∧ (g.present.all fun c => decide (c ∈ g.arrived)) = true then { g with ph := (g.ph + 1) % 2 ^ 16, arrived := [] } else g }

end Sys2Proof.Machine
end

