-- ==== Sys2Proof/Machine/Supervisor.lean ====
section
/-! DEFINITION. The supervisor instructions (15 R276 to R287): contexts, translation, ranks, residents and HALT. -/

namespace Sys2Proof.Machine

/-! ### Common rules (15 R276) -/

/-- What a supervisor instruction comes to when it acts: a status now, a wait for the acknowledgements of an operation, or a wait for the machine
to change, after which it acts again. -/
inductive SupR where
  | now (s : State) (status : Nat)
  | later (s : State) (tok : Nat)
  | again (s : State)

/-- A supervisor instruction (15 R276): PRIV off a supervisor core; RESTART cleared; the outstanding table empty; then it acts, and the issue point
advances when its status is written. -/
def supervise (s : State) (rd : Reg) (act : State → SupR) : Out :=
  let k := cc s
  if !isSup s.cur then trap s 0x27 none
  else
    match k.wait with
    | .sup _ => .next s
    | .supDone st => .next (setCC s (advance (wx { k with wait := .idle } rd (wd st))))
    | _ =>
      let s := setCC s (clearRestart k 5)
      if !k.out.isEmpty then .next s
      else
        match act s with
        | .now s st => writeX s rd (wd st)
        | .later s tok => .next (setCC s { cc s with wait := .sup tok })
        | .again s => .next s

/-! ### CTX.KILL and CTX.RECL (03 R61 to R65; 15 R277, R278) -/

/-- A kill or a reclaim put to the context's home chip, whose table serialises it (03 R62, R65): management 20 or 22, with the token of the wait. -/
def askHome (s : State) (cid code : Nat) : SupR :=
  let home := homeChip s cid
  let o : Op := { tok := s.opNext, kind := 6, core := s.cur, cid := cid, left := [chipCode home] }
  .later (mgmtTo { s with ops := s.ops ++ [o], opNext := s.opNext + 1 } home cid 0x21 (.mgmt code o.tok)) o.tok

def execCtxKill (rd ra : Reg) (s : State) : Out :=
  supervise s rd fun s =>
    let v := (rx (cc s) ra).toNat
    if v ≥ 4096 ∨ (cc s).act.any (fun a => decide (a.cid = v)) = true then .now s 0x66
    else if ctxFree (ctxOf s v) then .now s 0x4B
    else if homeChip s v ≠ s.chip then askHome s v 20
    else if killing s v then .again s
    else if ctxUnrec (ctxOf s v) = 7 then .now s 1
    else
      let (tok, s) := startKill s s.cur v 0 false none
      .later s tok

def execCtxRecl (rd ra : Reg) (s : State) : Out :=
  supervise s rd fun s =>
    let v := (rx (cc s) ra).toNat
    let x := ctxOf s v
    if v ≥ 4096 then .now s 0x66
    else if ctxFree x then .now s 0x4B
    else if homeChip s v ≠ s.chip then askHome s v 22
    else if ctxUnrec x = 0 then .now s 0
    else
      let (tok, s) := startRecl s s.cur v none
      .later s tok

/-! ### TLBINV (08 R162; 15 R279) -/

/-- The RTUs of both dies, as die x 128 + RTU. -/
def allRtus : List Nat := (List.range 82) ++ (List.range 82).map (· + 128)

/-- The operand checks of TLBINV: the base and the control word. -/
def tlbinvOk (base ctl : Word) : Bool :=
  let st2 := bit ctl 62
  let top := if st2 then 2 ^ 56 else 2 ^ 57
  decide (fld base 14 0 = 0) && decide (fld ctl 61 60 = 0) && decide (fld ctl 41 32 = 0) &&
  (if st2 then decide (fld ctl 59 48 = 0) else decide (fld ctl 47 42 = 0)) && decide (fld ctl 47 42 ≤ 39) &&
  (decide (fld ctl 31 0 = 0) || decide (base.toNat + fld ctl 31 0 * 2 ^ 15 ≤ top))

def execTlbinv (rd ra rb : Reg) (s : State) : Out :=
  supervise s rd fun s =>
    let base := rx (cc s) ra
    let ctl := rx (cc s) rb
    let cid := fld ctl 59 48
    if tlbinvOk base ctl = false then .now s 0x66
    else if bit ctl 62 = false ∧ ctxFree (ctxOf s cid) = true then .now s 0x4B
    else
      let others := if bit ctl 62 then [] else spanOthers s cid
      let o : Op := { tok := s.opNext, kind := 2, core := s.cur, cid := cid, arg := base.toNat, arg2 := ctl.toNat, left := allRtus ++ others.map chipCode,
                      todo := allRtus }
      let s := { s with ops := s.ops ++ [o], opNext := s.opNext + 1 }
      .later (others.foldl (fun s c => mgmtTo s c cid 0x21 (.mgmt 5 (o.tok + 2 ^ 32 * (base.toNat + 2 ^ 64 * ctl.toNat)))) s) o.tok

/-! ### RANKSET (05 R96 to R98; 15 R280) -/

/-- The transitions that RANKSET accepts. -/
def rankMove (old new : Nat) : Bool :=
  match old with
  | 0 => decide (new ≠ 0)
  | 1 => decide (new = 2) || decide (new = 0)
  | 2 => true
  | _ => decide (new = 2) || decide (new = 0)

/-- A rank entry written, and its invalidation begun; an entry that becomes VALID lets the store raise a trap again (05 R99). -/
def setRank (s : State) (cid rank : Nat) (e : Word) : State :=
  let s := { s with ranks := mput s.ranks (cid * 65536 + rank) e }
  if reState e = 1 then
    let clear := fun (s : State) (d : Nat) => match ovOf s d cid rank with | some o => setOv s d { o with trapped := false } | none => s
    clear (clear s 0) 1
  else s

def execRankset (rd ra rb : Reg) (s : State) : Out :=
  supervise s rd fun s =>
    let v := (rx (cc s) ra).toNat
    let e := rx (cc s) rb
    let cid := v / 65536
    let rank := v % 65536
    if v ≥ 2 ^ 28 ∨ fld e 38 0 ≠ 0 ∨ fld e 50 41 ≥ 648 ∨ rankMove (reState (rankEntry s cid rank)) (reState e) = false then .now s 0x66
    else if ctxFree (ctxOf s cid) then .now s 0x4B
    else if (reState e = 1 ∧ reChip e = s.chip ∧ coreUsable s (reCore e) (ctxPart (ctxOf s cid)) = false) ∨ reChip e ∉ spanOf s cid then .now s 0x65
    else
      let others := spanOthers s cid
      let o : Op := { tok := s.opNext, kind := 3, core := s.cur, cid := cid, arg := rank, arg2 := e.toNat, left := allCores ++ others.map chipCode, todo := allCores }
      let s := setRank { s with ops := s.ops ++ [o], opNext := s.opNext + 1 } cid rank e
      .later (others.foldl (fun s c => mgmtTo s c cid 0x21 (.mgmt 3 (o.tok + 2 ^ 32 * (rank + 65536 * e.toNat)))) s) o.tok

/-! ### Slots and their save areas (15 R281, R282) -/

/-- A slot with nothing running on it, behind it or for it (05 R100, 15 R282). -/
def quiescent (k : Core) (slot : Nat) : Bool :=
  k.act.all (fun a => decide (a.slot ≠ slot)) && k.succ.all (fun a => decide (a.slot ≠ slot)) && k.gates.all (fun g => decide (g.2.1 ≠ slot)) &&
  k.run.all (fun r => decide (r.cmd.slot ≠ slot)) && k.loop.all fun l => decide (l.slot ≠ slot)

/-- Bytes filled up with zeros to a multiple of 64. -/
def pad64 (bs : List Byte) : List Byte := bs ++ List.replicate (roundUp bs.length 64 - bs.length) 0

/-- The 32-byte header of a message (10 R185), X7 and X8 of a dispatcher task (06 R113), and in the word behind them, before the next multiple of 64,
its abort count and the SCID of an ended stream's end (log 41). -/
def hdrBytes (m : QMsg) : List Byte :=
  let h := m.hdr
  wordsBytes ([wd h.msgid, wd (h.job % 2 ^ 32 * 2 ^ 32 + h.kernel % 2 ^ 32),
    wd (h.trank % 2 ^ 16 * 2 ^ 48 + h.srank % 2 ^ 16 * 2 ^ 32 + h.tag % 2 ^ 16 * 2 ^ 16 + h.handler % 64 * 2 ^ 10 + h.queue % 4 * 2 ^ 8 + h.prio % 8 * 2 ^ 5 + h.mkind % 32),
    wd (h.x6 % 2 ^ 32 * 2 ^ 32 + m.len % 4096)] ++
    (if h.mkind = 5 then [wd h.x7, wd h.x8] else [0, 0]) ++ [wd (m.aborts % 4 + 4 * (match m.eosEnd with | some (scid, _) => scid % 4096 | none => 0))])

/-- A header read back, with its payload length. -/
def hdrRead (w : List Word) : MsgHdr × Nat :=
  let g := fun i => w.getD i 0
  ({ msgid := (g 0).toNat, job := fld (g 1) 63 32, kernel := fld (g 1) 31 0, trank := fld (g 2) 63 48, srank := fld (g 2) 47 32, tag := fld (g 2) 31 16,
     handler := fld (g 2) 15 10, queue := fld (g 2) 9 8, prio := fld (g 2) 7 5, mkind := fld (g 2) 4 0, x6 := fld (g 3) 63 32,
     x7 := if fld (g 2) 4 0 = 5 then (g 4).toNat else 0, x8 := if fld (g 2) 4 0 = 5 then (g 5).toNat else 0 }, fld (g 3) 11 0)

/-- The regions P0 to P3 that a slot declares, and CODE: base and bytes, with the words of each. -/
def slotSpans (t : Slot) : List (Nat × Nat) :=
  (((t.rg.toList.drop 3).filter rgV) ++ [rgOf t 0]).map fun r => (rgBase r, if rgV r then rgSize r else 0)

/-- The full/empty bits of a range, packed 64 to a word. -/
def feWords (k : Core) (base n : Nat) : List Nat := (List.range (n / 8)).map fun i => b2n (decide (base / 8 + i ∈ k.fe))

/-- Bits packed from bit 0 of each 64-bit word. -/
def packBits : Nat → List Nat → List Word
  | 0, _ => []
  | n + 1, bs => if bs = [] then [] else wd ((bs.take 64).zipIdx.map fun p => p.1 * 2 ^ p.2).sum :: packBits n (bs.drop 64)

/-- A piece of a save area: its bytes, and the LM range whose poison goes with it. -/
abbrev Piece := List Byte × Option (Nat × Nat)

/-- The pieces of a save area behind its header, in order (15 R281; the layout inside a section is log 41's). -/
def savePieces (k : Core) (slot : Nat) : List Piece :=
  let t := slotOf k slot
  let plain := fun (ws : List Word) => ((pad64 (wordsBytes ws), none) : Piece)
  let raw := fun (b n : Nat) => ((pad64 (rdBytes k.lm b n), some (b, n)) : Piece)
  let ps := (t.rg.toList.drop 3).filter rgV
  [plain t.rg.toList, plain [t.xb, t.trapvec], plain t.mb.toList,
   (pad64 ((List.range 64).flatMap fun i => leBytes 4 (mgetD t.handlers i 0).toNat), none)] ++
  ((List.range 4).flatMap fun q =>
    plain [wd (queueOf t q).msgs.length] :: (queueOf t q).msgs.flatMap fun m => [(pad64 (hdrBytes m), none), raw m.addr m.len]) ++
  (ps.map fun r => raw (rgBase r) (rgSize r)) ++
  [plain (packBits 8192 (ps.flatMap fun r => feWords k (rgBase r) (rgSize r)))] ++
  [raw (rgBase (rgOf t 0)) (if rgV (rgOf t 0) then rgSize (rgOf t 0) else 0)]

/-- The header of a save area, with its TAG word as given (15 R281). -/
def saveHdr (s : State) (c slot : Nat) (r : Resident) (len boot : Nat) (tag : Word) : List Byte :=
  wordsBytes [wd (0x534C4F54 * 2 ^ 32 + 1), wd (r.cid % 4096 * 2 ^ 28 + r.inc % 4096 * 2 ^ 16 + r.rank % 65536), wd len,
    wd (s.chip % 1024 * 2 ^ 52 + dieOf c % 2 * 2 ^ 51 + agentOf c % 1024 * 2 ^ 41 + slot % 4 * 2 ^ 39), wd boot, tag, 0, 0]

/-- The tag of an area, whose TAG word reads as zero (04 R73): the key is derived from the root secret, the CID and the boot count. -/
def saveTag (s : State) (cid boot : Nat) (area : List Byte) : Word :=
  wd (leNat ((Config.tagOf (Config.kdf (Config.kdf s.flash.puf 0 ++ leBytes 2 cid ++ leBytes 8 boot) 4) area).take 8))

/-- Pieces written at a physical address, with their poison. -/
def putPieces : Nat → List Piece → Core → State → State
  | _, [], _, s => s
  | pa, (bs, src) :: ps, k, s =>
    let s := memWrite s pa bs
    let s := match src with
      | some (b, n) => (touchWords b n).foldl (fun s w => if w ∈ k.poison then memPoisonAdd s (pa + (w * 8 - b)) 8 else s) s
      | none => s
    putPieces (pa + bs.length) ps k s

/-- The bytes of an area of a slot, header included, and its length. -/
def saveLen (ps : List Piece) : Nat := 64 + (ps.map (·.1.length)).sum

/-- A slot's area written at a physical address and tagged. -/
def saveArea (s : State) (c slot pa : Nat) (r : Resident) : State :=
  let k := coreOf s c
  let ps := savePieces k slot
  let n := saveLen ps
  let boot := s.boot.count
  let tag := saveTag s r.cid boot (saveHdr s c slot r n boot 0 ++ ps.flatMap (·.1))
  putPieces (pa + 64) ps k (memWrite s pa (saveHdr s c slot r n boot tag))

/-- The slot freed by a save: its resident, region registers, handler table and queues (15 R283). -/
def freeSaved (t : Slot) : Slot :=
  { t with resident := none, rg := Vector.replicate 7 0, handlers := [], queues := Vector.replicate 4 {} }

/-- Whether a physical address can hold a save area (15 R281, R283). -/
def areaOk (s : State) (w : Word) : Bool :=
  decide (w.toNat < 2 ^ 56) && decide (w.toNat % 4096 = 0) && decide (paClass w.toNat < 2) && decide (paChip w.toNat = s.chip) && populated s w.toNat

/-- Whether a RANKSET of a rank still awaits acknowledgements. -/
def rankBusy (s : State) (cid rank : Nat) : Bool := s.ops.any fun o => decide (o.kind = 3 ∧ o.cid = cid ∧ o.arg = rank)

/-- The checks of a rank whose resident is to leave its slot, in order, and the slot (15 R283, R285). A rank of which no slot of this chip holds the
resident is refused as BADARG (log 42). -/
def leaveCheck (s : State) (v : Nat) (areaBad : Bool) : Nat ⊕ (Nat × Nat × Resident) :=
  let cid := v / 65536
  let rank := v % 65536
  let e := rankEntry s cid rank
  if v ≥ 2 ^ 28 ∨ areaBad = true then .inl 0x66
  else if ctxFree (ctxOf s cid) then .inl 0x4B
  else if reState e ≠ 2 ∨ rankBusy s cid rank = true ∨ reChip e ≠ s.chip then .inl 0x66
  else
    match (slotOf (coreOf s (reCore e)) (reSlot e)).resident with
    | none => .inl 0x66
    | some r =>
      if r.cid ≠ cid ∨ r.rank ≠ rank then .inl 0x66
      else if quiescent (coreOf s (reCore e)) (reSlot e) = false then .inl 1
      else .inr (reCore e, reSlot e, r)

def execSlotsave (rd ra rb : Reg) (s : State) : Out :=
  supervise s rd fun s =>
    let area := rx (cc s) rb
    match leaveCheck s (rx (cc s) ra).toNat (!areaOk s area) with
    | .inl st => .now s st
    | .inr (c, slot, r) =>
      if saveLen (savePieces (coreOf s c) slot) > 2 ^ 22 then .now s 0x62
      else
        let s := saveArea s c slot area.toNat r
        .now (updCore s c fun k => updSlot k slot freeSaved) 0

/-! ### Loading a resident (15 R284, R285; 07 R123) -/

/-- A target coordinate in the layout of R96: STATE and reserved bits zero, CHIP this chip. -/
def coordOk (s : State) (w : Word) : Bool := decide (reState w = 0) && decide (fld w 38 0 = 0) && decide (reChip w = s.chip)

/-- Whether two ranges of bytes overlap. -/
def meets (a n b m : Nat) : Bool := decide (a < b + m) && decide (b < a + n)

/-- Whether region registers are refused for a slot of a core (07 R123): a region missing, out of LM, or over another of any slot. A fused region takes
its owner's bytes only (07 R139); a slot that is being left counts no more. -/
def regionsBad (k : Core) (slot : Nat) (left : Option Nat) (rg : List Word) : Bool :=
  let v := rg.filter rgV
  let others := (List.range 4).flatMap fun i => if i = slot ∨ some i = left then [] else ((slotOf k i).rg.toList.filter rgV)
  !((rg.take 3).all rgV) || v.any (fun r => decide (rgBase r + rgSize r > 2 ^ 19)) ||
  (v.zipIdx.any fun a => (v.zipIdx.any fun b => decide (a.2 < b.2) && meets (rgBase a.1) (rgSize a.1) (rgBase b.1) (rgSize b.1))) ||
  v.any fun r => others.any fun o => meets (rgBase r) (rgSize r) (rgBase o) (rgSize o)

/-- The end records of a resident at a core's NI, wherever its slot (10 R208). -/
def endsOf (k : Core) (cid rank : Nat) : List EndRec := k.ends.filter fun e => decide (e.res = (cid, rank))

/-- A core without the end records of a resident. -/
def dropEnds (k : Core) (cid rank : Nat) : Core := { k with ends := k.ends.filter fun e => !decide (e.res = (cid, rank)) }

/-- The end records of a resident moved to another core's NI, or to another slot (15 R284; 10 R208). -/
def moveEnds (s : State) (c cid rank d dslot : Nat) : State :=
  let es := (endsOf (coreOf s c) cid rank).map fun e => { e with slot := dslot }
  updCore (updCore s c fun k => dropEnds k cid rank) d fun k => { k with ends := k.ends ++ es }

/-- Words of a save area. -/
def areaWord (s : State) (pa : Nat) (off : Nat) : Word := wd (rdLE s.mem (pa + off) 8)
def areaWords (s : State) (pa off n : Nat) : List Word := (List.range n).map fun i => areaWord s pa (off + 8 * i)

/-- Whether a header cannot be accepted (15 R281, R284). -/
def hdrBad (s : State) (pa : Nat) : Bool :=
  let w := areaWords s pa 0 8
  let g := fun i => w.getD i 0
  decide (fld (g 0) 63 32 ≠ 0x534C4F54) || decide (fld (g 0) 31 0 ≠ 1) || decide (fld (g 1) 63 40 ≠ 0) || decide (fld (g 2) 63 32 ≠ 0) ||
  decide ((g 2).toNat % 64 ≠ 0) || decide ((g 2).toNat > 2 ^ 22) || decide ((g 2).toNat < 576) || decide (fld (g 3) 63 62 ≠ 0) || decide (fld (g 3) 38 0 ≠ 0) ||
  decide (g 6 ≠ 0) || decide (g 7 ≠ 0)

/-- One message of a save area restored behind those already in its queue: its header, payload and the offset behind it. The header carries neither
sender's CID and INC: they are the area's (log 41). An end-of-stream message finds its end again by SCID, SID and resident (10 R196, R208). -/
def loadMsg (s : State) (c slot pa off cid inc rank q : Nat) : State × Nat :=
  let (h, n) := hdrRead (areaWords s pa off 6)
  let at_ := off + 64
  let k := coreOf s c
  let a := (landPlace k slot n).getD (rgBase (rgOf (slotOf k slot) 2))
  let task := if h.mkind = 5 then taskOf s cid h.msgid else none
  let more := areaWord s pa (off + 48)
  let eos := if h.mkind = 6 then ((endsOf k cid rank).find? fun e => decide (e.sid = h.x6 ∧ e.scid = fld more 13 2 ∧ e.kind = 1 ∧ e.state = 4)).map fun e => (e.scid, e.sid) else none
  let m : QMsg := { hdr := { h with x7 := match eos with | some (scid, _) => scid | none => h.x7 }, cid := cid, inc := inc, addr := a, len := n, task := task.map fun t => (t.1, t.2.age), aborts := (task.map (·.2.aborts)).getD (fld more 1 0), eosEnd := eos, seq := s.landNext,
                    poison := memBad s (pa + at_) n }
  let s := if n = 0 then s else lmWrite s c a (rdBytes s.mem (pa + at_) n)
  let s := if m.poison then lmPoison s c a n else s
  (updCore { s with landNext := s.landNext + 1 } c fun k => updSlot k slot fun t => setQueue t q { queueOf t q with msgs := (queueOf t q).msgs ++ [m] }, at_ + roundUp n 64)

/-- n messages of a queue restored. -/
def loadMsgs (c slot pa cid inc rank q : Nat) : Nat → State × Nat → State × Nat
  | 0, x => x
  | n + 1, (s, off) => loadMsgs c slot pa cid inc rank q n (loadMsg s c slot pa off cid inc rank q)

/-- The four queues restored from their section. -/
def loadQueues (s : State) (c slot pa cid inc rank : Nat) : List Nat → Nat → State × Nat
  | [], off => (s, off)
  | q :: qs, off =>
    let n := min 256 (areaWord s pa off).toNat
    let (s, off) := loadMsgs c slot pa cid inc rank q n (s, off + 64)
    loadQueues s c slot pa cid inc rank qs off

/-- The contents of a region restored, with their poison. -/
def loadSpan (s : State) (c pa off b n : Nat) : State :=
  let s := lmWrite s c b (rdBytes s.mem (pa + off) n)
  (touchWords b n).foldl (fun s w => if memBad s (pa + off + (w * 8 - b)) 8 then lmPoison s c (w * 8) 8 else s) s

/-- Regions restored one after the other from an offset, and the offset behind them. -/
def loadSpans (c pa : Nat) : List Word → State × Nat → State × Nat
  | [], x => x
  | r :: rs, (s, off) => loadSpans c pa rs (loadSpan s c pa off (rgBase r) (rgSize r), off + rgSize r)

/-- The full/empty bits of regions restored from their section, the first at bit n of it. -/
def loadFe (s : State) (c pa off : Nat) : List Word → Nat → State
  | [], _ => s
  | r :: rs, n =>
    let words := List.range (rgSize r / 8)
    let isSet := fun i => bit (areaWord s pa (off + (n + i) / 64 * 8)) ((n + i) % 64)
    let s := updCore s c fun k => { k with fe := (words.filter isSet).foldl (fun l i => addSorted l (rgBase r / 8 + i))
                                                   (k.fe.filter fun w => !(decide (rgBase r / 8 ≤ w) && decide (w < (rgBase r + rgSize r) / 8))) }
    loadFe s c pa off rs (n + rgSize r / 8)

/-- The region words of a save area as the registers take them: reserved bits, and FUSE of CODE, FRAME and LAND, read zero (07 R123). -/
def areaRegions (s : State) (pa : Nat) : List Word :=
  ((areaWords s pa 64 7).zipIdx).map fun w => w.1 &&& (if w.2 < 3 then 0x800FFF000007FF00 else 0xC00FFF000007FF00)

/-- A save area put into a free slot; the reserved bits of its registers read zero (07 R123, R125, R138; 12 R225, R227). -/
def loadArea (s : State) (c slot pa : Nat) (r : Resident) : State :=
  let rg := areaRegions s pa
  let ps := (rg.drop 3).filter rgV
  let hs := (List.range 64).foldl (fun m i => let e := rdLE s.mem (pa + 256 + 4 * i) 4 &&& 0x8007FFFC; if e = 0 then m else mput m i (BitVec.ofNat 32 e)) ([] : SMap (BitVec 32))
  let t : Slot := { resident := some r, rg := Vector.ofFn fun i => rg.getD i.val 0, xb := areaWord s pa 128 &&& 0x00000000000FFF00, trapvec := areaWord s pa 136 &&& 0x800000000007FFFC,
                    mb := Vector.ofFn fun i => areaWord s pa (192 + 8 * i.val) &&& 0x80000000FFFFFFFF, handlers := hs }
  let s := updCore s c fun k => setSlot k slot t
  let (s, off) := loadQueues s c slot pa r.cid r.inc r.rank [0, 1, 2, 3] 512
  let (s, off) := loadSpans c pa ps (s, off)
  let bits := (ps.map fun r => rgSize r / 8).sum
  let s := loadFe s c pa off ps 0
  let off := off + roundUp ((bits + 63) / 64 * 8) 64
  loadSpan s c pa off (rgBase (rg.getD 0 0)) (rgSize (rg.getD 0 0))

/-- The initial image of a resident, which the firmware keeps when it first places it (04 R70). -/
def imageOfSlot (k : Core) (slot : Nat) (r : Resident) : Image :=
  let t := slotOf k slot
  { cid := r.cid, inc := r.inc, rank := r.rank, slot := { t with queues := Vector.replicate 4 {} },
    mem := (slotSpans t).map fun x => (x.1, rdBytes k.lm x.1 x.2),
    fe := k.fe.filter fun w => (t.rg.toList.drop 3).any fun r => rgHas r (w * 8) }

def keepImage (s : State) (c slot : Nat) (r : Resident) : State :=
  if s.images.any fun i => decide (i.cid = r.cid ∧ i.inc = r.inc ∧ i.rank = r.rank) then s
  else { s with images := s.images ++ [imageOfSlot (coreOf s c) slot r] }

/-- The checks of a target from NOCTX on, in order, for a resident with its regions and the place of its end records (15 R284). -/
def targetCheck (s : State) (c slot : Nat) (r : Resident) (rg : List Word) (src : Option (Nat × Nat)) (moved : Bool) : Option Nat :=
  let x := ctxOf s r.cid
  if ctxState x ≠ 1 ∨ ctxInc x ≠ r.inc then some 0x4B
  else if coreUsable s c (ctxPart x) = false then some 0x65
  else if regionsBad (coreOf s c) slot (if moved then src.bind fun d => if d.1 = c then some d.2 else none else none) rg then some 0x60
  else
    match src with
    | some (d, _) => if d ≠ c ∧ freeRecs (coreOf s c) < (endsOf (coreOf s d) r.cid r.rank).length then some 0x62 else none
    | none => none

/-- Where the end records of a saved resident stand: FROM, on this chip. -/
def savedFrom (s : State) (from_ : Word) : Option (Nat × Nat) := if reChip from_ = s.chip then some (reCore from_, reSlot from_) else none

/-- A failed restore's kill put to the home chip: management 20 with the mark of a restore (04 R73). -/
def restoreKill (s : State) (cid : Nat) : State :=
  let home := homeChip s cid
  let o : Op := { tok := s.opNext, kind := 8, core := s.cur, cid := cid, left := [chipCode home] }
  mgmtTo { s with ops := s.ops ++ [o], opNext := s.opNext + 1 } home cid 0x21 (.mgmt 20 (o.tok + 2 ^ 32))

/-- The resident that a save area holds (15 R281). -/
def areaRes (s : State) (pa : Nat) : Resident :=
  let h1 := areaWord s pa 8
  { cid := fld h1 39 28, inc := fld h1 27 16, rank := fld h1 15 0 }

/-- The checks of SLOTLOAD up to its reading of the area, in order (15 R284). -/
def loadCheck (s : State) (w area : Word) : Option Nat :=
  let pa := area.toNat
  if coordOk s w = false ∨ areaOk s area = false then some 0x66
  else if (slotOf (coreOf s (reCore w)) (reSlot w)).resident.isSome then some 1
  else if hdrBad s pa then some 0x67
  else targetCheck s (reCore w) (reSlot w) (areaRes s pa) (areaRegions s pa) (savedFrom s (areaWord s pa 24)) false

/-- The end of a load that its checks allow: the area read and tested, and the slot filled, or the context coppiced (15 R284; 04 R73). -/
def loadEnd (s : State) (w area : Word) : SupR :=
  let pa := area.toNat
  let r := areaRes s pa
  let len := (areaWord s pa 16).toNat
  let bytes := rdBytes s.mem pa 40 ++ List.replicate 8 0 ++ rdBytes s.mem (pa + 48) (len - 48)
  if memBad s pa len ∨ saveTag s r.cid (areaWord s pa 32).toNat bytes ≠ areaWord s pa 40 then
    if homeChip s r.cid ≠ s.chip then .now (restoreKill s r.cid) 0x49
    else if killing s r.cid ∨ ctxUnrec (ctxOf s r.cid) = 7 then .again s
    else
      let (_, s) := startKill s s.cur r.cid 0 true none
      .now s 0x49
  else
    let s := match savedFrom s (areaWord s pa 24) with | some (d, _) => moveEnds s d r.cid r.rank (reCore w) (reSlot w) | none => s
    .now (keepImage (loadArea s (reCore w) (reSlot w) pa r) (reCore w) (reSlot w) r) 0

/-- The status of a supervisor instruction that has waited, written. -/
def supEnd (s : State) (rd : Reg) (st : Nat) : Out := .next (setCC s (advance (wx { cc s with wait := .idle } rd (wd st))))

/-- The load that the current core waits for. -/
def loadOp (s : State) : Option Op :=
  match (cc s).wait with
  | .sup tok => if isSup s.cur then s.ops.find? fun (o : Op) => decide (o.tok = tok ∧ o.kind = 9) else none
  | _ => none

/-- SLOTLOAD: its checks, and then its reading of the area, during which a kill of the context stops it: the slot stays free and the status is KILLED (15 R284;
03 R67). -/
def execSlotload (rd ra rb : Reg) (s : State) : Out :=
  let w := rx (cc s) ra
  let area := rx (cc s) rb
  match loadOp s with
  | some o =>
    let s' := { s with ops := s.ops.filter fun x => !decide (x.tok = o.tok) }
    if ctxInc (ctxOf s o.cid) ≠ o.arg ∨ killing s o.cid = true then supEnd s' rd 0x47
    else
      match loadCheck s' w area with
      | some st => supEnd s' rd st
      | none => match loadEnd s' w area with | .now s'' st => supEnd s'' rd st | _ => .next s
  | none =>
    supervise s rd fun s =>
      match loadCheck s w area with
      | some st => .now s st
      | none =>
        let r := areaRes s area.toNat
        .later { s with ops := s.ops ++ [{ tok := s.opNext, kind := 9, core := s.cur, cid := r.cid, arg := r.inc, left := [] }], opNext := s.opNext + 1 } s.opNext

/-- A resident's state moved from one slot to another, with its poison and its full/empty bits (15 R285). -/
def moveSlot (s : State) (c slot d dslot : Nat) (r : Resident) : State :=
  let k := coreOf s c
  let t := slotOf k slot
  let spans := slotSpans t ++ ((List.range 4).flatMap fun q => (queueOf t q).msgs.map fun m => (m.addr, m.len))
  let ps := (t.rg.toList.drop 3).filter rgV
  let s := spans.foldl (fun s x =>
    let s := lmWrite s d x.1 (rdBytes k.lm x.1 x.2)
    (touchWords x.1 x.2).foldl (fun s w => if w ∈ k.poison then lmPoison s d (w * 8) 8 else s) s) s
  let inPs := fun (w : Nat) => ps.any fun r => rgHas r (w * 8)
  let s := updCore s d fun x => { x with fe := (k.fe.filter inPs).foldl addSorted (x.fe.filter fun w => !inPs w) }
  let s := updCore s c fun k => updSlot k slot fun _ => {}
  let s := updCore s d fun k => setSlot k dslot { t with queues := t.queues.map fun q => { q with served := 0 } }
  moveEnds s c r.cid r.rank d dslot

def execResmove (rd ra rb : Reg) (s : State) : Out :=
  supervise s rd fun s =>
    let w := rx (cc s) rb
    match leaveCheck s (rx (cc s) ra).toNat (!coordOk s w) with
    | .inl st => .now s st
    | .inr (c, slot, r) =>
      if (slotOf (coreOf s (reCore w)) (reSlot w)).resident.isSome then .now s 1
      else
        match targetCheck s (reCore w) (reSlot w) r (slotOf (coreOf s c) slot).rg.toList (some (c, slot)) true with
        | some st => .now s st
        | none => .now (moveSlot s c slot (reCore w) (reSlot w) r) 0

/-! ### SLOTDROP and HALT (15 R286, R287) -/

/-- A slot freed without saving: its queued messages dropped or reported, its end records freed, and its registers cleared. -/
def dropSlot (s : State) (c slot : Nat) (r : Resident) (current : Bool) : State :=
  let k := coreOf s c
  let msgs := (List.range 4).flatMap fun q => (queueOf (slotOf k slot) q).msgs
  let s := msgs.foldl (fun s m =>
    if incOk s (niOf s c) m.cid m.inc then failMsg (msgGone s c m) 0x42 m.cid m.inc m.hdr.trank m.aborts m.hdr else staleAt s c) s
  let es := endsOf k r.cid r.rank
  let s := if current then (es.filter fun e => decide (e.state ≠ 7)).foldl (fun s e => killEnd s c e 1) s else s
  updCore s c fun k => updSlot (dropEnds k r.cid r.rank) slot fun _ => {}

def execSlotdrop (rd ra : Reg) (s : State) : Out :=
  supervise s rd fun s =>
    let w := rx (cc s) ra
    let c := reCore w
    let slot := reSlot w
    if coordOk s w = false then .now s 0x66
    else if agentOf c ≥ 648 then .now s 0x65
    else
      match (slotOf (coreOf s c) slot).resident with
      | none => .now s 0
      | some r =>
        let current := decide (ctxInc (ctxOf s r.cid) = r.inc)
        if current && decide (reState (rankEntry s r.cid r.rank) ≠ 2) then .now s 0x66
        else if quiescent (coreOf s c) slot = false then .now s 1
        else .now (dropSlot s c slot r current) 0

/-- HALT: STOP keeps the core from starting anything more, asks the running activation to end (07 R129, R137; log 56), and ends once nothing runs and no gate is armed there; RUN ends at once. -/
def execHalt (rd ra rb : Reg) (s : State) : Out :=
  supervise s rd fun s =>
    let w := rx (cc s) ra
    let b := (rx (cc s) rb).toNat
    let c := reCore w
    if coordOk s w = false ∨ reSlot w ≠ 0 ∨ b > 1 ∨ isSup c = true then .now s 0x66
    else if agentOf c ≥ 648 ∨ (isCompute c = true ∧ rowOf c ∈ s.retired) then .now s 0x65
    else if b = 1 then .now (pendNow (updCore s c fun k => { k with stopped := false }) c) 0
    else
      let s := if (coreOf s c).stopped then s else setPend (updCore s c fun k => { k with stopped := true }) c
      let k := coreOf s c
      if k.act.isNone ∧ k.succ.isNone ∧ k.gates = [] then .now s 0 else .again s

end Sys2Proof.Machine
end

