-- ==== Sys2Proof/Machine/Sched.lean ====
section
/-! DEFINITION. The die schedulers: submissions, kernels, events, live counts, launches, gates, and the cores' choice of the next activation
(05 R85 to R95; 03 R50 to R53; 20 R343, R347). -/

namespace Sys2Proof.Machine

/-! ### Reading a context's memory (05 R85) -/

/-- n bytes at a physical address; memory of another chip is no part of this state and reads free (log 24). -/
def readPa (s : State) (pa n : Nat) : Nat := if paChip pa = s.chip then rdLE s.mem pa n else (Config.farWord pa s.free).toNat % 256 ^ n

/-- n bytes, at most a word, at a virtual address of a context, by a full walk; a word that crosses into another page is translated in both. -/
def readVa (s : State) (cid va n : Nat) : Option Nat :=
  let m := 2 ^ 15 - va % 2 ^ 15
  if n ≤ m then (xlate? s cid va 0).map fun pa => readPa s pa n
  else
    match xlate? s cid va 0, (if va + m < 2 ^ 57 then xlate? s cid (va + m) 0 else none) with
    | some p, some q => some (readPa s p m + 256 ^ m * readPa s q (n - m))
    | _, _ => none

/-- Words at successive virtual addresses. -/
def readWords (s : State) (cid va : Nat) : Nat → Option (List Word)
  | 0 => some []
  | n + 1 =>
    match readVa s cid va 8, readWords s cid (va + 8) n with
    | some w, some ws => some (wd w :: ws)
    | _, _ => none

/-- Bytes at a virtual address, one by one. -/
def readBytes (s : State) (cid va : Nat) : Nat → Option (List Byte)
  | 0 => some []
  | n + 1 =>
    match readVa s cid va 1, readBytes s cid (va + 1) n with
    | some b, some bs => some (BitVec.ofNat 8 b :: bs)
    | _, _ => none

/-! ### Events and the ends of kernels (05 R86 to R88) -/

/-- A quarter of a context's event vector, as it is held. -/
def eventQ (s : State) (cid q : Nat) : Word := (ctxOf s cid).events.toList.getD q 0

/-- Whether a die's scheduler holds a context's vector, on this chip. -/
def holdsEvents (s : State) (die cid : Nat) : Bool := decide (homeChip s cid = s.chip) && decide ((ctxOf s cid).home % 2 = die % 2)

/-- A quarter as a die's scheduler knows it: on the context's home chip the home die's scheduler has the vector, and the other one what it has been told (05 R87);
on another chip both have what the chip has been told. -/
def eventSeen (s : State) (die cid q : Nat) : Word :=
  if homeChip s cid = s.chip ∧ holdsEvents s die cid = false then mgetD (dieAt s die).evView (cid * 4 + q) 0 else eventQ s cid q

/-- Every WAITING kernel of a context whose WMASK is set, as its scheduler knows the vector, becomes READY (05 R87). -/
def eventTest (s : State) (cid : Nat) : State :=
  { s with kernels := s.kernels.map fun k =>
      if k.cid = cid ∧ k.state = 0 ∧ k.wmask &&& eventSeen s k.die cid k.wq = k.wmask then { k with state := 1, age := s.now } else k }

/-- A quarter of the vector as this chip holds it or has been told, and the tests that follow its change. -/
def putEvents (s : State) (cid q : Nat) (w : Word) : State :=
  if w = eventQ s cid q then s
  else eventTest (updCtx s cid fun x => { x with events := Vector.ofFn fun i => if i.val = q then w else x.events[i.val] }) cid

/-- A message about a context's vector from one scheduler of the package to the other: an OR into a quarter, or to a scheduler that does not hold it the
quarter's new value. -/
def tellSched (s : State) (a b cid q : Nat) (w : Word) : State :=
  emit s { src := schedOf s a, dst := schedOf s b, cls := 2, op := 8, cid := cid, inc := ctxInc (ctxOf s cid), len := 2, body := .setev q w false }

/-- A change of a quarter at the home die's scheduler, which holds the vector; the other schedulers hear of it by messages (05 R87). -/
def setEvents (s : State) (cid q : Nat) (f : Word → Word) : State :=
  let w := f (eventQ s cid q)
  if w = eventQ s cid q then s
  else
    let home := (ctxOf s cid).home % 2
    (spanOthers s cid).foldl (fun s c => mgmtTo s c cid 0x21 (.mgmt 19 (w.toNat * 4 + q))) (tellSched (putEvents s cid q w) home (1 - home) cid q w)

/-- SMASK applied once (05 R88), by a message where another scheduler holds the vector. -/
def applySmask (s : State) (k : Kernel) : State :=
  if homeChip s k.cid ≠ s.chip then
    (if k.smask = 0 then s else mgmtTo s (homeChip s k.cid) k.cid 0x21 (.mgmt 18 (k.smask.toNat * 4 + k.sq)))
  else if holdsEvents s k.die k.cid then setEvents s k.cid k.sq fun w => w ||| k.smask
  else if k.smask = 0 then s
  else tellSched s k.die ((ctxOf s k.cid).home % 2) k.cid k.sq k.smask

/-- A queue entry freed, and CRED with it (05 R86). -/
def freeEntry (s : State) (k : Kernel) : State :=
  if k.qentry then
    updKernel (updDie s k.die fun d => { d with cred := mput d.cred k.cid (min 64 (credOf s k.die k.cid + 1)) }) k.kid fun k => { k with qentry := false }
  else s

/-- A kernel that never runs: DONE with a KIND 4 record; its DETAIL is not stated, and is free (05 R86, 07 R135). -/
def badKernel (s : State) (k : Kernel) (cause : Nat) : State :=
  let (f, s) := drawFree s
  let s := failRec s { cause := cause, kind := 4, inc := k.inc, cid := k.cid, subtag := k.subtag, detail := Config.freeWord f }
  let s := updKernel (freeEntry s k) k.kid fun k => { k with state := 3 }
  applySmask s k

/-- Whether a dispatcher still has elements of a kernel to hand out. -/
def cursorsLeft (s : State) (kid : Nat) : Bool := s.dies.toList.any fun d => d.disp.cursors.any fun c => decide (c.kernel = kid)

/-- A RUNNING kernel whose live count is zero is DONE, applies its SMASK, and its rows ramp down (05 R86, R88, R89; 04 R76). -/
def settleKernel (s : State) (kid : Nat) : State :=
  match kernelOf s kid with
  | some k =>
    if k.state = 2 ∧ k.live = 0 ∧ k.gates = [] ∧ kernelChip kid = s.chip then applySmask (rampDown (updKernel s kid fun k => { k with state := 3 }) kid) k else s
  | none => s

/-! ### Acceptance (05 R85, R86, R106) -/

/-- The reserved bits and limits of a descriptor (05 R85). -/
def descOk (w : List Word) : Bool :=
  let g := fun i => w.getD i 0
  let shape := fld (g 0) 13 12
  let gang := fld (g 0) 17 14
  let crew := fld (g 0) 24 18
  decide (fld (g 0) 63 34 = 0) && decide (fld (g 0) 7 0 = 1) && decide (1 ≤ gang) && decide (gang ≤ 8) && decide (1 ≤ crew) && decide (crew ≤ 64) &&
  (decide (shape ≠ 0) || decide (gang = 1)) && (decide (shape = 2) || decide (crew = 1)) &&
  decide (1 ≤ (g 1).toNat) && decide ((g 1).toNat ≤ 2 ^ 40) && decide (fld (g 2) 63 16 = 0) && (decide (shape = 3) || decide (g 4 = 0)) &&
  decide (fld (g 5) 63 11 = 0) && decide (fld (g 5) 10 0 ≤ 1024) && decide (g 6 = 0) && decide (g 7 = 0) &&
  (!bit (g 0) 33 || decide (shape = 0) || decide (shape = 3))

/-- The ranks that mask words name, in mask order (05 R85). -/
def maskRanks (base : Nat) : Nat → List Word → List Nat
  | _, [] => []
  | j, w :: ws => ((setBits 64 0 w.toNat).map fun i => (base + 64 * j + i) % 65536) ++ maskRanks base (j + 1) ws

/-- Whether a rank's resident declares a persistent region, on this chip. -/
def hasP (s : State) (cid rank : Nat) : Bool :=
  let e := rankEntry s cid rank
  decide (reState e = 1) && decide (reChip e = s.chip) && ((slotOf (coreOf s (reCore e)) (reSlot e)).rg.toList.drop 3).any rgV

/-- The kernel of a submission, or none where its descriptor breaks 05 R85 or R106. -/
def readKernel (s : State) (k : Kernel) (kdesc : Nat) (budget : Word) : Option Kernel :=
  if kdesc % 64 ≠ 0 then none
  else
    match readWords s k.cid kdesc 8 with
    | none => none
    | some w =>
      let g := fun i => w.getD i 0
      if !descOk w then none
      else
        let n := if fld (g 0) 11 8 = 0 then 16 else fld (g 0) 11 8
        -- an element kernel's mask is used only under PLACE 1 (06 R106)
        let masked := decide (fld (g 0) 13 12 ≠ 3) || (match readVa s k.cid (fld (g 4) 56 0) 8 with | some e => decide (fldN e 9 9 = 1) | none => false)
        match (if masked then readWords s k.cid (fld (g 3) 56 0) n else some []) with
        | none => none
        | some ms =>
          if masked ∧ fld (g 3) 63 57 ≠ 0 then none
          else
            let ranks := maskRanks (fld (g 2) 15 0) 0 ms
            let k := { k with budget := if budget = 0 then (g 1).toNat else budget.toNat, handler := fld (g 0) 30 25, queue := fld (g 0) 32 31,
                              crew := fld (g 0) 24 18, gang := fld (g 0) 17 14, shape := fld (g 0) 13 12, paired := bit (g 0) 33,
                              plen := fld (g 5) 10 0, ranks := ranks }
            if k.paired ∧ (ranks.any fun r => hasP s k.cid r) = true then none
            else if k.shape ≠ 3 then some k
            else
              let el := g 4
              match readWords s k.cid (fld el 56 0) 4 with
              | none => none
              | some e =>
                let h := fun i => e.getD i 0
                if fld el 63 57 ≠ 0 ∨ fld (h 0) 63 16 ≠ 0 ∨ bit (h 0) 8 = true ∨ fld (h 0) 7 0 ≠ 1 ∨ h 2 ≠ 0 ∨ h 3 ≠ 0 then none
                else some { k with adj := fld (h 0) 15 12, radius := fld (h 0) 11 10, place := fld (h 0) 9 9, first := fld (h 1) 31 0, count := fld (h 1) 63 32 }

/-- Whether an element kernel's registration stands and holds its initial elements. It is asked when the kernel, READY, hands its cursors over, so that
a kernel may wait for the event that tells of the registration, as in 21_program_relaxation_sweep (log 47). -/
def elemOk (s : State) (k : Kernel) : Bool :=
  match s.adjs.find? fun a => decide (a.cid = k.cid ∧ a.inc = k.inc ∧ a.num = k.adj) with
  | none => false
  | some a => decide (k.count + k.first ≤ a.nelem)

/-- A submission becomes a kernel, tested once against the event vector; one with a bad descriptor ends (05 R85 to R87). -/
def acceptKernel (s : State) (die cid inc : Nat) (w : List Word) : Nat × State :=
  let g := fun i => w.getD i 0
  let kid := s.chip * 2 ^ 22 + s.kidNext
  let k : Kernel := { kid := kid, cid := cid, inc := inc, die := die, wq := fld (g 4) 12 11, wmask := g 2, sq := fld (g 4) 14 13, smask := g 3,
                      job := fld (g 4) 47 16, prio := min (fld (g 4) 10 8) (ctxPmax (ctxOf s cid)), subtag := g 6, args := (g 1).toNat }
  let s := { s with kidNext := s.kidNext + 1 }
  match readKernel s k (fld (g 0) 56 0) (g 5) with
  | none => (kid, badKernel { s with kernels := s.kernels ++ [k] } k 0x45)
  | some k => (kid, eventTest { s with kernels := s.kernels ++ [k] } cid)

/-- Whether a job's cancel bit is set at a die (05 R101). -/
def jobCancelled (s : State) (die cid job : Nat) : Bool := decide ((cid, job) ∈ (dieAt s die).cancelJobs)

/-- A kernel of a job that was cancelled before it was accepted goes to CANCELLED (05 R101, R102). -/
def cancelLate (s : State) (die kid : Nat) : State :=
  match kernelOf s kid with
  | some k => if k.state ≤ 1 ∧ jobCancelled s die k.cid k.job then applySmask (updKernel (freeEntry s k) kid fun k => { k with state := 4 }) k else s
  | none => s

/-- KERNEL_ACCEPT: the scheduler of a die accepts its next window submission, into the current incarnation (03 R67). -/
def execKernelAccept (die : Nat) (s : State) : Out :=
  match s.subs.find? fun u => decide (u.die = die) with
  | none => .next s
  | some u =>
    let s := { s with subs := s.subs.erase u }
    let (kid, s) := acceptKernel s die u.cid ((incAt s (schedOf s die) u.cid).getD (ctxInc (ctxOf s u.cid))) u.words
    .next (cancelLate s die kid)

/-- An answer to a core's pending register (20 R344). -/
def answerCore (s : State) (src : Nat) (p : Packet) (tok : Nat) (v : Word) : State :=
  emit s { dst := p.src, src := src, cls := 4, op := 0x10, cid := p.cid, inc := p.inc, len := 1, body := .rdata tok v false }

/-- KSUB_ARRIVE (20 R343). DESIGN CHOICE: the scheduler, which is no core that could be sealed, does not act on a poisoned record; it counts the error and answers
with 0x25 (log 33). -/
def execKsubArrive (src die : Nat) (s : State) : Out :=
  let dst := schedOf s die
  match chanQ s src dst 2 with
  | [] => .next s
  | p :: _ =>
    match p.body with
    | .ksub w tok =>
      let s' := chanPop s src dst 2
      if !incOk s dst p.cid p.inc then .next (staleDrop s' p)
      else
        let s' := markApplied s' src p.tok dst
        if p.bad then .next (answerCore (count s' die 5) dst p tok 0x25)
        else if recBad w then .next (answerCore s' dst p tok 0x66)
        else if jobCancelled s' die p.cid (fld (w.getD 4 0) 47 16) then .next s'
        else if credOf s' die p.cid = 0 then .next (answerCore s' dst p tok 1)
        else
          let s' := updDie s' die fun d => { d with cred := mput d.cred p.cid (credOf s' die p.cid - 1) }
          let (kid, s') := acceptKernel s' die p.cid p.inc w
          .next (answerCore s' dst p tok (wd (kid * 2 ^ 32)))
    | _ => .next s

/-- SETEV_APPLY (20 R347). DESIGN CHOICE: one that comes poisoned changes nothing and is counted (log 33). -/
def execSetevApply (src die : Nat) (s : State) : Out :=
  let dst := schedOf s die
  match chanQ s src dst 2 with
  | [] => .next s
  | p :: _ =>
    match p.body with
    | .setev q mask clr =>
      let s' := chanPop s src dst 2
      if !incOk s dst p.cid p.inc then .next (staleDrop s' p)
      else if p.bad then .next (markApplied (count s' die 5) src p.tok dst)
      else if holdsEvents s die p.cid then .next (markApplied (setEvents s' p.cid q fun w => if clr then w &&& ~~~mask else w ||| mask) src p.tok dst)
      -- the home die's scheduler tells this one
      else .next (eventTest (updDie s' die fun d => { d with evView := mput d.evView (p.cid * 4 + q) mask }) p.cid)
    | _ => .next s

/-! ### Live counts (05 R89) -/

/-- The acknowledgement of a report goes to the core that waits for it. -/
def ackReport (s : State) (cid : Nat) : Option Nat → State
  | none => s
  | some c => if c < 2 ^ 64 then { s with acks := s.acks ++ [c] } else mgmtTo s (c / 2 ^ 64 - 1) cid 0x21 (.mgmt 14 (c % 2 ^ 64))

/-- LIVE_COUNT_REPORT: the oldest report is applied and acknowledged; at zero the kernel is DONE. One for a kernel that another chip's scheduler holds
goes there (log 49); one for a kernel that nobody knows is acknowledged with no effect (log 34). -/
def execLiveCountReport (s : State) : Out :=
  match s.reports with
  | [] => .next s
  | r :: rs =>
    let s := { s with reports := rs }
    match kernelOf s r.kernel with
    | none => .next (ackReport s 0 r.ackTo)
    | some k =>
      if kernelChip r.kernel = s.chip then .next (settleKernel (updKernel (ackReport s k.cid r.ackTo) r.kernel fun k => { k with live := k.live + r.delta }) r.kernel)
      else if canSend s (kernelChip r.kernel * 65536) 7 then
        .next (mgmtTo s (kernelChip r.kernel) k.cid 0x21
          (.mgmt 13 ((r.delta + 2 ^ 31).toNat % 2 ^ 32 + r.kernel * 2 ^ 32 + (match r.ackTo with | some c => c + 1 | none => 0) * 2 ^ 64)))
      else .next { s with reports := r :: rs }

/-- LIVE_COUNT_ACK: a scheduler's acknowledgement reaches a core, whose flush may go on. One for an activation that has ended meanwhile does nothing. -/
def execLiveCountAck (core : Nat) (s : State) : Out :=
  match s.acks.find? fun a => decide (a % 2048 = core) with
  | none => .next s
  | some a =>
    let s := { s with acks := s.acks.erase a }
    if a / 2048 = (coreOf s core).rptId then .next (endFlush (updCore s core fun k => { k with rptWait := k.rptWait - 1 }) core) else .next s

/-! ### Sending from a scheduler or dispatcher (05 R95, R97) -/

/-- A message of an agent of this package to a rank: none while the rank is in transit or the way is full. An INVALID rank, and one of another
partition, is reported, and the live count falls by 1. -/
def agentSend (s : State) (src cid inc rank n : Nat) (h : MsgHdr) (pay : List Byte) (bad : Bool := false) : Option State :=
  let e := rankEntry s cid rank
  let p : Packet := { src := src, dst := 0, cls := 2, op := 8, cid := cid, inc := inc, slot := reSlot e, len := msgLen n, body := .msg h pay bad }
  match reState e with
  | 1 =>
    if foreignCore s cid e then some (failMsg s 0x27 cid inc rank 0 h)
    else
      let p := { p with dst := reAgent s e }
      if canSend s p.dst 2 then some (emit s p) else none
  | 2 => none
  | 3 =>
    let p := { p with dst := reChip e * 65536 + storeOf s (reDie e) % 65536 }
    if canSend s p.dst 2 then some (emit s p) else none
  | _ => some (failMsg s 0x42 cid inc rank 0 h)

/-! ### Launches (05 R91, R95) -/

/-- The effective priority of a READY kernel (05 R91). -/
def kernelPrio (s : State) (k : Kernel) : Nat := min 7 (k.prio + (s.now - k.age) / agePeriod s k.die)

/-- Whether the context of a kernel is LIVE or SUSPENDED at its incarnation: what makes it a candidate. -/
def kernelOk (s : State) (k : Kernel) : Bool :=
  (decide (ctxState (ctxOf s k.cid) = 1) || decide (ctxState (ctxOf s k.cid) = 2)) && incOk s (schedOf s k.die) k.cid k.inc

/-- Whether a READY kernel comes first among those of its die and kind: by effective priority, then age of submission. -/
def kernelFirst (s : State) (k : Kernel) (gated : Bool) : Bool :=
  s.kernels.all fun x =>
    decide (x.kid = k.kid) || decide (x.die ≠ k.die) || decide (x.state ≠ 1) || decide (decide (x.shape = 1 ∨ x.shape = 2) ≠ gated) || !kernelOk s x ||
    decide (kernelPrio s x < kernelPrio s k) || (decide (kernelPrio s x = kernelPrio s k) && decide (k.kid < x.kid))

/-- The launch payload of a kernel: PLEN bytes at ARGS; none where a byte of it is no virtual address or does not translate. -/
def launchPay (s : State) (k : Kernel) : Option (List Byte) := if k.plen = 0 then some [] else if k.args + k.plen ≤ 2 ^ 57 then readBytes s k.cid k.args k.plen else none

/-- The header of a kernel's launch message for its n-th rank (05 R95). -/
def launchHdr (k : Kernel) (id rank n : Nat) : MsgHdr :=
  { msgid := id, job := k.job, kernel := k.kid, trank := rank, srank := 0xFFFF, handler := k.handler, queue := k.queue, prio := k.prio, mkind := 4, x6 := n }

/-- The launch messages of the ranks of a plain kernel, in mask order. -/
def launchRanks (k : Kernel) (pay : List Byte) : List Nat → Nat → State → Option State
  | [], _, s => some s
  | r :: rs, n, s =>
    let (id, s) := freshMsg s k.cid
    match agentSend s (schedOf s k.die) k.cid k.inc r pay.length (launchHdr k id r n) pay with
    | some s => launchRanks k pay rs (n + 1) s
    | none => none

/-- A kernel's initial elements by the dies that own them now, each die's ascending (06 R106). -/
def handOver (s : State) (k : Kernel) (a : AdjReg) : List (Nat × List Nat) :=
  let es := (List.range k.count).map (k.first + ·)
  let own := fun (e : Nat) => let o := ownerAt s a e; 2 * o.1 + o.2
  (es.foldl (fun l e => addTo (own e) l) []).map fun d => (d, es.filter fun e => decide (own e = d))

/-- The initial elements of a kernel that this chip's dies own, handed to their dispatchers (06 R106). -/
def putCursors (s : State) (k : Kernel) : State :=
  let put := fun (s : State) (d : Nat) =>
    match k.hand.find? fun h => decide (h.1 = 2 * s.chip + d) with
    | some h => updDie s d fun x => { x with disp := { x.disp with cursors := x.disp.cursors ++ [{ kernel := k.kid, elems := h.2 }] } }
    | none => s
  put (put s 0) 1

/-- SCHEDULER_LAUNCH: the first READY plain or element kernel of a die is launched: its messages sent, or its cursors handed to the dispatchers
of every die of the context's chips; the queue entry frees. It waits while a rank of its mask is in transit. -/
def execSchedulerLaunch (die kid : Nat) (s : State) : Out :=
  match kernelOf s kid with
  | none => .next s
  | some k =>
    if k.die ≠ die ∨ k.state ≠ 1 ∨ k.shape = 1 ∨ k.shape = 2 ∨ kernelOk s k = false ∨ kernelFirst s k false = false then .next s
    else
      let go := fun (s : State) (n : Nat) => updKernel (freeEntry s k) kid fun k => { k with state := 2, live := k.live + (n : Int) }
      if k.shape = 3 then
        if !elemOk s k then .next (badKernel s k 0x45)
        else
        let s := go s k.count
        let k := { k with hand := match kernelAdj s k with | some a => handOver s k a | none => [] }
        .next (settleKernel (if k.count = 0 then s else
          (spanOthers s k.cid).foldl (fun s c => emit s { mgmtPkt s c k.cid 0x21 (.mgmt 15 0) with kinfo := some k }) (putCursors s k)) kid)
      else
        match launchPay s k with
        | none => .next (badKernel s k 0x45)
        | some pay =>
          match launchRanks k pay k.ranks 0 (go s k.ranks.length) with
          | some s => .next (settleKernel s kid)
          | none => .next s

/-! ### Gangs, crews and gates (05 R93, R94) -/

/-- A list cut into groups of n. -/
def groups' {α : Type} (n : Nat) : Nat → List α → List (List α)
  | 0, _ => []
  | f + 1, l => match l with | [] => [] | _ => l.take n :: groups' n f (l.drop n)
def groups (n f : Nat) (l : List Nat) : List (List Nat) := groups' n f l

/-- The groups of a gang or crew kernel: its mask in ascending rank order, cut into GANG ranks (05 R93). -/
def gateGroups (k : Kernel) : List (List Nat) := groups k.gang k.ranks.length (k.ranks.foldl addSorted [])

/-- The chip and the cores of a group of ranks, where it is placed rightly: VALID ranks of the context's partition, on one row of one chip, ascending, and
with LAND for the payload (05 R93); of another chip's LAND nothing is known here (log 53). -/
def groupPlace (s : State) (k : Kernel) (g : List Nat) : Option (Nat × List Nat) :=
  let es := g.map fun r => rankEntry s k.cid r
  let cs := es.map reCore
  let land := fun (e : Word) => if reChip e = s.chip then rgSize (rgOf (slotOf (coreOf s (reCore e)) (reSlot e)) 2) else Config.farLand (reAgent s e) (reSlot e)
  let ok := (es.all fun e => decide (reState e = 1) && decide (some (reChip e) = es.head?.map reChip) && !foreignCore s k.cid e && decide (roundUp k.plen 64 ≤ land e)) &&
            cs.all isCompute && decide (g.length = k.gang) && (cs.zip cs.tail).all fun p => decide (p.1 < p.2)
  match es, cs with
  | e :: _, c :: _ => if ok && cs.all fun d => decide (rowOf d = rowOf c) then some (reChip e, cs) else none
  | _, _ => none

/-- Whether each crew of a crew kernel is whole and lies on one die of one chip. -/
def crewsOk (k : Kernel) (ps : List (Nat × List Nat)) : Bool :=
  let at_ := ps.map fun p => (p.1, p.2.head?.map dieOf)
  decide (ps.length % k.crew = 0) && (groups' k.crew at_.length at_).all fun l => l.all fun d => decide (some d = l.head?)

/-- Rows on which a gate is armed. -/
def armedRows (s : State) : List Nat := s.kernels.flatMap (·.gates)

/-- Queued messages of a slot taken in the reverse of their order of arrival, whole, to the head of the spill list until a payload fits (07 R126). One that
finds the partition's share full is reported with OVFL, as every spill that does. -/
def makeRoom (s : State) (c slot n : Nat) : Nat → State
  | 0 => s
  | f + 1 =>
    if (landPlace (coreOf s c) slot n).isSome then s
    else
      let t := slotOf (coreOf s c) slot
      -- the message that arrived last is the tail of its queue
      let tails := (List.range 4).filterMap fun q => ((queueOf t q).msgs.getLast?).map fun m => (q, m)
      match tails with
      | [] => s
      | x :: xs =>
        let (q, m) := xs.foldl (fun b y => if b.2.seq < y.2.seq then y else b) x
        match t.resident with
        | none => s
        | some r =>
          let p : Packet := { src := niOf s c, dst := niOf s c, cls := 2, op := 8, cid := m.cid, inc := m.inc, slot := slot, len := msgLen m.len,
                              body := .msg { m.hdr with aborts := m.aborts } (rdBytes (coreOf s c).lm m.addr m.len) (lmBad (coreOf s c) m.addr m.len) }
          let s := updCore s c fun k => updSlot k slot fun t => setQueue t q { queueOf t q with msgs := (queueOf t q).msgs.dropLast }
          match ovPut s (dieOf c) r.cid r.rank p true with
          | none => makeRoom (failMsg (msgGone s c m) 0x29 m.cid m.inc m.hdr.trank m.aborts m.hdr) c slot n f
          | some s => makeRoom s c slot n f

/-- A launch message behind its gate put into LAND, or with no room yet, because the running activation holds its blocks, kept until the gate starts
(07 R126). -/
def placeLaunch (s : State) (c slot : Nat) (m : QMsg) : QMsg × State :=
  let s := makeRoom s c slot m.pay.length 1024
  match landPlace (coreOf s c) slot m.pay.length with
  | some a => ({ m with addr := a, len := m.pay.length, pay := [], late := false }, if m.pay = [] then s else lmWrite s c a m.pay)
  | none => ({ m with late := true }, s)

/-- The launch message of a gang's member behind its gate: landed, and PEND set where an activation runs (05 R93, 07 R126, R129). -/
def gateTo (s : State) (k : Kernel) (pay : List Byte) (rank n : Nat) : State :=
  let e := rankEntry s k.cid rank
  let c := reCore e
  let slot := reSlot e
  let (id, s) := freshMsg s k.cid
  let (m, s) := placeLaunch s c slot { hdr := launchHdr k id rank n, cid := k.cid, inc := k.inc, addr := 0, len := 0, pay := pay, gate := true }
  setPend (updCore s c fun x => { x with gates := x.gates ++ [(k.kid, slot, m)] }) c

/-- The regions of a gang's members that are fused, given the slot of each (07 R139): GANG is 8, and every member holds the region with FUSE at one BASE
and SIZE, which are of the stated form. -/
def fusedOf (s : State) (size : Nat) (ms : List (Nat × Nat)) : List Word :=
  let ps := fun (m : Nat × Nat) => (slotOf (coreOf s m.1) m.2).rg.toList.drop 3
  match ms with
  | m :: _ =>
    if size ≠ 8 ∨ ms.length ≠ 8 then []
    else (ps m).filter fun r => rgV r && rgFuse r && decide (fld r 51 40 ∈ [8, 16, 32, 64, 128, 256]) && decide (fld r 18 8 % (8 * fld r 51 40) = 0) &&
      ms.all fun m => decide (r ∈ ps m)
  | [] => []

/-- The number of the next gang or crew of the package. -/
def nextGid (s : State) : Nat := s.gangs.length

/-- One gang's gate armed: its members, its place and its launch messages. -/
def armGang (s : State) (k : Kernel) (pay : List Byte) (g cs : List Nat) (crew : Option Nat) : State :=
  let row := match cs with | c :: _ => rowOf c | [] => 0
  let places := g.map fun r => (reCore (rankEntry s k.cid r), reSlot (rankEntry s k.cid r))
  let gang : Gang := { gid := nextGid s, kernel := k.kid, members := cs, present := cs, size := k.gang, row := row, crew := crew, fused := fusedOf s k.gang places }
  let s := { s with gangs := s.gangs ++ [gang] }
  let s := updKernel s k.kid fun k => { k with gates := k.gates ++ [row], armed := k.armed + 1 }
  g.foldl (fun s r => gateTo s k pay r (k.ranks.idxOf r)) s

/-- A rank that is ABSENT is to be brought in: one scheduler trap for it on the die of its store (05 R93, R99). -/
def bringRank (s : State) (cid inc rank : Nat) : State :=
  let die := reDie (rankEntry s cid rank)
  let o := (ovOf s die cid rank).getD { cid := cid, rank := rank }
  if o.trapped then s else schedTrap (setOv s die { o with trapped := true }) die (storeOf s die) cid inc [wd cid, wd inc, wd rank, 3]

/-- Every ABSENT rank of a kernel's mask brought in, those of another chip by a message to it. -/
def bringIn (s : State) (k : Kernel) : State :=
  (k.ranks.filter fun r => decide (reState (rankEntry s k.cid r) = 3)).foldl (fun s r =>
    let chip := reChip (rankEntry s k.cid r)
    if chip = s.chip then bringRank s k.cid k.inc r else mgmtTo s chip k.cid 0x21 (.mgmt 25 r)) s

/-- The kernel that has armed its last gate leaves READY (05 R86). -/
def gatesDone (s : State) (kid n : Nat) : State :=
  match kernelOf s kid with
  | some k => if k.armed = n ∧ k.state = 1 then updKernel (freeEntry s k) kid fun k => { k with state := 2 } else s
  | none => s

/-- Cores that HALT has stopped, or that are sealed, take no gate (15 R286). -/
def gateable (s : State) (cs : List Nat) : Bool := cs.all fun c => !(coreOf s c).stopped && !(coreOf s c).sealed_

/-- Whether READY kernel x comes before k in the order in which gates are armed (05 R94). -/
def gateBefore (s : State) (x k : Kernel) : Bool :=
  decide (kernelPrio s k < kernelPrio s x) || (decide (kernelPrio s x = kernelPrio s k) && decide (x.kid < k.kid))

/-- The next gang, or the gangs of the next crew, that a placed kernel has to arm here: the ranks and the cores of each; none where one is not in its place now. -/
def nextGangs (s : State) (k : Kernel) : Option (List (List Nat × List Nat)) :=
  match k.todo with
  | [] => none
  | i :: _ => (((gateGroups k).drop i).take (if k.shape = 2 then k.crew else 1)).mapM fun g =>
      match groupPlace s k g with | some (ch, cs) => if ch = s.chip then some (g, cs) else none | none => none

/-- The rows of some gangs. -/
def gangRows (l : List (List Nat × List Nat)) : List Nat := l.filterMap fun x => x.2.head?.map rowOf

/-- Whether another crew gate waits for one of some rows: no new gate is armed there (05 R94). Of two crews that wait the one that comes first goes. -/
def crewWaits (s : State) (k : Kernel) (rows : List Nat) : Bool :=
  s.kernels.any fun x =>
    decide (x.kid ≠ k.kid ∧ x.shape = 2 ∧ x.state = 1) && x.placed && kernelOk s x && kernelFirst s x true && (decide (k.shape = 1) || gateBefore s x k) &&
    ((nextGangs s x).any fun l => (gangRows l).any fun r => decide (r ∈ rows))

/-- The next gate of a placed kernel armed on this chip: a gang's where no gate stands on its row; a crew's whole, where none stands on any of its rows and none
of a crew on its die (05 R94). A gang whose ranks have been moved since waits until they are in place again (DESIGN CHOICE, log 55). -/
def armNext (s : State) (kid : Nat) : State :=
  match kernelOf s kid with
  | none => s
  | some k =>
    if !kernelFirst s k true then s
    else
      match nextGangs s k with
      | none => s
      | some l =>
        match launchPay s k with
        | none => if k.armed = 0 ∧ kernelChip kid = s.chip then badKernel s k 0x45 else s
        | some pay =>
          let rows := gangRows l
          let crewOn := s.kernels.any fun x => decide (x.shape = 2) && x.gates.any fun r => decide (some (r / 64) = rows.head?.map (· / 64))
          if (rows.any fun r => decide (r ∈ armedRows s)) || (decide (k.shape = 2) && crewOn) || crewWaits s k rows || (l.any fun x => !gateable s x.2) then s
          else
            let n : Nat := (l.map (·.1.length)).sum
            let (crew, s) := if k.shape = 2 then
                (some (nextGid s), { s with gangs := s.gangs ++ [{ gid := nextGid s, kernel := kid, members := l.flatMap (·.2), present := l.flatMap (·.2), size := k.gang, row := 0, isCrew := true }] })
              else (none, s)
            let s := updKernel s kid fun x => { x with todo := x.todo.tail, live := if kernelChip kid = s.chip then x.live + n else x.live }
            let s := l.foldl (fun s x => armGang s k pay x.1 x.2 crew) s
            -- a kernel of another chip: its scheduler counts what is armed here
            if kernelChip kid = s.chip then gatesDone s kid (gateGroups k).length
            else
              let s := updKernel s kid fun x => { x with state := if x.todo = [] then 2 else 1 }
              mgmtTo s (kernelChip kid) k.cid 0x21 (.mgmt 24 (l.length + 2 ^ 32 * (kid + 2 ^ 32 * n)))

/-- The places of a gang or crew kernel checked, before any gate is armed (05 R93): BADPLACE, or which gangs each chip has to arm. -/
def placeGangs (s : State) (k : Kernel) : State :=
  let gs := gateGroups k
  match gs.mapM fun g => groupPlace s k g with
  | none => badKernel s k 0x46
  | some ps =>
    if k.shape = 2 ∧ crewsOk k ps = false then badKernel s k 0x46
    else if gs = [] then settleKernel (updKernel (freeEntry s k) k.kid fun k => { k with state := 2 }) k.kid
    else
      let step := if k.shape = 2 then k.crew else 1
      let idx := fun (ch : Nat) => (List.range gs.length).filter fun i => decide (i % step = 0) && decide ((ps[i]?).map (·.1) = some ch)
      let chips := (ps.map (·.1)).foldl addSorted []
      let s := updKernel s k.kid fun x => { x with placed := true, todo := idx s.chip }
      chips.foldl (fun s ch =>
        if ch = s.chip then s else emit s { mgmtPkt s ch k.cid 0x21 (.mgmt 23 0) with kinfo := some { k with placed := true, todo := idx ch, live := 0, gates := [], armed := 0, qentry := false } }) s

/-- GATE_ARM: the first READY gang or crew kernel of a die is checked for its place, once all of its ranks are there, and its next gate is armed (05 R93, R94). -/
def execGateArm (die kid : Nat) (s : State) : Out :=
  match kernelOf s kid with
  | none => .next s
  | some k =>
    if k.die ≠ die ∨ k.state ≠ 1 ∨ (k.shape ≠ 1 ∧ k.shape ≠ 2) ∨ kernelOk s k = false then .next s
    else if k.placed then .next (armNext s kid)
    else
      let st := k.ranks.map fun r => reState (rankEntry s k.cid r)
      if 3 ∈ st ∧ 0 ∉ st then .next (bringIn s k)
      else if 2 ∈ st ∧ 0 ∉ st then .next s
      else .next (armNext (placeGangs s k) kid)

/-! ### The next activation of a core (05 R90, R91, R93, R101) -/

/-- A kernel's activation starts on a row: its array is to ramp up (04 R76). -/
def rowStart (s : State) (c kid : Nat) : State :=
  if isCompute c ∧ kid ≠ 0 then updDie s (dieOf c) fun d => { d with rows := mupd d.rows (rowOf c) {} (kernelOn s.now kid) } else s

/-- The rows that share the gate of a row: those of the gang's crew, or the row alone. -/
def gateRows (s : State) (kid row : Nat) : List Nat :=
  match s.gangs.reverse.find? fun g => decide (g.kernel = kid ∧ g.row = row ∧ g.isCrew = false) with
  | some g => if g.crew.isNone then [row] else (s.gangs.filter fun x => decide (x.crew = g.crew ∧ x.kernel = kid)).map (·.row)
  | none => [row]

/-- A gate drops when every member of its gang, or of its whole crew, has started (05 R93, R94). -/
def gateDrop (s : State) (kid row : Nat) : State :=
  let rows := gateRows s kid row
  if s.cores.any fun kv => isCompute kv.1 && decide (rowOf kv.1 ∈ rows) && kv.2.gates.any fun g => decide (g.1 = kid) then s
  else settleKernel (updKernel s kid fun k => { k with gates := k.gates.filter fun r => !decide (r ∈ rows) }) kid

/-- The gang of which a core is a member in a kernel, and its crew. -/
def gangFor (s : State) (kid c : Nat) : Option Nat × Option Nat :=
  match s.gangs.reverse.find? fun g => decide (g.kernel = kid ∧ g.isCrew = false ∧ c ∈ g.members ∧ c ∈ g.present) with
  | some g => (some g.gid, g.crew)
  | none => (none, none)

/-- A message that does not start: its live count falls, and what stands behind it is released (05 R101, 06 R118). -/
def discard (s : State) (c : Nat) (m : QMsg) : State := report (msgGone s c m) m.hdr.kernel (-1) none

/-- What becomes of a message when it is chosen: none when it may start. -/
def headFate (s : State) (c slot : Nat) (m : QMsg) : Option State :=
  let k := coreOf s c
  if !incOk s (niOf s c) m.cid m.inc then some (staleAt s c)
  else if m.poison && isSup c then some (failMsg (msgGone s c m) 0x25 m.cid m.inc m.hdr.trank m.aborts m.hdr)
  else if k.cancel.any fun j => decide (j.1 = m.hdr.job ∧ m.hdr.kernel ≠ 0) then some (discard s c m)
  else if !handlerV (handlerOf (slotOf k slot) m.hdr.handler) then some (failMsg (msgGone s c m) 0x41 m.cid m.inc m.hdr.trank m.aborts m.hdr)
  else none

/-- The head of a queue with what R90 orders by: effective priority, cycle of the last service, place. -/
def candidates (s : State) (c : Nat) : List (Nat × Nat × QMsg × Nat × Nat) :=
  let k := coreOf s c
  (List.range 16).filterMap fun i =>
    let t := slotOf k (i / 4)
    let q := queueOf t (i % 4)
    match q.msgs, t.resident with
    | m :: _, some r =>
      if ctxState (ctxOf s r.cid) = 1 then some (i / 4, i % 4, m, min 7 (m.hdr.prio + q.bump), q.served) else none
    | _, _ => none

/-- The best of the candidates, which come in order of slot and queue. -/
def bestOf : List (Nat × Nat × QMsg × Nat × Nat) → Option (Nat × Nat × QMsg)
  | [] => none
  | x :: xs =>
    let y := xs.foldl (fun b y => if b.2.2.2.1 < y.2.2.2.1 ∨ (b.2.2.2.1 = y.2.2.2.1 ∧ y.2.2.2.2 < b.2.2.2.2) then y else b) x
    some (y.1, y.2.1, y.2.2.1)

/-- The two copies of a paired message start together (04 R71): none while no second core is free. -/
def startPair (s : State) (c slot qn : Nat) (m : QMsg) : Option State :=
  match pairable s c slot m.addr m.len m.avoid with
  | none => none
  | some d =>
    let bs := rdBytes (coreOf s c).lm m.addr m.len
    let s := if m.len = 0 then s else lmWrite s d m.addr bs
    let rank := ((slotOf (coreOf s c) slot).resident.map (·.rank)).getD 0xFFFF
    let mark := fun (k : Core) => { k with act := k.act.map fun a => { a with home := some c, rank := rank } }
    let s := updCore (startAct s c slot qn m none none) c mark
    let s := updCore (startAct s d slot qn m none none false) d mark
    some (rowStart (rowStart (linkPair s c d) c m.hdr.kernel) d m.hdr.kernel)

/-- ACTIVATION_START: an idle core takes a waiting successor, else the gate armed for it, else the head that R90 chooses; a head that may not
start is dropped or reported, and the choice is made again in a later step. -/
def execActivationStart (core : Nat) (s : State) : Out :=
  let k := coreOf s core
  if !canStart s core then .next s
  else if k.succ.isSome then
    let t := k.succ.bind (·.home) |>.bind fun _ => s.cores.find? fun kv => decide (kv.1 ≠ core) && kv.2.succ.any fun a => decide (some a.msg.hdr.msgid = k.succ.map (·.msg.hdr.msgid))
    match t with
    | some (d, _) => if canStart s d then .next (linkPair (startSucc (startSucc s core) d) core d) else .next s
    | none => .next (startSucc s core)
  else if k.stopped && k.gates.isEmpty then .next s
  else
    match k.gates with
    | (kid, slot, m) :: gs =>
      let s := setCore s core { k with gates := gs }
      let (g, crew) := gangFor s kid core
      let row := rowOf core
      let (m, s) := if m.late then placeLaunch s core slot m else (m, s)
      match headFate s core slot m with
      | some s => .next (gateDrop (leaveGang s core g) kid row)
      | none => .next (gateDrop (rowStart (startAct s core slot m.hdr.queue m g crew false) core kid) kid row)
    | [] =>
      match bestOf (candidates s core) with
      | none => .next s
      | some (slot, qn, m) =>
        let pop := updCore s core fun k => updSlot k slot fun t => setQueue t qn { queueOf t qn with msgs := (queueOf t qn).msgs.tail }
        -- a poisoned queue entry is consumed by the registers that it is written to
        if m.poison && !isSup core then .next (sealCore s core) else
        match headFate pop core slot m with
        | some s => .next s
        | none =>
          if (kernelOf s m.hdr.kernel).any (·.paired) then
            match startPair pop core slot qn m with
            | some s => .next s
            | none => .next s
          else .next (rowStart (startAct pop core slot qn m none none) core m.hdr.kernel)

end Sys2Proof.Machine
end

