-- ==== Sys2Proof/Machine/Hedge.lean ====
section
/-! DEFINITION. The Hedgerow exclusion dispatcher: registrations, lock engines, the window, stakes, spawns and job cancel (06 R103 to R120; 20 R345,
R346, R348; 21 R350, R351). Lock messages travel in class CTRL (log 35). -/

namespace Sys2Proof.Machine

/-! ### Registrations (06 R103, R104) -/

/-- The pages of [va, va + n) with their translations for reading; none where one does not translate. -/
def pinPages (s : State) (cid va n acc : Nat) : Option (SMap Nat) :=
  if n = 0 then some []
  else
    ((List.range ((va + n - 1) / 2 ^ 15 - va / 2 ^ 15 + 1)).mapM fun i =>
      let p := va / 2 ^ 15 + i
      (xlate? s cid (p * 2 ^ 15) acc).map fun pa => (p, pa))

/-- A registration's list of a key's entries joined. -/
def joinPages (a b : SMap Nat) : SMap Nat := b.foldl (fun m p => mput m p.1 p.2) a

/-- OFF[e] of a record. -/
def adjOff (s : State) (a : AdjReg) (e : Nat) : Nat := adjRead s a (a.off + 4 * e) 4

/-- Identifiers in the neighbour list of an element, as recorded. -/
def adjList (s : State) (a : AdjReg) (e : Nat) : List Nat :=
  let lo := adjOff s a e
  (List.range (adjOff s a (e + 1) - lo)).map fun i => adjRead s a (a.nbr + 4 * (lo + i)) 4

/-- The first n offsets never fall. -/
def offsRise (s : State) (a : AdjReg) : Nat → Bool
  | 0 => true
  | n + 1 => offsRise s a n && decide (adjOff s a n ≤ adjOff s a (n + 1))

/-- The owner rank of an element is VALID or ABSENT, and lies in the context's partition. -/
def ownerOk (s : State) (a : AdjReg) (e : Nat) : Bool :=
  let r := rankEntry s a.cid (ownerRank s a e)
  (decide (reState r = 1) || decide (reState r = 3)) && !foreignCore s a.cid r

/-- Elements below n that a die of this chip owns. -/
def ownedBelow (s : State) (a : AdjReg) (die : Nat) : Nat → Nat
  | 0 => 0
  | n + 1 => ownedBelow s a die n + b2n (decide (ownerAt s a n = (s.chip, die)))

/-- Hold-store bytes of one of this chip's dies that a registration takes: 16 for each element the die owns, and where it is the registering die, the
snapshot. DEDUCED: a snapshot takes 8 bytes a page there, as a layout's does (06 R107, 08 R166, 23 R372; log 19). -/
def holdTaken (s : State) (die : Nat) (a : AdjReg) : Nat :=
  16 * ownedBelow s a die a.nelem + (if a.home = some die then 8 * a.pages.length else 0)

/-- Hold-store bytes of a die that the standing registrations and layouts take. -/
def holdUsed (s : State) (die : Nat) : Nat :=
  (s.adjs.map (holdTaken s die)).sum + ((dieAt s die).layouts.map fun l => 8 * l.pages.length).sum

/-- Whether a registration finds no room in the hold store of one of this chip's dies (06 R104, R107). -/
def holdFull (s : State) (a : AdjReg) : Bool :=
  decide (holdUsed s 0 + holdTaken s 0 a > s.holdMiB * 2 ^ 20) || decide (holdUsed s 1 + holdTaken s 1 a > s.holdMiB * 2 ^ 20)

/-- The checks of 06 R104 in order at the registering die: the registration, or the status. -/
def adjCheck (s : State) (die cid inc num addr : Nat) : AdjReg ⊕ Nat :=
  if s.adjs.any fun a => decide (a.cid = cid ∧ a.inc = inc ∧ a.num = num) then .inr 1
  else
    match (if addr < 2 ^ 57 then readWords s cid addr 8 else none) with
    | none => .inr 0x26
    | some w =>
      let g := fun i => w.getD i 0
      let a : AdjReg := { cid := cid, inc := inc, num := num, nelem := fld (g 0) 31 0, blkshift := fld (g 0) 39 35, off := (g 1).toNat, nbr := (g 2).toNat,
                          map := (g 3).toNat, recAddr := addr, pages := [], hbase := 256 * Config.holdAt cid num, home := some die }
      if fld (g 4) 7 0 ≠ 1 ∨ fld (g 0) 63 40 ≠ 0 ∨ fld (g 0) 34 32 ≠ 0 ∨ fld (g 4) 63 8 ≠ 0 ∨ g 5 ≠ 0 ∨ g 6 ≠ 0 ∨ g 7 ≠ 0 ∨ a.nelem = 0 ∨ a.blkshift > 24 ∨
         addr % 64 ≠ 0 ∨ a.off % 4 ≠ 0 ∨ a.nbr % 4 ≠ 0 then .inr 0x61
      else
        match pinPages s cid a.off (4 * (a.nelem + 1)) 0 with
        | none => .inr 0x26
        | some p1 =>
          let a := { a with pages := p1 }
          match pinPages s cid a.nbr (4 * adjOff s a a.nelem) 0, pinPages s cid a.map (2 * ((a.nelem - 1) / 2 ^ a.blkshift + 1)) 0, pinPages s cid addr 64 0 with
          | some p2, some p3, some p4 =>
            let a := { a with pages := joinPages (joinPages (joinPages p1 p2) p3) p4 }
            if adjOff s a 0 ≠ 0 ∨ offsRise s a a.nelem = false then .inr 0x61
            else if ((List.range a.nelem).any fun e => (adjList s a e).any fun f => decide (f ≥ a.nelem)) = true then .inr 0x61
            else if ((List.range a.nelem).all fun e => ownerOk s a e) = false then .inr 0x61
            else if holdFull s a then .inr 0x62
            else .inl a
          | _, _, _ => .inr 0x26

/-- Whether a kernel that uses a registration has not ended. -/
def adjBusy (s : State) (cid inc num : Nat) : Bool :=
  s.kernels.any fun k => decide (k.cid = cid ∧ k.inc = inc ∧ k.shape = 3 ∧ k.adj = num) && decide (k.state < 3 ∧ kernelChip k.kid = s.chip)

/-- A registration removed, and its hold words. -/
def adjGone (s : State) (cid inc num : Nat) : State :=
  { s with adjs := s.adjs.filter fun a => !decide (a.cid = cid ∧ a.inc = inc ∧ a.num = num), holds := s.holds.filter fun h => !decide (h.cid = cid ∧ h.reg = num) }

/-- The status of an ADJREG, to the core that issued it. -/
def adjAnswer (s : State) (o : Op) (st : Nat) : State :=
  emit s { src := dispOf s (dieOf o.core), dst := niOf s o.core, cls := 4, op := 0x10, cid := o.cid, inc := o.sample, len := 1, body := .rdata o.arg (wd st) false }

/-- An ADJREG whose question every other chip of the span has answered: done, or undone where one refused. An operation's U is 1 for a drop, its ARG2 the
number and, above it, the status so far. -/
def adjSettle (s : State) (o : Op) : State :=
  let st := o.arg2 / 16
  let num := o.arg2 % 16
  let s := { s with ops := s.ops.filter fun x => !decide (x.tok = o.tok) }
  if (o.u = 1 ∧ st = 0) ∨ (o.u ≠ 1 ∧ st ≠ 0) then
    let copy : AdjReg := { cid := o.cid, inc := o.sample, num := num, nelem := 0, blkshift := 0, off := 0, nbr := 0, map := 0, recAddr := 0, pages := [] }
    adjAnswer ((spanOthers s o.cid).foldl (fun s c => mgmtTo s c o.cid 0x21 (.adjcopy copy 2 0)) (adjGone s o.cid o.sample num)) o st
  else adjAnswer s o st

/-- Another chip's answer about a registration. -/
def adjBack (s : State) (tok st chip : Nat) : State :=
  match opOf s tok with
  | none => s
  | some o =>
    let o' := { o with left := o.left.erase (chipCode chip), arg2 := if st = 0 then o.arg2 else st * 16 + o.arg2 % 16 }
    if o.kind ≠ 5 then s
    else if o'.left = [] then adjSettle s o'
    else updOp s tok fun _ => o'

/-- A registration, or the question about a drop, put to the other chips of the span; with none, it is settled at once. -/
def adjAsk (s : State) (die : Nat) (p : Packet) (a : AdjReg) (tok : Nat) (drop : Bool) : State :=
  let others := spanOthers s p.cid
  let o : Op := { tok := s.opNext, kind := 5, core := agCore p.src, cid := p.cid, sample := p.inc, u := b2n drop, left := others.map chipCode, arg := tok, arg2 := a.num }
  if others = [] then answerCore (if drop then adjGone s p.cid p.inc a.num else s) (dispOf s die) p tok 0
  else
    others.foldl (fun s c => mgmtTo s c p.cid 0x21 (.adjcopy a (b2n drop) o.tok)) { s with ops := s.ops ++ [o], opNext := s.opNext + 1 }

/-- ADJREG_REQUEST (06 R104, 20 R346): registered, dropped, or refused, and the status answered; the other chips of the context's span share the
registration (log 49). -/
def execAdjregRequest (src die : Nat) (s : State) : Out :=
  let dst := dispOf s die
  match chanQ s src dst 0 with
  | [] => .next s
  | p :: _ =>
    match p.body with
    | .adjreg num addr tok =>
      let s' := chanPop s src dst 0
      if !incOk s dst p.cid p.inc then .next (staleDrop s' p)
      else if addr = 0 then
        match s.adjs.find? fun a => decide (a.cid = p.cid ∧ a.inc = p.inc ∧ a.num = num) with
        | none => .next (answerCore s' dst p tok 0)
        | some a => if adjBusy s p.cid p.inc num then .next (answerCore s' dst p tok 1) else .next (adjAsk s' die p a tok true)
      else
        match adjCheck s die p.cid p.inc num addr with
        | .inr st => .next (answerCore s' dst p tok (wd st))
        | .inl a => .next (adjAsk { s' with adjs := s'.adjs ++ [a] } die p a tok false)
    | _ => .next s

/-! ### Lock sets (06 R105, R109) -/

/-- N(e): neighbours, repeats and e itself ignored. -/
def nbrs (s : State) (a : AdjReg) (e : Nat) : List Nat := ((adjList s a e).filter fun f => decide (f ≠ e)).foldl (fun l f => addTo f l) []

/-- A lock inserted in ascending (chip, element) order. -/
def lockInsert (chip : Nat → Nat) (x : Nat × Bool) : List (Nat × Bool) → List (Nat × Bool)
  | [] => [x]
  | y :: l => if chip x.1 < chip y.1 ∨ (chip x.1 = chip y.1 ∧ x.1 < y.1) then x :: y :: l else y :: lockInsert chip x l

/-- The locks of element e at a radius, in ascending (chip, element) order. -/
def lockSet (s : State) (a : AdjReg) (e radius : Nat) : List (Nat × Bool) :=
  let n := nbrs s a e
  let d2 := (n.flatMap fun f => nbrs s a f).foldl (fun l f => if f = e ∨ f ∈ n then l else addTo f l) []
  let l := match radius with
    | 0 => [(e, true)]
    | 1 => (e, true) :: n.map fun f => (f, false)
    | 2 => (e, true) :: n.map fun f => (f, true)
    | _ => ((e, true) :: n.map fun f => (f, true)) ++ d2.map fun f => (f, false)
  l.foldl (fun acc x => lockInsert (fun f => (ownerAt s a f).1) x acc) []

/-! ### Lock engines (06 R107, R108, R116) -/

/-- The lock engine of a die's slice. An operand `eng` of a lock message's step names one: die + 2 x slice. -/
def lockOf (s : State) (die sl : Nat) : Nat := agentId s die 6 (1 + sl)

/-- Whether key a is older than key b (06 R116). -/
def olderKey (a b : Nat × Nat × Nat × Nat) : Bool :=
  if a.1 ≠ b.1 then seqLt a.1 b.1
  else decide (a.2.1 < b.2.1) || (decide (a.2.1 = b.2.1) && (decide (a.2.2.1 < b.2.2.1) || (decide (a.2.2.1 = b.2.2.1) && decide (a.2.2.2 < b.2.2.2))))

/-- A hold word replaced; one with nothing in it is not listed. -/
def setHold (s : State) (h : HoldW) : State :=
  let rest := s.holds.filter fun x => !decide (x.cid = h.cid ∧ x.reg = h.reg ∧ x.elem = h.elem)
  { s with holds := if h.w = false ∧ h.readers = 0 ∧ h.stake = none then rest else rest ++ [h] }

/-- Whether a lock can be granted (06 R108). -/
def grantable (h : HoldW) (write : Bool) (key : Option (Nat × Nat × Nat × Nat)) : Bool :=
  (if write then !h.w && decide (h.readers = 0) else !h.w && decide (h.readers < 32767)) &&
  (match h.stake with
   | none => true
   | some st => match key with | some k => decide (k = st) || olderKey k st | none => false)

/-- One lock granted. -/
def grantLock (s : State) (cid : Nat) (r : LockReq) (x : Nat × Bool) : State :=
  let h := holdOf s cid r.reg x.1
  setHold s (if x.2 then { h with w := true, wchip := r.chip, wdie := r.die, widx := r.widx } else { h with readers := h.readers + 1 })

/-- One lock given back. -/
def freeLock (s : State) (cid : Nat) (r : LockReq) (x : Nat × Bool) : State :=
  let h := holdOf s cid r.reg x.1
  setHold s (if x.2 then { h with w := false, wchip := 0, wdie := 0, widx := 0 } else { h with readers := h.readers - 1 })

/-- The clock of a slice's lock engine. -/
def engClockOf (s : State) (die sl : Nat) : Nat := mgetD (dieAt s die).disp.engClocks sl 0

/-- A response of an engine to a dispatcher, stamped with its clock. -/
def lockAnswer (s : State) (die sl cid inc : Nat) (r : LockReq) (granted older : Bool) : State :=
  emit s { src := lockOf s die sl, dst := r.chip * 65536 + dispOf s r.die % 65536, cls := 7, op := 0x21, cid := cid, inc := inc, len := 1,
           body := .lockRsp r granted older (engClockOf s die sl) }

/-- An engine's clock after a request that carries a clock (06 R116). -/
def engClock (s : State) (die sl : Nat) (r : LockReq) : State :=
  match r.key with
  | some k => updDie s die fun d => { d with disp := { d.disp with engClocks := mput d.disp.engClocks sl (if seqLt k.1 (engClockOf s die sl) then engClockOf s die sl else (k.1 + 1) % 2 ^ 32) } }
  | none => s

/-- Waiting staked acquisitions looked at again, in arrival order, after a release or a lift. The grant is an execution point: one of an old incarnation
is dropped there (03 R61). -/
def retest (die sl : Nat) : List LockReq → State → State
  | [], s => s
  | r :: rs, s =>
    let keep := updDie s die fun d => { d with disp := { d.disp with waiters := d.disp.waiters ++ [r] } }
    match r.locks with
    | x :: _ =>
      let h := holdOf s r.cid r.reg x.1
      let older := match h.stake, r.key with | some st, some k => decide (st ≠ k) && olderKey st k | _, _ => false
      if !incOk s (lockOf s die sl) r.cid r.inc then retest die sl rs (count s die 0)
      else if r.kind = 5 then (if older then retest die sl rs keep else retest die sl rs (lockAnswer s die sl r.cid r.inc { r with kind := 1 } false false))
      else if grantable h x.2 r.key then retest die sl rs (lockAnswer (grantLock s r.cid r x) die sl r.cid r.inc r true false)
      else if older then
        retest die sl rs (lockAnswer (updDie s die fun d => { d with disp := { d.disp with waiters := d.disp.waiters ++ [{ r with kind := 5 }] } }) die sl r.cid r.inc r false true)
      else retest die sl rs keep
    | [] => retest die sl rs s

/-- Those that wait at a slice's engine. -/
def retestAll (s : State) (die sl : Nat) : State :=
  let w := (dieAt s die).disp.waiters
  retest die sl (w.filter fun r => decide (r.eng = sl)) (updDie s die fun d => { d with disp := { d.disp with waiters := w.filter fun r => !decide (r.eng = sl) } })

/-- The head lock message of a channel to a slice's engine, where it is of the kinds asked for. -/
def lockHead (s : State) (src die sl : Nat) (kinds : List Nat) : Option (Packet × LockReq) :=
  match chanQ s src (lockOf s die sl) 7 with
  | [] => none
  | p :: _ => match p.body with | .lock r => if r.kind ∈ kinds then some (p, r) else none | _ => none

/-- LOCK_REQUEST: a try, granted all or none, or a staked acquisition, which waits (06 R108, R116; 21 R351). -/
def execLockRequest (src eng : Nat) (s : State) : Out :=
  let die := eng % 2
  let sl := eng / 2
  match lockHead s src die sl [0, 1] with
  | none => .next s
  | some (p, r) =>
    let s' := chanPop s src (lockOf s die sl) 7
    if !incOk s (lockOf s die sl) p.cid p.inc then .next (staleDrop s' p)
    else
      let s' := engClock s' die sl r
      if r.kind = 0 then
        if r.locks.all fun x => grantable (holdOf s' p.cid r.reg x.1) x.2 r.key
        then .next (lockAnswer (r.locks.foldl (fun s x => grantLock s p.cid r x) s') die sl p.cid p.inc r true false)
        else .next (lockAnswer s' die sl p.cid p.inc r false false)
      else .next (retest die sl [{ r with cid := p.cid, inc := p.inc, eng := sl }] s')

/-- LOCK_RELEASE (06 R108). -/
def execLockRelease (src eng : Nat) (s : State) : Out :=
  let die := eng % 2
  let sl := eng / 2
  match lockHead s src die sl [2] with
  | none => .next s
  | some (p, r) =>
    let s' := chanPop s src (lockOf s die sl) 7
    if !incOk s (lockOf s die sl) p.cid p.inc then .next (staleDrop s' p)
    else .next (retestAll (r.locks.foldl (fun s x => freeLock s p.cid r x) s') die sl)

/-- STAKE_REQUEST: stakes placed, an older one staying and a younger one replaced; or lifted where they still stand (06 R116). -/
def execStakeRequest (src eng : Nat) (s : State) : Out :=
  let die := eng % 2
  let sl := eng / 2
  match lockHead s src die sl [3, 4] with
  | none => .next s
  | some (p, r) =>
    let s' := chanPop s src (lockOf s die sl) 7
    if !incOk s (lockOf s die sl) p.cid p.inc then .next (staleDrop s' p)
    else if r.kind = 3 then
      let s' := engClock s' die sl r
      let s' := r.locks.foldl (fun s x =>
        let h := holdOf s p.cid r.reg x.1
        match h.stake, r.key with
        | some st, some k => if olderKey st k then s else setHold s { h with stake := some k }
        | _, k => setHold s { h with stake := k }) s'
      .next (lockAnswer s' die sl p.cid p.inc r true false)
    else
      let s' := r.locks.foldl (fun s x =>
        let h := holdOf s p.cid r.reg x.1
        if h.stake = r.key then setHold s { h with stake := none } else s) s'
      .next (retestAll s' die sl)

/-! ### The window (06 R111 to R116) -/

def updDisp (s : State) (die : Nat) (f : Dispatcher → Dispatcher) : State := updDie s die fun d => { d with disp := f d.disp }
def taskAt (s : State) (die age : Nat) : Option Task := (dieAt s die).disp.window.find? fun t => decide (t.age = age)
def updTask (s : State) (die age : Nat) (f : Task → Task) : State := updDisp s die fun x => { x with window := x.window.map fun t => if t.age = age then f t else t }
def dropTask (s : State) (die age : Nat) : State := updDisp s die fun x => { x with window := x.window.filter fun t => !decide (t.age = age) }

/-- The registration of a task. -/
def taskAdj (s : State) (t : Task) : Option AdjReg := s.adjs.find? fun a => decide (a.cid = t.cid ∧ a.inc = t.inc ∧ a.num = t.reg)

/-- The header of reports about a task that did not start. -/
def taskHdr (s : State) (t : Task) : MsgHdr := { kernel := t.kernel, job := ((kernelOf s t.kernel).map (·.job)).getD 0, msgid := t.msgid, trank := t.rank }

/-- The engine of an element's hold word: chip, die and slice. -/
def engineAt (s : State) (a : AdjReg) (e : Nat) : Nat × Nat × Nat := ((ownerAt s a e).1, (ownerAt s a e).2, holdSlice s a e)

/-- Locks cut into runs that go to one engine, each with it, in order. -/
def byEngine (s : State) (a : AdjReg) (l : List (Nat × Bool)) : List ((Nat × Nat × Nat) × List (Nat × Bool)) :=
  let keys := l.foldl (fun ks x => addTo (engineAt s a x.1) ks) []
  keys.map fun k => (k, l.filter fun x => decide (engineAt s a x.1 = k))

/-- A lock message of a task to an engine. -/
def lockSend (s : State) (die : Nat) (t : Task) (at_ : Nat × Nat × Nat) (locks : List (Nat × Bool)) (kind : Nat) (compound : Bool) : State :=
  emit s { src := dispOf s die, dst := at_.1 * 65536 + lockOf s at_.2.1 at_.2.2 % 65536, cls := 7, op := 0x21, cid := t.cid, inc := t.inc, len := 1,
           body := .lock { chip := s.chip, die := die, widx := t.widx, age := t.age, reg := t.reg, locks := locks, kind := kind, compound := compound, key := t.key } }

/-- Locks of a task given back to their engines. -/
def releaseLocks (s : State) (die : Nat) (t : Task) (l : List (Nat × Bool)) : State :=
  match taskAdj s t with
  | some a => (byEngine s a l).foldl (fun s x => lockSend s die t x.1 x.2 2 false) s
  | none => s

/-- A release that counts for 06 R111 step 3. -/
def noteRelease (s : State) (die cid inc reg : Nat) : State :=
  updDisp s die fun x => { x with window := x.window.map fun u => if u.cid = cid ∧ u.inc = inc ∧ u.reg = reg then { u with failedSince := false } else u }

/-- Stakes of a task lifted, and its slot freed. -/
def liftStakes (s : State) (die : Nat) (t : Task) : State :=
  match t.key, taskAdj s t with
  | some k, some a =>
    let s := (byEngine s a t.locks).foldl (fun s x => lockSend s die t x.1 x.2 4 false) s
    updDisp (updTask s die t.age fun t => { t with key := none }) die fun x => { x with stakes := without k.2.2.2 x.stakes }
  | some k, none => updDisp s die fun x => { x with stakes := without k.2.2.2 x.stakes }
  | none, _ => s

/-- The share of the window that a partition may hold (06 R111). -/
def windowShare (s : State) (die cid : Nat) : Nat :=
  let x := (dieAt s die).disp
  let pend := ((x.window.map (·.cid)) ++ (x.spawnq.map (·.cid)) ++ x.cursors.filterMap fun c => (kernelOf s c.kernel).map (·.cid)).map fun c => ctxPart (ctxOf s c)
  let parts := pend.foldl (fun l p => addTo p l) []
  let sum := (parts.map fun p => (mgetD s.parts p {}).weight).sum
  let mine := (mgetD s.parts (ctxPart (ctxOf s cid)) {}).weight
  max 64 (if sum = 0 then 4096 else 4096 * mine / sum)

/-- Whether a context may enter one more task. -/
def windowRoom (s : State) (die cid : Nat) : Bool :=
  let w := (dieAt s die).disp.window
  decide (w.length < 4096) && decide ((w.filter fun t => decide (ctxPart (ctxOf s t.cid) = ctxPart (ctxOf s cid))).length < windowShare s die cid)

/-- The lowest window entry that is free. -/
def freeEntryNo (s : State) (die : Nat) : Nat :=
  let w := (dieAt s die).disp.window
  ((List.range (w.length + 1)).find? fun i => !(w.any fun t => decide (t.widx = i))).getD 0

/-- A task enters the window with the next age. -/
def enterTask (s : State) (die : Nat) (k : Kernel) (elem : Nat) (pay : List Byte) (spawned : Bool) (tag srank : Nat) (poison : Bool := false) : State :=
  let i := freeEntryNo s die
  updDisp s die fun x => { x with nextAge := x.nextAge + 1, window := x.window ++
    [{ age := x.nextAge, widx := i, kernel := k.kid, cid := k.cid, inc := k.inc, reg := k.adj, elem := elem, radius := k.radius, pay := pay, spawned := spawned,
       tag := tag, srank := srank, poison := poison }] }

/-- The cursor that comes first in the scheduler's order. -/
def firstCursor (s : State) (l : List Cursor) : Option (Cursor × Kernel) :=
  let ks := l.filterMap fun c => (kernelOf s c.kernel).bind fun k => if kernelOk s k then some (c, k) else none
  match ks with
  | [] => none
  | x :: xs => some (xs.foldl (fun b y => if kernelPrio s b.2 < kernelPrio s y.2 ∨ (kernelPrio s b.2 = kernelPrio s y.2 ∧ y.2.kid < b.2.kid) then y else b) x)

/-- WINDOW_REFILL: one free entry filled, from the spawn queue first, which is drained in arrival order, then from the cursors (06 R111, R115). -/
def execWindowRefill (die : Nat) (s : State) : Out :=
  let x := (dieAt s die).disp
  match x.spawnq.head?.bind fun w => if windowRoom s die w.cid then some w else none with
  | some w =>
    let s := updDisp s die fun d => { d with spawnq := d.spawnq.erase w }
    match kernelOf s w.kernel with
    | some k => .next (enterTask s die k w.elem w.pay true w.tag w.srank w.poison)
    | none => .next s
  | none =>
    match firstCursor s (x.cursors.filter fun c => match kernelOf s c.kernel with | some k => windowRoom s die k.cid | none => false) with
    | none => .next s
    | some (c, k) =>
      let rest := x.cursors.erase c
      match c.elems with
      | [] => .next (settleKernel (updDisp s die fun d => { d with cursors := rest }) k.kid)
      | e :: es =>
        let s := updDisp s die fun d => { d with cursors := d.cursors.map fun y => if y = c then { c with elems := es } else y }
        match launchPay s k with
        | some pay => .next (enterTask s die k e pay false 0 0xFFFF)
        | none => .next (failMsg s 0x45 k.cid k.inc 0xFFFF 0 { kernel := k.kid, job := k.job })

/-- Whether a task may be tried (06 R111 step 3). -/
def eligible (s : State) (t : Task) : Bool :=
  decide (t.state = 0) && decide (t.fails < 64) &&
  (!t.failedSince || decide (t.failedAt + 1024 ≤ s.now))

/-- The rank for an issued task: the owner, or the crew's rank on the owner's die with the fewest unfinished tasks of this chip's dispatchers (06 R112). -/
def taskRank (s : State) (k : Kernel) (a : AdjReg) (e : Nat) : Nat :=
  let owner := ownerRank s a e
  if k.place = 0 then owner
  else
    let ok := k.ranks.filter fun r =>
      let w := rankEntry s k.cid r
      (decide (reState w = 1) || decide (reState w = 3)) && decide ((reChip w, reDie w) = ownerAt s a e) && !foreignCore s k.cid w
    let load := fun r => (((dieAt s 0).disp.window ++ (dieAt s 1).disp.window).filter fun t => decide (t.cid = k.cid ∧ t.state = 4 ∧ t.rank = r)).length
    match ok with
    | [] => owner
    | r :: rs => rs.foldl (fun b r => if load r < load b ∨ (load r = load b ∧ r < b) then r else b) r

/-- The message of an issued task (06 R112, R113): sent, held back while its rank is in transit, or reported when it has none. -/
def issueTask (s : State) (die : Nat) (t : Task) : State :=
  match kernelOf s t.kernel, taskAdj s t with
  | some k, some a =>
    let rank := taskRank s k a t.elem
    let w := rankEntry s k.cid rank
    let (id, s1) := freshMsg s k.cid
    let off := adjOff s a t.elem
    let h : MsgHdr := { msgid := id, job := k.job, kernel := k.kid, trank := rank, srank := if t.spawned then t.srank else 0xFFFF, tag := t.tag, handler := k.handler,
                        queue := k.queue, prio := k.prio, mkind := 5, x6 := t.elem, x7 := adjOff s a (t.elem + 1) - off, x8 := a.nbr + 4 * off }
    let s1 := updTask s1 die t.age fun t => { t with state := 4, msgid := id, rank := rank }
    match agentSend s1 (dispOf s die) k.cid k.inc rank t.pay.length h t.pay t.poison with
    | none => updTask s die t.age fun t => { t with state := 6 }
    | some s2 =>
      if reState w = 0 ∨ (reState w = 1 ∧ foreignCore s k.cid w = true) then dropTask (releaseLocks s2 die t t.granted) die t.age
      else s2
  | _, _ => dropTask s die t.age

/-- TASK_TRY: the oldest eligible task's try starts, with at most 64 in flight; one compound request where a single engine owns every lock. A task
whose set exceeds LOCKMAX is reported with BIGBALL. A task that waits only for its message to leave tries that again. -/
def execTaskTry (die age : Nat) (s : State) : Out :=
  let w := (dieAt s die).disp.window
  match taskAt s die age with
  | none => .next s
  | some t =>
    if t.state = 6 then .next (issueTask s die t)
    else
      match taskAdj s t with
      | none => .next s
      | some a =>
        if eligible s t = false ∨ (w.filter fun t => decide (t.state = 1)).length ≥ 64 ∨ (w.any fun u => decide (u.age < age) && eligible s u) = true then .next s
        else
          let l := lockSet s a t.elem t.radius
          if l.length > 8192 then .next (failMsg (dropTask s die age) 0x44 t.cid t.inc (ownerRank s a t.elem) t.aborts (taskHdr s t))
          else
            let one := l.all fun x => decide (engineAt s a x.1 = engineAt s a t.elem)
            let s := updTask s die age fun t => { t with state := 1, locks := l, granted := [], refused := false, waiting := if one then 1 else l.length }
            if one then .next (lockSend s die t (engineAt s a t.elem) l 0 true)
            else .next (l.foldl (fun s x => lockSend s die t (engineAt s a x.1) [x] 0 false) s)

/-- The next staked acquisition of a task: its first lock not yet held. -/
def acquireNext (s : State) (die : Nat) (t : Task) : State :=
  match taskAdj s t, t.locks.find? fun x => !decide (x ∈ t.granted) with
  | some a, some x => lockSend s die t (engineAt s a x.1) [x] 1 false
  | _, _ => s

/-- Stakes placed on the whole lock set of a task. -/
def placeStakes (s : State) (die : Nat) (t : Task) : State :=
  match taskAdj s t with
  | none => s
  | some a =>
    let g := byEngine s a t.locks
    let s := updTask s die t.age fun t => { t with state := 3, granted := [], waiting := g.length }
    g.foldl (fun s x => lockSend s die t x.1 x.2 3 false) s

/-- STAKE_SLOT_GRANT: the oldest task that asks receives a slot and its key (06 R116). -/
def execStakeSlotGrant (die age : Nat) (s : State) : Out :=
  let x := (dieAt s die).disp
  match taskAt s die age with
  | none => .next s
  | some t =>
    if t.state ≠ 2 ∨ x.stakes.length ≥ 64 ∨ (x.window.any fun u => decide (u.state = 2 ∧ u.age < age)) = true then .next s
    else
      let slot := ((List.range 64).find? fun i => !decide (i ∈ x.stakes)).getD 0
      let key := (x.clock, s.chip, die, slot)
      let s := updDisp s die fun d => { d with clock := (d.clock + 1) % 2 ^ 32, stakes := d.stakes ++ [slot] }
      let s := updTask s die age fun t => { t with key := some key }
      .next (placeStakes s die { t with key := some key })

/-- The dispatcher's clock after a response (06 R116). -/
def dispClock (s : State) (die clock : Nat) : State :=
  updDisp s die fun d => { d with clock := if seqLt clock d.clock then d.clock else (clock + 1) % 2 ^ 32 }

/-- A try's last response has come: the task issues, or gives back what it was granted (06 R111 steps 5 and 6). -/
def endTry (s : State) (die age : Nat) : State :=
  match taskAt s die age with
  | none => s
  | some t =>
    if t.waiting ≠ 0 then s
    else if !t.refused then issueTask s die t
    else
      let s := releaseLocks s die t t.granted
      let s := updDisp s die fun d => { d with fails := (d.fails + 1) % 2 ^ 32 }
      updTask s die age fun t => { t with state := if t.fails + 1 ≥ 64 then 2 else 0, fails := t.fails + 1, failedAt := s.now, failedSince := true, granted := [] }

/-- LOCK_RESPONSE (06 R111, R116): the head response of a channel to a die's dispatcher. A grant for a task that
is gone, a cancelled one, is given back, which withdraws its locks (R111 step 3, R118). -/
def execLockResponse (src die : Nat) (s : State) : Out :=
  let dst := dispOf s die
  match chanQ s src dst 7 with
  | [] => .next s
  | p :: _ =>
    match p.body with
    | .lockRsp r granted older clock =>
      if !incOk s dst p.cid p.inc then .next (staleDrop (chanPop s src dst 7) p)
      else
        let s' := dispClock (chanPop s src dst 7) die clock
        match (dieAt s' die).disp.window.find? fun t => decide (t.widx = r.widx ∧ t.age = r.age ∧ t.cid = p.cid ∧ t.reg = r.reg) with
        | none =>
          if granted ∧ r.kind ≤ 1 then
            .next (emit (noteRelease s' die p.cid p.inc r.reg) { src := dst, dst := src, cls := 7, op := 0x21, cid := p.cid, inc := p.inc, len := 1, body := .lock { r with kind := 2 } })
          else .next s'
        | some t =>
          if r.kind = 0 then
            let s' := updTask s' die t.age fun t => { t with waiting := t.waiting - 1, granted := if granted then t.granted ++ r.locks else t.granted, refused := t.refused || !granted }
            .next (endTry s' die t.age)
          else if r.kind = 3 then
            let s' := updTask s' die t.age fun t => { t with waiting := t.waiting - 1 }
            .next (if t.waiting = 1 then acquireNext s' die t else s')
          else if granted then
            let t' := { t with granted := t.granted ++ r.locks }
            let s' := updTask s' die t.age fun t => { t with granted := t.granted ++ r.locks }
            if t'.granted.length = t.locks.length then .next (issueTask (liftStakes s' die t') die t') else .next (acquireNext s' die t')
          else if older then
            let s' := releaseLocks s' die t t.granted
            .next (updTask s' die t.age fun t => { t with state := 5, granted := [] })
          else .next (placeStakes s' die t)
    | _ => .next s

/-- TASK_CHAIN_END (06 R114): once every effect of the chain is acknowledged and every request of it has returned, the locks are released; the task is done, or returns to the window at its
own age. -/
def execTaskChainEnd (die age : Nat) (s : State) : Out :=
  match (dieAt s die).disp.ended.find? fun e => decide (e.age = age), taskAt s die age with
  | some e, some t =>
    if ((coreOf s e.core).unack.any fun u => decide (u.tok < e.tok)) = true ∨ ((coreOf s e.core).out.any fun o => decide (o.tok < e.tok)) = true then .next s
    else
      let s := updDisp s die fun d => { d with ended := d.ended.erase e }
      let s := noteRelease (releaseLocks s die t t.granted) die t.cid t.inc t.reg
      if e.again then .next (updTask s die age fun t => { t with state := if t.fails ≥ 64 then 2 else 0, granted := [], aborts := t.aborts + 1 })
      else .next (dropTask s die age)
  | some e, none => .next (updDisp s die fun d => { d with ended := d.ended.erase e })
  | none, _ => .next s

/-- DSPN_ARRIVE (20 R345, 06 R115): one from another chip is answered once it is taken, for its flush stalls until then (log 40). -/
def execDspnArrive (src die : Nat) (s : State) : Out :=
  let dst := dispOf s die
  match chanQ s src dst 2 with
  | [] => .next s
  | p :: _ =>
    match p.body with
    | .dspn h elem pay =>
      let s' := chanPop s src dst 2
      if !incOk s dst p.cid p.inc then .next (staleDrop s' p)
      else
        let ok := markApplied (if agChip src = s.chip then s' else mgmtTo s' (agChip src) p.cid 0x21 (.mgmt 26 (agCore src + 2048 * p.tok))) src p.tok dst
        match (kernelOf s h.kernel).bind fun k => if k.cid = p.cid ∧ k.state = 2 ∧ k.shape = 3 then some k else none with
        | none => .next (failMsg ok 0x45 p.cid p.inc 0xFFFF 0 h)
        | some k =>
          match kernelAdj s k with
          | none => .next (failMsg ok 0x45 p.cid p.inc 0xFFFF 0 h)
          | some a =>
            if elem ≥ a.nelem then .next (failMsg ok 0x43 p.cid p.inc 0xFFFF 0 h)
            else if jobCancelled s die p.cid h.job then .next (report ok h.kernel (-1) none)
            else if (dieAt s die).disp.spawnq.length ≥ 65536 then .next s
            else .next (updDisp ok die fun d => { d with spawnq := d.spawnq ++ [{ kernel := h.kernel, cid := p.cid, inc := p.inc, elem := elem, tag := h.tag, srank := h.srank, pay := pay, poison := p.bad }] })
    | _ => .next s

/-! ### Job cancel (05 R101, 06 R118) -/

/-- A dispatcher's part of a cancel: the job's window tasks and spawns go, their locks and stakes are withdrawn, and its cursors stop. -/
def cancelAt (s : State) (die cid job : Nat) : State :=
  let isJob := fun (kid : Nat) => (kernelOf s kid).any fun k => decide (k.cid = cid ∧ k.job = job)
  let x := (dieAt s die).disp
  let tasks := x.window.filter fun t => isJob t.kernel && decide (t.state ≠ 4)
  let s := tasks.foldl (fun s t =>
    let s := liftStakes (releaseLocks s die t t.granted) die t
    let s := if t.granted = [] then s else noteRelease s die t.cid t.inc t.reg
    report (dropTask s die t.age) t.kernel (-1) none) s
  let s := (x.spawnq.filter fun w => isJob w.kernel).foldl (fun s w => report (updDisp s die fun d => { d with spawnq := d.spawnq.erase w }) w.kernel (-1) none) s
  (x.cursors.filter fun c => isJob c.kernel).foldl (fun s c =>
    let n := c.elems.length
    let s := updDisp s die fun d => { d with cursors := d.cursors.erase c }
    if n = 0 then s else report s c.kernel (-(n : Int)) none) s

/-- The cancel filter of an NI takes a job: a free place, else that of its oldest completed entry. -/
def filterAdd (job : Nat) (k : Core) : Core :=
  if k.cancel.length < 8 then { k with cancel := k.cancel ++ [(job, false)] }
  else match k.cancel.find? fun e => e.2 with
    | some e => { k with cancel := k.cancel.erase e ++ [(job, false)] }
    | none => k

/-- Cancel bits, filters and dispatchers of this chip for a job (05 R101 steps 1 and 2): queued kernels go to CANCELLED, one that has armed
some of its gates among them; the scheduler that holds a kernel applies its SMASK. -/
def cancelJob (s : State) (cid job : Nat) : State :=
  let part := ctxPart (ctxOf s cid)
  let s := updDie (updDie s 0 fun d => { d with cancelJobs := addTo (cid, job) d.cancelJobs }) 1 fun d => { d with cancelJobs := addTo (cid, job) d.cancelJobs }
  let s := s.cores.foldl (fun s kv => if corePart s kv.1 = some part then updCore s kv.1 (filterAdd job) else s) s
  let queued := s.kernels.filter fun k => decide (k.cid = cid ∧ k.job = job ∧ k.state ≤ 1)
  let s := queued.foldl (fun s k =>
    let s := updKernel (freeEntry s k) k.kid fun k => { k with state := 4, todo := [] }
    if kernelChip k.kid = s.chip then applySmask s k else s) s
  cancelAt (cancelAt s 0 cid job) 1 cid job

/-- Whether every cancel filter that a context's cancel would enter is full of incomplete jobs. -/
def filtersFull (s : State) (cid : Nat) : Bool :=
  s.cores.any fun kv => decide (corePart s kv.1 = some (ctxPart (ctxOf s cid))) && decide (8 ≤ kv.2.cancel.length) && kv.2.cancel.all fun e => !e.2

/-- JCAN_APPLY (20 R348); one that comes poisoned is not performed (log 33): the cancel takes effect on this chip and is passed to the other chips of the span, or BUSY is answered. -/
def execJcanApply (src die : Nat) (s : State) : Out :=
  let dst := schedOf s die
  match chanQ s src dst 2 with
  | [] => .next s
  | p :: _ =>
    match p.body with
    | .jcan job tok =>
      let s' := chanPop s src dst 2
      if !incOk s dst p.cid p.inc then .next (staleDrop s' p)
      else
        let s' := markApplied s' src p.tok dst
        if p.bad then .next (answerCore (count s' die 5) dst p tok 0x25)
        else if filtersFull s' p.cid then .next (answerCore s' dst p tok 1)
        else
          let others := spanOthers s' p.cid
          let o : Op := { tok := s'.opNext, kind := 4, core := agCore p.src, cid := p.cid, left := others, arg := job, arg2 := tok, sample := p.inc }
          let s' := cancelJob { s' with ops := s'.ops ++ [o], opNext := s'.opNext + 1 } p.cid job
          .next (others.foldl (fun s c =>
            emit s { src := fabOf s die, dst := c * 65536 + fabOf s 0 % 65536, cls := 7, op := 0x21, cid := p.cid, inc := p.inc, len := 1, body := .mgmt 1 job }) s')
    | _ => .next s

/-- JCAN_COMPLETE (05 R101 step 5): every kernel of the job has the live count 0, and the other chips have answered; the answer goes to the issuer. -/
def execJcanComplete (op : Nat) (s : State) : Out :=
  match s.ops.find? fun o => decide (o.tok = op ∧ o.kind = 4) with
  | none => .next s
  | some o =>
    if o.left ≠ [] ∨ (s.kernels.any fun k => decide (k.cid = o.cid ∧ k.job = o.arg ∧ k.live ≠ 0)) = true ∨ (s.reports.any fun r => (kernelOf s r.kernel).any fun k => decide (k.cid = o.cid ∧ k.job = o.arg)) = true then .next s
    else
      let s := { s with ops := s.ops.erase o }
      let part := ctxPart (ctxOf s o.cid)
      let s := s.cores.foldl (fun s kv =>
        if corePart s kv.1 = some part then updCore s kv.1 fun k => { k with cancel := k.cancel.map fun e => if e.1 = o.arg then (e.1, true) else e } else s) s
      match o.org with
      | some (dst, job) => .next (emit s { src := fabOf s 0, dst := dst, cls := 7, op := 0x21, cid := o.cid, inc := o.sample, len := 1, body := .mgmt 2 job })
      | none => .next (emit s { src := schedOf s (dieOf o.core), dst := niOf s o.core, cls := 4, op := 0x10, cid := o.cid, inc := o.sample, len := 1, body := .rdata o.arg2 0 false })

end Sys2Proof.Machine
end

