-- ==== Sys2Proof/Machine/Tile.lean ====
section
/-! DEFINITION. Tile commands: the command word, the checks that all share, tiles and matrix commands, copies, layouts and streams from memory (12 R236
to R238; 23 R354 to R373; 11 R218; 08 R166). COPY.M, RED, COLL and CPROBE stand in Collect, NICPOST and NICCQ in Nic. -/

namespace Sys2Proof.Machine

/-! ### The command word (12 R236 to R238) -/

def cmdCode (c : Cmd) : Nat := fld c.w0 63 56
def cmdEng (c : Cmd) : Nat := fld c.w0 55 53
def cmdStep (c : Cmd) : Nat := fld c.w0 36 21

/-- The engine class of a code (12 R237). -/
def codeClass (code : Nat) : Option Nat :=
  if 0x01 ≤ code ∧ code ≤ 0x05 then some 0
  else if 0x10 ≤ code ∧ code ≤ 0x14 then some 1
  else if code = 0x20 ∨ code = 0x21 then some 2
  else if code = 0x30 ∨ code = 0x31 then some 3
  else if code = 0x40 ∨ code = 0x41 then some 4
  else none

/-- Whether a core has an engine of a class (07 R122). -/
def hasEngine (core eng : Nat) : Bool := if eng ≤ 1 then isCompute core else if eng = 2 then isMemCore core else true

/-- A word that R237 completes with BADCMD. -/
def cmdBad (core : Nat) (w0 : Word) : Bool :=
  match codeClass (fld w0 63 56) with
  | none => true
  | some e => decide (fld w0 55 53 ≠ e) || decide (fld w0 20 16 ≠ 0) || decide (fld w0 15 0 ≠ 0) || !hasEngine core e

/-- The sampled rounding at a position word without its STEP field (11 R217). -/
def cmdRm (c : Cmd) (p : Nat) : RM :=
  let mode := fld c.w0 40 38
  { mode := mode, fz := bit c.w0 37, rnd := if mode = 5 then rnd24 c.seed (p + cmdStep c * 2 ^ 32) else 0 }

/-- The agent that runs a command: the row's copy engine, the die's NIC engine or fabric agent, or the core's matrix slice or affine unit, which are agents
of their own (09 R168; log 21). -/
def engAgent (s : State) (core : Nat) (c : Cmd) : Nat :=
  match cmdEng c with
  | 0 => agentId s (dieOf core) 7 (1024 + agentOf core % 1024)
  | 1 => copyEng s (dieOf core) (rowOf core % 64)
  | 2 => agentId s (dieOf core) 7 (2048 + agentOf core % 1024)
  | 3 => nicOf s (dieOf core)
  | _ => fabOf s (dieOf core)

/-- The agent whose knowledge of incarnations an engine has: a slice and an affine unit learn a kill with their core's NI (23 R366, R387). -/
def engKnows (s : State) (core : Nat) (c : Cmd) : Nat := if cmdEng c = 0 ∨ cmdEng c = 2 then niOf s core else engAgent s core c

/-- A bit field of a word that must be zero. -/
def zeroF (w : Word) (hi lo : Nat) : Bool := decide (fld w hi lo = 0)

/-! ### Local operands (07 R124, 08 R145) -/

/-- Whether a slot may not access [a, a + n) of its LM (23 R357: BADADDR); fused windows count as P regions. -/
def lmRefused (s : State) (core slot a n : Nat) (wr : Bool) : Bool :=
  if n = 0 then false
  else if a + n > 2 ^ 19 ∧ (fusedAt s core (a + n - 1)).isNone = true then true
  else
    let t := slotOf (coreOf s core) slot
    let pts := (List.range ((a + n - 1) / 256 - a / 256 + 1)).map fun i => max a ((a / 256 + i) * 256)
    pts.any fun p => (fusedAt s core p).isNone && (decide (p ≥ 2 ^ 19) || (byteFault t p wr).isSome)

/-- The core and address of a local byte, through a fused window. -/
def lmPlace (s : State) (core a : Nat) : Nat × Nat := match fusedAt s core a with | some w => fusedMap w a | none => (core, a)

/-! ### An engine's words and their homes (09 R169, R179; 23 R365, R369; 08 R158) -/

/-- The place of one word: local, of a peer, at a physical or at a virtual address. -/
inductive Place where
  | lm (a : Nat)
  | peer (rank off : Nat)
  | pa (a : Nat)
  | va (a : Nat)
  | nowhere
  deriving DecidableEq, Repr

/-- What asking a home for a word comes to: asked, refused before it leaves, a wait, a wait at the RTU, or a failed translation. -/
inductive AskR where
  | asked (s : State)
  | refused
  | waits
  | stall (s : State)
  | fail

/-- The row pair that RPMASK names for what a core's engines access (08 R154). -/
def pairFor (core : Nat) : Option Nat := if isCompute core then some (pairOf core) else none

/-- The block of a matrix command to which a source word belongs, by its key; 0 for other commands. -/
def blockOfKey (c : Cmd) (key : Nat) : Nat := if isMatrix c then key / 2 ^ 14 else 0

/-- A virtual address of a command's context translated for one of its element operations, of a matrix command for a block. -/
def cmdXlate (s : State) (core : Nat) (c : Cmd) (va acc : Nat) (blk : Nat := 0) : EngX :=
  engXlate s core (rtuOf core) c.cid c.inc va acc c.tok (engAgent s core c) (pairFor core) blk

/-- The request for a word, entered into the engine's own channel to the word's home (09 R169). -/
def askWord (s : State) (core : Nat) (c : Cmd) (key : Nat) (p : Place) : AskR :=
  let req := fun (s : State) (dst slot addr : Nat) (unc : Bool) =>
    if canSend s dst 0 then
      AskR.asked (emit s { src := engAgent s core c, dst := dst, cls := 0, op := 1, cid := c.cid, inc := c.inc, slot := slot, unc := unc, len := 2,
                           body := .engRead addr (engTok core c.tok key) })
    else .waits
  match p with
  | .lm a => let (o, at_) := lmPlace s core a; req s (niOf s o) c.slot at_ false
  | .peer rank off =>
    match peerAt s core c.cid rank with
    | (.waits, _) => .waits
    | (.refuse _, _) => .refused
    | (.at_ dst slot, s) => if off ≥ 2 ^ 19 then .refused else req s dst slot (2 ^ 63 + rank * 2 ^ 32 + off) false
  | .pa a => req s (homeOf s (dieOf core) a) 0 a false
  | .va a =>
    if a ≥ 2 ^ 57 then .fail
    else
      match cmdXlate s core c a 0 (blockOfKey c key) with
      | .stall s => .stall s
      | .ok pa unc => req s (homeOf s (dieOf core) pa) 0 pa unc
  | .nowhere => .refused

/-- Words asked for in turn until one cannot be: those asked for, and how it ended. -/
def askAll (core : Nat) (c : Cmd) : List (Nat × Place) → State → List Nat → List Nat × AskR
  | [], s, ks => (ks, .asked s)
  | (key, p) :: l, s, ks =>
    match askWord s core c key p with
    | .asked s => askAll core c l s (ks ++ [key])
    | .refused => (ks, .asked s)
    | .waits => (ks, .asked s)
    | .stall t => (ks, .stall t)
    | .fail => (ks, .fail)

/-- What gathering source words comes to: all of them with their poison, some still on their way, one that no home takes, or a failed translation. -/
inductive Got where
  | all (s : State) (ws : List (Word × Bool))
  | some_ (s : State)
  | refused
  | fail

/-- The source words of an operation without the words that have come being taken, by keys from base on (09 R179): with w = 0 every word not yet asked for is, and once all have come back they are
the operation's operands; otherwise word w - 1 alone is asked for. -/
def gatherKeep (s : State) (core : Nat) (r : RunCmd) (base w : Nat) (ps : List Place) : Got :=
  let c := r.cmd
  let n := ps.length
  let got := r.reads.filter fun x => decide (base ≤ x.1 ∧ x.1 < base + n)
  let open_ := r.pend.filter fun k => decide (base ≤ k ∧ k < base + n)
  let note := fun (s : State) (ks : List Nat) => updRun s core c.tok fun r => { r with pend := r.pend ++ ks }
  if got.length = n ∧ w = 0 then .all s (got.map (·.2))
  else
    let want := (ps.zipIdx.map fun x => (base + x.2, x.1)).filter fun x => decide (w = 0 ∨ x.1 + 1 = base + w)
    let fresh := if got = [] ∧ open_ = [] then want else want.filter fun x => !decide (x.1 ∈ open_) && (mget got x.1).isNone
    match fresh with
    | [] => .some_ s
    | (k, p) :: l =>
      match askWord s core c k p with
      | .refused => .refused
      | .waits => .some_ s
      | .fail => .fail
      | .stall t => .some_ t
      | .asked t =>
        match askAll core c l t [k] with
        | (ks, .asked t) => .some_ (note t ks)
        | (ks, .stall t) => .some_ (note t ks)
        | _ => .fail

/-- The same, with the words taken. -/
def gather (s : State) (core : Nat) (r : RunCmd) (base w : Nat) (ps : List Place) : Got :=
  match gatherKeep s core r base w ps with
  | .all s ws => .all (updRun s core r.cmd.tok fun r => { r with reads := r.reads.filter fun x => !decide (base ≤ x.1 ∧ x.1 < base + ps.length) }) ws
  | g => g

/-- Bytes at an address cut at word boundaries: the address and the bytes of each piece (09 R177). -/
def pieces : Nat → Nat → List Byte → List (Nat × List Byte)
  | 0, _, _ => []
  | f + 1, a, bs => if bs = [] then [] else let n := min bs.length (8 - a % 8); (a, bs.take n) :: pieces f (a + n) (bs.drop n)

/-- A piece as the body of the store that an engine sends: a whole word with its full/empty bit, or a part of one. -/
def pieceBody (a : Nat) (bs : List Byte) (full : Bool) (tok : Nat) : Body :=
  if bs.length = 8 then .engWrite a (wd (leNat bs)) full false tok else .store a bs.length (wd (leNat bs)) full tok

/-- Bytes written by a command's engine to its core's LM, as element operations from number i on (09 R179). -/
def putLocal (s : State) (core : Nat) (c : Cmd) (i a : Nat) (bs : List Byte) (full : Bool) : State :=
  let ps := (pieces (bs.length + 1) a bs).zipIdx
  let s := ps.foldl (fun s x =>
    let (o, at_) := lmPlace s core x.1.1
    emit s { src := engAgent s core c, dst := niOf s o, cls := 1, op := 6, cid := c.cid, inc := c.inc, slot := c.slot, len := 2,
             body := pieceBody at_ x.1.2 full (engTok core c.tok (i + x.2)) }) s
  updRun s core c.tok fun r => { r with asked := r.asked ++ ps.map fun x => i + x.2 }

/-- The words that hold [a, a + n), each at its place. -/
def placesOf (at_ : Nat → Place) (a n : Nat) : List Place := if n = 0 then [] else (List.range ((a + n - 1) / 8 - a / 8 + 1)).map fun i => at_ (8 * (a / 8 + i))

/-- The bytes [a, a + n) out of the words that hold them, and whether one of these is poisoned. -/
def bytesOf (a n : Nat) (ws : List (Word × Bool)) : List Byte × Bool := (((wordsBytes (ws.map (·.1))).drop (a % 8)).take n, ws.any (·.2))

/-- The place of an operand in LM or in global memory, as word 2 of R360 says. -/
def opAt (w : Word) : (Nat → Place) × Nat := if bit w 63 then (Place.va, fld w 56 0) else (Place.lm, fld w 18 0)

/-! ### Tiles (07 R128, 23 R359) -/

def tileGet (z : Tile) (i j : Nat) : BitVec 32 := if z.clear then 0 else mgetD z.w (128 * i + j) 0

/-- A word of a tile written; the tile is clear no more. -/
def tileSet (z : Tile) (i j : Nat) (v : BitVec 32) : Tile :=
  let w := if z.clear then [] else z.w
  { clear := false, w := if v = 0 then mdel w (128 * i + j) else mput w (128 * i + j) v, bad := z.bad.erase (128 * i + j) }

/-- Tiles named by a mask marked clear. -/
def tilesClear (k : Core) (mask : Nat) : Core := { k with z := Vector.ofFn fun i => if mask / 2 ^ i.val % 2 = 1 then {} else k.z[i.val] }

/-! ### The element types of operands (11 R210, R211; 23 R360, R367) -/

/-- The format and the field width in bits of a type code: 8 f32, 9 f16, 10 bf16, 11 and 12 the narrow descriptor given. -/
def cmdTy (ty : Nat) (desc : Word) : Option (Fmt × Nat) :=
  match ty with
  | 8 => some (f32, 32)
  | 9 => some (f16, 16)
  | 10 => some (bf16, 16)
  | _ => (descFmt desc).map fun f => (f, fieldW f.width)

/-- The codes of n elements of a field width, packed from the first byte's bit 0 (11 R211). -/
def unpack (fw cw n : Nat) (bs : List Byte) : List Nat :=
  let v := leNat bs
  (List.range n).map fun i => v / 2 ^ (fw * i) % 2 ^ cw

/-! ### Matrix commands (23 R360 to R362; 11 R218) -/

def mmaATy (c : Cmd) : Nat := fld c.w1 59 56
def mmaBTy (c : Cmd) : Nat := fld c.w1 55 52
def mmaBlocks (c : Cmd) : Nat := fld c.w1 51 46 + 1
def scaled (c : Cmd) : Bool := decide (fld c.fmts 1 0 ≠ 2)

/-- The integer path: both operands narrow with EW = 0 (11 R218). -/
def intPath (c : Cmd) : Bool :=
  decide (mmaATy c = 11) && decide (mmaBTy c = 12) && (descFmt c.fmta).any (fun f => decide (f.ew = 0)) && (descFmt c.fmtb).any fun f => decide (f.ew = 0)

/-- Whether scale bytes are read. -/
def readsScales (c : Cmd) : Bool := scaled c && !intPath c

/-- Reserved bits and limits of MMA.S and MMA.G (23 R360). -/
def mmaArgBad (c : Cmd) (g : Bool) : Bool :=
  let gl := fun (w : Word) => if bit w 63 then zeroF w 62 57 else zeroF w 62 19
  bit c.w1 63 || !zeroF c.w1 45 43 || !zeroF c.w1 23 19 || (g && !zeroF c.w1 62 60) ||
  !(decide (8 ≤ mmaATy c) && decide (mmaATy c ≤ 11)) || !(decide (mmaBTy c ∈ [8, 9, 10, 12])) || !gl c.w2 || !gl c.w3 ||
  decide (fld c.w1 18 0 % 32 ≠ 0) || decide (fld c.w2 62 0 % 32 ≠ 0)

/-- Widths of the operands in memory. -/
def mmaTypes (c : Cmd) : Option ((Fmt × Nat) × (Fmt × Nat)) :=
  match cmdTy (mmaATy c) c.fmta, cmdTy (mmaBTy c) c.fmtb with
  | some a, some b => some (a, b)
  | _, _ => none

/-- The checks of a matrix command up to BADADDR (23 R358, R360, R361). -/
def mmaCheck (s : State) (core : Nat) (c : Cmd) (g : Bool) : Nat :=
  if mmaArgBad c g then 0x66
  else
    match mmaTypes c with
    | none => 0x64
    | some (a, b) =>
      let kb := mmaBlocks c
      let bad := fun a n => lmRefused s core c.slot a n false
      if bad (fld c.w1 18 0) (kb * 64 * 128 * a.2 / 8) || (readsScales c && bad (fld c.w1 42 24) (64 * kb)) ||
         (!bit c.w2 63 && bad (fld c.w2 18 0) (kb * 128 * 128 * b.2 / 8)) || (readsScales c && !bit c.w3 63 && bad (fld c.w3 18 0) (128 * kb)) then 0x68
      else 0

/-- A block's operands: codes of A and B, and the scales of A and B. -/
abbrev BlockOps := List Nat × List Nat × List Nat × List Nat

/-- What bringing in a block's operands comes to. -/
inductive Fetch where
  | ok (s : State) (x : BlockOps) (bad : Bool)
  | more (s : State)
  | fail

/-- Bytes of A and B in a block. -/
def mmaBytes (c : Cmd) : Nat × Nat := match mmaTypes c with | some (a, b) => (64 * 128 * a.2 / 8, 128 * 128 * b.2 / 8) | none => (0, 0)

/-- The operands of a block in the order of their keys: place, address and bytes (23 R361). -/
def mmaParts (c : Cmd) (b : Nat) : List ((Nat → Place) × Nat × Nat) :=
  let (na, nb) := mmaBytes c
  let (pb, ab) := opAt c.w2
  let (ps, as_) := opAt c.w3
  [(Place.lm, fld c.w1 18 0 + b * na, na), (pb, ab + b * nb, nb)] ++
  if readsScales c then [(Place.lm, fld c.w1 42 24 + 64 * b, 64), (ps, as_ + 128 * b, 128)] else []

/-- The bytes of consecutive parts out of their words. -/
def partBytes : List ((Nat → Place) × Nat × Nat) → List (Word × Bool) → List (List Byte) × Bool
  | [], _ => ([], false)
  | (p, a, n) :: l, ws =>
    let k := (placesOf p a n).length
    let (bs, bad) := bytesOf a n (ws.take k)
    let (rest, bad') := partBytes l (ws.drop k)
    (bs :: rest, bad || bad')

/-- The operands of block b, each word read at its home in an APPLY step of its own (09 R181; 23 R361); scales that are not read are none. A word of the
block's tile may be struck by the error injector (04 R74). -/
def fetchBlock (s : State) (core : Nat) (r : RunCmd) (b w : Nat) : Fetch :=
  let c := r.cmd
  match mmaTypes c with
  | none => .fail
  | some ((fa, wa), (fb, wb)) =>
    let parts := mmaParts c b
    match gather s core r (b * 2 ^ 14) w (parts.flatMap fun x => placesOf x.1 x.2.1 x.2.2) with
    | .some_ s => .more s
    | .refused => .fail
    | .fail => .fail
    | .all s ws =>
      let (bs, bad) := partBytes parts ws
      let (badZ, s) := inject s (dieOf core) c.cid 5
      let nums := fun (i : Nat) => (bs.getD i []).map (·.toNat)
      .ok s (unpack wa fa.width (64 * 128) (bs.getD 0 []), unpack wb fb.width (128 * 128) (bs.getD 1 []), nums 2, nums 3) (bad || badZ)

/-- One accumulation into a tile word: a row of A and a column of B of one block (11 R218). cB is the command whose FMTB and FMTS the B block is read
under; pos is the position word's place of the slice (11 R217, 23 R364). -/
def accumulate (c cB : Cmd) (pos zt blk i j : Nat) (a b : List Nat) (sa sb : Nat) (z : BitVec 32) : BitVec 32 :=
  match cmdTy (mmaATy c) c.fmta, cmdTy (mmaBTy cB) cB.fmtb with
  | some (fa, _), some (fb, _) =>
    if mmaATy c = 11 ∧ mmaBTy cB = 12 ∧ fa.ew = 0 ∧ fb.ew = 0 then
      let v := fun (f : Fmt) (x : Nat) => if f.s then signedN f.width x else (x : Int)
      let t := (List.zipWith (fun x y => v fa x * v fb y) a b).sum
      BitVec.ofInt 32 (z.toInt + t)
    else
      let p := pos * 2 ^ 48 + zt * 2 ^ 28 + i * 2 ^ 22 + j * 2 ^ 15 + blk * 2 ^ 9
      let fz := bit c.w0 37
      let r0 := cmdRm c p
      let r1 := cmdRm c (p + 2 ^ 31)
      let scale := fun (k : Cmd) (x : Nat) => scaleVal (fld k.fmts 1 0) x
      let blockv := block r0 (a.map (fin fa fz)) (b.map (fin fb fz)) (scale c sa) (scale cB sb)
      BitVec.ofNat 32 (roundTo f32 r1 (fadd (fin f32 fz z.toNat) (fin f32 fz blockv)))
  | _, _ => z

/-- A block accumulated into tile zt of a core: A and its scales of command c, B and its scales of command cB. -/
def accBlock (k : Core) (c cB : Cmd) (pos zt blk : Nat) (a b sa sb : List Nat) : Core :=
  let rows := (List.range 64).map fun i => (a.drop (128 * i)).take 128
  let cols := (List.range 128).map fun j => (b.drop (128 * j)).take 128
  let old := tileOf k zt
  let new := (List.range 64).foldl (fun z i =>
    (List.range 128).foldl (fun z j =>
      tileSet z i j (accumulate c cB pos zt blk i j (rows.getD i []) (cols.getD j []) (sa.getD i 0) (sb.getD j 0) (tileGet old i j))) z) old
  setTile k zt new

/-- Whether every word of the operands of block b has been asked for. -/
def blockAsked (r : RunCmd) (b : Nat) : Bool :=
  let mine := fun (k : Nat) => decide (b * 2 ^ 14 ≤ k ∧ k < (b + 1) * 2 ^ 14)
  decide ((r.reads.filter fun x => mine x.1).length + (r.pend.filter mine).length = ((mmaParts r.cmd b).flatMap fun x => placesOf x.1 x.2.1 x.2.2).length)

/-- Whether the fetcher may ask for words of block b: that of the block being computed, or up to two beyond it once all of those before are asked for
(23 R365). -/
def mayFetch (r : RunCmd) (b : Nat) : Bool :=
  decide (r.prog ≤ b ∧ b ≤ r.prog + 2) && (List.range (b - r.prog)).all fun i => (decide (i = 0) && r.ops.isSome) || blockAsked r (r.prog + i)

/-- The fetch of a block that has failed: the command ends when it comes to it (23 R365). -/
def blockLost (s : State) (core : Nat) (r : RunCmd) (b : Nat) : State := updRun s core r.cmd.tok fun r => { r with failed := true, stallAt := b }

/-- A word of a block beyond the one being computed asked for (23 R365). -/
def fetchAhead (s : State) (core : Nat) (r : RunCmd) (b w : Nat) : State :=
  if r.failed || !mayFetch r b || decide (b ≥ mmaBlocks r.cmd) then s
  else
    match fetchBlock s core r b (max w 1) with
    | .more s => s
    | .fail => blockLost s core r b
    | .ok s _ _ => s

/-- Block b of MMA.S: its operands are asked for from their homes, up to two blocks ahead; the block whose turn has come is accumulated once they are
there, and HOLD is up once the fetch of the next one is held. Poison is consumed and seals the core (04 R69). -/
def mmaSStep (s : State) (core : Nat) (r : RunCmd) (b w : Nat) : State :=
  let c := r.cmd
  if b ≠ r.prog then fetchAhead s core r b w
  else if r.failed && decide (r.stallAt ≤ b) then endRun s core c.tok 0x26 0
  else
    match fetchBlock s core r b w with
    | .more s => s
    | .fail => endRun s core c.tok 0x26 0
    | .ok s (a, b, sa, sb) bad =>
      let zt := fld c.w1 62 60
      if bad || !(tileOf (coreOf s core) zt).bad.isEmpty then sealCore (endRun s core c.tok 0x25 0) core
      else
        let s := updCore s core fun k => accBlock k c c (agentOf core % 8) zt r.prog a b sa sb
        syncHold (updRun s core c.tok fun r => { r with prog := r.prog + 1, result := if r.prog + 1 = mmaBlocks c then some (0, 0, 0) else none }) core

/-! ### MMA.G (23 R363 to R366) -/

/-- The accepted MMA.G of a member of a gang that has not ended. -/
def gangRun (s : State) (gid m : Nat) : Option RunCmd := (coreOf s m).run.find? fun r => decide (r.gang = some gid) && r.result.isNone

/-- The members of a gang with their positions. -/
def gangPlaces (s : State) (gid : Nat) : List (Nat × Nat) := ((s.gangs.find? fun g => decide (g.gid = gid)).map fun g => g.members.zipIdx).getD []

/-- Every member's command that stands ends alike. -/
def endGang (s : State) (gid st aux : Nat) : State :=
  (gangPlaces s gid).foldl (fun s x => match gangRun s gid x.1 with | some r => endRun s x.1 r.cmd.tok st aux | none => s) s

/-- MMAG_JOIN (23 R363): the departure of a member, or its core's seal, ends the wait of the others; once all eight slices have accepted, they join, or
their block counts disagree. -/
def execMmagJoin (gid : Nat) (s : State) : Out :=
  let ms := gangPlaces s gid
  let present := (s.gangs.filter fun g => decide (g.gid = gid)).flatMap (·.present)
  let runs := ms.map fun x => (gangRun s gid x.1).filter fun r => !r.joined
  let gone := ms.find? fun x => (coreOf s x.1).sealed_ || (decide (x.1 ∉ present) && ((gangRun s gid x.1).filter fun r => !r.joined).isNone)
  if (runs.all fun r => r.isNone) || (ms.any fun x => (gangRun s gid x.1).any (·.joined)) then .next s
  else
    match gone with
    | some x => .next (endGang s gid 0x6B x.2)
    | none =>
      match runs.mapM id with
      | none => .next s
      | some rs =>
        let kb := (rs.map fun r => mmaBlocks r.cmd)
        match kb.zipIdx.find? fun x => decide (x.1 ≠ kb.headD 0) with
        | some x => .next (endGang s gid 0x6C x.2)
        | none => .next ((ms.zip rs).foldl (fun s x => updRun s x.1.1 x.2.cmd.tok fun r => { r with joined := true }) s)

/-- The next member of a joined gang whose block has not been fetched: its operands asked for, or, once all are there, brought in; a failure, or poison. -/
def gangFetch (s : State) (core : Nat) (r : RunCmd) (w : Nat) : State :=
  match fetchBlock s core r r.prog w with
  | .more s => s
  | .fail => blockLost s core r r.prog
  | .ok s x bad => if bad then sealCore s core else updRun s core r.cmd.tok fun r => { r with ops := some x }

/-- One step of a block at every slice: member k accumulates with the B block of member (k + t) mod 8 into tile (k + t) mod 8, t being the ring
distance of the step (23 R363). -/
def gangStep (s : State) (rs : List ((Nat × Nat) × RunCmd)) : State :=
  rs.foldl (fun s x =>
    let r := x.2
    let t := (x.1.2 + (8 - r.sub) % 8) % 8
    match rs[t]? with
    | none => s
    | some y =>
      match r.ops, y.2.ops with
      | some (a, _, sa, _), some (_, b, _, sb) =>
        let s := updCore s x.1.1 fun k => accBlock k r.cmd y.2.cmd x.1.2 t r.prog a b sa sb
        updRun s x.1.1 r.cmd.tok fun r =>
          if r.sub < 7 then { r with sub := r.sub + 1 }
          else { r with sub := 0, prog := r.prog + 1, ops := none, result := if r.prog + 1 = mmaBlocks r.cmd then some (0, 0, 0) else none }
      | _, _ => s) s

/-- MMAG_STEP (23 R363, R365, R366): the gang ends for a sealed member, or for a failed fetch of the block that it has come to; operands that are missing are
fetched; or one step runs at every slice. -/
def execMmagStep (gid : Nat) (s : State) : Out :=
  let ms := gangPlaces s gid
  match ms.mapM fun x => ((gangRun s gid x.1).filter fun r => r.joined).map fun r => (x, r) with
  | none => .next s
  | some rs =>
    match rs.find? fun x => (coreOf s x.1.1).sealed_ with
    | some x => .next (endGang s gid 0x6B x.1.2)
    | none =>
      match rs.find? fun x => x.2.failed && decide (x.2.stallAt ≤ x.2.prog) with
      | some x => .next (syncHolds (endGang s gid 0x26 x.1.2) [])
      | none =>
        match rs.filter fun x => x.2.ops.isNone with
        | [] =>
          -- a poisoned accumulator is an operand of the step, and its core is sealed (04 R69)
          match rs.find? fun x => !(tileOf (coreOf s x.1.1) ((x.1.2 + (8 - x.2.sub) % 8) % 8)).bad.isEmpty with
          | some x => .next (sealCore s x.1.1)
          | none => .next (rs.foldl (fun s x => syncHold s x.1.1) (gangStep s rs))
        | l => .next (l.foldl (fun s x => if x.2.stalled && decide (x.2.stallAt ≤ x.2.prog) then s else gangFetch s x.1.1 x.2 0) s)

/-! ### ZCLR, ZLD and ZST (23 R359, R367) -/

/-- The field width of an element of a row of ZLD or ZST in bits. -/
def zWidth (c : Cmd) : Nat := match cmdTy (fld c.w1 59 56) c.fmtc with | some (_, w) => w | none => 32

/-- 8-byte words in a row. -/
def zWords (c : Cmd) : Nat := 128 * zWidth c / 64

def zclrCheck (c : Cmd) : Nat := if !zeroF c.w1 63 8 || decide (c.w2 ≠ 0) || decide (c.w3 ≠ 0) then 0x66 else 0

/-- The checks of ZLD and ZST (23 R358, R367). -/
def zCheck (s : State) (core : Nat) (c : Cmd) (st : Bool) : Nat :=
  let ty := fld c.w1 59 56
  let stride := fld c.w3 31 0
  let narrow := decide (ty = 11)
  let bytes := 128 * zWidth c / 8
  if bit c.w1 63 || !zeroF c.w1 54 0 || (!st && bit c.w1 55) || !(if st then decide (8 ≤ ty) && decide (ty ≤ 11) else decide (ty = 8)) ||
     !zeroF c.w3 63 32 || !(if bit c.w2 63 then zeroF c.w2 62 57 else zeroF c.w2 62 19) || decide (fld c.w2 62 0 % 32 ≠ 0) ||
     decide (stride % 8 ≠ 0) || decide (stride ≥ 2 ^ 20) || (!narrow && decide (stride < bytes)) then 0x66
  else if narrow && (descFmt c.fmtc).isNone then 0x64
  else if !bit c.w2 63 && (List.range 64).any (fun i => lmRefused s core c.slot (fld c.w2 18 0 + i * stride) bytes st) then
    -- the lower limit of a narrow row's stride is the first of the command's own checks, behind BADADDR
    0x68
  else if narrow && decide (stride < bytes) then 0x66
  else 0

/-- The offset of word k of a ZLD or ZST from ADDR: row by row. -/
def zOff (c : Cmd) (k : Nat) : Nat := k / zWords c * fld c.w3 31 0 + k % zWords c * 8

/-- One element of a tile row as ZST stores it. -/
def zElem (c : Cmd) (z : Tile) (i j : Nat) : Nat :=
  let v := (tileGet z i j).toNat
  let ty := fld c.w1 59 56
  if ty = 8 then v
  else
    let r := cmdRm c (128 * i + j)
    match cmdTy ty c.fmtc with
    | some (f, _) => roundTo f r (if bit c.w1 55 then FV.ofInt (signedN 32 v) else fin f32 r.fz v)
    | none => 0

/-- Word k of a tile as ZST stores it. -/
def zWord (c : Cmd) (z : Tile) (k : Nat) : Word :=
  let n := 64 / zWidth c
  let i := k / zWords c
  let j0 := k % zWords c * n
  wd (((List.range n).map fun j => zElem c z i (j0 + j) * 2 ^ (zWidth c * j)).sum)

/-! ### Where element operations read and write (23 R368, R369) -/

/-- A side word: kind 0 local, 1 peer, 2 layout. -/
structure Side where
  kind : Nat
  full : Bool
  addr : Nat
  rank : Nat := 0
  lay : Nat := 0
  row0 : Nat := 0
  col : Nat := 0
  deriving DecidableEq, Repr

/-- A side word read; none where it breaks R368. A source has no SETFULL. -/
def sideOf (w : Word) (dest : Bool) : Option Side :=
  let full := bit w 61
  match fld w 63 62 with
  | 0 => if zeroF w 60 19 && (dest || !full) && decide (fld w 18 0 % 8 = 0) then some { kind := 0, full := full, addr := fld w 18 0 } else none
  | 1 =>
    if zeroF w 60 48 && zeroF w 31 19 && (dest || !full) && decide (fld w 18 0 % 8 = 0) then some { kind := 1, full := full, addr := fld w 18 0, rank := fld w 47 32 }
    else none
  | 2 => if fld w 23 0 % 8 = 0 then some { kind := 2, full := false, addr := 0, lay := fld w 61 56, row0 := fld w 55 24, col := fld w 23 0 } else none
  | _ => none

/-- A layout of a command's context on its die. -/
def layoutOf (s : State) (die : Nat) (cid inc num : Nat) : Option Layout := (dieAt s die).layouts.find? fun l => decide (l.cid = cid ∧ l.inc = inc ∧ l.num = num)

/-- Whether a layout side of n rows of a number of bytes ends with NOLAYOUT. -/
def layoutBad (s : State) (core : Nat) (c : Cmd) (x : Side) (n bytes : Nat) (wr : Bool) : Bool :=
  match layoutOf s (dieOf core) c.cid c.inc x.lay with
  | none => true
  | some l => decide (x.row0 + n > l.rows) || decide (x.col + bytes > l.rowbytes) || (if wr then !l.wr else !l.rd)

/-- The physical address of a byte of a layout, through its snapshot (08 R166). -/
def layoutPa (l : Layout) (row off : Nat) : Option Nat :=
  let va := l.base + row * l.stride + off
  (mget l.pages (va / 2 ^ 15)).map fun p => p + va % 2 ^ 15

/-- The place of word w of row r of a side with a row stride. -/
def placeOf (s : State) (core : Nat) (c : Cmd) (x : Side) (stride r w : Nat) : Place :=
  match x.kind with
  | 0 => .lm (x.addr + r * stride + 8 * w)
  | 1 => .peer x.rank (x.addr + r * stride + 8 * w)
  | _ =>
    match (layoutOf s (dieOf core) c.cid c.inc x.lay).bind fun l => layoutPa l (x.row0 + r) (x.col + 8 * w) with
    | some a => .pa a
    | none => .nowhere

/-- Element i noted as issued. -/
def noteAsked (s : State) (core cmd i : Nat) : State := updRun s core cmd fun r => if i ∈ r.asked then r else { r with asked := r.asked ++ [i] }

/-- Element i's word on its way to the home of a physical address: none while it must wait. -/
def writePa (s : State) (core : Nat) (c : Cmd) (i : Nat) (v : Word) (bad : Bool) (a : Nat) (unc : Bool) : Option State :=
  let dst := homeOf s (dieOf core) a
  if canSend s dst 1 then
    some (noteAsked (emit s { src := engAgent s core c, dst := dst, cls := 1, op := 6, cid := c.cid, inc := c.inc, unc := unc, len := 2,
                              body := .engWrite a v false bad (engTok core c.tok i) }) core c.tok i)
  else none

/-- Element i's word on its way to a place, and noted as issued unless it waits at the RTU: none while it must wait (23 R369, 02 R39). A word that nothing can take counts as refused. -/
def writePlace (s : State) (core : Nat) (c : Cmd) (i : Nat) (v : Word) (bad full : Bool) : Place → Option State
  | .lm a =>
    let (o, at_) := lmPlace s core a
    some (noteAsked (emit s { src := engAgent s core c, dst := niOf s o, cls := 1, op := 6, cid := c.cid, inc := c.inc, slot := c.slot, len := 2,
                              body := .engWrite at_ v full bad (engTok core c.tok i) }) core c.tok i)
  | .peer rank off =>
    match peerAt s core c.cid rank with
    | (.waits, _) => none
    | (.refuse _, s) => some (engDone s (engTok core c.tok i) true)
    | (.at_ dst slot, s) =>
      if off ≥ 2 ^ 19 then some (engDone s (engTok core c.tok i) true)
      else if canSend s dst 1 then
        some (noteAsked (emit s { src := engAgent s core c, dst := dst, cls := 1, op := 6, cid := c.cid, inc := c.inc, slot := slot, len := 2,
                                  body := .engWrite (2 ^ 63 + rank * 2 ^ 32 + off) v full bad (engTok core c.tok i) }) core c.tok i)
      else none
  | .pa a => writePa s core c i v bad a false
  | .va a =>
    if a ≥ 2 ^ 57 then some (endRun s core c.tok 0x26 0)
    else
      match cmdXlate s core c a 1 with
      | .stall s => some s
      | .ok pa unc => writePa s core c i v bad pa unc
  | .nowhere => some (engDone s (engTok core c.tok i) true)

/-- One word moved from a place to a place as element i: asked for at its home, and sent on once it has come. -/
def moveWord (s : State) (core : Nat) (r : RunCmd) (i : Nat) (src dst : Place) (full : Bool) : State :=
  let c := r.cmd
  if i ∈ r.asked then s
  else
    match mget r.reads i with
    | some (v, bad) =>
      (match writePlace s core c i v bad full dst with
       | some t => updRun t core c.tok fun r => if i ∈ r.asked ∨ i ∈ r.done_ then { r with reads := mdel r.reads i } else r
       | none => s)
    | none =>
      match gather s core r i 0 [src] with
      | .some_ s => s
      | .all s _ => s
      | .refused => engDone s (engTok core c.tok i) true
      | .fail => endRun s core c.tok 0x26 0

/-! ### COPY (23 R369) -/

def copyRows (c : Cmd) : Nat := fld c.w3 31 16
def copyWords (c : Cmd) : Nat := fld c.w3 15 0

/-- Whether the rows of a local side are refused. -/
def rowsRefused (s : State) (core : Nat) (c : Cmd) (x : Side) (stride : Nat) (wr : Bool) : Bool :=
  decide (x.kind = 0) && (List.range (copyRows c)).any fun i => lmRefused s core c.slot (x.addr + i * stride) (8 * copyWords c) wr

def copyCheck (s : State) (core : Nat) (c : Cmd) : Nat :=
  match sideOf c.w1 false, sideOf c.w2 true with
  | some a, some b =>
    if copyRows c = 0 ∨ copyWords c = 0 ∨ fld c.w3 63 48 % 8 ≠ 0 ∨ fld c.w3 47 32 % 8 ≠ 0 then 0x66
    else if rowsRefused s core c a (fld c.w3 63 48) false || rowsRefused s core c b (fld c.w3 47 32) true then 0x68
    else if (decide (a.kind = 2) && layoutBad s core c a (copyRows c) (8 * copyWords c) false) ||
            (decide (b.kind = 2) && layoutBad s core c b (copyRows c) (8 * copyWords c) true) then 0x69
    else 0
  | _, _ => 0x66

/-- Word i of a COPY, rows first. -/
def copyStep (s : State) (core : Nat) (r : RunCmd) (i : Nat) : State :=
  let c := r.cmd
  match sideOf c.w1 false, sideOf c.w2 true with
  | some a, some b =>
    let row := i / copyWords c
    let w := i % copyWords c
    moveWord s core r i (placeOf s core c a (fld c.w3 63 48) row w) (placeOf s core c b (fld c.w3 47 32) row w) b.full
  | _, _ => s

/-! ### LAYREG and LAYDROP (23 R372) -/

def layNumCheck (c : Cmd) : Nat := if !zeroF c.w1 63 6 || decide (c.w3 ≠ 0) then 0x66 else 0

/-- The pages of an extent with their translations for reading, and for writing where asked, for a row pair (08 R154). -/
def extentPages (s : State) (cid va n : Nat) (wr : Bool) (rp : Option Nat) : Option (SMap Nat) :=
  (List.range ((va + n - 1) / 2 ^ 15 - va / 2 ^ 15 + 1)).mapM fun i =>
    let p := va / 2 ^ 15 + i
    match xlate? s cid (p * 2 ^ 15) 0 rp, (if wr then xlate? s cid (p * 2 ^ 15) 1 rp else some 0) with
    | some pa, some _ => some (p, pa)
    | _, _ => none

/-- LAYREG performed: it ends with its status, once the four words of its record have come back from their homes. -/
def layreg (s : State) (core : Nat) (r : RunCmd) (w : Nat) : State :=
  let c := r.cmd
  let die := dieOf core
  let num := fld c.w1 5 0
  let va := c.w2.toNat
  let fin := fun (st : Nat) (s : State) => endRun s core c.tok st 0
  if (layoutOf s die c.cid c.inc num).isSome then fin 0x75 s
  else
    match (if va + 32 ≤ 2 ^ 57 then gather s core r 0 w (placesOf .va va 32) else .fail) with
    | .some_ s => s
    | .refused => fin 0x26 s
    | .fail => fin 0x26 s
    | .all s ws =>
      let (bs, bad) := bytesOf va 32 ws
      if bad then sealCore (fin 0x25 s) core
      else
      let w := leWords 4 bs
      let g := fun i => w.getD i 0
      let rows := fld (g 1) 63 32
      let rb := fld (g 1) 31 0
      let stride := (g 2).toNat
      let base := fld (g 0) 56 0
      let rd := bit (g 3) 8
      let wr := bit (g 3) 9
      if !zeroF (g 0) 63 57 || !zeroF (g 3) 63 10 || decide (fld (g 3) 7 0 ≠ 1) || decide (va % 32 ≠ 0) || decide (base % 8 ≠ 0) || decide (rows = 0) || decide (rb % 8 ≠ 0) || decide (rb < 8) ||
         decide (rb > 2 ^ 31) || decide (stride % 8 ≠ 0) || (decide (stride < rb) && decide (rows ≠ 1)) then fin 0x66 s
      else
        let n := (rows - 1) * stride + rb
        if base + n > 2 ^ 57 then fin 0x26 s
        else
          match extentPages s c.cid base n wr (pairFor core) with
          | none => fin 0x26 s
          | some ps =>
            if holdUsed s die + 8 * ps.length > s.holdMiB * 2 ^ 20 then fin 0x62 s
            else
              let l : Layout := { cid := c.cid, inc := c.inc, num := num, base := base, rows := rows, rowbytes := rb, stride := stride, wr := wr, rd := rd, pages := ps }
              fin 0 (updDie s die fun d => { d with layouts := d.layouts ++ [l] })

/-- The layouts that a started command names: its sides, and the buffers of NIC requests are checked at posting. -/
def usesLayout (c : Cmd) (num : Nat) : Bool :=
  let side := fun (w : Word) => decide (fld w 63 62 = 2) && decide (fld w 61 56 = num)
  match cmdCode c with
  | 0x10 => side c.w1 || side c.w2
  | 0x11 => side c.w1
  | _ => false

/-- LAYDROP performed, once no started command of the context on the die uses the layout and no posted request does: none while it waits. -/
def laydrop (s : State) (core : Nat) (c : Cmd) : Option (Nat × State) :=
  let die := dieOf core
  let num := fld c.w1 5 0
  match layoutOf s die c.cid c.inc num with
  | none => some (0x69, s)
  | some l =>
    if s.cores.any fun kv => decide (dieOf kv.1 = die) && kv.2.run.any fun r => decide (r.cmd.cid = c.cid ∧ r.cmd.inc = c.inc) && usesLayout r.cmd num then none
    else some (0, updDie s die fun d => { d with layouts := d.layouts.erase l })

/-! ### STRFILL and STRDRAIN (23 R373) -/

def strItems (c : Cmd) : Nat := fld c.w3 63 48 * fld c.w3 47 32

/-- The virtual address of item i: modulo the address space. -/
def strAddr (c : Cmd) (i : Nat) : Nat :=
  let c0 := fld c.w3 63 48
  (((fld c.w2 56 0 : Int) + (i / c0 : Nat) * signedN 32 (fld c.w3 31 0) + 8 * (i % c0 : Nat)) % (2 ^ 57 : Int)).toNat

/-- The end that a command's handle names: held by the issuing slot, OPEN, of a kind (23 R373). -/
def cmdEnd (s : State) (core : Nat) (c : Cmd) (kind : Nat) : Option EndRec :=
  let k := coreOf s core
  let bs := (spanReadAt s core (fld c.w1 18 0) 16).1
  let h0 := wd (leNat (bs.take 8))
  let h1 := wd (leNat (bs.drop 8))
  k.ends.find? fun e => decide (keyOf e = (fld h1 47 36, fld h0 63 32, kind) ∧ fld h1 0 0 = kind ∧ e.gen = fld h0 7 0 ∧ e.slot = c.slot ∧ e.ocid = c.cid ∧ e.oinc = c.inc)

def strCheck (s : State) (core : Nat) (c : Cmd) (fill : Bool) : Nat :=
  if (!fill && bit c.w1 63) || !zeroF c.w1 62 19 || decide (fld c.w1 18 0 % 16 ≠ 0) || !zeroF c.w2 63 57 || decide (fld c.w2 56 0 % 8 ≠ 0) ||
     decide (fld c.w3 63 48 = 0) || decide (fld c.w3 47 32 = 0) || decide (fld c.w3 31 0 % 8 ≠ 0) then 0x66
  else if lmRefused s core c.slot (fld c.w1 18 0) 16 false then 0x68
  else match cmdEnd s core c (if fill then 0 else 1) with | some e => if e.state = 1 then 0 else 0x73 | none => 0x73

/-- A stream packet of a command's producer end, tracked under an element's token: none while the rank moves or the way is full. -/
def strSend (s : State) (core : Nat) (c : Cmd) (i : Nat) (e : EndRec) (op len : Nat) (body : StrmHdr → Body) : Option State :=
  let h : StrmHdr := { sid := e.sid, scid := e.scid, seq := e.nextSeq, ekind := 1, sgen := e.gen, pgen := e.peerGen, trank := e.peerRank, srank := e.res.2 }
  let r := (resolve s core e.ocid e.peerRank).1
  match sendRank s core e.ocid e.peerRank { dst := 0, src := 0, cls := 3, op := op, cid := e.ocid, inc := e.oinc, tok := engTok core c.tok i, len := len, body := body h } with
  | none => none
  | some s => some (if reState r = 0 then engDone s (engTok core c.tok i) false else noteAsked s core c.tok i)

/-- Whether the handle words that a STRFILL or STRDRAIN names are poisoned: its engine uses them as operands (04 R69). -/
def strBad (s : State) (core : Nat) (r : RunCmd) : Bool := decide (r.prog = 0 ∧ r.asked = []) && (spanReadAt s core (fld r.cmd.w1 18 0) 16).2

/-- Item i of a STRFILL, or the end-of-stream word behind the last (23 R373, 10 R193, R196). Items of an ORPHANED end are discarded (10 R207). -/
def fillStep (s : State) (core : Nat) (r : RunCmd) (i : Nat) : State :=
  let c := r.cmd
  let ask := fun (s : State) => match gather s core r i 1 [.va (strAddr c i)] with
    | .some_ s => s
    | .all s _ => s
    | _ => endRun s core c.tok 0x26 0
  if strBad s core r then sealCore (endRun s core c.tok 0x25 0) core
  else if i ≠ r.prog then (if r.prog < i ∧ i < strItems c then ask s else s)
  else
    let next := fun (s : State) => updRun s core c.tok fun r => { r with prog := r.prog + 1 }
    match cmdEnd s core c 0 with
    | none => next (engDone s (engTok core c.tok i) false)
    | some e =>
      if e.state = 6 then next (if i = strItems c then freeEnd (engDone s (engTok core c.tok i) false) core (keyOf e) else engDone s (engTok core c.tok i) false)
      else if e.state ≠ 1 then (if e.state = 2 then s else next (engDone s (engTok core c.tok i) false))
      else if i = strItems c then
        match strSend s core c i e 0x0B 2 fun h => .eos h (eosWord 0 0 e.nextSeq) with
        | none => s
        | some s => next (updEnd s core (keyOf e) fun x => { x with state := 5 })
      else if ritems e ≤ seqDiff e.nextSeq e.relSeq then s
      else
        match mget r.reads i with
        | none => ask s
        | some (v, bad) =>
          match strSend s core c i e 0x0A 2 fun h => .item h [v] bad with
          | none => s
          | some s => next (updRun (updEnd s core (keyOf e) fun x => { x with nextSeq := (x.nextSeq + 1) % 2 ^ 32 }) core c.tok fun r => { r with reads := mdel r.reads i })

/-- Item i of a STRDRAIN: popped in order and written; the credit goes back after each run, and an ended stream with nothing left ends the command
with SHORT (23 R373). -/
def drainStep (s : State) (core : Nat) (r : RunCmd) (i : Nat) : State :=
  let c := r.cmd
  if strBad s core r then sealCore (endRun s core c.tok 0x25 0) core
  else if i ≠ r.prog then s
  else
    let short := fun (s : State) => updRun s core c.tok fun r => { r with result := some (0x74, 0, i), total := r.asked.length }
    match cmdEnd s core c 1 with
    | none => short s
    | some e =>
      if e.popSeq = e.wrSeq then (if e.state = 4 then short s else s)
      else
        match mget r.reads i with
        | none => (match gather s core r i 1 [.lm (ringAt e e.popSeq)] with | .some_ s => s | .all s _ => s | _ => endRun s core c.tok 0x26 0)
        | some (v, bad) =>
          match writePlace s core c i v bad false (.va (strAddr c i)) with
          | none => s
          | some s =>
            if ((coreOf s core).run.find? fun x => decide (x.cmd.tok = c.tok)).all fun x => x.stalled || x.result.isSome then s
            else
            let s := updRun s core c.tok fun r => { r with reads := mdel r.reads i }
            let s := updEnd s core (keyOf e) fun x => { x with popSeq := (x.popSeq + 1) % 2 ^ 32 }
            let s := updRun s core c.tok fun r => { r with prog := r.prog + 1 }
            if (i + 1) % fld c.w3 63 48 = 0 ∨ i + 1 = strItems c then
              match endRec (coreOf s core) (keyOf e) with | some e => tryEos (credit s core e) core (keyOf e) | none => s
            else s

end Sys2Proof.Machine
end

