-- ==== Sys2Proof/Machine/Collect.lean ====
section
/-! DEFINITION. Tile commands that reach many: COPY.M (23 R370, 02 R42, R43), RED (R371, 11 R220), COLL and CPROBE (R379, R380; 02 R44 to R47). -/

namespace Sys2Proof.Machine

/-! ### RED (23 R371) -/

def redTag (c : Cmd) : Nat := fld c.w1 63 48
def redNum (c : Cmd) : Nat := fld c.w1 47 42 + 1
def redFn (c : Cmd) : Nat := fld c.w1 41 40
def redTyp (c : Cmd) : Nat := fld c.w1 39 36
def redArr (c : Cmd) : Bool := bit c.w1 35
def redLen (c : Cmd) : Nat := fld c.w3 15 0 + 1
def redBytes (c : Cmd) : Nat := redLen c * elSize (redTyp c)

/-- The sampled MODE and FZ of a command as RMODE holds them. -/
def cmdMode (c : Cmd) : Word := wd (fld c.w0 40 38 + b2n (bit c.w0 37) * 2 ^ 8)

def redCheck (s : State) (core : Nat) (c : Cmd) : Nat :=
  match sideOf c.w2 true with
  | none => 0x66
  | some d =>
    if d.kind = 2 || !combAllowed (redFn c) (redTyp c) || !zeroF c.w1 34 19 || !zeroF c.w3 63 16 || decide (fld c.w0 40 38 = 5) then 0x66
    else if lmRefused s core c.slot (fld c.w1 18 0) (redBytes c) false ||
            (decide (d.kind = 0) && lmRefused s core c.slot d.addr (redBytes c) true) then 0x68
    else 0

/-- Element operations of a RED: the contribution as one, or one for each 8-byte word in arrival mode. -/
def redTotal (c : Cmd) : Nat := if redArr c then (redBytes c + 7) / 8 else 1

/-- The places of the words that hold n elements of a contribution from element i on, their address and their bytes. -/
def redSrc (c : Cmd) (i n : Nat) : List Place × Nat × Nat :=
  let z := elSize (redTyp c)
  let a := fld c.w1 18 0 + i * z
  (placesOf .lm a (n * z), a, n * z)

/-- Elements out of bytes. -/
def elsOf (z n : Nat) (bs : List Byte) : List Nat := (List.range n).map fun j => leNat ((bs.drop (j * z)).take z)

/-- Where the destination of a RED lies: at an NI, with the slot and the local address; own for the issuing core's local side. -/
inductive RedAt where
  | at_ (dst slot addr : Nat) (own full : Bool)
  | refuse
  | waits
  deriving DecidableEq, Repr

def redAt (s : State) (core : Nat) (c : Cmd) : RedAt × State :=
  match sideOf c.w2 true with
  | some d =>
    if d.kind = 0 then (.at_ (niOf s core) c.slot d.addr true d.full, s)
    else
      match peerAt s core c.cid d.rank with
      | (.waits, s) => (.waits, s)
      | (.refuse _, s) => (.refuse, s)
      | (.at_ dst slot, s) => (.at_ dst slot d.addr false d.full, s)
  | none => (.refuse, s)

/-- The bytes that a group's contribution takes of its partition's share of the overflow store (05 R99). -/
def redSize (c : RedC) : Nat := c.vals.length * elSize c.typ

/-- The stored values of a group's contributions given back. -/
def redFree (s : State) (die : Nat) (g : RedG) : State :=
  let n := (g.got.map fun x => x.2.2.2.length * elSize g.c.typ).sum
  updDie s die fun d => { d with ovUsed := mupd d.ovUsed (ctxPart (ctxOf s g.cid)) 0 (· - n) }

/-- Word w of a group's destination. -/
def redPlace (s : State) (c : RedC) (w : Nat) : Nat × Nat :=
  if c.own then lmPlace s (agCore c.dst) (c.addr + 8 * w) else (agCore c.dst, c.addr + 8 * w)

/-- The elements of a list, n to a word. -/
def redWords (n : Nat) : Nat → List Nat → List (List Nat)
  | 0, _ => []
  | f + 1, l => if l = [] then [] else l.take n :: redWords n f (l.drop n)

/-- A group whose contributions are all staged: the tree over the contributors' ranks, whose words leave for the owning NI in the channel of the
destination row's copy engine; there the destination's prior value is the left operand (11 R220). The contributors complete with the last word. -/
def redFinish (s : State) (die : Nat) (g : RedG) : State :=
  let s := redFree s die g
  let f := fun (_ : Nat) (a b : List Nat) => List.zipWith (combEl g.c.op g.c.typ (rmAt (wd g.c.rmode) 0)) a b
  let vals := (treeRed f 16 0 1 (g.got.map fun x => (x.1, x.2.2.2))).getD []
  let ws := redWords (8 / elSize g.c.typ) vals.length vals
  let id := s.opNext
  let s := updDie { s with opNext := s.opNext + 1 } die fun d => { d with reds := d.reds ++ [{ g with id := id, left := some ws.length, no := 0 }] }
  ws.zipIdx.foldl (fun s x =>
    let (d, a) := redPlace s g.c x.2
    emit s { src := copyEng s die (rowOf (agCore g.c.dst) % 64), dst := niOf s d, cls := 1, op := 6, cid := g.cid, inc := g.inc, slot := g.c.slot, len := 2,
             body := .redw (if g.c.own then a else 2 ^ 63 + a) g.c.op g.c.typ g.c.rmode x.1 g.c.full (redTok id) }) s

/-- Whether a contribution belongs to a group that still gathers. -/
def redSame (g : RedG) (cid inc : Nat) (c : RedC) : Bool := decide (g.cid = cid ∧ g.inc = inc ∧ g.c.dst = c.dst ∧ g.c.addr = c.addr ∧ g.c.tag = c.tag ∧ g.left = none)

/-- A die's reduction groups with one replaced; one that has all its contributions and is bad goes. -/
def redPut (s : State) (die : Nat) (g : RedG) : State :=
  updDie s die fun d =>
    let rest := d.reds.filter fun x => !redSame x g.cid g.inc g.c
    { d with reds := if g.bad && decide (g.got.length ≥ g.c.n) then rest else rest ++ [g] }

def redDrop (s : State) (die : Nat) (g : RedG) : State := updDie s die fun d => { d with reds := d.reds.filter fun x => !redSame x g.cid g.inc g.c }

/-- A contribution staged at the copy engine of the destination's row (23 R371). A group whose contributions have disagreed stays until all of them
have come, so that each completes with BADCONTRIB. -/
def redStage (s : State) (cid inc who tok : Nat) (c : RedC) : State :=
  let die := agDie c.dst
  let room := fun (s : State) => decide (ovUsed s die cid + redSize c ≤ ovShare s cid)
  let take := fun (s : State) => updDie s die fun d => { d with ovUsed := mupd d.ovUsed (ctxPart (ctxOf s cid)) 0 (· + redSize c) }
  let me := (c.rank, who, tok, c.vals)
  match (dieAt s die).reds.find? fun g => redSame g cid inc c with
  | none =>
    if !room s then redEnd s cid who tok 0x62
    else
      let g : RedG := { cid := cid, inc := inc, c := { c with vals := [] }, got := [me], since := s.now }
      if c.n = 1 then redFinish (take s) die g else redPut (take s) die g
  | some g =>
    if g.bad then redPut (redEnd s cid who tok 0x6E) die { g with got := g.got ++ [(c.rank, who, tok, [])] }
    else if g.got.any fun x => decide (x.1 = c.rank) then redEnd s cid who tok 0x6E
    else if c.op ≠ g.c.op ∨ c.typ ≠ g.c.typ ∨ c.n ≠ g.c.n ∨ c.rmode ≠ g.c.rmode ∨ (g.got.any fun x => decide (x.2.2.2.length ≠ c.vals.length)) = true then
      let s := g.got.foldl (fun s x => redEnd s cid x.2.1 x.2.2.1 0x6E) (redFree (redEnd s cid who tok 0x6E) die g)
      redPut s die { g with bad := true, got := (g.got.map fun x => (x.1, x.2.1, x.2.2.1, [])) ++ [(c.rank, who, tok, [])] }
    else if !room s then redEnd s cid who tok 0x62
    else
      let g := { g with got := g.got ++ [me] }
      if g.got.length = g.c.n then redFinish (redDrop (take s) die g) die g else redPut (take s) die g

/-- Elements of a RED contribution that one packet carries behind its two header granules (02 R28). -/
def redSlice (c : RedC) : Nat := 254 * 16 / elSize c.typ

/-- A contribution to another chip, in packets of up to 256 granules. -/
def redSend (src cid inc slot tok : Nat) (c : RedC) : Nat → List Nat → State → State
  | 0, _, s => s
  | f + 1, l, s =>
    if l = [] then s
    else
      let x := l.take (redSlice c)
      redSend src cid inc slot tok c f (l.drop (redSlice c))
        (emit s { src := src, dst := c.dst, cls := 1, op := 6, cid := cid, inc := inc, slot := slot, len := 2 + (x.length * elSize c.typ + 15) / 16,
                  body := .redc { c with vals := x } tok })

/-- A part of a contribution of another chip has come: with the last of its elements it is staged. -/
def redPart (s : State) (cid inc who tok : Nat) (c : RedC) : State :=
  let die := agDie c.dst
  let mine := fun (x : Nat × Nat × Nat × Nat × RedC) => decide (x.1 = cid ∧ x.2.1 = inc ∧ x.2.2.1 = who ∧ x.2.2.2.1 = tok)
  let before := (((dieAt s die).redIn.find? mine).map fun x => x.2.2.2.2.vals).getD []
  let c : RedC := { c with vals := before ++ c.vals }
  let s := updDie s die fun d => { d with redIn := d.redIn.filter fun x => !mine x }
  if c.total ≤ c.vals.length then redStage s cid inc who tok c
  else updDie s die fun d => { d with redIn := d.redIn ++ [(cid, inc, who, tok, c)] }

/-- The contribution of an ordered RED: its words are read, and it is staged here or sent to the destination's chip. Its values are operands of the engine,
so poison among them is consumed and seals the issuing core (04 R69, R70). -/
def redContribute (s : State) (core : Nat) (r : RunCmd) (w : Nat) : State :=
  let c := r.cmd
  if r.asked ≠ [] then s
  else
    match redAt s core c with
    | (.waits, _) => s
    | (.refuse, s) => endRun s core c.tok 0x6A 0
    | (.at_ dst slot addr own full, s) =>
      let (ps, a, n) := redSrc c 0 (redLen c)
      if agChip dst ≠ s.chip ∧ canSend s dst 1 = false then s
      else
        match gather s core r 0 w ps with
        | .some_ s => s
        | .refused => endRun s core c.tok 0x6A 0
        | .fail => endRun s core c.tok 0x6A 0
        | .all s ws =>
          let (bs, bad) := bytesOf a n ws
          if bad then sealCore (endRun s core c.tok 0x25 0) core
          else
            let x : RedC := { tag := redTag c, n := redNum c, op := redFn c, typ := redTyp c, rmode := (cmdMode c).toNat, dst := dst, slot := slot, addr := addr,
                              own := own, full := full, rank := slotRank (coreOf s core) c.slot, vals := elsOf (elSize (redTyp c)) (redLen c) bs, total := redLen c }
            let s := noteAsked s core c.tok 0
            if agChip dst = s.chip then redStage s c.cid c.inc core c.tok x
            else redSend (engAgent s core c) c.cid c.inc slot (engTok core c.tok 0) x x.vals.length x.vals s

/-- Word i of a RED in arrival mode: its source words are read, and it leaves for the owning NI, which combines it. One that meets a standing ordered group
of its destination disagrees with it. -/
def redWord (s : State) (core : Nat) (r : RunCmd) (i w : Nat) : State :=
  let c := r.cmd
  if i ∈ r.asked then s
  else
    match redAt s core c with
    | (.waits, _) => s
    | (.refuse, s) => engDone s (engTok core c.tok i) true
    | (.at_ dst slot addr own full, s) =>
      let n := 8 / elSize (redTyp c)
      let m := min n (redLen c - i * n)
      let (ps, a, len) := redSrc c (i * n) m
      if agChip dst ≠ s.chip ∧ canSend s dst 1 = false then s
      else
        match gather s core r (2 * i) w ps with
        | .some_ s => s
        | .refused => engDone s (engTok core c.tok i) true
        | .fail => engDone s (engTok core c.tok i) true
        | .all s ws =>
          let (bs, bad) := bytesOf a len ws
          let x : RedC := { tag := redTag c, dst := dst, addr := addr }
          if bad then sealCore (endRun s core c.tok 0x25 0) core
          else
            match (if agChip dst = s.chip then (dieAt s (agDie dst)).reds.find? fun g => redSame g c.cid c.inc x && !g.bad else none) with
            | some g =>
              let s := g.got.foldl (fun s y => redEnd s g.cid y.2.1 y.2.2.1 0x6E) (redFree (endRun s core c.tok 0x6E 0) (agDie dst) g)
              redPut s (agDie dst) { g with bad := true, got := (g.got.map fun y => (y.1, y.2.1, y.2.2.1, [])) ++ [(slotRank (coreOf s core) c.slot, core, c.tok, [])] }
            | none =>
              let (d, at_) := if own then let (d, at_) := lmPlace s core (addr + 8 * i); (niOf s d, at_) else (dst, (if agChip dst = s.chip then 2 ^ 63 else 0) + addr + 8 * i)
              emit (noteAsked s core c.tok i)
                { src := engAgent s core c, dst := d, cls := 1, op := 6, cid := c.cid, inc := c.inc, slot := slot, len := 2,
                  body := .redw at_ (redFn c) (redTyp c) (cmdMode c).toNat (elsOf (elSize (redTyp c)) m bs) full (engTok core c.tok i) }

/-- An element operation of a RED. -/
def redStep (s : State) (core : Nat) (r : RunCmd) (i w : Nat) : State := if redArr r.cmd then redWord s core r i w else redContribute s core r w

/-- RED_CONTRIBUTION_ARRIVE: a contribution reaches its destination's copy engine and is staged; in arrival mode its next word is combined. -/
def execRedContributionArrive (core cmd : Nat) (s : State) : Out :=
  match (coreOf s core).run.find? fun r => decide (r.cmd.tok = cmd ∧ cmdCode r.cmd = 0x12) && r.result.isNone with
  | none => .next s
  | some r => if r.asked.length < r.total then .next (redStep s core r r.asked.length 0) else .next s

/-- REDTO in cycles: 10 ms. -/
def redTo : Nat := 16000000

/-- RED_TIMEOUT: groups of a tag whose first contribution came 10 ms ago end with INCOMPLETE at every contributor that has arrived. -/
def execRedTimeout (die cid tag : Nat) (s : State) : Out :=
  .next (((dieAt s die).reds.filter fun g => decide (g.cid = cid ∧ g.c.tag = tag ∧ g.left = none ∧ s.now - g.since ≥ redTo)).foldl (fun s g =>
    let s := redDrop s die g
    if g.bad then s else g.got.foldl (fun s x => redEnd s g.cid x.2.1 x.2.2.1 0x6F) (redFree s die g)) s)

/-! ### COPY.M (23 R370; 02 R42, R43) -/

def copyMWords (c : Cmd) : Nat := fld c.w2 46 32
def copyMChunks (c : Cmd) : Nat := if c.w3 = 0 then 0 else (copyMWords c + 255) / 256

def copyMCheck (s : State) (core : Nat) (c : Cmd) : Nat :=
  match sideOf c.w1 false with
  | none => 0x66
  | some a =>
    if a.kind = 1 ∨ copyMWords c = 0 ∨ fld c.w2 31 19 ≠ 0 ∨ fld c.w2 18 0 % 8 ≠ 0 then 0x66
    else if a.kind = 0 ∧ lmRefused s core c.slot a.addr (8 * copyMWords c) false = true then 0x68
    else if a.kind = 2 ∧ layoutBad s core c a 1 (8 * copyMWords c) false = true then 0x69
    else 0

/-- The ranks that a delivery operand names. -/
def operandRanks (o : MOperand) : List Nat := (setBits 64 0 o.mask).map fun i => (o.rankbase + i) % 65536

/-- The chips to which ranks resolve at a core's NI: none while one of them moves; the flag says that one of them names no place. -/
def copyMChips (c cid : Nat) : List Nat → State → Option (List Nat × Bool) × State
  | [], s => (some ([], false), s)
  | r :: rs, s =>
    let (e, s) := resolve s c cid r
    match reState e with
    | 1 => let (x, s) := copyMChips c cid rs s; (x.map fun x => (addSorted x.1 (reChip e), x.2), s)
    | 0 => let (x, s) := copyMChips c cid rs s; (x.map fun x => (x.1, true), s)
    | _ => (none, s)

/-- Chunk i of a COPY.M: its words are read, and one multicast packet with up to 2 KiB leaves. A rank that names no place is one whose data is dropped. What
DCHIP and DAGENT of a multicast packet hold is not stated: DESIGN CHOICE, zero (log 52). -/
def copyMStep (s : State) (core : Nat) (r : RunCmd) (i w : Nat) : State :=
  let c := r.cmd
  if i ∈ r.asked then s
  else
    match sideOf c.w1 false with
    | none => s
    | some a =>
      let n := min 256 (copyMWords c - 256 * i)
      let o : MOperand := { rankbase := fld c.w2 63 48, setfull := bit c.w2 47, offset := fld c.w2 18 0 + 2048 * i, mask := c.w3.toNat }
      let tok := engTok core c.tok i
      match copyMChips core c.cid (operandRanks o) s with
      | (none, _) => s
      | (some (chips, bad), s) =>
        match gather s core r (256 * i) w ((List.range n).map fun j => placeOf s core c a 0 0 (256 * i + j)) with
        | .some_ s => s
        | .refused => engDone s tok true
        | .fail => engDone s tok true
        | .all s words =>
          if chips = [] then engDone s tok bad
          else
            let m := s.mtagNext
            let p : Packet := { src := engAgent s core c, dst := 0, cls := 1, op := 6, cid := c.cid, inc := c.inc, seq := m, mcast := true, len := 10 + (8 * n + 15) / 16,
                                body := .mdata m chips o words none }
            noteAsked { s with mtagNext := (m + 1) % 2 ^ 24, egress := s.egress ++ [p]
                               mouts := s.mouts ++ [{ mtag := m, src := engAgent s core c, cid := c.cid, inc := c.inc, core := core, tok := tok, pkt := p, sent := s.now,
                                                      drop := bad }] } core c.tok i

/-- COPY.M data applied at the NIs of this chip that its operand names: whether some target dropped it, and the state (02 R42, R43). -/
def leafData (s : State) (p : Packet) (o : MOperand) (words : List (Word × Bool)) : Bool × State :=
  (operandRanks o).foldl (fun (x : Bool × State) rank =>
    let s := x.2
    let e := rankEntry s p.cid rank
    if reChip e ≠ s.chip ∨ reState e = 0 then x
    else
      let d := reCore e
      if reState e ≠ 1 then (true, s)
      else if !incOk s (niOf s d) p.cid p.inc then (true, staleAt s d)
      else
        words.zipIdx.foldl (fun (x : Bool × State) w =>
          let s := x.2
          let a := o.offset + 8 * w.2
          if a ≥ 2 ^ 19 ∨ (niRefusal s d (reSlot e) p.src a 8 true).isSome = true then (true, s)
          else
            let s := lmWriteFull s d a (leBytes 8 w.1.1.toNat) o.setfull
            (x.1, if w.1.2 then lmPoison s d a 8 else s)) (x.1, s)) (false, s)

/-! ### COLL and CPROBE (23 R379, R380; 02 R44 to R47) -/

def collGid (c : Cmd) : Nat := fld c.w1 63 48
def collRound (c : Cmd) : Nat := fld c.w1 47 40
def collOp (c : Cmd) : Nat := fld c.w1 39 38
def collTyp (c : Cmd) : Nat := fld c.w1 37 34
def collLen (c : Cmd) : Nat := fld c.w1 32 25 + 1
/-- Elements of a contribution: a RESCALE's m and s before its v. -/
def collEls (c : Cmd) : Nat := collLen c + (if collOp c = 3 then 2 else 0)
def collBytes (c : Cmd) : Nat := collEls c * elSize (collTyp c)

/-- The chips that PMASK names. -/
def collChips (s : State) (c : Cmd) : List Nat := (setBits 64 0 c.w3.toNat).filterMap fun i => (spanOf s c.cid)[i]?

def collCheck (s : State) (core : Nat) (c : Cmd) : Nat :=
  let span := spanOf s c.cid
  if !zeroF c.w1 24 19 || !zeroF c.w2 62 19 || !(if collOp c = 3 then decide (collTyp c = 8) else combAllowed (collOp c) (collTyp c)) ||
     (decide (collTyp c = 3) && decide (collLen c > 128)) || decide (c.w3.toNat / 2 ^ span.length ≠ 0) || decide (s.chip ∉ collChips s c) then 0x66
  else if lmRefused s core c.slot (fld c.w1 18 0) (collBytes c) false || lmRefused s core c.slot (fld c.w2 18 0) (collBytes c) true then 0x68
  else 0

/-- A round of this chip. -/
def roundOf (s : State) (cid inc gid round : Nat) : Option (Nat × RoundE) :=
  (List.range 2).findSome? fun d => ((dieAt s d).rounds.find? fun r => decide (r.cid = cid ∧ r.inc = inc ∧ r.gid = gid ∧ r.round = round)).map fun r => (d, r)

/-- The contribution of a COLL sent to the group's root: a second one of this chip in the round completes alone with BADCONTRIB. Poison among its
elements is consumed (04 R69). -/
def collSend (s : State) (core : Nat) (r : RunCmd) (w : Nat) : State :=
  let c := r.cmd
  if r.asked ≠ [] then s
  else if (roundOf s c.cid c.inc (collGid c) (collRound c)).isSome then endRun s core c.tok 0x6E 0
  else
    let z := elSize (collTyp c)
    match gather s core r 0 w (placesOf .lm (fld c.w1 18 0) (collBytes c)) with
    | .some_ s => s
    | .refused => endRun s core c.tok 0x68 0
    | .fail => endRun s core c.tok 0x68 0
    | .all s ws =>
    let (bs, bad) := bytesOf (fld c.w1 18 0) (collBytes c) ws
    if bad then (if isSup core then endRun s core c.tok 0x25 0 else sealCore (endRun s core c.tok 0x25 0) core)
    else
      let chips := collChips s c
      let x : Contrib := { cid := c.cid, inc := c.inc, gid := collGid c, round := collRound c, op := collOp c, typ := collTyp c, arr := bit c.w1 33, len := collLen c,
                           pmask := c.w3.toNat, chips := chips, chip := s.chip,
                           vals := (List.range (collEls c)).map fun j => leNat ((bs.drop (j * z)).take z) }
      let p : Packet := { src := engAgent s core c, dst := chips.foldl min s.chip * 65536 + 7 * 4096 + 0xFFF, cls := 6, op := 0x1C, cid := c.cid, inc := c.inc, comb := true,
                          len := 1 + (collBytes c + 15) / 16, body := .contrib x }
      let e : RoundE := { cid := c.cid, inc := c.inc, gid := collGid c, round := collRound c, state := 1,
                          running := [(core, c.tok, fld c.w2 18 0, bit c.w2 63, r.started)], at_ := s.now }
      let s := updRun { s with egress := s.egress ++ [p] } core c.tok fun r => { r with asked := [0], done_ := [0] }
      updDie s (dieOf core) fun d => { d with rounds := d.rounds ++ [e] }

/-- A round changed. -/
def updRound (s : State) (die : Nat) (e : RoundE) (f : RoundE → RoundE) : State :=
  updDie s die fun d => { d with rounds := d.rounds.map fun r => if r = e then f r else r }

/-- A combining result at this chip: the round's COLL has its result written at its DST and completes, or completes with the group's status
(23 R379). The round is received from now on. -/
def leafResult (s : State) (c : Contrib) (status : Nat) : State :=
  match roundOf s c.cid c.inc c.gid c.round with
  | none => s
  | some (die, e) =>
    if e.state = 2 then s
    else
      let s := e.running.foldl (fun s x =>
        let (core, tok, dst, full, _) := x
        if status ≠ 0 then endRun s core tok status 0
        else
          let z := elSize c.typ
          let bs := c.vals.flatMap (leBytes z)
          match (coreOf s core).run.find? fun r => decide (r.cmd.tok = tok) with
          | some r => endRun (putLocal s core r.cmd 1 dst bs full) core tok 0 0
          | none => s) s
      updRound s die e fun r => { r with state := 2, running := [], at_ := s.now }

/-- COMBTO in cycles: 10 ms. -/
def combTo : Nat := 16000000

/-- COLL_TIMEOUT (23 R379): a COLL placed 2 x COMBTO ago whose result has not arrived ends with INCOMPLETE; nothing is written at its DST later. -/
def execCollTimeout (core cmd : Nat) (s : State) : Out :=
  match (coreOf s core).run.find? fun r => decide (r.cmd.tok = cmd ∧ cmdCode r.cmd = 0x40) && r.result.isNone with
  | none => .next s
  | some r =>
    if s.now - r.started < 2 * combTo then .next s
    else
      let s := endRun s core cmd 0x6F 0
      .next (match roundOf s r.cmd.cid r.cmd.inc (collGid r.cmd) (collRound r.cmd) with
        | some (die, e) => updRound s die e fun x => { x with running := x.running.filter fun y => !decide (y.1 = core ∧ y.2.1 = cmd) }
        | none => s)

/-- ROUND_FORGET (23 R380): 1 ms after its result, a round is unknown. One whose result never came is forgotten 1 ms after its last COLL has
ended. -/
def execRoundForget (die cid gid round : Nat) (s : State) : Out :=
  .next (updDie s die fun d => { d with rounds := d.rounds.filter fun r =>
    !(decide (r.cid = cid ∧ r.gid = gid ∧ r.round = round) &&
      ((decide (r.state = 2) && decide (s.now - r.at_ ≥ 1600000)) || (r.running.isEmpty && decide (s.now - r.at_ ≥ 2 * combTo + 1600000)))) })

def cprobeCheck (c : Cmd) : Nat := if !zeroF c.w1 39 0 || decide (c.w2 ≠ 0) || decide (c.w3 ≠ 0) then 0x66 else 0

/-- CPROBE: the round's state and the COLL commands of it that still run. -/
def cprobe (s : State) (c : Cmd) : Nat × Nat :=
  match roundOf s c.cid c.inc (collGid c) (collRound c) with
  | none => (0x76, 0)
  | some (_, e) => (0, e.state * 2 ^ 24 + e.running.length % 65536)

end Sys2Proof.Machine
end

