-- ==== Sys2Proof/Machine/Nic.lean ====
section
/-! DEFINITION. Each die's NIC engine: NICPOST and NICCQ, and Ultra Ethernet messages sent and received (23 R374 to R378, R388; 25 R383 to R386). -/

namespace Sys2Proof.Machine

/-! ### Work requests (23 R376) -/

def updNic (s : State) (die : Nat) (f : Nic → Nic) : State := updDie s die fun d => { d with nic := f d.nic }
def nicAt (s : State) (die : Nat) : Nic := (dieAt s die).nic

/-- A layout of a context on a die whose extent holds [va, va + n) and that allows reading or writing. -/
def layoutOver (s : State) (die cid inc va n : Nat) (wr : Bool) : Option Layout :=
  (dieAt s die).layouts.find? fun l => decide (l.cid = cid ∧ l.inc = inc) && (if wr then l.wr else l.rd) &&
    decide (l.base ≤ va) && decide (va + n ≤ l.base + (l.rows - 1) * l.stride + l.rowbytes)

/-- Whether a peer table entry can be sent to (23 R375, 25 R383). -/
def peerValid (w0 : Word) : Bool := bit w0 63 && decide (6 ≤ fld w0 51 48) && decide (fld w0 51 48 ≤ 12)

/-- Whether a request of eight words is malformed (23 R374 to R376; 25 R384). -/
def wrqBad (s : State) (core : Nat) (c : Cmd) (w : List Word) : Bool :=
  let g := fun i => w.getD i 0
  let die := dieOf core
  let op := fld (g 0) 63 56
  let len := fld (g 0) 23 0
  let lg := bit (g 1) 63
  let recv := decide (op = 3)
  let buf := fld (g 1) 56 0
  decide (op < 1 ∨ op > 3) || !zeroF (g 0) 55 49 || !zeroF (g 0) 47 24 || decide (len = 0) ||
  (if lg then !zeroF (g 1) 62 57 || (layoutOver s die c.cid c.inc buf len recv).isNone else !zeroF (g 1) 62 19 || lmRefused s core c.slot buf len recv) ||
  (if recv then decide (g 2 ≠ 0 ∨ g 3 ≠ 0 ∨ g 4 ≠ 0)
   else !zeroF (g 2) 63 12 || !peerValid (peerWord s die c.cid (fld (g 2) 11 0) 0) ||
        (if op = 2 then !zeroF (g 4) 63 32 else decide (g 3 ≠ 0 ∨ g 4 ≠ 0))) ||
  decide (fld (g 5) 2 0 ≠ 0) || (layoutOver s die c.cid c.inc (g 5).toNat 8 true).isNone || decide (g 7 ≠ 0)

/-- A virtual address through a request's pages. -/
def wrqPa (r : Wrq) (va : Nat) : Option Nat := (mget r.pages (va / 2 ^ 15)).map fun p => p + va % 2 ^ 15

/-- The places of the words of a request's buffer. -/
def wrqSrc (r : Wrq) : List Place :=
  placesOf (fun a => if r.lg then (match wrqPa r a with | some pa => .pa pa | none => .nowhere) else .lm a) r.buf r.len

/-- The packets of n bytes cut at a size, with consecutive PSNs (25 R383). -/
def cutPkts (size psn : Nat) (n : Nat) : List WPkt :=
  (List.range ((n + size - 1) / size)).map fun i => { psn := (psn + i) % 2 ^ 32, off := i * size, n := min size (n - i * size) }

/-- A request as its eight words give it. -/
def wrqOf (s : State) (core : Nat) (c : Cmd) (w : List Word) : Wrq :=
  let g := fun i => w.getD i 0
  let die := dieOf core
  let op := fld (g 0) 63 56
  let len := fld (g 0) 23 0
  let buf := fld (g 1) 56 0
  let lg := bit (g 1) 63
  let peer := fld (g 2) 11 0
  let cctr := (g 5).toNat
  let pagesOf := fun (l : Option Layout) => ((l.map (·.pages)).getD [])
  let pages := (pagesOf (layoutOver s die c.cid c.inc cctr 8 true) ++ (if lg then pagesOf (layoutOver s die c.cid c.inc buf len (op = 3)) else [])).foldl
    (fun m p => if p.1 = cctr / 2 ^ 15 ∨ (lg = true ∧ buf / 2 ^ 15 ≤ p.1 ∧ p.1 ≤ (buf + len) / 2 ^ 15) then mput m p.1 p.2 else m) []
  { id := (nicAt s die).nextId, cid := c.cid, inc := c.inc, core := core, slot := c.slot, op := op, cqe := bit (g 0) 48, len := len, lg := lg, buf := buf, peer := peer,
                   rva := (g 3).toNat, rkey := fld (g 4) 31 0, cctr := cctr, utag := g 6, pages := pages }

/-- One request posted with the bytes to send: its packets numbered (23 R376, 25 R383). -/
def postWrq (s : State) (core : Nat) (c : Cmd) (w : List Word) (data : List Byte) : State :=
  let die := dieOf core
  let n := nicAt s die
  let r := wrqOf s core c w
  let op := r.op
  let key := c.cid * 4096 + r.peer
  let size := 2 ^ fld (peerWord s die c.cid r.peer 0) 51 48
  let r := if op = 3 then r else
    { r with data := data, msgno := mgetD n.msgno key 0, pkts := cutPkts size (mgetD n.psn key 0) r.len }
  updNic s die fun n =>
    { n with wrqs := n.wrqs ++ [r], nextId := n.nextId + 1, msgno := if op = 3 then n.msgno else mput n.msgno key (mgetD n.msgno key 0 + 1)
             psn := if op = 3 then n.psn else mput n.psn key ((mgetD n.psn key 0 + r.pkts.length) % 2 ^ 32) }

def nicpostCheck (s : State) (core : Nat) (c : Cmd) : Nat :=
  if !zeroF c.w1 63 19 || !zeroF c.w2 63 4 || decide (c.w3 ≠ 0) || decide (fld c.w1 18 0 % 64 ≠ 0) then 0x66
  else if lmRefused s core c.slot (fld c.w1 18 0) (64 * (fld c.w2 3 0 + 1)) false then 0x68
  else 0

/-- The requests posted in order with their data, up to the first malformed one: its index, and the state. -/
def postAll (core : Nat) (c : Cmd) : List (Nat × List Word × List Byte) → State → Option Nat × State
  | [], s => (none, s)
  | (i, w, b) :: l, s => if wrqBad s core c w then (some i, s) else postAll core c l (postWrq s core c w b)

/-- NICPOST performed: the requests are read, then the buffers of those to be posted, and they are posted; STATUS and AUX. Poison among the requests is
consumed (04 R69). -/
def nicpost (s : State) (core : Nat) (r : RunCmd) (w : Nat) : State :=
  let c := r.cmd
  let n := fld c.w2 3 0 + 1
  let a := fld c.w1 18 0
  match gatherKeep s core r 0 w (placesOf .lm a (64 * n)) with
  | .some_ s => s
  | .refused => endRun s core c.tok 0x68 0
  | .fail => endRun s core c.tok 0x68 0
  | .all s ws =>
    let (bs, bad) := bytesOf a (64 * n) ws
    if bad then sealCore (endRun s core c.tok 0x25 0) core
    else
      let reqs := (List.range n).map fun i => (i, leWords 8 (bs.drop (64 * i)))
      let good := (postAll core c (reqs.map fun x => (x.1, x.2, [])) s).1.getD n
      let src := (reqs.take good).map fun x => let q := wrqOf s core c x.2; if q.op = 3 then ([], q) else (wrqSrc q, q)
      match gatherKeep s core r (2 ^ 20) w (src.flatMap (·.1)) with
      | .some_ s => s
      | .refused => endRun s core c.tok 0x68 0
      | .fail => endRun s core c.tok 0x68 0
      | .all s ds =>
        let data := (src.foldl (fun (x : List (List Byte) × List (Word × Bool)) q =>
          (x.1 ++ [(bytesOf q.2.buf q.2.len (x.2.take q.1.length)).1], x.2.drop q.1.length)) ([], ds)).1
        let s := updRun s core c.tok fun r => { r with reads := [] }
        if ds.any (·.2) then sealCore (endRun s core c.tok 0x25 0) core
        else
          match postAll core c (reqs.map fun x => (x.1, x.2, data.getD x.1 [])) s with
          | (none, s) => endRun s core c.tok 0 0
          | (some i, s) => endRun s core c.tok 0x70 i

/-! ### What has been received of a pair (25 R385) -/

/-- The received PSNs with one more, and the cumulative PSN advanced past what follows. -/
def rxAdvance : Nat → Nat → List Nat → Nat × List Nat
  | 0, cum, got => (cum, got)
  | n + 1, cum, got => if cum ∈ got then rxAdvance n ((cum + 1) % 2 ^ 32) (got.erase cum) else (cum, got)

def rxPair (s : State) (die : Nat) (p : NicPkt) : RxPair :=
  ((nicAt s die).rx.find? fun x => decide (x.from_ = p.from_ ∧ x.scid = p.scid ∧ x.peer = p.peer ∧ x.pid = p.pid)).getD
    { from_ := p.from_, scid := p.scid, peer := p.peer, pid := p.pid }

def rxPut (s : State) (die : Nat) (x : RxPair) : State :=
  updNic s die fun n => { n with rx := (n.rx.filter fun y => !decide (y.from_ = x.from_ ∧ y.scid = x.scid ∧ y.peer = x.peer ∧ y.pid = x.pid)) ++ [x] }

/-- The SACK for a pair as it stands. -/
def sackSend (s : State) (die : Nat) (x : RxPair) : State :=
  let bitmap := ((List.range 64).map fun i => if (x.cum + 1 + i) % 2 ^ 32 ∈ x.got then 2 ^ i else 0).sum
  updNic s die fun n => { n with sacks := n.sacks ++ [(x.from_, x.scid, x.peer, x.cum, bitmap)] }

def nicRefuse (s : State) (die : Nat) (p : NicPkt) : State := updNic s die fun n => { n with refusals := n.refusals ++ [(p.from_, p.scid, p.peer, p.psn)] }

/-- A packet noted as received, and its SACK. -/
def rxTake (s : State) (die : Nat) (p : NicPkt) : State :=
  let x := rxPair s die p
  let (cum, got) := rxAdvance (x.got.length + 1) x.cum (x.got ++ [p.psn])
  let x := { x with cum := cum, got := got }
  sackSend (rxPut s die x) die x

/-! ### Completion (23 R377, 25 R386) -/

/-- A completion entry queued; a context's queue of 1,024 that is full loses it (23 R378). -/
def cqAdd (s : State) (die : Nat) (e : CqE) : State :=
  if ((nicAt s die).cq.filter fun x => decide (x.cid = e.cid)).length ≥ 1024 then count s die 6 else updNic s die fun n => { n with cq := n.cq ++ [e] }

/-- A number added to a request's counter at its home (23 R377). -/
def cctrAdd (s : State) (die : Nat) (r : Wrq) (v : Nat) : State :=
  match wrqPa r r.cctr with
  | none => s
  | some pa =>
    emit s { src := nicOf s die, dst := homeOf s die pa, cls := 0, op := 4, cid := r.cid, inc := r.inc, len := 2, body := .amo pa 1 8 (wd v) 0 0 0 }

/-- A request ends: its counter, a completion entry where one is due, and it is gone. -/
def wrqEnd (s : State) (die : Nat) (r : Wrq) (status : Nat) : State :=
  let s := updNic s die fun n => { n with wrqs := n.wrqs.filter fun x => !decide (x.id = r.id) }
  let s := cctrAdd s die r (if status = 0 then 1 else 2 ^ 32)
  if status ≠ 0 ∨ r.cqe = true then
    cqAdd s die { cid := r.cid, inc := r.inc, utag := r.utag, status := status, op := r.op, bytes := if r.op = 3 then r.placed else if status = 0 then r.len else
      ((r.pkts.filter (·.acked)).map (·.n)).sum }
  else s

/-- Every request of a die that has nothing left to wait for completes. -/
def nicSettle (s : State) (die : Nat) : State :=
  ((nicAt s die).wrqs.filter fun r =>
    if r.op = 3 then r.match_.isSome && decide (r.placed ≥ r.total) && decide (r.far = 0) else r.pkts.all (·.acked)).foldl (fun s r => wrqEnd s die r 0) s

/-- The packets of a die whose bytes have all been placed: each is acknowledged (23 R377, 25 R385). -/
def nicPlaced (s : State) (die : Nat) : State :=
  ((nicAt s die).placing.filter fun q => decide (q.left = 0)).foldl (fun s q =>
    rxTake (updNic s die fun n => { n with placing := n.placing.filter fun x => !decide (x.id = q.id)
                                           wrqs := n.wrqs.map fun r => if q.req = some r.id then { r with far := r.far - 1 } else r }) die q.pkt) s

/-- What the engines of both dies owe: acknowledgements of placed packets, and completions. -/
def nicDue (s : State) : State := nicSettle (nicSettle (nicPlaced (nicPlaced s 0) 1) 0) 1

def niccqCheck (s : State) (core : Nat) (c : Cmd) : Nat :=
  let n := fld c.w1 7 0
  let a := fld c.w2 18 0
  if !zeroF c.w1 63 8 || decide (n = 0) || !zeroF c.w2 63 19 || decide (c.w3 ≠ 0) then 0x66
  else
    let f := rgOf (slotOf (coreOf s core) c.slot) 1
    if c.inh || !(rgV f && decide (rgBase f ≤ a) && decide (a + 32 * n ≤ rgBase f + rgSize f)) then 0x68 else 0

/-- NICCQ performed: entries of the context copied to LM, and how many (23 R378). -/
def niccq (s : State) (core : Nat) (c : Cmd) : State :=
  let die := dieOf core
  let es := ((nicAt s die).cq.filter fun e => decide (e.cid = c.cid ∧ e.inc = c.inc)).take (fld c.w1 7 0)
  let bytes := es.flatMap fun e => wordsBytes [e.utag, wd (e.status + e.op * 256), wd e.bytes, 0]
  let s := putLocal s core c 0 (fld c.w2 18 0) bytes false
  let s := updNic s die fun n => { n with cq := es.foldl (fun l e => l.erase e) n.cq }
  updRun s core c.tok fun r => { r with result := some (0, 0, es.length) }

/-! ### Sending (25 R383, R385) -/

/-- A packet of a request as it goes to the network. -/
def wirePkt (s : State) (die : Nat) (r : Wrq) (p : WPkt) : NicPkt :=
  let g := peerWord s die r.cid r.peer
  { from_ := s.chip * 2 + die, scid := r.cid, peer := r.peer, toLo := (g 2).toNat, toHi := (g 3).toNat, psn := p.psn, kind := r.op - 1, jobid := fld (g 0) 47 24, pid := fld (g 0) 23 12,
    ridx := fld (g 0) 11 0, msgno := r.msgno, offset := p.off, total := r.len, rva := r.rva, rkey := r.rkey, data := (r.data.drop p.off).take p.n }

/-- A packet of a request changed. -/
def updPkt (s : State) (die id psn : Nat) (f : WPkt → WPkt) : State :=
  updNic s die fun n => { n with wrqs := n.wrqs.map fun r => if r.id = id then { r with pkts := r.pkts.map fun p => if p.psn = psn then f p else p } else r }

/-- NIC_PACKET_SEND: request i of the die sends its next packet; those of one sending context and peer leave in PSN order. -/
def execNicPacketSend (die i : Nat) (s : State) : Out :=
  match (nicAt s die).wrqs[i]? with
  | none => .next s
  | some r =>
    let before := ((nicAt s die).wrqs.take i).any fun x => decide (x.op ≠ 3 ∧ x.cid = r.cid ∧ x.peer = r.peer) && x.pkts.any fun p => p.sent.isNone
    match r.pkts.find? fun p => p.sent.isNone with
    | none => .next s
    | some p =>
      if before then .next s
      else
        let s := updPkt s die r.id p.psn fun p => { p with sent := some s.now }
        .next (updNic s die fun n => { n with out := n.out ++ [wirePkt s die r p] })

/-- A packet declared lost: resent alone, or its request ends with NICTO after the seventh resend (25 R385). -/
def pktLost (s : State) (die : Nat) (r : Wrq) (p : WPkt) (hi : Nat) : State :=
  if p.resends ≥ 7 then wrqEnd s die r 0x72
  else
    let s := updPkt s die r.id p.psn fun p => { p with sent := some s.now, resends := p.resends + 1, hi := hi }
    updNic s die fun n => { n with out := n.out ++ [wirePkt s die r p] }

/-- PSN p before q, modulo 2^32. -/
def psnLt (p q : Nat) : Bool := decide (0 < (q + 2 ^ 32 - p % 2 ^ 32) % 2 ^ 32) && decide ((q + 2 ^ 32 - p % 2 ^ 32) % 2 ^ 32 < 2 ^ 31)

/-- Whether a SACK shows a PSN received: below the cumulative one, or in the bitmap, whose bit i names the PSN i + 1 above it. -/
def sackHas (cum bitmap p : Nat) : Bool :=
  psnLt p cum || (let d := (p + 2 ^ 32 - cum % 2 ^ 32) % 2 ^ 32; decide (1 ≤ d) && decide (d ≤ 64) && decide (bitmap / 2 ^ (d - 1) % 2 = 1))

/-- How many PSNs above p a SACK shows received while p is not. -/
def sackAbove (cum bitmap p : Nat) : Nat := ((List.range 64).filter fun i => decide (bitmap / 2 ^ i % 2 = 1) && psnLt p (cum + 1 + i)).length

/-- The packets of a context's requests to a peer that are sent and not acknowledged. -/
def waitingPkts (s : State) (die cid peer : Nat) : List (Wrq × WPkt) :=
  ((nicAt s die).wrqs.filter fun r => decide (r.op ≠ 3 ∧ r.cid = cid ∧ r.peer = peer)).flatMap fun r =>
    (r.pkts.filter fun p => p.sent.isSome && !p.acked).map fun p => (r, p)

/-- NIC_SACK_RECEIVE (25 R385, R386): packets are acknowledged, requests complete, and a packet that three higher ones have passed since it was last
sent is lost. -/
def execNicSackReceive (die cid peer cum bitmap : Nat) (s : State) : Out :=
  let s := (waitingPkts s die cid peer).foldl (fun s x => if sackHas cum bitmap x.2.psn then updPkt s die x.1.id x.2.psn fun p => { p with acked := true } else s) s
  let s := nicSettle s die
  .next ((waitingPkts s die cid peer).foldl (fun s x =>
    let n := sackAbove cum bitmap x.2.psn
    if n ≥ x.2.hi + 3 ∧ ((nicAt s die).wrqs.any fun r => decide (r.id = x.1.id)) = true then pktLost s die x.1 x.2 n else s) s)

/-- NIC_RETRANSMIT_TIMEOUT (25 R385): a packet 100 µs without acknowledgement is lost. -/
def execNicRetransmitTimeout (die cid peer psn : Nat) (s : State) : Out :=
  match (waitingPkts s die cid peer).find? fun x => decide (x.2.psn = psn) with
  | none => .next s
  | some (r, p) => if s.now - p.sent.getD s.now ≥ 160000 then .next (pktLost s die r p p.hi) else .next s

/-- NIC_REFUSAL_RECEIVE (23 R375, R377): the operation that sent the packet completes with NICRMT. -/
def execNicRefusalReceive (die cid peer psn : Nat) (s : State) : Out :=
  match (waitingPkts s die cid peer).find? fun x => decide (x.2.psn = psn) with
  | none => .next s
  | some (r, _) => .next (wrqEnd s die r 0x71)

/-! ### Receiving (23 R375, R377, R388; 25 R384, R385) -/

/-- Bytes placed through a translation of virtual addresses, a word at a time (09 R177): how many placements are on their way to their homes. -/
def placeBytes (s : State) (die cid inc tok va : Nat) (tr : Nat → Option Nat) (bs : List Byte) : Nat × State :=
  (pieces (bs.length + 1) va bs).foldl (fun x q =>
    match tr q.1 with
    | some pa => (x.1 + 1, emit x.2 { src := nicOf s die, dst := homeOf s die pa, cls := 1, op := 6, cid := cid, inc := inc, len := 2, body := pieceBody pa q.2 false tok })
    | none => x) (0, s)

/-- Bytes placed in a core's LM. -/
def placeLocal (s : State) (die : Nat) (r : Wrq) (tok a : Nat) (bs : List Byte) : Nat × State :=
  (pieces (bs.length + 1) a bs).foldl (fun x q =>
    (x.1 + 1, emit x.2 { src := nicOf s die, dst := niOf s r.core, cls := 1, op := 6, cid := r.cid, inc := r.inc, slot := r.slot, len := 2,
                         body := pieceBody q.1 q.2 false tok })) (0, s)

/-- A packet whose n words are on their way, under the engine's next number. -/
def placeNote (s : State) (die : Nat) (cid inc : Nat) (p : NicPkt) (req : Option Nat) (n : Nat) : State :=
  updNic s die fun x => { x with placing := x.placing ++ [{ id := x.nextId, cid := cid, inc := inc, pkt := { p with data := [] }, req := req, left := n }], nextId := x.nextId + 1 }

/-- A packet of a SEND for a RECV that its message has matched: placed at its offset. -/
def recvPlace (s : State) (die : Nat) (r : Wrq) (p : NicPkt) : State :=
  let tok := 2 ^ 59 + (nicAt s die).nextId
  let (n, s) := if r.lg then placeBytes s die r.cid r.inc tok (r.buf + p.offset) (wrqPa r) p.data else placeLocal s die r tok (r.buf + p.offset) p.data
  let s := updNic s die fun n => { n with wrqs := n.wrqs.map fun x =>
    if x.id = r.id then { x with match_ := some (p.from_, p.scid, p.peer, p.msgno), total := p.total, placed := x.placed + p.data.length, far := x.far + 1 } else x }
  placeNote s die r.cid r.inc p (some r.id) n

/-- A packet of a WRITE: placed where the key's region and the context's translation allow it, refused elsewhere. -/
def writePlaceAt (s : State) (die : Nat) (p : NicPkt) : State :=
  let inc := ctxInc (ctxOf s p.pid)
  let va := p.rva + p.offset
  if Config.nicRegion p.pid p.rkey va p.data.length = false ∨ va + p.data.length > 2 ^ 57 ∨
     ((List.range p.data.length).all fun i => (xlate? s p.pid (va + i) 1).isSome) = false then nicRefuse s die p
  else
    let (n, s') := placeBytes s die p.pid inc (2 ^ 59 + (nicAt s die).nextId) va (fun a => xlate? s p.pid a 1) p.data
    placeNote s' die p.pid inc p none n

/-- Whether the bytes of a packet are on their way already. -/
def isPlacing (s : State) (die : Nat) (p : NicPkt) : Bool :=
  (nicAt s die).placing.any fun q => decide (q.pkt.from_ = p.from_ ∧ q.pkt.scid = p.scid ∧ q.pkt.peer = p.peer ∧ q.pkt.pid = p.pid ∧ q.pkt.psn = p.psn)

/-- NIC_PACKET_RECEIVE (23 R375, R377; 25 R384, R385): the packet is refused, recognised as a duplicate, matched and placed, or dropped. A RECV
shorter than its SEND ends with NICRMT, as the sender does. -/
def execNicPacketReceive (die : Nat) (p : NicPkt) (s : State) : Out :=
  let id := (qregsOf s die p.pid).nicid
  let x := rxPair s die p
  if !bit id 63 ∨ fld id 23 0 ≠ p.jobid then .next (nicRefuse s die p)
  else if psnLt p.psn x.cum ∨ p.psn ∈ x.got ∨ isPlacing s die p = true then .next (sackSend s die x)
  else if p.kind = 1 then .next (writePlaceAt s die p)
  else if p.msgno ∈ x.bad then .next (nicRefuse s die p)
  else
    let mine := (nicAt s die).wrqs.filter fun r => decide (r.op = 3 ∧ r.cid = p.pid) && incOk s (nicOf s die) r.cid r.inc
    match (mine.find? fun r => decide (r.match_ = some (p.from_, p.scid, p.peer, p.msgno))).orElse fun _ => mine.find? fun r => r.match_.isNone with
    | none => .next s
    | some r =>
      if p.total > r.len ∨ p.offset + p.data.length > r.len then
        .next (nicRefuse (rxPut (wrqEnd s die r 0x71) die { x with bad := x.bad ++ [p.msgno] }) die p)
      else if !r.lg && (coreOf s r.core).sealed_ then .next s
      else .next (recvPlace s die r p)

end Sys2Proof.Machine
end

