-- ==== Sys2Proof/Machine/Engine.lean ====
section
/-! DEFINITION. CMD and CMD.NB, the tile-command stream and its engines (23 R354 to R358, R365 to R367; 12 R236 to R238; 07 R132, R140; 09 R179). -/

namespace Sys2Proof.Machine

/-! ### What CMD clears (07 R132) -/

/-- The fused windows of an activation, which are persistent regions (07 R139). -/
abbrev Wins := List (Nat × Nat × List Nat)

/-- Whether a byte of [a, a + n) lies in a protected range of a slot or of a fused window. -/
def rangeProt (ws : Wins) (t : Slot) (inh : Bool) (a n : Nat) : Bool :=
  if n = 0 then false
  else ((List.range ((a + n - 1) / 256 - a / 256 + 1)).map fun i => max a ((a / 256 + i) * 256)).any fun p =>
    inP t p || (inh && inFrame t p) || ws.any fun w => inWin w p

/-- Whether the destination side of COPY or RED lies outside the core's LM or in a protected range: rows of n bytes with a stride. -/
def destExternal (ws : Wins) (t : Slot) (inh : Bool) (w : Word) (rows stride n : Nat) : Bool :=
  decide (fld w 63 62 ≠ 0) || (List.range rows).any fun i => rangeProt ws t inh (fld w 18 0 + i * stride) n

/-- The reason of CLRBY for which a command placed by the running activation, with its fused windows, clears RESTART, if any: 4 an engine command with external effect, 3 a
protected write. -/
def cmdClears (ws : Wins) (core : Nat) (k : Core) (c : Cmd) : Option Nat :=
  let t := slotOf k (curSlot k)
  let tiles := if k.inh then (k.act.map (·.tiles)).getD 0 else 0
  let zt := fld c.w1 62 60
  if cmdBad core c.w0 then none
  else
    match cmdCode c with
    | 0x01 => if fld c.w1 7 0 &&& tiles ≠ 0 then some 3 else none
    | 0x02 => if tiles / 2 ^ zt % 2 = 1 then some 3 else none
    | 0x03 =>
      if bit c.w2 63 then some 4
      else if (List.range 64).any fun i => rangeProt ws t k.inh (fld c.w2 18 0 + i * fld c.w3 31 0) (128 * zWidth c / 8) then some 3 else none
    | 0x04 => if tiles / 2 ^ zt % 2 = 1 then some 3 else none
    | 0x05 => if tiles ≠ 0 then some 3 else none
    | 0x10 => if destExternal ws t k.inh c.w2 (copyRows c) (fld c.w3 47 32) (8 * copyWords c) then some 4 else none
    | 0x12 => if destExternal ws t k.inh c.w2 1 0 (redBytes c) then some 4 else none
    | 0x31 => none
    | 0x41 => none
    | _ => some 4

/-! ### CMD (23 R354) -/

/-- Word 0 with the sampled fields filled (12 R238). -/
def sampledW0 (k : Core) (w : Word) : Word :=
  let w := setFld w 44 41 k.fifo.length
  let w := setFld w 40 38 (fld k.rmode 2 0)
  let w := setFld w 37 37 (fld k.rmode 8 8)
  setFld w 36 21 (fld k.rmode 31 16)

/-- The command as CMD places it. -/
def newCmd (s : State) (rd : Reg) (ws : List Word) (mirror : Bool) : Cmd :=
  let k := cc s
  let g := fun i => ws.getD i 0
  let (cid, inc, _) := actCtx k
  { w0 := sampledW0 k (g 0), w1 := g 1, w2 := g 2, w3 := g 3, fmta := k.fmta, fmtb := k.fmtb, fmtc := k.fmtc, fmts := k.fmts, seed := fld k.rmode 63 32,
    rd := rd.toNat, tok := k.tok, slot := curSlot k, cid := cid, inc := inc, inh := k.inh, mirror := mirror, at_ := s.now }

/-- What placing a command does to the copy that places it and, but for the FIFO, to the other copy of a paired activation. -/
def afterPlace (k : Core) (rd : Reg) (tok : Nat) (by_ : Option Nat) : Core :=
  let k := sampleStep k
  let k := match by_ with | some b => clearRestart k b | none => k
  advance (pendReg { k with wait := .idle } rd tok)

/-- A command placed in the FIFO. -/
def placeCmd (s : State) (rd : Reg) (ws : List Word) (mirror : Bool) : Out :=
  let k := cc s
  let c := newCmd s rd ws mirror
  let by_ := cmdClears (fusedWins s s.cur) s.cur k c
  let s := setCC s (afterPlace { k with fifo := k.fifo ++ [c], tok := k.tok + 1 } rd c.tok by_)
  .next (match mirror, k.twin with
    | true, some d => updCore s d fun x => afterPlace x rd (twinTok c.tok) by_
    | _, _ => s)

/-- CMD, and CMD.NB with nb. -/
def cmdOp (s : State) (rd ra : Reg) (imm : BitVec 15) (nb : Bool) : Out :=
  let a := rx (cc s) ra + sext imm
  if a.toNat % 32 ≠ 0 then trap s 0x13 (some a)
  else
    guardTrap s (spanFault s a 32 false) <| rowFirst s a.toNat 32 <|
      let (bs, bad) := spanRead s a.toNat 32
      if bad then .next (sealCore s s.cur)
      else if (cc s).fifo.length ≥ 16 then (if nb then writeX s rd 1 else .next s)
      else
        let ws := leWords 4 bs
        if cmdClears (fusedWins s s.cur) s.cur (cc s) (newCmd s rd ws false) = some 4 then pairFirst s ws fun s => placeCmd s rd ws (cc s).twin.isSome
        else placeCmd s rd ws false

def execCmd (rd ra : Reg) (imm : BitVec 15) (s : State) : Out := cmdOp s rd ra imm false
def execCmdNb (rd ra : Reg) (imm : BitVec 15) (s : State) : Out := cmdOp s rd ra imm true

/-! ### Starting (23 R355, R358) -/

/-- The checks of a command behind BADCMD, in the order of R358: 0, or the status. -/
def cmdCheck (s : State) (core : Nat) (c : Cmd) : Nat :=
  match cmdCode c with
  | 0x01 => zclrCheck c
  | 0x02 => zCheck s core c false
  | 0x03 => zCheck s core c true
  | 0x04 => mmaCheck s core c false
  | 0x05 =>
    let st := mmaCheck s core c true
    let gang : Option Gang := ((coreOf s core).act.bind (·.gang)).bind fun gid => s.gangs.find? fun g => decide (g.gid = gid)
    if st ≠ 0 then st else if (gang.any fun g => decide (g.size = 8) && decide (core ∈ g.present)) = true then 0 else 0x6D
  | 0x10 => copyCheck s core c
  | 0x11 => copyMCheck s core c
  | 0x12 => redCheck s core c
  | 0x13 => layNumCheck c
  | 0x14 => if decide (c.w2 ≠ 0) || decide (layNumCheck c ≠ 0) then 0x66 else 0
  | 0x20 => strCheck s core c true
  | 0x21 => strCheck s core c false
  | 0x30 => nicpostCheck s core c
  | 0x31 => niccqCheck s core c
  | 0x40 => collCheck s core c
  | _ => cprobeCheck c

/-- How many element operations a command has. -/
def cmdTotal (c : Cmd) : Nat :=
  match cmdCode c with
  | 0x02 => 64 * 64
  | 0x03 => 64 * zWords c
  | 0x04 => mmaBlocks c
  | 0x05 => mmaBlocks c
  | 0x10 => copyRows c * copyWords c
  | 0x11 => copyMChunks c
  | 0x12 => redTotal c
  | 0x20 => strItems c + b2n (bit c.w1 63)
  | 0x21 => strItems c
  | _ => 1

/-- Commands of cores that hold entries of an engine class. -/
def runsOf (s : State) (eng : Nat) (on : Nat → Bool) : Nat :=
  (s.cores.map fun kv => if on kv.1 then (kv.2.run.filter fun r => decide (cmdEng r.cmd = eng) && !cmdBad kv.1 r.cmd.w0).length else 0).sum

/-- Whether the engine of a command has a free acceptance entry. -/
def engineRoom (s : State) (core : Nat) (c : Cmd) : Bool :=
  match cmdEng c with
  | 0 => decide (runsOf s 0 (fun d => decide (d = core)) < 1)
  | 1 => decide (runsOf s 1 (fun d => isCompute d && decide (rowOf d = rowOf core)) < 32)
  | 2 => decide (runsOf s 2 (fun d => decide (d = core)) < 4)
  | 3 => decide (runsOf s 3 (fun d => decide (dieOf d = dieOf core)) < 256)
  | _ => decide (runsOf s 4 (fun d => decide (dieOf d = dieOf core)) < 64)

/-- Whether the tile-command stream of a core stands blocked behind another command's status (07 R140). -/
def streamHeld (k : Core) (cmd : Option Nat) : Bool := k.blocked.isSome && decide (k.blocked ≠ cmd)

/-- The head of a core's FIFO handed to its engine: the command as started, or none while it must wait. A word that completes with BADCMD needs no
engine and pops nothing; one of an old incarnation is dropped at the engine's admission (03 R61). -/
def startHead (s : State) (core : Nat) : Option State :=
  let k := coreOf s core
  match k.fifo with
  | [] => none
  | c :: rest =>
    let run := fun (s : State) (c : Cmd) (st : Nat) =>
      let gang := if cmdCode c = 0x05 then (coreOf s core).act.bind (·.gang) else none
      let r : RunCmd := { cmd := c, ord := s.opNext, total := cmdTotal c, started := c.at_, gang := if st = 0 then gang else none,
                          result := if st = 0 then none else some (st, 0, 0) }
      updCore { s with opNext := s.opNext + 1 } core fun k => { k with run := k.run ++ [r] }
    let pop := setCore s core { k with fifo := rest }
    if streamHeld k none then none
    else if cmdBad core c.w0 then some (run pop c 0x63)
    else if !engineRoom s core c then none
    else
      let qn := fld c.w0 46 45
      match bit c.w0 48, qreg k qn with
      | true, [] => none
      | q, vs =>
        let c := if q then { c with w1 := vs.headD 0 } else c
        let pop := if q then updCore pop core fun k => popQ k qn else pop
        if q && headBad k qn then some (sealCore s core)
        else if !incOk s (engKnows s core c) c.cid c.inc then some (count pop (dieOf core) 0)
        else some (run pop c (cmdCheck s core c))

/-- COMMAND_START. -/
def execCommandStart (core : Nat) (s : State) : Out := match startHead s core with | some t => .next t | none => .next s

/-! ### Element operations (09 R179) -/

/-- The place of word k of a ZLD or ZST. -/
def zPlace (c : Cmd) (k : Nat) : Place := if bit c.w2 63 then .va (fld c.w2 56 0 + zOff c k) else .lm (fld c.w2 18 0 + zOff c k)

/-- Word k of a ZLD: asked for at its home, and written into the tile, where the error injector may strike the write (04 R74). A poisoned word is an operand
of the slice and seals the core (04 R69, R70). -/
def zldStep (s : State) (core : Nat) (r : RunCmd) (k w : Nat) : State :=
  let c := r.cmd
  match gather s core r k w [zPlace c k] with
  | .some_ s => s
  | .refused => engDone s (engTok core c.tok k) true
  | .fail => endRun s core c.tok 0x26 0
  | .all s ws =>
    let (v, bad) := ws.headD (0, false)
    if bad then sealCore (endRun s core c.tok 0x25 0) core
    else
      let zt := fld c.w1 62 60
      let i := k / 64
      let j := 2 * (k % 64)
      let (hit, s) := inject s (dieOf core) c.cid 5
      engDone (updCore s core fun x =>
        let z := tileSet (tileSet (tileOf x zt) i j (BitVec.ofNat 32 (fld v 31 0))) i (j + 1) (BitVec.ofNat 32 (fld v 63 32))
        setTile x zt (if hit then { z with bad := addTo (128 * i + j) (addTo (128 * i + j + 1) z.bad) } else z)) (engTok core c.tok k) false

/-- Word k of a ZST on its way to its home; a poisoned word of the tile, or one that the error injector strikes, travels poisoned (04 R69, R74). -/
def zstStep (s : State) (core : Nat) (r : RunCmd) (k : Nat) : State :=
  let c := r.cmd
  if k ∈ r.asked then s
  else
    let z := tileOf (coreOf s core) (fld c.w1 62 60)
    let n := 64 / zWidth c
    let at_ := 128 * (k / zWords c) + k % zWords c * n
    let (hit, s1) := inject s (dieOf core) c.cid 5
    match writePlace s1 core c k (zWord c z k) (hit || z.bad.any fun x => decide (at_ ≤ x ∧ x < at_ + n)) false (zPlace c k) with
    | some s => s
    | none => s

/-- Element operation e of a started command: with w = 0 the operation as far as it can go, with w > 0 one word of its operands asked for. -/
def elemStep (s : State) (core : Nat) (r : RunCmd) (e w : Nat) : State :=
  let c := r.cmd
  match cmdCode c with
  | 0x01 => endRun (updCore s core fun x => tilesClear x (fld c.w1 7 0)) core c.tok 0 0
  | 0x02 => zldStep s core r e w
  | 0x03 => zstStep s core r e
  | 0x04 => mmaSStep s core r e w
  | 0x05 => if r.joined && decide (r.prog < e) then fetchAhead s core r e w else s
  | 0x10 => copyStep s core r e
  | 0x11 => copyMStep s core r e w
  | 0x12 => redStep s core r e w
  | 0x13 => layreg s core r w
  | 0x14 => (match laydrop s core c with | some (st, s) => endRun s core c.tok st 0 | none => s)
  | 0x20 => fillStep s core r e
  | 0x21 => drainStep s core r e
  | 0x30 => nicpost s core r w
  | 0x31 => niccq s core c
  | 0x40 => collSend s core r w
  | _ => let (st, v) := cprobe s c; updRun s core c.tok fun r => { r with result := some (st, 0, v) }

/-- Whether an engine works on a command now: the copy engine on the first eight of its row, the affine unit on the first of its core. -/
def atWork (s : State) (core : Nat) (r : RunCmd) : Bool :=
  let before := fun (on : Nat → Bool) =>
    (s.cores.map fun kv => if on kv.1 then (kv.2.run.filter fun x => decide (cmdEng x.cmd = cmdEng r.cmd ∧ x.ord < r.ord) && x.result.isNone).length else 0).sum
  match cmdEng r.cmd with
  | 1 => decide (before (fun d => isCompute d && decide (rowOf d = rowOf core)) < 8)
  | 2 => decide (before (fun d => decide (d = core)) < 1)
  | _ => true

/-- An element operation of a command, where its engine can issue it now: number e + 2^32 w. -/
def tryStep (s : State) (core cmd k : Nat) : State :=
  match (coreOf s core).run.find? fun r => decide (r.cmd.tok = cmd) with
  | none => s
  | some r => if r.result.isSome || (r.stalled && !(isMatrix r.cmd && decide (k % 2 ^ 32 < r.stallAt))) || decide (k % 2 ^ 32 ≥ r.total) || decide (k % 2 ^ 32 ∈ r.done_) || !atWork s core r then s
              else elemStep s core r (k % 2 ^ 32) (k / 2 ^ 32)

/-- ENGINE. -/
def execEngine (core cmd k : Nat) (s : State) : Out := .next (tryStep s core cmd k)

/-! ### Completing (23 R356, 09 R179) -/

/-- Whether a command's element operations apply at homes and are counted there. -/
def byElements (c : Cmd) : Bool :=
  let code := cmdCode c
  decide (code = 0x02 ∨ code = 0x03 ∨ code = 0x10 ∨ code = 0x11 ∨ code = 0x20 ∨ code = 0x21 ∨ code = 0x31 ∨ code = 0x40) || (decide (code = 0x12) && redArr c)

/-- Rows of a ZLD or ZST whose words are all done. -/
def zRows (r : RunCmd) : Nat :=
  let n := if cmdCode r.cmd = 0x02 then 64 else zWords r.cmd
  ((List.range 64).filter fun i => (List.range n).all fun j => decide (i * n + j ∈ r.done_)).length

/-- PROG of a command that ends with a status other than OK. -/
def progOf (r : RunCmd) : Nat :=
  match cmdCode r.cmd with
  | 0x02 => zRows r
  | 0x03 => zRows r
  | 0x04 => r.prog
  | 0x05 => r.prog
  | 0x20 => r.prog / max 1 (fld r.cmd.w3 63 48)
  | 0x21 => r.prog / max 1 (fld r.cmd.w3 63 48)
  | _ => 0

/-- The status, AUX and VALUE of a command that has ended with nothing in flight, if it has. -/
def ended (r : RunCmd) : Option (Nat × Nat × Nat) :=
  if !r.pend.isEmpty || (byElements r.cmd && decide (r.done_.length < r.asked.length)) then none
  else
    match r.result with
    | some x => some x
    | none =>
      if byElements r.cmd && decide (cmdCode r.cmd ≠ 0x40) && decide (r.total ≤ r.done_.length) then
        if r.refused = 0 then some (0, 0, 0)
        else some (0x6A, 0, if cmdCode r.cmd = 0x10 ∨ cmdCode r.cmd = 0x11 then r.refused else 0)
      else none

/-- The status word (23 R356). -/
def finalWord (r : RunCmd) (x : Nat × Nat × Nat) : Word :=
  wd (x.2.2 % 2 ^ 32 * 2 ^ 32 + x.2.1 % 256 * 2 ^ 24 + (if x.1 = 0 then 0 else progOf r % 2 ^ 16) * 2 ^ 8 + x.1)

/-- A status delivered to a core: pushed where asked, and counted at its mailbox; the register is written by its token. -/
def signal (s : State) (core : Nat) (c : Cmd) (st : Nat) (v : Word) : State :=
  let s := if bit c.w0 47 && c.live then updCore s core fun k => setQreg k (fld c.w0 46 45) (qreg k (fld c.w0 46 45) ++ [v]) else s
  if bit c.w0 52 then mbBump s core c.slot (fld c.w0 51 49) (decide (st ≠ 0)) else s

/-- COMMAND_COMPLETE: the status word to rd, to a queue register and to a mailbox counter. A push to a full queue register blocks the stream. -/
def execCommandComplete (core cmd : Nat) (s : State) : Out :=
  let k := coreOf s core
  match k.run.find? fun r => decide (r.cmd.tok = cmd) && !streamHeld k (some cmd) with
  | none => .next s
  | some r =>
    match ended r with
    | none => .next s
    | some x =>
      let c := r.cmd
      if bit c.w0 47 && c.live && decide (4 ≤ (qreg k (fld c.w0 46 45)).length) then .next (setCore s core { k with blocked := some cmd })
      else
        let v := finalWord r x
        let s := setCore s core { k with run := k.run.filter (fun y => !decide (y.cmd.tok = cmd)), blocked := none }
        let s := if c.live then deliver s core cmd v else s
        let s := signal s core c x.1 v
        .next (match c.mirror, k.twin with | true, some d => signal s d c x.1 v | _, _ => s)

/-! ### The tile commands: started from the head of the current core's FIFO, with all of their element operations -/

/-- Every element operation in turn. -/
def runAll (s : State) (core cmd : Nat) : State :=
  match (coreOf s core).run.find? fun r => decide (r.cmd.tok = cmd) with
  | none => s
  | some r => (List.range r.total).foldl (fun s i => tryStep s core cmd i) s

/-- Whether a command is the one with given words, whatever its sampled fields hold. -/
def sameWords (c : Cmd) (w0 w1 w2 w3 : Word) : Bool := decide (setFld c.w0 44 21 0 = setFld w0 44 21 0 ∧ c.w1 = w1 ∧ c.w2 = w2 ∧ c.w3 = w3)

/-- A command with a code and given words, of the current core: at the head of its FIFO it is started and run; one that has been started already goes on with
its element operations, as far as they can go now. -/
def tileCmd (code : Nat) (w0 w1 w2 w3 : Word) (s : State) : Out :=
  let is_ := fun (c : Cmd) => decide (cmdCode c = code) && sameWords c w0 w1 w2 w3
  let going := match (cc s).run.find? fun r => is_ r.cmd && r.result.isNone with
    | some r => runAll s s.cur r.cmd.tok
    | none => s
  match (cc s).fifo with
  | c :: _ =>
    if is_ c then
      match startHead s s.cur with
      | some t => .next (runAll t t.cur c.tok)
      | none => .next going
    else .next going
  | [] => .next going

/-- ZCLR (23 R359). -/
def execZclr (w0 w1 w2 w3 : Word) (s : State) : Out := tileCmd 0x01 w0 w1 w2 w3 s
/-- ZLD (23 R367). -/
def execZld (w0 w1 w2 w3 : Word) (s : State) : Out := tileCmd 0x02 w0 w1 w2 w3 s
/-- ZST (23 R367). -/
def execZst (w0 w1 w2 w3 : Word) (s : State) : Out := tileCmd 0x03 w0 w1 w2 w3 s
/-- MMA.S (23 R360 to R362). -/
def execMmaS (w0 w1 w2 w3 : Word) (s : State) : Out := tileCmd 0x04 w0 w1 w2 w3 s
/-- MMA.G (23 R363, R364): accepted; the gang's join and its steps are MMAG_JOIN and MMAG_STEP. -/
def execMmaG (w0 w1 w2 w3 : Word) (s : State) : Out := tileCmd 0x05 w0 w1 w2 w3 s
/-- COPY (23 R369). -/
def execCopy (w0 w1 w2 w3 : Word) (s : State) : Out := tileCmd 0x10 w0 w1 w2 w3 s
/-- COPY.M (23 R370). -/
def execCopyM (w0 w1 w2 w3 : Word) (s : State) : Out := tileCmd 0x11 w0 w1 w2 w3 s
/-- RED (23 R371). -/
def execRed (w0 w1 w2 w3 : Word) (s : State) : Out := tileCmd 0x12 w0 w1 w2 w3 s
/-- LAYREG (23 R372). -/
def execLayreg (w0 w1 w2 w3 : Word) (s : State) : Out := tileCmd 0x13 w0 w1 w2 w3 s
/-- LAYDROP (23 R372). -/
def execLaydrop (w0 w1 w2 w3 : Word) (s : State) : Out := tileCmd 0x14 w0 w1 w2 w3 s
/-- STRFILL (23 R373). -/
def execStrfill (w0 w1 w2 w3 : Word) (s : State) : Out := tileCmd 0x20 w0 w1 w2 w3 s
/-- STRDRAIN (23 R373). -/
def execStrdrain (w0 w1 w2 w3 : Word) (s : State) : Out := tileCmd 0x21 w0 w1 w2 w3 s
/-- NICPOST (23 R374, R376). -/
def execNicpost (w0 w1 w2 w3 : Word) (s : State) : Out := tileCmd 0x30 w0 w1 w2 w3 s
/-- NICCQ (23 R378). -/
def execNiccq (w0 w1 w2 w3 : Word) (s : State) : Out := tileCmd 0x31 w0 w1 w2 w3 s
/-- COLL (23 R379). -/
def execColl (w0 w1 w2 w3 : Word) (s : State) : Out := tileCmd 0x40 w0 w1 w2 w3 s
/-- CPROBE (23 R380). -/
def execCprobe (w0 w1 w2 w3 : Word) (s : State) : Out := tileCmd 0x41 w0 w1 w2 w3 s

end Sys2Proof.Machine
end

