-- ==== Sys2Proof/Machine/Kill.lean ====
section
/-! DEFINITION. The incarnation broadcast at every agent, its acknowledgements, and the answers to CTX.RECL (03 R61 to R67; 06 R119; 10 R205; 22 R353;
23 R366, R387, R388). -/

namespace Sys2Proof.Machine

/-! ### A core and its NI (03 R63, R67; 10 R205; 22 R353) -/

/-- A stopped activation reported: its kernel's live count falls, and a kernel of another context receives a KILLED record of KIND 0. -/
def stopReport (s : State) (a : Act) (aborts : Nat) (pc : Word) (counted : Bool) : State :=
  let kid := a.msg.hdr.kernel
  let s := match kernelOf s kid with
    | some kn =>
      if kn.cid ≠ a.cid then
        failRec s { cause := 0x47, kind := 0, inc := a.inc, cid := a.cid, aborts := aborts, rank := a.rank, msgid := a.msg.hdr.msgid, subtag := kn.subtag, detail := pc,
                    dest := some kn.cid }
      else s
    | none => s
  if counted then s else report s kid (-1) none

/-- The running activation of a core stopped at once; for a paired one, both copies, as one. -/
def stopAct (s : State) (c : Nat) : State :=
  let (c, s) := unpair s c
  let k := coreOf s c
  match k.act with
  | none => s
  | some a =>
    let s := stopReport (reportSettings s c 0) a k.aborts k.pc k.exited
    let s := leaveGang s c a.gang
    let s := { s with monitors := s.monitors.filter fun m => !decide (m.core = c) }
    updCore (disarm s c) c clearRun

/-- A successor that had not started, stopped. -/
def stopSucc (s : State) (c : Nat) : State :=
  match (coreOf s c).succ with
  | none => s
  | some a =>
    let s := stopReport s a 0 (handlerPc (handlerOf (slotOf (coreOf s c) a.slot) a.handler)) false
    updCore (leaveGang s c a.gang) c fun k => { k with succ := none }

/-- Whether something belongs to an incarnation. -/
def ofInc (cid inc c i : Nat) : Bool := decide (c = cid ∧ i = inc)

/-- Whether a request of a core, or the answer to it, is on its way or held: in a channel, in a migration window or unacknowledged to another chip. -/
def inFlight (s : State) (c tok : Nat) : Bool :=
  let mine := fun (p : Packet) => decide (p.src = niOf s c) && decide (bodyTok p.body = tok)
  let back := fun (p : Packet) => decide (p.dst = niOf s c) && (match p.body with | .rdata t _ _ => t = tok | .amorsp t _ => t = tok | .status t _ => t = tok | .fenceack t _ => t = tok | _ => false)
  (s.chans.any fun h => h.q.any fun p => mine p || back p) || (s.dies.toList.any fun d => d.mig.toList.any fun w => w.held.any mine) ||
  s.e2e.any fun e => e.2.unacked.any (fun u => mine u.pkt) || e.2.waiting.any mine

/-- Entries of a dead incarnation of which nothing is on its way any more leave a core's outstanding table (03 R65, R67). -/
def freeOut (s : State) (c cid old : Nat) : State :=
  updCore s c fun k => { k with out := k.out.filter fun o => !(decide (o.own = (cid, old)) && !inFlight s c o.tok) }

/-- What a core and its NI drop when the broadcast of a context's new incarnation reaches them. -/
def killCore (s : State) (c cid old : Nat) : State :=
  let k := coreOf s c
  let s := if k.act.any fun a => ofInc cid old a.cid a.inc then stopAct s c else s
  let s := if k.succ.any fun a => ofInc cid old a.cid a.inc then stopSucc s c else s
  -- matrix and affine commands stop with no status and no increment (23 R366, R387)
  let s := updCore s c fun k => { k with run := k.run.filter fun r => !(ofInc cid old r.cmd.cid r.cmd.inc && decide (cmdEng r.cmd = 0 ∨ cmdEng r.cmd = 2)) }
  let owns := fun (k : Core) (slot : Nat) => (slotOf k slot).resident.any fun r => ofInc cid old r.cid r.inc
  let s := if (coreOf s c).loop.any fun l => owns k l.slot then updCore s c clearBank else s
  -- forwarding records go silently, holding ones send ORPHAN
  let s := updCore s c fun k => { k with ends := k.ends.filter fun e => !(ofInc cid old e.ocid e.oinc && decide (e.state = 7)) }
  -- what waits in the NI goes; a handle among it has lost its end (10 R204)
  let mine := fun (p : Packet) => ofInc cid old p.cid p.inc && !incExempt p
  let gone := (coreOf s c).transit.filter mine
  let s := updCore s c fun k => { k with transit := k.transit.filter fun p => !mine p }
  let s := gone.foldl (fun s p => markApplied (handleDead (staleAt s c) (niOf s c) p 1) (niOf s c) p.tok 0) s
  let s := ((coreOf s c).ends.filter fun e => ofInc cid old e.ocid e.oinc).foldl (fun s e => killEnd s c e 1) s
  let kids := (s.kernels.filter fun kn => ofInc cid old kn.cid kn.inc).map (·.kid)
  let s := freeOut s c cid old
  let s := updCore s c fun k =>
    { k with gates := k.gates.filter fun g => !decide (g.1 ∈ kids)
             slots := Vector.ofFn fun (i : Fin 4) => let t := k.slots[i.val]; if owns k i.val then { t with mb := Vector.replicate 8 0 } else t }
  pendNow s c

/-! ### The other agents -/

/-- Requests of an incarnation dropped at an RTU: in its queue, walks, fault slots and migration hold (03 R67). -/
def killRtu (s : State) (die n cid old : Nat) : State :=
  let r := rtuAt s die n
  let mine := fun (q : XReq) => ofInc cid old q.cid q.inc
  let gone := (r.queue ++ r.walkers.flatMap (·.reqs) ++ r.fslots.flatMap (·.reqs) ++ r.mig).filter mine
  let keep := fun (l : List XReq) => l.filter fun q => !mine q
  let s := updRtu s die n fun r =>
    { r with queue := keep r.queue, mig := keep r.mig
             walkers := (r.walkers.map fun w => { w with reqs := keep w.reqs }).filter fun w => !w.reqs.isEmpty
             fslots := (r.fslots.map fun f => { f with reqs := keep f.reqs }).filter fun f => !f.reqs.isEmpty }
  let s := gone.foldl (fun s q => updCore s q.core fun k =>
    { k with unack := k.unack.filter fun u => !decide (u.tok = q.tok), out := k.out.filter fun o => !decide (o.tok = q.tok ∧ o.kind = .stg) }) s
  syncHolds (gone.foldl (fun s _ => count s die 0) s) gone

/-- Requests held at a slice by a migration window, dropped (03 R67). -/
def killSlice (s : State) (a cid old : Nat) : State :=
  (List.range 4).foldl (fun s n =>
    let w := migOf s (agDie a) n
    let gone := w.held.filter fun p => ofInc cid old p.cid p.inc && decide (p.dst = a)
    let s := if gone = [] then s else setMig s (agDie a) n { w with held := w.held.filter fun p => !(ofInc cid old p.cid p.inc && decide (p.dst = a)) }
    gone.foldl staleDrop s) s

/-- Started commands of an incarnation removed at the engine that runs them, and combining rounds with them (23 R387). -/
def killRuns (s : State) (on : Nat → Bool) (eng cid old : Nat) : State :=
  { s with cores := s.cores.map fun kv =>
      if on kv.1 then (kv.1, { kv.2 with run := kv.2.run.filter fun r => !(ofInc cid old r.cmd.cid r.cmd.inc && decide (cmdEng r.cmd = eng)) }) else kv }

/-- The dispatcher of a die: tasks, spawns, cursors and stake slots of the incarnation (06 R119). -/
def killDisp (s : State) (die cid old : Nat) : State :=
  let kids := (s.kernels.filter fun kn => ofInc cid old kn.cid kn.inc).map (·.kid)
  let mine := (dieAt s die).disp.window.filter fun t => ofInc cid old t.cid t.inc
  let ages := mine.map (·.age)
  let slots := mine.filterMap fun t => t.key.map fun k => k.2.2.2
  updDisp s die fun d =>
    { d with window := d.window.filter fun t => !ofInc cid old t.cid t.inc, spawnq := d.spawnq.filter fun w => !ofInc cid old w.cid w.inc
             cursors := d.cursors.filter fun x => !decide (x.kernel ∈ kids), stakes := d.stakes.filter fun a => !decide (a ∈ slots)
             ended := d.ended.filter fun e => !decide (e.age ∈ ages) }

/-- A slice's lock engine: hold words granted and stakes of the incarnation, and requests that wait; its registrations end once every engine of the
package has let go of them (06 R119). -/
def killLocks (s : State) (die sl cid old : Nat) : State :=
  let mine := s.adjs.filter fun a => ofInc cid old a.cid a.inc
  let here := fun (h : HoldW) => match mine.find? fun a => decide (a.num = h.reg) with | some a => decide ((ownerAt s a h.elem).2 = die ∧ holdSlice s a h.elem = sl) | none => false
  let last := (List.range 128).all fun i => decide (i = 64 * die + sl) || (mget s.incLag (lockOf s (i / 64) (i % 64) % 65536 * 4096 + cid)).isNone
  let s := { s with holds := s.holds.filter fun h => !(decide (h.cid = cid) && here h)
                    adjs := if last then s.adjs.filter fun a => !ofInc cid old a.cid a.inc else s.adjs }
  updDisp s die fun d => { d with waiters := d.waiters.filter fun r => !(ofInc cid old r.cid r.inc && decide (r.eng = sl)) }

/-- The scheduler of a die: kernels of the incarnation are KILLED, submissions of a window go on in the new incarnation, and KSUBs are dropped (03 R63,
R67). -/
def killSched (s : State) (die cid old new : Nat) : State :=
  let mine := s.kernels.filter fun kn => ofInc cid old kn.cid kn.inc && decide (kn.die = die ∧ kn.state ≤ 2 ∧ kernelChip kn.kid = s.chip)
  let s := mine.foldl (fun s kn => rampDown (updKernel (freeEntry s kn) kn.kid fun k => { k with state := 5, gates := [] }) kn.kid) s
  let s := { s with kernels := s.kernels.map fun (kn : Kernel) => if ofInc cid old kn.cid kn.inc && decide (kernelChip kn.kid ≠ s.chip) then { kn with state := max 2 kn.state, gates := [], todo := [] } else kn }
  { s with subs := s.subs.filterMap fun q =>
      if ofInc cid old q.cid q.inc && decide (q.die = die) then (if q.ans.isNone then some { q with inc := new } else none) else some q }

/-- The overflow store of a die: what it holds of the incarnation is dropped and counted; after a failed restore each message is first reported with
RESTORE (04 R73, 05 R99). Staged contributions go too. -/
def killStore (s : State) (die cid old : Nat) (restore : Bool) : State :=
  let s := ((dieAt s die).ov.filter fun o => decide (o.cid = cid)).foldl (fun s o =>
    let mine := fun (p : Packet) => ofInc cid old p.cid p.inc && !incExempt p
    let s := setOv s die { o with items := o.items.filter fun x => !mine x.1, trapped := o.trapped && o.items.any fun x => !mine x.1 && decide (x.1.cls = 2) }
    (o.items.filter fun x => mine x.1).foldl (fun s x =>
      let s := handleDead (ovFree s die cid x.1) (storeOf s die) x.1 1
      let s := if restore && decide (x.1.cls = 2) then failMsg s 0x49 cid old o.rank 0 (hdrOf x.1.body) else s
      count s die 0) s) s
  let s := updDie s die fun d => { d with redIn := d.redIn.filter fun x => !ofInc cid old x.1 x.2.1 }
  ((dieAt s die).reds.filter fun g => ofInc cid old g.cid g.inc && g.left.isNone).foldl (fun s g => redDrop (redFree s die g) die g) s

/-- The fabric agent of a die: COLL and CPROBE, the rounds, the layouts, and what the switches have buffered of the incarnation's groups (02 R47, 23 R372,
R387). -/
def killFabric (s : State) (die cid old : Nat) : State :=
  let s := killRuns s (fun c => decide (dieOf c = die)) 4 cid old
  let s := updDie s die fun d => { d with rounds := d.rounds.filter fun r => !ofInc cid old r.cid r.inc, layouts := d.layouts.filter fun l => !ofInc cid old l.cid l.inc }
  let own := fun (p : Packet) => match p.body with | .contrib c => ofInc cid old c.cid c.inc | _ => false
  { s with switches := s.switches.map (fun w => (w.1, { w.2 with groups := w.2.groups.filter fun g => !ofInc cid old g.c.cid g.c.inc }))
           wire := s.wire.filter fun p => !own p }

/-- The NIC engine of a die: every work request and completion entry of the incarnation (23 R388). -/
def killNic (s : State) (die cid old : Nat) : State :=
  let s := killRuns s (fun c => decide (dieOf c = die)) 3 cid old
  updNic s die fun n => { n with wrqs := n.wrqs.filter fun r => !ofInc cid old r.cid r.inc, placing := n.placing.filter fun r => !ofInc cid old r.cid r.inc, cq := n.cq.filter fun e => !ofInc cid old e.cid e.inc }

/-- What an agent of the package does when the broadcast reaches it. -/
def applyKill (s : State) (a cid old new : Nat) (restore : Bool) : State :=
  let die := agDie a
  match agKind a with
  | 1 => killSlice s a cid old
  | 3 => killRuns s (fun c => isCompute c && decide (dieOf c = die ∧ agentOf c / 8 = agIdx a)) 1 cid old
  | 4 => killNic s die cid old
  | 6 => if agIdx a = 0 then killDisp s die cid old else killLocks s die (agIdx a - 1) cid old
  | 7 =>
    match agIdx a with
    | 0 => killFabric s die cid old
    | 1 => s
    | 2 => s
    | 3 => killSched s die cid old new
    | 4 => killStore s die cid old restore
    | n => if n < 1024 then killRtu s die (n - 256) cid old else s
  | _ => killCore s (agCore a) cid old

/-- INCARNATION_BROADCAST (03 R62, R63): it reaches an agent, which applies the new incarnation and owes its acknowledgement. -/
def execIncarnationBroadcast (agent cid inc : Nat) (s : State) : Out :=
  match s.ops.find? fun o => decide (o.kind = 0 ∧ o.cid = cid ∧ agent ∈ o.todo) && decide (ctxInc (ctxOf s cid) = inc) with
  | none => .next s
  | some o =>
    let s := { s with incLag := mdel s.incLag (agent % 65536 * 4096 + cid) }
    let s := applyKill s agent cid o.sample inc (decide (o.arg2 = 1))
    .next (updOp s o.tok fun x => { x with todo := x.todo.erase agent, back := x.back ++ [agent] })

/-- KILL_ACK_RECEIVE (03 R62): an agent's acknowledgement reaches the home table; with the last of them the kill is done. -/
def execKillAckReceive (agent cid : Nat) (s : State) : Out :=
  match s.ops.find? fun o => decide (o.kind = 0 ∧ o.cid = cid ∧ agent ∈ o.back) with
  | none => .next s
  | some o => .next (opSettle (updOp s o.tok fun x => { x with back := x.back.erase agent, left := x.left.erase agent }) o.tok)

/-! ### CTX.RECL (03 R65) -/

/-- Whether an incarnation of the context lies in the set that a reclaim asks about. -/
def inOld (o : Op) (cid inc : Nat) : Bool :=
  let d := (o.sample + 4096 - inc % 4096) % 4096
  decide (cid = o.cid) && decide (1 ≤ d) && decide (d ≤ o.u)

/-- Whether a channel to or from an agent holds a packet of the set. -/
def chanHolds (s : State) (o : Op) (on : Chan → Bool) : Bool := s.chans.any fun h => on h && h.q.any fun p => inOld o p.cid p.inc

/-- Whether an engine's commands of the set stand. -/
def runHolds (s : State) (o : Op) (on : Nat → Bool) (eng : Nat → Bool) : Bool :=
  s.cores.any fun kv => on kv.1 && kv.2.run.any fun r => inOld o r.cmd.cid r.cmd.inc && eng (cmdEng r.cmd)

/-- Whether a core's NI holds anything of the set. -/
def coreHolds (s : State) (o : Op) (c : Nat) : Bool :=
  let k := coreOf s c
  (k.out.any fun x => inOld o x.own.1 x.own.2) || (k.unack.any fun x => inOld o x.own.1 x.own.2) || (k.ends.any fun e => inOld o e.ocid e.oinc) ||
  (k.transit.any fun p => inOld o p.cid p.inc) || (k.slots.toList.any fun t => t.queues.toList.any fun q => q.msgs.any fun m => inOld o m.cid m.inc) ||
  (k.act.any fun a => inOld o a.cid a.inc) || runHolds s o (fun d => decide (d = c)) fun e => decide (e = 0 ∨ e = 2)

/-- Whether an agent of the package holds an outstanding request, response, held item, parked message or end record of the set. -/
def agentHolds (s : State) (o : Op) (a : Nat) : Bool :=
  let die := agDie a
  let d := dieAt s die
  let own := match agKind a with
    | 1 => d.mig.toList.any fun w => w.held.any fun p => inOld o p.cid p.inc && decide (p.dst = a)
    | 3 => runHolds s o (fun c => isCompute c && decide (dieOf c = die ∧ agentOf c / 8 = agIdx a)) (fun e => decide (e = 1)) || (s.mouts.any fun m => inOld o m.cid m.inc && decide (m.src = a))
    | 4 => (d.nic.wrqs.any fun r => inOld o r.cid r.inc) || d.nic.placing.any fun r => inOld o r.cid r.inc
    | 6 =>
      if agIdx a = 0 then (d.disp.window.any fun t => inOld o t.cid t.inc) || (d.disp.spawnq.any fun t => inOld o t.cid t.inc) || s.adjs.any fun x => inOld o x.cid x.inc
      else d.disp.waiters.any fun r => inOld o r.cid r.inc && decide (r.eng = agIdx a - 1)
    | 7 =>
      match agIdx a with
      | 0 =>
        runHolds s o (fun c => decide (dieOf c = die)) (fun e => decide (e = 4)) || (d.rounds.any fun r => inOld o r.cid r.inc) ||
        (s.egress.any fun p => inOld o p.cid p.inc) || (s.e2e.any fun e => e.2.unacked.any (fun u => inOld o u.pkt.cid u.pkt.inc) || e.2.waiting.any (fun p => inOld o p.cid p.inc) || e.2.rxHeld.any fun p => inOld o p.2.cid p.2.inc)
      | 1 => false
      | 2 => false
      | 3 => s.subs.any fun q => inOld o q.cid q.inc && decide (q.die = die)
      | 4 => (d.ov.any fun l => l.items.any fun x => inOld o x.1.cid x.1.inc) || (d.reds.any fun g => inOld o g.cid g.inc) || d.redIn.any fun x => inOld o x.1 x.2.1
      | n =>
        let r := rtuAt s die (n - 256)
        (r.queue ++ r.walkers.flatMap (·.reqs) ++ r.fslots.flatMap (·.reqs) ++ r.mig).any fun q => inOld o q.cid q.inc
    | _ => coreHolds s o (agCore a)
  own || chanHolds s o fun h => decide (h.dst = a) || (decide (h.src = a) && decide (agKind a = 3 ∨ agKind a = 4))

/-- RECL_QUERY (03 R65): the query reaches an agent. -/
def execReclQuery (agent cid : Nat) (s : State) : Out :=
  match s.ops.find? fun o => decide (o.kind = 1 ∧ o.cid = cid ∧ agent ∈ o.todo) with
  | none => .next s
  | some o => .next (updOp s o.tok fun x => { x with todo := x.todo.erase agent })

/-- RECL_ANSWER (03 R65): the agent holds nothing of OLD any more, and answers. -/
def execReclAnswer (agent cid : Nat) (s : State) : Out :=
  match s.ops.find? fun o => decide (o.kind = 1 ∧ o.cid = cid ∧ agent ∈ o.left ∧ agent ∉ o.todo ∧ agent ∉ o.back ∧ agent < 2 ^ 30) with
  | none => .next s
  | some o =>
    if agentHolds s o (s.chip * 65536 + agent % 65536) then .next s else .next (updOp s o.tok fun x => { x with back := x.back ++ [agent] })

/-- RECL_ANSWER_RECEIVE (03 R65): an answer is in; with the last one the table is brought up to date. -/
def execReclAnswerReceive (agent cid : Nat) (s : State) : Out :=
  match s.ops.find? fun o => decide (o.kind = 1 ∧ o.cid = cid ∧ agent ∈ o.back) with
  | none => .next s
  | some o => .next (opSettle (updOp s o.tok fun x => { x with back := x.back.erase agent, left := x.left.erase agent }) o.tok)

end Sys2Proof.Machine
end

