-- ==== Sys2Proof/Machine/Xlat.lean ====
section
/-! DEFINITION. The steps of the row translation units, fault resolution, invalidation and migration windows (08 R155 to R166; 15 R279). -/

namespace Sys2Proof.Machine

/-! ### Requests and walks (08 R155 to R158) -/

/-- TRANSLATION_REQUEST: the first request of the queue that nothing of its source and class holds back is served. -/
def execTranslationRequest (die rtu : Nat) (s : State) : Out :=
  let r := rtuAt s die rtu
  match nextReq r r.queue [] with
  | none => .next s
  | some (q, rest) =>
    match serveReq (updRtu s die rtu fun r => { r with queue := rest }) die rtu q with
    | some s => .next s
    | none => .next s

/-- WALK_STEP: walker i reads one stage-1 level. -/
def execWalkStep (die rtu i : Nat) (s : State) : Out := .next (walkerStep s die rtu i)

/-- FSTO in cycles: 100 ms. -/
def fsto : Nat := 160000000

/-- FSTO_EXPIRE (08 R160): a report that nothing has resolved for 100 ms fails its request. -/
def execFstoExpire (die rtu idx : Nat) (s : State) : Out :=
  match (rtuAt s die rtu).fslots.find? fun f => decide (f.idx = idx) with
  | none => .next s
  | some f => if s.now - f.since ≥ fsto then .next (resolveSlot s die rtu f true) else .next s

/-! ### FRES and S2RES (08 R160, R161) -/

/-- A write whose ACT field is RETRY. -/
def execFresRetry (die cid : Nat) (v : Word) (s : State) : Out := if fld v 63 62 = 1 then .next (resWrite s die (some cid) v) else .next s
/-- A write whose ACT field is FAIL. -/
def execFresFail (die cid : Nat) (v : Word) (s : State) : Out := if fld v 63 62 = 2 then .next (resWrite s die (some cid) v) else .next s
def execS2resRetry (die : Nat) (v : Word) (s : State) : Out := if fld v 63 62 = 1 then .next (resWrite s die none v) else .next s
def execS2resFail (die : Nat) (v : Word) (s : State) : Out := if fld v 63 62 = 2 then .next (resWrite s die none v) else .next s

/-! ### TLBINV (08 R162; 15 R279) -/

def invStage2 (o : Op) : Bool := decide (fldN o.arg2 62 62 = 1)
def invDrain (o : Op) : Bool := decide (fldN o.arg2 63 63 = 1)
def invPart (o : Op) : Nat := fldN o.arg2 47 42

/-- Whether [a, a + n) overlaps the range of an invalidation. -/
def invHits (o : Op) (a n : Nat) : Bool :=
  let pages := fldN o.arg2 31 0
  decide (pages = 0) || (decide (a < o.arg + pages * 2 ^ 15) && decide (o.arg < a + n))

/-- Whether a context is the one, or in the partition, that an invalidation names. -/
def invCtx (s : State) (o : Op) (cid : Nat) : Bool := if invStage2 o then decide (ctxPart (ctxOf s cid) = invPart o) else decide (cid = o.cid)

def tlbGone (o : Op) (e : TlbE) : Bool :=
  if invStage2 o then decide (e.pid = invPart o) && invHits o e.part e.size else decide (e.cid = o.cid) && invHits o e.va e.size

def wcGone (o : Op) (e : WcE) : Bool :=
  if invStage2 o then decide (e.pid = invPart o) && invHits o (if e.lvl = 0 then e.pre else e.node) (2 ^ 13)
  else if e.lvl = 0 then false
  else decide (e.cid = o.cid) && invHits o (e.pre * 2 ^ lvlShift (e.lvl - 1)) (2 ^ lvlShift (e.lvl - 1))

/-- The requests translated through entries that an invalidation removes and not yet acknowledged by their homes: core and token; one that the RTU has
granted and that has not yet issued is among them. A stage-2 range is
no range of virtual addresses, so every request of the partition counts. -/
def invAwaits (s : State) (die rtu : Nat) (o : Op) : List (Nat × Nat) :=
  let hit := fun (g : Nat) => decide (g < 2 ^ 63) && (invStage2 o || invHits o g 1)
  (s.cores.filter fun kv => decide (dieOf kv.1 = die ∧ rtuOf kv.1 = rtu)).flatMap fun kv =>
    let k := kv.2
    ((k.out.filter fun x => invCtx s o x.own.1 && hit x.g && decide (x.kind ≠ .marker) && decide (x.kind ≠ .answer)).map fun x => (kv.1, x.tok)) ++
    ((k.unack.filter fun u => invCtx s o u.own.1 && hit u.g && decide (u.w ≠ 0) && decide (u.target ≠ 0)).map fun u => (kv.1, u.tok)) ++
    (match k.wait, k.grant with
      | .xlOk .., some (t, va) => if invCtx s o (actCtx k).1 && (invStage2 o || invHits o va 1) then [(kv.1, t)] else []
      | _, _ => []) ++
    (k.run.flatMap fun r => if invCtx s o r.cmd.cid then ((r.asked.filter fun i => !decide (i ∈ r.done_)) ++ r.pend).map fun i => (kv.1, engTok kv.1 r.cmd.tok i) else [])

/-- Whether a request still waits for its home. -/
def stillAwaited (s : State) (x : Nat × Nat) : Bool :=
  let k := coreOf s x.1
  if isEng x.2 then
    let (_, cmd, i) := engOf x.2
    k.run.any fun r => decide (r.cmd.tok = cmd) && (decide (i ∈ r.asked ∧ i ∉ r.done_) || decide (i ∈ r.pend))
  else (match k.wait, k.grant with | .xlOk .., some (t, _) => decide (t = x.2) | _, _ => false) || (k.out.any fun o => decide (o.tok = x.2)) || k.unack.any fun u => decide (u.tok = x.2) && !u.applied

/-- TLBINV_ARRIVE: entries that overlap the range go, walks that may have read one start again, and requests held for MIG walk again in arrival
order. -/
def execTlbinvArrive (die rtu op : Nat) (s : State) : Out :=
  match s.ops.find? fun o => decide (o.tok = op ∧ o.kind = 2 ∧ die * 128 + rtu ∈ o.todo) with
  | none => .next s
  | some o =>
    let await := if invDrain o then invAwaits s die rtu o else []
    let r := rtuAt s die rtu
    let mine := fun (q : XReq) => invCtx s o q.cid && (invStage2 o || invHits o q.va 1)
    let back := r.mig.filter mine
    let s := (back.filter fun q => decide (q.cls = 9)).foldl (fun s q => unstall s q false) s
    let s := updRtu s die rtu fun r =>
      { r with tlb := r.tlb.filter fun e => !tlbGone o e, wcache := r.wcache.filter fun e => !wcGone o e
               walkers := r.walkers.map fun w => if invCtx s o w.cid then { w with lvl := 1, node := s1root s w.cid, held := false, moved := [] } else w
               mig := r.mig.filter fun q => !mine q, queue := (back.filter fun q => !decide (q.cls = 9)) ++ r.queue
               invs := r.invs ++ [(op, await)] }
    .next (syncHolds (updOp s op fun x => { x with todo := x.todo.erase (die * 128 + rtu) }) back)

/-- TLBINV_ACK: once what DRAIN waits for has been acknowledged. -/
def execTlbinvAck (die rtu op : Nat) (s : State) : Out :=
  match (rtuAt s die rtu).invs.find? fun x => decide (x.1 = op) with
  | none => .next s
  | some x =>
    if x.2.any fun y => stillAwaited s y then .next s
    else .next (updOp (updRtu s die rtu fun r => { r with invs := r.invs.erase x }) op fun o => { o with back := o.back ++ [die * 128 + rtu] })

/-- TLBINV_ACK_RECEIVE: the issuer counts an acknowledgement; a die number from 2 on stands for another chip, die - 2, which has answered for all of
its units. -/
def execTlbinvAckReceive (die rtu op : Nat) (s : State) : Out :=
  let who := if die < 2 then die * 128 + rtu else chipCode (die - 2)
  match s.ops.find? fun o => decide (o.tok = op ∧ o.kind = 2 ∧ who ∈ o.back) with
  | none => .next s
  | some o => .next (opSettle (updOp s o.tok fun x => { x with back := x.back.erase who, left := x.left.erase who }) o.tok)

/-! ### Migration windows (08 R163) -/

/-- A write of HOLD to MIGWIN0 of window n. -/
def execMigwinHold (die n : Nat) (v : Word) (s : State) : Out := if fld v 63 62 = 1 then .next (migWrite0 s die n v) else .next s
/-- RELEASE: the held requests leave for the new page. -/
def execMigwinRelease (die n : Nat) (s : State) : Out := .next (migWrite0 s die n (setFld (migOf s die n).w0 63 62 2))
/-- CLOSED written. -/
def execMigwinClose (die n : Nat) (s : State) : Out := .next (migWrite0 s die n (setFld (migOf s die n).w0 63 62 0))

end Sys2Proof.Machine
end

