-- ==== Sys2Proof/Machine/Manage.lean ====
section
/-! DEFINITION. Boot, attestation, the device registers as firmware and the host write them, failure records, threshold units, rebuilding of a sealed
core's residents, in-field test, power and energy (03 R49 to R60; 04 R70 to R83; 07 R135, R136). -/

namespace Sys2Proof.Machine

/-! ### Boot (03 R56 to R59; 04 R81) -/

/-- The device root secret and the keys that the boot ROM derives (03 R58, R59): 1 the floor's code, 2 the identity key, 3 attestation. -/
def rootSecret (s : State) : List Byte := Config.kdf s.flash.puf 0
def floorKey (s : State) : List Byte := Config.kdf (rootSecret s) 1
def identityKey (s : State) : List Byte := Config.kdf (rootSecret s) 2
def deviceId (s : State) : List Byte := Config.sm3 (Config.sm2Public (identityKey s))

/-- The floor: lowest firmware version, then lowest configuration SERIAL, four bytes each (log 6). -/
def floorFw (s : State) : Nat := leNat (s.flash.floor.take 4)
def floorSerial (s : State) : Nat := leNat ((s.flash.floor.drop 4).take 4)

/-- The ownership record: the owner's public key and DEVID (03 R58; log 6). -/
def ownerKey (s : State) : List Byte := s.flash.owner.take 64
def ownerDevid (s : State) : List Byte := (s.flash.owner.drop 64).take 32

/-- A field of n bytes of a configuration record. -/
def cfgField (r : List Byte) (at_ n : Nat) : Nat := leNat ((r.drop at_).take n)
def cfgSerial (r : List Byte) : Nat := cfgField r 4 4
def cfgChip (r : List Byte) : Nat := cfgField r 40 2
def cfgParts (r : List Byte) : Nat := cfgField r 66 1

/-- Whether a copy of the configuration record can be applied (03 R56). -/
def cfgOk (s : State) (r : List Byte) : Bool :=
  let n := 67 + 32 * cfgParts r
  decide (r.length = n + 64) && decide (cfgField r 0 4 = 0x4E434647) && decide ((r.drop 8).take 32 = deviceId s) && decide (cfgParts r ≤ 40) && decide (cfgChip r < 1024) &&
  decide (floorSerial s ≤ cfgSerial r) && !decide (cfgChip r ∈ s.flash.usedChips) && Config.sm2Verify (ownerKey s) (Config.sm3 (r.take n)) (r.drop n)

/-- A partition of a configuration record. -/
def cfgPart (s : State) (r : List Byte) (i : Nat) : Part :=
  let b := 67 + 32 * i
  let f := cfgField r (b + 13) 1
  { pairs := cfgField r b 8, cidFirst := cfgField r (b + 8) 2, cidCount := cfgField r (b + 10) 2, pmax := cfgField r (b + 12) 1, test := decide (f % 2 = 1),
    shared := decide (f / 2 % 2 = 1), weight := cfgField r (b + 14) 1, ovMiB := cfgField r (b + 15) 4, s2root := (mgetD s.parts i {}).s2root }

/-- The record that boot applies and its code in BOOTSTAT.CFG: the qualifying copy with the higher SERIAL. DESIGN CHOICE: of two qualifying copies with one
SERIAL, which 03 R56 does not order, A (log 6). -/
def cfgPick (s : State) : Option (List Byte × Nat) :=
  let a := s.flash.cfgA
  let b := s.flash.cfgB
  match cfgOk s a, cfgOk s b with
  | true, true => if cfgSerial a < cfgSerial b then some (b, 1) else some (a, 0)
  | true, false => some (a, 0)
  | false, true => some (b, 1)
  | false, false => none

/-- A row retired: powered off, its ports fenced (03 R56). -/
def retireRow (s : State) (row : Nat) : State :=
  updDie s (row / 64) fun d => { d with rows := mupd d.rows row {} fun r => { r with powered := false, fenced := true } }

/-- A configuration record applied. -/
def cfgApply (s : State) (r : List Byte) : State :=
  let per := cfgField r 58 4
  let hold := cfgField r 62 4
  let gone := setBits 128 0 (cfgField r 42 16)
  { gone.foldl retireRow s with
           chip := cfgChip r, retired := gone, testper := if per = 0 then 86400 else max 3600 per
           holdMiB := if hold = 0 then 4096 else min 65536 hold, parts := (List.range (cfgParts r)).map fun i => (i, cfgPart s r i) }

/-- The floor raised to what was applied where its signed records ask for it; it never falls. -/
def raiseFloor (s : State) (cfg : Option (List Byte)) : State :=
  let fw := if Config.floorRequest s.flash.fw then max (floorFw s) s.flash.fwVersion else floorFw s
  let ser := match cfg with | some r => if Config.floorRequest r then max (floorSerial s) (cfgSerial r) else floorSerial s | none => floorSerial s
  let f := leBytes 4 fw ++ leBytes 4 ser
  { s with flash := { s.flash with floor := f, floorMac := Config.tagOf (floorKey s) f } }

/-- What boot measures and derives (03 R59): the digests of the ROM, the image and the record applied, the attestation key, and its certificate. -/
def measure (s : State) (cfg : List Byte) : BootReg :=
  let digests := Config.sm3 Config.bootRom ++ Config.sm3 s.flash.fw ++ Config.sm3 cfg
  let priv := Config.kdf (rootSecret s ++ digests) 3
  { s.boot with digests := digests, attPriv := priv, attCert := Config.sm2Sign (identityKey s) (Config.sm3 (Config.sm2Public priv ++ digests)),
                fwVersion := s.flash.fwVersion }

/-- BOOT (03 R58): the boot ROM's steps in order; a failure at step 2, 3 or 4 halts the package. DESIGN CHOICE: the image's version stands in a field of
flash beside the signed bytes, since the spec does not say where the image holds it; the signature does not cover it here (log 6). -/
def execBoot (s : State) : Out :=
  if s.boot.state ≠ 0 then .next s
  else
    let s := { s with boot := { s.boot with count := (s.boot.count + 1) % 2 ^ 32 } }
    let halt := fun (step : Nat) => Host.Outcome.next { s with boot := { s.boot with failstep := step, state := 2 } }
    if s.flash.floorMac ≠ Config.tagOf (floorKey s) s.flash.floor then halt 2
    else if Config.sm2Verify Config.nerralKey (Config.sm3 s.flash.fw) s.flash.fwSig = false ∨ s.flash.fwVersion < floorFw s then halt 3
    else if Config.sm2Verify Config.nerralKey (Config.sm3 s.flash.owner) s.flash.ownerSig = false ∨ ownerDevid s ≠ deviceId s then halt 4
    else
      match cfgPick s with
      | some (r, code) => .next (raiseFloor { cfgApply s r with boot := { measure s r with failstep := 0, cfg := code, state := 1 } } (some r))
      | none => .next (raiseFloor { s with boot := { measure s [] with failstep := 0, cfg := 2, state := 3 } } none)

/-- ATTESTATION_REQUEST (03 R59): the report to the maintenance interface, of what boot measured; how its 8-byte fields pack is not stated (log 6). -/
def execAttestationRequest (nonce : List Byte) (s : State) : Out :=
  if nonce.length ≠ 32 ∨ (s.boot.state ≠ 1 ∧ s.boot.state ≠ 3) then .next s
  else
    let tests := (s.parts.map fun p => if p.2.test then 2 ^ p.1 else 0).sum
    let body := nonce ++ s.boot.digests ++ leBytes 4 Config.stepping ++ leBytes 4 s.boot.fwVersion ++ leBytes 2 s.chip ++ leBytes 6 tests ++
      Config.sm2Public s.boot.attPriv ++ s.boot.attCert
    .next { s with reportsOut := s.reportsOut ++ [body ++ Config.sm2Sign s.boot.attPriv body] }

/-! ### Registers as the host and the firmware reach them (03 R50 to R53, R60; 04 R80 to R83) -/

/-- A read of n bytes of a register by the host or the maintenance interface. -/
def hostRead (s : State) (die off n : Nat) : State :=
  let (v, s) := regRead s die off n
  { s with hostOut := s.hostOut ++ [v] }

/-- WSTAT_READ (03 R52): the host reads WSTAT; REJ clears. -/
def execWstatRead (die cid : Nat) (s : State) : Out :=
  .next (hostRead s die (2 ^ 32 + cid * 0x1000 + 0x800) 8)

/-- WINDOW_SUBMISSION (03 R53): a write of some bytes at an offset of a window's submission area. -/
def execWindowSubmission (die cid off : Nat) (data : List Byte) (s : State) : Out := if off < 0x800 then .next (submit s die cid off data) else .next s

/-- A write of a context table entry: its RW fields; the entry's valid bit in the incarnation tables follows STATE (03 R60, R61); the SID counter restarts when
a FREE entry becomes LIVE (10 R187). -/
def ctxWrite (s : State) (cid w : Nat) (v : Word) : State :=
  match w with
  | 0 =>
    let rw : Word := 0xFFE0000000FF0000
    let old := ctxOf s cid
    let s := updCtx s cid fun x =>
      let y := { x with w0 := (x.w0 &&& ~~~rw) ||| (v &&& rw) }
      if ctxFree x && decide (ctxState y = 1) then { y with sidNext := 0 } else y
    let s := if ctxFree old && decide (ctxState (ctxOf s cid) = 1) then { s with lostEnds := s.lostEnds.filter fun k => !decide (k.1 = cid) } else s
    let x := ctxOf s cid
    let set := fun (s : State) (d : Nat) => updDie s d fun y => { y with incTab := if ctxFree x then mdel y.incTab cid else mput y.incTab cid (ctxInc x) }
    set (set s 0) 1
  | 1 => updCtx s cid fun x => { x with w1 := wd (fld v 55 13 * 2 ^ 13) }
  | _ => updCtx s cid fun x => { x with home := v.toNat % 2 }

/-- A chip entered in a span list, at its next free position or in place of the one at a position (03 R64). -/
def spanWrite (s : State) (n i chip : Nat) : State :=
  { s with spans := mupd s.spans n [] fun l => if i < l.length then l.set i chip else if i = l.length ∧ i < 64 then l ++ [chip] else l }

/-- A byte of package flash, as manufacture or a replacement in the field leaves it (03 R56). -/
def flashWrite (s : State) (which i : Nat) (v : Word) : State :=
  let put := fun (l : List Byte) => let b := BitVec.ofNat 8 v.toNat; if i < l.length then l.set i b else if i = l.length then l ++ [b] else l
  let f := s.flash
  { s with flash := match which with
    | 0 => { f with puf := put f.puf }
    | 1 => { f with floor := put f.floor }
    | 2 => { f with floorMac := put f.floorMac }
    | 3 => { f with fw := put f.fw }
    | 4 => { f with fwSig := put f.fwSig }
    | 5 => { f with owner := put f.owner }
    | 6 => { f with ownerSig := put f.ownerSig }
    | 7 => { f with cfgA := put f.cfgA }
    | 8 => { f with cfgB := put f.cfgB }
    | 9 => { f with fwVersion := v.toNat }
    | 11 => { f with idCert := put f.idCert }
    | _ => { f with usedChips := addTo v.toNat f.usedChips } }

/-! ### Threshold units (04 R79, R83) -/

def execThresholdCtlWrite (die u : Nat) (v : Word) (s : State) : Out := .next (thrWrite s die u 0 v)

/-- A sensor reads v: the die's temperature, the package's power, or the cycles of a row's ring starvation, which never fall. -/
def senseAt (s : State) (die : Nat) (ctl v : Word) : State :=
  match fld ctl 55 48 with
  | 1 => let row := fld ctl 47 41; updDie s (row / 64) fun d => { d with starve := mupd d.starve row 0 fun n => max n v.toNat }
  | 2 => updDie s die fun d => { d with temp := v.toNat }
  | 5 => updDie (updDie s 0 fun d => { d with power := v.toNat }) 1 fun d => { d with power := v.toNat }
  | _ => s

/-- THRESHOLD_CROSSING: the counter that the unit selects is looked at, v being what its sensor reads where it has one; an armed unit whose threshold the
value crosses disarms and sends one message of priority 7 to its target, or nothing where the context is not LIVE (04 R83). -/
def execThresholdCrossing (die u : Nat) (v : Word) (s : State) : Out :=
  let t := thrOf s die u
  if fld t.ctl 55 48 = 0 then .next s
  else
    let s := senseAt s die t.ctl v
    let val := thrValue s die u
    let cross := if bit t.ctl 62 then decide (val.toNat < t.thresh.toNat) else decide (t.thresh.toNat ≤ val.toNat)
    if !(bit t.ctl 63 && cross) then .next s
    else
      let cid := fld t.target 63 52
      let (id, s) := freshMsg s cid
      let rank := fld t.target 47 32
      let h : MsgHdr := { msgid := id, trank := rank, srank := 0xFFFF, tag := fld t.target 31 16, handler := fld t.target 15 10, queue := fld t.target 9 8, mkind := 7, prio := 7, x6 := u }
      let off := fun (s : State) => setThr s die u { t with ctl := setFld t.ctl 63 63 0 }
      if ctxState (ctxOf s cid) ≠ 1 then .next (off s)
      else
        match agentSend s (regOf s die) cid (ctxInc (ctxOf s cid)) rank 24 h (wordsBytes [wd u, val, wd s.now]) with
        | some s => .next (off s)
        | none => .next s

/-! ### Errors of storage (04 R68) -/

/-- An uncorrectable error in one entry of a core's or die's storage, which poisons it: kind 0 a word of LM, 1 a register, 2 a word of a tile, 3 an entry of the
send buffer, 4 an entry of a queue register, 5 a queued message, 6 a line of memory. -/
def spoil (s : State) (core kind i : Nat) : State :=
  match kind with
  | 0 => lmPoison s core (8 * (i % 65536)) 8
  | 1 => if i = 0 then s else updCore s core fun k => { k with badRegs := addTo (i % 256) k.badRegs }
  | 2 => updCore s core fun k => setTile k (i / 2 ^ 14) { tileOf k (i / 2 ^ 14) with bad := addTo (i % 2 ^ 14) (tileOf k (i / 2 ^ 14)).bad }
  | 3 => updCore s core fun k => { k with sb := k.sb.zipIdx.map fun x => if x.2 = i then { x.1 with poison := true } else x.1 }
  | 4 => updCore s core fun k => if i % 4 < (qreg k (i / 4)).length then { k with badQ := addTo (i / 4 % 4, i % 4) k.badQ } else k
  | 5 => updCore s core fun k => updSlot k (i / 1024) fun t =>
      let q := queueOf t (i / 256)
      setQueue t (i / 256) { q with msgs := q.msgs.zipIdx.map fun x => if x.2 = i % 256 then { x.1 with poison := true } else x.1 }
  | _ => memPoisonAdd s (64 * i) 64

/-- An error found in storage, an input (04 R68): corrected in place and counted, or uncorrectable, counted, and the entry poisoned. Parity of a TLB (kind 8) or of
a walk cache (kind 9) only discards the entry, and is not counted. -/
def storageError (s : State) (core kind i : Nat) (hard : Bool) : State :=
  let die := dieOf core
  match kind with
  | 8 => updRtu s die (agentOf core) fun r => { r with tlb := r.tlb.eraseIdx i }
  | 9 => updRtu s die (agentOf core) fun r => { r with wcache := r.wcache.eraseIdx i }
  | _ =>
    if hard then count (spoil s core kind i) (if kind = 6 then paDie (64 * i) else die) 5
    else count s (if kind = 6 then paDie (64 * i) else die) 4

/-- REGISTER_WRITE: a store of 8 x width bits at an offset of die 0's or 1's device registers. Numbers from 2 on are the model's own names for what
firmware and management set by means that the spec does not lay out (log 44): 2 the context table, 3 the span lists, 4 flash, 5 the expander
capacity of a port, 6 the chips of the domain, 7 a switch's routing table, 8 a line that its expander will answer poisoned; 9 and 10 are reads by the host or the
maintenance interface, of width bytes, of a register of die 0 or 1 (04 R80); 11 an error of storage (04 R68): the core's key, kind and entry, v 0 for a corrected one. -/
def execRegisterWrite (die off width : Nat) (v : Word) (s : State) : Out :=
  .next (match die with
    | 0 => regWrite s 0 off width v
    | 1 => regWrite s 1 off width v
    | 2 => ctxWrite s (off / 32 % 4096) (off / 8 % 4) v
    | 3 => spanWrite s (off / 64 % 256) (off % 64) (v.toNat % 1024)
    | 4 => flashWrite s (off / 2 ^ 20) (off % 2 ^ 20) v
    | 5 => { s with cxl := mput s.cxl (off % 4) v.toNat }
    | 6 => { s with domain := addSorted s.domain (off % 1024) }
    | 7 => { s with switches := mupd s.switches (off / 1024) {} fun w => { w with routes := mput w.routes (off % 1024) v.toNat } }
    | 8 => { s with cxlPoison := addSorted s.cxlPoison (v.toNat / 64) }
    | 9 => hostRead s 0 off width
    | 10 => hostRead s 1 off width
    | 11 => storageError s (off % 2048) (off / 2048 % 16) (off / 2 ^ 15) (decide (v ≠ 0))
    | _ => s)

/-! ### Failure records (07 R135, R136) -/

/-- A record's words. -/
def recWords (r : FailRec) : List Word :=
  [wd (r.cause % 256 * 2 ^ 56 + r.kind % 256 * 2 ^ 48 + r.inc % 4096 * 2 ^ 32 + r.cid % 4096 * 2 ^ 20 + r.aborts % 4 * 2 ^ 18 + r.rank % 65536), wd r.msgid, r.subtag, r.detail]

/-- A record as a number, for a context whose home chip is another (log 40), and back. -/
def recNat (r : FailRec) : Nat := leNat (wordsBytes (recWords r)) + (r.dest.getD r.cid) * 2 ^ 256
def recOf (n : Nat) : FailRec :=
  let w := fun i => wd (n / 2 ^ (64 * i))
  { cause := fld (w 0) 63 56, kind := fld (w 0) 55 48, inc := fld (w 0) 43 32, cid := fld (w 0) 31 20, aborts := fld (w 0) 19 18, rank := fld (w 0) 15 0,
    msgid := (w 1).toNat, subtag := w 2, detail := w 3, dest := some (n / 2 ^ 256) }

/-- FAILURE_RECORD_WRITE: the oldest record goes to the failure queue that the home die of its context keeps; one for a context whose home chip is
another goes there. -/
def execFailureRecordWrite (s : State) : Out :=
  match s.frecs with
  | [] => .next s
  | r :: rs =>
    let s := { s with frecs := rs }
    let cid := r.dest.getD r.cid
    let home := homeChip s cid
    if home ≠ s.chip then .next (mgmtTo s home cid 0x21 (.mgmt 12 (recNat r)))
    else
      let d := (ctxOf s cid).home
      let g := qregsOf s d cid
      .next (ringAdd s (schedOf s d) cid r.inc g.fqbase g.fqsize (recWords r) none).1

/-! ### A sealed core (04 R70) -/

/-- Whether a message or stream packet for a core is still on its way there. -/
def inboundTo (s : State) (c : Nat) : Bool := s.chans.any fun h => decide (h.dst = niOf s c) && decide (h.cls = 2 ∨ h.cls = 3)

/-- An image put on a slot: regions, handlers, XB, TRAPVEC, code, and P0 to P3 with their full words. -/
def putImage (k : Core) (slot : Nat) (i : Image) (r : Resident) : Core :=
  let lm := i.mem.foldl (fun m x => wrBytes m x.1 x.2) k.lm
  let inImg := fun (w : Nat) => i.mem.any fun x => decide (x.1 ≤ 8 * w) && decide (8 * w < x.1 + x.2.length)
  let k := { k with lm := lm, fe := i.fe.foldl addSorted (k.fe.filter fun w => !inImg w), poison := k.poison.filter fun w => !inImg w }
  setSlot k slot { i.slot with resident := some r, mb := Vector.replicate 8 0, queues := Vector.replicate 4 {} }

/-- The rank entry of a resident that stands VALID at a core and slot of this chip. -/
def placeEntry (s : State) (c slot : Nat) : Word := wd (2 ^ 62 + s.chip * 2 ^ 52 + dieOf c * 2 ^ 51 + agentOf c * 2 ^ 41 + slot * 2 ^ 39)

/-- A queued message moved to the end of the same queue of another slot, with all that stands behind it (04 R70 step 4). -/
def keepMsg (s : State) (c slot : Nat) (m : QMsg) (bs : List Byte) : State :=
  let s := if bs = [] then s else lmWrite s c m.addr bs
  updCore s c fun k => updSlot k slot fun t =>
    let q := queueOf t m.hdr.queue
    setQueue t m.hdr.queue { q with msgs := q.msgs ++ [m] }

/-- RESIDENT_REBUILD (04 R70 steps 4 and 5): a resident of a sealed core is built again on a free slot of its partition from its initial save area,
its queued messages go with it in order, a poisoned one is reported with UCE, and its rank becomes valid there. -/
def execResidentRebuild (core slot target tslot : Nat) (s : State) : Out :=
  let k := coreOf s core
  match k.sealed_, (slotOf k slot).resident with
  | true, some r =>
    match s.images.find? fun i => decide (i.cid = r.cid ∧ i.inc = r.inc ∧ i.rank = r.rank) with
    | none => .next s
    | some i =>
      let kt := coreOf s target
      let part := ctxPart (ctxOf s r.cid)
      if target = core ∨ 4 ≤ slot ∨ 4 ≤ tslot ∨ kt.sealed_ = true ∨ (slotOf kt tslot).resident.isSome = true ∨ coreUsable s target part = false ∨
         isSup target ≠ isSup core ∨ isMemCore target ≠ isMemCore core ∨ inboundTo s core = true ∨ regionsBad kt tslot none i.slot.rg.toList = true then .next s
      else
        let t := slotOf k slot
        let s := updCore s target fun k => putImage k tslot i r
        let s := moveEnds s core r.cid r.rank target tslot
        let s := (List.range 4).foldl (fun s q =>
          (queueOf t q).msgs.foldl (fun s m =>
            if m.poison || lmBad k m.addr m.len then failMsg (msgGone s core m) 0x25 r.cid m.inc r.rank m.aborts m.hdr
            else
              match landPlace (coreOf s target) tslot m.len with
              | some a => keepMsg s target tslot { m with addr := a } (rdBytes k.lm m.addr m.len)
              | none => failMsg (msgGone s core m) 0x29 r.cid m.inc r.rank m.aborts m.hdr) s) s
        let s := updCore s core fun k => setSlot k slot {}
        let s := putRank s r.cid r.rank (placeEntry s target tslot)
        let s := s.cores.foldl (fun s kv =>
          if kv.2.transit.any fun p => decide (p.cid = r.cid ∧ p.dst = r.rank) then
            let held := (coreOf s kv.1).transit
            resend kv.1 r.cid r.rank held (updCore s kv.1 fun k => { k with transit := [] })
          else s) s
        let ps := ((i.slot.rg.toList.drop 3).zipIdx.map fun x => if rgV x.1 then 2 ^ x.2 else 0).sum
        .next (if ps = 0 then s else failRec s { cause := 0x48, kind := 3, inc := r.inc, cid := r.cid, rank := r.rank, detail := wd ps })
  | _, _ => .next s

/-- A row fenced, with the taint report of what it ran to the partition manager of every partition concerned (04 R72): a header word with the row and
OVERFLOW, and then the entries; with OVERFLOW an entry has no message identifier. -/
def fenceRow (s : State) (row : Nat) : State :=
  let die := row / 64
  let r := rowState s row
  let ran := (r.taint.map fun x => (x.1, x.2.1, x.2.2.1, [wd x.2.2.2])) ++ r.taintSet.map fun x => (x.1, x.2.1, x.2.2, [])
  let parts := (ran.map fun x => ctxPart (ctxOf s x.1)).foldl (fun l p => addTo p l) []
  let words := fun (p : Nat) => (ran.filter fun x => decide (ctxPart (ctxOf s x.1) = p)).flatMap fun x =>
    [wd (x.1 * 2 ^ 12 + x.2.1), subtagOf s x.2.2.1] ++ (if r.taintOver then [] else x.2.2.2)
  updDie s die fun d =>
    { d with rows := mput d.rows row { r with fenced := true, testing := false, away := [] }
             pmRing := d.pmRing ++ parts.map fun p => [wd (p * 2 ^ 16 + row * 2 + b2n r.taintOver)] ++ words p }

/-- CORE_TEST_COMPLETE (04 R70 step 6): a sealed core without residents has been scrubbed and tested. One that fails fences its row; a memory core,
which has no row, stays sealed. -/
def execCoreTestComplete (core : Nat) (pass : Bool) (s : State) : Out :=
  let k := coreOf s core
  if k.sealed_ = false ∨ (k.slots.toList.any fun t => t.resident.isSome) = true then .next s
  else if pass then .next (updCore s core fun k => { k with sealed_ := false, lm := [], fe := [], poison := [], badRegs := [], badQ := [], z := Vector.replicate 8 {} })
  else if isCompute core then .next (fenceRow s (rowOf core))
  else .next s

/-! ### Paired dispatch (04 R71) -/

/-- PAIR_TIMEOUT: one copy has waited at the comparison for more than 4,096 cycles. -/
def execPairTimeout (core : Nat) (s : State) : Out :=
  let k := coreOf s core
  match k.twin, k.cmpAt with
  | some t, some a =>
    if (coreOf s t).cmpAt.isNone && decide (s.now - a > 4096) then .next (abortWith s core 0x40 k.pc (some (rowOf core, rowOf t))) else .next s
  | _, _ => .next s

/-! ### In-field test (04 R72) -/

/-- Seconds in cycles. -/
def second : Nat := 1600000000

/-- The cores of a row. -/
def rowCores (row : Nat) : List Nat := (List.range 8).map fun i => row / 64 * 1024 + row % 64 * 8 + i

/-- A resident moved by the scheduler between two slots, its rank entry with it (04 R72): none while it is busy, on its way or awaited, or does not
fit there. -/
def relocate (s : State) (r : Resident) (c slot d dslot : Nat) : Option State :=
  if rankEntry s r.cid r.rank ≠ placeEntry s c slot ∨ rankBusy s r.cid r.rank = true ∨ quiescent (coreOf s c) slot = false ∨ inboundTo s c = true ∨
     (slotOf (coreOf s d) dslot).resident.isSome = true ∨ (coreOf s d).sealed_ = true ∨ (coreOf s d).stopped = true ∨
     targetCheck s d dslot r (slotOf (coreOf s c) slot).rg.toList (some (c, slot)) true ≠ none then none
  else some (putRank (moveSlot s c slot d dslot r) r.cid r.rank (placeEntry s d dslot))

/-- The slots of other rows to which a row's resident may go, in order: compute cores, none in a row under test. -/
def refuges (s : State) (row : Nat) : List (Nat × Nat) :=
  ((allCores.filter fun c => isCompute c && decide (rowOf c ≠ row) && (rowState s (rowOf c)).powered && !(rowState s (rowOf c)).testing).flatMap fun c =>
    (List.range 4).map fun i => (c, i))

/-- A row's residents moved away, each to the first slot that takes it, with where each went: none while one of them cannot go. -/
def clearRow (row : Nat) : List (Nat × Nat) → State × List Away → Option (State × List Away)
  | [], x => some x
  | (c, slot) :: ps, (s, l) =>
    match (slotOf (coreOf s c) slot).resident with
    | none => clearRow row ps (s, l)
    | some r =>
      match (refuges s row).findSome? fun d => (relocate s r c slot d.1 d.2).map fun t => (t, d) with
      | some (t, d) => clearRow row ps (t, l ++ [{ res := r, core := c, slot := slot, nowCore := d.1, nowSlot := d.2 }])
      | none => none

/-- Residents moved back to their row. One that has gone elsewhere meanwhile, whose incarnation is over, or whose slot is taken stays where it is;
none while one that is to return is busy. -/
def returnRow : List Away → State → Option State
  | [], s => some s
  | a :: l, s =>
    if (slotOf (coreOf s a.nowCore) a.nowSlot).resident ≠ some a.res ∨ (slotOf (coreOf s a.core) a.slot).resident.isSome = true ∨
       ctxInc (ctxOf s a.res.cid) ≠ a.res.inc then returnRow l s
    else (relocate s a.res a.nowCore a.nowSlot a.core a.slot).bind (returnRow l)

/-- ROW_TEST_START: a row that runs nothing is tested, once in each test period; its residents are moved away first. -/
def execRowTestStart (die row : Nat) (s : State) : Out :=
  let r := rowState s row
  let busy := (rowCores row).any fun c => let k := coreOf s c; k.act.isSome || !k.run.isEmpty || k.succ.isSome || !k.gates.isEmpty
  let due := decide (r.lastTest = 0) || decide (s.now / (s.testper * second) ≠ r.lastTest / (s.testper * second))
  if die ≠ row / 64 ∨ busy = true ∨ r.powered = false ∨ r.fenced = true ∨ r.testing = true ∨ due = false then .next s
  else
    match clearRow row ((rowCores row).flatMap fun c => (List.range 4).map fun i => (c, i)) (s, []) with
    | none => .next s
    | some (t, l) => .next (updDie t die fun d => { d with rows := mput d.rows row { r with testing := true, lastTest := s.now, away := l } })

/-- ROW_TEST_COMPLETE: after 2 ms; a row that passes starts a new taint log and gets its residents back, one that fails is fenced. -/
def execRowTestComplete (die row : Nat) (pass : Bool) (s : State) : Out :=
  let r := rowState s row
  if die ≠ row / 64 ∨ r.testing = false ∨ s.now - r.lastTest < 3200000 then .next s
  else if pass then
    match returnRow r.away (updDie s die fun d => { d with rows := mput d.rows row { r with testing := false, taint := [], taintOver := false, taintSet := [], away := [] } }) with
    | some t => .next t
    | none => .next s
  else .next (fenceRow s row)

/-! ### Power and energy (04 R75, R76, R78) -/

/-- POWER_UP (04 R75): at power-up, or on leaving a low-power state, in which the rows were off and nothing ran, the rows of the package begin to be
powered. -/
def execPowerUp (s : State) : Out :=
  match s.powerAt with
  | none => .next { s with powerAt := some s.now }
  | some t =>
    if s.now < t + 48000 ∨ (s.cores.any fun kv => kv.2.act.isSome) = true then .next s
    else
      let off := fun (s : State) (die : Nat) => updDie s die fun d => { d with rows := d.rows.map fun r => (r.1, { r.2 with powered := false }) }
      .next { off (off s 0) 1 with powerAt := some s.now }

/-- ROW_GROUP_POWER_ON: group g of eight rows, g x 2 µs after the first; a retired row stays off. -/
def execRowGroupPowerOn (g : Nat) (s : State) : Out :=
  match s.powerAt with
  | none => .next s
  | some t =>
    if 16 ≤ g ∨ s.now < t + 3200 * g then .next s
    else
      .next (((List.range 8).map fun i => 8 * g + i).foldl (fun s row =>
        if row ∈ s.retired then s else updDie s (row / 64) fun d => { d with rows := mupd d.rows row {} fun r => { r with powered := true } }) s)

/-- TRIM_STEP_DEMAND: cause 1, a kernel's start with its target step; 2, its end; 3 to 6, a limit that demands a step, 0 lifting it. -/
def execTrimStepDemand (die row cause step : Nat) (s : State) : Out :=
  if die ≠ row / 64 ∨ 7 < step ∨ cause = 0 ∨ 6 < cause then .next s
  else
    .next (updDie s die fun d => { d with rows := mupd d.rows row {} (demandRow s.now cause step) })

/-- The rows that ask for a step change: die, row and when, ramp-down before ramp-up, and the oldest first. -/
def bestAsk (s : State) (up : Bool) : Option (Nat × Nat × Nat) :=
  let all := (List.range 2).flatMap fun d => (dieAt s d).rows.flatMap fun r => (r.2.asked.filter fun a => decide (a.2 = up)).map fun a => (d, r.1, a.1)
  all.foldl (fun (b : Option (Nat × Nat × Nat)) x => match b with | some y => if x.2.2 < y.2.2 then some x else b | none => some x) none

/-- What a grant does to a row. -/
def grantRow (now : Nat) (r : RowSt) : RowSt :=
  let r' := { r with asked := [], changes := (r.changes + 1) % 2 ^ 16 }
  settleRow now (match nextChange r with
    | some true => if r.idle then { r' with idle := false, step := 7 } else { r' with step := r.step - 1 }
    | some false => if r.step = 7 then { r' with idle := true } else { r' with step := r.step + 1 }
    | none => r)

/-- TRIM_STEP_GRANT: one step change, of at most 166 in any 10 µs. -/
def execTrimStepGrant (s : State) : Out :=
  let recent := s.grants.filter fun t => decide (s.now < t + 16000)
  if recent.length ≥ 166 then .next s
  else
    match (bestAsk s false).orElse fun _ => bestAsk s true with
    | none => .next s
    | some (die, row, _) =>
      let s := updDie s die fun d => { d with rows := mupd d.rows row {} (grantRow s.now) }
      .next { s with grants := recent ++ [s.now] }

/-- Whether energy is charged to a kernel now: it runs, or an array descends to idle at its end (04 R76, R78). -/
def charged (s : State) (kid : Nat) : Bool :=
  (kernelOf s kid).any (fun k => decide (k.state = 2)) || s.dies.toList.any fun d => d.rows.any fun r => decide (kid ∈ r.2.kerns) || (decide (r.2.fill = kid) && !r.2.idle)

/-- ENERGY_UPDATE (04 R78): a die's share of a kernel's energy grows by what its activity counters showed; what is drawn while no kernel runs is charged to none. -/
def execEnergyUpdate (die kid uj : Nat) (s : State) : Out :=
  if charged s kid then .next (updDie s die fun d => { d with energy := mput d.energy kid ((mgetD d.energy kid (0, 0)).1 + uj, s.now) }) else .next s

end Sys2Proof.Machine
end

