-- ==== Sys2Proof/Machine/Links.lean ====
section
/-! DEFINITION. The Adeith ports: flits, link recovery and retraining, and the injection of packets (01 R13, R17 to R24; 02 R28, R29, R40; 04 R74, R82). -/

namespace Sys2Proof.Machine

/-! ### Flits as bytes (01 R18, R19) -/

/-- The header word of a flit. -/
def flitHead (f : Flit) : Nat :=
  f.lseq % 2 ^ 12 * 2 ^ 52 + f.ackseq % 2 ^ 12 * 2 ^ 40 + f.kind % 16 * 2 ^ 36 + f.cls % 16 * 2 ^ 32 + f.crcnt % 256 * 2 ^ 24 + f.crcls % 16 * 2 ^ 20 + f.rsv % 2 ^ 20

/-- A list of bytes cut or filled up with zeros to n. -/
def fitBytes (n : Nat) (bs : List Byte) : List Byte := bs.take n ++ List.replicate (n - bs.length) 0

/-- Bytes 0 to 247 of a flit: the header and the payload. -/
def flitBody (f : Flit) : List Byte := leBytes 8 (flitHead f) ++ fitBytes 240 f.payload

/-- The 256 bytes of a flit. -/
def flitBytes (f : Flit) : List Byte := flitBody f ++ leBytes 8 f.crc

/-- A flit read from its 256 bytes. -/
def flitOf (bs : List Byte) : Flit :=
  let w := wd (leNat (bs.take 8))
  { lseq := fld w 63 52, ackseq := fld w 51 40, kind := fld w 39 36, cls := fld w 35 32, crcnt := fld w 31 24, crcls := fld w 23 20, rsv := fld w 19 0,
    payload := (bs.drop 8).take 240, crc := leNat ((bs.drop 248).take 8) }

/-- n bits of the CRC register shifted out. -/
def crcBits : Nat → Nat → Nat
  | 0, c => c
  | n + 1, c => crcBits n (if c / 2 ^ 63 % 2 = 1 then 2 * c % 2 ^ 64 ^^^ 0x42F0E1EBA9EA3693 else 2 * c % 2 ^ 64)

/-- The CRC-64 of 01 R19: all ones at the start, no reflection, all ones at the end. -/
def crc64 (bs : List Byte) : Nat := (bs.foldl (fun c b => crcBits 8 (c ^^^ b.toNat * 2 ^ 56)) (2 ^ 64 - 1)) ^^^ (2 ^ 64 - 1)

def crcOk (f : Flit) : Bool := decide (crc64 (flitBody f) = f.crc)
def sealFlit (f : Flit) : Flit := { f with crc := crc64 (flitBody f) }

/-! ### Parity (01 R21) -/

/-- α times an element of GF(2^8). -/
def gfDouble (a : Nat) : Nat := if 2 * a ≥ 256 then (2 * a) ^^^ 0x11D else 2 * a

/-- The product in GF(2^8), the n low bits of b left. -/
def gfMulGo : Nat → Nat → Nat → Nat
  | 0, _, _ => 0
  | n + 1, a, b => (if b % 2 = 1 then a else 0) ^^^ gfMulGo n (gfDouble a) (b / 2)
def gfMul (a b : Nat) : Nat := gfMulGo 8 a b

/-- The nth power by repeated multiplication. -/
def gfPow (a : Nat) : Nat → Nat
  | 0 => 1
  | n + 1 => gfMul a (gfPow a n)

/-- The inverse of an element other than 0. -/
def gfInv (a : Nat) : Nat := gfPow a 254

/-- A polynomial's value, coefficients lowest first. -/
def gfEval (p : List Nat) (x : Nat) : Nat := p.foldr (fun c acc => c ^^^ gfMul acc x) 0

/-- The symbols of an interleave: the even-offset or the odd-offset bytes of a flit. -/
def interleave (odd : Bool) (bs : List Byte) : List Nat := (bs.zipIdx.filter fun x => decide (x.2 % 2 = b2n odd)).map (·.1.toNat)

/-- The check values j = lo to lo + n - 1 of an interleave. -/
def checks (d : List Nat) (lo n : Nat) : List Nat := (List.range n).map fun j => gfEval d (gfPow 2 (lo + j))

/-- Two polynomials added. -/
def polyAdd : List Nat → List Nat → List Nat
  | [], q => q
  | p, [] => p
  | a :: p, b :: q => (a ^^^ b) :: polyAdd p q

/-- One step of the search for the error locator: the locator, the last one before a length change, its discrepancy, the length, and the shift. -/
def locStep (syn : List Nat) (st : List Nat × List Nat × Nat × Nat × Nat) (n : Nat) : List Nat × List Nat × Nat × Nat × Nat :=
  let (c, b, bd, l, m) := st
  let d := (List.range (l + 1)).foldl (fun a i => a ^^^ gfMul (c.getD i 0) (syn.getD (n - i) 0)) 0
  if d = 0 then (c, b, bd, l, m + 1)
  else
    let k := gfMul d (gfInv bd)
    let c' := polyAdd c (List.replicate m 0 ++ b.map (gfMul k))
    if 2 * l ≤ n then (c', c, d, n + 1 - l, 1) else (c', b, bd, l, m + 1)

/-- The error pattern of an interleave with the given check differences: positions and values, for at most half as many errors as check symbols; none
where no such pattern has them. -/
def rsDecode (syn : List Nat) : Option (List (Nat × Nat)) :=
  if syn.all (decide <| · = 0) then some []
  else
    let (c, _, _, l, _) := (List.range syn.length).foldl (locStep syn) ([1], [1], 1, 0, 1)
    let xs := (List.range 128).filter fun i => decide (gfEval c (gfInv (gfPow 2 i)) = 0)
    let omega := (List.range syn.length).map fun n => (List.range (n + 1)).foldl (fun a i => a ^^^ gfMul (c.getD i 0) (syn.getD (n - i) 0)) 0
    -- the formal derivative: the odd coefficients, one place down
    let deriv := (c.zipIdx.map fun x => if x.2 % 2 = 1 then x.1 else 0).drop 1
    let es := xs.map fun i => let y := gfInv (gfPow 2 i); (i, gfMul (gfEval omega y) (gfInv (gfEval deriv y)))
    let ok := (List.range syn.length).all fun j => decide (es.foldl (fun a e => a ^^^ gfMul e.2 (gfPow (gfPow 2 e.1) (j + 1))) 0 = syn.getD j 0)
    if l = xs.length ∧ 2 * l ≤ syn.length ∧ ok = true then some es else none

/-- A damaged flit corrected from its check values: those of the even and of the odd interleave. -/
def correct (f : Flit) (even odd : List Nat) : Option Flit :=
  let bs := flitBytes f
  let fix := fun (o : Bool) (cs : List Nat) => rsDecode (List.zipWith (· ^^^ ·) (checks (interleave o bs) 1 cs.length) cs)
  match fix false even, fix true odd with
  | some e, some o =>
    let bs := e.foldl (fun l x => l.set (2 * x.1) ((l.getD (2 * x.1) 0) ^^^ BitVec.ofNat 8 x.2)) bs
    let bs := o.foldl (fun l x => l.set (2 * x.1 + 1) ((l.getD (2 * x.1 + 1) 0) ^^^ BitVec.ofNat 8 x.2)) bs
    let g := flitOf bs
    if crcOk g then some g else none
  | _, _ => none

/-- The payload of parity increment n of a flit. -/
def parityPay (f : Flit) (n : Nat) : List Byte :=
  let cs := fun (o : Bool) => (checks (interleave o (flitBytes f)) (16 * n - 15) 16).map (BitVec.ofNat 8)
  fitBytes 16 (leBytes 2 f.lseq ++ [BitVec.ofNat 8 n]) ++ cs false ++ cs true

/-! ### Ports (01 R20, R22, R24) -/

/-- Whether flits pass. -/
def portUp (p : Port) : Bool := decide (p.state = 2 ∨ p.state = 3)

/-- Whether a number names an Adeith port of this package, and the die of a port number. -/
def isPort (k : Nat) : Bool := decide (k / 32 < 2) && decide (k % 32 < 18)

/-- Whether a number names an Adeith port or an end of the die-to-die link, number 18 (01 R17, 04 R82). -/
def isLink (k : Nat) : Bool := decide (k / 32 < 2) && decide (k % 32 < 19)

/-- The link goes into retraining: what the receiver holds and has in recovery goes, since the sender sends it again. LSEQ numbers and buffer credits
stay as they are: DESIGN CHOICE (log 45). -/
def retrained (now : Nat) (p : Port) : Port :=
  { p with state := 1, trainAt := now, retrain := (p.retrain + 1) % 2 ^ 32, recov := [], held := [] }

/-- The first class to which this end owes buffer credits, and how many one flit can return (01 R18). -/
def owedHead (p : Port) : Nat × Nat :=
  match p.owed with
  | [] => (0, 0)
  | (c, n) :: _ => (c, min n 255)

/-- The port after a flit has returned them, and after n flits have. -/
def paid (p : Port) : Port :=
  match p.owed with
  | [] => p
  | (c, n) :: r => { p with owed := if n ≤ 255 then r else (c, n - 255) :: r }
def paidN : Nat → Port → Port
  | 0, p => p
  | n + 1, p => paidN n (paid p)

/-- A flit of this end, with the cumulative acknowledgement and its CRC. Data and idle flits, which are sent until they are received, also return
credits (01 R18; log 45). -/
def newFlit (p : Port) (kind cls lseq : Nat) (pay : List Byte) : Flit :=
  let back := if kind < 2 then owedHead p else (0, 0)
  sealFlit { lseq := lseq, ackseq := (p.rxSeq + 4095) % 4096, kind := kind, cls := cls, crcnt := back.2, crcls := back.1, payload := fitBytes 240 pay }

/-- A recovery request for a step: 1 and 2 an increment, 3 a replay. Its payload is laid out as an increment's first bytes (log 45). -/
def request (now : Nat) (p : Port) (lseq step : Nat) (again : Bool) : Port :=
  { p with tx := p.tx ++ [newFlit p 3 0 lseq (leBytes 2 lseq ++ [BitVec.ofNat 8 step])]
           recov := p.recov.map fun r => if r.lseq = lseq then { r with step := step, asked := now, again := again } else r }

/-- The packets that are whole at the start of a class's granules, and the granules left (02 R28). A granule of zeros where a header is due fills up a
flit: no packet begins with one, since OP 0 is reserved (log 45). -/
def cutPackets : Nat → List Byte → List (List Byte) × List Byte
  | 0, bs => ([], bs)
  | n + 1, bs =>
    let size := 16 * (1 + leNat (bs.take 8) % 1024)
    if bs.length < 16 then ([], bs)
    else if (bs.take 16).all (decide <| · = 0) then cutPackets n (bs.drop 16)
    else if bs.length < size then ([], bs)
    else let (ps, rest) := cutPackets n (bs.drop size); (bs.take size :: ps, rest)

/-- A delivered data flit's granules put together with those before them in its class. A whole packet leaves its buffer, whose credits go back
(01 R18, 02 R28, R31). -/
def assemble (p : Port) (f : Flit) : Port :=
  let (ps, rest) := cutPackets 16 (mgetD p.asm f.cls [] ++ f.payload)
  let owed := if ps = [] then p.owed else mupd p.owed f.cls 0 (· + (ps.map fun b => b.length / 16).sum)
  { p with rxFlits := p.rxFlits ++ [f], asm := if rest = [] then mdel p.asm f.cls else mput p.asm f.cls rest, rxPkts := p.rxPkts ++ ps, owed := owed }

/-- Credits that a flit returns (01 R18). -/
def takeCredits (p : Port) (f : Flit) : Port := { p with credits := if f.crcnt = 0 then p.credits else mupd p.credits f.crcls 0 (· + f.crcnt) }

/-- A whole data or idle flit in its turn: its credits count, once for each LSEQ, and its granules go to the fabric; an idle flit carries none. -/
def deliverFlit (p : Port) (f : Flit) : Port :=
  let p := takeCredits { p with held := p.held.erase f, rxSeq := (p.rxSeq + 1) % 4096 } f
  if f.kind = 0 then assemble p f else p

/-- Held flits that now follow in sequence are delivered. -/
def deliverHeld : Nat → Port → Port
  | 0, p => p
  | n + 1, p =>
    match p.held.find? fun f => decide (f.lseq = p.rxSeq) with
    | none => p
    | some f => deliverHeld n (deliverFlit p f)

/-- A whole data or idle flit takes its place: delivered with those that now follow it, or held behind a flit in recovery; none where 64 are held
already and the link must retrain (01 R20). -/
def placeFlit (p : Port) (f : Flit) : Option Port :=
  if f.lseq ≠ p.rxSeq ∧ p.held.length ≥ 64 then none else some (deliverHeld 128 { p with held := p.held ++ [f] })

/-- The flits that a flit acknowledges leave the replay buffer (01 R18, R20). Numbers run modulo 4,096: those up to 2,047 below ACKSEQ count as covered,
and a sender has at most 2,048 unacknowledged. DESIGN CHOICE: the window's size is not stated (log 45). -/
def takeAcks (p : Port) (f : Flit) : Port :=
  { p with replay := p.replay.filter fun t => !decide ((f.ackseq + 4096 - t.flit.lseq) % 4096 < 2048) }

/-- A reserved KIND or a set reserved bit: a protocol error (01 R19). -/
def flitBad (f : Flit) : Bool := decide (f.kind ≥ 5) || decide (f.rsv ≠ 0)

/-- A flit repaired or replayed: its recovery ends, and it is checked and taken as any whole flit is (01 R19, R20, R22). -/
def recovered (p : Port) (r : Recov) (f : Flit) : Option Port :=
  if flitBad f then none else placeFlit (takeAcks { p with recov := p.recov.erase r } f) { f with lseq := r.lseq }

/-- The LSEQ that the next data or idle flit has. -/
def wantSeq (p : Port) : Nat := (p.rxSeq + p.held.length + p.recov.length) % 4096

/-- A whole data or idle flit: one that a replay was to bring, one in sequence, or any other, a repeat, which is dropped; none where the link must retrain.
DESIGN CHOICE: a flit ahead of the next LSEQ with no damaged one before it, for which the spec has no rule, is dropped too (log 45). -/
def takeFlit (p : Port) (f : Flit) : Option Port :=
  match p.recov.find? fun r => decide (r.lseq = f.lseq ∧ r.step = 3) with
  | some r => recovered p r f
  | none => if f.lseq ≠ wantSeq p then some (takeAcks p f) else placeFlit (takeAcks p f) f

/-- A damaged flit: the copy that a replay was to bring, or a new one, which is stored and recovered; none where the link must retrain. -/
def takeDamaged (now : Nat) (p : Port) (f : Flit) : Option Port :=
  match p.recov.find? fun r => decide (r.lseq = f.lseq ∧ r.step = 3) with
  | some r =>
    if r.replays ≥ 1 then none
    else
      let p := { p with recov := p.recov.map fun x => if x = r then { r with flit := f, replays := r.replays + 1 } else x }
      some (request now p r.lseq 3 true)
  | none =>
    if p.recov.length ≥ 8 then none
    else
      let l := wantSeq p
      some (request now { p with recov := p.recov ++ [{ lseq := l, flit := f, first := now }] } l 1 false)

/-- The port after a change that may call for a retraining. -/
def orRetrain (now : Nat) (p : Port) (o : Option Port) : Port := o.getD (retrained now p)

/-- FLIT_RECEIVE (01 R19, R20, R22): a data, idle, request or management flit, or a damaged one. On the die-to-die link, port 18, an error is recovered
by replay alone (01 R17). What a recovery request asks for is a step of its own, and so is all that a parity increment brings. -/
def execFlitReceive (port : Nat) (f : Flit) (s : State) : Out :=
  if isLink port = false ∨ portUp (portOf s port) = false then .next s
  else
    .next (updPort s port fun p =>
      if crcOk f = false then
        let p := { p with crcfail := (p.crcfail + 1) % 2 ^ 32 }
        if port % 32 = 18 then { p with replayed := (p.replayed + 1) % 2 ^ 32 } else orRetrain s.now p (takeDamaged s.now p f)
      else if flitBad f then retrained s.now p
      else if port % 32 = 18 ∨ f.kind = 2 then p
      else if f.kind = 3 ∨ f.kind = 4 then takeCredits (takeAcks p f) f
      else orRetrain s.now p (takeFlit p f))

/-- RECOVERY_REQUEST_RECEIVE (01 R22): the sender answers with an increment of the flit, or sends it again from its replay buffer. -/
def execRecoveryRequestReceive (port lseq step : Nat) (s : State) : Out :=
  let p := portOf s port
  if isPort port = false ∨ portUp p = false then .next s
  else
    match p.replay.find? fun t => decide (t.flit.lseq = lseq) with
    | none => .next s
    | some t =>
      if step = 1 ∨ step = 2 then .next (updPort s port fun p => { p with tx := p.tx ++ [newFlit p 2 0 lseq (parityPay t.flit step)] })
      else if step = 3 then .next (updPort s port fun p => { p with tx := p.tx ++ [t.flit], replayed := (p.replayed + 1) % 2 ^ 32 })
      else .next s

/-- An increment for a flit in recovery: the flit is repaired, or the next step is asked for (01 R21, R22). -/
def takeParity (now : Nat) (p : Port) (r : Recov) (pay : List Byte) : Option Port :=
  let cs := (pay.drop 16).take 32
  let all := (r.inc1.getD []) ++ cs
  let part := fun (lo : Nat) => ((all.drop lo).take 16 ++ (if r.step = 2 then (all.drop (32 + lo)).take 16 else [])).map (·.toNat)
  match correct r.flit (part 0) (part 16) with
  | some f => recovered { p with parfix := (p.parfix + 1) % 2 ^ 32 } r f
  | none =>
    let p := { p with recov := p.recov.map fun x => if x = r then { r with inc1 := some cs } else x }
    some (request now p r.lseq (r.step + 1) false)

/-- PARITY_INCREMENT_RECEIVE (01 R21, R22): a flit that comes in the place of an increment. A damaged one is asked for once more. -/
def execParityIncrementReceive (port : Nat) (f : Flit) (s : State) : Out :=
  let p := portOf s port
  if isPort port = false ∨ portUp p = false then .next s
  else if crcOk f = false then
    .next (updPort s port fun p =>
      let p := { p with crcfail := (p.crcfail + 1) % 2 ^ 32 }
      match p.recov.find? fun r => decide (r.step < 3) && !r.again with
      | some r => request s.now p r.lseq r.step true
      | none => p)
  else if flitBad f then .next (updPort s port (retrained s.now))
  else if f.kind ≠ 2 then .next s
  else
    .next (updPort s port fun p =>
      let p := takeCredits (takeAcks p f) f
      let lseq := leNat (f.payload.take 2)
      let inc := (f.payload.getD 2 0).toNat
      match p.recov.find? fun r => decide (r.lseq = lseq ∧ r.step = inc ∧ inc < 3) with
      | some r => orRetrain s.now { p with parfix := (p.parfix + 1) % 2 ^ 32 } (takeParity s.now p r f.payload)
      | none => p)

/-- RECOVERY_RETRY_TIMEOUT (01 R22 step 5): what was asked for 1 µs ago and has not come is asked for once more. -/
def execRecoveryRetryTimeout (port lseq : Nat) (s : State) : Out :=
  let p := portOf s port
  match p.recov.find? fun r => decide (r.lseq = lseq) with
  | none => .next s
  | some r => if portUp p && !r.again && decide (s.now - r.asked ≥ 1600) then .next (updPort s port fun p => request s.now p lseq r.step true) else .next s

/-- LINKRECMAX_EXPIRE (01 R22 step 7, R23): a flit not delivered 6 µs after its first arrival makes the link retrain. -/
def execLinkrecmaxExpire (port lseq : Nat) (s : State) : Out :=
  let p := portOf s port
  match p.recov.find? fun r => decide (r.lseq = lseq) with
  | none => .next s
  | some r => if portUp p && decide (s.now - r.first ≥ 9600) then .next (updPort s port (retrained s.now)) else .next s

/-- A port from DOWN begins anew: both ends number from 0 and hold no credits, and each returns as credits the buffers that it has. DESIGN CHOICE: the
spec states neither how numbers begin nor how many granules a class's buffer holds (log 45). -/
def beginLink (now : Nat) (p : Port) : Port :=
  { p with state := 1, trainAt := now, txSeq := 0, rxSeq := 0, replay := [], held := [], recov := [], asm := [], credits := []
           owed := (List.range 8).map fun c => (c, Config.linkBuffer c) }

/-- PORT_TRAINING (01 R13): a port begins to train with its partner, or stays DOWN where the partner cannot operate without an option that is not
supported. -/
def execPortTraining (port : Nat) (partnerOk : Bool) (s : State) : Out :=
  if isLink port = false ∨ (portOf s port).state ≠ 0 ∨ partnerOk = false then .next s
  else .next (updPort s port (beginLink s.now))

/-- 50 µs in cycles. -/
def trainMax : Nat := 80000

/-- RETRAIN_COMPLETE (01 R24): within 50 µs; the port is UP, or DEGRADED with four lanes, and its unacknowledged flits go again in order. -/
def execRetrainComplete (port : Nat) (four : Bool) (s : State) : Out :=
  let p := portOf s port
  if isLink port = false ∨ p.state ≠ 1 ∨ s.now - p.trainAt > trainMax then .next s
  else .next (updPort s port fun p => { p with state := if four then 3 else 2, tx := p.tx ++ p.replay.map (·.flit) })

/-! ### Packets as granules (02 R28, R29; 10 R185, R195; 16 R294) -/

/-- The header granule. -/
def headBytes (p : Packet) : List Byte :=
  leBytes 8 (agChip p.dst % 1024 * 2 ^ 54 + agChip p.src % 1024 * 2 ^ 44 + p.cls % 16 * 2 ^ 40 + p.op % 64 * 2 ^ 34 + p.seq % 2 ^ 24 * 2 ^ 10 + p.len % 1024) ++
  leBytes 8 (p.cid % 4096 * 2 ^ 52 + p.inc % 4096 * 2 ^ 40 + p.dst % 65536 * 2 ^ 24 + p.src % 65536 * 2 ^ 8 + p.slot % 4 * 2 ^ 6 + b2n p.mcast * 2 ^ 5 +
    b2n p.comb * 2 ^ 4 + p.rsv % 16)

/-- The header of a message with its payload length, X7 and X8 behind it for a dispatcher task (10 R185). -/
def msgHead (h : MsgHdr) (n : Nat) : List Byte := hdrBytes { hdr := h, cid := 0, inc := 0, addr := 0, len := n }

/-- The first granule of a stream packet (10 R195). -/
def strmHead (h : StrmHdr) : List Byte :=
  leBytes 4 h.sid ++ leBytes 4 h.seq ++ leBytes 1 h.typ ++ leBytes 1 h.ekind ++ leBytes 1 h.sgen ++ leBytes 1 h.pgen ++ leBytes 2 h.nrank ++
  leBytes 2 (h.cause % 16 + h.scid % 4096 * 16)

/-- An operand granule of a remote operation (16 R294): address, func bits, SETFULL, and the sampled rounding. -/
def operand (addr func : Nat) (full : Bool) (rmode : Word) : List Byte :=
  leBytes 8 addr ++ leBytes 1 func ++ leBytes 1 (func / 256 % 4 + b2n full * 4 + fld rmode 2 0 * 8 + b2n (bit rmode 8) * 64) ++ leBytes 2 (fld rmode 31 16) ++
  leBytes 4 0

/-- The code of an access of w bytes, and the func field of an atomic (12 R233). -/
def widthCode (w : Nat) : Nat := match w with | 1 => 0 | 2 => 1 | 4 => 2 | _ => 3

/-- The payload that the spec lays out; the bytes that it does not lay out are free (log 4). -/
def bodyBytes (p : Packet) : List Byte :=
  match p.body with
  | .msg h pay _ => msgHead h pay.length ++ pay
  | .handle h h0 h1 i0 i1 i2 => msgHead h 16 ++ wordsBytes [h0, h1, i0, i1, i2]
  | .launch h _ pay => msgHead h pay.length ++ pay
  | .item h items _ => strmHead h ++ wordsBytes items
  | .eos h w => strmHead h ++ leBytes 8 w.toNat
  | .notice h => strmHead h
  | .load a w _ => operand a (widthCode w) false 0
  | .store a w v full _ => operand a (widthCode w) full 0 ++ leBytes 8 v.toNat ++ leBytes 8 0
  | .subStore a off size v _ => operand a (off + 8 * size) false 0 ++ leBytes 8 v.toNat ++ leBytes 8 0
  | .amo a op w b c rm _ => operand a (op + 16 * widthCode w) false rm ++ leBytes 8 b.toNat ++ leBytes 8 c.toNat
  | .hins a nw key data _ => operand a (b2n nw) false 0 ++ leBytes 8 key.toNat ++ leBytes 8 data.toNat
  | .mdata _ bitmap o words stands =>
    ((List.range 128).map fun i => BitVec.ofNat 8 (((List.range 8).map fun j => if 8 * i + j ∈ bitmap then 2 ^ j else 0).sum)) ++
    leBytes 16 (stands.getD 0) ++ leBytes 8 (o.rankbase % 65536 * 2 ^ 48 + b2n o.setfull * 2 ^ 47 + o.offset % 2 ^ 19) ++ leBytes 8 o.mask ++
    wordsBytes (words.map (·.1))
  | .rdata .. => leBytes 3 p.rseq ++ leBytes 1 p.rcls
  | .amorsp .. => leBytes 3 p.rseq ++ leBytes 1 p.rcls
  | .status .. => leBytes 3 p.rseq ++ leBytes 1 p.rcls
  | .fenceack .. => leBytes 3 p.rseq ++ leBytes 1 p.rcls
  | .result c _ st =>
    ((List.range 128).map fun i => BitVec.ofNat 8 (((List.range 8).map fun j => if 8 * i + j ∈ c.chips then 2 ^ j else 0).sum)) ++
    leBytes 16 0 ++ leBytes 8 (c.gid % 65536 * 2 ^ 48 + c.round % 256 * 2 ^ 40 + st % 256) ++ leBytes 8 0 ++ c.vals.flatMap (leBytes (elSize c.typ))
  | _ => []

/-- A packet's granules: its bytes, filled up with free ones. -/
def packetBytes (p : Packet) (f : Nat) : List Byte :=
  let bs := headBytes p ++ (bodyBytes p).take (16 * p.len)
  bs ++ (List.range (16 * (1 + p.len) - bs.length)).map fun i => Config.packetByte f i

/-! ### Injection (02 R28, R40; 01 R20) -/

/-- Data flits for granules from an LSEQ on, 15 granules each. -/
def cutFlits (p : Port) (cls : Nat) : Nat → Nat → List Byte → List Flit
  | 0, _, _ => []
  | n + 1, seq, bs => newFlit p 0 cls (seq % 4096) (bs.take 240) :: cutFlits (paid p) cls n (seq + 1) (bs.drop 240)

/-- The first n packets of a class, and the list without them. -/
def takeClass (cls : Nat) : Nat → List Packet → List Packet × List Packet
  | 0, l => ([], l)
  | _, [] => ([], [])
  | n + 1, p :: ps =>
    if p.cls = cls then let (a, b) := takeClass cls n ps; (p :: a, b)
    else let (a, b) := takeClass cls (n + 1) ps; (a, p :: b)

/-- The granules of some packets, and the flits that carry these. -/
def granules (ps : List Packet) : Nat := (ps.map fun p => 1 + p.len).sum
def flitCount (ps : List Packet) : Nat := (granules ps + 14) / 15

/-- Packets with the granules that each takes, the first from granule o on. -/
def spansFrom : Nat → List Packet → List (Nat × Nat × Packet)
  | _, [] => []
  | o, p :: ps => (o, o + 1 + p.len, p) :: spansFrom (o + 1 + p.len) ps

/-- The packets whose granules flit m of a run carries. -/
def carriedBy (ps : List Packet) (m : Nat) : List Packet :=
  ((spansFrom 0 ps).filter fun x => decide (x.1 < 15 * (m + 1)) && decide (15 * m < x.2.1)).map (·.2.2)

/-- Data flits not yet acknowledged (01 R20). -/
def dataHeld (p : Port) : Nat := (p.replay.filter fun t => decide (t.flit.kind = 0)).length

/-- An idle flit is sent: it takes an LSEQ, acknowledges, returns credits, and can be recovered as a data flit can. -/
def sendIdle (p : Port) : Port :=
  let f := newFlit p 1 0 p.txSeq []
  { paid p with txSeq := (p.txSeq + 1) % 4096, replay := p.replay ++ [{ flit := f, pkts := [] }], tx := p.tx ++ [f] }

/-- PACKET_INJECT (02 R28, R40; 01 R20): packet n mod 2^32 of those that wait, and n / 2^32 more of its class behind it, enter a port that holds
credits for all their granules and room in its replay buffer; one follows another within a flit. With 512 data flits unacknowledged the port sends an idle
flit, and so it does where no packet waits. The error injector damages a flit as it is sent (04 R74). -/
def execPacketInject (port n : Nat) (s : State) : Out :=
  let more := n / 2 ^ 32
  let n := n % 2 ^ 32
  let q := portOf s port
  if isPort port = false ∨ portUp q = false then .next s
  else
    match s.egress.drop n with
    | [] => .next (if q.replay.length < 2048 then updPort s port sendIdle else s)
    | p :: rest =>
      let (more_, left) := takeClass p.cls more rest
      let ps := p :: more_
      let k := flitCount ps
      if 512 ≤ dataHeld q then .next (if q.replay.length < 2048 then updPort s port sendIdle else s)
      else if dataHeld q + k > 512 ∨ q.replay.length + k > 2048 ∨ mgetD q.credits p.cls 0 < granules ps then .next s
      else
        let (bytes, s) := ps.foldl (fun (x : List Byte × State) p => let (f, s) := drawFree x.2; (x.1 ++ packetBytes p f, s)) ([], s)
        let (bad, s) := inject s (port / 32) p.cid 3
        let fs := cutFlits q p.cls k q.txSeq bytes
        let sent := match fs with | x :: xs => (if bad then { x with crc := x.crc ^^^ 1 } else x) :: xs | [] => []
        let s := updPort s port fun q =>
          { paidN k q with txSeq := (q.txSeq + k) % 4096, replay := q.replay ++ fs.zipIdx.map fun x => { flit := x.1, pkts := carriedBy ps x.2 }, tx := q.tx ++ sent
                           credits := mput q.credits p.cls (mgetD q.credits p.cls 0 - granules ps) }
        .next { s with egress := s.egress.take n ++ left, wire := s.wire ++ ps.filter fun p => p.mcast || p.comb }

end Sys2Proof.Machine
end

