-- ==== Sys2Proof/Machine/Fabric.lean ====
section
/-! DEFINITION. The fabric agents and the panel's switches: end-to-end delivery, store counting, multicast and in-switch combining (02 R28 to R48;
01 R24; 03 R62; 05 R98, R101; 08 R162; 09 R175; 10 R204). -/

namespace Sys2Proof.Machine

/-! ### What a packet must be (02 R30) -/

/-- The class of an OP; none where it is reserved. -/
def opClass (op : Nat) : Option Nat :=
  match op with
  | 0x01 => some 0
  | 0x02 => some 1
  | 0x03 => some 1
  | 0x04 => some 0
  | 0x05 => some 0
  | 0x06 => some 1
  | 0x08 => some 2
  | 0x09 => some 2
  | 0x0A => some 3
  | 0x0B => some 3
  | 0x0C => some 3
  | 0x10 => some 4
  | 0x11 => some 4
  | 0x12 => some 4
  | 0x13 => some 5
  | 0x14 => some 5
  | 0x18 => some 1
  | 0x19 => some 4
  | 0x1C => some 6
  | 0x1D => some 6
  | 0x20 => some 7
  | 0x21 => some 7
  | _ => none

/-- Whether a payload is one that an OP carries. -/
def bodyFits (op : Nat) (b : Body) : Bool :=
  match b with
  | .load .. => decide (op = 0x01)
  | .engRead .. => decide (op = 0x01)
  | .arm .. => decide (op = 0x01)
  | .rowLd .. => false
  | .rowSt .. => false
  | .rowFe .. => false
  | .store .. => decide (op = 0x02)
  | .subStore .. => decide (op = 0x03)
  | .amo .. => decide (op = 0x04)
  | .hins .. => decide (op = 0x05)
  | .engWrite .. => decide (op = 0x06)
  | .mdata .. => decide (op = 0x06)
  | .redc .. => decide (op = 0x06)
  | .redw .. => decide (op = 0x06)
  | .msg .. => decide (op = 0x08)
  | .launch .. => decide (op = 0x08)
  | .ksub .. => decide (op = 0x08)
  | .setev .. => decide (op = 0x08)
  | .dspn .. => decide (op = 0x08)
  | .jcan .. => decide (op = 0x08)
  | .handle .. => decide (op = 0x09)
  | .item .. => decide (op = 0x0A)
  | .eos .. => decide (op = 0x0B)
  | .notice .. => decide (op = 0x0C)
  | .rdata .. => decide (op = 0x10 ∨ op = 0x11)
  | .amorsp .. => decide (op = 0x11)
  | .status .. => decide (op = 0x12)
  | .bfack .. => decide (op = 0x13)
  | .e2eack .. => decide (op = 0x14)
  | .marker .. => decide (op = 0x18)
  | .fenceack .. => decide (op = 0x19)
  | .contrib .. => decide (op = 0x1C)
  | .result .. => decide (op = 0x1D)
  | .bcast .. => decide (op = 0x20)
  | .mgmt .. => decide (op = 0x21)
  | .lock .. => decide (op = 0x21)
  | .lockRsp .. => decide (op = 0x21)
  | .adjcopy .. => decide (op = 0x21)
  | .adjreg .. => false

/-- A packet that the target's fabric agent drops and counts (02 R30). DESIGN CHOICE: so is a unicast packet with COMB set that reaches a chip, whose
contributions and results a switch or a multicast delivers (log 52). -/
def badPacket (p : Packet) : Bool :=
  decide (p.rsv ≠ 0) || decide (opClass p.op ≠ some p.cls) || !bodyFits p.op p.body || decide (p.len > 256) || (p.comb && !p.mcast)

/-- Management that acts for an incarnation, and is checked as its packets are (02 R34, 03 R61): JCAN, element cursors and event vectors. The rest acts on a
table entry or answers such an operation (log 40). -/
def ctrlChecked : Body → Bool
  | .mgmt code _ => decide (code ∈ [1, 15, 18, 19, 23, 25])
  | _ => false

/-! ### Operations that another chip asks for (03 R62, R64, R65; 05 R98, R101; 08 R162; log 40) -/

/-- An operation of another chip begun here: it answers once for the whole chip. -/
def startFor (s : State) (o : Op) : State := { s with ops := s.ops ++ [{ o with tok := s.opNext }], opNext := s.opNext + 1 }

/-- The answer of a chip to an operation that all its agents must acknowledge is in. -/
def chipBack (s : State) (tok chip : Nat) : State :=
  updOp s tok fun o => if chipCode chip ∈ o.left ∧ chipCode chip ∉ o.back then { o with back := o.back ++ [chipCode chip] } else o

/-- The new incarnation of a context arrives from its home chip (03 R62 step 3), with the mark of a failed restore's kill. -/
def remoteKill (s : State) (p : Packet) (cid inc : Nat) : State :=
  let new := inc % 4096
  let old := ctxInc (ctxOf s cid)
  let s := updCtx s cid fun x => { x with w0 := setFld x.w0 47 36 new }
  let s := broadcast s cid old new
  let all := killAgents s
  startFor s { tok := 0, kind := 0, core := 0, cid := cid, sample := old, left := all, todo := all, arg2 := inc / 4096, org := some (p.src, cid) }

/-- The home chip's status for a kill or reclaim that this chip put to it: a failed restore's kill that found seven unreclaimed incarnations is asked for
again. -/
def homeStatus (s : State) (tok status : Nat) : State :=
  match opOf s tok with
  | none => s
  | some o =>
    if o.kind = 6 then opDone s o status
    else if o.kind = 8 ∧ status = 1 then mgmtTo s (homeChip s o.cid) o.cid 0x21 (.mgmt 20 (tok + 2 ^ 32))
    else if o.kind = 8 then opDone s o status
    else s

/-- A kernel of another chip that a packet tells of, noted (log 49). -/
def learn (s : State) (p : Packet) : State :=
  match p.kinfo with
  | some k =>
    if (kernelOf s k.kid).isSome || decide (kernelChip k.kid = s.chip) then s
    else { s with kernels := s.kernels ++ [{ k with state := 2, live := 0, gates := [], armed := 0, qentry := false }] }
  | none => s

/-- A registration of another chip's dispatcher: noted where the hold stores of this chip's dies have room, asked about, or dropped; the status goes back. -/
def adjFrom (s : State) (p : Packet) (a : AdjReg) (what tok : Nat) : State :=
  let rest := fun (s : State) => { s with adjs := s.adjs.filter fun x => !decide (x.cid = a.cid ∧ x.inc = a.inc ∧ x.num = a.num),
                                          holds := s.holds.filter fun h => !decide (h.cid = a.cid ∧ h.reg = a.num) }
  let answer := fun (s : State) (st : Nat) => mgmtTo s (agChip p.src) a.cid 0x21 (.mgmt 17 (tok + st * 2 ^ 32))
  match what with
  | 0 =>
    if ctxInc (ctxOf s a.cid) ≠ a.inc then answer s 0
    else if holdFull s { a with home := none } then answer s 0x62
    else answer { rest s with adjs := (rest s).adjs ++ [{ a with home := none }] } 0
  | 1 => answer s (if adjBusy s a.cid a.inc a.num then 1 else 0)
  | _ => rest s

/-- A management packet. -/
def manage (s : State) (p : Packet) (code arg : Nat) : State :=
  let chip := agChip p.src
  let tok := arg % 2 ^ 32
  let rest := arg / 2 ^ 32
  match code with
  | 1 => startFor (cancelJob s p.cid arg) { tok := 0, kind := 4, core := 0, cid := p.cid, left := [], arg := arg, sample := p.inc, org := some (p.src, arg) }
  | 2 => { s with ops := s.ops.map fun o => if o.kind = 4 ∧ o.cid = p.cid ∧ o.arg = arg ∧ o.org = none then { o with left := o.left.erase chip } else o }
  | 3 =>
    let s := setRank s p.cid (rest % 65536) (wd (rest / 65536))
    startFor s { tok := 0, kind := 3, core := 0, cid := p.cid, arg := rest % 65536, arg2 := rest / 65536, left := allCores, todo := allCores, org := some (p.src, tok) }
  | 4 => opSettle (updOp s arg fun o => { o with left := o.left.erase (chipCode chip) }) arg
  | 5 =>
    startFor s { tok := 0, kind := 2, core := 0, cid := p.cid, arg := rest % 2 ^ 64, arg2 := rest / 2 ^ 64, left := allRtus, todo := allRtus, org := some (p.src, tok) }
  | 6 => chipBack s arg chip
  | 7 =>
    let all := killAgents s
    startFor s { tok := 0, kind := 1, core := 0, cid := p.cid, sample := rest % 4096, u := rest / 4096, left := all, todo := all, org := some (p.src, tok) }
  | 8 => chipBack s arg chip
  | 9 =>
    match s.ops.find? fun o => decide (o.kind = 0 ∧ o.cid = arg ∧ o.org = none) with
    | some o => chipBack s o.tok chip
    | none => s
  | 10 => peersDead s chip
  | 11 => let (core, cmd, _) := engOf (arg / 256); endRun s core cmd (arg % 256) 0
  | 12 => failRec s (recOf arg)
  | 13 =>
    let c := rest / 2 ^ 32
    { s with reports := s.reports ++ [⟨rest % 2 ^ 32, (tok : Int) - 2 ^ 31, if c = 0 then none else some (c - 1 + (chip + 1) * 2 ^ 64)⟩] }
  | 14 => { s with acks := s.acks ++ [arg] }
  | 15 => match p.kinfo with | some k => putCursors s k | none => s
  | 17 => adjBack s tok rest chip
  -- gangs and crews to be armed here for a kernel of another chip, how many have been armed there, and an ABSENT rank to be brought in (05 R93; log 55)
  | 23 => match p.kinfo with | some k => { s with kernels := (s.kernels.filter fun x => !decide (x.kid = k.kid)) ++ [k] } | none => s
  | 24 =>
    let kid := rest % 2 ^ 32
    let s := updKernel s kid fun k => { k with armed := k.armed + tok, live := k.live + (rest / 2 ^ 32 : Nat) }
    match kernelOf s kid with | some k => settleKernel (gatesDone s kid (gateGroups k).length) kid | none => s
  | 25 => bringRank s p.cid p.inc arg
  -- a spawn has entered the spawn queue of another chip's dispatcher (06 R115)
  | 26 => updCore s (arg % 2048) fun k => { k with spawnSent := if k.spawnSent = some (arg / 2048, false) then some (arg / 2048, true) else k.spawnSent }
  | 18 => setEvents s p.cid (arg % 4) fun w => w ||| wd (arg / 4)
  | 19 => putEvents s p.cid (arg % 4) (wd (arg / 4))
  | 20 => homeKill s p.cid (decide (rest % 2 = 1)) (p.src, tok)
  | 21 => homeStatus s tok rest
  | 22 => homeRecl s p.cid (p.src, tok)
  | _ => s

/-! ### Multicast data at a leaf (02 R42, R43) -/

/-- Whether this chip holds a (source, MTAG) pair. -/
def pairOfTag (s : State) (src mtag : Nat) : Option LeafPair := s.pairs.find? fun x => decide (x.src = src ∧ x.mtag = mtag)

/-- A pair noted, or its acknowledgement due again. -/
def notePair (s : State) (src mtag : Nat) (drop due : Bool) : State :=
  match pairOfTag s src mtag with
  | some x => { s with pairs := s.pairs.map fun y => if y = x then { y with due := due || y.due } else y }
  | none => { s with pairs := s.pairs ++ [{ src := src, mtag := mtag, since := s.now, drop := drop, due := due }] }

/-- What a multicast packet, or a unicast copy of one, does at this chip: whether some target dropped it, and the state. A badPacket one, a CID that no table
holds and a stale INC drop it (02 R30, R34, 03 R61). Which die's agent judges it is not stated: DESIGN CHOICE, die 0's (log 52). -/
def leafApply (s : State) (p : Packet) : Bool × State :=
  if badPacket p then (true, count s 0 2)
  else
  match incAt s (fabOf s 0) p.cid with
  | none => (true, count s 0 9)
  | some i =>
    if i ≠ p.inc then (true, count s 0 0)
    else
      match p.body with
      | .mdata _ _ o words _ => leafData s p o words
      | .result c _ st => (false, leafResult s c st)
      | _ => (false, s)

/-! ### Handing a packet to its target (02 R38) -/

/-- The copies of a LAUNCH that this chip forms for the bits of a mask (05 R95; 20 R328, R342). -/
def formCopies (p : Packet) (h : MsgHdr) (pay : List Byte) : List Nat → State → State
  | [], s => s
  | i :: is, s =>
    let rank := (h.trank + i) % 65536
    let (id, s) := freshMsg s p.cid
    let h' := { h with msgid := id, trank := rank, x6 := popN i h.x6, aborts := 0 }
    let e := rankEntry s p.cid rank
    let q : Packet := { p with body := .msg h' pay p.bad, tok := 0 }
    let s :=
      if decide (reState e = 1) && foreignCore s p.cid e then
        report (failRec s { cause := 0x27, kind := 0, inc := p.inc, cid := p.cid, rank := h.srank, aborts := h.aborts, msgid := h.msgid, subtag := subtagOf s h.kernel, detail := wd id }) h.kernel (-1) none
      else forwardTo s (if reChip e = s.chip then p.src else fabOf s (agDie p.dst)) p.cid rank q
    formCopies p h pay is s

/-- A packet past its checks goes to its target: through the on-chip queue of its class, or at once where the target is the fabric agent or an
engine. -/
def handOff (s : State) (p : Packet) : State :=
  let s := learn s p
  match p.body with
  | .launch h mask pay => formCopies p h pay (setBits 64 0 mask) s
  | .mdata m _ _ _ stands =>
    let tag := stands.getD m
    if (pairOfTag s p.src tag).isSome then s
    else
      let (drop, s) := leafApply s p
      notePair s p.src tag drop false
  | .redc c t => redPart s p.cid p.inc (2 ^ 20 + p.src) t c
  | .rdata t v bad =>
    if isEng t then engGot s t v bad else if agIsCore p.dst then chanPush s p else s
  | .amorsp .. => if agIsCore p.dst then chanPush s p else s
  | .status t _ =>
    if isEng t then (if engPends s t then engLost s t else engDone s t true) else if agIsCore p.dst then chanPush s p else markApplied s p.dst t p.src
  | .bcast cid inc => remoteKill s p cid inc
  -- the stores taken before the marker's turn go with it (02 R39)
  | .marker .. => chanPush s { p with rseq := mgetD (dieAt s (agDie p.dst)).taken (agChip p.src) 0 }
  | .mgmt code arg => manage s p code arg
  | .adjcopy a what tok => adjFrom s p a what tok
  | _ => chanPush s p

/-- A packet whose turn has come (02 R30, R34, R35, R39): counted among the stores taken, dropped for a badPacket header, an unknown context or a stale
incarnation, or handed on. -/
def takeIn (s : State) (p : Packet) : State :=
  let die := agDie p.dst
  let s := if countedOp p.op ∧ p.cls = 1 then updDie s die fun d => { d with taken := mupd d.taken (agChip p.src) 0 fun n => (n + 1) % 2 ^ 32 } else s
  if badPacket p then count s die 2
  else if (mget (dieAt s die).incTab p.cid).isNone then
    let s := handleDead (count s die 9) (fabOf s die) p 1
    if p.cls = 0 then statusTo s p (bodyTok p.body) 0x4B else s
  else if (p.cls ≠ 7 ∨ ctrlChecked p.body = true) ∧ incExempt p = false ∧ incOk s (fabOf s die) p.cid p.inc = false then
    -- a stale response has its requester's entry freed, as at RETURN (03 R67)
    if p.cls = 4 ∧ agIsCore p.dst = true then
      let t := match p.body with | .rdata t _ _ => t | .amorsp t _ => t | .status t _ => t | .fenceack t _ => t | _ => 0
      updCore (count s die 0) (agCore p.dst) fun k => { k with out := k.out.filter fun o => !decide (o.tok = t) }
    else staleDrop s { p with dst := fabOf s die }
  else handOff s p

/-! ### End-to-end delivery (02 R35 to R37) -/

def e2eOf (s : State) (key : Nat) : E2e := mgetD s.e2e key {}
def updE2e (s : State) (key : Nat) (f : E2e → E2e) : State := { s with e2e := mupd s.e2e key {} f }

/-- One more packet that an E2EACK must cover. -/
def ackOwed (now : Nat) (e : E2e) : E2e := { e with ackDue := e.ackDue + 1, ackAt := if e.ackDue = 0 then now else e.ackAt }

/-- The next SEQ that an E2EACK can state: of messages and stream packets it covers only those that their targets have applied or dropped
(09 R175). -/
def ackNext (s : State) (chip cls : Nat) : Nat :=
  let n := (e2eOf s (e2eKey chip cls)).rxNext
  if cls ≠ 2 ∧ cls ≠ 3 then n
  else
    let open_ := (s.chans.filter fun h => decide (agChip h.src = chip ∧ h.cls = cls)).flatMap fun h => h.q.map fun p => (n + 2 ^ 24 - p.seq) % 2 ^ 24
    (n + 2 ^ 24 - open_.foldl max 0) % 2 ^ 24

/-- The cumulative acknowledgement of a triple. It takes part in no sequence itself. What it could not yet cover stays due. -/
def ackSend (s : State) (chip cls : Nat) : State :=
  let key := e2eKey chip cls
  let n := ackNext s chip cls
  let p : Packet := { src := fabOf s 0, dst := chip * 65536 + 7 * 4096, cls := 5, op := 0x14, len := 1, body := .e2eack cls n }
  updE2e { s with egress := s.egress ++ [p] } key fun e => { e with ackDue := (e.rxNext + 2 ^ 24 - n) % 2 ^ 24, ackAt := s.now }

/-- An acknowledgement at least every 32 packets (02 R35). -/
def ackAt32 (s : State) (chip cls : Nat) : State := if (e2eOf s (e2eKey chip cls)).ackDue ≥ 32 then ackSend s chip cls else s

/-- n cycles pass: packets whose bytes have all been placed are acknowledged, and requests complete (23 R377), and every triple that has packets to acknowledge for 2 µs acknowledges
them (02 R35). -/
def passTime (n : Nat) (s : State) : State :=
  let s := nicDue (tick n s)
  (s.e2e.filter fun e => decide (e.2.ackDue ≠ 0 ∧ s.now - e.2.ackAt ≥ 3200)).foldl (fun s e => ackSend s (e.1 / 16) (e.1 % 16)) s

/-- A packet in sequence, and held ones that now follow. -/
def takeInOrder (key : Nat) : Nat → Packet → State → State
  | 0, _, s => s
  | n + 1, p, s =>
    let s := updE2e s key fun e => ackOwed s.now { e with rxNext := (e.rxNext + 1) % 2 ^ 24 }
    let s := ackAt32 (takeIn s p) (key / 16) (key % 16)
    let e := e2eOf s key
    match mget e.rxHeld e.rxNext with
    | some q => takeInOrder key n q (updE2e s key fun e => { e with rxHeld := mdel e.rxHeld e.rxNext })
    | none => s

/-- FABRIC_PACKET_ARRIVE (02 R35): a unicast packet of another chip reaches this chip's fabric agent: delivered, held behind a gap, or dropped as a
duplicate and acknowledged again. Acknowledgements, which take part in no sequence and are only checked here (02 R30), multicast packets and contributions
have steps of their own. -/
def execFabricPacketArrive (p : Packet) (s : State) : Out :=
  let chip := agChip p.src
  if agChip p.dst ≠ s.chip ∨ chip ∉ s.domain ∨ chip = s.chip ∨ p.mcast = true ∨ 16 ≤ p.cls then .next s
  else if p.cls = 5 then .next (if badPacket p then count s (agDie p.dst) 2 else s)
  else
    let key := e2eKey chip p.cls
    let e := e2eOf s key
    let d := (p.seq + 2 ^ 24 - e.rxNext) % 2 ^ 24
    if d = 0 then .next (takeInOrder key 1024 p s)
    else if d < 1024 then .next (updE2e s key fun e => { e with rxHeld := mput e.rxHeld (p.seq % 2 ^ 24) p })
    else .next (ackAt32 (updE2e (count s (agDie p.dst) 7) key (ackOwed s.now)) chip p.cls)

/-- E2EACK_SEND (02 R35). -/
def execE2eackSend (chip cls : Nat) (s : State) : Out := .next (if (e2eOf s (e2eKey chip cls)).ackDue = 0 then s else ackSend s chip cls)

/-- A unicast copy of a COPY.M packet has been acknowledged, or has failed (02 R43): with the last of them the packet completes. -/
def copyDone (s : State) (src mtag chip : Nat) (failed : Bool) : State :=
  match s.mouts.find? fun m => decide (m.src = src ∧ m.mtag = mtag) with
  | none => s
  | some m =>
    let left := (m.uni.getD []).erase chip
    if left = [] then engDone { s with mouts := s.mouts.erase m } m.tok (m.drop || failed)
    else { s with mouts := s.mouts.map fun x => if x = m then { x with uni := some left, drop := x.drop || failed } else x }

/-- What an acknowledgement means to the source of a packet: its effect is applied (09 R175). -/
def acked (s : State) (p : Packet) : State :=
  match p.body with
  | .mdata _ _ _ _ (some m) => copyDone s p.src m (agChip p.dst) false
  | .redc .. => s
  | .marker .. => if incOk s p.src p.cid p.inc then s else freeOut s (agCore p.src) p.cid p.inc
  | b =>
    -- a request whose incarnation has died and that its chip has taken waits for nothing more (03 R65, R67)
    if p.cls = 0 ∧ agIsCore p.src = true ∧ incOk s p.src p.cid p.inc = false then freeOut s (agCore p.src) p.cid p.inc else if p.cls = 1 then markApplied s p.src (bodyTok b) p.dst else if p.cls = 2 ∨ p.cls = 3 then markApplied s p.src p.tok p.dst else s

/-- E2EACK_RECEIVE (02 R36): every packet of the triple below NEXT leaves the retry buffer. -/
def execE2eackReceive (chip cls next : Nat) (s : State) : Out :=
  let key := e2eKey chip cls
  let covered := fun (u : E2eOut) => decide ((next + 2 ^ 24 - u.seq - 1) % 2 ^ 24 < 2 ^ 23)
  let us := (e2eOf s key).unacked.filter covered
  let s := updE2e s key fun e => { e with unacked := e.unacked.filter fun u => !covered u }
  let s := us.foldl (fun s u => acked s u.pkt) s
  let s := e2eDrain key (e2eOf s key).waiting.length s
  .next (if us = [] then s else nicDue s)

/-- A packet that fails because its pair of chips is unreachable (02 R37). -/
def failPacket (s : State) (p : Packet) : State :=
  let t := bodyTok p.body
  let free := fun (s : State) => drawFree s
  match p.cls with
  | 0 =>
    if isEng t then engLost s t
    else if agIsCore p.src then statusAt s (agCore p.src) p t 0x25
    else s
  | 1 =>
    match p.body with
    | .marker _ t => fenceackAt s (agCore p.src) t 0
    | .mdata _ _ _ _ (some m) => copyDone s p.src m (agChip p.dst) true
    | b =>
      let k := coreOf s (agCore p.src)
      let u := if agIsCore p.src then k.unack.find? fun u => decide (u.tok = t) else none
      let s := failRec s { cause := 0x25, kind := 0, inc := p.inc, cid := p.cid, msgid := (u.map (·.msgid)).getD 0, rank := (u.map (·.by_.1)).getD 0xFFFF,
                            aborts := (u.map (·.by_.2.2)).getD 0, subtag := (u.map fun u => subtagOf s u.by_.2.1).getD 0, detail := wd (match u with | some u => u.g | none => (bodySpan b).1) }
      match b with
      | .redc _ t => let (core, cmd, _) := engOf t; endRun s core cmd 0x25 0
      | _ => if isEng t then engDone s t true else markApplied s p.src t p.dst
  | 2 =>
    let s := match p.body with
      | .launch h mask _ => (setBits 64 0 mask).foldl (fun s i => let r := (h.trank + i) % 65536; failMsg s 0x25 p.cid p.inc r 0 { h with trank := r }) s
      | b => failMsg s 0x25 p.cid p.inc (hdrOf b).trank 0 (hdrOf b)
    markApplied (handleDead s p.src p 2) p.src p.tok p.dst
  | 3 =>
    let (f, s) := free s
    let s := failRec s { cause := 0x25, kind := 1, inc := p.inc, cid := p.cid, rank := (strmHdr p.body).trank, detail := Config.freeWord f }
    markApplied s p.src p.tok p.dst
  | _ => s

/-- The pair of chips declared unreachable in a class (02 R37; 10 R204): everything outstanding fails, ends whose peers lie there die, the other chip is
told in CTRL, and a supervisor core of the source die is notified. -/
def declareDead (s : State) (chip cls : Nat) : State :=
  let key := e2eKey chip cls
  let us := (e2eOf s key).unacked
  let s := updE2e s key fun e => { e with unacked := [] }
  let s := us.foldl (fun s u => failPacket s u.pkt) s
  let s := e2eDrain key (e2eOf s key).waiting.length s
  let s := peersDead s chip
  let die := (us.head?.map fun u => agDie u.pkt.src).getD 0
  let (cid, inc) := (us.head?.map fun u => (u.pkt.cid, u.pkt.inc)).getD (0, 0)
  let s := schedTrap s die (fabOf s die) cid inc [wd chip, wd cls]
  -- a declaration that is itself lost is not declared again
  if us.any (fun u => match u.pkt.body with | .mgmt 10 _ => true | _ => false) then s else mgmtTo s chip cid 0x21 (.mgmt 10 s.chip)

/-- A packet sent again over another route, keeping its SEQ; after three resends its pair of chips is unreachable. -/
def resendOut (s : State) (chip cls seq : Nat) : State :=
  let key := e2eKey chip cls
  match (e2eOf s key).unacked.find? fun u => decide (u.seq = seq) with
  | none => s
  | some u =>
    if u.resends ≥ 3 then declareDead s chip cls
    else
      { updE2e s key fun e => { e with unacked := e.unacked.map fun x => if x.seq = seq then { x with sent := s.now, resends := x.resends + 1 } else x } with
        egress := s.egress ++ [u.pkt] }

/-- E2ETO in cycles: 500 µs. -/
def e2eTo : Nat := 800000

/-- E2E_TIMEOUT (02 R37). -/
def execE2eTimeout (chip cls seq : Nat) (s : State) : Out :=
  match (e2eOf s (e2eKey chip cls)).unacked.find? fun u => decide (u.seq = seq) with
  | none => .next s
  | some u => if s.now - u.sent ≥ e2eTo then .next (resendOut s chip cls seq) else .next s

/-- RETRAIN_TIMEOUT (01 R24): a port that has not trained within 50 µs is DOWN, and the packets of its unacknowledged flits go to the end-to-end layer,
which sends them again at once. -/
def execRetrainTimeout (port : Nat) (s : State) : Out :=
  let p := portOf s port
  if isLink port = false ∨ p.state ≠ 1 ∨ s.now - p.trainAt ≤ trainMax then .next s
  else
    let ps := (p.replay.flatMap (·.pkts)).foldl (fun l q => addTo q l) []
    let s := updPort s port fun p => { p with state := 0, replay := [] }
    .next ((ps.filter fun q => !q.mcast && !q.comb && decide (q.cls ≠ 5)).foldl (fun s q => resendOut s (agChip q.dst) q.cls q.seq) s)

/-- Whether a counted store that came from a chip before a marker has not yet been applied on a die: it waits in its channel or behind a migration window. -/
def storeBefore (s : State) (chip die seq : Nat) : Bool :=
  let older := fun (p : Packet) => decide (agChip p.src = chip ∧ p.cls = 1 ∧ agDie p.dst = die % 2) && countedOp p.op && decide ((seq + 2 ^ 24 - p.seq - 1) % 2 ^ 24 < 2 ^ 23)
  (s.chans.any fun h => h.q.any older) || (dieAt s die).mig.toList.any fun w => w.held.any older

/-- FENCE_MARKER_ARRIVE (02 R38, R39): once the stores before the marker are applied, its count is compared with the stores taken from its chip up to its
turn; on a mismatch the count is set to the marker's, with what has been taken since. -/
def execFenceMarkerArrive (src die : Nat) (s : State) : Out :=
  let dst := fabOf s die
  match chanQ s src dst 1 with
  | [] => .next s
  | p :: _ =>
    match p.body with
    | .marker n t =>
      let s' := chanPop s src dst 1
      if !incOk s dst p.cid p.inc then .next (staleDrop s' p)
      else if storeBefore s (agChip src) die p.seq then .next s
      else if p.rseq % 2 ^ 32 = n % 2 ^ 32 then .next (respond s' p 0x19 (.fenceack t 0))
      else .next (respond (updDie s' die fun d => { d with taken := mupd d.taken (agChip src) 0 fun m => (n + 2 ^ 32 + m - p.rseq % 2 ^ 32) % 2 ^ 32 }) p 0x19 (.fenceack t 0x2A))
    | _ => .next s

/-! ### Multicast (02 R42, R43) -/

/-- The chips that a multicast packet is for, and the packet narrowed to some of them. -/
def destChips (p : Packet) : List Nat :=
  match p.body with
  | .mdata _ b _ _ _ => b
  | .result c _ _ => c.chips
  | _ => []

def narrowed (p : Packet) (chips : List Nat) : Packet :=
  match p.body with
  | .mdata m _ o w st => { p with body := .mdata m chips o w st }
  | .result c m st => { p with body := .result { c with chips := chips } m st }
  | _ => p

def swOf (s : State) (sw : Nat) : Switch := mgetD s.switches sw {}
def updSw (s : State) (sw : Nat) (f : Switch → Switch) : State := { s with switches := mupd s.switches sw {} f }

/-- Whether a multicast packet or contribution can be there: this chip's own has been sent, others come from outside. -/
def onWire (s : State) (p : Packet) (chip : Nat) : Bool := decide (p ∈ s.wire) || decide (chip ≠ s.chip)

def offWire (s : State) (p : Packet) : State := { s with wire := s.wire.erase p }

/-- The output port of a switch toward a chip. -/
def routePort (w : Switch) (chip : Nat) : Option Nat := (mget w.routes chip).map fun v => v % 2 ^ 32

/-- MULTICAST_REPLICATE (02 R42): one copy on each output port that leads to a chip of the bitmap, with the bitmap narrowed, and a replication entry, which
a resent packet finds still standing. A packet that finds no entry free waits. -/
def execMulticastReplicate (sw : Nat) (p : Packet) (s : State) : Out :=
  let w := swOf s sw
  let chips := destChips p
  let ports := (chips.filterMap (routePort w)).foldl addSorted []
  let again := fun (r : RepE) => decide (r.src = p.src ∧ r.mtag = p.seq)
  if p.mcast = false ∨ onWire s p (agChip p.src) = false ∨ ports = [] ∨ (w.reps.length ≥ 4096 ∧ w.reps.any again = false) then .next s
  else
    let copies := ports.map fun o => narrowed p (chips.filter fun c => decide (routePort w c = some o))
    let s := offWire s p
    let s := updSw s sw fun w =>
      { w with reps := if w.reps.any again then w.reps.map fun r => if again r then { r with since := s.now } else r
                       else w.reps ++ [{ src := p.src, mtag := p.seq, left := ports, since := s.now }] }
    .next { s with wire := s.wire ++ copies }

/-- REPLICATION_ENTRY_TIMEOUT (02 R42): an entry that has not heard from every branch within 2 x E2ETO is freed, with no answer. -/
def execReplicationEntryTimeout (sw src mtag : Nat) (s : State) : Out :=
  .next (updSw s sw fun w => { w with reps := w.reps.filter fun r => !decide (r.src = src ∧ r.mtag = mtag ∧ s.now - r.since ≥ 2 * e2eTo) })

/-- MULTICAST_LEAF_DELIVER (02 R42, R43): a multicast packet reaches this chip; a repeat of a pair that it keeps is not applied. -/
def execMulticastLeafDeliver (p : Packet) (s : State) : Out :=
  if p.mcast = false ∨ s.chip ∉ destChips p ∨ onWire s p (agChip p.src) = false then .next s
  else
    let s := offWire s p
    if (pairOfTag s p.src p.seq).isSome then .next (notePair s p.src p.seq false true)
    else
      let (drop, s) := leafApply s p
      .next (notePair s p.src p.seq drop true)

/-- BFACK_SEND (02 R43): the answer of this chip for a pair. -/
def execBfackSend (src mtag : Nat) (s : State) : Out :=
  match pairOfTag s src mtag with
  | none => .next s
  | some x =>
    if x.due = false then .next s
    else
      let p : Packet := { src := fabOf s 0, dst := src, cls := 5, op := 0x13, len := 1, body := .bfack mtag x.drop }
      .next { s with pairs := s.pairs.map fun y => if y = x then { y with due := false } else y, egress := s.egress ++ [p] }

/-- MTAG_PAIR_EXPIRE (02 R43): after 5 ms. -/
def execMtagPairExpire (src mtag : Nat) (s : State) : Out :=
  .next { s with pairs := s.pairs.filter fun x => !decide (x.src = src ∧ x.mtag = mtag ∧ s.now - x.since ≥ 8000000) }

/-- A combining group of a result is freed at its root. -/
def groupFreed (s : State) (p : Packet) : State :=
  match p.body with
  | .result c _ _ =>
    { s with switches := s.switches.map fun w =>
        (w.1, { w.2 with groups := w.2.groups.filter fun g => !decide (g.sent = true ∧ g.c.cid = c.cid ∧ g.c.inc = c.inc ∧ g.c.gid = c.gid ∧ g.c.round = c.round) }) }
  | _ => s

/-- A packet's final BFACK: it completes at its source. -/
def mcastDone (s : State) (m : MOut) (drop : Bool) : State :=
  let s := groupFreed { s with mouts := s.mouts.erase m } m.pkt
  if isEng m.tok then engDone s m.tok (m.drop || drop) else s

/-- BFACK_RECEIVE (02 R43) for the packet with tag mtag mod 2^24: at a switch, from the branch behind its output port mtag / 2^24; with the last branch one goes upward. At the source, where the switches
of this state have nothing outstanding for the packet and this chip, if it is a leaf, has answered. The header source of a switch's BFACK and the way it
takes are not stated: DESIGN CHOICE, this chip's fabric agent and this chip's ports (log 52). -/
def execBfackReceive (sw : Option Nat) (src mtag : Nat) (drop : Bool) (s : State) : Out :=
  let branch := mtag / 2 ^ 24
  let mtag := mtag % 2 ^ 24
  match sw with
  | some n =>
    match (swOf s n).reps.find? fun r => decide (r.src = src ∧ r.mtag = mtag ∧ branch ∈ r.left) with
    | none => .next s
    | some r =>
      let d := r.drop || drop
      let left := without branch r.left
      if left = [] then
        let s := updSw s n fun w => { w with reps := w.reps.erase r }
        .next { s with egress := s.egress ++ [{ src := fabOf s 0, dst := src, cls := 5, op := 0x13, len := 1, body := .bfack mtag d }] }
      else .next (updSw s n fun w => { w with reps := w.reps.map fun x => if x = r then { x with left := left, drop := d } else x })
  | none =>
    match s.mouts.find? fun m => decide (m.src = src ∧ m.mtag = mtag) && m.uni.isNone with
    | none => .next s
    | some m =>
      let own := decide (s.chip ∈ destChips m.pkt) && !((pairOfTag s src mtag).any fun x => !x.due)
      let open_ := s.switches.any fun w => w.2.reps.any fun r => decide (r.src = src ∧ r.mtag = mtag)
      if own || open_ then .next s else .next (mcastDone s m drop)

/-- The unicast copies of a COPY.M packet that three resends have not delivered (02 R43): this chip's own part is applied here. -/
def unicastCopies (s : State) (m : MOut) : State :=
  let chips := destChips m.pkt
  let others := chips.filter fun c => decide (c ≠ s.chip)
  let send := fun (s : State) (c : Nat) =>
    match (narrowed m.pkt [c]).body with
    | .mdata t b o w _ => emit s { m.pkt with dst := c * 65536 + 7 * 4096, mcast := false, seq := 0, body := .mdata t b o w (some m.mtag) }
    | _ => s
  let (drop, s) :=
    if decide (s.chip ∈ chips) && (pairOfTag s m.src m.mtag).isNone then let (d, s) := leafApply s m.pkt; (d, notePair s m.src m.mtag d false) else (false, s)
  if others = [] then mcastDone s m drop
  else others.foldl send { s with mouts := s.mouts.map fun x => if x = m then { x with uni := some others, drop := x.drop || drop } else x }

/-- MULTICAST_RESEND (02 R43): E2ETO without the final BFACK. The packet goes again, three times at most; then COPY.M falls back to unicast, and a
root switch frees its group. -/
def execMulticastResend (src mtag : Nat) (s : State) : Out :=
  match s.mouts.find? fun m => decide (m.src = src ∧ m.mtag = mtag) && m.uni.isNone with
  | none => .next s
  | some m =>
    if s.now - m.sent < e2eTo then .next s
    else if m.resends < 3 then
      let s := { s with mouts := s.mouts.map fun x => if x = m then { x with sent := s.now, resends := m.resends + 1 } else x }
      .next (if isEng m.tok then { s with egress := s.egress ++ [m.pkt] } else { s with wire := s.wire ++ [m.pkt] })
    else if isEng m.tok then
      if (destChips m.pkt).all fun c => canSend s (c * 65536) 1 then .next (unicastCopies s m) else .next s
    else .next (groupFreed { s with mouts := s.mouts.erase m } m.pkt)

/-! ### In-switch combining (02 R44 to R48) -/

/-- Whether two contributions belong to one group, and whether they agree in all that a group fixes. -/
def sameGroup (a b : Contrib) : Bool := decide (a.cid = b.cid ∧ a.inc = b.inc ∧ a.gid = b.gid ∧ a.round = b.round)
def agrees (a b : Contrib) : Bool := decide (a.op = b.op ∧ a.typ = b.typ ∧ a.arr = b.arr ∧ a.len = b.len ∧ a.pmask = b.pmask ∧ a.chips = b.chips ∧ a.vals.length = b.vals.length)

/-- The chips whose contributions one carries. -/
def fromChips (c : Contrib) : List Nat := c.chip :: c.also

/-- Two sets of values combined, the first the left operand. -/
def combine (op typ : Nat) (a b : List Nat) : List Nat := if op = 3 then rescale a b else List.zipWith (combEl op typ rne) a b

/-- The value of a group: the tree over chip identifiers, or the contributions as they came (02 R46). -/
def groupValue (g : CombG) : List Nat :=
  if g.c.arr then
    match g.got with
    | [] => []
    | x :: xs => xs.foldl (fun v y => combine g.c.op g.c.typ v y.vals) x.vals
  else (treeRed (fun _ a b => combine g.c.op g.c.typ a b) 10 0 1 (g.got.map fun x => (x.chip, x.vals))).getD []

/-- The result of a group sent from its root to every chip of the mask (02 R42, R47). What DCHIP and DAGENT of a multicast packet hold is not stated: DESIGN
CHOICE, zero (log 52). -/
def sendResult (s : State) (sw : Nat) (g : CombG) (status : Nat) : State :=
  let c := { g.c with vals := if status = 0 then groupValue g else [], also := [] }
  let m := s.mtagNext
  let src := c.chips.foldl min (c.chips.headD 0) * 65536 + 7 * 4096 + 0xFFF
  let p : Packet := { src := src, dst := 0, cls := 6, op := 0x1D, cid := c.cid, inc := c.inc, seq := m, mcast := true, comb := true,
                      len := 10 + (c.vals.length * elSize c.typ + 15) / 16, body := .result c m status }
  let s := updSw s sw fun w => { w with groups := w.groups.map fun x => if x = g then { g with sent := true } else x }
  { s with mtagNext := (m + 1) % 2 ^ 24, wire := s.wire ++ [p]
           mouts := s.mouts ++ [{ mtag := m, src := src, cid := c.cid, inc := c.inc, core := 0, tok := 0, pkt := p, sent := s.now }] }

/-- Whether a switch is the root of a contribution's group. -/
def isRoot (w : Switch) (c : Contrib) : Bool := (mget w.routes (c.chips.foldl min (c.chips.headD 0))).any fun v => decide (2 ^ 32 ≤ v)

/-- A contribution at the group's root: one that disagrees is dropped and spoils the group; with the last of them the result goes out. -/
def atRoot (s : State) (sw : Nat) (c : Contrib) : Option State :=
  let w := swOf s sw
  let finish := fun (s : State) (g : CombG) =>
    let have_ := g.got.flatMap fromChips
    if g.c.chips.all fun x => decide (x ∈ have_) then sendResult s sw g (if g.bad then 0x6E else 0) else s
  match w.groups.find? fun g => sameGroup g.c c with
  | none =>
    if w.groups.length ≥ 1024 then none
    else
      let g : CombG := { c := c, got := [c], since := s.now }
      some (finish (updSw s sw fun w => { w with groups := w.groups ++ [g] }) g)
  | some g =>
    if g.sent ∨ (fromChips c).any (fun x => decide (x ∈ g.got.flatMap fromChips)) = true then some s
    else
      let g' := if agrees g.c c then { g with got := g.got ++ [c] } else { g with got := g.got ++ [{ c with vals := [] }], bad := true }
      some (finish (updSw s sw fun w => { w with groups := w.groups.map fun x => if x = g then g' else x }) g')

/-- A contribution at a switch below the root: forwarded unchanged in ordered mode; in arrival mode combined with one of its group that waits to go on,
the earlier as the left operand (02 R46). -/
def belowRoot (s : State) (c : Contrib) : State :=
  let fwd : Packet := { src := c.chip * 65536 + 7 * 4096, dst := 0, cls := 6, op := 0x1C, cid := c.cid, inc := c.inc, comb := true,
                        len := 1 + (c.vals.length * elSize c.typ + 15) / 16, body := .contrib c }
  let mate := s.wire.findSome? fun p => match p.body with | .contrib x => if c.arr && sameGroup x c && agrees x c && decide (p.src % 65536 = 7 * 4096) then some (p, x) else none | _ => none
  match mate with
  | some (p, x) =>
    let y := { x with also := x.also ++ fromChips c, vals := combine c.op c.typ x.vals c.vals }
    { s with wire := s.wire.map fun q => if q = p then { p with body := .contrib y } else q }
  | none => { s with wire := s.wire ++ [fwd] }

/-- COMB_CONTRIBUTION_ARRIVE (02 R44 to R47). This chip's own contribution has been sent; a full root waits. -/
def execCombContributionArrive (sw : Nat) (c : Contrib) (s : State) : Out :=
  let there := s.wire.find? fun p => decide (p.body = .contrib c)
  if there.isNone ∧ s.chip ∈ fromChips c then .next s
  else
    let s' := match there with | some p => offWire s p | none => s
    -- a contribution of an old incarnation takes part in no group (02 R47)
    if !incOk s (fabOf s 0) c.cid c.inc then .next s'
    else if isRoot (swOf s sw) c then (match atRoot s' sw c with | some t => .next t | none => .next s) else .next (belowRoot s' c)

/-- COMBTO_EXPIRE (02 R47): 10 ms after a group's first contribution, its root sends a result with INCOMPLETE and no data. -/
def execCombtoExpire (sw cid gid round : Nat) (s : State) : Out :=
  match (swOf s sw).groups.find? fun g => decide (g.c.cid = cid ∧ g.c.gid = gid ∧ g.c.round = round) && !g.sent with
  | none => .next s
  | some g => if s.now - g.since ≥ combTo then .next (sendResult s sw g 0x6F) else .next s

end Sys2Proof.Machine
end

