-- ==== Sys2Proof/WellFormed.lean ====
section
/-! DEFINITION. Which instruction terms are words of the instruction set (R229, R233, R234, R331, R342, R345): the fields that
an encoding can hold but that the spec reserves. What an instruction checks of the state it runs in stands with its meaning. -/

namespace Sys2Proof

/-- A type code of R232 that is not reserved. -/
def typeOk (t : BitVec 4) : Bool := decide (t.toNat ≤ 12)

/-- A destination type of VCVT (R317): any code but the reserved 12 to 15. -/
def cvtDstOk (t : BitVec 4) : Bool := decide (t.toNat ≤ 11)

/-- An atomic operator of R233: 0 to 10. -/
def amoOpOk (op : BitVec 4) : Bool := decide (op.toNat ≤ 10)

/-- RSTN's size code and bit offset (R233, R234): size 3 is reserved and the offset is a multiple of the size in bits. -/
def nibOk (off : BitVec 3) (size : BitVec 2) : Bool := decide (size.toNat ≠ 3) && decide (off.toNat % 2 ^ size.toNat = 0)

/-- SENDNZ's element fields (R331): ESIZE 3 is reserved, and so is FLT with ESIZE 0. -/
def scanOk (es : BitVec 2) (flt : BitVec 1) : Bool := decide (es.toNat ≠ 3) && !(decide (flt = 1) && decide (es = 0))

/-- The CODE of a tile command's word 0 (R236). -/
def cmdCode (w0 : Word) : Nat := w0.toNat / 2 ^ 56

/-- Well-formedness of an instruction term. Steps of other agents have no encoding and so no fields to reserve. -/
def Instr.wf : Instr → Bool
  | .amo _ _ _ op _ => amoOpOk op
  | .ramo _ _ _ op _ => amoOpOk op
  | .rstn _ _ off size => nibOk off size
  | .sendnz _ _ _ es flt => scanOk es flt
  | .sendnzStream _ _ _ es flt => scanOk es flt
  | .launch _ _ _ n => decide (n.toNat ≤ 256)
  | .dspn _ _ _ n => decide (n.toNat ≤ 32)
  | .vld _ _ t _ => typeOk t
  | .vst _ _ t _ => typeOk t
  | .vlds _ _ _ t _ => typeOk t
  | .vsts _ _ _ t _ => typeOk t
  | .vgath _ _ _ t _ => typeOk t
  | .vscat _ _ _ t _ => typeOk t
  | .vadd _ _ _ t _ => typeOk t
  | .vsub _ _ _ t _ => typeOk t
  | .vmul _ _ _ t _ => typeOk t
  | .vfma _ _ _ t _ => typeOk t
  | .vmin _ _ _ t _ => typeOk t
  | .vmax _ _ _ t _ => typeOk t
  | .vabs _ _ t _ => typeOk t
  | .vneg _ _ t _ => typeOk t
  | .vand _ _ _ t _ => typeOk t
  | .vor _ _ _ t _ => typeOk t
  | .vxor _ _ _ t _ => typeOk t
  | .vshl _ _ _ t _ => typeOk t
  | .vshr _ _ _ t _ => typeOk t
  | .vsra _ _ _ t _ => typeOk t
  | .vcmpEq _ _ _ t _ => typeOk t
  | .vcmpNe _ _ _ t _ => typeOk t
  | .vcmpLt _ _ _ t _ => typeOk t
  | .vcmpLe _ _ _ t _ => typeOk t
  | .vcmpGt _ _ _ t _ => typeOk t
  | .vcmpGe _ _ _ t _ => typeOk t
  | .vcmpUn _ _ _ t _ => typeOk t
  | .vsel _ _ _ t _ => typeOk t
  | .vcvt _ _ src t _ => typeOk src && cvtDstOk t
  | .vred _ _ op t _ => decide (op.toNat ≤ 5) && typeOk t
  | .vperm _ _ _ t _ => typeOk t
  | .vbcst _ _ t _ => typeOk t
  | .vext _ _ _ t => typeOk t
  | .vins _ _ _ t => typeOk t
  | .vpopc _ _ t _ => typeOk t
  | .vclmul _ _ _ t _ => typeOk t
  | .vclmulh _ _ _ t _ => typeOk t
  | .zclr w0 _ _ _ => decide (cmdCode w0 = 0x01)
  | .zld w0 _ _ _ => decide (cmdCode w0 = 0x02)
  | .zst w0 _ _ _ => decide (cmdCode w0 = 0x03)
  | .mmaS w0 _ _ _ => decide (cmdCode w0 = 0x04)
  | .mmaG w0 _ _ _ => decide (cmdCode w0 = 0x05)
  | .copy w0 _ _ _ => decide (cmdCode w0 = 0x10)
  | .copyM w0 _ _ _ => decide (cmdCode w0 = 0x11)
  | .red w0 _ _ _ => decide (cmdCode w0 = 0x12)
  | .layreg w0 _ _ _ => decide (cmdCode w0 = 0x13)
  | .laydrop w0 _ _ _ => decide (cmdCode w0 = 0x14)
  | .strfill w0 _ _ _ => decide (cmdCode w0 = 0x20)
  | .strdrain w0 _ _ _ => decide (cmdCode w0 = 0x21)
  | .nicpost w0 _ _ _ => decide (cmdCode w0 = 0x30)
  | .niccq w0 _ _ _ => decide (cmdCode w0 = 0x31)
  | .coll w0 _ _ _ => decide (cmdCode w0 = 0x40)
  | .cprobe w0 _ _ _ => decide (cmdCode w0 = 0x41)
  | _ => true

end Sys2Proof
end

