-- ==== Sys2Proof/Decode.lean ====
section
/-! DEFINITION. The decoder of scalar words (R229 to R234) and of tile command words (R236, R237), and after it the encoder,
from the same tables. Decoding is total: a word that is no instruction is rejected by the name of what is wrong with it. -/

namespace Sys2Proof

/-- Why a word is not an instruction (R234, R237). -/
inductive DecodeError where
  /-- opcode 0x00, 0x7F or an unassigned one -/
  | unassignedOpcode (op : Nat)
  /-- a reserved func value -/
  | reservedFunc (op fn : Nat)
  /-- a non-zero unused field or reserved bit -/
  | reservedField (op : Nat)
  /-- a width other than 3 where R229 requires it -/
  | badWidth (op : Nat)
  /-- a reserved OP, size, type code or length, or an offset that is not a multiple of the size -/
  | reservedCode (op : Nat)
  /-- CODE is not in the table of R237 -/
  | unknownCommand (code : Nat)
  /-- fewer bytes than an instruction has -/
  | tooShort
  deriving DecidableEq, Repr

/-- The upper m bits of an (m + n)-bit field. -/
def hiF (m n : Nat) (x : BitVec (m + n)) : BitVec m := x.extractLsb' n m

/-- The lower n bits of an (m + n)-bit field. -/
def loF (m n : Nat) (x : BitVec (m + n)) : BitVec n := x.extractLsb' 0 n

/-- i when the fields that the instruction does not use are zero (R229), else the rejection. -/
def whenZero (op : Nat) (z : Bool) (i : Instr) : Except DecodeError Instr :=
  if z then .ok i else .error (.reservedField op)


/-- Opcode 0x01 (R231, R254 to R256). -/
def decodeAlu (rd ra rb : Reg) (fn : Nat) : Except DecodeError Instr :=
  match fn with
  | 0 => .ok (.add rd ra rb)
  | 1 => .ok (.sub rd ra rb)
  | 2 => .ok (.and rd ra rb)
  | 3 => .ok (.or rd ra rb)
  | 4 => .ok (.xor rd ra rb)
  | 5 => .ok (.andn rd ra rb)
  | 8 => .ok (.sll rd ra rb)
  | 9 => .ok (.srl rd ra rb)
  | 10 => .ok (.sra rd ra rb)
  | 11 => .ok (.rol rd ra rb)
  | 12 => .ok (.ror rd ra rb)
  | 16 => .ok (.slt rd ra rb)
  | 17 => .ok (.sltn rd ra rb)
  | 18 => .ok (.min rd ra rb)
  | 19 => .ok (.max rd ra rb)
  | 20 => .ok (.minn rd ra rb)
  | 21 => .ok (.maxn rd ra rb)
  | f => .error (.reservedFunc 0x01 f)


/-- Opcode 0x02 (R231, R257, R258). -/
def decodeMul (rd ra rb : Reg) (fn : Nat) : Except DecodeError Instr :=
  match fn with
  | 0 => .ok (.mul rd ra rb)
  | 1 => .ok (.mulh rd ra rb)
  | 2 => .ok (.mulhn rd ra rb)
  | 4 => .ok (.div rd ra rb)
  | 5 => .ok (.divn rd ra rb)
  | 6 => .ok (.rem rd ra rb)
  | 7 => .ok (.remn rd ra rb)
  | f => .error (.reservedFunc 0x02 f)


/-- Opcode 0x03 (R231, R261, R263, R264). -/
def decodeBits (rd ra rb : Reg) (fn : Nat) : Except DecodeError Instr :=
  match fn with
  | 0 => whenZero 0x03 (rb == 0) (.clz rd ra)
  | 1 => whenZero 0x03 (rb == 0) (.ctz rd ra)
  | 2 => whenZero 0x03 (rb == 0) (.popc rd ra)
  | 3 => whenZero 0x03 (rb == 0) (.brev rd ra)
  | 4 => whenZero 0x03 (rb == 0) (.bswap rd ra)
  | 8 => .ok (.clmul rd ra rb)
  | 9 => .ok (.clmulh rd ra rb)
  | 12 => .ok (.sel rd ra rb)
  | f => .error (.reservedFunc 0x03 f)


/-- Opcodes 0x04 to 0x06 (R230, R262): imm 5:0 position, 11:6 length - 1, 14:12 zero. -/
def decodeField (op : Nat) (mk : Reg → Reg → BitVec 6 → BitVec 6 → Instr) (rd ra : Reg) (imm : BitVec 15) : Except DecodeError Instr :=
  whenZero op (hiF 3 12 imm == 0) (mk rd ra (hiF 6 6 (loF 3 12 imm)) (loF 6 6 (loF 3 12 imm)))


/-- Opcodes 0x0C to 0x0E (R230, R259): imm 5:0 the count, 14:6 zero. -/
def decodeShift (op : Nat) (mk : Reg → Reg → BitVec 6 → Instr) (rd ra : Reg) (imm : BitVec 15) : Except DecodeError Instr :=
  whenZero op (hiF 9 6 imm == 0) (mk rd ra (loF 9 6 imm))


/-- Opcode 0x2A (R269). -/
def decodeLoopi (l : BitVec 5) (imm : BitVec 20) : Except DecodeError Instr :=
  if hiF 1 19 imm == 0 then .ok (.loopi l (loF 1 19 imm))
  else whenZero 0x2A (hiF 14 5 (loF 1 19 imm) == 0) (.loopiReg l (loF 14 5 (loF 1 19 imm)))


/-- The width-3 loads and stores of R229: LD.F, ST.F, FEC and FES. -/
def decodeWide (op : Nat) (mk : Reg → Reg → BitVec 13 → Instr) (r1 r2 : Reg) (imm : BitVec 15) : Except DecodeError Instr :=
  if hiF 2 13 imm == 3 then .ok (mk r1 r2 (loF 2 13 imm)) else .error (.badWidth op)


/-- Opcodes 0x37 and 0x3B (R233): 9:6 OP, 5:4 width, 3:0 zero. -/
def decodeAmo (op : Nat) (mk : Reg → Reg → Reg → BitVec 4 → BitVec 2 → Instr) (rd ra rb : Reg) (f : BitVec 10) : Except DecodeError Instr :=
  whenZero op (loF 2 4 (loF 4 6 f) == 0) (mk rd ra rb (hiF 4 6 f) (hiF 2 4 (loF 4 6 f)))


/-- Opcode 0x38 (R233): 1:0 width, 2 ZX, 3 ACQ, 9:4 zero; rb zero. -/
def decodeRld (rd ra rb : Reg) (f : BitVec 10) : Except DecodeError Instr :=
  whenZero 0x38 (rb == 0 && hiF 6 4 f == 0)
    (if hiF 1 3 (loF 6 4 f) == 0 then .rld rd ra (hiF 1 2 (loF 1 3 (loF 6 4 f))) (loF 1 2 (loF 1 3 (loF 6 4 f)))
     else .rldAcq rd ra (hiF 1 2 (loF 1 3 (loF 6 4 f))) (loF 1 2 (loF 1 3 (loF 6 4 f))))


/-- Opcode 0x39 (R233): 1:0 width, 9:2 zero; rd zero. -/
def decodeRst (rd ra rb : Reg) (f : BitVec 10) : Except DecodeError Instr :=
  whenZero 0x39 (rd == 0 && hiF 8 2 f == 0) (.rst ra rb (loF 8 2 f))


/-- Opcode 0x3A (R233): 1:0 size, 4:2 offset, 9:5 zero; rd zero. -/
def decodeRstn (rd ra rb : Reg) (f : BitVec 10) : Except DecodeError Instr :=
  whenZero 0x3A (rd == 0 && hiF 5 5 f == 0) (.rstn ra rb (hiF 3 2 (loF 5 5 f)) (loF 3 2 (loF 5 5 f)))


/-- Opcode 0x3C (R233): 0 POLICY, 9:1 zero. -/
def decodeHins (rd ra rb : Reg) (f : BitVec 10) : Except DecodeError Instr :=
  whenZero 0x3C (hiF 9 1 f == 0) (if loF 9 1 f == 0 then .hins rd ra rb else .hinsTag rd ra rb)


/-- Opcode 0x3D (R231, R302 to R304). -/
def decodeFence (rd ra rb : Reg) (fn : Nat) : Except DecodeError Instr :=
  match fn with
  | 0 => whenZero 0x3D (rd == 0 && ra == 0 && rb == 0) .flush
  | 16 => whenZero 0x3D (rd == 0 && ra == 0 && rb == 0) .fenceRow
  | 17 => whenZero 0x3D (rd == 0 && ra == 0 && rb == 0) .fenceDie
  | 18 => whenZero 0x3D (rd == 0 && ra == 0 && rb == 0) .fencePkg
  | 19 => whenZero 0x3D (rd == 0 && ra == 0 && rb == 0) .fenceFab
  | 32 => .ok (.waitm rd ra rb)
  | f => .error (.reservedFunc 0x3D f)


/-- Opcode 0x41 (R331): 9 DST, 8:6 zero, 5:4 ESIZE, 3 FLT, 2:0 zero. -/
def decodeSendnz (rd ra rb : Reg) (f : BitVec 10) : Except DecodeError Instr :=
  whenZero 0x41 (hiF 3 6 (loF 1 9 f) == 0 && loF 1 3 (loF 2 4 (loF 3 6 (loF 1 9 f))) == 0 && (hiF 1 9 f == 0 || hiF 1 4 rd == 0))
    (if hiF 1 9 f == 0 then .sendnz rd ra rb (hiF 2 4 (loF 3 6 (loF 1 9 f))) (hiF 1 3 (loF 2 4 (loF 3 6 (loF 1 9 f))))
     else .sendnzStream (loF 1 4 rd) ra rb (hiF 2 4 (loF 3 6 (loF 1 9 f))) (hiF 1 3 (loF 2 4 (loF 3 6 (loF 1 9 f)))))


/-- Opcode 0x43 (R231, R333 to R337). -/
def decodeStream (rd ra rb : Reg) (fn : Nat) : Except DecodeError Instr :=
  match fn with
  | 0 => .ok (.strnew rd ra rb)
  | 1 => .ok (.strbind rd ra rb)
  | 2 => whenZero 0x43 (rb == 0) (.strunb rd ra)
  | 3 => .ok (.streos rd ra rb)
  | 4 => whenZero 0x43 (rb == 0) (.strstat rd ra)
  | f => .error (.reservedFunc 0x43 f)


/-- Opcode 0x44 (R231, R338, R339). -/
def decodeExit (rd ra rb : Reg) (fn : Nat) : Except DecodeError Instr :=
  match fn with
  | 0 => whenZero 0x44 (rd == 0 && ra == 0 && rb == 0) .exit
  | 1 => whenZero 0x44 (rd == 0) (.exitS ra rb)
  | f => .error (.reservedFunc 0x44 f)


/-- Opcode 0x45 (R231, R340). -/
def decodeBar (rd ra rb : Reg) (fn : Nat) : Except DecodeError Instr :=
  match fn with
  | 0 => whenZero 0x45 (ra == 0 && rb == 0) (.bar rd)
  | 1 => whenZero 0x45 (ra == 0 && rb == 0) (.barA rd)
  | 2 => whenZero 0x45 (rb == 0) (.barT rd ra)
  | 3 => whenZero 0x45 (rb == 0) (.barTP rd ra)
  | 4 => whenZero 0x45 (ra == 0 && rb == 0) (.crewbar rd)
  | 5 => whenZero 0x45 (ra == 0 && rb == 0) (.crewbarA rd)
  | 6 => whenZero 0x45 (rb == 0) (.crewbarT rd ra)
  | f => .error (.reservedFunc 0x45 f)


/-- Opcode 0x46 (R342): 8:0 n, 9 zero. -/
def decodeLaunch (rd ra rb : Reg) (f : BitVec 10) : Except DecodeError Instr :=
  whenZero 0x46 (hiF 1 9 f == 0) (.launch rd ra rb (loF 1 9 f))


/-- Opcode 0x48 (R345): 5:0 n, 9:6 zero. -/
def decodeDspn (rd ra rb : Reg) (f : BitVec 10) : Except DecodeError Instr :=
  whenZero 0x48 (hiF 4 6 f == 0) (.dspn rd ra rb (loF 4 6 f))


/-- Opcode 0x4A (R347): 1:0 q, 2 CLR, 9:3 zero; rd and rb zero. -/
def decodeSetev (rd ra rb : Reg) (f : BitVec 10) : Except DecodeError Instr :=
  whenZero 0x4A (rd == 0 && rb == 0 && hiF 7 3 f == 0)
    (if hiF 1 2 (loF 7 3 f) == 0 then .setev ra (loF 1 2 (loF 7 3 f)) else .setevClr ra (loF 1 2 (loF 7 3 f)))


/-- Opcodes 0x50 to 0x53 (R230, R273): imm 11:0 the register number, 14:12 zero; the unused register field zero. -/
def decodeCsr (op : Nat) (z : Reg) (mk : BitVec 12 → Instr) (imm : BitVec 15) : Except DecodeError Instr :=
  whenZero op (z == 0 && hiF 3 12 imm == 0) (mk (loF 3 12 imm))


/-- Opcode 0x55 (R231, R275, R286). -/
def decodeSystem (rd ra rb : Reg) (fn : Nat) : Except DecodeError Instr :=
  match fn with
  | 0 => whenZero 0x55 (rd == 0 && ra == 0 && rb == 0) .rta
  | 1 => whenZero 0x55 (rd == 0 && ra == 0 && rb == 0) .abort
  | 2 => whenZero 0x55 (rd == 0 && ra == 0 && rb == 0) .bkpt
  | 3 => .ok (.halt rd ra rb)
  | f => .error (.reservedFunc 0x55 f)


/-- Opcode 0x56 (R231, R277, R278). -/
def decodeCtx (rd ra rb : Reg) (fn : Nat) : Except DecodeError Instr :=
  match fn with
  | 0 => whenZero 0x56 (rb == 0) (.ctxKill rd ra)
  | 1 => whenZero 0x56 (rb == 0) (.ctxRecl rd ra)
  | f => .error (.reservedFunc 0x56 f)


/-- Opcode 0x5A (R231, R283, R287). -/
def decodeSlot (rd ra rb : Reg) (fn : Nat) : Except DecodeError Instr :=
  match fn with
  | 0 => .ok (.slotsave rd ra rb)
  | 1 => whenZero 0x5A (rb == 0) (.slotdrop rd ra)
  | f => .error (.reservedFunc 0x5A f)


/-- An A-format opcode whose one func value is 0. -/
def decodeOne (op : Nat) (fn : Nat) (z : Bool) (i : Instr) : Except DecodeError Instr :=
  if fn = 0 then whenZero op z i else .error (.reservedFunc op fn)


/-- Opcode 0x60 (R232, R306). -/
def decodeVmem (a b c : Reg) (t : BitVec 4) (m : BitVec 3) (fn : Nat) : Except DecodeError Instr :=
  match fn with
  | 0 => whenZero 0x60 (c == 0) (.vld a b t m)
  | 1 => whenZero 0x60 (c == 0) (.vst a b t m)
  | 2 => .ok (.vlds a b c t m)
  | 3 => .ok (.vsts a b c t m)
  | 4 => .ok (.vgath a b c t m)
  | 5 => .ok (.vscat a b c t m)
  | f => .error (.reservedFunc 0x60 f)


/-- Opcode 0x61 (R232, R306). -/
def decodeVarith (a b c : Reg) (t : BitVec 4) (m : BitVec 3) (fn : Nat) : Except DecodeError Instr :=
  match fn with
  | 0 => .ok (.vadd a b c t m)
  | 1 => .ok (.vsub a b c t m)
  | 2 => .ok (.vmul a b c t m)
  | 3 => .ok (.vfma a b c t m)
  | 4 => .ok (.vmin a b c t m)
  | 5 => .ok (.vmax a b c t m)
  | 6 => whenZero 0x61 (c == 0) (.vabs a b t m)
  | 7 => whenZero 0x61 (c == 0) (.vneg a b t m)
  | f => .error (.reservedFunc 0x61 f)


/-- Opcode 0x62 (R232, R306). -/
def decodeVlogic (a b c : Reg) (t : BitVec 4) (m : BitVec 3) (fn : Nat) : Except DecodeError Instr :=
  match fn with
  | 0 => .ok (.vand a b c t m)
  | 1 => .ok (.vor a b c t m)
  | 2 => .ok (.vxor a b c t m)
  | 3 => .ok (.vshl a b c t m)
  | 4 => .ok (.vshr a b c t m)
  | 5 => .ok (.vsra a b c t m)
  | f => .error (.reservedFunc 0x62 f)


/-- Opcode 0x63 (R232, R306): kd in bits 22:20, bits 24:23 zero. -/
def decodeVcmp (a b c : Reg) (t : BitVec 4) (m : BitVec 3) (fn : Nat) : Except DecodeError Instr :=
  match fn with
  | 0 => whenZero 0x63 (hiF 2 3 a == 0) (.vcmpEq (loF 2 3 a) b c t m)
  | 1 => whenZero 0x63 (hiF 2 3 a == 0) (.vcmpNe (loF 2 3 a) b c t m)
  | 2 => whenZero 0x63 (hiF 2 3 a == 0) (.vcmpLt (loF 2 3 a) b c t m)
  | 3 => whenZero 0x63 (hiF 2 3 a == 0) (.vcmpLe (loF 2 3 a) b c t m)
  | 4 => whenZero 0x63 (hiF 2 3 a == 0) (.vcmpGt (loF 2 3 a) b c t m)
  | 5 => whenZero 0x63 (hiF 2 3 a == 0) (.vcmpGe (loF 2 3 a) b c t m)
  | 6 => whenZero 0x63 (hiF 2 3 a == 0) (.vcmpUn (loF 2 3 a) b c t m)
  | f => .error (.reservedFunc 0x63 f)


/-- Opcode 0x64 (R232, R306, R317). -/
def decodeVmove (a b c : Reg) (t : BitVec 4) (m : BitVec 3) (fn : Nat) : Except DecodeError Instr :=
  match fn with
  | 0 => .ok (.vsel a b c t m)
  | 1 => whenZero 0x64 (hiF 1 4 c == 0) (.vcvt a b (loF 1 4 c) t m)
  | 2 => .ok (.vred a b c t m)
  | 3 => .ok (.vperm a b c t m)
  | 4 => whenZero 0x64 (c == 0) (.vbcst a b t m)
  | 5 => whenZero 0x64 (m == 0) (.vext a b c t)
  | 6 => whenZero 0x64 (m == 0) (.vins a b c t)
  | 7 => whenZero 0x64 (c == 0) (.vpopc a b t m)
  | f => .error (.reservedFunc 0x64 f)


/-- Opcode 0x65 (R232, R306, R307): VEXP2, VRCP and VRSQ are of type f32 alone. -/
def decodeVspec (a b c : Reg) (t : BitVec 4) (m : BitVec 3) (fn : Nat) : Except DecodeError Instr :=
  match fn with
  | 0 => .ok (.vclmul a b c t m)
  | 1 => .ok (.vclmulh a b c t m)
  | 2 => if t == 8 then whenZero 0x65 (c == 0) (.vexp2 a b m) else .error (.reservedCode 0x65)
  | 3 => if t == 8 then whenZero 0x65 (c == 0) (.vrcp a b m) else .error (.reservedCode 0x65)
  | 4 => if t == 8 then whenZero 0x65 (c == 0) (.vrsq a b m) else .error (.reservedCode 0x65)
  | f => .error (.reservedFunc 0x65 f)


/-- Opcode 0x66 (R232, R306). -/
def decodeMask (a b c : Reg) (t : BitVec 4) (m : BitVec 3) (fn : Nat) : Except DecodeError Instr :=
  match fn with
  | 0 => whenZero 0x66 (hiF 2 3 a == 0 && hiF 2 3 b == 0 && t == 0 && m == 0 && hiF 2 3 c == 0) (.kand (loF 2 3 a) (loF 2 3 b) (loF 2 3 c))
  | 1 => whenZero 0x66 (hiF 2 3 a == 0 && hiF 2 3 b == 0 && t == 0 && m == 0 && hiF 2 3 c == 0) (.kor (loF 2 3 a) (loF 2 3 b) (loF 2 3 c))
  | 2 => whenZero 0x66 (hiF 2 3 a == 0 && hiF 2 3 b == 0 && t == 0 && m == 0 && c == 0) (.knot (loF 2 3 a) (loF 2 3 b))
  | f => .error (.reservedFunc 0x66 f)


/-- Opcode 0x67 (R232, R323). -/
def decodeVloop (a b c : Reg) (t : BitVec 4) (m : BitVec 3) (fn : Nat) : Except DecodeError Instr :=
  match fn with
  | 0 => whenZero 0x67 (c == 0 && t == 0 && m == 0) (.vloop a b)
  | f => .error (.reservedFunc 0x67 f)


/-- A V-format word's fields (R229): type in bits 9:6, mask in 5:3, func in 2:0. -/
def decodeV (op : Nat) (a b c : Reg) (f : BitVec 10) : Except DecodeError Instr :=
  let t := hiF 4 6 f
  let m := hiF 3 3 (loF 4 6 f)
  let fn := (loF 3 3 (loF 4 6 f)).toNat
  match op with
  | 0x60 => decodeVmem a b c t m fn
  | 0x61 => decodeVarith a b c t m fn
  | 0x62 => decodeVlogic a b c t m fn
  | 0x63 => decodeVcmp a b c t m fn
  | 0x64 => decodeVmove a b c t m fn
  | 0x65 => decodeVspec a b c t m fn
  | 0x66 => decodeMask a b c t m fn
  | _ => decodeVloop a b c t m fn

/-- The A-format opcodes (R229, R230): rd, ra, rb and func 9:0. -/
def decodeA (op : Nat) (rd ra rb : Reg) (f : BitVec 10) : Except DecodeError Instr :=
  match op with
  | 0x01 => decodeAlu rd ra rb f.toNat
  | 0x02 => decodeMul rd ra rb f.toNat
  | 0x03 => decodeBits rd ra rb f.toNat
  | 0x37 => decodeAmo 0x37 .amo rd ra rb f
  | 0x38 => decodeRld rd ra rb f
  | 0x39 => decodeRst rd ra rb f
  | 0x3A => decodeRstn rd ra rb f
  | 0x3B => decodeAmo 0x3B .ramo rd ra rb f
  | 0x3C => decodeHins rd ra rb f
  | 0x3D => decodeFence rd ra rb f.toNat
  | 0x40 => decodeOne 0x40 f.toNat true (.send rd ra rb)
  | 0x41 => decodeSendnz rd ra rb f
  | 0x42 => decodeOne 0x42 f.toNat true (.sendh rd ra rb)
  | 0x43 => decodeStream rd ra rb f.toNat
  | 0x44 => decodeExit rd ra rb f.toNat
  | 0x45 => decodeBar rd ra rb f.toNat
  | 0x46 => decodeLaunch rd ra rb f
  | 0x47 => decodeOne 0x47 f.toNat true (.ksub rd ra rb)
  | 0x48 => decodeDspn rd ra rb f
  | 0x49 => decodeOne 0x49 f.toNat true (.adjreg rd ra rb)
  | 0x4A => decodeSetev rd ra rb f
  | 0x4B => decodeOne 0x4B f.toNat (rb == 0) (.jcan rd ra)
  | 0x55 => decodeSystem rd ra rb f.toNat
  | 0x56 => decodeCtx rd ra rb f.toNat
  | 0x57 => decodeOne 0x57 f.toNat true (.tlbinv rd ra rb)
  | 0x58 => decodeOne 0x58 f.toNat true (.rankset rd ra rb)
  | 0x59 => decodeOne 0x59 f.toNat true (.resmove rd ra rb)
  | 0x5A => decodeSlot rd ra rb f.toNat
  | 0x5B => decodeOne 0x5B f.toNat true (.slotload rd ra rb)
  | op => .error (.unassignedOpcode op)

/-- The I-format and B-format opcodes (R229, R230): two register fields r1 (24:20) and r2 (19:15), and 15 bits. -/
def decodeI (op : Nat) (r1 r2 : Reg) (imm : BitVec 15) : Except DecodeError Instr :=
  match op with
  | 0x04 => decodeField 0x04 .exts r1 r2 imm
  | 0x05 => decodeField 0x05 .extz r1 r2 imm
  | 0x06 => decodeField 0x06 .ins r1 r2 imm
  | 0x08 => .ok (.addi r1 r2 imm)
  | 0x09 => .ok (.andi r1 r2 imm)
  | 0x0A => .ok (.ori r1 r2 imm)
  | 0x0B => .ok (.xori r1 r2 imm)
  | 0x0C => decodeShift 0x0C .slli r1 r2 imm
  | 0x0D => decodeShift 0x0D .srli r1 r2 imm
  | 0x0E => decodeShift 0x0E .srai r1 r2 imm
  | 0x0F => .ok (.slti r1 r2 imm)
  | 0x20 => .ok (.beq r1 r2 imm)
  | 0x21 => .ok (.bne r1 r2 imm)
  | 0x22 => .ok (.blt r1 r2 imm)
  | 0x23 => .ok (.bge r1 r2 imm)
  | 0x24 => .ok (.bltn r1 r2 imm)
  | 0x25 => .ok (.bgen r1 r2 imm)
  | 0x28 => whenZero 0x28 (r1 == 0) (.jr r2 imm)
  | 0x29 => .ok (.jalr r1 r2 imm)
  | 0x30 => .ok (.ld r1 r2 (hiF 2 13 imm) (loF 2 13 imm))
  | 0x31 => .ok (.ldn r1 r2 (hiF 2 13 imm) (loF 2 13 imm))
  | 0x32 => .ok (.st r1 r2 (hiF 2 13 imm) (loF 2 13 imm))
  | 0x33 => decodeWide 0x33 .ldF r1 r2 imm
  | 0x34 => decodeWide 0x34 .stF r1 r2 imm
  | 0x35 => decodeWide 0x35 .fec r1 r2 imm
  | 0x36 => decodeWide 0x36 .fes r1 r2 imm
  | 0x3E => .ok (.ldg r1 r2 (hiF 2 13 imm) (loF 2 13 imm))
  | 0x3F => .ok (.stg r1 r2 (hiF 2 13 imm) (loF 2 13 imm))
  | 0x4C => .ok (.cmd r1 r2 imm)
  | 0x4D => .ok (.cmdNb r1 r2 imm)
  | 0x50 => decodeCsr 0x50 r2 (.csrr r1) imm
  | 0x51 => decodeCsr 0x51 r1 (.csrw r2) imm
  | 0x52 => decodeCsr 0x52 r1 (.csrs r2) imm
  | 0x53 => decodeCsr 0x53 r1 (.csrc r2) imm
  | 0x54 => whenZero 0x54 (r1 == 0 && r2 == 0 && hiF 8 7 imm == 0) (.trap (loF 8 7 imm))
  | op => .error (.unassignedOpcode op)

/-- The U-format and J-format opcodes (R229, R230): one register field and 20 bits. -/
def decodeU (op : Nat) (rd : Reg) (imm : BitVec 20) : Except DecodeError Instr :=
  match op with
  | 0x10 => .ok (.lui rd imm)
  | 0x11 => .ok (.addpc rd imm)
  | 0x26 => whenZero 0x26 (rd == 0) (.jump imm)
  | 0x27 => .ok (.jal rd imm)
  | 0x2A => decodeLoopi rd imm
  | op => .error (.unassignedOpcode op)

/-- The opcodes of U and J format (R230). -/
def isU (op : Nat) : Bool := op == 0x10 || op == 0x11 || op == 0x26 || op == 0x27 || op == 0x2A

/-- The opcodes of I and B format (R230). -/
def isI (op : Nat) : Bool :=
  (decide (0x04 ≤ op) && decide (op ≤ 0x0F)) || (decide (0x20 ≤ op) && decide (op ≤ 0x29)) ||
  (decide (0x30 ≤ op) && decide (op ≤ 0x36)) || op == 0x3E || op == 0x3F || (decide (0x4C ≤ op) && decide (op ≤ 0x54))

/-- The opcodes of V format (R230). -/
def isV (op : Nat) : Bool := decide (0x60 ≤ op) && decide (op ≤ 0x67)

/-- A word's fields to an instruction, by its opcode's format (R229, R230): opcode 31:25, r1 24:20, r2 19:15, the rest 14:0. -/
def decodeFields (op : Nat) (r1 r2 : Reg) (imm : BitVec 15) : Except DecodeError Instr :=
  if isU op then decodeU op r1 (r2 ++ imm)
  else if isI op then decodeI op r1 r2 imm
  else if isV op then decodeV op r1 r2 (hiF 5 10 imm) (loF 5 10 imm)
  else decodeA op r1 r2 (hiF 5 10 imm) (loF 5 10 imm)

/-- An instruction whose reserved codes are not used (R234), else the rejection. -/
def checkWf (op : Nat) : Except DecodeError Instr → Except DecodeError Instr
  | .ok i => if i.wf then .ok i else .error (.reservedCode op)
  | .error e => .error e

/-- The decoder of one scalar word. -/
def decode (w : IWord) : Except DecodeError Instr :=
  let op := (hiF 7 25 w).toNat
  let x := loF 7 25 w
  checkWf op (decodeFields op (hiF 5 20 x) (hiF 5 15 (loF 5 20 x)) (loF 5 15 (loF 5 20 x)))

/-- A tile command from its four words, by CODE (R236, R237). -/
def decodeCommand (w0 w1 w2 w3 : Word) : Except DecodeError Instr :=
  match cmdCode w0 with
  | 0x01 => .ok (.zclr w0 w1 w2 w3)
  | 0x02 => .ok (.zld w0 w1 w2 w3)
  | 0x03 => .ok (.zst w0 w1 w2 w3)
  | 0x04 => .ok (.mmaS w0 w1 w2 w3)
  | 0x05 => .ok (.mmaG w0 w1 w2 w3)
  | 0x10 => .ok (.copy w0 w1 w2 w3)
  | 0x11 => .ok (.copyM w0 w1 w2 w3)
  | 0x12 => .ok (.red w0 w1 w2 w3)
  | 0x13 => .ok (.layreg w0 w1 w2 w3)
  | 0x14 => .ok (.laydrop w0 w1 w2 w3)
  | 0x20 => .ok (.strfill w0 w1 w2 w3)
  | 0x21 => .ok (.strdrain w0 w1 w2 w3)
  | 0x30 => .ok (.nicpost w0 w1 w2 w3)
  | 0x31 => .ok (.niccq w0 w1 w2 w3)
  | 0x40 => .ok (.coll w0 w1 w2 w3)
  | 0x41 => .ok (.cprobe w0 w1 w2 w3)
  | c => .error (.unknownCommand c)

/-- The decoder on bytes as they lie in LM: one little-endian scalar word and the rest (R229). -/
def decodeBytes : List Byte → Except DecodeError (Instr × List Byte)
  | b0 :: b1 :: b2 :: b3 :: rest =>
    match decode (b3 ++ b2 ++ b1 ++ b0) with
    | .ok i => .ok (i, rest)
    | .error e => .error e
  | _ => .error .tooShort

/-- The decoder on the 32 bytes of a tile command (R236). -/
def decodeCommandBytes (bs : List Byte) : Except DecodeError Instr :=
  if bs.length = 32 then
    match Machine.leWords 4 bs with
    | [w0, w1, w2, w3] => decodeCommand w0 w1 w2 w3
    | _ => .error .tooShort
  else .error .tooShort

/-- The instruction in a word numbered as the opcode table numbers it: a scalar word of up to 32 bits, or the 256 bits of a tile
command, the bits above nbits zero. -/
def decodeTableWord (nbits w : Nat) : Option Instr :=
  let v := w % 2 ^ nbits
  if nbits ≤ 32 then
    match decodeBytes (Machine.leBytes 4 v) with
    | .ok (i, _) => some i
    | .error _ => none
  else
    match decodeCommandBytes (Machine.leBytes 32 v) with
    | .ok i => some i
    | .error _ => none

/-! The encoder, from the same tables. -/

/-- A, I, B and V format: opcode, two register fields and 15 bits (R229). -/
def fmtI (op : BitVec 7) (r1 r2 : Reg) (imm : BitVec 15) : IWord := op ++ (r1 ++ (r2 ++ imm))

/-- U and J format: opcode, one register field and 20 bits (R229). -/
def fmtU (op : BitVec 7) (r1 : Reg) (imm : BitVec 20) : IWord := op ++ (r1 ++ imm)

/-- A format (R229). -/
def fmtA (op : BitVec 7) (rd ra rb : Reg) (fn : BitVec 10) : IWord := fmtI op rd ra (rb ++ fn)

/-- V format (R229). -/
def fmtV (op : BitVec 7) (vd va vb : Reg) (t : BitVec 4) (m fn : BitVec 3) : IWord := fmtI op vd va (vb ++ (t ++ (m ++ fn)))

/-- A mask register's number in a register field (R306). -/
def kf (k : BitVec 3) : Reg := (0 : BitVec 2) ++ k


/-- The word of a scalar instruction; none for a tile command and for a step of another agent. -/
def encodeWord : Instr → Option IWord
  | .add rd ra rb => some (fmtA 0x01 rd ra rb 0)
  | .sub rd ra rb => some (fmtA 0x01 rd ra rb 1)
  | .and rd ra rb => some (fmtA 0x01 rd ra rb 2)
  | .or rd ra rb => some (fmtA 0x01 rd ra rb 3)
  | .xor rd ra rb => some (fmtA 0x01 rd ra rb 4)
  | .andn rd ra rb => some (fmtA 0x01 rd ra rb 5)
  | .sll rd ra rb => some (fmtA 0x01 rd ra rb 8)
  | .srl rd ra rb => some (fmtA 0x01 rd ra rb 9)
  | .sra rd ra rb => some (fmtA 0x01 rd ra rb 10)
  | .rol rd ra rb => some (fmtA 0x01 rd ra rb 11)
  | .ror rd ra rb => some (fmtA 0x01 rd ra rb 12)
  | .slt rd ra rb => some (fmtA 0x01 rd ra rb 16)
  | .sltn rd ra rb => some (fmtA 0x01 rd ra rb 17)
  | .min rd ra rb => some (fmtA 0x01 rd ra rb 18)
  | .max rd ra rb => some (fmtA 0x01 rd ra rb 19)
  | .minn rd ra rb => some (fmtA 0x01 rd ra rb 20)
  | .maxn rd ra rb => some (fmtA 0x01 rd ra rb 21)
  | .mul rd ra rb => some (fmtA 0x02 rd ra rb 0)
  | .mulh rd ra rb => some (fmtA 0x02 rd ra rb 1)
  | .mulhn rd ra rb => some (fmtA 0x02 rd ra rb 2)
  | .div rd ra rb => some (fmtA 0x02 rd ra rb 4)
  | .divn rd ra rb => some (fmtA 0x02 rd ra rb 5)
  | .rem rd ra rb => some (fmtA 0x02 rd ra rb 6)
  | .remn rd ra rb => some (fmtA 0x02 rd ra rb 7)
  | .clz rd ra => some (fmtA 0x03 rd ra 0 0)
  | .ctz rd ra => some (fmtA 0x03 rd ra 0 1)
  | .popc rd ra => some (fmtA 0x03 rd ra 0 2)
  | .brev rd ra => some (fmtA 0x03 rd ra 0 3)
  | .bswap rd ra => some (fmtA 0x03 rd ra 0 4)
  | .clmul rd ra rb => some (fmtA 0x03 rd ra rb 8)
  | .clmulh rd ra rb => some (fmtA 0x03 rd ra rb 9)
  | .sel rd ra rb => some (fmtA 0x03 rd ra rb 12)
  | .exts rd ra len pos => some (fmtI 4 rd ra ((0 : BitVec 3) ++ (len ++ pos)))
  | .extz rd ra len pos => some (fmtI 5 rd ra ((0 : BitVec 3) ++ (len ++ pos)))
  | .ins rd ra len pos => some (fmtI 6 rd ra ((0 : BitVec 3) ++ (len ++ pos)))
  | .addi rd ra imm => some (fmtI 8 rd ra imm)
  | .andi rd ra imm => some (fmtI 9 rd ra imm)
  | .ori rd ra imm => some (fmtI 10 rd ra imm)
  | .xori rd ra imm => some (fmtI 11 rd ra imm)
  | .slli rd ra c => some (fmtI 12 rd ra ((0 : BitVec 9) ++ c))
  | .srli rd ra c => some (fmtI 13 rd ra ((0 : BitVec 9) ++ c))
  | .srai rd ra c => some (fmtI 14 rd ra ((0 : BitVec 9) ++ c))
  | .slti rd ra imm => some (fmtI 15 rd ra imm)
  | .lui rd imm => some (fmtU 0x10 rd imm)
  | .addpc rd imm => some (fmtU 0x11 rd imm)
  | .beq ra rb off => some (fmtI 0x20 ra rb off)
  | .bne ra rb off => some (fmtI 0x21 ra rb off)
  | .blt ra rb off => some (fmtI 0x22 ra rb off)
  | .bge ra rb off => some (fmtI 0x23 ra rb off)
  | .bltn ra rb off => some (fmtI 0x24 ra rb off)
  | .bgen ra rb off => some (fmtI 0x25 ra rb off)
  | .jump off => some (fmtU 0x26 0 off)
  | .jal rd off => some (fmtU 0x27 rd off)
  | .jr ra imm => some (fmtI 0x28 0 ra imm)
  | .jalr rd ra imm => some (fmtI 0x29 rd ra imm)
  | .loopi l n => some (fmtU 0x2A l ((0 : BitVec 1) ++ n))
  | .loopiReg l xs => some (fmtU 0x2A l ((1 : BitVec 1) ++ ((0 : BitVec 14) ++ xs)))
  | .ld rd ra w off => some (fmtI 0x30 rd ra (w ++ off))
  | .ldn rd ra w off => some (fmtI 0x31 rd ra (w ++ off))
  | .st ra rb w off => some (fmtI 0x32 ra rb (w ++ off))
  | .ldF rd ra off => some (fmtI 0x33 rd ra ((3 : BitVec 2) ++ off))
  | .stF ra rb off => some (fmtI 0x34 ra rb ((3 : BitVec 2) ++ off))
  | .fec rd ra off => some (fmtI 0x35 rd ra ((3 : BitVec 2) ++ off))
  | .fes rd ra off => some (fmtI 0x36 rd ra ((3 : BitVec 2) ++ off))
  | .amo rd ra rb op w => some (fmtA 0x37 rd ra rb (op ++ (w ++ (0 : BitVec 4))))
  | .rld rd ra zx w => some (fmtA 0x38 rd ra 0 ((0 : BitVec 6) ++ ((0 : BitVec 1) ++ (zx ++ w))))
  | .rldAcq rd ra zx w => some (fmtA 0x38 rd ra 0 ((0 : BitVec 6) ++ ((1 : BitVec 1) ++ (zx ++ w))))
  | .rst ra rb w => some (fmtA 0x39 0 ra rb ((0 : BitVec 8) ++ w))
  | .rstn ra rb off size => some (fmtA 0x3A 0 ra rb ((0 : BitVec 5) ++ (off ++ size)))
  | .ramo rd ra rb op w => some (fmtA 0x3B rd ra rb (op ++ (w ++ (0 : BitVec 4))))
  | .hins rd ra rb => some (fmtA 0x3C rd ra rb ((0 : BitVec 9) ++ (0 : BitVec 1)))
  | .hinsTag rd ra rb => some (fmtA 0x3C rd ra rb ((0 : BitVec 9) ++ (1 : BitVec 1)))
  | .flush => some (fmtA 0x3D 0 0 0 0x0)
  | .fenceRow => some (fmtA 0x3D 0 0 0 0x10)
  | .fenceDie => some (fmtA 0x3D 0 0 0 0x11)
  | .fencePkg => some (fmtA 0x3D 0 0 0 0x12)
  | .fenceFab => some (fmtA 0x3D 0 0 0 0x13)
  | .waitm rd ra rb => some (fmtA 0x3D rd ra rb 0x20)
  | .ldg rd ra w off => some (fmtI 0x3E rd ra (w ++ off))
  | .stg ra rb w off => some (fmtI 0x3F ra rb (w ++ off))
  | .send xw xa xl => some (fmtA 0x40 xw xa xl 0)
  | .sendnz xw xa xn es flt => some (fmtA 0x41 xw xa xn ((0 : BitVec 1) ++ ((0 : BitVec 3) ++ (es ++ (flt ++ (0 : BitVec 3))))))
  | .sendnzStream sn xa xn es flt => some (fmtA 0x41 ((0 : BitVec 1) ++ sn) xa xn ((1 : BitVec 1) ++ ((0 : BitVec 3) ++ (es ++ (flt ++ (0 : BitVec 3))))))
  | .sendh rd xw xh => some (fmtA 0x42 rd xw xh 0)
  | .strnew rd xs xb => some (fmtA 0x43 rd xs xb 0)
  | .strbind rd xh xw => some (fmtA 0x43 rd xh xw 1)
  | .strunb rd xh => some (fmtA 0x43 rd xh 0 2)
  | .streos rd xh xv => some (fmtA 0x43 rd xh xv 3)
  | .strstat rd xh => some (fmtA 0x43 rd xh 0 4)
  | .exit => some (fmtA 0x44 0 0 0 0)
  | .exitS xw xp => some (fmtA 0x44 0 xw xp 1)
  | .bar rd => some (fmtA 0x45 rd 0 0 0)
  | .barA rd => some (fmtA 0x45 rd 0 0 1)
  | .crewbar rd => some (fmtA 0x45 rd 0 0 4)
  | .crewbarA rd => some (fmtA 0x45 rd 0 0 5)
  | .barT rd xp => some (fmtA 0x45 rd xp 0 2)
  | .barTP rd xp => some (fmtA 0x45 rd xp 0 3)
  | .crewbarT rd xp => some (fmtA 0x45 rd xp 0 6)
  | .launch xw xm xa n => some (fmtA 0x46 xw xm xa ((0 : BitVec 1) ++ n))
  | .ksub rd xa xd => some (fmtA 0x47 rd xa xd 0)
  | .dspn xw xe xa n => some (fmtA 0x48 xw xe xa ((0 : BitVec 4) ++ n))
  | .adjreg rd xn xr => some (fmtA 0x49 rd xn xr 0)
  | .setev xm q => some (fmtA 0x4A 0 xm 0 ((0 : BitVec 7) ++ ((0 : BitVec 1) ++ q)))
  | .setevClr xm q => some (fmtA 0x4A 0 xm 0 ((0 : BitVec 7) ++ ((1 : BitVec 1) ++ q)))
  | .jcan rd xj => some (fmtA 0x4B rd xj 0 0)
  | .cmd rd ra imm => some (fmtI 0x4C rd ra imm)
  | .cmdNb rd ra imm => some (fmtI 0x4D rd ra imm)
  | .csrr rd n => some (fmtI 0x50 rd 0 ((0 : BitVec 3) ++ n))
  | .csrw ra n => some (fmtI 0x51 0 ra ((0 : BitVec 3) ++ n))
  | .csrs ra n => some (fmtI 0x52 0 ra ((0 : BitVec 3) ++ n))
  | .csrc ra n => some (fmtI 0x53 0 ra ((0 : BitVec 3) ++ n))
  | .trap n => some (fmtI 0x54 0 0 ((0 : BitVec 8) ++ n))
  | .rta => some (fmtA 0x55 0 0 0 0)
  | .abort => some (fmtA 0x55 0 0 0 1)
  | .bkpt => some (fmtA 0x55 0 0 0 2)
  | .halt rd ra rb => some (fmtA 0x55 rd ra rb 3)
  | .ctxKill rd ra => some (fmtA 0x56 rd ra 0 0)
  | .ctxRecl rd ra => some (fmtA 0x56 rd ra 0 1)
  | .tlbinv rd ra rb => some (fmtA 0x57 rd ra rb 0)
  | .rankset rd ra rb => some (fmtA 0x58 rd ra rb 0)
  | .resmove rd ra rb => some (fmtA 0x59 rd ra rb 0)
  | .slotsave rd ra rb => some (fmtA 0x5a rd ra rb 0)
  | .slotdrop rd ra => some (fmtA 0x5A rd ra 0 1)
  | .slotload rd ra rb => some (fmtA 0x5B rd ra rb 0)
  | .vld v xa t m => some (fmtV 0x60 v xa 0 t m 0)
  | .vst v xa t m => some (fmtV 0x60 v xa 0 t m 1)
  | .vlds v xa xs t m => some (fmtV 0x60 v xa xs t m 2)
  | .vsts v xa xs t m => some (fmtV 0x60 v xa xs t m 3)
  | .vgath v xa xs t m => some (fmtV 0x60 v xa xs t m 4)
  | .vscat v xa xs t m => some (fmtV 0x60 v xa xs t m 5)
  | .vadd vd va vb t m => some (fmtV 0x61 vd va vb t m 0)
  | .vsub vd va vb t m => some (fmtV 0x61 vd va vb t m 1)
  | .vmul vd va vb t m => some (fmtV 0x61 vd va vb t m 2)
  | .vfma vd va vb t m => some (fmtV 0x61 vd va vb t m 3)
  | .vmin vd va vb t m => some (fmtV 0x61 vd va vb t m 4)
  | .vmax vd va vb t m => some (fmtV 0x61 vd va vb t m 5)
  | .vabs vd va t m => some (fmtV 0x61 vd va 0 t m 6)
  | .vneg vd va t m => some (fmtV 0x61 vd va 0 t m 7)
  | .vand vd va vb t m => some (fmtV 0x62 vd va vb t m 0)
  | .vor vd va vb t m => some (fmtV 0x62 vd va vb t m 1)
  | .vxor vd va vb t m => some (fmtV 0x62 vd va vb t m 2)
  | .vshl vd va vb t m => some (fmtV 0x62 vd va vb t m 3)
  | .vshr vd va vb t m => some (fmtV 0x62 vd va vb t m 4)
  | .vsra vd va vb t m => some (fmtV 0x62 vd va vb t m 5)
  | .vcmpEq kd va vb t m => some (fmtV 0x63 (kf kd) va vb t m 0)
  | .vcmpNe kd va vb t m => some (fmtV 0x63 (kf kd) va vb t m 1)
  | .vcmpLt kd va vb t m => some (fmtV 0x63 (kf kd) va vb t m 2)
  | .vcmpLe kd va vb t m => some (fmtV 0x63 (kf kd) va vb t m 3)
  | .vcmpGt kd va vb t m => some (fmtV 0x63 (kf kd) va vb t m 4)
  | .vcmpGe kd va vb t m => some (fmtV 0x63 (kf kd) va vb t m 5)
  | .vcmpUn kd va vb t m => some (fmtV 0x63 (kf kd) va vb t m 6)
  | .vsel vd va vb t m => some (fmtV 0x64 vd va vb t m 0)
  | .vcvt vd va src t m => some (fmtV 0x64 vd va ((0 : BitVec 1) ++ src) t m 1)
  | .vred xd va op t m => some (fmtV 0x64 xd va op t m 2)
  | .vperm vd va vb t m => some (fmtV 0x64 vd va vb t m 3)
  | .vbcst vd xa t m => some (fmtV 0x64 vd xa 0 t m 4)
  | .vext xd va xi t => some (fmtV 0x64 xd va xi t 0 5)
  | .vins vd xa xi t => some (fmtV 0x64 vd xa xi t 0 6)
  | .vpopc vd va t m => some (fmtV 0x64 vd va 0 t m 7)
  | .vclmul vd va vb t m => some (fmtV 0x65 vd va vb t m 0)
  | .vclmulh vd va vb t m => some (fmtV 0x65 vd va vb t m 1)
  | .vexp2 vd va m => some (fmtV 0x65 vd va 0 8 m 2)
  | .vrcp vd va m => some (fmtV 0x65 vd va 0 8 m 3)
  | .vrsq vd va m => some (fmtV 0x65 vd va 0 8 m 4)
  | .kand kd ka kb => some (fmtV 0x66 (kf kd) (kf ka) (kf kb) 0 0 0)
  | .kor kd ka kb => some (fmtV 0x66 (kf kd) (kf ka) (kf kb) 0 0 1)
  | .knot kd ka => some (fmtV 0x66 (kf kd) (kf ka) 0 0 0 2)
  | .vloop l xs => some (fmtV 0x67 l xs 0 0 0 0)
  | _ => none

/-- The four words of a tile command. -/
def encodeCommand : Instr → Option (Word × Word × Word × Word)
  | .zclr w0 w1 w2 w3 => some (w0, w1, w2, w3)
  | .zld w0 w1 w2 w3 => some (w0, w1, w2, w3)
  | .zst w0 w1 w2 w3 => some (w0, w1, w2, w3)
  | .mmaS w0 w1 w2 w3 => some (w0, w1, w2, w3)
  | .mmaG w0 w1 w2 w3 => some (w0, w1, w2, w3)
  | .copy w0 w1 w2 w3 => some (w0, w1, w2, w3)
  | .copyM w0 w1 w2 w3 => some (w0, w1, w2, w3)
  | .red w0 w1 w2 w3 => some (w0, w1, w2, w3)
  | .layreg w0 w1 w2 w3 => some (w0, w1, w2, w3)
  | .laydrop w0 w1 w2 w3 => some (w0, w1, w2, w3)
  | .strfill w0 w1 w2 w3 => some (w0, w1, w2, w3)
  | .strdrain w0 w1 w2 w3 => some (w0, w1, w2, w3)
  | .nicpost w0 w1 w2 w3 => some (w0, w1, w2, w3)
  | .niccq w0 w1 w2 w3 => some (w0, w1, w2, w3)
  | .coll w0 w1 w2 w3 => some (w0, w1, w2, w3)
  | .cprobe w0 w1 w2 w3 => some (w0, w1, w2, w3)
  | _ => none

/-- The bytes of an instruction as they lie in LM (R229, R236); none for a step of another agent, which has no encoding. -/
def encode (i : Instr) : Option (List Byte) :=
  match encodeWord i with
  | some w => some (Machine.leBytes 4 w.toNat)
  | none =>
    match encodeCommand i with
    | some (w0, w1, w2, w3) => some (Machine.wordsBytes [w0, w1, w2, w3])
    | none => none

end Sys2Proof
end

