-- ==== Sys2Proof/Machine/Fetch.lean ====
section
/-! DEFINITION. What a core's scalar stream does next: the trap owed, the start of an activation, the fetch, the decoding and the wait on
a pending register (07 R127, R137, R138; 12 R223, R234, R235), and the fetch and illegal-word traps. -/

namespace Sys2Proof.Machine

/-- The scalar registers that an instruction reads or writes (12 R223). -/
def xregs : Instr → List Reg
  | .add rd ra rb => [rd, ra, rb]
  | .sub rd ra rb => [rd, ra, rb]
  | .and rd ra rb => [rd, ra, rb]
  | .or rd ra rb => [rd, ra, rb]
  | .xor rd ra rb => [rd, ra, rb]
  | .andn rd ra rb => [rd, ra, rb]
  | .sll rd ra rb => [rd, ra, rb]
  | .srl rd ra rb => [rd, ra, rb]
  | .sra rd ra rb => [rd, ra, rb]
  | .rol rd ra rb => [rd, ra, rb]
  | .ror rd ra rb => [rd, ra, rb]
  | .slt rd ra rb => [rd, ra, rb]
  | .sltn rd ra rb => [rd, ra, rb]
  | .min rd ra rb => [rd, ra, rb]
  | .max rd ra rb => [rd, ra, rb]
  | .minn rd ra rb => [rd, ra, rb]
  | .maxn rd ra rb => [rd, ra, rb]
  | .mul rd ra rb => [rd, ra, rb]
  | .mulh rd ra rb => [rd, ra, rb]
  | .mulhn rd ra rb => [rd, ra, rb]
  | .div rd ra rb => [rd, ra, rb]
  | .divn rd ra rb => [rd, ra, rb]
  | .rem rd ra rb => [rd, ra, rb]
  | .remn rd ra rb => [rd, ra, rb]
  | .clz rd ra => [rd, ra]
  | .ctz rd ra => [rd, ra]
  | .popc rd ra => [rd, ra]
  | .brev rd ra => [rd, ra]
  | .bswap rd ra => [rd, ra]
  | .clmul rd ra rb => [rd, ra, rb]
  | .clmulh rd ra rb => [rd, ra, rb]
  | .sel rd ra rb => [rd, ra, rb]
  | .exts rd ra _ _ => [rd, ra]
  | .extz rd ra _ _ => [rd, ra]
  | .ins rd ra _ _ => [rd, ra]
  | .addi rd ra _ => [rd, ra]
  | .andi rd ra _ => [rd, ra]
  | .ori rd ra _ => [rd, ra]
  | .xori rd ra _ => [rd, ra]
  | .slli rd ra _ => [rd, ra]
  | .srli rd ra _ => [rd, ra]
  | .srai rd ra _ => [rd, ra]
  | .slti rd ra _ => [rd, ra]
  | .lui rd _ => [rd]
  | .addpc rd _ => [rd]
  | .beq ra rb _ => [ra, rb]
  | .bne ra rb _ => [ra, rb]
  | .blt ra rb _ => [ra, rb]
  | .bge ra rb _ => [ra, rb]
  | .bltn ra rb _ => [ra, rb]
  | .bgen ra rb _ => [ra, rb]
  | .jal rd _ => [rd]
  | .jr ra _ => [ra]
  | .jalr rd ra _ => [rd, ra]
  | .loopiReg _ xs => [xs]
  | .ld rd ra _ _ => [rd, ra]
  | .ldn rd ra _ _ => [rd, ra]
  | .st ra rb _ _ => [ra, rb]
  | .ldF rd ra _ => [rd, ra]
  | .stF ra rb _ => [ra, rb]
  | .fec rd ra _ => [rd, ra]
  | .fes rd ra _ => [rd, ra]
  | .amo rd ra rb _ _ => [rd, ra, rb]
  | .rld rd ra _ _ => [rd, ra]
  | .rldAcq rd ra _ _ => [rd, ra]
  | .rst ra rb _ => [ra, rb]
  | .rstn ra rb _ _ => [ra, rb]
  | .ramo rd ra rb _ _ => [rd, ra, rb]
  | .hins rd ra rb => [rd, ra, rb]
  | .hinsTag rd ra rb => [rd, ra, rb]
  | .waitm rd ra rb => [rd, ra, rb]
  | .ldg rd ra _ _ => [rd, ra]
  | .stg ra rb _ _ => [ra, rb]
  | .send xw xa xl => [xw, xa, xl]
  | .sendnz xw xa xn _ _ => [xw, xa, xn]
  | .sendnzStream _ xa xn _ _ => [xa, xn]
  | .sendh rd xw xh => [rd, xw, xh]
  | .strnew rd xs xb => [rd, xs, xb]
  | .strbind rd xh xw => [rd, xh, xw]
  | .strunb rd xh => [rd, xh]
  | .streos rd xh xv => [rd, xh, xv]
  | .strstat rd xh => [rd, xh]
  | .exitS xw xp => [xw, xp]
  | .bar rd => [rd]
  | .barA rd => [rd]
  | .barT rd xp => [rd, xp]
  | .barTP rd xp => [rd, xp]
  | .crewbar rd => [rd]
  | .crewbarA rd => [rd]
  | .crewbarT rd xp => [rd, xp]
  | .launch xw xm xa _ => [xw, xm, xa]
  | .ksub rd xa xd => [rd, xa, xd]
  | .dspn xw xe xa _ => [xw, xe, xa]
  | .adjreg rd xn xr => [rd, xn, xr]
  | .setev xm _ => [xm]
  | .setevClr xm _ => [xm]
  | .jcan rd xj => [rd, xj]
  | .cmd rd ra _ => [rd, ra]
  | .cmdNb rd ra _ => [rd, ra]
  | .csrr rd _ => [rd]
  | .csrw ra _ => [ra]
  | .csrs ra _ => [ra]
  | .csrc ra _ => [ra]
  | .halt rd ra rb => [rd, ra, rb]
  | .ctxKill rd ra => [rd, ra]
  | .ctxRecl rd ra => [rd, ra]
  | .tlbinv rd ra rb => [rd, ra, rb]
  | .rankset rd ra rb => [rd, ra, rb]
  | .resmove rd ra rb => [rd, ra, rb]
  | .slotsave rd ra rb => [rd, ra, rb]
  | .slotdrop rd ra => [rd, ra]
  | .slotload rd ra rb => [rd, ra, rb]
  | .vld _ xa _ _ => [xa]
  | .vst _ xa _ _ => [xa]
  | .vlds _ xa xs _ _ => [xa, xs]
  | .vsts _ xa xs _ _ => [xa, xs]
  | .vgath _ xa _ _ _ => [xa]
  | .vscat _ xa _ _ _ => [xa]
  | .vred xd _ _ _ _ => [xd]
  | .vbcst _ xa _ _ => [xa]
  | .vext xd _ xi _ => [xd, xi]
  | .vins _ xa xi _ => [xa, xi]
  | .vloop _ xs => [xs]
  | _ => []

/-- The scalar registers whose values an instruction uses: all that it reads, but for one that a store or a stream push only moves on (04 R69). -/
def xsrc (i : Instr) : List Reg :=
  match i with
  | .sel rd ra rb => [rd, ra, rb]
  | .ins rd ra _ _ => [rd, ra]
  | .amo rd ra rb _ _ => [rd, ra, rb]
  | .ramo rd ra rb _ _ => [rd, ra, rb]
  | .hins rd ra rb => [rd, ra, rb]
  | .hinsTag rd ra rb => [rd, ra, rb]
  | .fes rd ra _ => [rd, ra]
  | .st ra _ _ _ => [ra]
  | .stF ra _ _ => [ra]
  | .rst ra _ _ => [ra]
  | .rstn ra _ _ _ => [ra]
  | .stg ra _ _ _ => [ra]
  | .csrw ra n => if csrStream n.toNat then [] else [ra]
  | .beq ra rb _ => [ra, rb]
  | .bne ra rb _ => [ra, rb]
  | .blt ra rb _ => [ra, rb]
  | .bge ra rb _ => [ra, rb]
  | .bltn ra rb _ => [ra, rb]
  | .bgen ra rb _ => [ra, rb]
  | .jr ra _ => [ra]
  | .loopiReg _ xs => [xs]
  | .send xw xa xl => [xw, xa, xl]
  | .sendnz xw xa xn _ _ => [xw, xa, xn]
  | .sendnzStream _ xa xn _ _ => [xa, xn]
  | .exitS xw xp => [xw, xp]
  | .launch xw xm xa _ => [xw, xm, xa]
  | .dspn xw xe xa _ => [xw, xe, xa]
  | .setev xm _ => [xm]
  | .setevClr xm _ => [xm]
  | .csrs ra _ => [ra]
  | .csrc ra _ => [ra]
  | .vld _ xa _ _ => [xa]
  | .vst _ xa _ _ => [xa]
  | .vlds _ xa xs _ _ => [xa, xs]
  | .vsts _ xa xs _ _ => [xa, xs]
  | .vgath _ xa _ _ _ => [xa]
  | .vscat _ xa _ _ _ => [xa]
  | .vbcst _ xa _ _ => [xa]
  | .vins _ xa xi _ => [xa, xi]
  | .vloop _ xs => [xs]
  | i => (xregs i).tail

/-- The vector and mask registers that an instruction names; mask field 0 names none (18 R306). -/
def vnames : Instr → List Reg × List (BitVec 3)
  | .vld v _ _ m => ([v], [m])
  | .vst v _ _ m => ([v], [m])
  | .vlds v _ _ _ m => ([v], [m])
  | .vsts v _ _ _ m => ([v], [m])
  | .vgath v _ o _ m => ([v, o], [m])
  | .vscat v _ o _ m => ([v, o], [m])
  | .vadd d a b _ m => ([d, a, b], [m])
  | .vsub d a b _ m => ([d, a, b], [m])
  | .vmul d a b _ m => ([d, a, b], [m])
  | .vfma d a b _ m => ([d, a, b], [m])
  | .vmin d a b _ m => ([d, a, b], [m])
  | .vmax d a b _ m => ([d, a, b], [m])
  | .vabs d a _ m => ([d, a], [m])
  | .vneg d a _ m => ([d, a], [m])
  | .vand d a b _ m => ([d, a, b], [m])
  | .vor d a b _ m => ([d, a, b], [m])
  | .vxor d a b _ m => ([d, a, b], [m])
  | .vshl d a b _ m => ([d, a, b], [m])
  | .vshr d a b _ m => ([d, a, b], [m])
  | .vsra d a b _ m => ([d, a, b], [m])
  | .vcmpEq kd a b _ m => ([a, b], [kd, m])
  | .vcmpNe kd a b _ m => ([a, b], [kd, m])
  | .vcmpLt kd a b _ m => ([a, b], [kd, m])
  | .vcmpLe kd a b _ m => ([a, b], [kd, m])
  | .vcmpGt kd a b _ m => ([a, b], [kd, m])
  | .vcmpGe kd a b _ m => ([a, b], [kd, m])
  | .vcmpUn kd a b _ m => ([a, b], [kd, m])
  | .vsel d a b _ m => ([d, a, b], [m])
  | .vcvt d a _ _ m => ([d, a], [m])
  | .vred _ a _ _ m => ([a], [m])
  | .vperm d a b _ m => ([d, a, b], [m])
  | .vbcst d _ _ m => ([d], [m])
  | .vext _ a _ _ => ([a], [])
  | .vins d _ _ _ => ([d], [])
  | .vpopc d a _ m => ([d, a], [m])
  | .vclmul d a b _ m => ([d, a, b], [m])
  | .vclmulh d a b _ m => ([d, a, b], [m])
  | .vexp2 d a m => ([d, a], [m])
  | .vrcp d a m => ([d, a], [m])
  | .vrsq d a m => ([d, a], [m])
  | .kand d a b => ([], [d, a, b])
  | .kor d a b => ([], [d, a, b])
  | .knot d a => ([], [d, a])
  | _ => ([], [])

/-- The vector registers whose values an instruction uses: of a masked one also its destination, whose other elements stay; none that a store only moves. -/
def vsrc (i : Instr) : List Reg :=
  let masked := (vnames i).2.getLast?.any fun m => decide (m ≠ 0)
  match i with
  | .vst .. => []
  | .vsts .. => []
  | .vscat _ _ o _ _ => [o]
  | .vfma d a b _ _ => [d, a, b]
  | .vins d _ _ _ => [d]
  | .vred _ a _ _ _ => [a]
  | .vext _ a _ _ => [a]
  | .vcmpEq _ a b _ _ => [a, b]
  | .vcmpNe _ a b _ _ => [a, b]
  | .vcmpLt _ a b _ _ => [a, b]
  | .vcmpLe _ a b _ _ => [a, b]
  | .vcmpGt _ a b _ _ => [a, b]
  | .vcmpGe _ a b _ _ => [a, b]
  | .vcmpUn _ a b _ _ => [a, b]
  | i => if masked then (vnames i).1 else (vnames i).1.tail

/-- The mask registers whose values an instruction uses; a mask field of 0 names none. -/
def ksrc (i : Instr) : List (BitVec 3) :=
  match i with
  | .kand _ a b => [a, b]
  | .kor _ a b => [a, b]
  | .knot _ a => [a]
  | i => match (vnames i).2.getLast? with | some m => if m = 0 then [] else [m] | none => []

/-- Whether an instruction would use a poisoned vector or mask register. -/
def vecBad (k : Core) (i : Instr) : Bool := (vsrc i).any (vbad k) || (ksrc i).any fun m => decide (128 + m.toNat ∈ k.badRegs)

/-- Whether an instruction would use a poisoned register, which consumes the poison (04 R69). -/
def readsBad (k : Core) (i : Instr) : Bool := !k.badRegs.isEmpty && ((xsrc i).any (xbad k) || vecBad k i)

/-- Whether a row of the table is a step that an agent takes of itself, a tile command among them (09 R169): all but the instructions of a scalar stream and
the rows that say what some of those do to a register, which only that stream performs. -/
def selfStep (i : Instr) : Bool :=
  (encodeWord i).isNone &&
  match i with
  | .xbWrite .. => false
  | .trappcWrite .. => false
  | .queuePop .. => false
  | .queuePush .. => false
  | .streamPop .. => false
  | .streamPush .. => false
  | .mailboxWrite .. => false
  | .formatWrite .. => false
  | .fmtsWrite .. => false
  | .rmodeWrite .. => false
  | .illegalWord .. => false
  | .fetchTrap => false
  | _ => true

/-- The trap of a fetch at the PC (07 R138): its cause and the address it concerns. A poisoned word is consumed (04 R69). -/
def fetchFault (k : Core) : Option (Nat × Option Word) :=
  let t := slotOf k (curSlot k)
  let a := k.pc.toNat
  if !rgHas (rgOf t 0) a then some (0x21, some k.pc)
  else if xbOf t ≤ a then some (0x10, some k.pc)
  else if lmBad k a 4 then some (0x25, none)
  else none

/-- The four bytes at the PC. -/
def fetchBytes (k : Core) : List Byte := rdBytes k.lm k.pc.toNat 4

/-- The word at the PC. -/
def fetchWord (k : Core) : IWord := BitVec.ofNat 32 (leNat (fetchBytes k))

/-- Whether an instruction waits on a pending register: not while it stands at the issue point itself. -/
def waitsPending (k : Core) (i : Instr) : Bool :=
  match k.wait with
  | .idle => (xregs i).any fun r => decide (r ≠ 0) && k.pendx.any fun p => decide (p.1 = r.toNat)
  | _ => false

/-- What a scalar stream comes to before it executes anything: a new state, an instruction, or one of the steps that the stream takes of
itself. -/
inductive Issue where
  | moved (s : State)
  | run (i : Instr)
  | start
  | watchdog
  | fetch
  | illegal (w : IWord)

/-- What the current core's scalar stream does. An instruction that would use a poisoned register seals the core (04 R69, R70). -/
def issue (s : State) : Issue :=
  let k := cc s
  match k.act with
  | none => .start
  | some _ =>
    if k.wdog = 0 ∧ k.hold = false then .watchdog
    else
      match k.owed with
      | some (cause, a) => .moved (takeTrap (setCC s { k with owed := none }) s.cur cause a)
      | none =>
        if (fetchFault k).isSome then .fetch
        else
          match decodeBytes (fetchBytes k) with
          | .error _ => .illegal (fetchWord k)
          | .ok (i, _) =>
            if waitsPending k i then .moved s
            else if decide (k.wait = .idle) && readsBad k i then .moved (sealCore s s.cur)
            else .run i

/-- An activation of a message of context 0 with nothing in it, for an instruction placed from outside (log 9). -/
def placedAct : Act := { msg := { hdr := {}, cid := 0, inc := 0, addr := 0, len := 0 } }

/-- The four words of a tile command given as one number. -/
def placedCmd (w : Nat) : Cmd := { w0 := wd w, w1 := wd (w / 2 ^ 64), w2 := wd (w / 2 ^ 128), w3 := wd (w / 2 ^ 192) }

/-- The state with an instruction placed for the next step (log 9): core 0 runs, its slot 0 has CODE and XB over the first 256 bytes,
the PC is 0, and LM holds the word there; a tile command is the head of the FIFO of core 0, or of memory core 512 for the affine unit's, its
context 0 passes the engines' admission, and it is the next move. -/
def fetchPlaced (s : State) (nbits w : Nat) : State :=
  let v := w % 2 ^ nbits
  let cmd := decide (32 < nbits)
  let c := if cmd && decide (fldN v 55 53 = 2) then 512 else 0
  let k := coreOf s c
  let t := slotOf k 0
  let code : Word := 0x8000010000000000
  let k := setSlot { k with act := some placedAct, wait := .idle, owed := none, pendx := [], pc := 0, wdog := 1, hold := false,
                            trapped := false, lm := wrLE k.lm 0 4 v, poison := k.poison.filter fun w => !decide (w = 0) } 0
    { t with rg := t.rg.set 0 code, xb := 256 }
  let k := if cmd then { k with fifo := placedCmd v :: k.fifo } else k
  let s := setCore { s with boot := { s.boot with state := 1 }, cur := c } c k
  let s := if cmd then updDie s 0 fun d => { d with incTab := mput d.incTab 0 0 } else s
  match decodeTableWord nbits v with
  | some i => if cmd then { s with agenda := .ev i :: s.agenda } else { s with agenda := .core 0 :: s.agenda }
  | none => { s with agenda := .core 0 :: s.agenda }

/-- FETCH_TRAP (07 R138): XONLY, OVLY, or UCE for a poisoned word, which seals the core. -/
def execFetchTrap (s : State) : Out :=
  if (cc s).act.isNone then .next s
  else
    match fetchFault (cc s) with
    | none => .next s
    | some (0x25, _) => .next (sealCore s s.cur)
    | some (cause, a) => trap s cause a

/-- ILLEGAL_WORD (12 R234): a word that is no instruction takes ILL. -/
def execIllegalWord (w : IWord) (s : State) : Out :=
  match decode w with
  | .error _ => ill s
  | .ok _ => .next s

end Sys2Proof.Machine
end

