-- ==== Sys2Proof/Machine/MemoryInstr.lean ====
section
/-! DEFINITION. The memory instructions (chapter 16): local, remote, atomic, flush, fence, wait and the direct path. -/

namespace Sys2Proof.Machine

/-! ### Local memory -/

/-- A load of LM: from the core's own LM, or over the row channel from the member that holds the byte (16 R289, 07 R139, 09 R173);
poison is consumed (04 R69). -/
def localLoad (s : State) (rd ra : Reg) (w : BitVec 2) (off : BitVec 13) (sx : Bool) : Out :=
  let a := eaddr s ra off
  let n := wbytes w
  match localCheck s a n false with
  | some (cause, p) => trap s cause (some p)
  | none =>
    let (owner, at_) := lmHome s a.toNat
    if owner = s.cur then
      let s := struck s s.cur at_ n
      if lmBad (cc s) at_ n then .next (sealCore s s.cur)
      else
        let v := rdLE (cc s).lm at_ n
        writeX s rd (if sx then wdI (signedN (8 * n) v) else wd v)
    else issueReq s (niOf s owner) 1 0 (fun t => .rowLd at_ n sx t) rd (.load n sx) 0 false false id rowCls

/-- A store to LM, in the same two ways; a store on the row channel joins the unacknowledged set (09 R173). A poisoned register passes its poison on (04 R69). -/
def localStore (s : State) (ra rb : Reg) (w : BitVec 2) (off : BitVec 13) : Out :=
  let a := eaddr s ra off
  let n := wbytes w
  match localCheck s a n true with
  | some (cause, p) => trap s cause (some p)
  | none =>
    let (owner, at_) := lmHome s a.toNat
    let v := rx (cc s) rb
    let bad := xbad (cc s) rb
    let mark := fun (s : State) => if bad then lmPoison s s.cur at_ n else s
    if owner = s.cur then .next (done (mark (localWrite s at_ (leBytes n v.toNat))) id)
    else .next (done (rowStore (protect s a.toNat) owner at_ n v false bad) id)

def execLd (rd ra : Reg) (w : BitVec 2) (off : BitVec 13) (s : State) : Out := localLoad s rd ra w off true
def execLdn (rd ra : Reg) (w : BitVec 2) (off : BitVec 13) (s : State) : Out := localLoad s rd ra w off false
def execSt (ra rb : Reg) (w : BitVec 2) (off : BitVec 13) (s : State) : Out := localStore s ra rb w off

/-- A full/empty form on the 8-byte word at x[ra] + SExt(off), past its checks: the owning core and its address (16 R290). -/
def feAccess (s : State) (ra : Reg) (off : BitVec 13) (wr : Bool) (cont : Nat → Nat → Out) : Out :=
  let a := eaddr s ra off
  match localCheck s a 8 wr with
  | some (cause, p) => trap s cause (some p)
  | none => let (c, at_) := lmHome s a.toNat; cont c at_

/-- LD.F or FEC of a word that another member holds (09 R173): the request waits for its answer, and is made again where the word was empty. RESTART falls as
the request leaves. -/
def rowFull (s : State) (rd : Reg) (c a kind : Nat) (f : State → State) : Out :=
  match (cc s).wait with
  | .ret t => if (cc s).out.any fun o => decide (o.tok = t) then .next s else .next (setCC s (advance { cc s with wait := .idle }))
  | _ => issueReq (f s) (niOf s c) 1 0 (fun t => .rowFe a kind 0 t) rd .fe 0 true false id rowCls

/-- Whether a word is full. -/
def isFull (s : State) (c a : Nat) : Bool := decide (a / 8 ∈ (coreOf s c).fe)

def execLdF (rd ra : Reg) (off : BitVec 13) (s : State) : Out :=
  feAccess s ra off false fun c a =>
    if c ≠ s.cur then rowFull s rd c a 0 id
    else if !isFull s c a then .next s
    else
      let s := struck s c a 8
      if lmBad (coreOf s c) a 8 then .next (sealCore s s.cur)
      else writeX s rd (wd (rdLE (coreOf s c).lm a 8))

def execFec (rd ra : Reg) (off : BitVec 13) (s : State) : Out :=
  feAccess s ra off true fun c a =>
    if c ≠ s.cur then rowFull s rd c a 1 fun s => protect s (eaddr s ra off).toNat
    else if !isFull s c a then .next s
    else
      let s := struck s c a 8
      if lmBad (coreOf s c) a 8 then .next (sealCore s s.cur)
      else
        let v := wd (rdLE (coreOf s c).lm a 8)
        writeX (feSet (protect s (eaddr s ra off).toNat) c a false) rd v

def execFes (rd ra : Reg) (off : BitVec 13) (s : State) : Out :=
  feAccess s ra off true fun c a =>
    let old := wd (b2n (isFull s c a))
    let new := bit (rx (cc s) rd) 0
    if c ≠ s.cur then
      let v := wd (b2n new)
      issueReq (protect s (eaddr s ra off).toNat) (niOf s c) 1 0 (fun t => .rowFe a 2 v t) rd .answer 0 false false id rowCls
    else writeX (feSet (protect s (eaddr s ra off).toNat) c a new) rd old

/-- ST.F: the local form writes the word and sets it full in one step; the peer form is a buffered store with SETFULL (16 R290). -/
def execStF (ra rb : Reg) (off : BitVec 13) (s : State) : Out :=
  let a := eaddr s ra off
  if bit a 63 then
    if a.toNat % 8 ≠ 0 then trap s 0x13 (some a)
    else if gform a = .bad then trap s 0x26 (some a)
    else buffer s (.store a.toNat 8 (rx (cc s) rb) true) 8 0 id (xbad (cc s) rb)
  else
    feAccess s ra off true fun c a' =>
      let v := rx (cc s) rb
      let bad := xbad (cc s) rb
      let s := protect s a.toNat
      if c ≠ s.cur then .next (done (rowStore s c a' 8 v true bad) id)
      else
        let s := struck (lmWriteFull s c a' (leBytes 8 v.toNat) true) c a' 8
        .next (done (if bad then lmPoison s c a' 8 else s) id)

/-- AMO (16 R292): one step on the LM word, or a request on the row channel to the member that holds it (09 R173). -/
def execAmo (rd ra rb : Reg) (op : BitVec 4) (w : BitVec 2) (s : State) : Out :=
  let a := rx (cc s) ra
  let n := wbytes w
  match localCheck s a n true with
  | some (cause, p) => trap s cause (some p)
  | none =>
    if op = 10 ∧ w ≠ 2 then trap s 0x11 (some a)
    else
      let (c, at_) := lmHome s a.toNat
      if c ≠ s.cur then
        let b := rx (cc s) rb
        let x := rx (cc s) rd
        let rm := (cc s).rmode
        issueReq (protect s a.toNat) (niOf s c) 4 0 (fun t => .amo at_ op.toNat n b x rm t) rd (.amo n) 0 false false (fun k => if op = 10 then sampleStep k else k) rowCls
      else
      let s := struck s c at_ n
      if lmBad (coreOf s c) at_ n then .next (sealCore s s.cur)
      else
        let m := rdLE (coreOf s c).lm at_ n
        let r := rmAt (cc s).rmode (fld (cc s).rmode 31 16 * 2 ^ 32)
        let v := amoNew op.toNat (8 * n) m (rx (cc s) rb).toNat (rx (cc s) rd).toNat r
        let s := lmWrite (protect s a.toNat) c at_ (leBytes n v)
        .next (done s fun k => wx (if op = 10 then sampleStep k else k) rd (wd m))

/-! ### Remote operations -/

def execRld (rd ra : Reg) (zx : BitVec 1) (w : BitVec 2) (s : State) : Out :=
  remoteLoad s rd (rx (cc s) ra) (wbytes w) (decide (zx = 0)) false
def execRldAcq (rd ra : Reg) (zx : BitVec 1) (w : BitVec 2) (s : State) : Out :=
  remoteLoad s rd (rx (cc s) ra) (wbytes w) (decide (zx = 0)) true

def execRst (ra rb : Reg) (w : BitVec 2) (s : State) : Out :=
  let g := rx (cc s) ra
  if g.toNat % wbytes w ≠ 0 then trap s 0x13 (some g)
  else if gform g = .bad then trap s 0x26 (some g)
  else buffer s (.store g.toNat (wbytes w) (rx (cc s) rb) false) 8 0 id (xbad (cc s) rb)

def execRstn (ra rb : Reg) (off : BitVec 3) (size : BitVec 2) (s : State) : Out :=
  let g := rx (cc s) ra
  if gform g = .bad then trap s 0x26 (some g)
  else buffer s (.subStore g.toNat off.toNat (2 ^ size.toNat) (rx (cc s) rb)) 8 0 id (xbad (cc s) rb)

def execRamo (rd ra rb : Reg) (op : BitVec 4) (w : BitVec 2) (s : State) : Out :=
  remoteAmo s rd (rx (cc s) ra) op.toNat (wbytes w) (rx (cc s) rb) (if op = 1 then rx (cc s) rd else 0)
def execHins (rd ra rb : Reg) (s : State) : Out := remoteHins s rd (rx (cc s) ra) false (rx (cc s) rb) (rx (cc s) rd)
def execHinsTag (rd ra rb : Reg) (s : State) : Out := remoteHins s rd (rx (cc s) ra) true (rx (cc s) rb) (rx (cc s) rd)

def execFlush (s : State) : Out := afterFlush s 0 fun s => .next (done s id)
def execFenceRow (s : State) : Out := fence s 0
def execFenceDie (s : State) : Out := fence s 1
def execFencePkg (s : State) : Out := fence s 2
def execFenceFab (s : State) : Out := fence s 3
def execWaitm (rd ra rb : Reg) (s : State) : Out := waitmOp s rd (rx (cc s) ra) (rx (cc s) rb)

/-! ### The direct path (16 R301, 08 R167) -/

/-- A supervisor core's virtual address is a physical address when bit 56 is zero and the address is populated (08 R167). -/
def direct (s : State) (g : Word) : Option Nat :=
  if bit g 63 ∨ fld g 62 56 ≠ 0 ∨ !populated s (fld g 55 0) then none else some (fld g 55 0)

def execLdg (rd ra : Reg) (w : BitVec 2) (off : BitVec 13) (s : State) : Out :=
  let g := eaddr s ra off
  if isCompute s.cur then trap s 0x22 none
  else if isSup s.cur ∧ !bit g 63 then
    if g.toNat % wbytes w ≠ 0 then trap s 0x13 (some g)
    else
      match direct s g with
      | none => trap s 0x26 (some g)
      | some pa =>
        match (cc s).wait, served (cc s) g.toNat (wbytes w) with
        | .idle, some bs => writeX s rd (wdI (signedN (8 * wbytes w) (leNat bs)))
        | _, _ =>
          afterDrain s g.toNat (wbytes w) fun s =>
            issueReq s (homeOf s (dieOf s.cur) pa) 1 0 (fun t => .load pa (wbytes w) t) rd (.load (wbytes w) true) g.toNat false false id
  else remoteLoad s rd g (wbytes w) true false

def execStg (ra rb : Reg) (w : BitVec 2) (off : BitVec 13) (s : State) : Out :=
  let g := eaddr s ra off
  let n := wbytes w
  let v := rx (cc s) rb
  if isCompute s.cur then trap s 0x22 none
  else if g.toNat % n ≠ 0 then trap s 0x13 (some g)
  else if isSup s.cur ∧ !bit g 63 then
    match direct s g with
    | none => trap s 0x26 (some g)
    | some pa =>
      afterDrain s g.toNat n fun s =>
        let dst := homeOf s (dieOf s.cur) pa
        if canSend s dst 1 then
          let (t, k) := freshTok (cc s)
          let (cid, inc, _) := actCtx k
          let k := noteStore s (unacked (outstanding k t 0 .stg g.toNat) t dst g.toNat n (actMsg k)) dst
          .next (emit (setCC s (advance k)) { src := niOf s s.cur, dst := dst, cls := 1, op := 2, cid := cid, inc := inc, len := 2,
                                              bad := xbad (cc s) rb, body := .store pa n v false t })
        else .next s
  else if gform g = .bad then trap s 0x26 (some g)
  else
    afterDrain s g.toNat n fun s =>
      let (t, k) := freshTok (cc s)
      let s1 := setCC s (outstanding k t 0 .stg g.toNat)
      match storeOut s1 s.cur g.toNat n (fun a => .store a n v false t) 2 t (xbad (cc s) rb) with
      | none => .next s
      | some s => .next (done s id)

end Sys2Proof.Machine
end

