-- ==== Sys2Proof/Machine/Scalar.lean ====
section
/-! DEFINITION. The scalar instructions (chapter 14): arithmetic, logic, bits, branches, jumps and the hardware loop. -/

namespace Sys2Proof.Machine

/-- 1 or 0 as a word. -/
def b2w (b : Bool) : Word := if b then 1 else 0

/-- The shift and rotate counts: b[5:0] (14 R255). -/
def cnt (b : Word) : Nat := b.toNat % 64

def execAdd (rd ra rb : Reg) (s : State) : Out := alu s rd ra rb fun a b => a + b
def execSub (rd ra rb : Reg) (s : State) : Out := alu s rd ra rb fun a b => a - b
def execAnd (rd ra rb : Reg) (s : State) : Out := alu s rd ra rb fun a b => a &&& b
def execOr (rd ra rb : Reg) (s : State) : Out := alu s rd ra rb fun a b => a ||| b
def execXor (rd ra rb : Reg) (s : State) : Out := alu s rd ra rb fun a b => a ^^^ b
def execAndn (rd ra rb : Reg) (s : State) : Out := alu s rd ra rb fun a b => a &&& ~~~b
def execSll (rd ra rb : Reg) (s : State) : Out := alu s rd ra rb fun a b => a <<< cnt b
def execSrl (rd ra rb : Reg) (s : State) : Out := alu s rd ra rb fun a b => a >>> cnt b
def execSra (rd ra rb : Reg) (s : State) : Out := alu s rd ra rb fun a b => a.sshiftRight (cnt b)
def execRol (rd ra rb : Reg) (s : State) : Out := alu s rd ra rb fun a b => (a <<< cnt b) ||| (a >>> ((64 - cnt b) % 64))
def execRor (rd ra rb : Reg) (s : State) : Out := alu s rd ra rb fun a b => (a >>> cnt b) ||| (a <<< ((64 - cnt b) % 64))
def execSlt (rd ra rb : Reg) (s : State) : Out := alu s rd ra rb fun a b => b2w (a.slt b)
def execSltn (rd ra rb : Reg) (s : State) : Out := alu s rd ra rb fun a b => b2w (a.ult b)
def execMin (rd ra rb : Reg) (s : State) : Out := alu s rd ra rb fun a b => if b.slt a then b else a
def execMax (rd ra rb : Reg) (s : State) : Out := alu s rd ra rb fun a b => if a.slt b then b else a
def execMinn (rd ra rb : Reg) (s : State) : Out := alu s rd ra rb fun a b => if b.ult a then b else a
def execMaxn (rd ra rb : Reg) (s : State) : Out := alu s rd ra rb fun a b => if a.ult b then b else a
def execMul (rd ra rb : Reg) (s : State) : Out := alu s rd ra rb fun a b => a * b
def execMulh (rd ra rb : Reg) (s : State) : Out := alu s rd ra rb fun a b => wdI (a.toInt * b.toInt / 2 ^ 64)
def execMulhn (rd ra rb : Reg) (s : State) : Out := alu s rd ra rb fun a b => wd (a.toNat * b.toNat / 2 ^ 64)

/-- DIV(a, b) of 14 R258: -1 for b = 0; the pair -2^63, -1 wraps to -2^63. -/
def divS (a b : Word) : Word := if b = 0 then -1 else wdI (a.toInt.tdiv b.toInt)
/-- DIVN(a, b) of 14 R258. -/
def divU (a b : Word) : Word := if b = 0 then -1 else wd (a.toNat / b.toNat)

def execDiv (rd ra rb : Reg) (s : State) : Out := alu s rd ra rb divS
def execDivn (rd ra rb : Reg) (s : State) : Out := alu s rd ra rb divU
def execRem (rd ra rb : Reg) (s : State) : Out := alu s rd ra rb fun a b => if b = 0 then a else a - b * divS a b
def execRemn (rd ra rb : Reg) (s : State) : Out := alu s rd ra rb fun a b => if b = 0 then a else a - b * divU a b

def execClz (rd ra : Reg) (s : State) : Out := alu1 s rd ra fun a => wd (64 - bitLen 64 a.toNat)
def execCtz (rd ra : Reg) (s : State) : Out := alu1 s rd ra fun a => wd (lowBit 64 0 a.toNat)
def execPopc (rd ra : Reg) (s : State) : Out := alu1 s rd ra fun a => wd (popN 64 a.toNat)
def execBrev (rd ra : Reg) (s : State) : Out := alu1 s rd ra fun a => wd (revBits 64 a.toNat)
def execBswap (rd ra : Reg) (s : State) : Out := alu1 s rd ra fun a => wd (leNat (leBytes 8 a.toNat).reverse)
def execClmul (rd ra rb : Reg) (s : State) : Out := alu s rd ra rb fun a b => wd (clmulN 64 a.toNat b.toNat)
def execClmulh (rd ra rb : Reg) (s : State) : Out := alu s rd ra rb fun a b => wd (clmulN 64 a.toNat b.toNat / 2 ^ 64)
def execSel (rd ra rb : Reg) (s : State) : Out := writeX s rd (if rx (cc s) rd ≠ 0 then rx (cc s) ra else rx (cc s) rb)

/-- The clipped length of a field: min(len, 64 - pos), with len = the field + 1 (14 R262). -/
def clip (len pos : BitVec 6) : Nat := min (len.toNat + 1) (64 - pos.toNat)

def execExts (rd ra : Reg) (len pos : BitVec 6) (s : State) : Out :=
  alu1 s rd ra fun a => wdI (signedN (clip len pos) (a.toNat / 2 ^ pos.toNat))
def execExtz (rd ra : Reg) (len pos : BitVec 6) (s : State) : Out :=
  alu1 s rd ra fun a => wd (a.toNat / 2 ^ pos.toNat % 2 ^ clip len pos)
def execIns (rd ra : Reg) (len pos : BitVec 6) (s : State) : Out :=
  writeX s rd (setFld (rx (cc s) rd) (pos.toNat + clip len pos - 1) pos.toNat (rx (cc s) ra).toNat)

def execAddi (rd ra : Reg) (imm : BitVec 15) (s : State) : Out := aluI s rd ra imm fun a i => a + i
def execAndi (rd ra : Reg) (imm : BitVec 15) (s : State) : Out := aluI s rd ra imm fun a i => a &&& i
def execOri (rd ra : Reg) (imm : BitVec 15) (s : State) : Out := aluI s rd ra imm fun a i => a ||| i
def execXori (rd ra : Reg) (imm : BitVec 15) (s : State) : Out := aluI s rd ra imm fun a i => a ^^^ i
def execSlli (rd ra : Reg) (c : BitVec 6) (s : State) : Out := alu1 s rd ra fun a => a <<< c.toNat
def execSrli (rd ra : Reg) (c : BitVec 6) (s : State) : Out := alu1 s rd ra fun a => a >>> c.toNat
def execSrai (rd ra : Reg) (c : BitVec 6) (s : State) : Out := alu1 s rd ra fun a => a.sshiftRight c.toNat
def execSlti (rd ra : Reg) (imm : BitVec 15) (s : State) : Out := aluI s rd ra imm fun a i => b2w (a.slt i)

def execLui (rd : Reg) (imm : BitVec 20) (s : State) : Out := writeX s rd (sext imm <<< 15)
def execAddpc (rd : Reg) (imm : BitVec 20) (s : State) : Out := writeX s rd ((cc s).pc + sext imm)

def execBeq (ra rb : Reg) (off : BitVec 15) (s : State) : Out := branch s ra rb off fun a b => decide (a = b)
def execBne (ra rb : Reg) (off : BitVec 15) (s : State) : Out := branch s ra rb off fun a b => decide (a ≠ b)
def execBlt (ra rb : Reg) (off : BitVec 15) (s : State) : Out := branch s ra rb off fun a b => a.slt b
def execBge (ra rb : Reg) (off : BitVec 15) (s : State) : Out := branch s ra rb off fun a b => !a.slt b
def execBltn (ra rb : Reg) (off : BitVec 15) (s : State) : Out := branch s ra rb off fun a b => a.ult b
def execBgen (ra rb : Reg) (off : BitVec 15) (s : State) : Out := branch s ra rb off fun a b => !a.ult b

def execJump (off : BitVec 20) (s : State) : Out := transfer s none (target s off)
def execJal (rd : Reg) (off : BitVec 20) (s : State) : Out := transfer s (some rd) (target s off)
/-- JR's and JALR's target: x[ra] + SExt(imm) over unbounded integers, x[ra] unsigned (14 R267). -/
def regTarget (s : State) (ra : Reg) (imm : BitVec 15) : Int := (rx (cc s) ra).toNat + imm.toInt
def execJr (ra : Reg) (imm : BitVec 15) (s : State) : Out := transfer s none (regTarget s ra imm)
def execJalr (rd ra : Reg) (imm : BitVec 15) (s : State) : Out := transfer s (some rd) (regTarget s ra imm)

/-- LOOPI with a body of l + 1 words and a count n (14 R269, R270): ILL in a handler, with two levels on the stack, or when the body
leaves the outer one; a count of 0 skips the body, with the end check of the levels that end there. -/
def loopi (s : State) (l : BitVec 5) (n : Nat) : Out :=
  let k := cc s
  let stop := k.pc + wd (4 * (l.toNat + 1))
  let outside : Bool := match k.loops with | [o] => decide (o.stop.toNat < stop.toNat) | _ => false
  if k.trapped ∨ k.loops.length ≥ 2 ∨ outside then ill s
  else if n = 0 then .next (setCC s (passTo k stop))
  else .next (setCC s { k with loops := ⟨k.pc + 4, stop, n⟩ :: k.loops, pc := k.pc + 4 })

def execLoopi (l : BitVec 5) (n : BitVec 19) (s : State) : Out := loopi s l n.toNat
def execLoopiReg (l : BitVec 5) (xs : Reg) (s : State) : Out := loopi s l (rx (cc s) xs).toNat

end Sys2Proof.Machine
end

