-- ==== Sys2Proof/Machine/Vector.lean ====
section
/-! DEFINITION. The vector and mask instructions and the standing loop (chapter 18; 11 R215 to R217; 12 R222, R232; 07 R141). -/

namespace Sys2Proof.Machine

/-! ### Element types and lanes (12 R222, R232; 18 R307) -/

/-- What a vector instruction samples (11 R215): RMODE, the descriptors, and what a standing loop adds to position words. -/
structure VEnv where
  rmode : Word
  fmta : Word
  fmtb : Word
  fmtc : Word
  pos : Nat := 0

/-- The environment of a core's scalar stream. -/
def envOf (k : Core) : VEnv := { rmode := k.rmode, fmta := k.fmta, fmtb := k.fmtb, fmtc := k.fmtc }

/-- An element type: its width in the register, and its format; integers have no exponent. -/
structure ETy where
  w : Nat
  f : Fmt

/-- Whether elements are floating. -/
def ETy.flt (t : ETy) : Bool := decide (t.f.ew ≠ 0)

/-- A narrow type; none when its descriptor is UNSET. -/
def narrowTy (d : Word) : Option ETy := (descFmt d).map fun f => ⟨fieldW f.width, f⟩

/-- The type of a code of R232: none for a reserved code and for an UNSET descriptor. -/
def etype (e : VEnv) (t : BitVec 4) : Option ETy :=
  let n := t.toNat
  if n < 8 then some ⟨8 * 2 ^ (n % 4), intFmt (decide (n < 4)) (8 * 2 ^ (n % 4))⟩
  else if n = 8 then some ⟨32, f32⟩
  else if n = 9 then some ⟨16, f16⟩
  else if n = 10 then some ⟨16, bf16⟩
  else if n = 11 then narrowTy e.fmta
  else if n = 12 then narrowTy e.fmtb
  else none

/-- VCVT's destination type: code 11 names FMTC, and code 12 is reserved (18 R317). -/
def cvtDst (e : VEnv) (t : BitVec 4) : Option ETy := if t = 11 then narrowTy e.fmtc else if t.toNat < 11 then etype e t else none

/-- The groups of types that R307 admits. -/
def tyAll (_ : BitVec 4) : Bool := true
def tyNative (t : BitVec 4) : Bool := decide (t.toNat ≤ 10)
def tyOffset (t : BitVec 4) : Bool := decide (t.toNat ∈ [2, 3, 6, 7, 8])
def tyInt (t : BitVec 4) : Bool := decide (t.toNat ≤ 7)
def tyFloat (t : BitVec 4) : Bool := decide (8 ≤ t.toNat) && decide (t.toNat ≤ 10)
def ty64 (t : BitVec 4) : Bool := decide (t.toNat = 3) || decide (t.toNat = 7)
def tyF32 (t : BitVec 4) : Bool := decide (t.toNat = 8)

/-- A type code accepted by a group, its descriptor set. -/
def tyOk (e : VEnv) (g : BitVec 4 → Bool) (t : BitVec 4) : Bool := g t && (etype e t).isSome

/-- The elements of a register at a width of w bits. -/
def lanes (v : VWord) (w : Nat) : List Nat := (List.range (1024 / w)).map fun i => v.toNat / 2 ^ (w * i) % 2 ^ w

/-- The register that holds these elements. -/
def pack (w : Nat) (l : List Nat) : VWord := BitVec.ofNat 1024 (l.zipIdx.foldl (fun n p => n + p.1 % 2 ^ w * 2 ^ (w * p.2)) 0)

/-- Whether element i is active under a mask field (12 R222). -/
def active (k : Core) (m : BitVec 3) (w i : Nat) : Bool := decide (m = 0) || (rk k m).getLsbD (w * i / 8)

/-- The rounding state of lane i (11 R217). -/
def laneRm (e : VEnv) (i : Nat) : RM := rmAt e.rmode (i % 512 * 2 ^ 48 + fld e.rmode 31 16 * 2 ^ 32 + e.pos)

/-- v[vd] with its active elements replaced. -/
def vmap (k : Core) (vd : Reg) (w : Nat) (m : BitVec 3) (f : Nat → Nat) : Core :=
  wv k vd (pack w ((lanes (rv k vd) w).zipIdx.map fun p => if active k m w p.2 then f p.2 else p.1))

/-- An element operation on va, vb and the old vd. -/
def vzip (e : VEnv) (k : Core) (vd va vb : Reg) (t : BitVec 4) (m : BitVec 3) (f : ETy → RM → Nat → Nat → Nat → Nat) : Core :=
  match etype e t with
  | none => k
  | some t =>
    let a := lanes (rv k va) t.w
    let b := lanes (rv k vb) t.w
    let d := lanes (rv k vd) t.w
    vmap k vd t.w m fun i => f t (laneRm e i) (a.getD i 0) (b.getD i 0) (d.getD i 0)

/-! ### Element operations -/

/-- A floating operation passed through RoundTo, or an integer one modulo 2^we (18 R308, R313). -/
def arith (ff : FV → FV → FV → FV) (fi : Nat → Nat → Nat → Nat) (t : ETy) (r : RM) (a b d : Nat) : Nat :=
  if t.flt then roundTo t.f r (ff (fin t.f r.fz a) (fin t.f r.fz b) (fin t.f r.fz d)) else fi a b d % 2 ^ t.w

def addE (t : ETy) : RM → Nat → Nat → Nat → Nat := arith (fun a b _ => fadd a b) (fun a b _ => a + b) t
def subE (t : ETy) : RM → Nat → Nat → Nat → Nat := arith (fun a b _ => fadd a (fneg b)) (fun a b _ => a + (2 ^ t.w - b)) t
def mulE (t : ETy) : RM → Nat → Nat → Nat → Nat := arith (fun a b _ => fmul a b) (fun a b _ => a * b) t
def fmaE (t : ETy) : RM → Nat → Nat → Nat → Nat := arith (fun a b d => fadd (fmul a b) d) (fun a b d => d + a * b) t

/-- An element as an integer, signed or unsigned by its type. -/
def eint (t : ETy) (a : Nat) : Int := if t.f.s then signedN t.w a else (a : Int)

/-- VMIN and VMAX. -/
def minmaxE (mx : Bool) (t : ETy) (r : RM) (a b : Nat) : Nat :=
  if t.flt then fminmax t.f r.fz mx a b
  else if mx then (if eint t a < eint t b then b else a) else (if eint t b < eint t a then b else a)

/-- VABS: FZ does not apply. -/
def absE (t : ETy) (a : Nat) : Nat :=
  if t.flt then (if (fval t.f a).isNan then nanCode t.f else a % 2 ^ (t.w - 1))
  else if eint t a < 0 then (2 ^ t.w - a) % 2 ^ t.w else a

/-- VNEG: FZ does not apply. -/
def negE (t : ETy) (a : Nat) : Nat :=
  if t.flt then (if (fval t.f a).isNan then nanCode t.f else a ^^^ 2 ^ (t.w - 1)) else (2 ^ t.w - a) % 2 ^ t.w

/-- VSRA of an element by c. -/
def sraE (w a c : Nat) : Nat := wrapN w (signedN w a / (2 ^ c : Nat))

/-- The comparisons of VCMP: 0 EQ, 1 NE, 2 LT, 3 LE, 4 GT, 5 GE, 6 UN (18 R315). -/
def cmpE (cc_ : Nat) (t : ETy) (r : RM) (a b : Nat) : Bool :=
  if t.flt then
    let x := fin t.f r.fz a
    let y := fin t.f r.fz b
    let un := x.isNan || y.isNan
    match cc_ with
    | 0 => !un && decide (fcmp x y = 0)
    | 1 => un || decide (fcmp x y ≠ 0)
    | 2 => !un && decide (fcmp x y < 0)
    | 3 => !un && decide (fcmp x y ≤ 0)
    | 4 => !un && decide (0 < fcmp x y)
    | 5 => !un && decide (0 ≤ fcmp x y)
    | _ => un
  else
    let x := eint t a
    let y := eint t b
    match cc_ with
    | 0 => decide (x = y)
    | 1 => decide (x ≠ y)
    | 2 => decide (x < y)
    | 3 => decide (x ≤ y)
    | 4 => decide (y < x)
    | _ => decide (y ≤ x)

/-- VCMP: every bit of kd set by its element's result, and cleared where the element is not active. -/
def vcmp (cc_ : Nat) (e : VEnv) (k : Core) (kd : BitVec 3) (va vb : Reg) (t : BitVec 4) (m : BitVec 3) : Core :=
  match etype e t with
  | none => k
  | some t =>
    let a := lanes (rv k va) t.w
    let b := lanes (rv k vb) t.w
    let n := (List.range (1024 / t.w)).foldl (fun n i =>
      if active k m t.w i && cmpE cc_ t (laneRm e i) (a.getD i 0) (b.getD i 0) then n + (2 ^ (t.w / 8) - 1) * 2 ^ (t.w / 8 * i) else n) 0
    wk k kd (BitVec.ofNat 128 n)

/-- VCVT of a value of one type to a code of another (18 R317). -/
def convert (s d : ETy) (r : RM) (a : Nat) : Nat := roundTo d.f r (fin s.f r.fz (a % 2 ^ s.f.width))

/-- VCVT: the first N elements, N from the wider of the two types. -/
def vcvt (e : VEnv) (k : Core) (vd va : Reg) (src t : BitVec 4) (m : BitVec 3) : Core :=
  match etype e src, cvtDst e t with
  | some s, some d =>
    let a := lanes (rv k va) s.w
    let n := 1024 / max s.w d.w
    let old := lanes (rv k vd) d.w
    vmap k vd d.w m fun i => if i < n then convert s d (laneRm e i) (a.getD i 0) else old.getD i 0
  | _, _ => k

/-- The identity of a reduction (18 R318): 0 SUM, 1 MIN, 2 MAX, 3 AND, 4 OR, 5 XOR. -/
def redId (op : Nat) (t : ETy) : Nat :=
  match op with
  | 1 => if t.flt then infCode t.f false else wrapN t.w (intMax t.f.s t.w)
  | 2 => if t.flt then infCode t.f true else wrapN t.w (intMin t.f.s t.w)
  | 3 => 2 ^ t.w - 1
  | _ => 0

/-- One combination of a reduction. -/
def redOp (op : Nat) (t : ETy) (r : RM) (a b : Nat) : Nat :=
  match op with
  | 0 => addE t r a b 0
  | 1 => minmaxE false t r a b
  | 2 => minmaxE true t r a b
  | 3 => a &&& b
  | 4 => a ||| b
  | _ => a ^^^ b

/-- An element in a scalar register: sign-extended for signed integers, zero-extended otherwise (18 R316, R318). -/
def toScalar (t : ETy) (a : Nat) : Word := if t.f.ew = 0 && t.f.s && decide (t.w ≥ 8 ∧ t.f.width = t.w) then wdI (signedN t.w a) else wd a

/-- VRED over the fixed tree (18 R318). -/
def vred (e : VEnv) (k : Core) (va : Reg) (op : Nat) (t : BitVec 4) (m : BitVec 3) : Word :=
  match etype e t with
  | none => 0
  | some t =>
    let l := ((lanes (rv k va) t.w).zipIdx.filter fun p => active k m t.w p.2).map fun p => (p.2, p.1)
    toScalar t ((treeRed (fun h a b => redOp op t (laneRm e h) a b) (Nat.log2 (1024 / t.w)) 0 1 l).getD (redId op t))

/-! ### The register forms -/

/-- Whether an instruction's type is one that R307 admits for it, with its descriptors set. -/
def vtypeOk (e : VEnv) : Instr → Bool
  | .vld _ _ t _ => tyOk e tyAll t
  | .vst _ _ t _ => tyOk e tyAll t
  | .vlds _ _ _ t _ => tyOk e tyNative t
  | .vsts _ _ _ t _ => tyOk e tyNative t
  | .vgath _ _ _ t _ => tyOk e tyOffset t
  | .vscat _ _ _ t _ => tyOk e tyOffset t
  | .vadd _ _ _ t _ => tyOk e tyNative t
  | .vsub _ _ _ t _ => tyOk e tyNative t
  | .vmul _ _ _ t _ => tyOk e tyNative t
  | .vfma _ _ _ t _ => tyOk e tyNative t
  | .vmin _ _ _ t _ => tyOk e tyNative t
  | .vmax _ _ _ t _ => tyOk e tyNative t
  | .vabs _ _ t _ => tyOk e tyNative t
  | .vneg _ _ t _ => tyOk e tyNative t
  | .vand _ _ _ t _ => tyOk e tyNative t
  | .vor _ _ _ t _ => tyOk e tyNative t
  | .vxor _ _ _ t _ => tyOk e tyNative t
  | .vshl _ _ _ t _ => tyOk e tyInt t
  | .vshr _ _ _ t _ => tyOk e tyInt t
  | .vsra _ _ _ t _ => tyOk e tyInt t
  | .vcmpEq _ _ _ t _ => tyOk e tyNative t
  | .vcmpNe _ _ _ t _ => tyOk e tyNative t
  | .vcmpLt _ _ _ t _ => tyOk e tyNative t
  | .vcmpLe _ _ _ t _ => tyOk e tyNative t
  | .vcmpGt _ _ _ t _ => tyOk e tyNative t
  | .vcmpGe _ _ _ t _ => tyOk e tyNative t
  | .vcmpUn _ _ _ t _ => tyOk e tyFloat t
  | .vsel _ _ _ t _ => tyOk e tyAll t
  | .vcvt _ _ src t _ => (etype e src).isSome && (cvtDst e t).isSome
  | .vred _ _ op t _ => tyOk e tyNative t && (decide (op.toNat ≤ 2) || decide (op.toNat ≤ 5) && tyInt t)
  | .vperm _ _ _ t _ => tyOk e tyNative t
  | .vbcst _ _ t _ => tyOk e tyAll t
  | .vext _ _ _ t => tyOk e tyAll t
  | .vins _ _ _ t => tyOk e tyAll t
  | .vpopc _ _ t _ => tyOk e tyInt t
  | .vclmul _ _ _ t _ => tyOk e ty64 t
  | .vclmulh _ _ _ t _ => tyOk e ty64 t
  | _ => true

/-- The scalar fields that an instruction reads, in field order, and the one that it writes. -/
def vscalarIn : Instr → List Reg
  | .vbcst _ xa _ _ => [xa]
  | .vext _ _ xi _ => [xi]
  | .vins _ xa xi _ => [xa, xi]
  | _ => []
def vscalarOut : Instr → Option Reg
  | .vred xd _ _ _ _ => some xd
  | .vext xd _ _ _ => some xd
  | _ => none

/-- Whether an instruction samples RMODE: the mask instructions do not (18 R308, R322). -/
def vsamples : Instr → Bool
  | .kand _ _ _ => false
  | .kor _ _ _ => false
  | .knot _ _ => false
  | _ => true

/-- The effect of a register-to-register instruction on a core's vector and mask registers, with the values of its scalar fields, and the value
for the scalar field that it writes (18 R313 to R322). -/
def vop (e : VEnv) (k : Core) (xs : List Word) : Instr → Core × Word
  | .vadd d a b t m => (vzip e k d a b t m addE, 0)
  | .vsub d a b t m => (vzip e k d a b t m subE, 0)
  | .vmul d a b t m => (vzip e k d a b t m mulE, 0)
  | .vfma d a b t m => (vzip e k d a b t m fmaE, 0)
  | .vmin d a b t m => (vzip e k d a b t m fun t r a b _ => minmaxE false t r a b, 0)
  | .vmax d a b t m => (vzip e k d a b t m fun t r a b _ => minmaxE true t r a b, 0)
  | .vabs d a t m => (vzip e k d a a t m fun t _ a _ _ => absE t a, 0)
  | .vneg d a t m => (vzip e k d a a t m fun t _ a _ _ => negE t a, 0)
  | .vand d a b t m => (vzip e k d a b t m fun _ _ a b _ => a &&& b, 0)
  | .vor d a b t m => (vzip e k d a b t m fun _ _ a b _ => a ||| b, 0)
  | .vxor d a b t m => (vzip e k d a b t m fun _ _ a b _ => a ^^^ b, 0)
  | .vshl d a b t m => (vzip e k d a b t m fun t _ a b _ => a * 2 ^ (b % t.w) % 2 ^ t.w, 0)
  | .vshr d a b t m => (vzip e k d a b t m fun t _ a b _ => a / 2 ^ (b % t.w), 0)
  | .vsra d a b t m => (vzip e k d a b t m fun t _ a b _ => sraE t.w a (b % t.w), 0)
  | .vcmpEq kd a b t m => (vcmp 0 e k kd a b t m, 0)
  | .vcmpNe kd a b t m => (vcmp 1 e k kd a b t m, 0)
  | .vcmpLt kd a b t m => (vcmp 2 e k kd a b t m, 0)
  | .vcmpLe kd a b t m => (vcmp 3 e k kd a b t m, 0)
  | .vcmpGt kd a b t m => (vcmp 4 e k kd a b t m, 0)
  | .vcmpGe kd a b t m => (vcmp 5 e k kd a b t m, 0)
  | .vcmpUn kd a b t m => (vcmp 6 e k kd a b t m, 0)
  | .vsel d a b t m =>
    match etype e t with
    | none => (k, 0)
    | some t =>
      let x := lanes (rv k a) t.w
      let y := lanes (rv k b) t.w
      (wv k d (pack t.w ((List.range (1024 / t.w)).map fun i => if active k m t.w i then x.getD i 0 else y.getD i 0)), 0)
  | .vcvt d a src t m => (vcvt e k d a src t m, 0)
  | .vred _ a op t m => (k, vred e k a op.toNat t m)
  | .vperm d a vi t m =>
    match etype e t with
    | none => (k, 0)
    | some t =>
      let x := lanes (rv k a) t.w
      let y := lanes (rv k vi) t.w
      (vmap k d t.w m fun i => x.getD (y.getD i 0 % (1024 / t.w)) 0, 0)
  | .vbcst d _ t m =>
    match etype e t with
    | none => (k, 0)
    | some t => (vmap k d t.w m fun _ => (xs.getD 0 0).toNat, 0)
  | .vext _ a _ t =>
    match etype e t with
    | none => (k, 0)
    | some ty => (k, (if tyInt t then toScalar ty else wd) ((lanes (rv k a) ty.w).getD ((xs.getD 0 0).toNat % (1024 / ty.w)) 0))
  | .vins d _ _ t =>
    match etype e t with
    | none => (k, 0)
    | some ty =>
      let j := (xs.getD 1 0).toNat % (1024 / ty.w)
      (wv k d (pack ty.w ((lanes (rv k d) ty.w).set j (xs.getD 0 0).toNat)), 0)
  | .vpopc d a t m => (vzip e k d a a t m fun t _ a _ _ => popN t.w a, 0)
  | .vclmul d a b t m => (vzip e k d a b t m fun _ _ a b _ => clmulN 64 a b % 2 ^ 64, 0)
  | .vclmulh d a b t m => (vzip e k d a b t m fun _ _ a b _ => clmulN 64 a b / 2 ^ 64, 0)
  | .vexp2 d a m => (vzip e k d a a 8 m fun _ _ a _ _ => exp2 a, 0)
  | .vrcp d a m => (vzip e k d a a 8 m fun _ r a _ _ => recip r.fz a, 0)
  | .vrsq d a m => (vzip e k d a a 8 m fun _ r a _ _ => rsqrt r.fz a, 0)
  | .kand d a b => (wk k d (rk k a &&& rk k b), 0)
  | .kor d a b => (wk k d (rk k a ||| rk k b), 0)
  | .knot d a => (wk k d (~~~rk k a), 0)
  | _ => (k, 0)

/-! ### Issue in the scalar stream -/

/-- Whether the names of the loop bank are closed to the running activation (07 R141, 18 R325): while a loop stands, and after its end to every
activation but the end-of-stream one. -/
def bankClosed (k : Core) : Bool :=
  match k.loop with
  | none => false
  | some l =>
    if l.phase = 1 then true
    else if l.phase = 2 then !decide ((k.act.bind (·.msg.eosEnd)) = some (l.endk.1, l.endk.2.1))
    else false

/-- Whether an instruction names a register of the loop bank. -/
def namesBank (i : Instr) : Bool := (vnames i).1.any (fun v => decide (16 ≤ v.toNat)) || (vnames i).2.any fun m => decide (4 ≤ m.toNat)

/-- The common part of every vector instruction at the scalar issue point (18 R308, 12 R235): ILL for a type, PRIV for a bank name, the wait
while a loop's block is in progress (18 R324), and then go. -/
def vcheck (s : State) (i : Instr) (go : Out) : Out :=
  let k := cc s
  if !vtypeOk (envOf k) i then ill s
  else if bankClosed k && namesBank i then trap s 0x27 none
  else if k.loop.any fun l => l.mid.isSome then .next s
  else go

/-- The core after a register-to-register instruction: the registers, the scalar destination, and the sampling. -/
def vrun (k : Core) (i : Instr) : Core :=
  let (k', r) := vop (envOf k) k ((vscalarIn i).map (rx k)) i
  let k' := match vscalarOut i with | some rd => wx k' rd r | none => k'
  if vsamples i then sampleStep k' else k'

/-- A register-to-register instruction of the scalar stream. -/
def vissue (s : State) (i : Instr) : Out := vcheck s i (.next (done s fun k => vrun k i))

def execVadd (vd va vb : Reg) (t : BitVec 4) (m : BitVec 3) (s : State) : Out := vissue s (.vadd vd va vb t m)
def execVsub (vd va vb : Reg) (t : BitVec 4) (m : BitVec 3) (s : State) : Out := vissue s (.vsub vd va vb t m)
def execVmul (vd va vb : Reg) (t : BitVec 4) (m : BitVec 3) (s : State) : Out := vissue s (.vmul vd va vb t m)
def execVfma (vd va vb : Reg) (t : BitVec 4) (m : BitVec 3) (s : State) : Out := vissue s (.vfma vd va vb t m)
def execVmin (vd va vb : Reg) (t : BitVec 4) (m : BitVec 3) (s : State) : Out := vissue s (.vmin vd va vb t m)
def execVmax (vd va vb : Reg) (t : BitVec 4) (m : BitVec 3) (s : State) : Out := vissue s (.vmax vd va vb t m)
def execVabs (vd va : Reg) (t : BitVec 4) (m : BitVec 3) (s : State) : Out := vissue s (.vabs vd va t m)
def execVneg (vd va : Reg) (t : BitVec 4) (m : BitVec 3) (s : State) : Out := vissue s (.vneg vd va t m)
def execVand (vd va vb : Reg) (t : BitVec 4) (m : BitVec 3) (s : State) : Out := vissue s (.vand vd va vb t m)
def execVor (vd va vb : Reg) (t : BitVec 4) (m : BitVec 3) (s : State) : Out := vissue s (.vor vd va vb t m)
def execVxor (vd va vb : Reg) (t : BitVec 4) (m : BitVec 3) (s : State) : Out := vissue s (.vxor vd va vb t m)
def execVshl (vd va vb : Reg) (t : BitVec 4) (m : BitVec 3) (s : State) : Out := vissue s (.vshl vd va vb t m)
def execVshr (vd va vb : Reg) (t : BitVec 4) (m : BitVec 3) (s : State) : Out := vissue s (.vshr vd va vb t m)
def execVsra (vd va vb : Reg) (t : BitVec 4) (m : BitVec 3) (s : State) : Out := vissue s (.vsra vd va vb t m)
def execVcmpEq (kd : BitVec 3) (va vb : Reg) (t : BitVec 4) (m : BitVec 3) (s : State) : Out := vissue s (.vcmpEq kd va vb t m)
def execVcmpNe (kd : BitVec 3) (va vb : Reg) (t : BitVec 4) (m : BitVec 3) (s : State) : Out := vissue s (.vcmpNe kd va vb t m)
def execVcmpLt (kd : BitVec 3) (va vb : Reg) (t : BitVec 4) (m : BitVec 3) (s : State) : Out := vissue s (.vcmpLt kd va vb t m)
def execVcmpLe (kd : BitVec 3) (va vb : Reg) (t : BitVec 4) (m : BitVec 3) (s : State) : Out := vissue s (.vcmpLe kd va vb t m)
def execVcmpGt (kd : BitVec 3) (va vb : Reg) (t : BitVec 4) (m : BitVec 3) (s : State) : Out := vissue s (.vcmpGt kd va vb t m)
def execVcmpGe (kd : BitVec 3) (va vb : Reg) (t : BitVec 4) (m : BitVec 3) (s : State) : Out := vissue s (.vcmpGe kd va vb t m)
def execVcmpUn (kd : BitVec 3) (va vb : Reg) (t : BitVec 4) (m : BitVec 3) (s : State) : Out := vissue s (.vcmpUn kd va vb t m)
def execVsel (vd va vb : Reg) (t : BitVec 4) (m : BitVec 3) (s : State) : Out := vissue s (.vsel vd va vb t m)
def execVcvt (vd va : Reg) (src t : BitVec 4) (m : BitVec 3) (s : State) : Out := vissue s (.vcvt vd va src t m)
def execVred (xd va op : Reg) (t : BitVec 4) (m : BitVec 3) (s : State) : Out := vissue s (.vred xd va op t m)
def execVperm (vd va vb : Reg) (t : BitVec 4) (m : BitVec 3) (s : State) : Out := vissue s (.vperm vd va vb t m)
def execVbcst (vd xa : Reg) (t : BitVec 4) (m : BitVec 3) (s : State) : Out := vissue s (.vbcst vd xa t m)
def execVext (xd va xi : Reg) (t : BitVec 4) (s : State) : Out := vissue s (.vext xd va xi t)
def execVins (vd xa xi : Reg) (t : BitVec 4) (s : State) : Out := vissue s (.vins vd xa xi t)
def execVpopc (vd va : Reg) (t : BitVec 4) (m : BitVec 3) (s : State) : Out := vissue s (.vpopc vd va t m)
def execVclmul (vd va vb : Reg) (t : BitVec 4) (m : BitVec 3) (s : State) : Out := vissue s (.vclmul vd va vb t m)
def execVclmulh (vd va vb : Reg) (t : BitVec 4) (m : BitVec 3) (s : State) : Out := vissue s (.vclmulh vd va vb t m)
def execVexp2 (vd va : Reg) (m : BitVec 3) (s : State) : Out := vissue s (.vexp2 vd va m)
def execVrcp (vd va : Reg) (m : BitVec 3) (s : State) : Out := vissue s (.vrcp vd va m)
def execVrsq (vd va : Reg) (m : BitVec 3) (s : State) : Out := vissue s (.vrsq vd va m)
def execKand (kd ka kb : BitVec 3) (s : State) : Out := vissue s (.kand kd ka kb)
def execKor (kd ka kb : BitVec 3) (s : State) : Out := vissue s (.kor kd ka kb)
def execKnot (kd ka : BitVec 3) (s : State) : Out := vissue s (.knot kd ka)

/-! ### The memory forms (18 R309 to R312) -/

/-- An element's access: its index, its lowest byte address over unbounded integers, and its bytes. -/
structure VAcc where
  i : Nat
  a : Int
  n : Nat

/-- The first active element that a check fails on, with the cause (18 R309): ALIGN by element or, for a span, by the blocks of a fused
window; PRIV above bit 18; then the region table. -/
def vaccFault (s : State) (l : List VAcc) (aligned : Bool) (wr : Bool) : Option (Nat × Word) :=
  let inWin := fun (x : VAcc) => decide (0 ≤ x.a) && decide (x.a < 2 ^ 19) && (fusedAt s s.cur x.a.toNat).isSome
  let fused := l.any inWin
  let base := (l.head?.map (·.a)).getD 0
  let first := (l.find? inWin).map (·.a)
  let cross := fun (x : VAcc) =>
    fused && (decide (x.a / 256 ≠ (x.a + x.n - 1) / 256) || (aligned && decide (x.a / 256 ≠ first.getD base / 256)))
  match l.find? fun (x : VAcc) => (!aligned && decide (x.a % (x.n : Int) ≠ 0)) || cross x with
  | some x => some (0x13, wdI x.a)
  | none =>
    match l.find? fun x => decide (x.a < 0) || decide (2 ^ 19 ≤ x.a) with
    | some x => some (0x27, wdI x.a)
    | none => l.findSome? fun x => (accessFault s s.cur (curSlot (cc s)) x.a.toNat x.n wr).map fun f => (f.1, wdI x.a)

/-- The active elements of a contiguous, strided or indexed form. -/
def vaccs (k : Core) (m : BitVec 3) (w : Nat) (at_ : Nat → Int) : List VAcc :=
  ((List.range (1024 / w)).filter fun i => active k m w i).map fun i => ⟨i, at_ i, max 1 (w / 8)⟩

/-- The words of LM that accesses touch, in their order. -/
def accWords (l : List VAcc) : List Nat := l.foldl (fun ws x => addTo (x.a.toNat / 8) ws) []

/-- One word read for the instruction at the issue point: from the core's own LM, or asked of the member that holds it (09 R173, R177). -/
def takeWord (s : State) (w : Nat) : State :=
  let (c, a) := lmHome s (8 * w)
  if c = s.cur then
    let s := struck s c a 8
    setCC s { cc s with vgot := mput (cc s).vgot w (wd (rdLE (cc s).lm a 8), lmBad (cc s) a 8) }
  else askRow s c a w

/-- The bytes of an access out of the words read. -/
def gotBytes (k : Core) (x : VAcc) : Nat := (mgetD k.vgot (x.a.toNat / 8) (0, false)).1.toNat / 256 ^ (x.a.toNat % 8) % 256 ^ x.n

/-- A load whose words have all been read: poison is consumed (04 R69), and active elements take their bytes. At widths below a byte an element's byte is
loaded whole. -/
def vloadEnd (s : State) (v : Reg) (w : Nat) (l : List VAcc) : Out :=
  if l.any fun x => (mgetD (cc s).vgot (x.a.toNat / 8) (0, false)).2 then .next (sealCore s s.cur)
  else
    let w8 := max 8 w
    let put := fun (r : List Nat) (x : VAcc) => r.set (x.i * w / w8) (gotBytes (cc s) x)
    .next (done s fun k => sampleStep (wv k v (pack w8 (l.foldl put (lanes (rv k v) w8)))))

/-- A load of elements past the checks: each 8-byte word is read in a step of its own (09 R177), in ascending order of the elements, and the last one
completes it. -/
def vload (s : State) (i : Instr) (v : Reg) (w : Nat) (l : List VAcc) (span : Bool) (base : Word) : Out :=
  vcheck s i <|
    if span && decide (base.toNat % 8 ≠ 0) && !l.isEmpty then trap s 0x13 (some (wdI ((l.head?.map (·.a)).getD 0)))
    else
      match vaccFault s l span false with
      | some (cause, p) => trap s cause (some p)
      | none =>
        let left := fun (s : State) => (accWords l).filter fun x => (mget (cc s).vgot x).isNone
        let s := match (left s).find? fun x => !rowAsked (cc s) x with
          | some x => takeWord s x
          | none => s
        if left s = [] then vloadEnd s v w l else .next s

/-- One unit of a vector store: written to the core's own LM, or sent to the member that holds it (09 R173); a poisoned register passes its poison on
(04 R69). -/
def vstoreUnit (s : State) (a : Nat) (bs : List Byte) (bad : Bool) : State :=
  let (c, at_) := lmHome s a
  let s := protect s a
  if c = s.cur then
    let s := struck (lmWrite s c at_ bs) c at_ bs.length
    if bad then lmPoison s c at_ bs.length else s
  else rowStore s c at_ bs.length (wd (leNat bs)) false bad

/-- Adjacent accesses of one 8-byte word joined, so that its bytes are written at once. -/
def joinRuns : List (Nat × List Byte) → List (Nat × List Byte)
  | [] => []
  | (a, bs) :: l =>
    match joinRuns l with
    | (b, cs) :: r => if b = a + bs.length ∧ b / 8 = a / 8 then (a, bs ++ cs) :: r else (a, bs) :: (b, cs) :: r
    | [] => [(a, bs)]

/-- A store of elements past the checks: each unit, a word of a span or an element, is written in a step of its own (09 R177), in ascending order of the
elements, and the last one completes it. -/
def vstore (s : State) (i : Instr) (v : Reg) (w : Nat) (l : List VAcc) (span : Bool) (base : Word) : Out :=
  vcheck s i <|
    if span && decide (base.toNat % 8 ≠ 0) && !l.isEmpty then trap s 0x13 (some (wdI ((l.head?.map (·.a)).getD 0)))
    else
      match vaccFault s l span true with
      | some (cause, p) => trap s cause (some p)
      | none =>
        let w8 := max 8 w
        let src := lanes (rv (cc s) v) w8
        let bs := l.map fun x => (x.a.toNat, leBytes x.n (src.getD (x.i * w / w8) 0))
        let us := if span then joinRuns bs else bs
        let n := (cc s).vpos
        match us[n]? with
        | none => .next (done s sampleStep)
        | some u =>
          let s := vstoreUnit s u.1 u.2 (vbad (cc s) v)
          if n + 1 = us.length then .next (done s sampleStep) else .next (setCC s { cc s with vpos := n + 1 })

/-- The width of an instruction's elements; 8 where its type is refused anyway. -/
def ewidth (k : Core) (t : BitVec 4) : Nat := match etype (envOf k) t with | some t => t.w | none => 8

/-- Active elements of VLD and VST: those of one byte are one access. -/
def spanAccs (k : Core) (m : BitVec 3) (w : Nat) (a : Word) : List VAcc :=
  (vaccs k m w fun i => (a.toNat : Int) + (w * i / 8 : Nat)).filter fun x => decide (w * x.i % 8 = 0)

def execVld (v xa : Reg) (t : BitVec 4) (m : BitVec 3) (s : State) : Out :=
  let k := cc s
  let w := ewidth k t
  vload s (.vld v xa t m) v w (spanAccs k m w (rx k xa)) true (rx k xa)
def execVst (v xa : Reg) (t : BitVec 4) (m : BitVec 3) (s : State) : Out :=
  let k := cc s
  let w := ewidth k t
  vstore s (.vst v xa t m) v w (spanAccs k m w (rx k xa)) true (rx k xa)
def execVlds (v xa xs : Reg) (t : BitVec 4) (m : BitVec 3) (s : State) : Out :=
  let k := cc s
  let w := ewidth k t
  vload s (.vlds v xa xs t m) v w (vaccs k m w fun i => (rx k xa).toNat + i * (rx k xs).toInt) false 0
def execVsts (v xa xs : Reg) (t : BitVec 4) (m : BitVec 3) (s : State) : Out :=
  let k := cc s
  let w := ewidth k t
  vstore s (.vsts v xa xs t m) v w (vaccs k m w fun i => (rx k xa).toNat + i * (rx k xs).toInt) false 0
def execVgath (v xa vo : Reg) (t : BitVec 4) (m : BitVec 3) (s : State) : Out :=
  let k := cc s
  let w := ewidth k t
  let o := lanes (rv k vo) w
  vload s (.vgath v xa vo t m) v w (vaccs k m w fun i => (((rx k xa).toNat + o.getD i 0 : Nat) : Int)) false 0
def execVscat (v xa vo : Reg) (t : BitVec 4) (m : BitVec 3) (s : State) : Out :=
  let k := cc s
  let w := ewidth k t
  let o := lanes (rv k vo) w
  vstore s (.vscat v xa vo t m) v w (vaccs k m w fun i => (((rx k xa).toNat + o.getD i 0 : Nat) : Int)) false 0

/-! ### Standing loops (18 R323, R324) -/

/-- Whether a word may stand in a loop body under the descriptors of the time (18 R323): opcodes 0x61 to 0x66, the bank's names, queue
registers in the scalar fields, and a type that its instruction accepts. -/
def bodyOk (e : VEnv) (w : IWord) : Bool :=
  match decode w with
  | .error _ => false
  | .ok i =>
    let op := w.toNat / 2 ^ 25
    let ms := (vnames i).2
    -- the mask field, last where there is one, may be 0; the other k names are the bank's
    let masked := decide (op ≠ 0x66) && !ms.isEmpty
    let kd := if masked then ms.dropLast else ms
    let mf := if masked then ms.drop (ms.length - 1) else []
    decide (0x61 ≤ op) && decide (op ≤ 0x66) && (vnames i).1.all (fun v => decide (16 ≤ v.toNat)) && kd.all (fun m => decide (4 ≤ m.toNat)) &&
    mf.all (fun m => decide (m = 0) || decide (4 ≤ m.toNat)) && (vscalarIn i ++ (vscalarOut i).toList).all (fun r => decide (r.toNat ≤ 3)) &&
    vtypeOk e i

/-- The word at a local address. -/
def wordAt (k : Core) (a : Nat) : IWord := BitVec.ofNat 32 (rdLE k.lm a 4)

/-- VLOOP (18 R323): the fetch of the body, ILL, BUSY, BADARG, and otherwise the loop set up; the PC passes the body in every case. -/
def execVloop (l : BitVec 5) (xs : Reg) (s : State) : Out :=
  let k := cc s
  let n := l.toNat + 1
  let addrs := (List.range n).map fun i => k.pc.toNat + 4 + 4 * i
  match addrs.findSome? fun a => fetchFault { k with pc := wd a } with
  | some (0x25, _) => .next (sealCore s s.cur)
  | some (cause, a) => trap s cause a
  | none =>
    let body := addrs.map (wordAt k)
    let finish := fun (k : Core) (st : Word) => Host.Outcome.next (setCC s (passTo (wx k xs st) (k.pc + wd (4 * n))))
    let bound := k.vqbind.bind fun key => (endRec k key).filter fun e => decide (e.kind = 1 ∧ e.slot = curSlot k)
    if k.trapped || !body.all (bodyOk (envOf k)) then ill s
    else if k.loop.isSome then finish k 0x01
    else
      match bound with
      | none => finish k 0x66
      | some e =>
        finish { k with loop := some { slot := curSlot k, body := body, rmode := k.rmode, fmta := k.fmta, fmtb := k.fmtb, fmtc := k.fmtc, fmts := k.fmts, endk := keyOf e } } 0

/-- The pops of a body instruction's scalar fields, in field order; none while a queue is empty. -/
def popAll (k : Core) : List Reg → Option (List Word × Core)
  | [] => some ([], k)
  | r :: rs =>
    match qreg k r.toNat with
    | [] => none
    | v :: _ => (popAll (popQ k r.toNat) rs).map fun p => (v :: p.1, p.2)

/-- Whether one of the pops of a body instruction takes a poisoned entry. -/
def popsBad (k : Core) : List Reg → Bool
  | [] => false
  | r :: rs => !(qreg k r.toNat).isEmpty && (headBad k r.toNat || popsBad (popQ k r.toNat) rs)

/-- Whether a body instruction consumes poison (04 R69). -/
def bodyBad (k : Core) (i : Instr) : Bool := vecBad k i || popsBad k (vscalarIn i)

/-- One body instruction: none while it is blocked on a queue register (07 R140), or where it consumes poison. -/
def bodyStep (e : VEnv) (k : Core) (i : Instr) : Option Core :=
  if bodyBad k i then none else
  match popAll k (vscalarIn i) with
  | none => none
  | some (xs, k) =>
    match vscalarOut i with
    | none => some (vop e k xs i).1
    | some r =>
      if (qreg k r.toNat).length ≥ 4 then none
      else
        let (k', v) := vop e k xs i
        some (setQreg k' r.toNat (qreg k' r.toNat ++ [v]))

/-- The body from an index on: the core, and the index at which it stands blocked, if it does. -/
def bodyRun (e : VEnv) (iter : Nat) : List IWord → Nat → Core → Core × Option Nat
  | [], _, k => (k, none)
  | w :: ws, j, k =>
    match decode w with
    | .error _ => bodyRun e iter ws (j + 1) k
    | .ok i =>
      match bodyStep { e with pos := j * 2 ^ 27 + iter % 2 ^ 20 } k i with
      | none => (k, some j)
      | some k => bodyRun e iter ws (j + 1) k

/-- The RMODE of an iteration, and the stored copy after its sampling. -/
def loopSample (r : Word) : Word := if fld r 2 0 = 5 then setFld r 31 16 ((fld r 31 16 + 1) % 2 ^ 16) else r

/-- LOOP_ITERATION (18 R324): a standing loop whose end has 16 items beyond the last group writes them to v16, runs its body once and releases
them; an iteration blocked on a queue register goes on from where it stands. -/
def execLoopIteration (core : Nat) (s : State) : Out :=
  let k := coreOf s core
  match k.loop with
  | none => .next s
  | some l =>
    if l.phase ≠ 1 then .next s
    else
      match endRec k l.endk with
      | none => .next s
      | some e =>
        let ready := decide (16 ≤ seqDiff e.wrSeq e.popSeq)
        if l.mid.isNone && !ready then .next (tryEos s core l.endk)
        -- a block runs between the vector instructions of the scalar stream (07 R141)
        else if l.mid.isNone && (!k.vgot.isEmpty || decide (k.vpos ≠ 0)) then .next s
        else
          let addrs := (List.range 16).map fun j => ringAt e (e.popSeq + j)
          if l.mid.isNone && addrs.any fun a => lmBad k a 8 then .next (sealCore s core)
          else
            let (j, rm) := l.mid.getD (0, l.rmode)
            let k1 := if l.mid.isSome then k else wv k 16 (pack 64 (addrs.map fun a => rdLE k.lm a 8))
            let l1 := if l.mid.isSome then l else { l with rmode := loopSample l.rmode }
            let (k2, at_) := bodyRun { rmode := rm, fmta := l.fmta, fmtb := l.fmtb, fmtc := l.fmtc } l.iter (l.body.drop j) j k1
            match at_ with
            | some j =>
              let s := setCore s core { k2 with loop := some { l1 with mid := some (j, rm) } }
              if l.body[j]?.any fun w => match decode w with | .ok i => bodyBad k2 i | .error _ => false then .next (sealCore s core) else .next s
            | none =>
              let s := setCore s core { k2 with loop := some { l1 with mid := none, iter := l.iter + 1 } }
              let s := updEnd s core l.endk fun x =>
                { x with popSeq := (x.popSeq + 16) % 2 ^ 32, popMark := (x.popSeq + 16) % 2 ^ 32 }
              let s := match endRec (coreOf s core) l.endk with | some e => credit s core e | none => s
              .next (tryEos s core l.endk)

end Sys2Proof.Machine
end

