-- ==== Sys2Proof/Machine/Dispatch.lean ====
section
/-! DEFINITION. The dispatch: one arm for each constructor of Instr, one direct call of its meaning. -/

namespace Sys2Proof.Machine

/-- The meaning of an instruction in a state. -/
def exec (i : Instr) (s : State) : Host.Outcome State Fault Refusal :=
  match i with
  | .add rd ra rb => Sys2Proof.Machine.execAdd rd ra rb s
  | .sub rd ra rb => Sys2Proof.Machine.execSub rd ra rb s
  | .and rd ra rb => Sys2Proof.Machine.execAnd rd ra rb s
  | .or rd ra rb => Sys2Proof.Machine.execOr rd ra rb s
  | .xor rd ra rb => Sys2Proof.Machine.execXor rd ra rb s
  | .andn rd ra rb => Sys2Proof.Machine.execAndn rd ra rb s
  | .sll rd ra rb => Sys2Proof.Machine.execSll rd ra rb s
  | .srl rd ra rb => Sys2Proof.Machine.execSrl rd ra rb s
  | .sra rd ra rb => Sys2Proof.Machine.execSra rd ra rb s
  | .rol rd ra rb => Sys2Proof.Machine.execRol rd ra rb s
  | .ror rd ra rb => Sys2Proof.Machine.execRor rd ra rb s
  | .slt rd ra rb => Sys2Proof.Machine.execSlt rd ra rb s
  | .sltn rd ra rb => Sys2Proof.Machine.execSltn rd ra rb s
  | .min rd ra rb => Sys2Proof.Machine.execMin rd ra rb s
  | .max rd ra rb => Sys2Proof.Machine.execMax rd ra rb s
  | .minn rd ra rb => Sys2Proof.Machine.execMinn rd ra rb s
  | .maxn rd ra rb => Sys2Proof.Machine.execMaxn rd ra rb s
  | .mul rd ra rb => Sys2Proof.Machine.execMul rd ra rb s
  | .mulh rd ra rb => Sys2Proof.Machine.execMulh rd ra rb s
  | .mulhn rd ra rb => Sys2Proof.Machine.execMulhn rd ra rb s
  | .div rd ra rb => Sys2Proof.Machine.execDiv rd ra rb s
  | .divn rd ra rb => Sys2Proof.Machine.execDivn rd ra rb s
  | .rem rd ra rb => Sys2Proof.Machine.execRem rd ra rb s
  | .remn rd ra rb => Sys2Proof.Machine.execRemn rd ra rb s
  | .clz rd ra => Sys2Proof.Machine.execClz rd ra s
  | .ctz rd ra => Sys2Proof.Machine.execCtz rd ra s
  | .popc rd ra => Sys2Proof.Machine.execPopc rd ra s
  | .brev rd ra => Sys2Proof.Machine.execBrev rd ra s
  | .bswap rd ra => Sys2Proof.Machine.execBswap rd ra s
  | .clmul rd ra rb => Sys2Proof.Machine.execClmul rd ra rb s
  | .clmulh rd ra rb => Sys2Proof.Machine.execClmulh rd ra rb s
  | .sel rd ra rb => Sys2Proof.Machine.execSel rd ra rb s
  | .exts rd ra len pos => Sys2Proof.Machine.execExts rd ra len pos s
  | .extz rd ra len pos => Sys2Proof.Machine.execExtz rd ra len pos s
  | .ins rd ra len pos => Sys2Proof.Machine.execIns rd ra len pos s
  | .addi rd ra imm => Sys2Proof.Machine.execAddi rd ra imm s
  | .andi rd ra imm => Sys2Proof.Machine.execAndi rd ra imm s
  | .ori rd ra imm => Sys2Proof.Machine.execOri rd ra imm s
  | .xori rd ra imm => Sys2Proof.Machine.execXori rd ra imm s
  | .slli rd ra c => Sys2Proof.Machine.execSlli rd ra c s
  | .srli rd ra c => Sys2Proof.Machine.execSrli rd ra c s
  | .srai rd ra c => Sys2Proof.Machine.execSrai rd ra c s
  | .slti rd ra imm => Sys2Proof.Machine.execSlti rd ra imm s
  | .lui rd imm => Sys2Proof.Machine.execLui rd imm s
  | .addpc rd imm => Sys2Proof.Machine.execAddpc rd imm s
  | .beq ra rb off => Sys2Proof.Machine.execBeq ra rb off s
  | .bne ra rb off => Sys2Proof.Machine.execBne ra rb off s
  | .blt ra rb off => Sys2Proof.Machine.execBlt ra rb off s
  | .bge ra rb off => Sys2Proof.Machine.execBge ra rb off s
  | .bltn ra rb off => Sys2Proof.Machine.execBltn ra rb off s
  | .bgen ra rb off => Sys2Proof.Machine.execBgen ra rb off s
  | .jump off => Sys2Proof.Machine.execJump off s
  | .jal rd off => Sys2Proof.Machine.execJal rd off s
  | .jr ra imm => Sys2Proof.Machine.execJr ra imm s
  | .jalr rd ra imm => Sys2Proof.Machine.execJalr rd ra imm s
  | .loopi l n => Sys2Proof.Machine.execLoopi l n s
  | .loopiReg l xs => Sys2Proof.Machine.execLoopiReg l xs s
  | .ld rd ra w off => Sys2Proof.Machine.execLd rd ra w off s
  | .ldn rd ra w off => Sys2Proof.Machine.execLdn rd ra w off s
  | .st ra rb w off => Sys2Proof.Machine.execSt ra rb w off s
  | .ldF rd ra off => Sys2Proof.Machine.execLdF rd ra off s
  | .stF ra rb off => Sys2Proof.Machine.execStF ra rb off s
  | .fec rd ra off => Sys2Proof.Machine.execFec rd ra off s
  | .fes rd ra off => Sys2Proof.Machine.execFes rd ra off s
  | .amo rd ra rb op w => Sys2Proof.Machine.execAmo rd ra rb op w s
  | .rld rd ra zx w => Sys2Proof.Machine.execRld rd ra zx w s
  | .rldAcq rd ra zx w => Sys2Proof.Machine.execRldAcq rd ra zx w s
  | .rst ra rb w => Sys2Proof.Machine.execRst ra rb w s
  | .rstn ra rb off size => Sys2Proof.Machine.execRstn ra rb off size s
  | .ramo rd ra rb op w => Sys2Proof.Machine.execRamo rd ra rb op w s
  | .hins rd ra rb => Sys2Proof.Machine.execHins rd ra rb s
  | .hinsTag rd ra rb => Sys2Proof.Machine.execHinsTag rd ra rb s
  | .flush => Sys2Proof.Machine.execFlush s
  | .fenceRow => Sys2Proof.Machine.execFenceRow s
  | .fenceDie => Sys2Proof.Machine.execFenceDie s
  | .fencePkg => Sys2Proof.Machine.execFencePkg s
  | .fenceFab => Sys2Proof.Machine.execFenceFab s
  | .waitm rd ra rb => Sys2Proof.Machine.execWaitm rd ra rb s
  | .ldg rd ra w off => Sys2Proof.Machine.execLdg rd ra w off s
  | .stg ra rb w off => Sys2Proof.Machine.execStg ra rb w off s
  | .send xw xa xl => Sys2Proof.Machine.execSend xw xa xl s
  | .sendnz xw xa xn es flt => Sys2Proof.Machine.execSendnz xw xa xn es flt s
  | .sendnzStream sn xa xn es flt => Sys2Proof.Machine.execSendnzStream sn xa xn es flt s
  | .sendh rd xw xh => Sys2Proof.Machine.execSendh rd xw xh s
  | .strnew rd xs xb => Sys2Proof.Machine.execStrnew rd xs xb s
  | .strbind rd xh xw => Sys2Proof.Machine.execStrbind rd xh xw s
  | .strunb rd xh => Sys2Proof.Machine.execStrunb rd xh s
  | .streos rd xh xv => Sys2Proof.Machine.execStreos rd xh xv s
  | .strstat rd xh => Sys2Proof.Machine.execStrstat rd xh s
  | .exit => Sys2Proof.Machine.execExit s
  | .exitS xw xp => Sys2Proof.Machine.execExitS xw xp s
  | .bar rd => Sys2Proof.Machine.execBar rd s
  | .barA rd => Sys2Proof.Machine.execBarA rd s
  | .barT rd xp => Sys2Proof.Machine.execBarT rd xp s
  | .barTP rd xp => Sys2Proof.Machine.execBarTP rd xp s
  | .crewbar rd => Sys2Proof.Machine.execCrewbar rd s
  | .crewbarA rd => Sys2Proof.Machine.execCrewbarA rd s
  | .crewbarT rd xp => Sys2Proof.Machine.execCrewbarT rd xp s
  | .launch xw xm xa n => Sys2Proof.Machine.execLaunch xw xm xa n s
  | .ksub rd xa xd => Sys2Proof.Machine.execKsub rd xa xd s
  | .dspn xw xe xa n => Sys2Proof.Machine.execDspn xw xe xa n s
  | .adjreg rd xn xr => Sys2Proof.Machine.execAdjreg rd xn xr s
  | .setev xm q => Sys2Proof.Machine.execSetev xm q s
  | .setevClr xm q => Sys2Proof.Machine.execSetevClr xm q s
  | .jcan rd xj => Sys2Proof.Machine.execJcan rd xj s
  | .cmd rd ra imm => Sys2Proof.Machine.execCmd rd ra imm s
  | .cmdNb rd ra imm => Sys2Proof.Machine.execCmdNb rd ra imm s
  | .csrr rd n => Sys2Proof.Machine.execCsrr rd n s
  | .csrw ra n => Sys2Proof.Machine.execCsrw ra n s
  | .csrs ra n => Sys2Proof.Machine.execCsrs ra n s
  | .csrc ra n => Sys2Proof.Machine.execCsrc ra n s
  | .trap n => Sys2Proof.Machine.execTrap n s
  | .rta => Sys2Proof.Machine.execRta s
  | .abort => Sys2Proof.Machine.execAbort s
  | .bkpt => Sys2Proof.Machine.execBkpt s
  | .halt rd ra rb => Sys2Proof.Machine.execHalt rd ra rb s
  | .ctxKill rd ra => Sys2Proof.Machine.execCtxKill rd ra s
  | .ctxRecl rd ra => Sys2Proof.Machine.execCtxRecl rd ra s
  | .tlbinv rd ra rb => Sys2Proof.Machine.execTlbinv rd ra rb s
  | .rankset rd ra rb => Sys2Proof.Machine.execRankset rd ra rb s
  | .resmove rd ra rb => Sys2Proof.Machine.execResmove rd ra rb s
  | .slotsave rd ra rb => Sys2Proof.Machine.execSlotsave rd ra rb s
  | .slotdrop rd ra => Sys2Proof.Machine.execSlotdrop rd ra s
  | .slotload rd ra rb => Sys2Proof.Machine.execSlotload rd ra rb s
  | .vld v xa t m => Sys2Proof.Machine.execVld v xa t m s
  | .vst v xa t m => Sys2Proof.Machine.execVst v xa t m s
  | .vlds v xa xs t m => Sys2Proof.Machine.execVlds v xa xs t m s
  | .vsts v xa xs t m => Sys2Proof.Machine.execVsts v xa xs t m s
  | .vgath v xa vo t m => Sys2Proof.Machine.execVgath v xa vo t m s
  | .vscat v xa vo t m => Sys2Proof.Machine.execVscat v xa vo t m s
  | .vadd vd va vb t m => Sys2Proof.Machine.execVadd vd va vb t m s
  | .vsub vd va vb t m => Sys2Proof.Machine.execVsub vd va vb t m s
  | .vmul vd va vb t m => Sys2Proof.Machine.execVmul vd va vb t m s
  | .vfma vd va vb t m => Sys2Proof.Machine.execVfma vd va vb t m s
  | .vmin vd va vb t m => Sys2Proof.Machine.execVmin vd va vb t m s
  | .vmax vd va vb t m => Sys2Proof.Machine.execVmax vd va vb t m s
  | .vabs vd va t m => Sys2Proof.Machine.execVabs vd va t m s
  | .vneg vd va t m => Sys2Proof.Machine.execVneg vd va t m s
  | .vand vd va vb t m => Sys2Proof.Machine.execVand vd va vb t m s
  | .vor vd va vb t m => Sys2Proof.Machine.execVor vd va vb t m s
  | .vxor vd va vb t m => Sys2Proof.Machine.execVxor vd va vb t m s
  | .vshl vd va vb t m => Sys2Proof.Machine.execVshl vd va vb t m s
  | .vshr vd va vb t m => Sys2Proof.Machine.execVshr vd va vb t m s
  | .vsra vd va vb t m => Sys2Proof.Machine.execVsra vd va vb t m s
  | .vcmpEq kd va vb t m => Sys2Proof.Machine.execVcmpEq kd va vb t m s
  | .vcmpNe kd va vb t m => Sys2Proof.Machine.execVcmpNe kd va vb t m s
  | .vcmpLt kd va vb t m => Sys2Proof.Machine.execVcmpLt kd va vb t m s
  | .vcmpLe kd va vb t m => Sys2Proof.Machine.execVcmpLe kd va vb t m s
  | .vcmpGt kd va vb t m => Sys2Proof.Machine.execVcmpGt kd va vb t m s
  | .vcmpGe kd va vb t m => Sys2Proof.Machine.execVcmpGe kd va vb t m s
  | .vcmpUn kd va vb t m => Sys2Proof.Machine.execVcmpUn kd va vb t m s
  | .vsel vd va vb t m => Sys2Proof.Machine.execVsel vd va vb t m s
  | .vcvt vd va src t m => Sys2Proof.Machine.execVcvt vd va src t m s
  | .vred xd va op t m => Sys2Proof.Machine.execVred xd va op t m s
  | .vperm vd va vb t m => Sys2Proof.Machine.execVperm vd va vb t m s
  | .vbcst vd xa t m => Sys2Proof.Machine.execVbcst vd xa t m s
  | .vext xd va xi t => Sys2Proof.Machine.execVext xd va xi t s
  | .vins vd xa xi t => Sys2Proof.Machine.execVins vd xa xi t s
  | .vpopc vd va t m => Sys2Proof.Machine.execVpopc vd va t m s
  | .vclmul vd va vb t m => Sys2Proof.Machine.execVclmul vd va vb t m s
  | .vclmulh vd va vb t m => Sys2Proof.Machine.execVclmulh vd va vb t m s
  | .vexp2 vd va m => Sys2Proof.Machine.execVexp2 vd va m s
  | .vrcp vd va m => Sys2Proof.Machine.execVrcp vd va m s
  | .vrsq vd va m => Sys2Proof.Machine.execVrsq vd va m s
  | .kand kd ka kb => Sys2Proof.Machine.execKand kd ka kb s
  | .kor kd ka kb => Sys2Proof.Machine.execKor kd ka kb s
  | .knot kd ka => Sys2Proof.Machine.execKnot kd ka s
  | .vloop l xs => Sys2Proof.Machine.execVloop l xs s
  | .zclr w0 w1 w2 w3 => Sys2Proof.Machine.execZclr w0 w1 w2 w3 s
  | .zld w0 w1 w2 w3 => Sys2Proof.Machine.execZld w0 w1 w2 w3 s
  | .zst w0 w1 w2 w3 => Sys2Proof.Machine.execZst w0 w1 w2 w3 s
  | .mmaS w0 w1 w2 w3 => Sys2Proof.Machine.execMmaS w0 w1 w2 w3 s
  | .mmaG w0 w1 w2 w3 => Sys2Proof.Machine.execMmaG w0 w1 w2 w3 s
  | .copy w0 w1 w2 w3 => Sys2Proof.Machine.execCopy w0 w1 w2 w3 s
  | .copyM w0 w1 w2 w3 => Sys2Proof.Machine.execCopyM w0 w1 w2 w3 s
  | .red w0 w1 w2 w3 => Sys2Proof.Machine.execRed w0 w1 w2 w3 s
  | .layreg w0 w1 w2 w3 => Sys2Proof.Machine.execLayreg w0 w1 w2 w3 s
  | .laydrop w0 w1 w2 w3 => Sys2Proof.Machine.execLaydrop w0 w1 w2 w3 s
  | .strfill w0 w1 w2 w3 => Sys2Proof.Machine.execStrfill w0 w1 w2 w3 s
  | .strdrain w0 w1 w2 w3 => Sys2Proof.Machine.execStrdrain w0 w1 w2 w3 s
  | .nicpost w0 w1 w2 w3 => Sys2Proof.Machine.execNicpost w0 w1 w2 w3 s
  | .niccq w0 w1 w2 w3 => Sys2Proof.Machine.execNiccq w0 w1 w2 w3 s
  | .coll w0 w1 w2 w3 => Sys2Proof.Machine.execColl w0 w1 w2 w3 s
  | .cprobe w0 w1 w2 w3 => Sys2Proof.Machine.execCprobe w0 w1 w2 w3 s
  | .xbWrite ra => Sys2Proof.Machine.execXbWrite ra s
  | .trappcWrite ra => Sys2Proof.Machine.execTrappcWrite ra s
  | .queuePop rd n => Sys2Proof.Machine.execQueuePop rd n s
  | .queuePush n ra => Sys2Proof.Machine.execQueuePush n ra s
  | .streamPop rd n => Sys2Proof.Machine.execStreamPop rd n s
  | .streamPush n ra => Sys2Proof.Machine.execStreamPush n ra s
  | .mailboxWrite n ra => Sys2Proof.Machine.execMailboxWrite n ra s
  | .formatWrite n ra => Sys2Proof.Machine.execFormatWrite n ra s
  | .fmtsWrite ra => Sys2Proof.Machine.execFmtsWrite ra s
  | .rmodeWrite ra => Sys2Proof.Machine.execRmodeWrite ra s
  | .wstatRead die cid => Sys2Proof.Machine.execWstatRead die cid s
  | .windowSubmission die cid off data => Sys2Proof.Machine.execWindowSubmission die cid off data s
  | .registerWrite die off width v => Sys2Proof.Machine.execRegisterWrite die off width v s
  | .thresholdCtlWrite die u v => Sys2Proof.Machine.execThresholdCtlWrite die u v s
  | .fresRetry die cid v => Sys2Proof.Machine.execFresRetry die cid v s
  | .fresFail die cid v => Sys2Proof.Machine.execFresFail die cid v s
  | .s2resRetry die v => Sys2Proof.Machine.execS2resRetry die v s
  | .s2resFail die v => Sys2Proof.Machine.execS2resFail die v s
  | .migwinHold die n v => Sys2Proof.Machine.execMigwinHold die n v s
  | .migwinRelease die n => Sys2Proof.Machine.execMigwinRelease die n s
  | .migwinClose die n => Sys2Proof.Machine.execMigwinClose die n s
  | .flitReceive port f => Sys2Proof.Machine.execFlitReceive port f s
  | .recoveryRequestReceive port lseq step => Sys2Proof.Machine.execRecoveryRequestReceive port lseq step s
  | .parityIncrementReceive port f => Sys2Proof.Machine.execParityIncrementReceive port f s
  | .recoveryRetryTimeout port lseq => Sys2Proof.Machine.execRecoveryRetryTimeout port lseq s
  | .linkrecmaxExpire port lseq => Sys2Proof.Machine.execLinkrecmaxExpire port lseq s
  | .retrainComplete port four => Sys2Proof.Machine.execRetrainComplete port four s
  | .retrainTimeout port => Sys2Proof.Machine.execRetrainTimeout port s
  | .packetInject port n => Sys2Proof.Machine.execPacketInject port n s
  | .fabricPacketArrive p => Sys2Proof.Machine.execFabricPacketArrive p s
  | .e2eackSend chip cls => Sys2Proof.Machine.execE2eackSend chip cls s
  | .e2eackReceive chip cls next => Sys2Proof.Machine.execE2eackReceive chip cls next s
  | .e2eTimeout chip cls seq => Sys2Proof.Machine.execE2eTimeout chip cls seq s
  | .fenceMarkerArrive src die => Sys2Proof.Machine.execFenceMarkerArrive src die s
  | .fenceackReceive src core => Sys2Proof.Machine.execFenceackReceive src core s
  | .multicastReplicate sw p => Sys2Proof.Machine.execMulticastReplicate sw p s
  | .replicationEntryTimeout sw src mtag => Sys2Proof.Machine.execReplicationEntryTimeout sw src mtag s
  | .multicastLeafDeliver p => Sys2Proof.Machine.execMulticastLeafDeliver p s
  | .bfackSend src mtag => Sys2Proof.Machine.execBfackSend src mtag s
  | .bfackReceive sw src mtag drop => Sys2Proof.Machine.execBfackReceive sw src mtag drop s
  | .multicastResend src mtag => Sys2Proof.Machine.execMulticastResend src mtag s
  | .mtagPairExpire src mtag => Sys2Proof.Machine.execMtagPairExpire src mtag s
  | .combContributionArrive sw c => Sys2Proof.Machine.execCombContributionArrive sw c s
  | .combtoExpire sw cid gid round => Sys2Proof.Machine.execCombtoExpire sw cid gid round s
  | .boot => Sys2Proof.Machine.execBoot s
  | .attestationRequest nonce => Sys2Proof.Machine.execAttestationRequest nonce s
  | .incarnationBroadcast agent cid inc => Sys2Proof.Machine.execIncarnationBroadcast agent cid inc s
  | .killAckReceive agent cid => Sys2Proof.Machine.execKillAckReceive agent cid s
  | .reclQuery agent cid => Sys2Proof.Machine.execReclQuery agent cid s
  | .reclAnswer agent cid => Sys2Proof.Machine.execReclAnswer agent cid s
  | .reclAnswerReceive agent cid => Sys2Proof.Machine.execReclAnswerReceive agent cid s
  | .patrolScrub addr => Sys2Proof.Machine.execPatrolScrub addr s
  | .residentRebuild core slot target tslot => Sys2Proof.Machine.execResidentRebuild core slot target tslot s
  | .coreTestComplete core pass => Sys2Proof.Machine.execCoreTestComplete core pass s
  | .pairTimeout core => Sys2Proof.Machine.execPairTimeout core s
  | .rowTestStart die row => Sys2Proof.Machine.execRowTestStart die row s
  | .rowTestComplete die row pass => Sys2Proof.Machine.execRowTestComplete die row pass s
  | .powerUp => Sys2Proof.Machine.execPowerUp s
  | .rowGroupPowerOn g => Sys2Proof.Machine.execRowGroupPowerOn g s
  | .trimStepGrant => Sys2Proof.Machine.execTrimStepGrant s
  | .energyUpdate die kid uj => Sys2Proof.Machine.execEnergyUpdate die kid uj s
  | .thresholdCrossing die u v => Sys2Proof.Machine.execThresholdCrossing die u v s
  | .kernelAccept die => Sys2Proof.Machine.execKernelAccept die s
  | .ksubArrive src die => Sys2Proof.Machine.execKsubArrive src die s
  | .setevApply src die => Sys2Proof.Machine.execSetevApply src die s
  | .schedulerLaunch die kid => Sys2Proof.Machine.execSchedulerLaunch die kid s
  | .gateArm die kid => Sys2Proof.Machine.execGateArm die kid s
  | .liveCountReport => Sys2Proof.Machine.execLiveCountReport s
  | .liveCountAck core => Sys2Proof.Machine.execLiveCountAck core s
  | .activationStart core => Sys2Proof.Machine.execActivationStart core s
  | .ageingTick core slot queue => Sys2Proof.Machine.execAgeingTick core slot queue s
  | .rankInvalidate core cid rank => Sys2Proof.Machine.execRankInvalidate core cid rank s
  | .rankInvalidateAck core cid rank => Sys2Proof.Machine.execRankInvalidateAck core cid rank s
  | .overflowPark src die => Sys2Proof.Machine.execOverflowPark src die s
  | .overflowDrain die cid rank => Sys2Proof.Machine.execOverflowDrain die cid rank s
  | .jcanApply src die => Sys2Proof.Machine.execJcanApply src die s
  | .jcanComplete op => Sys2Proof.Machine.execJcanComplete op s
  | .adjregRequest src die => Sys2Proof.Machine.execAdjregRequest src die s
  | .windowRefill die => Sys2Proof.Machine.execWindowRefill die s
  | .taskTry die age => Sys2Proof.Machine.execTaskTry die age s
  | .lockRequest src eng => Sys2Proof.Machine.execLockRequest src eng s
  | .lockResponse src die => Sys2Proof.Machine.execLockResponse src die s
  | .lockRelease src eng => Sys2Proof.Machine.execLockRelease src eng s
  | .taskChainEnd die age => Sys2Proof.Machine.execTaskChainEnd die age s
  | .stakeSlotGrant die age => Sys2Proof.Machine.execStakeSlotGrant die age s
  | .stakeRequest src eng => Sys2Proof.Machine.execStakeRequest src eng s
  | .dspnArrive src die => Sys2Proof.Machine.execDspnArrive src die s
  | .messageLand src core => Sys2Proof.Machine.execMessageLand src core s
  | .failureRecordWrite => Sys2Proof.Machine.execFailureRecordWrite s
  | .watchdogExpire core => Sys2Proof.Machine.execWatchdogExpire core s
  | .barrierArrive core gid => Sys2Proof.Machine.execBarrierArrive core gid s
  | .barrierAdvance gid => Sys2Proof.Machine.execBarrierAdvance gid s
  | .loopIteration core => Sys2Proof.Machine.execLoopIteration core s
  | .translationRequest die rtu => Sys2Proof.Machine.execTranslationRequest die rtu s
  | .walkStep die rtu n => Sys2Proof.Machine.execWalkStep die rtu n s
  | .fstoExpire die rtu idx => Sys2Proof.Machine.execFstoExpire die rtu idx s
  | .tlbinvArrive die rtu op => Sys2Proof.Machine.execTlbinvArrive die rtu op s
  | .tlbinvAck die rtu op => Sys2Proof.Machine.execTlbinvAck die rtu op s
  | .tlbinvAckReceive die rtu op => Sys2Proof.Machine.execTlbinvAckReceive die rtu op s
  | .lineEvict addr => Sys2Proof.Machine.execLineEvict addr s
  | .leave core => Sys2Proof.Machine.execLeave core s
  | .applyStep src dst cls => Sys2Proof.Machine.execApplyStep src dst cls s
  | .spuriousWake core => Sys2Proof.Machine.execSpuriousWake core s
  | .returnStep src core => Sys2Proof.Machine.execReturnStep src core s
  | .ack core tok => Sys2Proof.Machine.execAck core tok s
  | .engine core cmd k => Sys2Proof.Machine.execEngine core cmd k s
  | .streamItemArrive src core => Sys2Proof.Machine.execStreamItemArrive src core s
  | .streamEosArrive src core => Sys2Proof.Machine.execStreamEosArrive src core s
  | .creditArrive src core => Sys2Proof.Machine.execCreditArrive src core s
  | .rerouteArrive src core => Sys2Proof.Machine.execRerouteArrive src core s
  | .reackArrive src core => Sys2Proof.Machine.execReackArrive src core s
  | .orphanArrive src core => Sys2Proof.Machine.execOrphanArrive src core s
  | .finackArrive src core => Sys2Proof.Machine.execFinackArrive src core s
  | .retireArrive src core => Sys2Proof.Machine.execRetireArrive src core s
  | .bounceArrive src core => Sys2Proof.Machine.execBounceArrive src core s
  | .strmwaitExpire die cid rank => Sys2Proof.Machine.execStrmwaitExpire die cid rank s
  | .unreachableDeclarationReceive chip => Sys2Proof.Machine.execUnreachableDeclarationReceive chip s
  | .commandStart core => Sys2Proof.Machine.execCommandStart core s
  | .commandComplete core cmd => Sys2Proof.Machine.execCommandComplete core cmd s
  | .mmagJoin gid => Sys2Proof.Machine.execMmagJoin gid s
  | .mmagStep gid => Sys2Proof.Machine.execMmagStep gid s
  | .redContributionArrive core cmd => Sys2Proof.Machine.execRedContributionArrive core cmd s
  | .redTimeout die cid tag => Sys2Proof.Machine.execRedTimeout die cid tag s
  | .collTimeout core cmd => Sys2Proof.Machine.execCollTimeout core cmd s
  | .roundForget die cid gid round => Sys2Proof.Machine.execRoundForget die cid gid round s
  | .nicPacketSend die n => Sys2Proof.Machine.execNicPacketSend die n s
  | .nicPacketReceive die p => Sys2Proof.Machine.execNicPacketReceive die p s
  | .nicSackReceive die cid peer cum bitmap => Sys2Proof.Machine.execNicSackReceive die cid peer cum bitmap s
  | .nicRetransmitTimeout die cid peer psn => Sys2Proof.Machine.execNicRetransmitTimeout die cid peer psn s
  | .portTraining port partnerOk => Sys2Proof.Machine.execPortTraining port partnerOk s
  | .trimStepDemand die row cause step => Sys2Proof.Machine.execTrimStepDemand die row cause step s
  | .nicRefusalReceive die cid peer psn => Sys2Proof.Machine.execNicRefusalReceive die cid peer psn s
  | .illegalWord w => Sys2Proof.Machine.execIllegalWord w s
  | .fetchTrap => Sys2Proof.Machine.execFetchTrap s

end Sys2Proof.Machine
end

