-- ==== Sys2Proof/Machine/Step.lean ====
section
/-! DEFINITION. One step of the machine: the move at the head of the agenda, or the current core's scalar stream. -/

namespace Sys2Proof.Machine

/-- Steps of a halted package (03 R58): the boot status read over the maintenance interface (04 R81). -/
def haltedStep (i : Instr) : Bool := match i with | .registerWrite die _ _ _ => decide (9 ≤ die) | _ => false

/-- One move of the current core's scalar stream. A package that booted unconfigured has its supervisor cores serve only the maintenance interface, whose
requests are steps of their own (03 R56). -/
def coreStep (s : State) : Host.Outcome State Fault Refusal :=
  if s.boot.state = 2 then .fault .packageHalted
  else if s.boot.state = 3 ∧ isSup s.cur = true then .next s
  else
    match issue s with
    | .moved s' => .next s'
    | .run i => exec i s
    | .start => execActivationStart s.cur s
    | .watchdog => execWatchdogExpire s.cur s
    | .fetch => execFetchTrap s
    | .illegal w => execIllegalWord w s

/-- One step (09 R169): the next move of this run, each from the state the last one left. The counter of free values moves on with every step. A move that
only a scalar stream performs does nothing on its own. -/
def step (s0 : State) : Host.Outcome State Fault Refusal :=
  let s := { s0 with free := s0.free + 1 }
  match s.agenda with
  | [] => coreStep s
  | .tick n :: ms => .next (if s.boot.state = 2 then tick n { s with agenda := ms } else passTime n { s with agenda := ms })
  | .core c :: ms => coreStep { s with agenda := ms, cur := c }
  | .ev i :: ms => if selfStep i && (!decide (s.boot.state = 2) || haltedStep i) then exec i { s with agenda := ms } else .next { s with agenda := ms }

/-- A state with an instruction placed where the next step fetches: compute core 0 runs an activation of slot 0 whose CODE holds the
word; a tile command stands at the head of its FIFO and is the next move. -/
def State.withFetchWord (s : State) (nbits w : Nat) : State :=
  fetchPlaced s nbits w

end Sys2Proof.Machine
end

