-- ==== Sys2Proof/Safety.lean ====
section
/-! DEFINITION. What counts as a safe state, in the terms that the statements use. -/

namespace Sys2Proof.Machine

/-- What every step keeps of a core: LM is in canonical form and the hard-wired x0 is stored as zero (12 R221). -/
def Core.ok (k : Core) : Bool := Memory.wf k.lm && decide (k.x[0] = 0)

/-- What every step keeps of the package: its byte memories are in canonical form and x0 of every core is stored as zero. -/
def State.ok (s : State) : Bool := Memory.wf s.mem && s.cores.all fun p => p.2.ok

end Sys2Proof.Machine
end

