-- ==== Sys2Proof/Certificates/Slice0/Obligations.lean ====
section
/-! DEFINITION. The statements for the provers: what the instructions and the steps of the other agents do, the frames of these, and what
holds of the whole machine. -/

namespace Sys2Proof.Stated
open Sys2Proof.Machine

/-! ### Frames -/

/-- Nothing changes but the current core: every other core, all memory outside the cores, the dies and every other part of the package stay. -/
def OnlyCore (s t : State) : Prop :=
  t = { s with cores := t.cores } ∧ ∀ c, c ≠ s.cur → coreOf t c = coreOf s c

/-- The words brought in for the instruction at the issue point, and how far it has come with them, are as they were, or given up. -/
def Gathered (k k' : Core) : Prop := (k'.vgot = k.vgot ∨ k'.vgot = []) ∧ (k'.vpos = k.vpos ∨ k'.vpos = 0)

/-- Nothing changes but x[rd] of the current core with its poison, its PC, its loop stack and what was gathered for the instruction: its other scalar
registers, its vector, mask, tile, queue and stream registers, its control and trap registers, its LM with every full/empty bit, its send buffer and its
slots stay. -/
def OnlyX (s t : State) (rd : Reg) : Prop :=
  OnlyCore s t ∧
  cc t = { cc s with x := (cc t).x, badRegs := (cc t).badRegs, pc := (cc t).pc, loops := (cc t).loops, vgot := (cc t).vgot, vpos := (cc t).vpos } ∧
  Gathered (cc s) (cc t) ∧ (∀ r, r ≠ rd → rx (cc t) r = rx (cc s) r) ∧
  ∀ n, n ∈ (cc t).badRegs ↔ n ∈ (cc s).badRegs ∧ ¬ (rd ≠ 0 ∧ n = rd.toNat)

/-- Nothing changes but the PC, the loop stack and what was gathered for the instruction on the current core. -/
def OnlyPc (s t : State) : Prop :=
  OnlyCore s t ∧ cc t = { cc s with pc := (cc t).pc, loops := (cc t).loops, vgot := (cc t).vgot, vpos := (cc t).vpos } ∧ Gathered (cc s) (cc t)

/-- The instruction at the PC completes: the PC passes from its address to the next, with the end check (14 R270). -/
def Passes (s t : State) : Prop := (cc t).pc = (advance (cc s)).pc ∧ (cc t).loops = (advance (cc s)).loops

/-- The instruction answers a next state in which x[rd] holds v (x0 stays 0), the PC has passed on, and nothing else has changed. -/
def Gives (i : Instr) (s : State) (rd : Reg) (v : Word) : Prop :=
  ∃ t : State, exec i s = .next t ∧ rx (cc t) rd = (if rd = 0 then 0 else v) ∧ Passes s t ∧ OnlyX s t rd

end Sys2Proof.Stated

open Sys2Proof Sys2Proof.Machine Sys2Proof.Stated

/-! ### Scalar instructions (chapter 14) -/

/-- R254: the sums, differences and logic of two registers, for every pair of operands; x0 as a destination takes nothing (R221). -/
def Clauses.ArithmeticAndLogic : Prop :=
  ∀ (s : State) (rd ra rb : Reg),
    let a := rx (cc s) ra
    let b := rx (cc s) rb
    Gives (.add rd ra rb) s rd (wd (a.toNat + b.toNat)) ∧
    Gives (.sub rd ra rb) s rd (wdI (a.toInt - b.toInt)) ∧
    Gives (.and rd ra rb) s rd (a &&& b) ∧
    Gives (.or rd ra rb) s rd (a ||| b) ∧
    Gives (.xor rd ra rb) s rd (a ^^^ b) ∧
    Gives (.andn rd ra rb) s rd (a &&& ~~~b)

/-- R255: shifts and rotates use b[5:0] alone. A rotate is stated bit by bit. -/
def Clauses.ShiftsAndRotates : Prop :=
  ∀ (s : State) (rd ra rb : Reg),
    let a := rx (cc s) ra
    let c := (rx (cc s) rb).toNat % 64
    Gives (.sll rd ra rb) s rd (wd (a.toNat * 2 ^ c)) ∧
    Gives (.srl rd ra rb) s rd (wd (a.toNat / 2 ^ c)) ∧
    Gives (.sra rd ra rb) s rd (wdI (a.toInt / 2 ^ c)) ∧
    (∃ v : Word, Gives (.rol rd ra rb) s rd v ∧ ∀ i : Nat, i < 64 → bit v ((i + c) % 64) = bit a i) ∧
    (∃ v : Word, Gives (.ror rd ra rb) s rd v ∧ ∀ i : Nat, i < 64 → bit v i = bit a ((i + c) % 64))

/-- R256: the comparisons give 1 or 0, and the extremes one of the operands, read signed or unsigned. -/
def Clauses.ComparisonsAndExtremes : Prop :=
  ∀ (s : State) (rd ra rb : Reg),
    let a := rx (cc s) ra
    let b := rx (cc s) rb
    Gives (.slt rd ra rb) s rd (if a.toInt < b.toInt then 1 else 0) ∧
    Gives (.sltn rd ra rb) s rd (if a.toNat < b.toNat then 1 else 0) ∧
    Gives (.min rd ra rb) s rd (wdI (min a.toInt b.toInt)) ∧
    Gives (.max rd ra rb) s rd (wdI (max a.toInt b.toInt)) ∧
    Gives (.minn rd ra rb) s rd (wd (min a.toNat b.toNat)) ∧
    Gives (.maxn rd ra rb) s rd (wd (max a.toNat b.toNat))

/-- R257 and R258: the halves of the exact product, and division that never traps, with its two borderline cases. -/
def Clauses.MultiplyAndDivide : Prop :=
  ∀ (s : State) (rd ra rb : Reg),
    let a := rx (cc s) ra
    let b := rx (cc s) rb
    Gives (.mul rd ra rb) s rd (wdI (a.toInt * b.toInt)) ∧
    Gives (.mulh rd ra rb) s rd (wdI (a.toInt * b.toInt / 2 ^ 64)) ∧
    Gives (.mulhn rd ra rb) s rd (wd (a.toNat * b.toNat / 2 ^ 64)) ∧
    Gives (.div rd ra rb) s rd (if b = 0 then BitVec.allOnes 64 else wdI (a.toInt.tdiv b.toInt)) ∧
    Gives (.divn rd ra rb) s rd (if b = 0 then BitVec.allOnes 64 else wd (a.toNat / b.toNat)) ∧
    Gives (.rem rd ra rb) s rd (if b = 0 then a else wdI (a.toInt.tmod b.toInt)) ∧
    Gives (.remn rd ra rb) s rd (if b = 0 then a else wd (a.toNat % b.toNat))

/-- R259 and R260: the immediate forms; the shift counts are their 6-bit field, every other immediate is sign-extended. -/
def Clauses.ImmediateForms : Prop :=
  ∀ (s : State) (rd ra : Reg) (imm : BitVec 15) (c : BitVec 6) (u : BitVec 20),
    let a := rx (cc s) ra
    Gives (.addi rd ra imm) s rd (wdI (a.toInt + imm.toInt)) ∧
    Gives (.andi rd ra imm) s rd (a &&& wdI imm.toInt) ∧
    Gives (.ori rd ra imm) s rd (a ||| wdI imm.toInt) ∧
    Gives (.xori rd ra imm) s rd (a ^^^ wdI imm.toInt) ∧
    Gives (.slli rd ra c) s rd (wd (a.toNat * 2 ^ c.toNat)) ∧
    Gives (.srli rd ra c) s rd (wd (a.toNat / 2 ^ c.toNat)) ∧
    Gives (.srai rd ra c) s rd (wdI (a.toInt / 2 ^ c.toNat)) ∧
    Gives (.slti rd ra imm) s rd (if a.toInt < imm.toInt then 1 else 0) ∧
    Gives (.lui rd u) s rd (wdI (u.toInt * 2 ^ 15)) ∧
    Gives (.addpc rd u) s rd (wdI ((cc s).pc.toNat + u.toInt))

/-- R261: each result is said by what it counts or where each bit goes. CLZ and CTZ give 64 for 0. -/
def Clauses.BitCounts : Prop :=
  ∀ (s : State) (rd ra : Reg),
    let a := rx (cc s) ra
    (∃ n : Nat, Gives (.clz rd ra) s rd (wd n) ∧ n ≤ 64 ∧ (∀ i, 64 - n ≤ i → bit a i = false) ∧ (n < 64 → bit a (63 - n) = true)) ∧
    (∃ n : Nat, Gives (.ctz rd ra) s rd (wd n) ∧ n ≤ 64 ∧ (∀ i, i < n → bit a i = false) ∧ (n < 64 → bit a n = true)) ∧
    Gives (.popc rd ra) s rd (wd ((List.range 64).filter fun i => bit a i).length) ∧
    (∃ v : Word, Gives (.brev rd ra) s rd v ∧ ∀ i, i < 64 → bit v i = bit a (63 - i)) ∧
    (∃ v : Word, Gives (.bswap rd ra) s rd v ∧ ∀ i, i < 8 → fld v (8 * i + 7) (8 * i) = fld a (63 - 8 * i) (56 - 8 * i))

/-- R262: a field of n = min(len, 64 - pos) bits, len being the instruction's field + 1; bit by bit. -/
def Clauses.FieldMoves : Prop :=
  ∀ (s : State) (rd ra : Reg) (len pos : BitVec 6),
    let a := rx (cc s) ra
    let n := min (len.toNat + 1) (64 - pos.toNat)
    (∃ v : Word, Gives (.exts rd ra len pos) s rd v ∧ ∀ i, i < 64 → bit v i = bit a (pos.toNat + min i (n - 1))) ∧
    (∃ v : Word, Gives (.extz rd ra len pos) s rd v ∧ ∀ i, i < 64 → bit v i = (decide (i < n) && bit a (pos.toNat + i))) ∧
    (∃ v : Word, Gives (.ins rd ra len pos) s rd v ∧
      ∀ i, i < 64 → bit v i = (if pos.toNat ≤ i ∧ i < pos.toNat + n then bit a (i - pos.toNat) else bit (rx (cc s) rd) i))

/-- R263 and R264: bit j of the carry-less product is the parity of the pairs of set bits whose places add to j; SEL's condition is the whole
of x[rd]. -/
def Clauses.CarrylessProductAndSelect : Prop :=
  ∀ (s : State) (rd ra rb : Reg),
    let a := rx (cc s) ra
    let b := rx (cc s) rb
    let par := fun (j : Nat) => decide (((List.range (j + 1)).filter fun i => bit a i && bit b (j - i)).length % 2 = 1)
    (∃ v : Word, Gives (.clmul rd ra rb) s rd v ∧ ∀ j, j < 64 → bit v j = par j) ∧
    (∃ v : Word, Gives (.clmulh rd ra rb) s rd v ∧ (∀ j, j < 64 → bit v j = par (64 + j)) ∧ bit v 63 = false) ∧
    Gives (.sel rd ra rb) s rd (if rx (cc s) rd = 0 then b else a)

namespace Sys2Proof.Stated

/-- A word of LM: what R268 asks of the target of a taken transfer. -/
def LmWord (t : Int) : Prop := 0 ≤ t ∧ t ≤ 0x7FFFF ∧ t % 4 = 0

/-- The PC has gone to p by a taken transfer: levels whose body does not hold p are popped where no handler runs (14 R271), and only x[rd], the
PC and the loop stack have changed. -/
def Jumps (s t : State) (rd : Reg) (p : Int) : Prop :=
  (cc t).pc = wdI p ∧ (cc t).loops = (if (cc s).trapped then (cc s).loops else popLoops (wdI p) (cc s).loops) ∧ OnlyX s t rd

end Sys2Proof.Stated

/-- R265, R268: a branch that is taken goes to PC + 4 x SExt(off) when that is a word of LM; one that is not taken passes on, whatever its target. -/
def Clauses.Branches : Prop :=
  ∀ (s : State) (ra rb : Reg) (off : BitVec 15),
    let a := rx (cc s) ra
    let b := rx (cc s) rb
    let p : Int := (cc s).pc.toNat + 4 * off.toInt
    let row := fun (i : Instr) (taken : Prop) =>
      (taken → LmWord p → ∃ t : State, exec i s = .next t ∧ Jumps s t 0 p) ∧
      (taken → ¬ LmWord p → exec i s = .next (takeTrap s s.cur 0x21 (some (wdI p)))) ∧
      (¬ taken → ∃ t : State, exec i s = .next t ∧ Passes s t ∧ OnlyPc s t)
    row (.beq ra rb off) (a = b) ∧ row (.bne ra rb off) (a ≠ b) ∧
    row (.blt ra rb off) (a.toInt < b.toInt) ∧ row (.bge ra rb off) (b.toInt ≤ a.toInt) ∧
    row (.bltn ra rb off) (a.toNat < b.toNat) ∧ row (.bgen ra rb off) (b.toNat ≤ a.toNat)

/-- R266 to R268: jumps, with x[ra] read before the link is written; a target that is no word of LM takes XONLY, with neither rd nor PC
written by the jump. -/
def Clauses.JumpsAndLinks : Prop :=
  ∀ (s : State) (rd ra : Reg) (off : BitVec 20) (imm : BitVec 15),
    let p : Int := (cc s).pc.toNat + 4 * off.toInt
    let q : Int := (rx (cc s) ra).toNat + imm.toInt
    let link := fun (t : State) => rx (cc t) rd = if rd = 0 then 0 else (cc s).pc + 4
    (LmWord p → ∃ t : State, exec (.jump off) s = .next t ∧ Jumps s t 0 p) ∧
    (LmWord p → ∃ t : State, exec (.jal rd off) s = .next t ∧ Jumps s t rd p ∧ link t) ∧
    (LmWord q → ∃ t : State, exec (.jr ra imm) s = .next t ∧ Jumps s t 0 q) ∧
    (LmWord q → ∃ t : State, exec (.jalr rd ra imm) s = .next t ∧ Jumps s t rd q ∧ link t) ∧
    (¬ LmWord p → exec (.jump off) s = .next (takeTrap s s.cur 0x21 (some (wdI p))) ∧
      exec (.jal rd off) s = .next (takeTrap s s.cur 0x21 (some (wdI p)))) ∧
    (¬ LmWord q → exec (.jr ra imm) s = .next (takeTrap s s.cur 0x21 (some (wdI q))) ∧
      exec (.jalr rd ra imm) s = .next (takeTrap s s.cur 0x21 (some (wdI q))))

/-- R269: a loop instruction pushes its level when its count is not 0 and the body lies within the level outside; with count 0 it skips the body,
past the end check there; in a handler, with two levels, or with a body that leaves the outer one it takes ILL. -/
def Clauses.HardwareLoop : Prop :=
  ∀ (s : State) (l : BitVec 5) (n : BitVec 19) (xs : Reg),
    let k := cc s
    let stop := k.pc + wd (4 * (l.toNat + 1))
    let fits := k.trapped = false ∧ (k.loops = [] ∨ ∃ o, k.loops = [o] ∧ stop.toNat ≤ o.stop.toNat)
    let row := fun (i : Instr) (c : Nat) =>
      (fits → c ≠ 0 → ∃ t : State, exec i s = .next t ∧ (cc t).pc = k.pc + 4 ∧ (cc t).loops = ⟨k.pc + 4, stop, c⟩ :: k.loops ∧ OnlyPc s t) ∧
      (fits → c = 0 → ∃ t : State, exec i s = .next t ∧ (cc t).pc = (passTo k stop).pc ∧ (cc t).loops = (passTo k stop).loops ∧ OnlyPc s t) ∧
      (¬ fits → exec i s = .next (takeTrap s s.cur 0x20 none))
    row (.loopi l n) n.toNat ∧ row (.loopiReg l xs) (rx k xs).toNat

/-- R270: at the passage from p to p + 4 the levels whose end is p are checked, innermost first: one with turns left begins again with one turn
less, one without is popped and the next checked; with no level ending at p the PC is p + 4. In a handler no check is made (R271). -/
def Clauses.EndCheck : Prop :=
  ∀ (k : Core) (p : Word) (l : LoopLvl) (ls : List LoopLvl),
    (k.trapped = true → passTo k p = { k with pc := p + 4 }) ∧
    (k.trapped = false → (∀ x ∈ k.loops.head?, x.stop ≠ p) → passTo k p = { k with pc := p + 4 }) ∧
    (k.trapped = false → k.loops = l :: ls → l.stop = p → 1 < l.count →
      passTo k p = { k with loops := ⟨l.start, l.stop, l.count - 1⟩ :: ls, pc := l.start }) ∧
    (k.trapped = false → k.loops = l :: ls → l.stop = p → l.count ≤ 1 → passTo k p = passTo { k with loops := ls } p)

/-- R271: a level that a taken transfer leaves is popped with every level inside it: what remains is the outermost levels that hold the target,
and each of them does. -/
def Clauses.EarlyPops : Prop :=
  ∀ (t : Word) (ls : List LoopLvl),
    popLoops t ls <:+ ls ∧ (∀ l ∈ popLoops t ls, l.start.toNat ≤ t.toNat ∧ t.toNat ≤ l.stop.toNat) ∧
    ∀ r, r <:+ ls → (∀ l ∈ r, l.start.toNat ≤ t.toNat ∧ t.toNat ≤ l.stop.toNat) → r <:+ popLoops t ls

/-! ### Local memory (chapters 7 and 16) -/

namespace Sys2Proof.Stated

/-- As Gives, after the access has passed the error injector (04 R74): u is the state behind it, which is s itself where the injector is off. -/
def GivesFrom (i : Instr) (s u : State) (rd : Reg) (v : Word) : Prop :=
  ∃ t : State, exec i s = .next t ∧ rx (cc t) rd = (if rd = 0 then 0 else v) ∧ Passes u t ∧ OnlyX u t rd

/-- What a store to LM may change: the stored bytes with their poison, RESTART, the PC, the loop stack and what was gathered for the instruction of the
current core, the injector's generator, and the sleep of cores whose monitor covers the bytes. No scalar, vector, mask, tile, queue, stream, control or trap register
changes, no slot, no send buffer, no memory outside the cores and no other core's LM. -/
def StoreFrame (s t : State) : Prop :=
  t.mem = s.mem ∧ t.memPoison = s.memPoison ∧ t.cur = s.cur ∧
  cc t = { cc s with lm := (cc t).lm, poison := (cc t).poison, fe := (cc t).fe, restart := (cc t).restart, clrby := (cc t).clrby, pc := (cc t).pc,
                     loops := (cc t).loops, wait := (cc t).wait, out := (cc t).out, vgot := (cc t).vgot, vpos := (cc t).vpos } ∧
  Gathered (cc s) (cc t) ∧
  ∀ c, c ≠ s.cur → coreOf t c = { coreOf s c with wait := (coreOf t c).wait, out := (coreOf t c).out }

/-- LM of a core holds the n low bytes of v at a, and every other byte as before. -/
def Stored (k k' : Core) (a n : Nat) (v : Word) : Prop :=
  ∀ b, rdByte k'.lm b = if a ≤ b ∧ b < a + n then BitVec.ofNat 8 (v.toNat / 2 ^ (8 * (b - a))) else rdByte k.lm b

end Sys2Proof.Stated

/-- R288, R124 for an access outside a fused window: a misaligned address takes ALIGN, one above LM PRIV; else the access passes exactly where
every one of its bytes may be accessed, and the cause is that of its first byte. -/
def Clauses.LocalChecks : Prop :=
  ∀ (s : State) (a : Word) (w : BitVec 2) (wr : Bool),
    fusedAt s s.cur a.toNat = none →
    let n := wbytes w
    let t := slotOf (cc s) (curSlot (cc s))
    (a.toNat % n ≠ 0 → localCheck s a n wr = some (0x13, a)) ∧
    (a.toNat % n = 0 → 2 ^ 19 ≤ a.toNat → localCheck s a n wr = some (0x27, a)) ∧
    (a.toNat % n = 0 → a.toNat < 2 ^ 19 →
      (localCheck s a n wr = none ↔ ∀ i, i < n → byteFault t (a.toNat + i) wr = none) ∧
      ∀ c, byteFault t a.toNat wr = some c → localCheck s a n wr = some (c, a))

/-- R289: LD sign-extends and LDN zero-extends the bytes at x[ra] + SExt(off); a load that a check refuses takes its trap, and one of poisoned
bytes seals the core (04 R70). -/
def Clauses.LoadsOfLocalMemory : Prop :=
  ∀ (s : State) (rd ra : Reg) (w : BitVec 2) (off : BitVec 13),
    let a := rx (cc s) ra + sext off
    let n := wbytes w
    let u := struck s s.cur a.toNat n
    let row := fun (i : Instr) (v : Word) =>
      (localCheck s a n false = none → fusedAt s s.cur a.toNat = none → lmBad (cc u) a.toNat n = false → GivesFrom i s u rd v) ∧
      (localCheck s a n false = none → fusedAt s s.cur a.toNat = none → lmBad (cc u) a.toNat n = true → exec i s = .next (sealCore u s.cur)) ∧
      (∀ c p, localCheck s a n false = some (c, p) → exec i s = .next (takeTrap s s.cur c (some p)))
    row (.ld rd ra w off) (wdI (signedN (8 * n) (rdLE (cc s).lm a.toNat n))) ∧
    row (.ldn rd ra w off) (wd (rdLE (cc s).lm a.toNat n))

/-- R289: ST writes the low bytes of x[rb] at x[ra] + SExt(off), little-endian, and no other byte of any memory. A store into P0 to P3 clears
RESTART (07 R132). -/
def Clauses.StoresToLocalMemory : Prop :=
  ∀ (s : State) (ra rb : Reg) (w : BitVec 2) (off : BitVec 13),
    let a := rx (cc s) ra + sext off
    let n := wbytes w
    let sl := slotOf (cc s) (curSlot (cc s))
    (Memory.wf (cc s).lm = true → localCheck s a n true = none → fusedAt s s.cur a.toNat = none →
      ∃ t : State, exec (.st ra rb w off) s = .next t ∧ Stored (cc s) (cc t) a.toNat n (rx (cc s) rb) ∧ StoreFrame s t ∧ (cc t).fe = (cc s).fe ∧
        (cc t).pc = (advance (cc s)).pc ∧ (inP sl a.toNat = true → (cc t).restart = false) ∧
        (inP sl a.toNat = false → (cc s).inh = false → (cc t).restart = (cc s).restart)) ∧
    (∀ c p, localCheck s a n true = some (c, p) → exec (.st ra rb w off) s = .next (takeTrap s s.cur c (some p)))

/-- R290: LD.F and FEC are enabled while the word is full, and wait otherwise; LD.F leaves the bit, FEC clears it, FES sets it from x[rd] and returns what it
was; a local ST.F stores the word and sets it full. Where the spec leaves a point of this open the model chose: log 1. -/
def Obligations.FullEmptyForms : Prop :=
  ∀ (s : State) (rd ra rb : Reg) (off : BitVec 13),
    let a := rx (cc s) ra + sext off
    let u := struck s s.cur a.toNat 8
    let full := decide (a.toNat / 8 ∈ (cc s).fe)
    let v := wd (rdLE (cc s).lm a.toNat 8)
    fusedAt s s.cur a.toNat = none →
    (localCheck s a 8 false = none → full = false → exec (.ldF rd ra off) s = .next s) ∧
    (localCheck s a 8 false = none → full = true → lmBad (cc u) a.toNat 8 = false → GivesFrom (.ldF rd ra off) s u rd v) ∧
    (localCheck s a 8 true = none → full = false → exec (.fec rd ra off) s = .next s) ∧
    (localCheck s a 8 true = none → full = true → lmBad (cc u) a.toNat 8 = false →
      ∃ t : State, exec (.fec rd ra off) s = .next t ∧ rx (cc t) rd = (if rd = 0 then 0 else v) ∧ (∀ r, r ≠ rd → rx (cc t) r = rx (cc s) r) ∧
        (∀ w, w ∈ (cc t).fe ↔ w ∈ (cc s).fe ∧ w ≠ a.toNat / 8) ∧ (cc t).lm = (cc s).lm ∧ t.mem = s.mem ∧ (cc t).pc = (advance (cc s)).pc) ∧
    (localCheck s a 8 true = none →
      ∃ t : State, exec (.fes rd ra off) s = .next t ∧ rx (cc t) rd = (if rd = 0 then 0 else if full then 1 else 0) ∧
        (∀ r, r ≠ rd → rx (cc t) r = rx (cc s) r) ∧
        (∀ w, w ∈ (cc t).fe ↔ if w = a.toNat / 8 then bit (rx (cc s) rd) 0 = true else w ∈ (cc s).fe) ∧ (cc t).lm = (cc s).lm ∧ t.mem = s.mem ∧
        (cc t).pc = (advance (cc s)).pc) ∧
    (bit a 63 = false → Memory.wf (cc s).lm = true → localCheck s a 8 true = none →
      ∃ t : State, exec (.stF ra rb off) s = .next t ∧ Stored (cc s) (cc t) a.toNat 8 (rx (cc s) rb) ∧ StoreFrame s t ∧
        (∀ w, w ∈ (cc t).fe ↔ w ∈ (cc s).fe ∨ w = a.toNat / 8) ∧ (cc t).pc = (advance (cc s)).pc)

/-- R291: the new value of an atomic on a w-bit word, for its integer operators; FADD rounds the exact sum of two f32 values. -/
def Clauses.AtomicFunction : Prop :=
  ∀ (w m b c : Nat) (r : RM), w = 8 ∨ w = 16 ∨ w = 32 ∨ w = 64 → m < 2 ^ w →
    let b' := b % 2 ^ w
    amoNew 0 w m b c r = b' ∧
    amoNew 1 w m b c r = (if m = c % 2 ^ w then b' else m) ∧
    amoNew 2 w m b c r = (m + b') % 2 ^ w ∧
    amoNew 3 w m b c r = m &&& b' ∧
    amoNew 4 w m b c r = m ||| b' ∧
    amoNew 5 w m b c r = m ^^^ b' ∧
    (signedN w (amoNew 6 w m b c r) = min (signedN w m) (signedN w b)) ∧
    (signedN w (amoNew 7 w m b c r) = max (signedN w m) (signedN w b)) ∧
    amoNew 8 w m b c r = min m b' ∧
    amoNew 9 w m b c r = max m b' ∧
    amoNew 10 32 (m % 2 ^ 32) b c r = roundTo f32 r (fadd (fin f32 r.fz (m % 2 ^ 32)) (fin f32 r.fz (b % 2 ^ 32)))

/-- R292: AMO reads the word at x[ra], writes R291's new value there and returns the old one zero-extended, in one step; FADD has width 4 alone,
and takes ATYPE at any other. -/
def Clauses.LocalAtomics : Prop :=
  ∀ (s : State) (rd ra rb : Reg) (op : BitVec 4) (w : BitVec 2),
    let a := rx (cc s) ra
    let n := wbytes w
    let u := struck s s.cur a.toNat n
    let m := rdLE (cc s).lm a.toNat n
    let v := amoNew op.toNat (8 * n) m (rx (cc s) rb).toNat (rx (cc s) rd).toNat (rmAt (cc s).rmode (fld (cc s).rmode 31 16 * 2 ^ 32))
    (Memory.wf (cc s).lm = true → localCheck s a n true = none → fusedAt s s.cur a.toNat = none → (op = 10 → w = 2) → lmBad (cc u) a.toNat n = false →
      ∃ t : State, exec (.amo rd ra rb op w) s = .next t ∧ rx (cc t) rd = (if rd = 0 then 0 else wd m) ∧ (∀ r, r ≠ rd → rx (cc t) r = rx (cc s) r) ∧
        Stored (cc s) (cc t) a.toNat n (wd v) ∧ t.mem = s.mem ∧ (cc t).fe = (cc s).fe ∧ (cc t).pc = (advance (cc s)).pc ∧
        (op ≠ 10 → (cc t).rmode = (cc s).rmode)) ∧
    (localCheck s a n true = none → op = 10 → w ≠ 2 → exec (.amo rd ra rb op w) s = .next (takeTrap s s.cur 0x11 (some a))) ∧
    (∀ c p, localCheck s a n true = some (c, p) → exec (.amo rd ra rb op w) s = .next (takeTrap s s.cur c (some p)))

/-- R74: an access with the injector's seed 0, or of a partition that it does not serve, is left alone; else the generator moves, and where it
strikes the words of the access are poisoned and nothing else changes. -/
def Clauses.ErrorInjector : Prop :=
  ∀ (s : State) (c a n : Nat),
    let d := dieAt s (dieOf c)
    let p := fld d.einjctl 37 32
    let on := d.einjseed ≠ 0 ∧ bit d.einjctl 0 = true ∧ p < 40 ∧ ctxPart (ctxOf s (actOwn (cc s)).1) = p ∧ (mgetD s.parts p {}).test = true
    (¬ on → struck s c a n = s) ∧
    (on → (dieAt (struck s c a n) (dieOf c)).einjseed = Config.xorshift d.einjseed ∧ (coreOf (struck s c a n) c).lm = (coreOf s c).lm ∧
      (struck s c a n).mem = s.mem ∧
      (fld (Config.xorshift d.einjseed) 31 0 < fld d.einjctl 31 8 * 256 → 0 < n → lmBad (coreOf (struck s c a n) c) a n = true) ∧
      (¬ fld (Config.xorshift d.einjseed) 31 0 < fld d.einjctl 31 8 * 256 → coreOf (struck s c a n) c = coreOf s c))

/-! ### Words of the scalar groups that the statements above are about -/

/-- R254 to R256: the func of each instruction of opcode 0x01, at all registers; a reserved func is no instruction, and such a word takes ILL (12 R234). -/
def Clauses.AluWords : Prop :=
  (∀ rd ra rb : Reg,
    decode (fmtA 0x01 rd ra rb 0x000) = .ok (.add rd ra rb) ∧ decode (fmtA 0x01 rd ra rb 0x001) = .ok (.sub rd ra rb) ∧
    decode (fmtA 0x01 rd ra rb 0x002) = .ok (.and rd ra rb) ∧ decode (fmtA 0x01 rd ra rb 0x003) = .ok (.or rd ra rb) ∧
    decode (fmtA 0x01 rd ra rb 0x004) = .ok (.xor rd ra rb) ∧ decode (fmtA 0x01 rd ra rb 0x005) = .ok (.andn rd ra rb) ∧
    decode (fmtA 0x01 rd ra rb 0x008) = .ok (.sll rd ra rb) ∧ decode (fmtA 0x01 rd ra rb 0x009) = .ok (.srl rd ra rb) ∧
    decode (fmtA 0x01 rd ra rb 0x00A) = .ok (.sra rd ra rb) ∧ decode (fmtA 0x01 rd ra rb 0x00B) = .ok (.rol rd ra rb) ∧
    decode (fmtA 0x01 rd ra rb 0x00C) = .ok (.ror rd ra rb) ∧
    decode (fmtA 0x01 rd ra rb 0x010) = .ok (.slt rd ra rb) ∧ decode (fmtA 0x01 rd ra rb 0x011) = .ok (.sltn rd ra rb) ∧
    decode (fmtA 0x01 rd ra rb 0x012) = .ok (.min rd ra rb) ∧ decode (fmtA 0x01 rd ra rb 0x013) = .ok (.max rd ra rb) ∧
    decode (fmtA 0x01 rd ra rb 0x014) = .ok (.minn rd ra rb) ∧ decode (fmtA 0x01 rd ra rb 0x015) = .ok (.maxn rd ra rb) ∧
    ∀ fn : BitVec 10, (fn.toNat = 6 ∨ fn.toNat = 7 ∨ (0x00D ≤ fn.toNat ∧ fn.toNat ≤ 0x00F) ∨ 0x016 ≤ fn.toNat) →
      decode (fmtA 0x01 rd ra rb fn) = .error (.reservedFunc 0x01 fn.toNat)) ∧
  (∀ (s : State) (w : IWord) (e : DecodeError), decode w = .error e → exec (.illegalWord w) s = .next (takeTrap s s.cur 0x20 none))

/-- R261: the func of each of these instructions, at all registers; the rb field is zero, and a word where it is not is no instruction. -/
def Clauses.BitCountWords : Prop :=
  ∀ rd ra rb : Reg,
    decode (fmtA 0x03 rd ra 0 0x000) = .ok (.clz rd ra) ∧ decode (fmtA 0x03 rd ra 0 0x001) = .ok (.ctz rd ra) ∧
    decode (fmtA 0x03 rd ra 0 0x002) = .ok (.popc rd ra) ∧ decode (fmtA 0x03 rd ra 0 0x003) = .ok (.brev rd ra) ∧
    decode (fmtA 0x03 rd ra 0 0x004) = .ok (.bswap rd ra) ∧
    ∀ fn : BitVec 10, fn.toNat < 5 → rb ≠ 0 → decode (fmtA 0x03 rd ra rb fn) = .error (.reservedField 0x03) ∧
      ∀ s : State, exec (.illegalWord (fmtA 0x03 rd ra rb fn)) s = .next (takeTrap s s.cur 0x20 none)

/-- R265: the opcode of each branch, at all registers and offsets. -/
def Clauses.BranchWords : Prop :=
  ∀ (ra rb : Reg) (off : BitVec 15),
    decode (fmtI 0x20 ra rb off) = .ok (.beq ra rb off) ∧ decode (fmtI 0x21 ra rb off) = .ok (.bne ra rb off) ∧
    decode (fmtI 0x22 ra rb off) = .ok (.blt ra rb off) ∧ decode (fmtI 0x23 ra rb off) = .ok (.bge ra rb off) ∧
    decode (fmtI 0x24 ra rb off) = .ok (.bltn ra rb off) ∧ decode (fmtI 0x25 ra rb off) = .ok (.bgen ra rb off)

/-! ### Remote operations, flush, fence and wait (chapters 9 and 16) -/

namespace Sys2Proof.Stated

/-- The instruction changes neither a scalar register, nor LM, nor memory. -/
def Untouched (s t : State) : Prop := (∀ r, rx (cc t) r = rx (cc s) r) ∧ (cc t).lm = (cc s).lm ∧ (cc t).fe = (cc s).fe ∧ t.mem = s.mem

/-- The token under which the next request of a core leaves: that of the translation granted for it, or a fresh one. -/
def reqTok (k : Core) : Nat := (takeTok k).1

/-- A request leaves for its home (09 R169): it stands last in the channel to the home, its entry joins the outstanding table, x[rd] is pending
for it (12 R223), and the PC passes on. -/
def RequestLeaves (i : Instr) (s : State) (rd : Reg) (kind : RetKind) (g dst slot op : Nat) (unc : Bool) (body : Nat → Body) : Prop :=
  ∃ t : State, exec i s = .next t ∧
    chanQ t (niOf s s.cur) dst 0 = chanQ s (niOf s s.cur) dst 0 ++
      [{ src := niOf s s.cur, dst := dst, cls := 0, op := op, cid := (actOwn (cc s)).1, inc := (actOwn (cc s)).2, slot := slot, unc := unc, len := 2,
         body := body (reqTok (cc s)) }] ∧
    (cc t).out = (cc s).out ++ [{ tok := reqTok (cc s), rd := rd.toNat, kind := kind, g := g, own := actOwn (cc s) }] ∧
    (rd ≠ 0 → (rd.toNat, reqTok (cc s)) ∈ (cc t).pendx) ∧ (cc t).pc = (advance (cc s)).pc ∧ (cc t).sb = (cc s).sb ∧ Untouched s t

/-- A virtual address goes to the RTU that serves the core, and the instruction holds its issue point (16 R293 step 4). -/
def AsksRtu (i : Instr) (s : State) (va acc : Nat) : Prop :=
  ∃ t q, exec i s = .next t ∧ (cc t).wait = .xl (cc s).tok ∧ (cc t).pc = (cc s).pc ∧
    (rtuAt t (dieOf s.cur) (rtuOf s.cur)).queue = (rtuAt s (dieOf s.cur) (rtuOf s.cur)).queue ++ [q] ∧
    q.va = va ∧ q.acc = acc ∧ q.core = s.cur ∧ q.tok = (cc s).tok ∧ q.cid = (actOwn (cc s)).1 ∧ q.inc = (actOwn (cc s)).2 ∧ Untouched s t

end Sys2Proof.Stated

/-- R295, R171, R293: a load of a virtual address is served from the send buffer where that holds all its bytes, else translated at the RTU,
and then asked of its home; the form with ACQ holds the issue point until its answer has come. -/
def Clauses.RemoteLoads : Prop :=
  ∀ (s : State) (rd ra : Reg) (zx : BitVec 1) (w : BitVec 2) (va pa : Nat) (unc : Bool) (bs : List Byte),
    let g := rx (cc s) ra
    let n := wbytes w
    let dst := homeOf s (dieOf s.cur) pa
    g.toNat % n = 0 → gform g = .virt va →
    ((cc s).wait = .idle → served (cc s) g.toNat n = some bs →
      Gives (.rld rd ra zx w) s rd (if zx = 0 then wdI (signedN (8 * n) (leNat bs)) else wd (leNat bs)) ∧
      Gives (.rldAcq rd ra zx w) s rd (if zx = 0 then wdI (signedN (8 * n) (leNat bs)) else wd (leNat bs))) ∧
    ((cc s).wait = .idle → overlaps (cc s) g.toNat n = false →
      AsksRtu (.rld rd ra zx w) s va 0 ∧ AsksRtu (.rldAcq rd ra zx w) s va 0) ∧
    ((cc s).wait = .xlOk pa unc → agChip dst = s.chip →
      RequestLeaves (.rld rd ra zx w) s rd (.load n (decide (zx = 0))) g.toNat dst 0 1 unc (fun t => .load pa n t) ∧
      ∃ t : State, exec (.rldAcq rd ra zx w) s = .next t ∧ (cc t).wait = .ret (reqTok (cc s)) ∧ (cc t).pc = (cc s).pc ∧
        (chanQ t (niOf s s.cur) dst 0).length = (chanQ s (niOf s s.cur) dst 0).length + 1 ∧ Untouched s t) ∧
    (∀ tok, (cc s).wait = .ret tok → (∀ o ∈ (cc s).out, o.tok ≠ tok) →
      ∃ t : State, exec (.rldAcq rd ra zx w) s = .next t ∧ (cc t).wait = .idle ∧ Passes s t ∧ Untouched s t)

/-- R297, R298, R299: an atomic or an insert whose address is translated leaves for its home where the target executes it, and clears RESTART
as it leaves; where the target does not, ATYPE is taken with the global address, and nothing leaves. -/
def Clauses.RemoteAtomics : Prop :=
  ∀ (s : State) (rd ra rb : Reg) (op : BitVec 4) (w : BitVec 2) (pa : Nat) (unc : Bool),
    let g := rx (cc s) ra
    let b := rx (cc s) rb
    let d := rx (cc s) rd
    let n := wbytes w
    let dst := homeOf s (dieOf s.cur) pa
    let off := { cc s with wait := Wait.idle, grant := none }
    (cc s).wait = .xlOk pa unc → (cc s).twin = none → agChip dst = s.chip → gform g ≠ .bad →
    (g.toNat % n = 0 → amoAllowed (paKind pa) op.toNat n = true →
      RequestLeaves (.ramo rd ra rb op w) s rd (.amo n) g.toNat dst 0 4 unc
        (fun t => .amo pa op.toNat n b (if op = 1 then d else 0) (cc s).rmode t) ∧
      ∀ t, exec (.ramo rd ra rb op w) s = .next t → (cc t).restart = false) ∧
    (g.toNat % n = 0 → amoAllowed (paKind pa) op.toNat n = false →
      exec (.ramo rd ra rb op w) s = .next (takeTrap (setCC s off) s.cur 0x11 (some g))) ∧
    (g.toNat % 256 = 0 → hinsAllowed (paKind pa) = true →
      RequestLeaves (.hins rd ra rb) s rd .hins g.toNat dst 0 5 unc (fun t => .hins pa false b d t) ∧
      RequestLeaves (.hinsTag rd ra rb) s rd .hins g.toNat dst 0 5 unc (fun t => .hins pa true b d t) ∧
      ∀ t, exec (.hins rd ra rb) s = .next t → (cc t).restart = false) ∧
    (g.toNat % 256 = 0 → hinsAllowed (paKind pa) = false →
      exec (.hins rd ra rb) s = .next (takeTrap (setCC s off) s.cur 0x11 (some g)) ∧
      exec (.hinsTag rd ra rb) s = .next (takeTrap (setCC s off) s.cur 0x11 (some g)))

/-- R301: LDG and STG take NOPATH on a compute core; on a supervisor core a populated physical address goes to its home with no translation,
STG past the send buffer, into the outstanding table and the unacknowledged set at once. -/
def Clauses.DirectPath : Prop :=
  ∀ (s : State) (rd ra rb : Reg) (w : BitVec 2) (off : BitVec 13),
    let g := rx (cc s) ra + sext off
    let n := wbytes w
    let pa := fld g 55 0
    let dst := homeOf s (dieOf s.cur) pa
    (isCompute s.cur = true → exec (.ldg rd ra w off) s = .next (takeTrap s s.cur 0x22 none) ∧
      exec (.stg ra rb w off) s = .next (takeTrap s s.cur 0x22 none)) ∧
    (isSup s.cur = true → bit g 63 = false → fld g 62 56 = 0 → populated s pa = true → g.toNat % n = 0 → (cc s).wait = .idle →
      overlaps (cc s) g.toNat n = false → agChip dst = s.chip →
      RequestLeaves (.ldg rd ra w off) s rd (.load n true) g.toNat dst 0 1 false (fun t => .load pa n t) ∧
      ∃ t : State, exec (.stg ra rb w off) s = .next t ∧
        chanQ t (niOf s s.cur) dst 1 = chanQ s (niOf s s.cur) dst 1 ++
          [{ src := niOf s s.cur, dst := dst, cls := 1, op := 2, cid := (actOwn (cc s)).1, inc := (actOwn (cc s)).2, len := 2, bad := xbad (cc s) rb,
             body := .store pa n (rx (cc s) rb) false (cc s).tok }] ∧
        (∃ o ∈ (cc t).out, o.tok = (cc s).tok ∧ o.kind = .stg) ∧ (∃ u ∈ (cc t).unack, u.tok = (cc s).tok ∧ u.target = dst) ∧
        (cc t).sb = (cc s).sb ∧ (cc t).restart = (cc s).restart ∧ Passes s t ∧ Untouched s t)

/-- R131, R302, R303, R174: FLUSH and the fences begin by clearing RESTART and starting the flush of what the buffer holds, and hold their issue
point; FLUSH passes when the flush is over; a fence passes when no request is outstanding and no covered effect unacknowledged, and waits
otherwise. A fabric fence first waits until every store of the core has a home, and then sends one marker to each die of another chip that the core stored
to, each with an outstanding entry (02 R39, 09 R175). -/
def Clauses.FlushAndFences : Prop :=
  ∀ (s : State),
    ((cc s).wait = .idle → (cc s).twin = none → (cc s).sb ≠ [] →
      ∀ i ∈ [Instr.flush, .fenceRow, .fenceDie, .fencePkg, .fenceFab],
        ∃ t : State, exec i s = .next t ∧ (cc t).restart = false ∧ (cc t).wait = .flush ∧ (cc t).flush = some (cc s).sb.length ∧ (cc t).sb = (cc s).sb ∧
          (cc t).pc = (cc s).pc ∧ Untouched s t) ∧
    ((cc s).wait = .flush → (cc s).flush = none → ∃ t : State, exec .flush s = .next t ∧ (cc t).wait = .idle ∧ Passes s t ∧ Untouched s t) ∧
    ((cc s).wait = .flush → (cc s).flush ≠ none → exec .flush s = .next s) ∧
    (∀ i σ, (i, σ) ∈ [(Instr.fenceRow, 0), (.fenceDie, 1), (.fencePkg, 2), (.fenceFab, 3)] → (cc s).wait = .fence true →
      ((cc s).out = [] → (∀ u ∈ (cc s).unack, inScope s s.cur σ u.target = false) →
        ∃ t : State, exec i s = .next t ∧ (cc t).wait = .idle ∧ Passes s t ∧ Untouched s t) ∧
      (((cc s).out ≠ [] ∨ ∃ u ∈ (cc s).unack, inScope s s.cur σ u.target = true) → exec i s = .next s)) ∧
    ((cc s).wait = .fence false → (∃ u ∈ (cc s).unack, u.target = 0) →
      ∃ t : State, exec .fenceFab s = .next t ∧ (cc t).wait = .fence false ∧ (cc t).storedTo = (cc s).storedTo ∧ (cc t).pc = (cc s).pc ∧ Untouched s t) ∧
    ((cc s).wait = .fence false → (∀ u ∈ (cc s).unack, u.target ≠ 0) → (cc s).storedTo ≠ [] →
      ∃ t : State, exec .fenceFab s = .next t ∧ (cc t).wait = .fence true ∧ (cc t).storedTo = [] ∧
        (cc t).out.length = (cc s).out.length + (cc s).storedTo.length ∧ (cc t).pc = (cc s).pc ∧ Untouched s t)

/-- R182, R304: WAITM of a block of the core's own LM returns 0 at once when the first word differs from x[rb], and sleeps with its monitor armed
when it does not; once woken it returns its reason. A misaligned block takes ALIGN. -/
def Clauses.WaitForMemory : Prop :=
  ∀ (s : State) (rd ra rb : Reg) (a : Act) (off : Nat),
    let g := rx (cc s) ra
    let i := Instr.waitm rd ra rb
    (∀ r, (cc s).wait = .woke r →
      ∃ t : State, exec i s = .next t ∧ rx (cc t) rd = (if rd = 0 then 0 else wd r) ∧ (∀ q, q ≠ rd → rx (cc t) q = rx (cc s) q) ∧ (cc t).wait = .idle ∧
        Passes s t) ∧
    (∀ tok, (cc s).wait = .armed tok → exec i s = .next s) ∧
    ((cc s).wait = .idle → g.toNat % 64 ≠ 0 → exec i s = .next (takeTrap s s.cur 0x13 (some g))) ∧
    ((cc s).wait = .idle → g.toNat % 64 = 0 → (cc s).act = some a → gform g = .peer a.rank off →
      rangeFault (slotOf (cc s) (curSlot (cc s))) off 64 false = none → s.cur < 2 ^ 40 →
      (rdLE (cc s).lm off 8 ≠ (rx (cc s) rb).toNat →
        ∃ t : State, exec i s = .next t ∧ rx (cc t) rd = 0 ∧ (∀ q, q ≠ rd → rx (cc t) q = rx (cc s) q) ∧ Passes s t ∧ (cc t).lm = (cc s).lm) ∧
      (rdLE (cc s).lm off 8 = (rx (cc s) rb).toNat →
        ∃ t : State, exec i s = .next t ∧ (cc t).wait = .armed (cc s).tok ∧ (cc t).pc = (cc s).pc ∧ Untouched s t ∧
          ⟨true, s.cur, off, s.cur, (cc s).tok, none⟩ ∈ t.monitors))

/-! ### Control registers, traps and the end of an activation (chapters 7, 11, 12, 15) -/

namespace Sys2Proof.Stated

/-- The control registers whose RW fields a write replaces and a read returns, with no further rule on the value: TRAPVEC, TRAPPC, MB0 to MB7,
the region registers, TRIMSEL, SCHEDAGE, EINJSEED, EINJCTL and S2SEL (12 R224). -/
def plainCsr : List Nat :=
  [0x011, 0x013, 0x030, 0x031, 0x032, 0x033, 0x034, 0x035, 0x036, 0x037, 0x060, 0x061, 0x062, 0x063, 0x064, 0x065, 0x066,
   0x400, 0x401, 0x405, 0x406, 0x407]

/-- What a write of a control register may change beside it: the PC, the loop stack and what was gathered for the instruction. -/
def CsrFrame (s t : State) : Prop :=
  t = { s with cores := t.cores, dies := t.dies } ∧ (∀ c, c ≠ s.cur → coreOf t c = coreOf s c) ∧
  cc t = { cc s with slots := (cc t).slots, trappc := (cc t).trappc, rmode := (cc t).rmode, fmta := (cc t).fmta, fmtb := (cc t).fmtb,
                     fmtc := (cc t).fmtc, fmts := (cc t).fmts, pc := (cc t).pc, loops := (cc t).loops, vgot := (cc t).vgot,
                     vpos := (cc t).vpos } ∧ Gathered (cc s) (cc t) ∧
  (∀ n, n % 4 ≠ curSlot (cc s) % 4 → slotOf (cc t) n = slotOf (cc s) n)

/-- A register takes v in its RW fields, no other register of the map changes but those that a selector selects, and the PC passes on. -/
def CsrTakes (i : Instr) (s : State) (n : Nat) (v : Word) : Prop :=
  ∃ t : State, exec i s = .next t ∧ csrCur t n &&& csrRW n = v &&& csrRW n ∧
    (∀ m, m ≠ n → m ≠ 0x002 → m ≠ 0x403 → csrCur t m = csrCur s m) ∧ Passes s t ∧ CsrFrame s t

/-- A format register or RMODE takes exactly v, and nothing else changes but the PC and the loop stack. -/
def FormatTakes (i : Instr) (s : State) (n : Nat) (v : Word) : Prop :=
  ∃ t : State, exec i s = .next t ∧ csrCur t n = v ∧ (∀ m, m ≠ n → csrCur t m = csrCur s m) ∧ Passes s t ∧ CsrFrame s t

end Sys2Proof.Stated

/-- R273, R225: CSRR of an assigned register that is neither queue nor stream gives its value; CSRW writes its RW fields, CSRS sets and CSRC
clears the RW bits that the operand has set. -/
def Clauses.ControlRegisters : Prop :=
  ∀ (s : State) (rd ra : Reg) (n : BitVec 12),
    let m := n.toNat
    let a := rx (cc s) ra
    let may := (csrRegion m = true ∨ csrSup m = true → isSup s.cur = true) ∧ (m = 0x013 → trapRestricted s = true)
    (csrKnown m = true → csrQueue m = false → csrStream m = false → (csrSup m = true → isSup s.cur = true) →
      (m = 0x002 → isMemCore s.cur = false) → Gives (.csrr rd n) s rd (csrCur s m)) ∧
    (m ∈ plainCsr → may →
      CsrTakes (.csrw ra n) s m a ∧ CsrTakes (.csrs ra n) s m (csrCur s m ||| a) ∧ CsrTakes (.csrc ra n) s m (csrCur s m &&& ~~~a))

/-- R225, R239: what a control-register instruction is refused with, in the order of R235: an unassigned number or a write of a read-only register
is ILL, and so is CSRS or CSRC of a queue, stream or format register; a supervisor register, or a write of a region register, is PRIV off a
supervisor core; a write of XB or TRAPPC is PRIV outside a handler there. -/
def Clauses.ControlRegisterRefusals : Prop :=
  ∀ (s : State) (rd ra : Reg) (n : BitVec 12),
    let m := n.toNat
    let ill := Host.Outcome.next (takeTrap s s.cur 0x20 none)
    let priv := Host.Outcome.next (takeTrap s s.cur 0x27 none)
    (csrKnown m = false → exec (.csrr rd n) s = ill ∧ exec (.csrw ra n) s = ill ∧ exec (.csrs ra n) s = ill ∧ exec (.csrc ra n) s = ill) ∧
    (csrRO m = true → exec (.csrw ra n) s = ill ∧ exec (.csrs ra n) s = ill ∧ exec (.csrc ra n) s = ill) ∧
    (csrQueue m = true ∨ csrStream m = true ∨ csrFormat m = true → exec (.csrs ra n) s = ill ∧ exec (.csrc ra n) s = ill) ∧
    (csrKnown m = true → csrSup m = true → isSup s.cur = false → exec (.csrr rd n) s = priv) ∧
    (csrKnown m = true → csrRO m = false → (csrSup m = true ∨ csrRegion m = true) → isSup s.cur = false →
      exec (.csrw ra n) s = priv ∧ exec (.csrs ra n) s = priv ∧ exec (.csrc ra n) s = priv) ∧
    (m = 0x010 ∨ m = 0x013 → (cc s).trapped = false → isSup s.cur = false →
      exec (.csrw ra n) s = priv ∧ exec (.csrs ra n) s = priv ∧ exec (.csrc ra n) s = priv)

/-- R138, R211, R213, R214, R225, R227: the register-write forms. XB, the format registers and RMODE take a valid value and refuse any other with
ILL; TRAPPC keeps its 17 bits; a mailbox counter takes COUNT, and loses ERR where the value has it set. -/
def Clauses.RegisterWriteForms : Prop :=
  ∀ (s : State) (ra : Reg) (j : BitVec 3) (f : BitVec 2),
    let a := rx (cc s) ra
    let t0 := slotOf (cc s) (curSlot (cc s))
    let ill := Host.Outcome.next (takeTrap s s.cur 0x20 none)
    (trapRestricted s = true → xbValid t0 a = true → FormatTakes (.xbWrite ra) s 0x010 a) ∧
    (trapRestricted s = true → xbValid t0 a = false → exec (.xbWrite ra) s = ill) ∧
    (trapRestricted s = true → FormatTakes (.trappcWrite ra) s 0x013 (wd (fld a 18 2 * 4))) ∧
    (f ≠ 3 → fmtValid a = true → FormatTakes (.formatWrite f ra) s (0x009 + f.toNat) a) ∧
    (f ≠ 3 → fmtValid a = false → exec (.formatWrite f ra) s = ill) ∧
    (fld a 1 0 ≠ 3 → FormatTakes (.fmtsWrite ra) s 0x00C (wd (fld a 1 0))) ∧
    (fld a 1 0 = 3 → exec (.fmtsWrite ra) s = ill) ∧
    (fld a 2 0 ≤ 5 → FormatTakes (.rmodeWrite ra) s 0x008 (wd (fld a 63 16 * 2 ^ 16 + fld a 8 8 * 2 ^ 8 + fld a 2 0))) ∧
    (5 < fld a 2 0 → exec (.rmodeWrite ra) s = ill) ∧
    ((cc s).sealed_ = false →
      FormatTakes (.mailboxWrite j ra) s (0x030 + j.toNat)
        (wd (fld a 31 0 + (if bit (mbOf t0 j.toNat) 63 ∧ ¬ bit a 63 then 2 ^ 63 else 0))))

/-- R140: a queue register is a queue of four: a push waits while it is full and a pop while it is empty; items come out in the order in which they went in.
A poisoned item is consumed by its pop, which seals the core (04 R69). Where the spec leaves a point of this open the model chose: log 1. -/
def Obligations.QueueRegisters : Prop :=
  ∀ (s : State) (rd ra : Reg) (n : BitVec 2) (v : Word) (l : List Word),
    let q := fun (t : State) => qreg (cc t) n.toNat
    (q s = v :: l → headBad (cc s) n.toNat = true → exec (.queuePop rd n) s = .next (sealCore s s.cur)) ∧
    (q s = v :: l → headBad (cc s) n.toNat = false → ∃ t : State, exec (.queuePop rd n) s = .next t ∧ q t = l ∧ rx (cc t) rd = (if rd = 0 then 0 else v) ∧
      (∀ r, r ≠ rd → rx (cc t) r = rx (cc s) r) ∧ Passes s t ∧ OnlyCore s t ∧
      cc t = { cc s with x := (cc t).x, badRegs := (cc t).badRegs, q := (cc t).q, badQ := (cc t).badQ, pc := (cc t).pc, loops := (cc t).loops,
                         vgot := (cc t).vgot, vpos := (cc t).vpos }) ∧
    (q s = [] → exec (.queuePop rd n) s = .next s) ∧
    ((q s).length < 4 → ∃ t : State, exec (.queuePush n ra) s = .next t ∧ q t = q s ++ [rx (cc s) ra] ∧ Passes s t ∧ OnlyCore s t ∧
      cc t = { cc s with q := (cc t).q, pc := (cc t).pc, loops := (cc t).loops, vgot := (cc t).vgot, vpos := (cc t).vpos }) ∧
    (4 ≤ (q s).length → exec (.queuePush n ra) s = .next s)

/-- R240: a resuming trap outside a handler, with one installed, saves the PC, the cause and the address, and goes to the handler, all in one step
and with nothing else changed. -/
def Clauses.TrapEntry : Prop :=
  ∀ (s : State) (c cause : Nat) (addr : Option Word),
    let k := coreOf s c
    let vec := (slotOf k (curSlot k)).trapvec
    0x10 ≤ cause → cause ≤ 0x13 → k.trapped = false → bit vec 63 = true → k.twin = none →
    takeTrap s c cause addr = setCore s c { k with trappc := k.pc, trapcause := wd (2 ^ 8 + cause), trapaddr := addr.getD 0, trapped := true,
                                                   pc := wd (fld vec 18 2 * 4), wait := .idle, vgot := [], vpos := 0 }

/-- R242, R133, R134, R135: a trap that no handler can take ends the activation: nothing runs, and the send buffer, the commands that have not
started and the queue registers are empty; the trap registers are not written. With RESTART clear its failure record carries the cause and the
address, or the PC where the rule gives no address; with RESTART set, fewer than three aborts and no frame, gang or task of its own its message
goes back to the head of its queue with one abort more. -/
def Clauses.AbortingTraps : Prop :=
  ∀ (s : State) (c cause : Nat) (addr : Option Word) (a : Act),
    let k := coreOf s c
    let t := takeTrap s c cause addr
    let vec := (slotOf k (curSlot k)).trapvec
    k.act = some a → k.twin = none → (¬ (0x10 ≤ cause ∧ cause ≤ 0x13) ∨ k.trapped = true ∨ bit vec 63 = false) → k.ends = [] →
    ((k.restart = false ∨ k.inh = false) →
      (coreOf t c).act = none ∧ (coreOf t c).sb = [] ∧ (coreOf t c).fifo = [] ∧ (coreOf t c).loops = [] ∧ (∀ n, qreg (coreOf t c) n = []) ∧
      (coreOf t c).trappc = k.trappc ∧ (coreOf t c).trapcause = k.trapcause ∧ (coreOf t c).trapaddr = k.trapaddr ∧ (coreOf t c).x = k.x ∧
      (coreOf t c).lm = k.lm ∧ t.mem = s.mem) ∧
    (k.restart = false →
      ∃ r ∈ t.frecs, r.cause = cause ∧ r.kind = 0 ∧ r.cid = a.cid ∧ r.inc = a.inc ∧ r.rank = a.rank ∧ r.msgid = a.msg.hdr.msgid ∧
        r.aborts = k.aborts ∧ r.detail = addr.getD k.pc) ∧
    (k.restart = true → k.aborts < 3 → k.inh = false → a.gang = none → a.msg.task = none → a.home = none →
      t.frecs = s.frecs ∧
      (queueOf (slotOf (coreOf t c) a.slot) a.queue).msgs =
        { a.msg with aborts := k.aborts + 1 } :: (queueOf (slotOf k a.slot) a.queue).msgs)

/-- R241, R274, R275: RTA goes back to TRAPPC and leaves the handler, with the end check where that lands behind a loop's end (14 R270), and is ILL
outside one; BKPT raises the resuming trap BKPT with address 0; ABORT and TRAP n raise their aborting traps. -/
def Clauses.TrapInstructions : Prop :=
  ∀ (s : State) (n : BitVec 7),
    ((cc s).trapped = true → (∀ l ∈ (cc s).loops, l.stop + 4 ≠ wd (fld (cc s).trappc 18 2 * 4)) →
      exec .rta s = .next (setCC s { cc s with trapped := false, pc := wd (fld (cc s).trappc 18 2 * 4) })) ∧
    ((cc s).trapped = true → (∃ l ∈ (cc s).loops, l.stop + 4 = wd (fld (cc s).trappc 18 2 * 4)) →
      exec .rta s = .next (setCC s (passTo { cc s with trapped := false } (wd (fld (cc s).trappc 18 2 * 4) - 4)))) ∧
    ((cc s).trapped = false → exec .rta s = .next (takeTrap s s.cur 0x20 none)) ∧
    exec .bkpt s = .next (takeTrap s s.cur 0x12 none) ∧
    exec .abort s = .next (takeTrap s s.cur 0x2B none) ∧
    exec (.trap n) s = .next (takeTrap s s.cur (0x80 + n.toNat) none)

/-- R129, R137, R226: the status words, field by field. -/
def Obligations.StatusWords : Prop :=
  ∀ (s : State) (a : Act),
    let k := cc s
    let st := csrCur s 0x003
    let id := csrCur s 0x006
    let se := csrCur s 0x005
    k.act = some a → s.cur < 2048 → s.chip < 1024 → k.sb.length ≤ 64 → sbBytes k ≤ 4096 → a.slot < 4 → a.queue < 4 → a.handler < 64 → k.aborts ≤ 3 →
      k.clrby ≤ 5 → a.cid < 4096 → a.inc < 4096 → a.rank < 65536 →
    fld st 51 39 = sbBytes k ∧ fld st 38 32 = k.sb.length ∧ fld st 23 22 = a.slot ∧ fld st 21 20 = a.queue ∧ fld st 19 14 = a.handler ∧
    fld st 13 12 = k.aborts ∧ fld st 11 8 = k.clrby ∧ bit st 4 = k.pend ∧ bit st 3 = k.pair ∧ bit st 2 = k.inh ∧ bit st 1 = k.trapped ∧
    bit st 0 = k.restart ∧ fld st 63 52 = 0 ∧ fld st 31 24 = 0 ∧ fld st 7 5 = 0 ∧
    fld id 23 14 = s.chip ∧ fld id 13 13 = s.cur / 1024 ∧ fld id 12 3 = s.cur % 1024 ∧ fld id 1 0 = a.slot ∧ fld id 63 24 = 0 ∧
    fld se 39 28 = a.cid ∧ fld se 27 16 = a.inc ∧ fld se 15 0 = a.rank ∧ fld se 63 40 = 0 ∧
    csrCur s 0x000 = wd s.now ∧ csrCur s 0x007 = 0x7040B001

/-! ### Messages, streams, activations and barriers (chapters 7, 10, 20) -/

namespace Sys2Proof.Stated

/-- A buffered effect of n payload bytes that counts m messages (07 R130): with room for it the entry joins the send buffer, the PC passes on and
nothing else of the machine changes but the core's token; without room an automatic flush begins first and the instruction holds its issue
point. -/
def Buffers (i : Instr) (s : State) (eff : Nat → Effect) (n m : Nat) (bad : Bool) : Prop :=
  (cc s).wait = .idle → (cc s).twin = none →
    (sbRoom (cc s) n = true →
      exec i s = .next (setCC s (advance { cc s with
        sb := (cc s).sb ++ [{ eff := eff (cc s).tok, bytes := n, counted := m, tok := (cc s).tok, poison := bad }], tok := (cc s).tok + 1 }))) ∧
    (sbRoom (cc s) n = false → (cc s).sb ≠ [] →
      ∃ t : State, exec i s = .next t ∧ (cc t).wait = .flush ∧ (cc t).flush = some (cc s).sb.length ∧ (cc t).restart = false ∧ (cc t).pc = (cc s).pc ∧
        Untouched s t)

/-- Every word of an LM operand that another member of the gang holds has been brought in over the row channel (09 R173); without a fused window there is
none. -/
def Near (s : State) (a n : Nat) : Prop := ∀ w ∈ wordsOf a n, (lmHome s (8 * w)).1 = s.cur ∨ (mget (cc s).vgot w).isSome = true

/-- What a message's header takes from a send word (20 R329) and from the running activation. -/
def HeaderOf (s : State) (w : Word) (h : MsgHdr) (mkind : Nat) : Prop :=
  h.trank = fld w 47 32 ∧ h.tag = fld w 63 48 ∧ h.handler = fld w 31 26 ∧ h.queue = fld w 25 24 ∧ h.mkind = mkind ∧
  ∀ a, (cc s).act = some a → h.srank = a.rank ∧ h.kernel = a.msg.hdr.kernel ∧ h.job = a.msg.hdr.job ∧ h.prio = a.msg.hdr.prio

/-- The items that the pushes of a send buffer hold for an end, in their order. -/
def pushed (k : Core) (key : EndKey) : List Word :=
  k.sb.flatMap fun e => match e.eff with | .push key' l => if key' = key then l else [] | _ => []

/-- A register holds the address of a handle of an end that the activation holds in one of some states, with every check of 10 R191 passed:
the two words of the handle, and the record. -/
def Held (s : State) (xh : Reg) (states : List Nat) (h0 h1 : Word) (e : EndRec) : Prop :=
  let a := rx (cc s) xh
  (cc s).pair = false ∧ a.toNat % 16 = 0 ∧ spanFault s a 16 false = none ∧ fusedAt s s.cur a.toNat = none ∧ fusedAt s s.cur (a.toNat + 15) = none ∧
  Near s a.toNat 16 ∧ lmBad (cc s) a.toNat 16 = false ∧
  h0 = wd (leNat (rdBytes (cc s).lm a.toNat 8)) ∧ h1 = wd (leNat (rdBytes (cc s).lm (a.toNat + 8) 8)) ∧
  ((cc s).ends.find? fun e => decide (keyOf e = (fld h1 47 36, fld h0 63 32, fld h1 0 0) ∧ e.state ≠ 7 ∧ e.gen = fld h0 7 0)) = some e ∧
  e.ocid = (actOwn (cc s)).1 ∧ e.oinc = (actOwn (cc s)).2 ∧ e.state ∈ states

end Sys2Proof.Stated

/-- R130, R329, R330, R342, R345, R347, R296, R290: the buffered effects with their payload bytes and the messages that they count. A send word with
a reserved bit, or a length above its limit, is ILL. Words of an operand that another member of the gang holds are asked for first, over the row channel
(R139, R173). -/
def Clauses.BufferedEffects : Prop :=
  ∀ (s : State) (xw xa xb : Reg) (n : BitVec 9) (m : BitVec 6) (q : BitVec 2) (w : BitVec 2) (off : BitVec 3) (z : BitVec 2) (o13 : BitVec 13),
    let a := rx (cc s) xa
    let sw := rx (cc s) xw
    let b := rx (cc s) xb
    let rd_ := fun (len : Nat) => spanRead s a.toNat len
    (sendWordOk sw = true → b.toNat ≤ 2048 → spanFault s a b.toNat false = none → ¬ Near s a.toNat b.toNat →
      ∃ t : State, exec (.send xw xa xb) s = .next t ∧ (cc t).sb = (cc s).sb ∧ (cc t).pc = (cc s).pc ∧ (cc t).wait = (cc s).wait ∧ Untouched s t) ∧
    (sendWordOk sw = true → b.toNat ≤ 2048 → spanFault s a b.toNat false = none → Near s a.toNat b.toNat →
      ∃ h, HeaderOf s sw h 0 ∧ Buffers (.send xw xa xb) s (fun _ => .msg h (rd_ b.toNat).1) b.toNat 1 (rd_ b.toNat).2) ∧
    (sendWordOk sw = false ∨ 2048 < b.toNat → exec (.send xw xa xb) s = .next (takeTrap s s.cur 0x20 none)) ∧
    (sendWordOk sw = true → n.toNat ≤ 256 → spanFault s a (8 * n.toNat) false = none → Near s a.toNat (8 * n.toNat) →
      ∃ h, HeaderOf s sw h 3 ∧
        Buffers (.launch xw xb xa n) s (fun _ => .launch h b.toNat (rd_ (8 * n.toNat)).1) (8 * n.toNat)
          ((List.range 64).filter fun i => bit b i).length (rd_ (8 * n.toNat)).2) ∧
    (m.toNat ≤ 32 → fld sw 47 32 = 0 → fld b 63 32 = 0 → spanFault s a (8 * m.toNat) false = none → Near s a.toNat (8 * m.toNat) →
      ∃ h : MsgHdr, h.tag = fld sw 63 48 ∧ (fld sw 31 0 ≠ 0 → h.kernel = fld sw 31 0) ∧ (fld sw 31 0 = 0 → h.kernel = actKernel (cc s)) ∧ h.mkind = 5 ∧
        Buffers (.dspn xw xb xa m) s (fun _ => .dspn h (fld b 31 0) (rd_ (8 * m.toNat)).1) (8 + 8 * m.toNat) 1 (rd_ (8 * m.toNat)).2) ∧
    Buffers (.setev xa q) s (fun _ => .setev q.toNat a false) 8 0 false ∧
    Buffers (.setevClr xa q) s (fun _ => .setev q.toNat a true) 8 0 false ∧
    (a.toNat % wbytes w = 0 → gform a ≠ .bad → Buffers (.rst xa xb w) s (fun _ => .store a.toNat (wbytes w) b false) 8 0 (xbad (cc s) xb)) ∧
    (gform a ≠ .bad → Buffers (.rstn xa xb off z) s (fun _ => .subStore a.toNat off.toNat (2 ^ z.toNat) b) 8 0 (xbad (cc s) xb)) ∧
    (let g := a + sext o13
     bit g 63 = true → g.toNat % 8 = 0 → gform g ≠ .bad → Buffers (.stF xa xb o13) s (fun _ => .store g.toNat 8 b true) 8 0 (xbad (cc s) xb))

/-- R343, R344, R348, R346: KSUB and JCAN enter the buffer and leave their register pending for the answer; ADJREG is not buffered: its request goes
to the dispatcher of the issuing die. -/
def Clauses.AnsweredRequests : Prop :=
  ∀ (s : State) (rd xa xb : Reg),
    let a := rx (cc s) xa
    let b := rx (cc s) xb
    let k := cc s
    let entry := fun (e : Effect) (n : Nat) (bad : Bool) => k.sb ++ [{ eff := e, bytes := n, counted := 0, tok := k.tok, poison := bad }]
    (k.wait = .idle → k.twin = none →
      (fld b 63 1 = 0 → a.toNat % 64 = 0 → spanFault s a 64 false = none → Near s a.toNat 64 → sbRoom k 64 = true →
        ∃ t : State, exec (.ksub rd xa xb) s = .next t ∧ (rd ≠ 0 → (rd.toNat, k.tok) ∈ (cc t).pendx) ∧ Passes s t ∧ Untouched s t ∧ OnlyCore s t ∧
          (cc t).sb = entry (.ksub (leWords 8 (spanRead s a.toNat 64).1) (fld b 0 0) k.tok) 64 (spanRead s a.toNat 64).2) ∧
      (fld a 63 32 = 0 → sbRoom k 0 = true →
        ∃ t : State, exec (.jcan rd xa) s = .next t ∧ (rd ≠ 0 → (rd.toNat, k.tok) ∈ (cc t).pendx) ∧ Passes s t ∧ Untouched s t ∧ OnlyCore s t ∧
          (cc t).sb = entry (.jcan (fld a 31 0) k.tok) 0 false)) ∧
    (a.toNat ≤ 15 → s.cur < 2048 →
      ∃ t : State, exec (.adjreg rd xa xb) s = .next t ∧ (rd ≠ 0 → (rd.toNat, k.tok) ∈ (cc t).pendx) ∧ Passes s t ∧ Untouched s t ∧ (cc t).sb = k.sb ∧
        chanQ t (niOf s s.cur) (dispOf s (dieOf s.cur)) 0 = chanQ s (niOf s s.cur) (dispOf s (dieOf s.cur)) 0 ++
          [{ src := niOf s s.cur, dst := dispOf s (dieOf s.cur), cls := 0, op := 0x21, cid := (actOwn k).1, inc := (actOwn k).2, len := 2,
             body := .adjreg a.toNat b.toNat k.tok }]) ∧
    (15 < a.toNat → Gives (.adjreg rd xa xb) s rd 0x66)

/-- R331: SENDNZ sends one item for each element of the run that is not zero, its number above its value, in ascending order; with FLT an element is
zero when all of its bits but the sign are. The stream form pushes the same items to its end. -/
def Obligations.SendNonZero : Prop :=
  ∀ (s : State) (xw xa xn : Reg) (es : BitVec 2) (flt : BitVec 1) (sn : BitVec 4) (e : EndRec),
    let a := rx (cc s) xa
    let c := (rx (cc s) xn).toNat
    let z := 2 ^ es.toNat
    let elem := fun (i : Nat) => leNat (((spanRead s a.toNat (c * z)).1.drop (i * z)).take z)
    let zero := fun (i : Nat) => if flt = 1 then elem i % 2 ^ (8 * z - 1) = 0 else elem i = 0
    let items := ((List.range c).filter fun i => ¬ zero i).map fun i => wd (i * 2 ^ 32 + elem i)
    (c ≤ 256 → sendWordOk (rx (cc s) xw) = true → a.toNat % z = 0 → spanFault s a (c * z) false = none → Near s a.toNat (c * z) →
      ∃ h, HeaderOf s (rx (cc s) xw) h 1 ∧
        Buffers (.sendnz xw xa xn es flt) s (fun _ => .msg h (wordsBytes items)) (8 * items.length) 1 (spanRead s a.toNat (c * z)).2) ∧
    (c ≤ 65535 → (cc s).pair = false → a.toNat % z = 0 → spanFault s a (c * z) false = none → Near s a.toNat (c * z) → boundEnd (cc s) sn.toNat 0 [1] = some e →
      (cc s).wait = .idle → (cc s).scan = 0 → (cc s).flush = none → (cc s).sb = [] → items.length ≤ 32 * 14 →
      ∃ t : State, exec (.sendnzStream sn xa xn es flt) s = .next t ∧ pushed (cc t) (keyOf e) = items ∧ Passes s t ∧ Untouched s t ∧ OnlyCore s t)

/-- R193, R194: a push to a stream register joins the items that the send buffer holds for its end, after them; a pop gives the item at POPSEQ and advances
POPSEQ, waits where that item is not there, and gives 0 once the end has ended. Where the spec leaves a point of this open the model chose: log 1. -/
def Obligations.StreamRegisters : Prop :=
  ∀ (s : State) (rd ra : Reg) (n : BitVec 4) (e : EndRec),
    (boundEnd (cc s) n.toNat 0 [1, 6] = some e → (cc s).pair = false → (cc s).wait = .idle → (cc s).twin = none → (cc s).flush = none →
      sbRoom (cc s) 8 = true →
      ∃ t : State, exec (.streamPush n ra) s = .next t ∧ pushed (cc t) (keyOf e) = pushed (cc s) (keyOf e) ++ [rx (cc s) ra] ∧ Passes s t ∧ Untouched s t ∧
        OnlyCore s t) ∧
    (boundEnd (cc s) n.toNat 1 [1, 4] = some e → (cc s).pair = false → e.popSeq ≠ e.wrSeq → lmBad (cc s) (ringAt e e.popSeq) 8 = false →
      ∃ t : State, exec (.streamPop rd n) s = .next t ∧ rx (cc t) rd = (if rd = 0 then 0 else wd (rdLE (cc s).lm (ringAt e e.popSeq) 8)) ∧
        (∀ r, r ≠ rd → rx (cc t) r = rx (cc s) r) ∧ (∀ x ∈ (cc t).ends, keyOf x = keyOf e → x.state ≠ 7 →
          ∃ y ∈ (cc s).ends, x = { y with popSeq := (y.popSeq + 1) % 2 ^ 32 }) ∧ Passes s t ∧ OnlyCore s t ∧ (cc t).lm = (cc s).lm) ∧
    (boundEnd (cc s) n.toNat 1 [1, 4] = some e → (cc s).pair = false → e.popSeq = e.wrSeq → e.state = 4 → Gives (.streamPop rd n) s rd 0) ∧
    (boundEnd (cc s) n.toNat 1 [1, 4] = some e → (cc s).pair = false → e.popSeq = e.wrSeq → e.state ≠ 4 → exec (.streamPop rd n) s = .next s) ∧
    (boundEnd (cc s) n.toNat 1 [1, 4] = none → (cc s).pair = false → exec (.streamPop rd n) s = .next (takeTrap s s.cur 0x28 none)) ∧
    (boundEnd (cc s) n.toNat 0 [1, 6] = none → (cc s).pair = false → exec (.streamPush n ra) s = .next (takeTrap s s.cur 0x28 none))

/-- R332 to R337, R191, R192: the stream instructions on an end that the activation holds. STRNEW makes both records and writes their handles into
FRAME; STRBIND binds, STRUNB unbinds; STREOS and SENDH buffer their effect, with the record PENDING until it leaves, and SENDH removes the
binding; STRSTAT gives the status word. -/
def Clauses.StreamInstructions : Prop :=
  ∀ (s : State) (rd xh xw : Reg) (h0 h1 : Word) (e : EndRec),
    let w := rx (cc s) xw
    let k := cc s
    (Held s xh [1, 2, 3, 4, 5, 6] h0 h1 e → Gives (.strstat rd xh) s rd (strstatWord e)) ∧
    (Held s xh (if e.kind = 0 then [1, 6] else [1, 3, 4]) h0 h1 e →
      ∃ t : State, exec (.strunb rd xh) s = .next t ∧ rx (cc t) rd = 0 ∧ (∀ r, r ≠ rd → rx (cc t) r = rx k r) ∧ (∀ b ∈ (cc t).sbind.toList, b ≠ some (keyOf e)) ∧
        (cc t).vqbind ≠ some (keyOf e) ∧ (cc t).ends = k.ends ∧ (cc t).sb = k.sb ∧ Passes s t ∧ OnlyCore s t) ∧
    (Held s xh (if e.kind = 0 then [1, 6] else [1, 4]) h0 h1 e → fld w 23 19 < 16 → fld w 28 24 = 0 →
      ∃ t : State, exec (.strbind rd xh xw) s = .next t ∧ rx (cc t) rd = 0 ∧ (∀ r, r ≠ rd → rx (cc t) r = rx k r) ∧
        (∀ i, i < 16 → ((cc t).sbind.toList.getD i none = some (keyOf e) ↔ i = fld w 23 19)) ∧ (cc t).ends = k.ends ∧ Passes s t ∧ OnlyCore s t) ∧
    (Held s xh (if e.kind = 0 then [1] else [1, 3]) h0 h1 e → fld w 63 16 = 0 → k.wait = .idle → sbRoom k 0 = true →
      ∃ t : State, exec (.streos rd xh xw) s = .next t ∧ rx (cc t) rd = 0 ∧ (∀ r, r ≠ rd → rx (cc t) r = rx k r) ∧
        ((cc t).sb.getLast?.map (·.eff)) = some (.streos (keyOf e) (fld w 15 0)) ∧ (cc t).ends = (pendEnd (keyOf e) k).ends ∧ (cc t).sbind = k.sbind ∧
        Passes s t ∧ OnlyCore s t) ∧
    (Held s xh (if e.kind = 0 then [1] else [1, 3]) h0 h1 e → sendWordOk w = true → e.fwd ≠ 4 → k.wait = .idle → sbRoom k 16 = true →
      ∃ t h, exec (.sendh rd xw xh) s = .next t ∧ rx (cc t) rd = 0 ∧ (∀ r, r ≠ rd → rx (cc t) r = rx k r) ∧ HeaderOf s w h 2 ∧
        ((cc t).sb.getLast?.map (·.eff)) = some (.handle h h0 h1 (keyOf e)) ∧ (cc t).ends = (pendEnd (keyOf e) k).ends ∧
        (∀ b ∈ (cc t).sbind.toList, b ≠ some (keyOf e)) ∧ Passes s t ∧ OnlyCore s t) ∧
    (Held s xh (if e.kind = 0 then [1] else [1, 3]) h0 h1 e → sendWordOk w = true → e.fwd = 4 → Gives (.sendh rd xw xh) s rd 1)

/-- R187, R188, R333: STRNEW makes the two ends of a new stream, both OPEN and held by the calling slot, takes the context's next stream number for
them, and writes the producer's and the consumer's handle. -/
def Clauses.NewStream : Prop :=
  ∀ (s : State) (rd xs xb : Reg) (a : Act),
    let w := rx (cc s) xs
    let b := rx (cc s) xb
    let t0 := slotOf (cc s) (curSlot (cc s))
    let sid := (ctxOf s a.cid).sidNext
    (cc s).act = some a → (cc s).pair = false → b.toNat % 16 = 0 → frameFault (cc s) b 32 = none → fld w 28 19 = 0 → fld w 39 29 ≠ 0 →
      fld w 18 0 % 8 = 0 → ringInP t0 (fld w 18 0) (fld w 39 29 * 256) = true → sid < 2 ^ 32 → 2 ≤ freeRecs (cc s) → Memory.wf (cc s).lm = true →
    ∃ t p c, exec (.strnew rd xs xb) s = .next t ∧ rx (cc t) rd = 0 ∧ (∀ r, r ≠ rd → rx (cc t) r = rx (cc s) r) ∧
      (cc t).ends = (cc s).ends ++ [p, c] ∧ p.kind = 0 ∧ c.kind = 1 ∧
      (∀ x ∈ [p, c], x.state = 1 ∧ x.sid = sid ∧ x.scid = a.cid ∧ x.slot = a.slot ∧ x.ocid = a.cid ∧ x.oinc = a.inc ∧ x.peerRank = a.rank ∧
        x.res = (a.cid, a.rank) ∧ x.gen = 0 ∧ x.rsize = fld w 39 29) ∧
      c.rbase = fld w 18 0 ∧ c.tag = fld w 63 48 ∧ c.ehnd = fld w 47 42 ∧ c.eq = fld w 41 40 ∧ (ctxOf t a.cid).sidNext = sid + 1 ∧
      rdBytes (cc t).lm b.toNat 32 = wordsBytes [(handleWords p a.rank).1, (handleWords p a.rank).2, (handleWords c a.rank).1, (handleWords c a.rank).2] ∧
      Passes s t

/-- R133, R338, R339: EXIT with nothing to flush ends the activation and reports it to its kernel; EXIT.S runs the successor on the same core at
once, at the handler that its word names, with the payload, the tag and the tiles of the word, the frame as it is and the watchdog's count
going on. -/
def Obligations.Exits : Prop :=
  ∀ (s : State) (xw xp : Reg) (a : Act),
    let w := rx (cc s) xw
    let p := rx (cc s) xp
    let h := handlerOf (slotOf (cc s) a.slot) (fld w 47 42)
    (cc s).act = some a → (cc s).wait = .idle → (cc s).twin = none → headWaits (cc s) = false → (cc s).sb = [] → (cc s).settings = [] → (cc s).ends = [] →
    (∃ t : State, exec .exit s = .next t ∧ (cc t).act = none ∧ (cc t).sb = [] ∧ (cc t).fifo = [] ∧ (cc t).loops = [] ∧ (cc t).lm = (cc s).lm ∧ t.mem = s.mem ∧
      (a.msg.hdr.kernel ≠ 0 → ⟨a.msg.hdr.kernel, -1, none⟩ ∈ t.reports)) ∧
    (fld w 33 12 = 0 → fld w 11 0 ≤ 2048 → (fld w 41 34 ≠ 0 → isCompute s.cur = true) → frameFault (cc s) p (fld w 11 0) = none →
      (cc s).run = [] → (cc s).sealed_ = false → (isCompute s.cur = true → (rowState s (rowOf s.cur)).powered = true ∧
        (rowState s (rowOf s.cur)).fenced = false ∧ (rowState s (rowOf s.cur)).testing = false) →
      s.boot.state ≠ 2 → s.boot.state ≠ 3 → handlerV h = true → incAt s (niOf s s.cur) a.cid = some a.inc → (∀ j ∈ (cc s).cancel, j.1 ≠ a.msg.hdr.job) →
      ∃ t b, exec (.exitS xw xp) s = .next t ∧ (cc t).act = some b ∧ b.handler = fld w 47 42 ∧ b.slot = a.slot ∧ b.cid = a.cid ∧ b.inc = a.inc ∧
        (cc t).pc = handlerPc h ∧ (cc t).inh = true ∧ (cc t).restart = true ∧ rx (cc t) 1 = p ∧ rx (cc t) 2 = wd (fld w 11 0) ∧
        rx (cc t) 3 = wd (fld w 63 48) ∧ rx (cc t) 5 = wd a.rank ∧ (cc t).wdog = (cc s).wdog ∧ (cc t).lm = (cc s).lm ∧
        (∀ i, i < 8 → tileOf (cc t) i = if fld w 41 34 / 2 ^ i % 2 = 1 then tileOf (cc s) i else {}))

/-- R142, R143, R144, R340, R341: a present member's arrival is made after the flush and returns the phase at which it counts; BAR and CREWBAR wait until the
member's arrival is in no set any more; BAR.T gives how many phases have passed, and 0 where the core records no gang. Anyone else takes ILL. Where the spec
leaves a point of this open the model chose: log 1. -/
def Obligations.Barriers : Prop :=
  ∀ (s : State) (rd xp : Reg) (g : Gang) (crew : Bool) (p : Nat),
    let arr := if crew then Instr.crewbarA rd else .barA rd
    let bar := if crew then Instr.crewbar rd else .bar rd
    let tst := if crew then Instr.crewbarT rd xp else .barT rd xp
    (presentIn s crew = some g → (cc s).wait = .idle → (cc s).twin = none → (cc s).sb = [] → (cc s).settings = [] → (cc s).ends = [] →
      (∃ t : State, exec arr s = .next t ∧ rx (cc t) rd = (if rd = 0 then 0 else wd (arrivalPhase g s.cur)) ∧ (∀ r, r ≠ rd → rx (cc t) r = rx (cc s) r) ∧
        (∃ x ∈ t.gangs, x.gid = g.gid ∧ s.cur ∈ x.again) ∧ Passes s t) ∧
      (∃ t : State, exec bar s = .next t ∧ (cc t).wait = .barrier (arrivalPhase g s.cur) ∧ (∃ x ∈ t.gangs, x.gid = g.gid ∧ s.cur ∈ x.again) ∧
        (cc t).pc = (cc s).pc ∧ Untouched s t)) ∧
    ((cc s).wait = .barrier p → presentIn s crew = some g → s.cur ∉ g.arrived → s.cur ∉ g.again →
      ∃ t : State, exec bar s = .next t ∧ rx (cc t) rd = (if rd = 0 then 0 else wd p) ∧ (∀ r, r ≠ rd → rx (cc t) r = rx (cc s) r) ∧ (cc t).wait = .idle ∧ Passes s t) ∧
    ((cc s).wait = .barrier p → presentIn s crew = some g → (s.cur ∈ g.arrived ∨ s.cur ∈ g.again) → exec bar s = .next s) ∧
    ((cc s).wait = .idle → presentIn s crew = none → exec bar s = .next (takeTrap s s.cur 0x20 none) ∧ exec arr s = .next (takeTrap s s.cur 0x20 none)) ∧
    (∀ gid, (if crew then (cc s).crewRec else (cc s).gangRec) = some gid → s.gangs.find? (fun x => decide (x.gid = gid)) = some g → g.ph < 2 ^ 16 →
      Gives tst s rd (wd (g.ph + 2 ^ 16 - fld (rx (cc s) xp) 15 0) &&& 0xFFFF) ∧
      (crew = false → Gives (.barTP rd xp) s rd (if g.ph % 2 = fld (rx (cc s) xp) 0 0 then 0 else 1))) ∧
    ((if crew then (cc s).crewRec else (cc s).gangRec) = none → Gives tst s rd 0)

/-! ### Vector and mask instructions (chapter 18) -/

namespace Sys2Proof.Stated

/-- Element j of a register whose elements have w bits (12 R222). -/
def el (v : VWord) (w j : Nat) : Nat := v.toNat / 2 ^ (w * j) % 2 ^ w

/-- A vector instruction issues: its types are admitted and their descriptors set (18 R307), it names no register of the loop bank while that is
closed to it (07 R141), and no iteration of a standing loop is in progress (18 R324). -/
def Issues (s : State) (i : Instr) : Prop :=
  vtypeOk (envOf (cc s)) i = true ∧ (bankClosed (cc s) && namesBank i) = false ∧ ∀ l, (cc s).loop = some l → l.mid = none

/-- RMODE is sampled once: in SR its STEP advances by one, and nothing else of it changes (18 R308, 11 R215). -/
def Samples (s t : State) : Prop :=
  (cc t).rmode = if fld (cc s).rmode 2 0 = 5 then setFld (cc s).rmode 31 16 ((fld (cc s).rmode 31 16 + 1) % 2 ^ 16) else (cc s).rmode

/-- Only v[vd], with its poison gone, RMODE's STEP, the PC and the loop stack of the current core change, and what was gathered for the instruction is
given up. -/
def OnlyV (s t : State) (vd : Reg) : Prop :=
  OnlyCore s t ∧
  cc t = { cc s with v := (cc t).v, badRegs := (cc t).badRegs, rmode := (cc t).rmode, pc := (cc t).pc, loops := (cc t).loops, vgot := [], vpos := 0 } ∧
  (∀ r, r ≠ vd → rv (cc t) r = rv (cc s) r) ∧ (∀ n, n ∈ (cc t).badRegs ↔ n ∈ (cc s).badRegs ∧ n ≠ 64 + vd.toNat) ∧ Samples s t ∧ Passes s t

/-- Only k[kd], with its poison gone, the PC and the loop stack of the current core change, and RMODE's STEP where the instruction samples. -/
def OnlyK (s t : State) (kd : BitVec 3) : Prop :=
  OnlyCore s t ∧
  cc t = { cc s with k := (cc t).k, badRegs := (cc t).badRegs, rmode := (cc t).rmode, pc := (cc t).pc, loops := (cc t).loops, vgot := [], vpos := 0 } ∧
  (∀ r, r ≠ kd → rk (cc t) r = rk (cc s) r) ∧ (∀ n, n ∈ (cc t).badRegs ↔ n ∈ (cc s).badRegs ∧ n ≠ 128 + kd.toNat) ∧ Passes s t

/-- The instruction answers a next state in which element j of v[vd] is f j at the element type where it is active and what it was where it is not,
and nothing else has changed. -/
def Elements (i : Instr) (s : State) (vd : Reg) (ty : BitVec 4) (m : BitVec 3) (f : ETy → Nat → Nat) : Prop :=
  ∀ e, Issues s i → etype (envOf (cc s)) ty = some e →
    ∃ t : State, exec i s = .next t ∧ OnlyV s t vd ∧
      ∀ j, j < 1024 / e.w → el (rv (cc t) vd) e.w j = if active (cc s) m e.w j then f e j % 2 ^ e.w else el (rv (cc s) vd) e.w j

/-- The instruction answers a next state in which x[rd] holds v, RMODE has been sampled, and nothing else has changed. -/
def Scalar (i : Instr) (s : State) (rd : Reg) (v : Word) : Prop :=
  ∃ t : State, exec i s = .next t ∧ rx (cc t) rd = (if rd = 0 then 0 else v) ∧ (∀ r, r ≠ rd → rx (cc t) r = rx (cc s) r) ∧ OnlyCore s t ∧
    cc t = { cc s with x := (cc t).x, badRegs := (cc t).badRegs, rmode := (cc t).rmode, pc := (cc t).pc, loops := (cc t).loops, vgot := [], vpos := 0 } ∧
    (∀ n, n ∈ (cc t).badRegs ↔ n ∈ (cc s).badRegs ∧ ¬ (rd ≠ 0 ∧ n = rd.toNat)) ∧ Samples s t ∧ Passes s t

/-- The comparison writes k[kd]: every bit of an element's byte lanes is the element's result, and clear where it is not active (18 R315). -/
def Compares (i : Instr) (s : State) (kd : BitVec 3) (ty : BitVec 4) (m : BitVec 3) (p : ETy → Nat → Prop) : Prop :=
  ∀ e, Issues s i → etype (envOf (cc s)) ty = some e →
    ∃ t : State, exec i s = .next t ∧ OnlyK s t kd ∧ Samples s t ∧
      ∀ b, b < 128 → ((rk (cc t) kd).getLsbD b = true ↔ active (cc s) m e.w (8 * b / e.w) = true ∧ p e (8 * b / e.w))

end Sys2Proof.Stated

/-- R307, R234, R141: a type that the instruction does not allow, or one whose descriptor is UNSET, is ILL; past that check, naming v16 to v31 or k4
to k7 while a loop stands is PRIV. -/
def Clauses.VectorRefusals : Prop :=
  ∀ (s : State) (i : Instr),
    (vtypeOk (envOf (cc s)) i = false → exec i s = .next (takeTrap s s.cur 0x20 none)) ∧
    (vtypeOk (envOf (cc s)) i = true → namesBank i = true → (∃ l, (cc s).loop = some l ∧ l.phase = 1) → exec i s = .next (takeTrap s s.cur 0x27 none))

/-- R313: element by element, integers modulo 2^we and floating elements as the exact result rounded once in the sampled mode of their lane. -/
def Obligations.VectorArithmetic : Prop :=
  ∀ (s : State) (vd va vb : Reg) (ty : BitVec 4) (m : BitVec 3),
    let A := fun (e : ETy) (j : Nat) => el (rv (cc s) va) e.w j
    let B := fun (e : ETy) (j : Nat) => el (rv (cc s) vb) e.w j
    let D := fun (e : ETy) (j : Nat) => el (rv (cc s) vd) e.w j
    let r := laneRm (envOf (cc s))
    let F := fun (e : ETy) (j c : Nat) => fin e.f (r j).fz c
    let I := fun (e : ETy) (c : Nat) => if e.f.s then signedN e.w c else (c : Int)
    (ty.toNat < 8 →
      Elements (.vadd vd va vb ty m) s vd ty m (fun e j => A e j + B e j) ∧
      Elements (.vsub vd va vb ty m) s vd ty m (fun e j => wrapN e.w ((A e j : Int) - B e j)) ∧
      Elements (.vmul vd va vb ty m) s vd ty m (fun e j => A e j * B e j) ∧
      Elements (.vfma vd va vb ty m) s vd ty m (fun e j => D e j + A e j * B e j) ∧
      Elements (.vmin vd va vb ty m) s vd ty m (fun e j => wrapN e.w (min (I e (A e j)) (I e (B e j)))) ∧
      Elements (.vmax vd va vb ty m) s vd ty m (fun e j => wrapN e.w (max (I e (A e j)) (I e (B e j)))) ∧
      Elements (.vabs vd va ty m) s vd ty m (fun e j => (I e (A e j)).natAbs) ∧
      Elements (.vneg vd va ty m) s vd ty m (fun e j => wrapN e.w (-(A e j : Int)))) ∧
    (8 ≤ ty.toNat →
      Elements (.vadd vd va vb ty m) s vd ty m (fun e j => roundTo e.f (r j) (fadd (F e j (A e j)) (F e j (B e j)))) ∧
      Elements (.vsub vd va vb ty m) s vd ty m (fun e j => roundTo e.f (r j) (fadd (F e j (A e j)) (fneg (F e j (B e j))))) ∧
      Elements (.vmul vd va vb ty m) s vd ty m (fun e j => roundTo e.f (r j) (fmul (F e j (A e j)) (F e j (B e j)))) ∧
      Elements (.vfma vd va vb ty m) s vd ty m
        (fun e j => roundTo e.f (r j) (fadd (fmul (F e j (A e j)) (F e j (B e j))) (F e j (D e j)))) ∧
      Elements (.vmin vd va vb ty m) s vd ty m (fun e j => fminmax e.f (r j).fz false (A e j) (B e j)) ∧
      Elements (.vmax vd va vb ty m) s vd ty m (fun e j => fminmax e.f (r j).fz true (A e j) (B e j)) ∧
      Elements (.vabs vd va ty m) s vd ty m (fun e j => if (fval e.f (A e j)).isNan then nanCode e.f else A e j % 2 ^ (e.w - 1)) ∧
      Elements (.vneg vd va ty m) s vd ty m (fun e j => if (fval e.f (A e j)).isNan then nanCode e.f else A e j ^^^ 2 ^ (e.w - 1)))

/-- R314, R316 (VPOPC), R319 to R321: logic and shifts, whose count is the low bits of the element; population counts; the carry-less products; and
EXP2, reciprocal and reciprocal square root of f32 elements. -/
def Clauses.VectorLogicAndFunctions : Prop :=
  ∀ (s : State) (vd va vb : Reg) (ty : BitVec 4) (m : BitVec 3),
    let A := fun (e : ETy) (j : Nat) => el (rv (cc s) va) e.w j
    let B := fun (e : ETy) (j : Nat) => el (rv (cc s) vb) e.w j
    let fz := (laneRm (envOf (cc s)) 0).fz
    Elements (.vand vd va vb ty m) s vd ty m (fun e j => A e j &&& B e j) ∧
    Elements (.vor vd va vb ty m) s vd ty m (fun e j => A e j ||| B e j) ∧
    Elements (.vxor vd va vb ty m) s vd ty m (fun e j => A e j ^^^ B e j) ∧
    Elements (.vshl vd va vb ty m) s vd ty m (fun e j => A e j * 2 ^ (B e j % e.w)) ∧
    Elements (.vshr vd va vb ty m) s vd ty m (fun e j => A e j / 2 ^ (B e j % e.w)) ∧
    Elements (.vsra vd va vb ty m) s vd ty m (fun e j => wrapN e.w (signedN e.w (A e j) / 2 ^ (B e j % e.w))) ∧
    Elements (.vpopc vd va ty m) s vd ty m (fun e j => ((List.range e.w).filter fun b => A e j / 2 ^ b % 2 = 1).length) ∧
    Elements (.vclmul vd va vb ty m) s vd ty m (fun e j => clmulN 64 (A e j) (B e j) % 2 ^ 64) ∧
    Elements (.vclmulh vd va vb ty m) s vd ty m (fun e j => clmulN 64 (A e j) (B e j) / 2 ^ 64) ∧
    Elements (.vexp2 vd va m) s vd 8 m (fun e j => exp2 (A e j)) ∧
    Elements (.vrcp vd va m) s vd 8 m (fun e j => recip fz (A e j)) ∧
    Elements (.vrsq vd va m) s vd 8 m (fun e j => rsqrt fz (A e j))

/-- R315, R322: the comparisons, signed or unsigned by the type and IEEE on floating elements, and the mask logic on all 128 bits, which samples
nothing. -/
def Clauses.VectorComparesAndMasks : Prop :=
  ∀ (s : State) (kd ka kb : BitVec 3) (va vb : Reg) (ty : BitVec 4) (m : BitVec 3),
    let A := fun (e : ETy) (j : Nat) => el (rv (cc s) va) e.w j
    let B := fun (e : ETy) (j : Nat) => el (rv (cc s) vb) e.w j
    let I := fun (e : ETy) (c : Nat) => if e.f.s then signedN e.w c else (c : Int)
    let X := fun (e : ETy) (j c : Nat) => fin e.f (laneRm (envOf (cc s)) j).fz c
    let un := fun (e : ETy) (j : Nat) => (X e j (A e j)).isNan || (X e j (B e j)).isNan
    let order := fun (e : ETy) (j : Nat) => fcmp (X e j (A e j)) (X e j (B e j))
    (ty.toNat < 8 →
      Compares (.vcmpEq kd va vb ty m) s kd ty m (fun e j => I e (A e j) = I e (B e j)) ∧
      Compares (.vcmpNe kd va vb ty m) s kd ty m (fun e j => I e (A e j) ≠ I e (B e j)) ∧
      Compares (.vcmpLt kd va vb ty m) s kd ty m (fun e j => I e (A e j) < I e (B e j)) ∧
      Compares (.vcmpLe kd va vb ty m) s kd ty m (fun e j => I e (A e j) ≤ I e (B e j)) ∧
      Compares (.vcmpGt kd va vb ty m) s kd ty m (fun e j => I e (B e j) < I e (A e j)) ∧
      Compares (.vcmpGe kd va vb ty m) s kd ty m (fun e j => I e (B e j) ≤ I e (A e j))) ∧
    (8 ≤ ty.toNat →
      Compares (.vcmpEq kd va vb ty m) s kd ty m (fun e j => un e j = false ∧ order e j = 0) ∧
      Compares (.vcmpNe kd va vb ty m) s kd ty m (fun e j => un e j = true ∨ order e j ≠ 0) ∧
      Compares (.vcmpLt kd va vb ty m) s kd ty m (fun e j => un e j = false ∧ order e j < 0) ∧
      Compares (.vcmpLe kd va vb ty m) s kd ty m (fun e j => un e j = false ∧ order e j ≤ 0) ∧
      Compares (.vcmpGt kd va vb ty m) s kd ty m (fun e j => un e j = false ∧ 0 < order e j) ∧
      Compares (.vcmpGe kd va vb ty m) s kd ty m (fun e j => un e j = false ∧ 0 ≤ order e j) ∧
      Compares (.vcmpUn kd va vb ty m) s kd ty m (fun e j => un e j = true)) ∧
    (Issues s (.kand kd ka kb) →
      ∃ t : State, exec (.kand kd ka kb) s = .next t ∧ rk (cc t) kd = rk (cc s) ka &&& rk (cc s) kb ∧ OnlyK s t kd ∧ (cc t).rmode = (cc s).rmode) ∧
    (Issues s (.kor kd ka kb) →
      ∃ t : State, exec (.kor kd ka kb) s = .next t ∧ rk (cc t) kd = rk (cc s) ka ||| rk (cc s) kb ∧ OnlyK s t kd ∧ (cc t).rmode = (cc s).rmode) ∧
    (Issues s (.knot kd ka) →
      ∃ t : State, exec (.knot kd ka) s = .next t ∧ rk (cc t) kd = ~~~rk (cc s) ka ∧ OnlyK s t kd ∧ (cc t).rmode = (cc s).rmode)

namespace Sys2Proof.Stated

/-- The tree of VRED over elements [a, a + 2^n) at the node of heap number h: an absent half leaves the other's value (18 R318). -/
def tree (op : Nat → Nat → Nat → Nat) (x : Nat → Option Nat) : Nat → Nat → Nat → Option Nat
  | 0, a, _ => x a
  | n + 1, a, h =>
    match tree op x n a (2 * h), tree op x n (a + 2 ^ n) (2 * h + 1) with
    | some p, some q => some (op h p q)
    | some p, none => some p
    | none, q => q

/-- An element in a scalar register: sign-extended for the signed types (18 R316, R318). -/
def widened (ty : BitVec 4) (e : ETy) (c : Nat) : Word := if ty.toNat < 4 then wdI (signedN e.w c) else wd c

end Sys2Proof.Stated

/-- R316 to R318: the moves; conversion of the first 1,024 / max(ws, wd) elements, rounded in the destination format; and reduction over the fixed
tree, with the operator's identity where no element is active. -/
def Clauses.VectorMovesAndReductions : Prop :=
  ∀ (s : State) (vd va vb rd xa xi : Reg) (ty src : BitVec 4) (m : BitVec 3) (e : ETy),
    let A := fun (j : Nat) => el (rv (cc s) va) e.w j
    let B := fun (j : Nat) => el (rv (cc s) vb) e.w j
    let n := 1024 / e.w
    let rm := laneRm (envOf (cc s))
    let reduces := fun (op : BitVec 5) (f : Nat → Nat → Nat → Nat) (unit : Nat) =>
      Issues s (.vred rd va op ty m) →
        Scalar (.vred rd va op ty m) s rd
          (widened ty e ((tree f (fun j => if active (cc s) m e.w j then some (A j) else none) (Nat.log2 n) 0 1).getD unit))
    etype (envOf (cc s)) ty = some e →
    (Issues s (.vsel vd va vb ty m) →
      ∃ t : State, exec (.vsel vd va vb ty m) s = .next t ∧ OnlyV s t vd ∧
        ∀ j, j < n → el (rv (cc t) vd) e.w j = if active (cc s) m e.w j then A j else B j) ∧
    Elements (.vbcst vd xa ty m) s vd ty m (fun _ _ => (rx (cc s) xa).toNat) ∧
    Elements (.vperm vd va vb ty m) s vd ty m (fun _ j => A (B j % n)) ∧
    (Issues s (.vext rd va xi ty) → Scalar (.vext rd va xi ty) s rd (widened ty e (A ((rx (cc s) xi).toNat % n)))) ∧
    (Issues s (.vins vd xa xi ty) →
      ∃ t : State, exec (.vins vd xa xi ty) s = .next t ∧ OnlyV s t vd ∧
        ∀ j, j < n → el (rv (cc t) vd) e.w j = if j = (rx (cc s) xi).toNat % n then (rx (cc s) xa).toNat % 2 ^ e.w else el (rv (cc s) vd) e.w j) ∧
    (∀ d, cvtDst (envOf (cc s)) src = some d → Issues s (.vcvt vd va ty src m) →
      ∃ t : State, exec (.vcvt vd va ty src m) s = .next t ∧ OnlyV s t vd ∧
        ∀ j, j < 1024 / d.w → el (rv (cc t) vd) d.w j =
          if j < 1024 / max e.w d.w ∧ active (cc s) m d.w j = true then roundTo d.f (rm j) (fin e.f (rm j).fz (A j % 2 ^ e.f.width)) % 2 ^ d.w
          else el (rv (cc s) vd) d.w j) ∧
    (ty.toNat < 8 →
      reduces 0 (fun _ p q => (p + q) % 2 ^ e.w) 0 ∧
      reduces 1 (fun h p q => minmaxE false e (rm h) p q) (if ty.toNat < 4 then 2 ^ (e.w - 1) - 1 else 2 ^ e.w - 1) ∧
      reduces 2 (fun h p q => minmaxE true e (rm h) p q) (if ty.toNat < 4 then 2 ^ (e.w - 1) else 0) ∧
      reduces 3 (fun _ p q => p &&& q) (2 ^ e.w - 1) ∧
      reduces 4 (fun _ p q => p ||| q) 0 ∧
      reduces 5 (fun _ p q => p ^^^ q) 0) ∧
    (8 ≤ ty.toNat →
      reduces 0 (fun h p q => roundTo e.f (rm h) (fadd (fin e.f (rm h).fz p) (fin e.f (rm h).fz q))) 0 ∧
      reduces 1 (fun h p q => fminmax e.f (rm h).fz false p q) (infCode e.f false) ∧
      reduces 2 (fun h p q => fminmax e.f (rm h).fz true p q) (infCode e.f true))

namespace Sys2Proof.Stated

/-- Whether the access of n bytes at place j of a memory form is active: bit j·n of the mask, or every bit for k0 (12 R222). -/
def lane (s : State) (m : BitVec 3) (n j : Nat) : Bool := decide (m = 0) || (rk (cc s) m).getLsbD (n * j)

/-- Every active access of n bytes, at place j of the address at_ j, passes the checks of R309 outside a fused window. -/
def Reaches (s : State) (m : BitVec 3) (n : Nat) (at_ : Nat → Int) (wr : Bool) : Prop :=
  ∀ j, j < 128 / n → lane s m n j = true →
    0 ≤ at_ j ∧ at_ j < 2 ^ 19 ∧ fusedAt s s.cur (at_ j).toNat = none ∧ accessFault s s.cur (curSlot (cc s)) (at_ j).toNat n wr = none

/-- The state in which the word w of LM has been read for the instruction, behind the error injector (04 R74, 09 R177). -/
def wordRead (s : State) (w : Nat) : State :=
  let u := struck s s.cur (8 * w) 8
  setCC u { cc u with vgot := mput (cc u).vgot w (wd (rdLE (cc u).lm (8 * w) 8), lmBad (cc u) (8 * w) 8) }

/-- A vector load of accesses of n bytes, one 8-byte word of LM to a step (09 R177): a step reads the word of the first active access whose word has not
been read; while another one is missing the instruction stays, and else it seals the core for a poisoned word or gives the active elements their
bytes out of the words read. -/
def VLoads (i : Instr) (s : State) (v : Reg) (m : BitVec 3) (n : Nat) (at_ : Nat → Int) : Prop :=
  let word := fun (j : Nat) => (at_ j).toNat / 8
  let on := fun (j : Nat) => j < 128 / n ∧ lane s m n j = true
  let missing := fun (u : State) (j : Nat) => on j ∧ mget (cc u).vgot (word j) = none
  let got := fun (u : State) (j : Nat) => mgetD (cc u).vgot (word j) (0, false)
  Issues s i → Reaches s m n at_ false → (∀ j, on j → rowAsked (cc s) (word j) = false) →
    ∀ u : State, ((∀ j, ¬ missing s j) ∧ u = s ∨ ∃ j, missing s j ∧ (∀ j', j' < j → ¬ missing s j') ∧ u = wordRead s (word j)) →
      ((∃ j, missing u j) → exec i s = .next u) ∧
      ((∀ j, ¬ missing u j) → (∃ j, on j ∧ (got u j).2 = true) → exec i s = .next (sealCore u s.cur)) ∧
      ((∀ j, ¬ missing u j) → (∀ j, on j → (got u j).2 = false) →
        ∃ t : State, exec i s = .next t ∧ OnlyV u t v ∧
          ∀ j, j < 128 / n → el (rv (cc t) v) (8 * n) j =
            if lane s m n j then (got u j).1.toNat / 256 ^ ((at_ j).toNat % 8) % 256 ^ n else el (rv (cc s) v) (8 * n) j)

/-- The units that a vector store of accesses of n bytes writes, in ascending order of its elements: where each begins, and its bytes. A span's accesses
that are adjacent in one word are one unit. -/
def units (s : State) (v : Reg) (m : BitVec 3) (n : Nat) (at_ : Nat → Int) (span : Bool) : List (Nat × List Byte) :=
  let l := ((List.range (128 / n)).filter (lane s m n)).map fun j => ((at_ j).toNat, leBytes n (el (rv (cc s) v) (8 * n) j))
  if span then joinRuns l else l

/-- A vector store of accesses of n bytes: a step writes the next unit and no other byte, with the register's poison; the last one completes it. -/
def VStores (i : Instr) (s : State) (v : Reg) (m : BitVec 3) (n : Nat) (at_ : Nat → Int) (span : Bool) : Prop :=
  let us := units s v m n at_ span
  let p := (cc s).vpos
  let sl := slotOf (cc s) (curSlot (cc s))
  Issues s i → Reaches s m n at_ true → Memory.wf (cc s).lm = true →
    (us.length ≤ p →
      ∃ t : State, exec i s = .next t ∧ OnlyCore s t ∧ Samples s t ∧ Passes s t ∧
        cc t = { cc s with rmode := (cc t).rmode, pc := (cc t).pc, loops := (cc t).loops, vgot := [], vpos := 0 }) ∧
    (∀ a bs, us[p]? = some (a, bs) →
      ∃ t : State, exec i s = .next t ∧
        StoreFrame { s with cores := mput s.cores s.cur { cc s with rmode := (cc t).rmode, vpos := (cc t).vpos } } t ∧ (cc t).fe = (cc s).fe ∧
        (∀ b, rdByte (cc t).lm b = if a ≤ b ∧ b < a + bs.length then bs.getD (b - a) 0 else rdByte (cc s).lm b) ∧
        (vbad (cc s) v = true → lmBad (cc t) a bs.length = true) ∧
        (inP sl a = true → (cc t).restart = false) ∧ (inP sl a = false → (cc s).inh = false → (cc t).restart = (cc s).restart) ∧
        (p + 1 = us.length → Samples s t ∧ Passes s t ∧ (cc t).vpos = 0) ∧
        (p + 1 < us.length → (cc t).rmode = (cc s).rmode ∧ (cc t).pc = (cc s).pc ∧ (cc t).loops = (cc s).loops ∧ (cc t).vpos = p + 1))

/-- The bytes of units, each with its address. -/
def unitBytes (l : List (Nat × List Byte)) : List (Nat × Byte) := l.flatMap fun u => u.2.zipIdx.map fun b => (u.1 + b.2, b.1)

/-- Whether each unit has bytes, and lies in one word. -/
def InWords (l : List (Nat × List Byte)) : Prop := ∀ u ∈ l, u.2 ≠ [] ∧ u.1 / 8 = (u.1 + u.2.length - 1) / 8

end Sys2Proof.Stated

/-- R309 to R312, R177: the memory forms outside fused windows, each word of a load and each unit of a store in a step of its own. An inactive element is
neither read nor written; VLD and VST move narrow elements with their byte; poison read seals the core. A misaligned base, or the first misaligned element,
takes ALIGN with the first active element's address, or its own. Where the spec leaves a point of this open the model chose: logs 11 and 23. -/
def Obligations.VectorMemory : Prop :=
  (∀ l, unitBytes (joinRuns l) = unitBytes l ∧ (InWords l → InWords (joinRuns l))) ∧
  ∀ (s : State) (v xa xs vo : Reg) (ty : BitVec 4) (m : BitVec 3) (e : ETy), etype (envOf (cc s)) ty = some e →
    let n := max 1 (e.w / 8)
    let a := rx (cc s) xa
    let span := fun (j : Nat) => (a.toNat : Int) + (n * j : Nat)
    let strided := fun (j : Nat) => (a.toNat : Int) + j * (rx (cc s) xs).toInt
    let indexed := fun (j : Nat) => (a.toNat : Int) + (el (rv (cc s) vo) e.w j : Int)
    let aligned := fun (at_ : Nat → Int) => ∀ j, j < 128 / n → lane s m n j = true → at_ j % n = 0
    let misaligned := fun (i : Instr) (at_ : Nat → Int) =>
      ∀ j, Issues s i → j < 128 / n → lane s m n j = true → at_ j % n ≠ 0 → (∀ j', j' < j → lane s m n j' = true → at_ j' % n = 0) →
        (∀ j', j' < 128 / n → fusedAt s s.cur (at_ j').toNat = none) → exec i s = .next (takeTrap s s.cur 0x13 (some (wdI (at_ j))))
    (a.toNat % 8 = 0 → VLoads (.vld v xa ty m) s v m n span ∧ VStores (.vst v xa ty m) s v m n span true) ∧
    (a.toNat % 8 ≠ 0 → ∀ j, j < 128 / n → lane s m n j = true → (∀ j', j' < j → lane s m n j' = false) →
      (Issues s (.vld v xa ty m) → exec (.vld v xa ty m) s = .next (takeTrap s s.cur 0x13 (some (wdI (span j))))) ∧
      (Issues s (.vst v xa ty m) → exec (.vst v xa ty m) s = .next (takeTrap s s.cur 0x13 (some (wdI (span j)))))) ∧
    (ty.toNat ≤ 10 →
      (aligned strided → VLoads (.vlds v xa xs ty m) s v m n strided ∧ VStores (.vsts v xa xs ty m) s v m n strided false) ∧
      (aligned indexed → VLoads (.vgath v xa vo ty m) s v m n indexed ∧ VStores (.vscat v xa vo ty m) s v m n indexed false) ∧
      misaligned (.vlds v xa xs ty m) strided ∧ misaligned (.vsts v xa xs ty m) strided ∧ misaligned (.vgath v xa vo ty m) indexed ∧
      misaligned (.vscat v xa vo ty m) indexed)

/-- R323, R324: VLOOP with a body that can be fetched takes ILL for a word that may not stand in a body, and else gives BUSY, BADARG or OK; the PC passes the
body. An iteration of a standing loop with 16 items beyond the last group puts them into v16, runs the body, and releases them. Where the spec leaves a point
of this open the model chose: log 11. -/
def Obligations.StandingLoop : Prop :=
  ∀ (s : State) (len : BitVec 5) (xs : Reg),
    let n := len.toNat + 1
    let k := cc s
    let word := fun (i : Nat) => BitVec.ofNat 32 (rdLE k.lm (k.pc.toNat + 4 + 4 * i) 4)
    let ok := k.trapped = false ∧ ∀ i, i < n → bodyOk (envOf k) (word i) = true
    let gives := fun (st : Word) (f : State → Prop) =>
      ∃ t : State, exec (.vloop len xs) s = .next t ∧ rx (cc t) xs = (if xs = 0 then 0 else st) ∧ (∀ r, r ≠ xs → rx (cc t) r = rx k r) ∧ OnlyCore s t ∧
        cc t = { k with x := (cc t).x, badRegs := (cc t).badRegs, loop := (cc t).loop, pc := (passTo k (k.pc + wd (4 * n))).pc, loops := (passTo k (k.pc + wd (4 * n))).loops } ∧ f t
    ((∀ i, i < n → fetchFault { k with pc := wd (k.pc.toNat + 4 + 4 * i) } = none) →
      (¬ ok → exec (.vloop len xs) s = .next (takeTrap s s.cur 0x20 none)) ∧
      (ok → k.loop ≠ none → gives 1 fun t => (cc t).loop = k.loop) ∧
      (ok → k.loop = none → k.vqbind = none → gives 0x66 fun t => (cc t).loop = none) ∧
      (∀ key e, ok → k.loop = none → k.vqbind = some key → endRec k key = some e → e.kind = 1 → e.slot = curSlot k →
        gives 0 fun t => ∃ l, (cc t).loop = some l ∧ l.body = (List.range n).map word ∧ l.rmode = k.rmode ∧ l.fmta = k.fmta ∧ l.fmtb = k.fmtb ∧
          l.fmtc = k.fmtc ∧ l.fmts = k.fmts ∧ l.phase = 0 ∧ l.endk = keyOf e)) ∧
    (∀ c l e v' k', (coreOf s c).loop = some l → l.phase = 1 → l.mid = none → endRec (coreOf s c) l.endk = some e → e.state = 1 → e.eosWord = none →
      e.cause ≠ 2 → 16 ≤ seqDiff e.wrSeq e.popSeq → (coreOf s c).vgot = [] → (coreOf s c).vpos = 0 → (∀ j, j < 16 → lmBad (coreOf s c) (ringAt e (e.popSeq + j)) 8 = false) →
      (∀ j, j < 16 → el v' 64 j = rdLE (coreOf s c).lm (ringAt e (e.popSeq + j)) 8) →
      bodyRun { rmode := l.rmode, fmta := l.fmta, fmtb := l.fmtb, fmtc := l.fmtc } l.iter l.body 0 (wv (coreOf s c) 16 v') = (k', none) →
      ∃ t : State, exec (.loopIteration c) s = .next t ∧ (coreOf t c).v = k'.v ∧ (coreOf t c).k = k'.k ∧ (coreOf t c).q = k'.q ∧
        (coreOf t c).x = (coreOf s c).x ∧ (coreOf t c).pc = (coreOf s c).pc ∧ (coreOf t c).lm = (coreOf s c).lm ∧ t.mem = s.mem ∧
        ∃ l', (coreOf t c).loop = some l' ∧ l'.iter = l.iter + 1 ∧ l'.mid = none ∧ l'.body = l.body)

/-! ### Tile commands (chapters 12 and 23) -/

namespace Sys2Proof.Stated

/-- Steps taken in turn. -/
def Steps : List Instr → State → State → Prop
  | [], s, t => t = s
  | i :: l, s, t => ∃ u, exec i s = .next u ∧ Steps l u t

/-- The started command of a core under a token. -/
def runAt (s : State) (core tok : Nat) : Option RunCmd := (coreOf s core).run.find? fun r => decide (r.cmd.tok = tok)

/-- A started command whose element operation k is neither done nor issued and that its engine works on now. -/
def Works (s : State) (core : Nat) (r : RunCmd) (k : Nat) : Prop :=
  core < 2048 ∧ runAt s core r.cmd.tok = some r ∧ r.result = none ∧ r.stalled = false ∧ k < r.total ∧ k < 2 ^ 32 ∧ k ∉ r.done_ ∧ k ∉ r.asked ∧
  atWork s core r = true ∧ cmdBad core r.cmd.w0 = false

/-- The source words of an operation have come back from their homes, under the numbers from base on: each with its poison. -/
def Came (r : RunCmd) (base : Nat) (ws : List (Word × Bool)) : Prop :=
  (r.reads.filter fun x => decide (base ≤ x.1 ∧ x.1 < base + ws.length)) = ws.zipIdx.map fun x => (base + x.2, x.1)

/-- None of the n words from number base on has been asked for. -/
def NotAsked (r : RunCmd) (base n : Nat) : Prop :=
  (∀ x ∈ r.reads, ¬ (base ≤ x.1 ∧ x.1 < base + n)) ∧ ∀ x ∈ r.pend, ¬ (base ≤ x ∧ x < base + n)

/-- No word is poisoned. -/
def Clean (ws : List (Word × Bool)) : Prop := ∀ x ∈ ws, x.2 = false

/-- The error injector of neither die is on. -/
def Quiet (s : State) : Prop := ∀ d, (dieAt s d).einjseed = 0

/-- A command ends with a status, AUX and VALUE. -/
def Ends (t : State) (core : Nat) (r : RunCmd) (st aux v : Nat) : Prop := ∃ r', runAt t core r.cmd.tok = some r' ∧ r'.result = some (st, aux, v)

/-- The words of LM at the addresses as, none of them in a fused window, are asked of the core's NI under the numbers from base on. -/
def AsksLocal (s t : State) (core : Nat) (r : RunCmd) (base : Nat) (as_ : List Nat) : Prop :=
  let c := r.cmd
  let src := engAgent s core c
  chanQ t src (niOf s core) 0 = chanQ s src (niOf s core) 0 ++ as_.zipIdx.map (fun x =>
    { src := src, dst := niOf s core, cls := 0, op := 1, cid := c.cid, inc := c.inc, slot := c.slot, len := 2, body := .engRead x.1 (engTok core c.tok (base + x.2)) }) ∧
  ∃ r', runAt t core c.tok = some r' ∧ r'.pend = r.pend ++ (List.range as_.length).map (base + ·)

/-- What of a machine a command's element leaves alone on a core: its scalar registers, PC, LM and control registers, and all memory outside. -/
def LeavesScalar (s t : State) (core : Nat) : Prop :=
  (coreOf t core).x = (coreOf s core).x ∧ (coreOf t core).pc = (coreOf s core).pc ∧ (coreOf t core).lm = (coreOf s core).lm ∧
  (coreOf t core).rmode = (coreOf s core).rmode ∧ (coreOf t core).act = (coreOf s core).act ∧ t.mem = s.mem

end Sys2Proof.Stated

/-- R354, R236, R238: CMD reads four words at a 32-byte aligned local address, fills the sampled fields of word 0, places the command behind the others
of the FIFO and leaves its register pending. With 16 commands in the FIFO CMD waits and CMD.NB gives 1. -/
def Clauses.PlacingCommands : Prop :=
  ∀ (s : State) (rd ra : Reg) (imm : BitVec 15) (nb : Bool),
    let k := cc s
    let a := rx k ra + sext imm
    let i : Instr := if nb then .cmdNb rd ra imm else .cmd rd ra imm
    let w := fun (n : Nat) => (leWords 4 (spanRead s a.toNat 32).1).getD n 0
    (a.toNat % 32 ≠ 0 → exec i s = .next (takeTrap s s.cur 0x13 (some a))) ∧
    (a.toNat % 32 = 0 → spanFault s a 32 false = none → Near s a.toNat 32 → (spanRead s a.toNat 32).2 = false →
      (16 ≤ k.fifo.length → nb = true → Gives i s rd 1) ∧
      (16 ≤ k.fifo.length → nb = false → exec i s = .next s) ∧
      (k.fifo.length < 16 → k.twin = none →
        ∃ t c, exec i s = .next t ∧ (cc t).fifo = k.fifo ++ [c] ∧ c.w1 = w 1 ∧ c.w2 = w 2 ∧ c.w3 = w 3 ∧
          fld c.w0 63 45 = fld (w 0) 63 45 ∧ fld c.w0 20 0 = fld (w 0) 20 0 ∧ fld c.w0 44 41 = k.fifo.length ∧ fld c.w0 40 38 = fld k.rmode 2 0 ∧
          fld c.w0 37 37 = fld k.rmode 8 8 ∧ fld c.w0 36 21 = fld k.rmode 31 16 ∧ c.seed = fld k.rmode 63 32 ∧
          c.fmta = k.fmta ∧ c.fmtb = k.fmtb ∧ c.fmtc = k.fmtc ∧ c.fmts = k.fmts ∧ (rd ≠ 0 → (rd.toNat, c.tok) ∈ (cc t).pendx) ∧
          (cc t).x = k.x ∧ (cc t).lm = k.lm ∧ Samples s t ∧ Passes s t ∧ OnlyCore s t ∧
          (cc t).restart = (k.restart && (cmdClears (fusedWins s s.cur) s.cur k c).isNone)))

/-- R355, R356, R358, R237, R140, R61: the head of a FIFO goes to its engine, with the popped value as word 1 where it asks for one, and ends at once with
the status of the first check that fails; a word that R237 refuses ends with BADCMD, and a command of an old incarnation is dropped and counted. A
completed command's status word reaches its register and its mailbox counter; while its push stands before a full queue register the stream is blocked. -/
def Clauses.StartingAndCompleting : Prop :=
  ∀ (s : State) (core : Nat) (c : Cmd) (rest : List Cmd),
    let k := coreOf s core
    let popped := setCore s core { k with fifo := rest }
    (k.blocked.isSome = true → exec (.commandStart core) s = .next s) ∧
    (k.fifo = c :: rest → k.blocked = none →
      (cmdBad core c.w0 = true →
        ∃ t : State, exec (.commandStart core) s = .next t ∧ (coreOf t core).fifo = rest ∧
          ∃ r, (coreOf t core).run = k.run ++ [r] ∧ r.cmd = c ∧ r.result = some (0x63, 0, 0)) ∧
      (cmdBad core c.w0 = false → engineRoom s core c = false → exec (.commandStart core) s = .next s) ∧
      (cmdBad core c.w0 = false → engineRoom s core c = true → bit c.w0 48 = false →
        (incOk s (engKnows s core c) c.cid c.inc = false → exec (.commandStart core) s = .next (count popped (dieOf core) 0)) ∧
        (incOk s (engKnows s core c) c.cid c.inc = true →
          ∃ t r, exec (.commandStart core) s = .next t ∧ (coreOf t core).fifo = rest ∧ (coreOf t core).run = k.run ++ [r] ∧ r.cmd = c ∧
            r.total = cmdTotal c ∧ r.asked = [] ∧ r.done_ = [] ∧
            r.result = (if cmdCheck s core c = 0 then none else some (cmdCheck s core c, 0, 0)))) ∧
      (cmdBad core c.w0 = false → engineRoom s core c = true → bit c.w0 48 = true →
        (qreg k (fld c.w0 46 45) = [] → exec (.commandStart core) s = .next s) ∧
        (qreg k (fld c.w0 46 45) ≠ [] → headBad k (fld c.w0 46 45) = true → exec (.commandStart core) s = .next (sealCore s core)) ∧
        (∀ v q, qreg k (fld c.w0 46 45) = v :: q → headBad k (fld c.w0 46 45) = false → incOk s (engKnows s core c) c.cid c.inc = true →
          ∃ t r, exec (.commandStart core) s = .next t ∧ (coreOf t core).run = k.run ++ [r] ∧ r.cmd = { c with w1 := v } ∧
            qreg (coreOf t core) (fld c.w0 46 45) = q))) ∧
    (∀ r x, runAt s core r.cmd.tok = some r → ended r = some x → r.cmd.live = true → bit r.cmd.w0 47 = true → k.blocked = none →
      4 ≤ (qreg k (fld r.cmd.w0 46 45)).length →
      exec (.commandComplete core r.cmd.tok) s = .next (setCore s core { k with blocked := some r.cmd.tok })) ∧
    (∀ (r : RunCmd) (y : Nat), k.blocked = some y → y ≠ r.cmd.tok → exec (.commandComplete core r.cmd.tok) s = .next s) ∧
    (∀ r x rd, k.blocked = none ∨ k.blocked = some r.cmd.tok → runAt s core r.cmd.tok = some r → ended r = some x → r.cmd.live = true → bit r.cmd.w0 47 = false → r.cmd.mirror = false → k.twin = none →
      (k.pendx.find? fun p => decide (p.2 = r.cmd.tok)) = some (rd, r.cmd.tok) → 0 < rd → rd < 32 → k.sealed_ = false →
      ∃ t : State, exec (.commandComplete core r.cmd.tok) s = .next t ∧ (coreOf t core).blocked = none ∧ rx (coreOf t core) (rg5 rd) = finalWord r x ∧ runAt t core r.cmd.tok = none ∧
        (coreOf t core).pendx = k.pendx.filter (fun p => !decide (p.2 = r.cmd.tok)) ∧
        (bit r.cmd.w0 52 = true →
          mbOf (slotOf (coreOf t core) r.cmd.slot) (fld r.cmd.w0 51 49) = mbInc (mbOf (slotOf k r.cmd.slot) (fld r.cmd.w0 51 49)) (decide (x.1 ≠ 0))) ∧
        t.mem = s.mem ∧ (coreOf t core).lm = k.lm) ∧
    (∀ r, runAt s core r.cmd.tok = some r → ended r = none → exec (.commandComplete core r.cmd.tok) s = .next s)

namespace Sys2Proof.Stated

/-- The sixteen tile commands with their codes. -/
def tileForms : List (Nat × (Word → Word → Word → Word → Instr)) :=
  [(0x01, .zclr), (0x02, .zld), (0x03, .zst), (0x04, .mmaS), (0x05, .mmaG), (0x10, .copy), (0x11, .copyM), (0x12, .red), (0x13, .layreg), (0x14, .laydrop),
   (0x20, .strfill), (0x21, .strdrain), (0x30, .nicpost), (0x31, .niccq), (0x40, .coll), (0x41, .cprobe)]

/-- A command as its engine accepts it: where it asks for one, word 1 is the value at the head of a queue register. -/
def taken (s : State) (c : Cmd) : Cmd := if bit c.w0 48 then { c with w1 := (qreg (cc s) (fld c.w0 46 45)).headD 0 } else c

/-- The head of the current core's FIFO may start and passes every check: the stream is not blocked, its engine has room, the queue register from which it
takes its word 1 has one, its incarnation is the engine's, and its token is its own (23 R355, R358). -/
def Startable (s : State) (c : Cmd) (rest : List Cmd) : Prop :=
  (cc s).fifo = c :: rest ∧ (cc s).blocked = none ∧ cmdBad s.cur c.w0 = false ∧ engineRoom s s.cur c = true ∧
  (bit c.w0 48 = true → qreg (cc s) (fld c.w0 46 45) ≠ [] ∧ headBad (cc s) (fld c.w0 46 45) = false) ∧
  incOk s (engKnows s s.cur (taken s c)) c.cid c.inc = true ∧ cmdCheck s s.cur (taken s c) = 0 ∧ runAt s s.cur c.tok = none

/-- A started command of the current core that goes on under its words: none with them stands at the FIFO's head. -/
def Going (s : State) (code : Nat) (w0 w1 w2 w3 : Word) (r : RunCmd) : Prop :=
  (∀ c ∈ (cc s).fifo.head?, ¬ (Machine.cmdCode c = code ∧ sameWords c w0 w1 w2 w3 = true)) ∧
  ((cc s).run.find? fun r => decide (Machine.cmdCode r.cmd = code) && sameWords r.cmd w0 w1 w2 w3 && r.result.isNone) = some r ∧ runAt s s.cur r.cmd.tok = some r

end Sys2Proof.Stated

/-- R355, R179: each of the sixteen tile commands answers a next state: that of its start from the head of the FIFO, where its engine accepts it, followed by
its element operations in turn; of one that has started, that of its element operations in turn. What the start and each operation do is stated on its own.
Where the spec leaves a point of this open the model chose: log 13. -/
def Obligations.TileCommandsAreTheirSteps : Prop :=
  ∀ (s : State) (w0 w1 w2 w3 : Word), ∀ f ∈ tileForms,
    (∀ (c : Cmd) (rest : List Cmd), Startable s c rest → cmdCode c = f.1 → sameWords c w0 w1 w2 w3 = true →
      ∃ (u t : State) (r : RunCmd), exec (.commandStart s.cur) s = .next u ∧ (cc u).fifo = rest ∧ u.cur = s.cur ∧ runAt u s.cur c.tok = some r ∧ r.cmd = taken s c ∧
        r.result = none ∧ r.total = cmdTotal (taken s c) ∧ r.asked = [] ∧ r.done_ = [] ∧
        exec (f.2 w0 w1 w2 w3) s = .next t ∧ Steps ((List.range r.total).map fun n => .engine s.cur c.tok n) u t) ∧
    (∀ r : RunCmd, Going s f.1 w0 w1 w2 w3 r →
      ∃ t : State, exec (f.2 w0 w1 w2 w3) s = .next t ∧ Steps ((List.range r.total).map fun n => .engine s.cur r.cmd.tok n) s t)

/-- R359, R367, R369, R361, R218, R169, R179: the element operations on tiles and LM. ZCLR clears the tiles of its mask. A word of a ZLD or a COPY is asked of
its home, and once it has come it sets two words of the tile, or goes to the NI of its destination; so does a word of a ZST. A block of MMA.S whose operands
have come adds to each word of the tile, exactly on the integer path. -/
def Clauses.EngineElements : Prop :=
  ∀ (s : State) (core : Nat) (r : RunCmd) (k : Nat), Works s core r k → Quiet s →
    let c := r.cmd
    let zt := fld c.w1 62 60
    let z := tileOf (coreOf s core) zt
    let row := k / 64
    let col := 2 * (k % 64)
    let a := fld c.w2 18 0 + row * fld c.w3 31 0 + 8 * (k % 64)
    let src := engAgent s core c
    let other := fun (t : State) => ∀ m, m < 8 → m ≠ zt → tileOf (coreOf t core) m = tileOf (coreOf s core) m
    let sent := fun (t : State) (at_ : Nat) (v : Word) (full bad : Bool) =>
      chanQ t src (niOf s core) 1 = chanQ s src (niOf s core) 1 ++
        [{ src := src, dst := niOf s core, cls := 1, op := 6, cid := c.cid, inc := c.inc, slot := c.slot, len := 2,
           body := .engWrite at_ v full bad (engTok core c.tok k) }]
    (cmdCode c = 0x01 →
      ∃ t : State, exec (.engine core c.tok k) s = .next t ∧ Ends t core r 0 0 0 ∧ LeavesScalar s t core ∧
        ∀ m, m < 8 → tileOf (coreOf t core) m = if bit c.w1 m then {} else tileOf (coreOf s core) m) ∧
    (cmdCode c = 0x02 → bit c.w2 63 = false → fld c.w1 59 56 = 8 →
      (NotAsked r k 1 → fusedAt s core a = none →
        ∃ t : State, exec (.engine core c.tok k) s = .next t ∧ LeavesScalar s t core ∧ (coreOf t core).z = (coreOf s core).z ∧ AsksLocal s t core r k [a]) ∧
      (∀ v : Word, Came r k [(v, false)] →
        ∃ t : State, exec (.engine core c.tok k) s = .next t ∧ LeavesScalar s t core ∧ other t ∧ (∃ r', runAt t core c.tok = some r' ∧ k ∈ r'.done_) ∧
          ∀ i j, j < 128 → tileGet (tileOf (coreOf t core) zt) i j =
            if i = row ∧ j = col then BitVec.ofNat 32 (fld v 31 0) else if i = row ∧ j = col + 1 then BitVec.ofNat 32 (fld v 63 32) else tileGet z i j)) ∧
    (cmdCode c = 0x03 → bit c.w2 63 = false → fld c.w1 59 56 = 8 → fusedAt s core a = none → z.bad = [] →
      ∃ t : State, exec (.engine core c.tok k) s = .next t ∧ LeavesScalar s t core ∧ (coreOf t core).z = (coreOf s core).z ∧
        (∃ r', runAt t core c.tok = some r' ∧ k ∈ r'.asked) ∧
        sent t a (wd ((tileGet z row col).toNat + 2 ^ 32 * (tileGet z row (col + 1)).toNat)) false false) ∧
    (∀ x y, cmdCode c = 0x10 → sideOf c.w1 false = some x → x.kind = 0 → sideOf c.w2 true = some y → y.kind = 0 → 0 < copyWords c →
      let i := k / copyWords c
      let w := k % copyWords c
      let p := x.addr + i * fld c.w3 63 48 + 8 * w
      let q := y.addr + i * fld c.w3 47 32 + 8 * w
      (NotAsked r k 1 → fusedAt s core p = none →
        ∃ t : State, exec (.engine core c.tok k) s = .next t ∧ LeavesScalar s t core ∧ AsksLocal s t core r k [p]) ∧
      (∀ (v : Word) (bad : Bool), Came r k [(v, bad)] → fusedAt s core q = none →
        ∃ t : State, exec (.engine core c.tok k) s = .next t ∧ LeavesScalar s t core ∧ (∃ r', runAt t core c.tok = some r' ∧ k ∈ r'.asked) ∧
          sent t q v y.full bad)) ∧
    (∀ fa wa fb wb ws bs, cmdCode c = 0x04 → k = r.prog → ¬ (r.failed = true ∧ r.stallAt ≤ k) → mmaTypes c = some ((fa, wa), (fb, wb)) →
      ws.length = ((mmaParts c k).flatMap fun x => placesOf x.1 x.2.1 x.2.2).length → Came r (k * 2 ^ 14) ws → partBytes (mmaParts c k) ws = (bs, false) → z.bad = [] →
      ∃ t : State, exec (.engine core c.tok k) s = .next t ∧ LeavesScalar s t core ∧ other t ∧
        (∃ r', runAt t core c.tok = some r' ∧ r'.prog = k + 1 ∧ r'.result = if k + 1 = mmaBlocks c then some (0, 0, 0) else none) ∧
        ∀ i j, i < 64 → j < 128 →
          let A := fun (p : Nat) => (unpack wa fa.width (64 * 128) (bs.getD 0 [])).getD (128 * i + p) 0
          let B := fun (p : Nat) => (unpack wb fb.width (128 * 128) (bs.getD 1 [])).getD (128 * j + p) 0
          let sa := ((bs.getD 2 []).map (·.toNat)).getD i 0
          let sb := ((bs.getD 3 []).map (·.toNat)).getD j 0
          tileGet (tileOf (coreOf t core) zt) i j =
            if intPath c then
              BitVec.ofInt 32 ((tileGet z i j).toInt +
                ((List.range 128).map fun p => (if fa.s then signedN fa.width (A p) else (A p : Int)) * (if fb.s then signedN fb.width (B p) else (B p : Int))).sum)
            else accumulate c c (agentOf core % 8) zt k i j ((List.range 128).map A) ((List.range 128).map B) sa sb (tileGet z i j))

/-- R370 to R374, R378 to R380, R166: the element operations of the commands that act beyond LM, once the words that they read have come. -/
def Clauses.EngineRequests : Prop :=
  ∀ (s : State) (core : Nat) (r : RunCmd) (k : Nat), Works s core r k →
    let c := r.cmd
    let d := dieOf core
    let num := fld c.w1 5 0
    let src := engAgent s core c
    let run := exec (.engine core c.tok k) s
    (cmdCode c = 0x13 → (layoutOf s d c.cid c.inc num).isSome = true → ∃ t, run = .next t ∧ Ends t core r 0x75 0 0 ∧ t.dies = s.dies) ∧
    (∀ g0 g1 g2 g3 : Word, cmdCode c = 0x13 → layoutOf s d c.cid c.inc num = none → c.w2.toNat % 32 = 0 → c.w2.toNat + 32 ≤ 2 ^ 57 →
      Came r 0 [(g0, false), (g1, false), (g2, false), (g3, false)] →
      let base := fld g0 56 0
      let rows := fld g1 63 32
      let rb := fld g1 31 0
      let stride := g2.toNat
      let n := (rows - 1) * stride + rb
      let good := fld g0 63 57 = 0 ∧ fld g3 63 10 = 0 ∧ fld g3 7 0 = 1 ∧ base % 8 = 0 ∧ 0 < rows ∧ rb % 8 = 0 ∧ 8 ≤ rb ∧ rb ≤ 2 ^ 31 ∧ stride % 8 = 0 ∧
        (rb ≤ stride ∨ rows = 1)
      let pages := extentPages s c.cid base n (bit g3 9) (pairFor core)
      (¬ good → ∃ t, run = .next t ∧ Ends t core r 0x66 0 0 ∧ t.dies = s.dies) ∧
      (good → 2 ^ 57 < base + n ∨ pages = none → ∃ t, run = .next t ∧ Ends t core r 0x26 0 0 ∧ t.dies = s.dies) ∧
      (∀ ps, good → base + n ≤ 2 ^ 57 → pages = some ps →
        (s.holdMiB * 2 ^ 20 < holdUsed s d + 8 * ps.length → ∃ t, run = .next t ∧ Ends t core r 0x62 0 0 ∧ t.dies = s.dies) ∧
        (holdUsed s d + 8 * ps.length ≤ s.holdMiB * 2 ^ 20 →
          ∃ t, run = .next t ∧ Ends t core r 0 0 0 ∧ (dieAt t d).layouts = (dieAt s d).layouts ++
            [{ cid := c.cid, inc := c.inc, num := num, base := base, rows := rows, rowbytes := rb, stride := stride, wr := bit g3 9, rd := bit g3 8, pages := ps }]))) ∧
    (cmdCode c = 0x14 → layoutOf s d c.cid c.inc num = none → ∃ t, run = .next t ∧ Ends t core r 0x69 0 0 ∧ t.dies = s.dies) ∧
    (∀ l, cmdCode c = 0x14 → layoutOf s d c.cid c.inc num = some l →
      (∀ kv ∈ s.cores, dieOf kv.1 = d → ∀ x ∈ kv.2.run, x.cmd.cid = c.cid → x.cmd.inc = c.inc → usesLayout x.cmd num = false) →
      ∃ t, run = .next t ∧ Ends t core r 0 0 0 ∧ (dieAt t d).layouts = (dieAt s d).layouts.erase l) ∧
    (∀ e bad v (w : Word), cmdCode c = 0x20 → k = r.prog → k ≠ strItems c → strBad s core r = false → cmdEnd s core c 0 = some e → e.state = 1 →
      seqDiff e.nextSeq e.relSeq < ritems e → mget r.reads k = some (w, bad) → strSend s core c k e 0x0A 2 (fun h => .item h [w] bad) = some v →
      ∃ t, run = .next t ∧ t.chans = v.chans ∧ t.e2e = v.e2e ∧ t.egress = v.egress ∧
        ∀ x ∈ (coreOf t core).ends, keyOf x = keyOf e → x.state ≠ 7 → ∃ y ∈ (coreOf v core).ends, x = { y with nextSeq := (y.nextSeq + 1) % 2 ^ 32 }) ∧
    (∀ e u r' bad (w : Word), cmdCode c = 0x21 → k = r.prog → strBad s core r = false → cmdEnd s core c 1 = some e → e.popSeq ≠ e.wrSeq →
      mget r.reads k = some (w, bad) → writePlace s core c k w bad false (.va (strAddr c k)) = some u → runAt u core c.tok = some r' → r'.stalled = false →
      r'.result = none → (k + 1) % fld c.w3 63 48 ≠ 0 → k + 1 ≠ strItems c →
      ∃ t, run = .next t ∧ t.chans = u.chans ∧ t.e2e = u.e2e ∧
        ∀ x ∈ (coreOf t core).ends, keyOf x = keyOf e → x.state ≠ 7 → ∃ y ∈ (coreOf u core).ends, x = { y with popSeq := (y.popSeq + 1) % 2 ^ 32 }) ∧
    (∀ ws ds : List (Word × Bool), cmdCode c = 0x30 → Clean ws → Clean ds → Came r 0 ws → Came r (2 ^ 20) ds →
      let n := fld c.w2 3 0 + 1
      let a := fld c.w1 18 0
      let reqs := (List.range n).map fun i => (i, leWords 8 ((bytesOf a (64 * n) ws).1.drop (64 * i)))
      let bufs := (reqs.take ((postAll core c (reqs.map fun x => (x.1, x.2, [])) s).1.getD n)).map fun x =>
        let q := wrqOf s core c x.2
        (if q.op = 3 then [] else wrqSrc q, q)
      let data := (bufs.foldl (fun (x : List (List Byte) × List (Word × Bool)) q =>
        (x.1 ++ [(bytesOf q.2.buf q.2.len (x.2.take q.1.length)).1], x.2.drop q.1.length)) ([], ds)).1
      ws.length = (placesOf .lm a (64 * n)).length → ds.length = (bufs.flatMap (·.1)).length →
      ∃ u, u = updRun s core c.tok (fun r => { r with reads := [] }) ∧
        (∀ v, postAll core c (reqs.map fun x => (x.1, x.2, data.getD x.1 [])) u = (none, v) →
          ∃ t, run = .next t ∧ Ends t core r 0 0 0 ∧ (nicAt t d).wrqs = (nicAt v d).wrqs ∧ (nicAt t d).wrqs.length = (nicAt s d).wrqs.length + n) ∧
        (∀ i v, postAll core c (reqs.map fun x => (x.1, x.2, data.getD x.1 [])) u = (some i, v) →
          ∃ t, run = .next t ∧ Ends t core r 0x70 i 0 ∧ (nicAt t d).wrqs = (nicAt v d).wrqs)) ∧
    (cmdCode c = 0x31 → (∀ a, fusedAt s core a = none) →
      let es := ((nicAt s d).cq.filter fun e => decide (e.cid = c.cid ∧ e.inc = c.inc)).take (fld c.w1 7 0)
      let bytes := es.flatMap fun e => wordsBytes [e.utag, wd (e.status + e.op * 256), wd e.bytes, 0]
      ∃ t, run = .next t ∧ Ends t core r 0 0 es.length ∧ (nicAt t d).cq.length + es.length = (nicAt s d).cq.length ∧
        chanQ t src (niOf s core) 1 = chanQ s src (niOf s core) 1 ++ ((pieces (bytes.length + 1) (fld c.w2 18 0) bytes).zipIdx.map fun x =>
          { src := src, dst := niOf s core, cls := 1, op := 6, cid := c.cid, inc := c.inc, slot := c.slot, len := 2,
            body := pieceBody x.1.1 x.1.2 false (engTok core c.tok x.2) })) ∧
    (cmdCode c = 0x40 → r.asked = [] → (roundOf s c.cid c.inc (collGid c) (collRound c)).isSome = true → ∃ t, run = .next t ∧ Ends t core r 0x6E 0 0) ∧
    (∀ ws, cmdCode c = 0x40 → r.asked = [] → roundOf s c.cid c.inc (collGid c) (collRound c) = none → Clean ws → Came r 0 ws →
      ws.length = (placesOf .lm (fld c.w1 18 0) (collBytes c)).length →
      ∃ t p x, run = .next t ∧ t.egress = s.egress ++ [p] ∧ p.comb = true ∧ p.body = .contrib x ∧ agChip p.dst = (collChips s c).foldl min s.chip ∧
        x.vals = elsOf (elSize (collTyp c)) (collEls c) (bytesOf (fld c.w1 18 0) (collBytes c) ws).1 ∧ x.chip = s.chip ∧ x.gid = collGid c ∧ x.round = collRound c ∧
        (∃ e, e ∈ (dieAt t d).rounds ∧ e.gid = collGid c ∧ e.round = collRound c ∧ e.state = 1) ∧ LeavesScalar s t core) ∧
    (cmdCode c = 0x41 → roundOf s c.cid c.inc (collGid c) (collRound c) = none → ∃ t, run = .next t ∧ Ends t core r 0x76 0 0) ∧
    (∀ e n, cmdCode c = 0x41 → roundOf s c.cid c.inc (collGid c) (collRound c) = some (n, e) →
      ∃ t, run = .next t ∧ Ends t core r 0 0 (e.state * 2 ^ 24 + e.running.length % 65536)) ∧
    (∀ a chips drop u words, cmdCode c = 0x11 → sideOf c.w1 false = some a → copyMChips core c.cid
        (operandRanks { rankbase := fld c.w2 63 48, setfull := bit c.w2 47, offset := fld c.w2 18 0 + 2048 * k, mask := c.w3.toNat }) s = (some (chips, drop), u) →
      chips ≠ [] → words.length = min 256 (copyMWords c - 256 * k) → Came r (256 * k) words →
      ∃ t p, run = .next t ∧ t.egress = u.egress ++ [p] ∧ p.mcast = true ∧ t.mtagNext = (u.mtagNext + 1) % 2 ^ 24 ∧
        p.body = .mdata u.mtagNext chips
          { rankbase := fld c.w2 63 48, setfull := bit c.w2 47, offset := fld c.w2 18 0 + 2048 * k, mask := c.w3.toNat } words none ∧
        (∃ m ∈ t.mouts, m.mtag = u.mtagNext ∧ m.core = core ∧ m.pkt = p ∧ m.drop = drop)) ∧
    (∀ y ws, cmdCode c = 0x12 → redArr c = false → r.asked = [] → sideOf c.w2 true = some y → y.kind = 0 → Clean ws → Came r 0 ws →
      ws.length = (redSrc c 0 (redLen c)).1.length → 1 < redNum c → ovUsed s d c.cid + redLen c * elSize (redTyp c) ≤ ovShare s c.cid →
      (∀ g ∈ (dieAt s d).reds, redSame g c.cid c.inc { tag := redTag c, dst := niOf s core, addr := y.addr } = false) →
      let vals := elsOf (elSize (redTyp c)) (redLen c) (bytesOf (fld c.w1 18 0) (redBytes c) ws).1
      ∃ t g, run = .next t ∧ (dieAt t d).reds = (dieAt s d).reds ++ [g] ∧ g.got = [(slotRank (coreOf s core) c.slot, core, c.tok, vals)] ∧
        g.c.n = redNum c ∧ g.c.op = redFn c ∧ g.c.typ = redTyp c ∧ g.c.tag = redTag c ∧ g.since = s.now ∧ LeavesScalar s t core)

/-- R359, R361, R363, R367, R369, R372, R378, R380: what a tile command has done once its own constructor has run. From the head of the FIFO: ZCLR, LAYDROP,
NICCQ and CPROBE end with their statuses; MMA.G is accepted by its slice for its gang; a ZST has sent every word of its tile; a ZLD and a COPY have asked for
every word. One whose words have come: a ZLD has loaded its tile and ended, a COPY has sent every word, MMA.S has accumulated its last block and ended, and
one of a single operation has done that operation. -/
def Obligations.TileCommandsComplete : Prop :=
  ∀ (s : State) (w0 w1 w2 w3 : Word), s.cur < 2048 → Quiet s → (∀ a, fusedAt s s.cur a = none) →
    (∀ (c0 : Cmd) (rest : List Cmd), Startable s c0 rest → sameWords c0 w0 w1 w2 w3 = true →
      let c := taken s c0
      let d := dieOf s.cur
      let r : RunCmd := { cmd := c, ord := s.opNext }
      let z := tileOf (cc s) (fld c.w1 62 60)
      let src := engAgent s s.cur c
      let to_ := niOf s s.cur
      let store := fun (b : Body) =>
        ({ src := src, dst := to_, cls := 1, op := 6, cid := c.cid, inc := c.inc, slot := c.slot, len := 2, body := b } : Packet)
      (cmdCode c0 = 0x01 →
        ∃ t : State, exec (.zclr w0 w1 w2 w3) s = .next t ∧ (cc t).fifo = rest ∧ Ends t s.cur r 0 0 0 ∧
          ∀ m, m < 8 → tileOf (cc t) m = if bit c.w1 m then {} else tileOf (cc s) m) ∧
      (∀ l, cmdCode c0 = 0x14 → layoutOf s d c.cid c.inc (fld c.w1 5 0) = some l →
        (∀ kv ∈ s.cores, dieOf kv.1 = d → ∀ x ∈ kv.2.run, x.cmd.cid = c.cid → x.cmd.inc = c.inc → usesLayout x.cmd (fld c.w1 5 0) = false) →
        ∃ t : State, exec (.laydrop w0 w1 w2 w3) s = .next t ∧ (cc t).fifo = rest ∧ Ends t s.cur r 0 0 0 ∧ (dieAt t d).layouts = (dieAt s d).layouts.erase l) ∧
      (cmdCode c0 = 0x31 →
        let es := ((nicAt s d).cq.filter fun e => decide (e.cid = c.cid ∧ e.inc = c.inc)).take (fld c.w1 7 0)
        let bytes := es.flatMap fun e => wordsBytes [e.utag, wd (e.status + e.op * 256), wd e.bytes, 0]
        ∃ t : State, exec (.niccq w0 w1 w2 w3) s = .next t ∧ (cc t).fifo = rest ∧ Ends t s.cur r 0 0 es.length ∧
          chanQ t src to_ 1 = chanQ s src to_ 1 ++ ((pieces (bytes.length + 1) (fld c.w2 18 0) bytes).zipIdx.map fun x =>
            store (pieceBody x.1.1 x.1.2 false (engTok s.cur c.tok x.2)))) ∧
      (cmdCode c0 = 0x41 →
        ∃ t : State, exec (.cprobe w0 w1 w2 w3) s = .next t ∧ (cc t).fifo = rest ∧
          match roundOf s c.cid c.inc (collGid c) (collRound c) with
          | none => Ends t s.cur r 0x76 0 0
          | some (_, e) => Ends t s.cur r 0 0 (e.state * 2 ^ 24 + e.running.length % 65536)) ∧
      (cmdCode c0 = 0x05 →
        ∃ t q, exec (.mmaG w0 w1 w2 w3) s = .next t ∧ (cc t).fifo = rest ∧ runAt t s.cur c.tok = some q ∧ q.cmd = c ∧ q.gang = (cc s).act.bind (·.gang) ∧
          q.gang.isSome = true ∧ q.joined = false ∧ q.result = none ∧ (cc t).z = (cc s).z) ∧
      (cmdCode c0 = 0x03 → bit c.w2 63 = false → fld c.w1 59 56 = 8 → z.bad = [] →
        ∃ t q, exec (.zst w0 w1 w2 w3) s = .next t ∧ (cc t).fifo = rest ∧ runAt t s.cur c.tok = some q ∧ q.asked = List.range 4096 ∧ (cc t).z = (cc s).z ∧
          chanQ t src to_ 1 = chanQ s src to_ 1 ++ (List.range 4096).map fun k =>
            let a := fld c.w2 18 0 + k / 64 * fld c.w3 31 0 + 8 * (k % 64)
            store (.engWrite a (wd ((tileGet z (k / 64) (2 * (k % 64))).toNat + 2 ^ 32 * (tileGet z (k / 64) (2 * (k % 64) + 1)).toNat)) false false (engTok s.cur c.tok k))) ∧
      (cmdCode c0 = 0x02 → bit c.w2 63 = false → fld c.w1 59 56 = 8 →
        ∃ t : State, exec (.zld w0 w1 w2 w3) s = .next t ∧ (cc t).fifo = rest ∧ (cc t).z = (cc s).z ∧
          AsksLocal s t s.cur r 0 ((List.range 4096).map fun k => fld c.w2 18 0 + k / 64 * fld c.w3 31 0 + 8 * (k % 64))) ∧
      (∀ x y, cmdCode c0 = 0x10 → atWork s s.cur r = true → sideOf c.w1 false = some x → x.kind = 0 → sideOf c.w2 true = some y → y.kind = 0 →
        ∃ t : State, exec (.copy w0 w1 w2 w3) s = .next t ∧ (cc t).fifo = rest ∧
          AsksLocal s t s.cur r 0 ((List.range (copyRows c * copyWords c)).map fun k => x.addr + k / copyWords c * fld c.w3 63 48 + 8 * (k % copyWords c)))) ∧
    (∀ (f : Nat × (Word → Word → Word → Word → Instr)) (r : RunCmd), f ∈ tileForms → Going s f.1 w0 w1 w2 w3 r → r.total = 1 →
      ∃ t : State, exec (.engine s.cur r.cmd.tok 0) s = .next t ∧ exec (f.2 w0 w1 w2 w3) s = .next t) ∧
    (∀ (r : RunCmd) (ws : List (Word × Bool)),
      let c := r.cmd
      let zt := fld c.w1 62 60
      r.stalled = false → r.asked = [] → r.done_ = [] → r.pend = [] → r.refused = 0 → r.total = cmdTotal c → atWork s s.cur r = true →
      (Going s 0x02 w0 w1 w2 w3 r → fld c.w1 59 56 = 8 → Clean ws → ws.length = 4096 → Came r 0 ws →
        ∃ t q, exec (.zld w0 w1 w2 w3) s = .next t ∧ runAt t s.cur c.tok = some q ∧ ended q = some (0, 0, 0) ∧ (cc t).lm = (cc s).lm ∧
          (∀ m, m < 8 → m ≠ zt → tileOf (cc t) m = tileOf (cc s) m) ∧
          ∀ i j, i < 64 → j < 128 →
            tileGet (tileOf (cc t) zt) i j = BitVec.ofNat 32 ((ws.getD (64 * i + j / 2) (0, false)).1.toNat / 2 ^ (32 * (j % 2)))) ∧
      (∀ x y, Going s 0x10 w0 w1 w2 w3 r → sideOf c.w1 false = some x → x.kind = 0 → sideOf c.w2 true = some y → y.kind = 0 → 0 < copyWords c →
        ws.length = copyRows c * copyWords c → Came r 0 ws →
        ∃ t q, exec (.copy w0 w1 w2 w3) s = .next t ∧ runAt t s.cur c.tok = some q ∧ q.asked = List.range ws.length ∧
          chanQ t (engAgent s s.cur c) (niOf s s.cur) 1 = chanQ s (engAgent s s.cur c) (niOf s s.cur) 1 ++ ws.zipIdx.map fun w =>
            { src := engAgent s s.cur c, dst := niOf s s.cur, cls := 1, op := 6, cid := c.cid, inc := c.inc, slot := c.slot, len := 2,
              body := .engWrite (y.addr + w.2 / copyWords c * fld c.w3 47 32 + 8 * (w.2 % copyWords c)) w.1.1 y.full w.1.2 (engTok s.cur c.tok w.2) }) ∧
      (∀ ty bs, Going s 0x04 w0 w1 w2 w3 r → r.failed = false → r.prog + 1 = mmaBlocks c → mmaTypes c = some ty →
        ws.length = ((mmaParts c r.prog).flatMap fun x => placesOf x.1 x.2.1 x.2.2).length → Came r (r.prog * 2 ^ 14) ws → partBytes (mmaParts c r.prog) ws = (bs, false) →
        (tileOf (cc s) zt).bad = [] →
        ∃ t q, exec (.mmaS w0 w1 w2 w3) s = .next t ∧ runAt t s.cur c.tok = some q ∧ q.result = some (0, 0, 0) ∧ (cc t).lm = (cc s).lm ∧
          (cc t).z = (accBlock (cc s) c c (agentOf s.cur % 8) zt r.prog (unpack ty.1.2 ty.1.1.width (64 * 128) (bs.getD 0 []))
            (unpack ty.2.2 ty.2.1.width (128 * 128) (bs.getD 1 [])) ((bs.getD 2 []).map (·.toNat)) ((bs.getD 3 []).map (·.toNat))).z))

/-- R363, R371, R379, R380: a gang's matrix commands join when all have accepted with one block count, and end with a status where one core is sealed or
counts differ; a step accumulates at every slice. A contribution arrives as its engine step does; a word in arrival mode goes to the owning NI, which
combines it with the prior value as the left operand. Groups, COLLs and rounds end by their times. Where the spec leaves a point of this open the model
chose: logs 13 and 14. -/
def Obligations.GangsAndReductions : Prop :=
  ∀ (s : State) (gid core : Nat) (r : RunCmd),
    let ms := gangPlaces s gid
    (∀ n, ms ≠ [] → (∀ x ∈ ms, (coreOf s x.1).sealed_ = false ∧ ∃ q, gangRun s gid x.1 = some q ∧ q.joined = false ∧ mmaBlocks q.cmd = n) →
      ∃ t : State, exec (.mmagJoin gid) s = .next t ∧ (∀ x ∈ ms, ∃ q, gangRun t gid x.1 = some q ∧ q.joined = true) ∧ t.mem = s.mem) ∧
    (∀ rs : List ((Nat × Nat) × RunCmd), rs ≠ [] → rs.map (·.1) = ms → (ms.map (·.1)).Nodup → (∀ x ∈ rs, gangRun s gid x.1.1 = some x.2 ∧ x.2.joined = true ∧
        x.2.failed = false ∧ x.2.ops.isSome = true ∧ (coreOf s x.1.1).sealed_ = false ∧
        (tileOf (coreOf s x.1.1) ((x.1.2 + (8 - x.2.sub) % 8) % 8)).bad = []) →
      ∃ t : State, exec (.mmagStep gid) s = .next t ∧ t.mem = s.mem ∧
        ∀ x ∈ rs, ∀ y a b0 sa sb0 a1 b sa1 sb, rs[(x.1.2 + (8 - x.2.sub) % 8) % 8]? = some y → x.2.ops = some (a, b0, sa, sb0) → y.2.ops = some (a1, b, sa1, sb) →
          let zt := (x.1.2 + (8 - x.2.sub) % 8) % 8
          (coreOf t x.1.1).z = (accBlock (coreOf s x.1.1) x.2.cmd y.2.cmd x.1.2 zt x.2.prog a b sa sb).z ∧ (coreOf t x.1.1).x = (coreOf s x.1.1).x ∧
          (coreOf t x.1.1).lm = (coreOf s x.1.1).lm) ∧
    (Works s core r r.asked.length → cmdCode r.cmd = 0x12 →
      exec (.redContributionArrive core r.cmd.tok) s = exec (.engine core r.cmd.tok r.asked.length) s) ∧
    (∀ y ws, Works s core r r.asked.length → cmdCode r.cmd = 0x12 → redArr r.cmd = true → sideOf r.cmd.w2 true = some y → y.kind = 0 →
      let c := r.cmd
      let z := elSize (redTyp c)
      let k := r.asked.length
      let m := min (8 / z) (redLen c - k * (8 / z))
      let src := engAgent s core c
      Clean ws → Came r (2 * k) ws → ws.length = (redSrc c (k * (8 / z)) m).1.length → fusedAt s core (y.addr + 8 * k) = none →
      (∀ g ∈ (dieAt s (dieOf core)).reds, redSame g c.cid c.inc { tag := redTag c, dst := niOf s core, addr := y.addr } = false) →
      ∃ t : State, exec (.redContributionArrive core c.tok) s = .next t ∧ LeavesScalar s t core ∧ (∃ r', runAt t core c.tok = some r' ∧ k ∈ r'.asked) ∧
        chanQ t src (niOf s core) 1 = chanQ s src (niOf s core) 1 ++
          [{ src := src, dst := niOf s core, cls := 1, op := 6, cid := c.cid, inc := c.inc, slot := c.slot, len := 2,
             body := .redw (y.addr + 8 * k) (redFn c) (redTyp c) (cmdMode c).toNat (elsOf z m (bytesOf (fld c.w1 18 0 + k * (8 / z) * z) (m * z) ws).1) y.full
               (engTok core c.tok k) }]) ∧
    (∀ (src a op typ rmode tok : Nat) (vals : List Nat) (p : Packet) (rest : List Packet),
      let z := elSize typ
      chanQ s src (niOf s core) 1 = p :: rest → p.body = .redw a op typ rmode vals false tok → agIsCore (niOf s core) = true → agCore (niOf s core) = core →
      incOk s (niOf s core) p.cid p.inc = true → p.bad = false → (dieAt s (dieOf core)).einjseed = 0 → agChip p.src = s.chip → agIsCore p.src = false →
      a + z * vals.length ≤ 2 ^ 19 → Memory.wf (coreOf s core).lm = true → lmBad (coreOf s core) a (z * vals.length) = false →
      ∃ t : State, exec (.applyStep src (niOf s core) 1) s = .next t ∧ t.mem = s.mem ∧
        (∀ j v, vals[j]? = some v → rdLE (coreOf t core).lm (a + z * j) z = combEl op typ (rmAt (wd rmode) 0) (rdLE (coreOf s core).lm (a + z * j) z) v % 2 ^ (8 * z)) ∧
        (∀ i, (i < a ∨ a + z * vals.length ≤ i) → rdByte (coreOf t core).lm i = rdByte (coreOf s core).lm i)) ∧
    (∀ die cid tag, ∃ t : State, exec (.redTimeout die cid tag) s = .next t ∧ t.mem = s.mem ∧
      (∀ g ∈ (dieAt t die).reds, g.cid = cid → g.c.tag = tag → g.left = none → s.now - g.since < 16000000) ∧
      (∀ g ∈ (dieAt s die).reds, g.cid = cid → g.c.tag = tag → g.left = none → 16000000 ≤ s.now - g.since → g.bad = false → ∀ x ∈ g.got, x.2.1 < 2 ^ 20 →
        ∀ q ∈ (coreOf t x.2.1).run, q.cmd.tok = x.2.2.1 → q.result = some (0x6F, 0, 0))) ∧
    (runAt s core r.cmd.tok = some r → r.result = none → cmdCode r.cmd = 0x40 →
      (32000000 ≤ s.now - r.started → ∃ t : State, exec (.collTimeout core r.cmd.tok) s = .next t ∧ Ends t core r 0x6F 0 0 ∧ LeavesScalar s t core) ∧
      (s.now - r.started < 32000000 → exec (.collTimeout core r.cmd.tok) s = .next s)) ∧
    (∀ die cid gid' round, ∃ t : State, exec (.roundForget die cid gid' round) s = .next t ∧
      ∀ e, e ∈ (dieAt t die).rounds ↔ e ∈ (dieAt s die).rounds ∧
        ¬ (e.cid = cid ∧ e.gid = gid' ∧ e.round = round ∧ ((e.state = 2 ∧ 1600000 ≤ s.now - e.at_) ∨ (e.running = [] ∧ 33600000 ≤ s.now - e.at_))))

/-- R375, R377, R383 to R386: the next packet of a request leaves with its PSN; an acknowledged packet is acknowledged, a lost one is sent again, and the
seventh loss or a refusal ends the request; a packet for another endpoint is refused, a repeat is answered with a SACK, and a SEND's bytes go, a word at a
time, to the buffer of the RECV that it matches, with its SACK due when they are placed. Where the spec leaves a point of this open the model chose: logs 15
and 43. -/
def Obligations.NicPackets : Prop :=
  ∀ (s : State) (die cid peer psn cum bitmap i : Nat) (q : NicPkt) (r : Wrq) (p : WPkt),
    let n := nicAt s die
    let ended := fun (st : Nat) (t : State) =>
      (∀ x ∈ (nicAt t die).wrqs, x.id ≠ r.id) ∧
      ((n.cq.filter fun x => decide (x.cid = r.cid)).length < 1024 → ∃ e, (nicAt t die).cq = n.cq ++ [e] ∧ e.cid = r.cid ∧ e.inc = r.inc ∧ e.utag = r.utag ∧ e.status = st)
    (n.wrqs[i]? = some r → (r.pkts.find? fun p => p.sent.isNone) = some p →
      ((n.wrqs.take i).all fun x => !(decide (x.op ≠ 3 ∧ x.cid = r.cid ∧ x.peer = r.peer) && x.pkts.any fun p => p.sent.isNone)) = true →
      ∃ t o, exec (.nicPacketSend die i) s = .next t ∧ (nicAt t die).out = n.out ++ [o] ∧ o.psn = p.psn ∧ o.scid = r.cid ∧ o.peer = r.peer ∧ o.offset = p.off ∧
        o.total = r.len ∧ o.data = (r.data.drop p.off).take p.n ∧ o.kind = r.op - 1 ∧ t.mem = s.mem ∧ t.cores = s.cores) ∧
    (∃ t : State, exec (.nicSackReceive die cid peer cum bitmap) s = .next t ∧
      ∀ x ∈ (nicAt t die).wrqs, x.op ≠ 3 → x.cid = cid → x.peer = peer → ∀ y ∈ x.pkts, y.sent.isSome = true → sackHas cum bitmap y.psn = true → y.acked = true) ∧
    ((waitingPkts s die cid peer).find? (fun x => decide (x.2.psn = psn)) = some (r, p) →
      (s.now - p.sent.getD s.now < 160000 → exec (.nicRetransmitTimeout die cid peer psn) s = .next s) ∧
      (160000 ≤ s.now - p.sent.getD s.now → p.resends < 7 →
        ∃ t o, exec (.nicRetransmitTimeout die cid peer psn) s = .next t ∧ (nicAt t die).out = n.out ++ [o] ∧ o.psn = p.psn ∧
          o.data = (r.data.drop p.off).take p.n ∧ t.cores = s.cores) ∧
      (160000 ≤ s.now - p.sent.getD s.now → 7 ≤ p.resends → ∃ t : State, exec (.nicRetransmitTimeout die cid peer psn) s = .next t ∧ ended 0x72 t) ∧
      ∃ t : State, exec (.nicRefusalReceive die cid peer psn) s = .next t ∧ ended 0x71 t) ∧
    (let id := (qregsOf s die q.pid).nicid
     let x := rxPair s die q
     let mine := n.wrqs.filter fun r => decide (r.op = 3 ∧ r.cid = q.pid) && incOk s (nicOf s die) r.cid r.inc
     (bit id 63 = false ∨ fld id 23 0 ≠ q.jobid →
       ∃ t : State, exec (.nicPacketReceive die q) s = .next t ∧ (nicAt t die).refusals = n.refusals ++ [(q.from_, q.scid, q.peer, q.psn)] ∧ t.cores = s.cores ∧
         t.mem = s.mem) ∧
     (bit id 63 = true → fld id 23 0 = q.jobid → psnLt q.psn x.cum = true ∨ q.psn ∈ x.got ∨ isPlacing s die q = true →
       ∃ t b, exec (.nicPacketReceive die q) s = .next t ∧ (nicAt t die).sacks = n.sacks ++ [(q.from_, q.scid, q.peer, x.cum, b)] ∧ t.cores = s.cores ∧
         t.mem = s.mem) ∧
     (bit id 63 = true → fld id 23 0 = q.jobid → psnLt q.psn x.cum = false → q.psn ∉ x.got → isPlacing s die q = false → q.kind ≠ 1 → q.msgno ∉ x.bad →
       (mine.find? fun r => decide (r.match_ = some (q.from_, q.scid, q.peer, q.msgno))) = none → (mine.find? fun r => r.match_.isNone) = some r →
       q.total ≤ r.len → q.offset + q.data.length ≤ r.len → r.lg = false → (coreOf s r.core).sealed_ = false →
       ∃ t : State, exec (.nicPacketReceive die q) s = .next t ∧ t.mem = s.mem ∧ (coreOf t r.core).lm = (coreOf s r.core).lm ∧
         chanQ t (nicOf s die) (niOf s r.core) 1 = chanQ s (nicOf s die) (niOf s r.core) 1 ++ ((pieces (q.data.length + 1) (r.buf + q.offset) q.data).map fun x =>
           { src := nicOf s die, dst := niOf s r.core, cls := 1, op := 6, cid := r.cid, inc := r.inc, slot := r.slot, len := 2,
             body := pieceBody x.1 x.2 false (2 ^ 59 + n.nextId) }) ∧
         -- it is acknowledged when its bytes are placed
         (nicAt t die).sacks = n.sacks ∧
         (nicAt t die).placing = n.placing ++ [{ id := n.nextId, cid := r.cid, inc := r.inc, pkt := { q with data := [] }, req := some r.id,
                                                 left := (pieces (q.data.length + 1) (r.buf + q.offset) q.data).length }]))

/-! ### Supervisor instructions (chapter 15) -/

namespace Sys2Proof.Stated

/-- A supervisor core at a supervisor instruction, with nothing outstanding. -/
def Asks (s : State) : Prop := isSup s.cur = true ∧ (cc s).wait = .idle ∧ (cc s).out = []

/-- The instruction writes a status, and the PC passes on; f says what the act leaves. -/
def Status (i : Instr) (s : State) (rd : Reg) (st : Nat) (f : State → Prop) : Prop :=
  ∃ t : State, exec i s = .next t ∧ rx (cc t) rd = (if rd = 0 then 0 else wd st) ∧ (∀ r, r ≠ rd → rx (cc t) r = rx (cc s) r) ∧ Passes s t ∧
    (cc t).restart = false ∧ f t

/-- The instruction begins an operation that agents acknowledge, and waits for it with its status unwritten. -/
def Begins (i : Instr) (s : State) (kind cid : Nat) (f : State → Op → Prop) : Prop :=
  ∃ t o, exec i s = .next t ∧ o ∈ t.ops ∧ o.kind = kind ∧ o.cid = cid ∧ o.core = s.cur ∧ (cc t).wait = .sup o.tok ∧ (cc t).x = (cc s).x ∧
    (cc t).pc = (cc s).pc ∧ (cc t).restart = false ∧ f t o

end Sys2Proof.Stated

/-- R276: a supervisor instruction is PRIV elsewhere; it waits while its operation is unacknowledged, and then its status is written. (A SLOTLOAD that reads its
area is no such operation.) -/
def Clauses.SupervisorCommon : Prop :=
  ∀ (s : State) (rd ra rb : Reg),
    ∀ i ∈ ([.ctxKill rd ra, .ctxRecl rd ra, .tlbinv rd ra rb, .rankset rd ra rb, .slotsave rd ra rb, .slotload rd ra rb, .resmove rd ra rb,
            .slotdrop rd ra, .halt rd ra rb] : List Instr),
      (isSup s.cur = false → exec i s = .next (takeTrap s s.cur 0x27 none)) ∧
      (∀ tok, isSup s.cur = true → (cc s).wait = .sup tok → loadOp s = none → exec i s = .next s) ∧
      (isSup s.cur = true → (cc s).wait = .idle → (cc s).out ≠ [] → exec i s = .next (setCC s (clearRestart (cc s) 5))) ∧
      (∀ st, isSup s.cur = true → (cc s).wait = .supDone st →
        ∃ t : State, exec i s = .next t ∧ rx (cc t) rd = (if rd = 0 then 0 else wd st) ∧ (cc t).wait = .idle ∧ (∀ r, r ≠ rd → rx (cc t) r = rx (cc s) r) ∧
          Passes s t ∧ OnlyCore s t)

/-- R277 to R287, R62, R65, R98, R162: what each supervisor instruction refuses, with its status, and what it does; a kill or a reclaim of a context whose home is
another chip is put to that chip. SLOTLOAD checks first, and then reads its area, during which a kill of the context stops it. -/
def Clauses.SupervisorInstructions : Prop :=
  (∀ (s : State) (rd ra rb : Reg), Asks s →
    let a := rx (cc s) ra
    let b := rx (cc s) rb
    let v := a.toNat
    let cid := v / 65536
    let rank := v % 65536
    let no := fun (i : Instr) (st : Nat) => Status i s rd st (OnlyCore s)
    (4096 ≤ v ∨ (∃ x, (cc s).act = some x ∧ x.cid = v) → no (.ctxKill rd ra) 0x66) ∧
    (v < 4096 → (∀ x, (cc s).act = some x → x.cid ≠ v) →
      (ctxFree (ctxOf s v) = true → no (.ctxKill rd ra) 0x4B) ∧
      (ctxFree (ctxOf s v) = false → homeChip s v ≠ s.chip →
        Begins (.ctxKill rd ra) s 6 v fun t o => o.left = [chipCode (homeChip s v)] ∧ t.ctxs = s.ctxs ∧ t.dies = s.dies) ∧
      (ctxFree (ctxOf s v) = false → homeChip s v = s.chip → killing s v = true → exec (.ctxKill rd ra) s = .next (setCC s (clearRestart (cc s) 5))) ∧
      (ctxFree (ctxOf s v) = false → homeChip s v = s.chip → killing s v = false → ctxUnrec (ctxOf s v) = 7 → no (.ctxKill rd ra) 1) ∧
      (ctxFree (ctxOf s v) = false → homeChip s v = s.chip → killing s v = false → ctxUnrec (ctxOf s v) < 7 →
        Begins (.ctxKill rd ra) s 0 v fun t _ =>
          ctxInc (ctxOf t v) = (ctxInc (ctxOf s v) + 1) % 4096 ∧ ctxUnrec (ctxOf t v) = ctxUnrec (ctxOf s v) + 1 ∧
          ∀ d, mget (dieAt t d).incTab v = some (ctxInc (ctxOf t v)))) ∧
    (4096 ≤ v → no (.ctxRecl rd ra) 0x66) ∧
    (v < 4096 → (ctxFree (ctxOf s v) = true → no (.ctxRecl rd ra) 0x4B) ∧
      (ctxFree (ctxOf s v) = false → homeChip s v ≠ s.chip →
        Begins (.ctxRecl rd ra) s 6 v fun t o => o.left = [chipCode (homeChip s v)] ∧ t.ctxs = s.ctxs ∧ t.dies = s.dies) ∧
      (ctxFree (ctxOf s v) = false → homeChip s v = s.chip → ctxUnrec (ctxOf s v) = 0 → no (.ctxRecl rd ra) 0) ∧
      (ctxFree (ctxOf s v) = false → homeChip s v = s.chip → ctxUnrec (ctxOf s v) ≠ 0 →
        Begins (.ctxRecl rd ra) s 1 v fun t o => o.sample = ctxInc (ctxOf s v) ∧ (∀ x ∈ killAgents s, x ∈ o.left) ∧ t.ctxs = s.ctxs)) ∧
    (tlbinvOk a b = false → no (.tlbinv rd ra rb) 0x66) ∧
    (tlbinvOk a b = true →
      (bit b 62 = false → ctxFree (ctxOf s (fld b 59 48)) = true → no (.tlbinv rd ra rb) 0x4B) ∧
      (bit b 62 = true ∨ ctxFree (ctxOf s (fld b 59 48)) = false →
        Begins (.tlbinv rd ra rb) s 2 (fld b 59 48) fun _ o => o.arg = a.toNat ∧ o.arg2 = b.toNat ∧ ∀ x ∈ allRtus, x ∈ o.left)) ∧
    (2 ^ 28 ≤ v ∨ fld b 38 0 ≠ 0 ∨ 648 ≤ fld b 50 41 ∨ rankMove (reState (rankEntry s cid rank)) (reState b) = false → no (.rankset rd ra rb) 0x66) ∧
    (v < 2 ^ 28 → fld b 38 0 = 0 → fld b 50 41 < 648 → rankMove (reState (rankEntry s cid rank)) (reState b) = true →
      (ctxFree (ctxOf s cid) = true → no (.rankset rd ra rb) 0x4B) ∧
      (ctxFree (ctxOf s cid) = false → reChip b ∉ spanOf s cid → no (.rankset rd ra rb) 0x65) ∧
      (ctxFree (ctxOf s cid) = false → reState b = 1 → reChip b = s.chip → coreUsable s (reCore b) (ctxPart (ctxOf s cid)) = false → no (.rankset rd ra rb) 0x65) ∧
      (ctxFree (ctxOf s cid) = false → reChip b ∈ spanOf s cid →
        (reState b = 1 → reChip b = s.chip → coreUsable s (reCore b) (ctxPart (ctxOf s cid)) = true) →
        Begins (.rankset rd ra rb) s 3 cid fun t o => o.arg = rank ∧ rankEntry t cid rank = b ∧ ∀ c ∈ allCores, c ∈ o.left)) ∧
    (∀ st, leaveCheck s v (!areaOk s b) = .inl st → no (.slotsave rd ra rb) st) ∧
    (∀ c slot r, leaveCheck s v (!areaOk s b) = .inr (c, slot, r) → saveLen (savePieces (coreOf s c) slot) ≤ 2 ^ 22 → Memory.wf s.mem = true →
      Status (.slotsave rd ra rb) s rd 0 fun t =>
        slotOf (coreOf t c) slot = freeSaved (slotOf (coreOf s c) slot) ∧ areaWord t b.toNat 0 = wd (0x534C4F54 * 2 ^ 32 + 1) ∧
        areaWord t b.toNat 16 = wd (saveLen (savePieces (coreOf s c) slot)) ∧
        ∀ x, (x < b.toNat ∨ b.toNat + saveLen (savePieces (coreOf s c) slot) ≤ x) → rdByte t.mem x = rdByte s.mem x) ∧
    (coordOk s a = false ∨ areaOk s b = false → no (.slotload rd ra rb) 0x66) ∧
    (coordOk s a = true → areaOk s b = true →
      ((slotOf (coreOf s (reCore a)) (reSlot a)).resident ≠ none → no (.slotload rd ra rb) 1) ∧
      ((slotOf (coreOf s (reCore a)) (reSlot a)).resident = none →
        let pa := b.toNat
        (hdrBad s pa = true → no (.slotload rd ra rb) 0x67) ∧
        (∀ st, hdrBad s pa = false → targetCheck s (reCore a) (reSlot a) (areaRes s pa) (areaRegions s pa) (savedFrom s (areaWord s pa 24)) false = some st →
          no (.slotload rd ra rb) st) ∧
        (hdrBad s pa = false → targetCheck s (reCore a) (reSlot a) (areaRes s pa) (areaRegions s pa) (savedFrom s (areaWord s pa 24)) false = none →
          Begins (.slotload rd ra rb) s 9 (areaRes s pa).cid fun t o => o.arg = (areaRes s pa).inc ∧ t.mem = s.mem ∧ t.dies = s.dies))) ∧
    (∀ st, leaveCheck s v (!coordOk s b) = .inl st → no (.resmove rd ra rb) st) ∧
    (∀ c slot r, leaveCheck s v (!coordOk s b) = .inr (c, slot, r) →
      ((slotOf (coreOf s (reCore b)) (reSlot b)).resident ≠ none → no (.resmove rd ra rb) 1) ∧
      ((slotOf (coreOf s (reCore b)) (reSlot b)).resident = none →
        (∀ st, targetCheck s (reCore b) (reSlot b) r (slotOf (coreOf s c) slot).rg.toList (some (c, slot)) true = some st → no (.resmove rd ra rb) st) ∧
        (targetCheck s (reCore b) (reSlot b) r (slotOf (coreOf s c) slot).rg.toList (some (c, slot)) true = none →
          Memory.wf (coreOf s (reCore b)).lm = true →
          Status (.resmove rd ra rb) s rd 0 fun t =>
            slotOf (coreOf t (reCore b)) (reSlot b) =
              { slotOf (coreOf s c) slot with queues := (slotOf (coreOf s c) slot).queues.map fun q => { q with served := 0 } } ∧ slotOf (coreOf t c) slot = {} ∧ t.mem = s.mem ∧
            ∀ x ∈ slotSpans (slotOf (coreOf s c) slot), ∀ p, x.1 ≤ p → p < x.1 + x.2 → rdByte (coreOf t (reCore b)).lm p = rdByte (coreOf s c).lm p))) ∧
    (coordOk s a = false → no (.slotdrop rd ra) 0x66) ∧
    (coordOk s a = true → 648 ≤ agentOf (reCore a) → no (.slotdrop rd ra) 0x65) ∧
    (coordOk s a = true → agentOf (reCore a) < 648 →
      let k := coreOf s (reCore a)
      ((slotOf k (reSlot a)).resident = none → no (.slotdrop rd ra) 0) ∧
      (∀ r, (slotOf k (reSlot a)).resident = some r → ctxInc (ctxOf s r.cid) = r.inc → reState (rankEntry s r.cid r.rank) ≠ 2 → no (.slotdrop rd ra) 0x66) ∧
      (∀ r, (slotOf k (reSlot a)).resident = some r → (ctxInc (ctxOf s r.cid) = r.inc → reState (rankEntry s r.cid r.rank) = 2) →
        (quiescent k (reSlot a) = false → no (.slotdrop rd ra) 1) ∧
        (quiescent k (reSlot a) = true → Status (.slotdrop rd ra) s rd 0 fun t =>
          slotOf (coreOf t (reCore a)) (reSlot a) = {} ∧ endsOf (coreOf t (reCore a)) r.cid r.rank = [] ∧ t.mem = s.mem))) ∧
    (coordOk s a = false ∨ reSlot a ≠ 0 ∨ 1 < b.toNat ∨ isSup (reCore a) = true → no (.halt rd ra rb) 0x66) ∧
    (coordOk s a = true → reSlot a = 0 → b.toNat ≤ 1 → isSup (reCore a) = false →
      let c := reCore a
      (648 ≤ agentOf c ∨ (isCompute c = true ∧ rowOf c ∈ s.retired) → no (.halt rd ra rb) 0x65) ∧
      (agentOf c < 648 → (isCompute c = true → rowOf c ∉ s.retired) →
        (b.toNat = 1 → Status (.halt rd ra rb) s rd 0 fun t =>
          coreOf t c = { coreOf s c with stopped := false, pend := (coreOf t c).pend }) ∧
        (b.toNat = 0 → (coreOf s c).act = none → (coreOf s c).succ = none → (coreOf s c).gates = [] →
          Status (.halt rd ra rb) s rd 0 fun t => coreOf t c = { coreOf s c with stopped := true }) ∧
        (b.toNat = 0 → (coreOf s c).act ≠ none →
          ∃ t : State, exec (.halt rd ra rb) s = .next t ∧ (cc t).pc = (cc s).pc ∧ (cc t).x = (cc s).x ∧ ((coreOf s c).stopped = false → (coreOf t c).pend = true) ∧
            coreOf t c = { coreOf s c with stopped := true, pend := (coreOf t c).pend, wait := (coreOf t c).wait, out := (coreOf t c).out })))) ∧
  ∀ (s : State) (rd ra rb : Reg) (o : Op), loadOp s = some o →
    let w := rx (cc s) ra
    let pa := (rx (cc s) rb).toNat
    let s' := { s with ops := s.ops.filter fun x => !decide (x.tok = o.tok) }
    let len := (areaWord s pa 16).toNat
    let tagged := saveTag s (areaRes s pa).cid (areaWord s pa 32).toNat (rdBytes s.mem pa 40 ++ List.replicate 8 0 ++ rdBytes s.mem (pa + 48) (len - 48)) = areaWord s pa 40
    let ends := fun (st : Nat) (f : State → Prop) =>
      ∃ t : State, exec (.slotload rd ra rb) s = .next t ∧ rx (cc t) rd = (if rd = 0 then 0 else wd st) ∧ (∀ r, r ≠ rd → rx (cc t) r = rx (cc s) r) ∧ Passes s t ∧
        (cc t).wait = .idle ∧ f t
    (ctxInc (ctxOf s o.cid) ≠ o.arg ∨ killing s o.cid = true → ends 0x47 fun t => t.mem = s.mem ∧ t.dies = s.dies) ∧
    (ctxInc (ctxOf s o.cid) = o.arg → killing s o.cid = false →
      (∀ st, loadCheck s' w (rx (cc s) rb) = some st → ends st fun t => t.mem = s.mem) ∧
      (loadCheck s' w (rx (cc s) rb) = none → memBad s pa len = true ∨ ¬ tagged → homeChip s (areaRes s pa).cid = s.chip → killing s' (areaRes s pa).cid = false →
        ctxUnrec (ctxOf s (areaRes s pa).cid) < 7 → ends 0x49 fun t => killing t (areaRes s pa).cid = true) ∧
      (loadCheck s' w (rx (cc s) rb) = none → memBad s pa len = false → tagged →
        ends 0 fun t =>
          (slotOf (coreOf t (reCore w)) (reSlot w)).resident = some (areaRes s pa) ∧ t.mem = s.mem ∧
          (slotOf (coreOf t (reCore w)) (reSlot w)).xb = areaWord s pa 128 &&& 0x00000000000FFF00 ∧
          (slotOf (coreOf t (reCore w)) (reSlot w)).trapvec = areaWord s pa 136 &&& 0x800000000007FFFC ∧
          ∀ n, n < 7 → rgOf (slotOf (coreOf t (reCore w)) (reSlot w)) n = (areaRegions s pa).getD n 0))

/-! ### The other agents: host windows and device registers (chapters 3, 4, 8) -/

/-- R52, R53, R80 to R83, R136, R163, R166: what the host and the firmware reach. A host's read gives a register's word; reading WSTAT clears REJ; a
submission is accepted with a credit, or rejected and counted; an access of a wrong width or alignment is counted in REGERR; a threshold's CTL takes no
reserved selection; and a migration window holds, refuses a pinned page, and lets its held requests go to the new page. Where the spec leaves a point of this
open the model chose: log 44. -/
def Obligations.HostAndRegisters : Prop :=
  ∀ (s : State) (die cid off u n : Nat) (data : List Byte) (v : Word),
    let d := dieAt s die
    let w := migOf s die n
    let size := if fld v 60 59 = 0 then 2 ^ 15 else if fld v 60 59 = 1 then 2 ^ 24 else 2 ^ 33
    let base := fld v 55 15 * 2 ^ 15 / size * size
    (cid < 4096 →
      ∃ t : State, exec (.wstatRead die cid) s = .next t ∧
        t.hostOut = s.hostOut ++ [wd (mgetD d.rej cid 0 * 2 ^ 32 + mgetD d.acc cid 0 * 2 ^ 16 + mgetD d.cred cid 64)] ∧ mgetD (dieAt t die).rej cid 0 = 0 ∧
        (dieAt t die).acc = d.acc ∧ (dieAt t die).cred = d.cred ∧ t.cores = s.cores ∧ t.mem = s.mem ∧ t.subs = s.subs) ∧
    (off < 0x800 →
      let ok := data.length = 64 ∧ off % 64 = 0 ∧ 0 < mgetD d.cred cid 64 ∧ recBad (leWords 8 data) = false ∧ ctxFree (ctxOf s cid) = false ∧ s.boot.state ≠ 3
      (ok → ∃ t : State, exec (.windowSubmission die cid off data) s = .next t ∧
        t.subs = s.subs ++ [{ die := die, cid := cid, inc := ctxInc (ctxOf s cid), words := leWords 8 data, ans := none }] ∧
        mgetD (dieAt t die).cred cid 64 = mgetD d.cred cid 64 - 1 ∧ mgetD (dieAt t die).acc cid 0 = (mgetD d.acc cid 0 + 1) % 2 ^ 16 ∧
        (dieAt t die).rej = d.rej ∧ t.cores = s.cores ∧ t.mem = s.mem) ∧
      (¬ ok → ∃ t : State, exec (.windowSubmission die cid off data) s = .next t ∧ t.subs = s.subs ∧
        mgetD (dieAt t die).rej cid 0 = min (mgetD d.rej cid 0 + 1) 0xFFFF ∧ (dieAt t die).cred = d.cred ∧ (dieAt t die).acc = d.acc ∧
        t.cores = s.cores ∧ t.mem = s.mem)) ∧
    (∀ wd_, die < 2 → (∀ c o, regAt off ≠ .window c o) → wd_ ≠ 8 ∨ off % 8 ≠ 0 → exec (.registerWrite die off wd_ v) s = .next (count s die 3)) ∧
    (die < 2 → off % 8 = 0 →
      (regAt off = .none_ → exec (.registerWrite die off 8 v) s = .next (count s die 3)) ∧
      (regAt off = .boot → exec (.registerWrite die off 8 v) s = .next s) ∧
      (regAt off = .thr u 1 → ∃ t : State, exec (.registerWrite die off 8 v) s = .next t ∧ thrOf t die u = { thrOf s die u with thresh := v } ∧ t.cores = s.cores) ∧
      (∀ c, regAt off = .qreg c 0 → ∃ t : State, exec (.registerWrite die off 8 v) s = .next t ∧
        (qregsOf t die c).fqbase = wd (fld v 63 63 * 2 ^ 63 + fld v 56 6 * 64) ∧ (qregsOf t die c).frbase = (qregsOf s die c).frbase ∧ t.cores = s.cores) ∧
      (∀ c, regAt off = .qreg c 1 → ∃ t : State, exec (.registerWrite die off 8 v) s = .next t ∧
        (qregsOf t die c).fqsize = wd (max 4 (min 20 (fld v 4 0))) ∧ (qregsOf t die c).fqbase = (qregsOf s die c).fqbase ∧ t.cores = s.cores) ∧
      (∀ c i, regAt off = .peer c i 2 → ∃ t : State, exec (.registerWrite die off 8 v) s = .next t ∧ peerWord t die c i 2 = v ∧ t.cores = s.cores)) ∧
    (∀ x, x < 2 → off % 8 = 0 →
      let reads := fun (w : Word) => exec (.registerWrite (9 + x) off 8 v) s = .next { s with hostOut := s.hostOut ++ [w] }
      (regAt off = .boot → reads (bootstat s)) ∧ (∀ p i, regAt off = .port p i → reads (portWord (portOf s (portKey x p)) i)) ∧
      (regAt off = .thr u 0 → reads (thrOf s x u).ctl) ∧ (∀ c i, regAt off = .qreg c i → reads (qregRead s x c i))) ∧
    (let sel := if 5 < fld v 55 48 then fld (thrOf s die u).ctl 55 48 else fld v 55 48
     ∃ t : State, exec (.thresholdCtlWrite die u v) s = .next t ∧ fld (thrOf t die u).ctl 63 62 = fld v 63 62 ∧ fld (thrOf t die u).ctl 55 48 = sel ∧
       fld (thrOf t die u).ctl 47 41 = fld v 47 41 ∧ fld (thrOf t die u).ctl 40 0 = 0 ∧ (thrOf t die u).thresh = (thrOf s die u).thresh ∧
       (5 < fld v 55 48 → (dieAt t die).counters[3] = (d.counters[3] + 1) % 2 ^ 32) ∧ (fld v 55 48 ≤ 5 → (dieAt t die).counters = d.counters) ∧
       t.cores = s.cores ∧ t.mem = s.mem) ∧
    (fld v 63 62 = 1 → fld v 60 59 = 3 → exec (.migwinHold die n v) s = .next s) ∧
    (fld v 63 62 = 1 → fld v 60 59 < 3 → pinned s base size = true →
      ∃ t : State, exec (.migwinHold die n v) s = .next t ∧ fld (migOf t die n).w0 63 62 = fld w.w0 63 62 ∧ bit (migOf t die n).w0 61 = true ∧
        (migOf t die n).held = w.held ∧ t.cores = s.cores ∧ t.mem = s.mem) ∧
    (fld v 63 62 = 1 → fld v 60 59 < 3 → pinned s base size = false →
      ∃ t : State, exec (.migwinHold die n v) s = .next t ∧ fld (migOf t die n).w0 63 62 = 1 ∧ bit (migOf t die n).w0 61 = false ∧
        fld (migOf t die n).w0 60 59 = fld v 60 59 ∧ fld (migOf t die n).w0 55 15 = fld v 55 15 ∧ (migOf t die n).w1 = w.w1 ∧
        (migOf t die n).held = w.held ∧ t.cores = s.cores ∧ t.mem = s.mem) ∧
    (∃ t : State, exec (.migwinRelease die n) s = .next t ∧ fld (migOf t die n).w0 63 62 = 0 ∧ (migOf t die n).held = [] ∧ t.cores = s.cores ∧ t.mem = s.mem) ∧
    (∃ t : State, exec (.migwinClose die n) s = .next t ∧ fld (migOf t die n).w0 63 62 = 0 ∧ (migOf t die n).held = [] ∧ t.cores = s.cores ∧ t.mem = s.mem) ∧
    (∀ p a z tok, w.held = [p] → p.body = .load a z tok →
      let mv := fld w.w1 55 15 * 2 ^ 15 + (a - (migPage w).1) % (migPage w).2
      agChip (homeOf s die mv) = s.chip →
      ∃ t : State, exec (.migwinRelease die n) s = .next t ∧
        chanQ t p.src (homeOf s die mv) p.cls = chanQ s p.src (homeOf s die mv) p.cls ++ [{ p with dst := homeOf s die mv, body := .load mv z tok }])

/-! ### Translation (chapter 8) -/

namespace Sys2Proof.Stated

/-- A request of a core that waits at its issue point for the answer. -/
def AtIssue (s : State) (q : XReq) : Prop := q.cls ≠ 9 ∧ q.pkt = none ∧ (coreOf s q.core).wait = .xl q.tok

/-- What a walk's reads leave of the cores: lines that they bring to their slices may push others out, which wakes waits there (09 R182). -/
def CoresButWakes (s t : State) : Prop := ∀ c, coreOf t c = { coreOf s c with wait := (coreOf t c).wait, out := (coreOf t c).out }

end Sys2Proof.Stated

/-- R154 to R162: a request is answered from the TLB or given a walker; a walk whose reads no migration window holds goes on one level, ends in a translation
that the TLB keeps, or in a report that holds it; RETRY, FAIL and 100 ms resolve a report; an invalidation removes what its range touches and is acknowledged
once DRAIN is met. Where the spec leaves a point of this open the model chose: logs 24, 25 and 48. -/
def Obligations.TranslationSteps : Prop :=
  ∀ (s : State) (die n : Nat),
    let r := rtuAt s die n
    (∀ q rest e, r.queue = q :: rest → rtuWaits r q = false → incOk s (rtuAgent die n) q.cid q.inc = true → n ≠ 81 → tlbHit r q = some e → AtIssue s q →
      ∃ t : State, exec (.translationRequest die n) s = .next t ∧ (coreOf t q.core).wait = .xlOk (e.pa + q.va % e.size) e.unc ∧ (rtuAt t die n).queue = rest ∧
        t.mem = s.mem) ∧
    (∀ q rest, r.queue = q :: rest → rtuWaits r q = false → incOk s (rtuAgent die n) q.cid q.inc = true → n ≠ 81 → tlbHit r q = none →
      heldWalk r q = none → (∀ w ∈ r.walkers, ¬ (w.cid = q.cid ∧ w.va / 2 ^ 15 = q.va / 2 ^ 15)) → r.walkers.length < 8 →
      ∃ t w, exec (.translationRequest die n) s = .next t ∧ (rtuAt t die n).walkers = r.walkers ++ [w] ∧ w.reqs = [q] ∧ w.cid = q.cid ∧ w.va = q.va ∧
        (r.wcache = [] → w.lvl = 1 ∧ w.node = s1root s q.cid) ∧ (rtuAt t die n).queue = rest ∧ t.cores = s.cores ∧ t.mem = s.mem) ∧
    (∀ i w q qs, r.walkers[i]? = some w → w.reqs = q :: qs →
      let reads := walkReads s (movedTo w.moved) w.cid w.va w.lvl w.node (s2Held r (ctxPart (ctxOf s w.cid)) w.node)
      let free := ∀ a ∈ reads, paChip a = s.chip → migHeld s (paDie a) a = none
      (r.wcache = [] → w.moved = [] → walkAt s r w q = walkLevel s w.cid w.va q.acc q.rp w.lvl w.node) ∧
      (¬ free → exec (.walkStep die n i) s = .next (updRtu s die n fun r => { r with walkers := r.walkers.set i { w with held := true } })) ∧
      (∀ node, free → walkAt s r w q = .more node →
        ∃ t : State, exec (.walkStep die n i) s = .next t ∧
          (rtuAt t die n).walkers = r.walkers.set i { w with lvl := w.lvl + 1, node := node, held := false, moved := [] } ∧ CoresButWakes s t ∧ t.mem = s.mem) ∧
      (∀ e, free → walkAt s r w q = .ok e → AtIssue s q →
        ∃ t : State, exec (.walkStep die n i) s = .next t ∧ (rtuAt t die n).walkers = r.walkers.eraseIdx i ∧ e ∈ (rtuAt t die n).tlb ∧
          (coreOf t q.core).wait = .xlOk (e.pa + q.va % e.size) e.unc ∧ (rtuAt t die n).queue = qs ++ r.queue ∧ t.mem = s.mem) ∧
      (free → walkAt s r w q = .xlate → AtIssue s q →
        ∃ t : State, exec (.walkStep die n i) s = .next t ∧ (coreOf t q.core).wait = .xlFail 0x26 ∧ (rtuAt t die n).fslots = r.fslots ∧ t.mem = s.mem) ∧
      (∀ kind lvl why paddr, free → walkAt s r w q = .fault kind lvl why paddr → kind ≠ 1 → qs = [] → r.fslots = [] →
        ∃ t f, exec (.walkStep die n i) s = .next t ∧ (rtuAt t die n).fslots = [f] ∧ f.idx = 0 ∧ f.kind = kind ∧ f.level = lvl ∧ f.why = why ∧ f.va = q.va ∧
          f.paddr = paddr ∧ f.cid = q.cid ∧ f.seq = r.seq ∧ f.reqs = [q] ∧ f.since = s.now ∧
          (dieAt t die).pmRing = (dieAt s die).pmRing ++ [faultWords die n f q] ∧ t.mem = s.mem)) ∧
    (∀ f v c, (r.fslots.find? fun f => decide (f.idx = fld v 15 12)) = some f → fld v 22 16 = n → f.seq = fld v 11 0 → (∀ q ∈ f.reqs, q.cls ≠ 9) →
      let freed := r.fslots.filter fun x => !decide (x.idx = f.idx)
      (fld v 63 62 = 1 → f.kind = 1 → f.cid = c →
        ∃ t : State, exec (.fresRetry die c v) s = .next t ∧ (rtuAt t die n).fslots = freed ∧ (rtuAt t die n).queue = f.reqs ++ r.queue ∧ t.mem = s.mem) ∧
      (fld v 63 62 = 1 → f.kind ≠ 1 →
        ∃ t : State, exec (.s2resRetry die v) s = .next t ∧ (rtuAt t die n).fslots = freed ∧ (rtuAt t die n).queue = f.reqs ++ r.queue ∧ t.mem = s.mem) ∧
      (∀ q, fld v 63 62 = 2 → f.kind = 1 → f.cid = c → f.reqs = [q] → AtIssue s q →
        ∃ t : State, exec (.fresFail die c v) s = .next t ∧ (rtuAt t die n).fslots = freed ∧ (coreOf t q.core).wait = .xlFail 0x26 ∧ t.mem = s.mem) ∧
      (∀ q, fld v 63 62 = 2 → f.kind ≠ 1 → f.reqs = [q] → AtIssue s q →
        ∃ t : State, exec (.s2resFail die v) s = .next t ∧ (rtuAt t die n).fslots = freed ∧ (coreOf t q.core).wait = .xlFail 0x26 ∧ t.mem = s.mem)) ∧
    (∀ f v c, (r.fslots.find? fun f => decide (f.idx = fld v 15 12)) = some f → fld v 22 16 = n → f.seq ≠ fld v 11 0 →
      (fld v 63 62 = 1 → exec (.fresRetry die c v) s = .next (count s die 3) ∧ exec (.s2resRetry die v) s = .next (count s die 3)) ∧
      (fld v 63 62 = 2 → exec (.fresFail die c v) s = .next (count s die 3) ∧ exec (.s2resFail die v) s = .next (count s die 3))) ∧
    (∀ f q, (r.fslots.find? fun x => decide (x.idx = f.idx)) = some f →
      (s.now - f.since < 160000000 → exec (.fstoExpire die n f.idx) s = .next s) ∧
      (160000000 ≤ s.now - f.since → f.reqs = [q] → AtIssue s q →
        ∃ t : State, exec (.fstoExpire die n f.idx) s = .next t ∧ (rtuAt t die n).fslots = (r.fslots.filter fun x => !decide (x.idx = f.idx)) ∧
          (coreOf t q.core).wait = .xlFail 0x26 ∧ t.mem = s.mem)) ∧
    (∀ o, (s.ops.find? fun x => decide (x.tok = o.tok ∧ x.kind = 2 ∧ die * 128 + n ∈ x.todo)) = some o →
      ∃ t await, exec (.tlbinvArrive die n o.tok) s = .next t ∧ (rtuAt t die n).tlb = (r.tlb.filter fun e => !tlbGone o e) ∧
        (rtuAt t die n).wcache = (r.wcache.filter fun e => !wcGone o e) ∧ (rtuAt t die n).invs = r.invs ++ [(o.tok, await)] ∧
        (invDrain o = false → await = []) ∧ (∀ w ∈ (rtuAt t die n).walkers, invCtx s o w.cid = true → w.lvl = 1 ∧ w.node = s1root s w.cid) ∧ t.mem = s.mem) ∧
    (∀ tok x, (r.invs.find? fun x => decide (x.1 = tok)) = some x →
      ((∃ y ∈ x.2, stillAwaited s y = true) → exec (.tlbinvAck die n tok) s = .next s) ∧
      ((∀ y ∈ x.2, stillAwaited s y = false) →
        ∃ t : State, exec (.tlbinvAck die n tok) s = .next t ∧ (rtuAt t die n).invs = r.invs.erase x ∧ t.cores = s.cores ∧ t.mem = s.mem ∧
          ∀ o ∈ s.ops, o.tok = tok → { o with back := o.back ++ [die * 128 + n] } ∈ t.ops)) ∧
    (∀ o, die < 2 → (s.ops.find? fun x => decide (x.tok = o.tok ∧ x.kind = 2 ∧ die * 128 + n ∈ x.back)) = some o → opOf s o.tok = some o →
      o.left = [die * 128 + n] → o.org = none → o.asked = none → (coreOf s o.core).wait = .sup o.tok →
      ∃ t : State, exec (.tlbinvAckReceive die n o.tok) s = .next t ∧ (coreOf t o.core).wait = .supDone 0 ∧ (∀ x ∈ t.ops, x.tok ≠ o.tok) ∧ t.mem = s.mem) ∧
    (∀ a, ∃ t : State, exec (.lineEvict a) s = .next t ∧ a / 64 ∉ t.lines ∧ (∀ l, l ≠ a / 64 → (l ∈ t.lines ↔ l ∈ s.lines)) ∧ t.mem = s.mem)

/-! ### The links (chapter 1) -/

namespace Sys2Proof.Stated

/-- The step answers a next state in which one port is q; every other port and every other part of the package stay. -/
def PortBecomes (i : Instr) (s : State) (port : Nat) (q : Port) : Prop :=
  ∃ t : State, exec i s = .next t ∧ portOf t port = q ∧ t = { s with ports := t.ports } ∧ ∀ k, k ≠ port → portOf t k = portOf s k

/-- The port asks for a step of a flit's recovery: one request flit more to send, with its number and the step. -/
def AsksStep (p q : Port) (lseq step : Nat) : Prop :=
  ∃ x : Flit, q.tx = p.tx ++ [x] ∧ x.kind = 3 ∧ crcOk x = true ∧ x.lseq = lseq ∧ x.payload.take 3 = leBytes 2 lseq ++ [BitVec.ofNat 8 step]

/-- Data or idle flit f is delivered in its turn to a port that holds none: its granules join those of its class, and its acknowledgement and credits count. -/
def DeliveredFlit (p q : Port) (f : Flit) : Prop :=
  let whole := (cutPackets 16 (mgetD p.asm f.cls [] ++ f.payload)).1
  let rest := (cutPackets 16 (mgetD p.asm f.cls [] ++ f.payload)).2
  q.rxSeq = (p.rxSeq + 1) % 4096 ∧ q.held = [] ∧ q.state = p.state ∧ q.tx = p.tx ∧
  (∀ x, x ∈ q.replay ↔ x ∈ p.replay ∧ 2048 ≤ (f.ackseq + 4096 - x.flit.lseq) % 4096) ∧
  mgetD q.credits f.crcls 0 = mgetD p.credits f.crcls 0 + f.crcnt ∧
  (f.kind ≠ 0 → q.rxFlits = p.rxFlits ∧ q.rxPkts = p.rxPkts ∧ q.asm = p.asm ∧ q.owed = p.owed) ∧
  (f.kind = 0 → q.rxFlits = p.rxFlits ++ [f] ∧ q.rxPkts = p.rxPkts ++ whole ∧ mgetD q.asm f.cls [] = rest ∧
    mgetD q.owed f.cls 0 = mgetD p.owed f.cls 0 + (whole.map fun b => b.length / 16).sum)

/-- An idle flit is sent: it takes an LSEQ and stays in the replay buffer until it is acknowledged. -/
def SendsIdle (p q : Port) : Prop :=
  ∃ x : Flit, q.tx = p.tx ++ [x] ∧ x.kind = 1 ∧ crcOk x = true ∧ x.lseq = p.txSeq ∧ x.ackseq = (p.rxSeq + 4095) % 4096 ∧
    q.replay = p.replay ++ [{ flit := x, pkts := [] }] ∧ q.txSeq = (p.txSeq + 1) % 4096 ∧ q.credits = p.credits ∧ q.state = p.state

end Sys2Proof.Stated

/-- R17, R19, R20: a flit arrives at a port. A whole one in sequence is delivered, one behind a flit in recovery is held, up to 64, a protocol error makes the link
retrain; a damaged one is stored and its recovery asked for, a ninth one makes the link retrain. On the die-to-die link an error is recovered by replay. -/
def Clauses.FlitArrivals : Prop :=
  ∀ (s : State) (port : Nat) (f : Flit),
    let p := portOf s port
    let failed := { p with crcfail := (p.crcfail + 1) % 2 ^ 32 }
    (isLink port = false ∨ portUp p = false → exec (.flitReceive port f) s = .next s) ∧
    (isLink port = true → portUp p = true →
      (crcOk f = true → 5 ≤ f.kind ∨ f.rsv ≠ 0 → PortBecomes (.flitReceive port f) s port (retrained s.now p)) ∧
      (port % 32 = 18 →
        (crcOk f = true → f.kind ≤ 4 → f.rsv = 0 → PortBecomes (.flitReceive port f) s port p) ∧
        (crcOk f = false → PortBecomes (.flitReceive port f) s port { failed with replayed := (p.replayed + 1) % 2 ^ 32 }))) ∧
    (isPort port = true → portUp p = true →
      (crcOk f = true → f.kind ≤ 1 → f.rsv = 0 →
        (p.recov = [] → p.held = [] → f.lseq = p.rxSeq → p.rxSeq < 4096 →
          ∃ q, PortBecomes (.flitReceive port f) s port q ∧ DeliveredFlit p q f ∧ q.recov = []) ∧
        (p.recov.find? (fun r => decide (r.lseq = f.lseq ∧ r.step = 3)) = none →
          (f.lseq ≠ wantSeq p → PortBecomes (.flitReceive port f) s port (takeAcks p f)) ∧
          (f.lseq = wantSeq p → f.lseq ≠ p.rxSeq → (∀ x ∈ p.held, x.lseq ≠ p.rxSeq) →
            (p.held.length < 64 → PortBecomes (.flitReceive port f) s port { takeAcks p f with held := p.held ++ [f] }) ∧
            (64 ≤ p.held.length → PortBecomes (.flitReceive port f) s port (retrained s.now p))))) ∧
      (crcOk f = false → p.recov.find? (fun r => decide (r.lseq = f.lseq ∧ r.step = 3)) = none →
        (p.recov.length < 8 →
          ∃ q r, PortBecomes (.flitReceive port f) s port q ∧ q.crcfail = (p.crcfail + 1) % 2 ^ 32 ∧ AsksStep p q (wantSeq p) 1 ∧ r ∈ q.recov ∧ r.flit = f ∧
            r.lseq = wantSeq p ∧ r.step = 1 ∧ r.asked = s.now ∧ r.first = s.now ∧ r.again = false ∧ q.recov.length = p.recov.length + 1 ∧
            q.rxSeq = p.rxSeq ∧ q.rxFlits = p.rxFlits ∧ q.held = p.held ∧ q.replay = p.replay ∧ q.state = p.state) ∧
        (8 ≤ p.recov.length → PortBecomes (.flitReceive port f) s port (retrained s.now failed))) ∧
      (∀ r, crcOk f = false → p.recov.find? (fun r => decide (r.lseq = f.lseq ∧ r.step = 3)) = some r →
        (1 ≤ r.replays → PortBecomes (.flitReceive port f) s port (retrained s.now failed)) ∧
        (r.replays = 0 → ∃ q x, PortBecomes (.flitReceive port f) s port q ∧ q.crcfail = (p.crcfail + 1) % 2 ^ 32 ∧ AsksStep p q r.lseq 3 ∧ x ∈ q.recov ∧
          x.lseq = r.lseq ∧ x.flit = f ∧ x.replays = 1 ∧ x.step = 3 ∧ x.first = r.first)))

/-- R21 to R23: a damaged flit is recovered by two parity increments and then a replay, with one repeat of each request after 1 µs; one not delivered after 6 µs
makes the link retrain. -/
def Clauses.FlitRecovery : Prop :=
  ∀ (s : State) (port : Nat) (f : Flit),
    let p := portOf s port
    (isPort port = false ∨ portUp p = false →
      exec (.parityIncrementReceive port f) s = .next s ∧ ∀ lseq step, exec (.recoveryRequestReceive port lseq step) s = .next s) ∧
    (isPort port = true → portUp p = true →
      (∀ lseq, p.replay.find? (fun y => decide (y.flit.lseq = lseq)) = none → ∀ step, exec (.recoveryRequestReceive port lseq step) s = .next s) ∧
      (∀ lseq x, p.replay.find? (fun y => decide (y.flit.lseq = lseq)) = some x →
        (∀ step, step = 1 ∨ step = 2 → ∃ y : Flit, PortBecomes (.recoveryRequestReceive port lseq step) s port { p with tx := p.tx ++ [y] } ∧ y.kind = 2 ∧
          crcOk y = true ∧ y.payload = fitBytes 240 (parityPay x.flit step)) ∧
        PortBecomes (.recoveryRequestReceive port lseq 3) s port { p with tx := p.tx ++ [x.flit], replayed := (p.replayed + 1) % 2 ^ 32 }) ∧
      (crcOk f = true → 5 ≤ f.kind ∨ f.rsv ≠ 0 → PortBecomes (.parityIncrementReceive port f) s port (retrained s.now p)) ∧
      (∀ r, crcOk f = false → p.recov.find? (fun r => decide (r.step < 3) && !r.again) = some r →
        ∃ q, PortBecomes (.parityIncrementReceive port f) s port q ∧ q.crcfail = (p.crcfail + 1) % 2 ^ 32 ∧ AsksStep p q r.lseq r.step ∧
          { r with asked := s.now, again := true } ∈ q.recov) ∧
      (∀ r, crcOk f = true → f.kind = 2 → f.rsv = 0 → p.recov = [r] → r.lseq = leNat (f.payload.take 2) → (f.payload.getD 2 0).toNat = r.step →
        r.step = 1 ∧ r.inc1 = none ∨ r.step = 2 ∧ (r.inc1.getD []).length = 32 →
        let cs := (f.payload.drop 16).take 32
        let before := r.inc1.getD []
        let fixed := correct r.flit ((before.take 16 ++ cs.take 16).map (·.toNat)) (((before.drop 16).take 16 ++ (cs.drop 16).take 16).map (·.toNat))
        (∀ g, fixed = some g → flitBad g = true →
          ∃ q, PortBecomes (.parityIncrementReceive port f) s port q ∧ q.state = 1 ∧ q.retrain = (p.retrain + 1) % 2 ^ 32 ∧ q.recov = [] ∧ q.held = []) ∧
        (∀ g, fixed = some g → flitBad g = false → p.held = [] → r.lseq = p.rxSeq → p.rxSeq < 4096 →
          ∃ q, PortBecomes (.parityIncrementReceive port f) s port q ∧ q.recov = [] ∧ q.parfix = (p.parfix + 1) % 2 ^ 32 ∧
            DeliveredFlit (takeCredits (takeAcks p f) f) q { g with lseq := r.lseq }) ∧
        (fixed = none → ∃ q, PortBecomes (.parityIncrementReceive port f) s port q ∧ AsksStep p q r.lseq (r.step + 1) ∧ q.parfix = p.parfix ∧ q.rxSeq = p.rxSeq ∧
          q.recov = [{ r with step := r.step + 1, inc1 := some cs, asked := s.now, again := false }])) ∧
      (∀ r lseq, p.recov.find? (fun x => decide (x.lseq = lseq)) = some r →
        (r.again = false → 1600 ≤ s.now - r.asked →
          ∃ q, PortBecomes (.recoveryRetryTimeout port lseq) s port q ∧ AsksStep p q lseq r.step ∧ { r with asked := s.now, again := true } ∈ q.recov) ∧
        (r.again = true ∨ s.now - r.asked < 1600 → exec (.recoveryRetryTimeout port lseq) s = .next s) ∧
        (9600 ≤ s.now - r.first → PortBecomes (.linkrecmaxExpire port lseq) s port (retrained s.now p)) ∧
        (s.now - r.first < 9600 → exec (.linkrecmaxExpire port lseq) s = .next s)))

/-- R13, R24: training ends within 50 µs or the port is DOWN; after it the unacknowledged flits go again, and those of a DOWN port to the end-to-end layer. -/
def Clauses.PortTraining : Prop :=
  ∀ (s : State) (port : Nat),
    let p := portOf s port
    (isLink port = true → p.state = 0 →
      exec (.portTraining port false) s = .next s ∧
      ∃ q, PortBecomes (.portTraining port true) s port q ∧ q.state = 1 ∧ q.trainAt = s.now ∧ q.recov = [] ∧ q.held = [] ∧ q.replay = [] ∧
        q.retrain = p.retrain ∧ q.crcfail = p.crcfail ∧ q.parfix = p.parfix ∧ q.replayed = p.replayed) ∧
    (isLink port = true → p.state ≠ 0 → ∀ ok, exec (.portTraining port ok) s = .next s) ∧
    (isLink port = true → p.state = 1 →
      (∀ four, s.now - p.trainAt ≤ 80000 →
        PortBecomes (.retrainComplete port four) s port { p with state := if four then 3 else 2, tx := p.tx ++ p.replay.map (·.flit) }) ∧
      (∀ four, 80000 < s.now - p.trainAt → exec (.retrainComplete port four) s = .next s) ∧
      (s.now - p.trainAt ≤ 80000 → exec (.retrainTimeout port) s = .next s) ∧
      (80000 < s.now - p.trainAt → (∀ x ∈ p.replay, x.pkts = []) → PortBecomes (.retrainTimeout port) s port { p with state := 0, replay := [] }) ∧
      (∀ x q u, 80000 < s.now - p.trainAt → p.replay = [x] → x.pkts = [q] → q.mcast = false → q.comb = false → q.cls ≠ 5 →
        (e2eOf s (e2eKey (agChip q.dst) q.cls)).unacked.find? (fun u => decide (u.seq = q.seq)) = some u → u.resends < 3 →
        ∃ t : State, exec (.retrainTimeout port) s = .next t ∧ portOf t port = { p with state := 0, replay := [] } ∧ t.egress = s.egress ++ [u.pkt] ∧
          { u with sent := s.now, resends := u.resends + 1 } ∈ (e2eOf t (e2eKey (agChip q.dst) q.cls)).unacked ∧ t.cores = s.cores ∧ t.mem = s.mem))

/-- R18, R20, R28, R31, R40: packets enter a port with credits for all their granules and room in its replay buffer, one behind another in flits of 15 granules;
with 512 data flits unacknowledged, or no packet waiting, the port sends an idle flit. -/
def Clauses.PacketsEnterPorts : Prop :=
  ∀ (s : State) (port n more : Nat), n < 2 ^ 32 →
    let p := portOf s port
    (isPort port = false ∨ portUp p = false → exec (.packetInject port (n + 2 ^ 32 * more)) s = .next s) ∧
    (isPort port = true → portUp p = true →
      (s.egress.drop n = [] ∨ 512 ≤ dataHeld p →
        (p.replay.length < 2048 → ∃ q, PortBecomes (.packetInject port (n + 2 ^ 32 * more)) s port q ∧ SendsIdle p q) ∧
        (2048 ≤ p.replay.length → exec (.packetInject port (n + 2 ^ 32 * more)) s = .next s)) ∧
      (∀ h rest, s.egress.drop n = h :: rest → dataHeld p < 512 →
        let ps := h :: (takeClass h.cls more rest).1
        let k := flitCount ps
        (512 < dataHeld p + k ∨ 2048 < p.replay.length + k ∨ mgetD p.credits h.cls 0 < granules ps → exec (.packetInject port (n + 2 ^ 32 * more)) s = .next s) ∧
        (dataHeld p + k ≤ 512 → p.replay.length + k ≤ 2048 → granules ps ≤ mgetD p.credits h.cls 0 →
          ∃ (t : State) (fs : List Flit), exec (.packetInject port (n + 2 ^ 32 * more)) s = .next t ∧ t.egress = s.egress.take n ++ (takeClass h.cls more rest).2 ∧
            (portOf t port).txSeq = (p.txSeq + k) % 4096 ∧ fs.length = k ∧
            (∀ x ∈ fs, x.kind = 0 ∧ x.cls = h.cls ∧ crcOk x = true ∧ x.payload.length = 240) ∧
            (∀ x ∈ spansFrom 0 ps, ((fs.flatMap (·.payload)).drop (16 * x.1)).take 16 = headBytes x.2.2) ∧
            (portOf t port).replay = p.replay ++ fs.zipIdx.map (fun x => { flit := x.1, pkts := carriedBy ps x.2 }) ∧
            (portOf t port).tx.length = p.tx.length + k ∧ mgetD (portOf t port).credits h.cls 0 = mgetD p.credits h.cls 0 - granules ps ∧
            t.wire = s.wire ++ ps.filter (fun x => x.mcast || x.comb) ∧ t.cores = s.cores ∧ t.mem = s.mem)))

/-! ### The fabric (chapter 2) -/

/-- R28, R30, R35 to R39, R204: end-to-end delivery. A packet in sequence is checked and handed on, one ahead is held, a repeat is dropped and acknowledged
again; acknowledgements free what they cover, and a packet unanswered for 500 µs goes again, three times at most; and a fence marker is compared with the
stores taken. Where the spec leaves a point of this open the model chose: log 16. -/
def Obligations.EndToEndDelivery : Prop :=
  ∀ (s : State) (p : Packet) (chip cls : Nat),
    let src := agChip p.src
    let key := e2eKey src p.cls
    let e := e2eOf s key
    let d := (p.seq + 2 ^ 24 - e.rxNext) % 2 ^ 24
    (agChip p.dst = s.chip → src ∈ s.domain → src ≠ s.chip → p.mcast = false → p.cls < 16 →
      (p.cls ≠ 5 → 0 < d → d < 1024 → ∃ t : State, exec (.fabricPacketArrive p) s = .next t ∧ mget (e2eOf t key).rxHeld (p.seq % 2 ^ 24) = some p ∧
        (e2eOf t key).rxNext = e.rxNext ∧ t.chans = s.chans ∧ t.cores = s.cores ∧ t.dies = s.dies ∧ t.mem = s.mem) ∧
      (p.cls ≠ 5 → 1024 ≤ d → e.ackDue < 31 → ∃ t : State, exec (.fabricPacketArrive p) s = .next t ∧ (e2eOf t key).ackDue = e.ackDue + 1 ∧ (e2eOf t key).rxNext = e.rxNext ∧
        (dieAt t (agDie p.dst)).counters[7] = ((dieAt s (agDie p.dst)).counters[7] + 1) % 2 ^ 32 ∧ t.chans = s.chans ∧ t.egress = s.egress ∧
        t.cores = s.cores ∧ t.mem = s.mem) ∧
      (p.cls ≠ 5 → p.cls ≠ 2 → p.cls ≠ 3 → 1024 ≤ d → 31 ≤ e.ackDue → ∃ (t : State) (q : Packet), exec (.fabricPacketArrive p) s = .next t ∧ t.egress = s.egress ++ [q] ∧
        q.body = .e2eack p.cls e.rxNext ∧ q.op = 0x14 ∧ q.cls = 5 ∧ q.dst = src * 65536 + 7 * 4096 ∧ (e2eOf t key).ackDue = 0 ∧ t.chans = s.chans ∧ t.cores = s.cores ∧ t.mem = s.mem) ∧
      (p.cls = 2 → d = 0 → mget e.rxHeld ((e.rxNext + 1) % 2 ^ 24) = none →
        (∀ (h : MsgHdr) (pay : List Byte) (bad : Bool), p.body = .msg h pay bad → e.ackDue < 31 → p.comb = false → p.op = 8 → p.rsv = 0 → p.len ≤ 256 → p.kinfo = none → (mget (dieAt s (agDie p.dst)).incTab p.cid).isSome = true →
          incOk s (fabOf s (agDie p.dst)) p.cid p.inc = true →
          ∃ t : State, exec (.fabricPacketArrive p) s = .next t ∧ chanQ t p.src p.dst 2 = chanQ s p.src p.dst 2 ++ [p] ∧ (e2eOf t key).rxNext = (e.rxNext + 1) % 2 ^ 24 ∧
            (e2eOf t key).ackDue = e.ackDue + 1 ∧ t.cores = s.cores ∧ t.dies = s.dies ∧ t.mem = s.mem) ∧
        (p.rsv ≠ 0 ∨ opClass p.op ≠ some 2 ∨ bodyFits p.op p.body = false ∨ 256 < p.len ∨ p.comb = true →
          ∃ t : State, exec (.fabricPacketArrive p) s = .next t ∧ t.chans = s.chans ∧ (e2eOf t key).rxNext = (e.rxNext + 1) % 2 ^ 24 ∧
            (dieAt t (agDie p.dst)).counters[2] = ((dieAt s (agDie p.dst)).counters[2] + 1) % 2 ^ 32 ∧ t.cores = s.cores ∧ t.mem = s.mem))) ∧
    (let e := e2eOf s (e2eKey chip cls)
     (e.ackDue = 0 → exec (.e2eackSend chip cls) s = .next s) ∧
     (e.ackDue ≠ 0 → cls ≠ 2 → cls ≠ 3 → ∃ (t : State) (q : Packet), exec (.e2eackSend chip cls) s = .next t ∧ t.egress = s.egress ++ [q] ∧ q.body = .e2eack cls e.rxNext ∧ q.op = 0x14 ∧
       q.cls = 5 ∧ q.dst = chip * 65536 + 7 * 4096 ∧ (e2eOf t (e2eKey chip cls)).ackDue = 0 ∧ t.cores = s.cores ∧ t.mem = s.mem) ∧
     (∀ (next : Nat) (u : E2eOut), e.unacked = [u] → e.waiting = [] → (nicAt s 0).wrqs = [] → (nicAt s 1).wrqs = [] →
       (2 ^ 23 ≤ (next + 2 ^ 24 - u.seq - 1) % 2 ^ 24 → ∃ t : State, exec (.e2eackReceive chip cls next) s = .next t ∧ (e2eOf t (e2eKey chip cls)).unacked = [u] ∧
         t.cores = s.cores ∧ t.mem = s.mem) ∧
       (∀ (a w tok : Nat), (next + 2 ^ 24 - u.seq - 1) % 2 ^ 24 < 2 ^ 23 → u.pkt.cls = 0 → u.pkt.body = .load a w tok →
         incOk s u.pkt.src u.pkt.cid u.pkt.inc = true →
         ∃ t : State, exec (.e2eackReceive chip cls next) s = .next t ∧ (e2eOf t (e2eKey chip cls)).unacked = [] ∧ t.cores = s.cores ∧ t.mem = s.mem) ∧
       (∀ (h : MsgHdr) (pay : List Byte) (bad : Bool), (next + 2 ^ 24 - u.seq - 1) % 2 ^ 24 < 2 ^ 23 → u.pkt.cls = 2 → u.pkt.body = .msg h pay bad → agChip u.pkt.src = s.chip →
         agIsCore u.pkt.src = true → isEng u.pkt.tok = false → isRedTok u.pkt.tok = false →
         ∃ t : State, exec (.e2eackReceive chip cls next) s = .next t ∧ (e2eOf t (e2eKey chip cls)).unacked = [] ∧
           (coreOf t (agCore u.pkt.src)).unack = markFirst u.pkt.tok u.pkt.dst (coreOf s (agCore u.pkt.src)).unack ∧ t.mem = s.mem)) ∧
     (∀ (next : Nat) (u : E2eOut) (p : Packet) (a w tok a' w' tok' : Nat), e.unacked = [u] → e.waiting = [p] → (nicAt s 0).wrqs = [] → (nicAt s 1).wrqs = [] →
       (next + 2 ^ 24 - u.seq - 1) % 2 ^ 24 < 2 ^ 23 → u.pkt.cls = 0 → u.pkt.body = .load a w tok → incOk s u.pkt.src u.pkt.cid u.pkt.inc = true →
       cls = 0 → p.cls = 0 → agChip p.dst = chip → p.body = .load a' w' tok' →
       ∃ (t : State) (q : Packet), exec (.e2eackReceive chip cls next) s = .next t ∧ t.egress = s.egress ++ [q] ∧ q.body = p.body ∧ q.seq = e.txNext ∧ q.dst = p.dst ∧
         (e2eOf t (e2eKey chip cls)).unacked = [{ seq := e.txNext, pkt := q, sent := s.now }] ∧ (e2eOf t (e2eKey chip cls)).waiting = [] ∧
         (e2eOf t (e2eKey chip cls)).txNext = (e.txNext + 1) % 2 ^ 24 ∧ t.cores = s.cores ∧ t.mem = s.mem) ∧
     (∀ (seq : Nat) (u : E2eOut), e.unacked.find? (fun x => decide (x.seq = seq)) = some u →
       (s.now - u.sent < 800000 → exec (.e2eTimeout chip cls seq) s = .next s) ∧
       (800000 ≤ s.now - u.sent → u.resends < 3 → ∃ t : State, exec (.e2eTimeout chip cls seq) s = .next t ∧ t.egress = s.egress ++ [u.pkt] ∧
         { u with sent := s.now, resends := u.resends + 1 } ∈ (e2eOf t (e2eKey chip cls)).unacked ∧
         (e2eOf t (e2eKey chip cls)).unacked.length = e.unacked.length ∧ t.cores = s.cores ∧ t.mem = s.mem) ∧
       (800000 ≤ s.now - u.sent → 3 ≤ u.resends → exec (.e2eTimeout chip cls seq) s = .next (declareDead s chip cls)))) ∧
    (∀ (from_ die : Nat) (q : Packet) (n tok : Nat) (rest : List Packet), chanQ s from_ (fabOf s die) 1 = q :: rest → q.body = .marker n tok → incOk s (fabOf s die) q.cid q.inc = true →
      agChip q.src ≠ s.chip → canSend s q.src 4 = true →
      let c := mgetD (dieAt s die).taken (agChip from_) 0
      (storeBefore s (agChip from_) die q.seq = true → exec (.fenceMarkerArrive from_ die) s = .next s) ∧
      (storeBefore s (agChip from_) die q.seq = false →
        ∃ (t : State) (r : Packet), exec (.fenceMarkerArrive from_ die) s = .next t ∧ t.egress = s.egress ++ [r] ∧
          r.body = .fenceack tok (if q.rseq % 2 ^ 32 = n % 2 ^ 32 then 0 else 0x2A) ∧ r.dst = q.src ∧ r.cls = 4 ∧ r.op = 0x19 ∧ chanQ t from_ (fabOf s die) 1 = rest ∧
          (q.rseq % 2 ^ 32 = n % 2 ^ 32 → (dieAt t die).taken = (dieAt s die).taken) ∧
          (q.rseq % 2 ^ 32 ≠ n % 2 ^ 32 → mgetD (dieAt t die).taken (agChip from_) 0 = (n + 2 ^ 32 + c - q.rseq % 2 ^ 32) % 2 ^ 32) ∧
          t.cores = s.cores ∧ t.mem = s.mem)) ∧
    (∀ (from_ core : Nat) (q : Packet) (tok cause : Nat) (rest : List Packet) (o : OutE), chanQ s from_ (niOf s core) 4 = q :: rest → q.body = .fenceack tok cause → incOk s (niOf s core) q.cid q.inc = true →
      ((coreOf s core).out.find? fun o => decide (o.tok = tok)) = some o →
      ∃ t : State, exec (.fenceackReceive from_ core) s = .next t ∧ (coreOf t core).out = ((coreOf s core).out.filter fun o => !decide (o.tok = tok)) ∧
        (coreOf t core).owed =
          (if o.live = true ∧ cause = 0x2A ∧ (coreOf s core).owed = none then some (0x2A, some (wd o.g)) else (coreOf s core).owed) ∧
        (coreOf t core).unack = ((coreOf s core).unack.map fun u =>
          if u.w ≠ 0 ∧ agChip u.target * 2 + agDie u.target = o.g ∧ u.target ≠ 0 then { u with applied := true } else u) ∧
        chanQ t from_ (niOf s core) 4 = rest ∧ (∀ c, c ≠ core → coreOf t c = coreOf s c) ∧ t.mem = s.mem) ∧
    ((∀ kv ∈ s.cores, ∀ e ∈ (coreOf s kv.1).ends, e.state = 7 ∨ (reState (rankEntry s e.ocid e.peerRank) ≠ 1 ∧ reState (rankEntry s e.ocid e.peerRank) ≠ 3) ∨ reChip (rankEntry s e.ocid e.peerRank) ≠ chip) →
      exec (.unreachableDeclarationReceive chip) s = .next s) ∧
    (∀ (c : Nat) (k : Core) (x : EndRec), s.cores = [(c, k)] → k.ends = [x] → x.kind = 0 → x.state ≠ 3 → x.state ≠ 5 → x.state ≠ 7 →
      reState (rankEntry s x.ocid x.peerRank) = 1 ∨ reState (rankEntry s x.ocid x.peerRank) = 3 →
      reChip (rankEntry s x.ocid x.peerRank) = chip →
      ∃ t : State, exec (.unreachableDeclarationReceive chip) s = .next t ∧ (coreOf t c).ends = [{ x with state := 6, prev := 6, cause := 2 }] ∧ t.mem = s.mem)

/-- R42 to R47: multicast and in-switch combining. A switch copies a packet to each port that leads to a chip of its bitmap and keeps an entry; a leaf
applies a (source, MTAG) pair once and answers; the last answer completes the packet at its source, which otherwise sends it again, three times at most; and
a group's root combines the contributions of all its chips, or gives up after 10 ms. Where the spec leaves a point of this open the model chose: logs 14, 44
and 52. -/
def Obligations.MulticastAndCombining : Prop :=
  ∀ (s : State) (sw src mtag : Nat) (p : Packet) (c : Contrib),
    let w := swOf s sw
    (p.mcast = true → onWire s p (agChip p.src) = true → (∃ x ∈ destChips p, (mget w.routes x).isSome = true) →
      let again := ∃ r ∈ w.reps, r.src = p.src ∧ r.mtag = p.seq
      (4096 ≤ w.reps.length → ¬ again → exec (.multicastReplicate sw p) s = .next s) ∧
      (w.reps.length < 4096 ∨ again →
        ∃ (t : State) (qs : List Packet) (ports : List Nat), exec (.multicastReplicate sw p) s = .next t ∧ t.wire = s.wire.erase p ++ qs ∧ qs.length = ports.length ∧
          (∀ o, o ∈ ports ↔ ∃ x ∈ destChips p, routePort w x = some o) ∧
          (¬ again → (swOf t sw).reps = w.reps ++ [{ src := p.src, mtag := p.seq, left := ports, since := s.now }]) ∧
          (again → (swOf t sw).reps = w.reps.map fun r => if r.src = p.src ∧ r.mtag = p.seq then { r with since := s.now } else r) ∧
          (∀ x ∈ destChips p, (mget w.routes x).isSome = true → ∃ q ∈ qs, x ∈ destChips q) ∧
          (∀ q ∈ qs, ∀ x ∈ destChips q, ∀ y ∈ destChips q, x ∈ destChips p ∧ routePort w x = routePort w y) ∧ t.cores = s.cores ∧ t.mem = s.mem)) ∧
    (∃ t : State, exec (.replicationEntryTimeout sw src mtag) s = .next t ∧
      (∀ r, r ∈ (swOf t sw).reps ↔ r ∈ w.reps ∧ ¬ (r.src = src ∧ r.mtag = mtag ∧ 1600000 ≤ s.now - r.since)) ∧ t.cores = s.cores ∧ t.mem = s.mem) ∧
    (p.mcast = true → s.chip ∈ destChips p → onWire s p (agChip p.src) = true →
      (∀ x : LeafPair, pairOfTag s p.src p.seq = some x →
        ∃ t : State, exec (.multicastLeafDeliver p) s = .next t ∧ pairOfTag t p.src p.seq = some { x with due := true } ∧ t.wire = s.wire.erase p ∧
          t.cores = s.cores ∧ t.mem = s.mem) ∧
      (pairOfTag s p.src p.seq = none →
        (badPacket p = true ∨ incOk s (fabOf s 0) p.cid p.inc = false →
          ∃ (t : State) (x : LeafPair), exec (.multicastLeafDeliver p) s = .next t ∧ pairOfTag t p.src p.seq = some x ∧ x.drop = true ∧ x.due = true ∧
            (badPacket p = true → (dieAt t 0).counters[2] = ((dieAt s 0).counters[2] + 1) % 2 ^ 32) ∧ t.cores = s.cores ∧ t.mem = s.mem) ∧
        (∀ (tg : Nat) (b : List Nat) (o : MOperand) (v : Word) (st : Option Nat) (rank : Nat), badPacket p = false → incOk s (fabOf s 0) p.cid p.inc = true →
          p.body = .mdata tg b o [(v, false)] st → operandRanks o = [rank] → o.offset < 2 ^ 19 →
          let en := rankEntry s p.cid rank
          reState en = 1 → reChip en = s.chip → incOk s (niOf s (reCore en)) p.cid p.inc = true →
          niRefusal s (reCore en) (reSlot en) p.src o.offset 8 true = none → Memory.wf (coreOf s (reCore en)).lm = true →
          ∃ (t : State) (x : LeafPair), exec (.multicastLeafDeliver p) s = .next t ∧ pairOfTag t p.src p.seq = some x ∧ x.drop = false ∧ x.due = true ∧
            rdLE (coreOf t (reCore en)).lm o.offset 8 = v.toNat ∧
            (∀ a, (a < o.offset ∨ o.offset + 8 ≤ a) → rdByte (coreOf t (reCore en)).lm a = rdByte (coreOf s (reCore en)).lm a) ∧ t.mem = s.mem))) ∧
    (∀ x : LeafPair, pairOfTag s src mtag = some x →
      (x.due = false → exec (.bfackSend src mtag) s = .next s) ∧
      (x.due = true → ∃ (t : State) (q : Packet), exec (.bfackSend src mtag) s = .next t ∧ t.egress = s.egress ++ [q] ∧ q.body = .bfack mtag x.drop ∧ q.dst = src ∧ q.cls = 5 ∧
        q.op = 0x13 ∧ pairOfTag t src mtag = some { x with due := false } ∧ t.cores = s.cores ∧ t.mem = s.mem)) ∧
    (∃ t : State, exec (.mtagPairExpire src mtag) s = .next t ∧
      (∀ x, x ∈ t.pairs ↔ x ∈ s.pairs ∧ ¬ (x.src = src ∧ x.mtag = mtag ∧ 8000000 ≤ s.now - x.since)) ∧ t.cores = s.cores ∧ t.mem = s.mem) ∧
    (∀ (drop : Bool) (branch : Nat), mtag < 2 ^ 24 →
      (w.reps.find? (fun r => decide (r.src = src ∧ r.mtag = mtag ∧ branch ∈ r.left)) = none → exec (.bfackReceive (some sw) src (mtag + 2 ^ 24 * branch) drop) s = .next s) ∧
      ∀ r : RepE, w.reps.find? (fun r => decide (r.src = src ∧ r.mtag = mtag ∧ branch ∈ r.left)) = some r →
        ((∀ x ∈ r.left, x = branch) → ∃ (t : State) (q : Packet), exec (.bfackReceive (some sw) src (mtag + 2 ^ 24 * branch) drop) s = .next t ∧ (swOf t sw).reps = w.reps.erase r ∧
          t.egress = s.egress ++ [q] ∧ q.body = .bfack mtag (r.drop || drop) ∧ q.dst = src ∧ q.op = 0x13 ∧ q.cls = 5 ∧ t.cores = s.cores ∧ t.mem = s.mem) ∧
        ((∃ x ∈ r.left, x ≠ branch) → ∃ t : State, exec (.bfackReceive (some sw) src (mtag + 2 ^ 24 * branch) drop) s = .next t ∧
          { r with left := without branch r.left, drop := r.drop || drop } ∈ (swOf t sw).reps ∧ (swOf t sw).reps.length = w.reps.length ∧
          t.egress = s.egress ∧ t.cores = s.cores ∧ t.mem = s.mem)) ∧
    (∀ (drop : Bool) (m : MOut), s.mouts.find? (fun m => decide (m.src = src ∧ m.mtag = mtag) && m.uni.isNone) = some m →
      (mtag < 2 ^ 24 → s.chip ∉ destChips m.pkt → (∀ x ∈ s.switches, ∀ r ∈ x.2.reps, ¬ (r.src = src ∧ r.mtag = mtag)) →
        ∃ t : State, exec (.bfackReceive none src mtag drop) s = .next t ∧ t.mouts = s.mouts.erase m ∧ t.mem = s.mem ∧ (isEng m.tok = false → t.cores = s.cores)) ∧
      (mtag < 2 ^ 24 → (∃ x ∈ s.switches, ∃ r ∈ x.2.reps, r.src = src ∧ r.mtag = mtag) → exec (.bfackReceive none src mtag drop) s = .next s) ∧
      (s.now - m.sent < 800000 → exec (.multicastResend src mtag) s = .next s) ∧
      (800000 ≤ s.now - m.sent → m.resends < 3 →
        ∃ t : State, exec (.multicastResend src mtag) s = .next t ∧ { m with sent := s.now, resends := m.resends + 1 } ∈ t.mouts ∧
          t.egress = (if isEng m.tok = true then s.egress ++ [m.pkt] else s.egress) ∧ t.wire = (if isEng m.tok = true then s.wire else s.wire ++ [m.pkt]) ∧
          t.cores = s.cores ∧ t.mem = s.mem) ∧
      (∀ (tg x : Nat) (o : MOperand) (v : List (Word × Bool)) (st : Option Nat), 800000 ≤ s.now - m.sent → 3 ≤ m.resends → isEng m.tok = true → m.pkt.body = .mdata tg [x] o v st → x ≠ s.chip →
        canSend s (x * 65536) 1 = true →
        ∃ (t : State) (q : Packet), exec (.multicastResend src mtag) s = .next t ∧ { m with uni := some [x] } ∈ t.mouts ∧ t.egress = s.egress ++ [q] ∧ q.mcast = false ∧
          q.body = .mdata tg [x] o v (some m.mtag) ∧ agChip q.dst = x ∧ t.cores = s.cores ∧ t.mem = s.mem)) ∧
    (s.wire.find? (fun q => decide (q.body = .contrib c)) = some p → incOk s (fabOf s 0) c.cid c.inc = false →
      ∃ t : State, exec (.combContributionArrive sw c) s = .next t ∧ t.wire = s.wire.erase p ∧ t.switches = s.switches ∧ t.cores = s.cores ∧ t.mem = s.mem) ∧
    (s.wire.find? (fun q => decide (q.body = .contrib c)) = some p → incOk s (fabOf s 0) c.cid c.inc = true →
      (isRoot w c = false → c.arr = false →
        ∃ (t : State) (q : Packet), exec (.combContributionArrive sw c) s = .next t ∧ t.wire = s.wire.erase p ++ [q] ∧ q.body = .contrib c ∧ q.op = 0x1C ∧ q.cls = 6 ∧
          t.cores = s.cores ∧ t.mem = s.mem) ∧
      (isRoot w c = true → w.groups.find? (fun g => sameGroup g.c c) = none →
        (1024 ≤ w.groups.length → exec (.combContributionArrive sw c) s = .next s) ∧
        (w.groups.length < 1024 → (∃ x ∈ c.chips, x ∉ fromChips c) →
          ∃ t : State, exec (.combContributionArrive sw c) s = .next t ∧ (swOf t sw).groups = w.groups ++ [{ c := c, got := [c], since := s.now }] ∧
            t.wire = s.wire.erase p ∧ t.cores = s.cores ∧ t.mem = s.mem)) ∧
      (∀ g : CombG, isRoot w c = true → w.groups.find? (fun g => sameGroup g.c c) = some g → g.sent = false → g.bad = false →
        (∀ x ∈ fromChips c, x ∉ g.got.flatMap fromChips) →
        (agrees g.c c = true → (∀ x ∈ g.c.chips, x ∈ (g.got ++ [c]).flatMap fromChips) →
          ∃ (t : State) (q : Packet) (r : Contrib), exec (.combContributionArrive sw c) s = .next t ∧ t.wire = s.wire.erase p ++ [q] ∧ q.body = .result r s.mtagNext 0 ∧ q.op = 0x1D ∧
            q.mcast = true ∧ r.vals = groupValue { g with got := g.got ++ [c] } ∧ r.chips = g.c.chips ∧
            { g with got := g.got ++ [c], sent := true } ∈ (swOf t sw).groups ∧ t.cores = s.cores ∧ t.mem = s.mem) ∧
        (agrees g.c c = false → (∃ x ∈ g.c.chips, x ∉ g.got.flatMap fromChips ∧ x ∉ fromChips c) →
          ∃ (t : State) (x : CombG), exec (.combContributionArrive sw c) s = .next t ∧ t.wire = s.wire.erase p ∧ x ∈ (swOf t sw).groups ∧ x.bad = true ∧ x.sent = false ∧
            t.cores = s.cores ∧ t.mem = s.mem))) ∧
    (∀ (cid gid round : Nat) (g : CombG), w.groups.find? (fun g => decide (g.c.cid = cid ∧ g.c.gid = gid ∧ g.c.round = round) && !g.sent) = some g →
      (s.now - g.since < 16000000 → exec (.combtoExpire sw cid gid round) s = .next s) ∧
      (16000000 ≤ s.now - g.since → ∃ (t : State) (q : Packet) (r : Contrib), exec (.combtoExpire sw cid gid round) s = .next t ∧ t.wire = s.wire ++ [q] ∧ q.body = .result r s.mtagNext 0x6F ∧
        r.vals = [] ∧ { g with sent := true } ∈ (swOf t sw).groups ∧ t.cores = s.cores ∧ t.mem = s.mem))

/-! ### Boot, attestation, kill and reclaim (chapter 3) -/

/-- R56, R58, R59: the boot ROM's steps in order. The floor, the firmware and the ownership record are checked; a failure halts the package and names its
step; the configuration record of higher SERIAL is applied, or the package waits unconfigured; the floor never falls; and a report states what was measured.
Where the spec leaves a point of this open the model chose: logs 6 and 8. -/
def Obligations.BootAndAttestation : Prop :=
  ∀ (s : State) (nonce : List Byte),
    let n := (s.boot.count + 1) % 2 ^ 32
    let floorGood := s.flash.floorMac = Config.tagOf (floorKey s) s.flash.floor
    let fwGood := Config.sm2Verify Config.nerralKey (Config.sm3 s.flash.fw) s.flash.fwSig = true ∧ floorFw s ≤ s.flash.fwVersion
    let ownerGood := Config.sm2Verify Config.nerralKey (Config.sm3 s.flash.owner) s.flash.ownerSig = true ∧ ownerDevid s = deviceId s
    let halted := fun (step : Nat) => exec .boot s = .next { s with boot := { s.boot with count := n, failstep := step, state := 2 } }
    (s.boot.state ≠ 0 → exec .boot s = .next s) ∧
    (s.boot.state = 0 →
      (¬ floorGood → halted 2) ∧ (floorGood → ¬ fwGood → halted 3) ∧ (floorGood → fwGood → ¬ ownerGood → halted 4) ∧
      (floorGood → fwGood → ownerGood →
        (∀ (r : List Byte) (code : Nat), cfgPick s = some (r, code) →
          ∃ t : State, exec .boot s = .next t ∧ t.boot = { measure s r with count := n, failstep := 0, cfg := code, state := 1 } ∧ t.chip = cfgChip r ∧
            t.boot.digests = Config.sm3 Config.bootRom ++ Config.sm3 s.flash.fw ++ Config.sm3 r ∧ t.boot.fwVersion = s.flash.fwVersion ∧
            (∀ row, row < 128 → (row ∈ t.retired ↔ cfgField r 42 16 / 2 ^ row % 2 = 1)) ∧
            (∀ row, row < 128 → row ∈ t.retired → (mgetD (dieAt t (row / 64)).rows row {}).powered = false ∧ (mgetD (dieAt t (row / 64)).rows row {}).fenced = true) ∧ t.parts.length = cfgParts r ∧
            t.testper = (if cfgField r 58 4 = 0 then 86400 else max 3600 (cfgField r 58 4)) ∧ floorSerial s ≤ floorSerial t ∧
            (s.flash.fwVersion < 2 ^ 32 → floorFw s ≤ floorFw t) ∧ t.cores = s.cores ∧ t.mem = s.mem) ∧
        (cfgOk s s.flash.cfgA = true → cfgOk s s.flash.cfgB = true →
          cfgPick s = if cfgSerial s.flash.cfgA < cfgSerial s.flash.cfgB then some (s.flash.cfgB, 1) else some (s.flash.cfgA, 0)) ∧
        (cfgOk s s.flash.cfgA = false → cfgOk s s.flash.cfgB = false →
          ∃ t : State, exec .boot s = .next t ∧ t.boot = { measure s [] with count := n, failstep := 0, cfg := 2, state := 3 } ∧ t.chip = s.chip ∧ t.parts = s.parts ∧
            t.cores = s.cores ∧ t.mem = s.mem))) ∧
    (nonce.length ≠ 32 ∨ (s.boot.state ≠ 1 ∧ s.boot.state ≠ 3) → exec (.attestationRequest nonce) s = .next s) ∧
    (nonce.length = 32 → s.boot.state = 1 ∨ s.boot.state = 3 →
      let tests := (s.parts.map fun p => if p.2.test then 2 ^ p.1 else 0).sum
      let body := nonce ++ s.boot.digests ++ leBytes 4 0xB0 ++ leBytes 4 s.boot.fwVersion ++ leBytes 2 s.chip ++ leBytes 6 tests ++ Config.sm2Public s.boot.attPriv ++ s.boot.attCert
      exec (.attestationRequest nonce) s = .next { s with reportsOut := s.reportsOut ++ [body ++ Config.sm2Sign s.boot.attPriv body] })

/-- R61 to R63, R65 to R67: a context's new incarnation reaches an agent, which drops what the old one holds there and acknowledges; with the last
acknowledgement the kill is done and each of its kernels has its record; and a reclaim is answered by an agent once it holds nothing of the old incarnations,
and then brings UNREC up to date. Where the spec leaves a point of this open the model chose: logs 21, 37 and 40. -/
def Obligations.KillAndReclaim : Prop :=
  ∀ (s : State) (agent cid inc : Nat),
    (∀ o : Op, s.ops.find? (fun o => decide (o.kind = 0 ∧ o.cid = cid ∧ agent ∈ o.todo)) = some o →
      (ctxInc (ctxOf s cid) ≠ inc → exec (.incarnationBroadcast agent cid inc) s = .next s) ∧
      (ctxInc (ctxOf s cid) = inc →
        ∃ t : State, exec (.incarnationBroadcast agent cid inc) s = .next t ∧
          { o with todo := o.todo.erase agent, back := o.back ++ [agent] } ∈ t.ops ∧ mget t.incLag (agent % 65536 * 4096 + cid) = none ∧ t.mem = s.mem ∧
          (agKind agent = 0 →
            let c := agCore agent
            (∀ a : Act, (coreOf s c).act = some a → a.cid = cid → a.inc = o.sample → (coreOf s c).twin = none → (coreOf s c).succ = none → a.gang = none →
              (coreOf t c).act = none ∧ (coreOf t c).sb = [] ∧ (coreOf t c).fifo = []) ∧
            (∀ (slot n : Nat) (r : Resident), slot < 4 → (slotOf (coreOf s c) slot).resident = some r → r.cid = cid → r.inc = o.sample →
              mbOf (slotOf (coreOf t c) slot) n = 0)) ∧
          (agKind agent = 4 → ∀ w ∈ (nicAt t (agDie agent)).wrqs, ¬ (w.cid = cid ∧ w.inc = o.sample)) ∧
          (agKind agent = 6 → agIdx agent = 0 → ∀ w ∈ (dieAt t (agDie agent)).disp.window, ¬ (w.cid = cid ∧ w.inc = o.sample)) ∧
          (agKind agent = 7 → 256 ≤ agIdx agent → agIdx agent < 1024 → ∀ q ∈ (rtuAt t (agDie agent) (agIdx agent - 256)).queue, ¬ (q.cid = cid ∧ q.inc = o.sample)))) ∧
    (∀ o : Op, s.ops.find? (fun o => decide (o.kind = 0 ∧ o.cid = cid ∧ agent ∈ o.back)) = some o → opOf s o.tok = some o →
      (o.left.erase agent ≠ [] → ∃ t : State, exec (.killAckReceive agent cid) s = .next t ∧
        { o with back := o.back.erase agent, left := o.left.erase agent } ∈ t.ops ∧ t.cores = s.cores ∧ t.frecs = s.frecs ∧ t.mem = s.mem) ∧
      (o.left = [agent] → o.org = none → o.asked = none → (∀ x ∈ s.ops, ¬ (x.kind = 7 ∧ x.cid = cid)) → (coreOf s o.core).wait = .sup o.tok →
        ∃ t : State, exec (.killAckReceive agent cid) s = .next t ∧ (coreOf t o.core).wait = .supDone o.arg ∧ (∀ x ∈ t.ops, x.tok ≠ o.tok) ∧
          (∀ kn ∈ s.kernels, kn.cid = cid → kn.inc = o.sample → kn.state = 5 →
            ∃ r ∈ t.frecs, r.cause = 0x47 ∧ r.kind = 2 ∧ r.inc = o.sample ∧ r.cid = cid ∧ r.subtag = kn.subtag ∧ r.detail = wd (ctxInc (ctxOf s cid))) ∧
          (∀ c, c ≠ o.core → coreOf t c = coreOf s c) ∧ t.mem = s.mem)) ∧
    (∀ o : Op, s.ops.find? (fun o => decide (o.kind = 1 ∧ o.cid = cid ∧ agent ∈ o.todo)) = some o →
      ∃ t : State, exec (.reclQuery agent cid) s = .next t ∧ { o with todo := o.todo.erase agent } ∈ t.ops ∧ t = { s with ops := t.ops }) ∧
    (∀ o : Op, s.ops.find? (fun o => decide (o.kind = 1 ∧ o.cid = cid ∧ agent ∈ o.left ∧ agent ∉ o.todo ∧ agent ∉ o.back ∧ agent < 2 ^ 30)) = some o →
      (agentHolds s o (s.chip * 65536 + agent % 65536) = true → exec (.reclAnswer agent cid) s = .next s) ∧
      (agentHolds s o (s.chip * 65536 + agent % 65536) = false →
        ∃ t : State, exec (.reclAnswer agent cid) s = .next t ∧ { o with back := o.back ++ [agent] } ∈ t.ops ∧ t = { s with ops := t.ops })) ∧
    (∀ o : Op, s.ops.find? (fun o => decide (o.kind = 1 ∧ o.cid = cid ∧ agent ∈ o.back)) = some o → opOf s o.tok = some o →
      (o.left.erase agent ≠ [] → ∃ t : State, exec (.reclAnswerReceive agent cid) s = .next t ∧
        { o with back := o.back.erase agent, left := o.left.erase agent } ∈ t.ops ∧ t = { s with ops := t.ops }) ∧
      (o.left = [agent] → o.org = none → o.asked = none → (coreOf s o.core).wait = .sup o.tok → o.sample < 4096 →
        let u := (ctxInc (ctxOf s cid) + 4096 - o.sample) % 4096
        u < 8 →
        ∃ t : State, exec (.reclAnswerReceive agent cid) s = .next t ∧ (coreOf t o.core).wait = .supDone 0 ∧ ctxUnrec (ctxOf t cid) = u ∧
          fld (ctxOf t cid).w0 35 24 = (if u = 0 then fld (ctxOf s cid).w0 35 24 else o.sample) ∧ ctxInc (ctxOf t cid) = ctxInc (ctxOf s cid) ∧
          (∀ x ∈ t.ops, x.tok ≠ o.tok) ∧ (∀ c, c ≠ o.core → coreOf t c = coreOf s c) ∧ t.mem = s.mem))

/-! ### Errors, tests, power and energy (chapters 4 and 7) -/

/-- R68, R70 to R72: scrubbing leaves data as it is; a resident of a sealed core is built again on a free slot from its initial image, and its rank becomes valid
there; a sealed core without residents returns to service once its test passes, and else its row is fenced; a copy that waits more than 4,096 cycles at the comparison
aborts with PAIRMIS; and a row without work is tested, for 2 ms, and then cleared or fenced. -/
def Clauses.HealthSteps : Prop :=
  ∀ (s : State) (addr core slot target tslot die row : Nat) (pass : Bool),
    (∃ t : State, exec (.patrolScrub addr) s = .next t ∧ t.mem = s.mem ∧ t.cores = s.cores ∧ (∀ w ∈ s.memPoison, w ∈ t.memPoison) ∧
      (∀ w ∈ t.memPoison, w ∈ s.memPoison ∨ w / 8 = addr / 64) ∧ t.frecs = s.frecs) ∧
    ((coreOf s core).sealed_ = false → exec (.residentRebuild core slot target tslot) s = .next s ∧ exec (.coreTestComplete core pass) s = .next s) ∧
    (∀ (r : Resident) (i : Image), (coreOf s core).sealed_ = true → (slotOf (coreOf s core) slot).resident = some r → r.rank < 65536 →
      s.images.find? (fun i => decide (i.cid = r.cid ∧ i.inc = r.inc ∧ i.rank = r.rank)) = some i → target ≠ core → slot < 4 → tslot < 4 →
      (coreOf s target).sealed_ = false → (slotOf (coreOf s target) tslot).resident = none → coreUsable s target (ctxPart (ctxOf s r.cid)) = true →
      isSup target = isSup core → isMemCore target = isMemCore core → inboundTo s core = false →
      regionsBad (coreOf s target) tslot none i.slot.rg.toList = false → (∀ q, (queueOf (slotOf (coreOf s core) slot) q).msgs = []) →
      (∀ kv ∈ s.cores, kv.2.transit = []) →
      ∃ t : State, exec (.residentRebuild core slot target tslot) s = .next t ∧ (slotOf (coreOf t target) tslot).resident = some r ∧
        (slotOf (coreOf t target) tslot).rg = i.slot.rg ∧ (slotOf (coreOf t target) tslot).xb = i.slot.xb ∧
        (∀ n, mbOf (slotOf (coreOf t target) tslot) n = 0) ∧ slotOf (coreOf t core) slot = {} ∧ rankEntry t r.cid r.rank = placeEntry s target tslot ∧
        ((∃ x ∈ i.slot.rg.toList.drop 3, rgV x = true) → ∃ f ∈ t.frecs, f.cause = 0x48 ∧ f.kind = 3 ∧ f.cid = r.cid ∧ f.rank = r.rank) ∧ t.mem = s.mem) ∧
    ((coreOf s core).sealed_ = true → (∀ n, (slotOf (coreOf s core) n).resident = none) →
      (∃ t : State, exec (.coreTestComplete core true) s = .next t ∧ (coreOf t core).sealed_ = false ∧ (coreOf t core).lm = [] ∧ (coreOf t core).poison = [] ∧
        (coreOf t core).fe = [] ∧ (coreOf t core).badRegs = [] ∧ (coreOf t core).badQ = [] ∧
        (∀ c, c ≠ core → coreOf t c = coreOf s c) ∧ t.mem = s.mem) ∧
      (isCompute core = true → dieOf core < 2 → ∃ t : State, exec (.coreTestComplete core false) s = .next t ∧ (rowState t (rowOf core)).fenced = true ∧ t.cores = s.cores ∧ t.mem = s.mem) ∧
      (isCompute core = false → exec (.coreTestComplete core false) s = .next s)) ∧
    (∀ (c a : Nat), (coreOf s core).twin = some c → (coreOf s core).cmpAt = some a → (coreOf s c).cmpAt = none →
      (s.now - a ≤ 4096 → exec (.pairTimeout core) s = .next s) ∧
      (4096 < s.now - a → exec (.pairTimeout core) s = .next (abortWith s core 0x40 (coreOf s core).pc (some (rowOf core, rowOf c))))) ∧
    (die = row / 64 → row < 128 →
      let r := rowState s row
      let due := r.lastTest = 0 ∨ s.now / (s.testper * second) ≠ r.lastTest / (s.testper * second)
      (r.powered = false ∨ r.fenced = true ∨ r.testing = true ∨ ¬ due → exec (.rowTestStart die row) s = .next s) ∧
      (r.powered = true → r.fenced = false → r.testing = false → due →
        (∀ c ∈ rowCores row, (coreOf s c).act = none ∧ (coreOf s c).run = [] ∧ (coreOf s c).succ = none ∧ (coreOf s c).gates = [] ∧
          ∀ n, (slotOf (coreOf s c) n).resident = none) →
        ∃ t : State, exec (.rowTestStart die row) s = .next t ∧ rowState t row = { r with testing := true, lastTest := s.now, away := [] } ∧ t.cores = s.cores ∧
          t.mem = s.mem) ∧
      (r.testing = true → s.now - r.lastTest < 3200000 → exec (.rowTestComplete die row pass) s = .next s) ∧
      (r.testing = true → 3200000 ≤ s.now - r.lastTest → r.away = [] →
        (∃ t : State, exec (.rowTestComplete die row true) s = .next t ∧ rowState t row = { r with testing := false, taint := [], taintOver := false, taintSet := [] } ∧
          t.cores = s.cores ∧ t.mem = s.mem) ∧
        (∃ t : State, exec (.rowTestComplete die row false) s = .next t ∧ (rowState t row).fenced = true ∧ (rowState t row).testing = false ∧
          (r.taint = [] → r.taintSet = [] → (dieAt t die).pmRing = (dieAt s die).pmRing) ∧ t.cores = s.cores ∧ t.mem = s.mem)))

/-- R75, R76, R78: the rows are powered in sixteen groups, 2 µs apart; a row's demands move its target; each grant moves one row by one step, 166 in 10 µs at
most; and a kernel's energy grows by what the counters show. Where the spec leaves a point of this open the model chose: log 38. -/
def Obligations.PowerSteps : Prop :=
  ∀ (s : State) (die row g cause step kid uj : Nat),
    (s.powerAt = none → exec .powerUp s = .next { s with powerAt := some s.now } ∧ exec (.rowGroupPowerOn g) s = .next s) ∧
    (∀ at_ : Nat, s.powerAt = some at_ →
      (s.now < at_ + 48000 ∨ (∃ kv ∈ s.cores, kv.2.act.isSome = true) → exec .powerUp s = .next s) ∧
      (at_ + 48000 ≤ s.now → (∀ kv ∈ s.cores, kv.2.act = none) →
        ∃ t : State, exec .powerUp s = .next t ∧ t.powerAt = some s.now ∧ (∀ x, x < 128 → rowState t x = { rowState s x with powered := false }) ∧ t.cores = s.cores ∧
          t.mem = s.mem) ∧
      (s.now < at_ + 3200 * g → exec (.rowGroupPowerOn g) s = .next s) ∧
      (g < 16 → at_ + 3200 * g ≤ s.now →
        ∃ t : State, exec (.rowGroupPowerOn g) s = .next t ∧
          (∀ x, 8 * g ≤ x → x < 8 * g + 8 → rowState t x = if x ∈ s.retired then rowState s x else { rowState s x with powered := true }) ∧
          (∀ x, x < 128 → (x < 8 * g ∨ 8 * g + 8 ≤ x) → rowState t x = rowState s x) ∧ t.cores = s.cores ∧ t.mem = s.mem)) ∧
    (die ≠ row / 64 ∨ 7 < step ∨ cause = 0 ∨ 6 < cause → exec (.trimStepDemand die row cause step) s = .next s) ∧
    (die = row / 64 → row < 128 → step ≤ 7 → 1 ≤ cause → cause ≤ 6 →
      ∃ t : State, exec (.trimStepDemand die row cause step) s = .next t ∧ t.cores = s.cores ∧ t.mem = s.mem ∧
        (rowState t row).step = (rowState s row).step ∧ (rowState t row).idle = (rowState s row).idle ∧
        (cause = 1 → (rowState t row).target = step ∧ (1, step) ∈ (rowState t row).demands) ∧
        (cause = 2 → (rowState t row).target = 7 ∧ ∀ x ∈ (rowState t row).demands, x.1 ≠ 1) ∧
        (3 ≤ cause → step ≠ 0 → (cause, step) ∈ (rowState t row).demands) ∧ (3 ≤ cause → step = 0 → ∀ x ∈ (rowState t row).demands, x.1 ≠ cause) ∧
        (cause = 1 → (rowState s row).idle = true → ∃ (w : Nat) (l : List (Nat × Bool)), (rowState t row).asked = (w, true) :: l)) ∧
    (let recent := s.grants.filter fun t => decide (s.now < t + 16000)
     (166 ≤ recent.length → exec .trimStepGrant s = .next s) ∧
     (bestAsk s false = none → bestAsk s true = none → exec .trimStepGrant s = .next s) ∧
     (∀ (d x w : Nat) (up : Bool), recent.length < 166 → (bestAsk s false).orElse (fun _ => bestAsk s true) = some (d, x, w) →
       let r := mgetD (dieAt s d).rows x {}
       nextChange r = some up →
       ∃ t : State, exec .trimStepGrant s = .next t ∧ t.grants = recent ++ [s.now] ∧ t.cores = s.cores ∧ t.mem = s.mem ∧
         let r' := mgetD (dieAt t d).rows x {}
         r'.changes = (r.changes + 1) % 2 ^ 16 ∧
         (up = true → r.idle = true → r'.idle = false ∧ r'.step = 7) ∧ (up = true → r.idle = false → r'.step = r.step - 1) ∧
         (up = false → r.step = 7 → r'.idle = true) ∧ (up = false → r.step ≠ 7 → r'.step = r.step + 1))) ∧
    (charged s kid = false → exec (.energyUpdate die kid uj) s = .next s) ∧
    (charged s kid = true → ∃ t : State, exec (.energyUpdate die kid uj) s = .next t ∧
      mgetD (dieAt t die).energy kid (0, 0) = ((mgetD (dieAt s die).energy kid (0, 0)).1 + uj, s.now) ∧
      (∀ k, k ≠ kid → mget (dieAt t die).energy k = mget (dieAt s die).energy k) ∧ t.cores = s.cores ∧ t.mem = s.mem)

/-- R79, R83, R135, R136: an armed threshold unit that its counter crosses sends one message of priority 7 and disarms; and the oldest failure record goes to
its context's failure queue, where FTAIL then grows by one, or is counted as lost, or goes to the context's home chip. Where the spec leaves a point of this
open the model chose: logs 38, 39, 40 and 54. -/
def Obligations.ThresholdsAndFailureRecords : Prop :=
  ∀ (s : State) (die u : Nat) (v : Word),
    let x := thrOf s die u
    let row := fld x.ctl 47 41
    let csel := fld x.ctl 55 48
    let val : Word :=
      if csel = 2 ∨ csel = 5 then v
      else if csel = 1 then wd (max (mgetD (dieAt s (row / 64)).starve row 0) v.toNat - x.base)
      else if csel = 3 then wd (heldFor s.now 4 (rowState s row) - x.base)
      else if csel = 4 then wd (heldFor s.now 3 (rowState s row) - x.base)
      else 0
    let cross := if bit x.ctl 62 = true then val.toNat < x.thresh.toNat else x.thresh.toNat ≤ val.toNat
    let cid := fld x.target 63 52
    let e := rankEntry s cid (fld x.target 47 32)
    (csel = 0 → exec (.thresholdCrossing die u v) s = .next s) ∧
    (csel ≠ 0 → bit x.ctl 63 = false ∨ ¬ cross →
      ∃ t : State, exec (.thresholdCrossing die u v) s = .next t ∧ thrOf t die u = x ∧ thrValue t die u = val ∧ t.chans = s.chans ∧ t.cores = s.cores ∧ t.mem = s.mem) ∧
    (csel ≠ 0 → bit x.ctl 63 = true → cross → ctxState (ctxOf s cid) ≠ 1 →
      ∃ t : State, exec (.thresholdCrossing die u v) s = .next t ∧ thrOf t die u = { x with ctl := setFld x.ctl 63 63 0 } ∧ t.chans = s.chans ∧ t.cores = s.cores ∧
        t.mem = s.mem) ∧
    (csel ≠ 0 → bit x.ctl 63 = true → cross → ctxState (ctxOf s cid) = 1 → reState e = 1 → reChip e = s.chip → foreignCore s cid e = false →
      ∃ (t : State) (p : Packet) (h : MsgHdr), exec (.thresholdCrossing die u v) s = .next t ∧ thrOf t die u = { x with ctl := setFld x.ctl 63 63 0 } ∧
        chanQ t (regOf s die) (reAgent s e) 2 = chanQ s (regOf s die) (reAgent s e) 2 ++ [p] ∧ p.body = .msg h (wordsBytes [wd u, val, wd s.now]) false ∧
        h.prio = 7 ∧ h.mkind = 7 ∧ h.tag = fld x.target 31 16 ∧ h.handler = fld x.target 15 10 ∧ h.queue = fld x.target 9 8 ∧ p.cid = cid ∧
        t.cores = s.cores ∧ t.mem = s.mem) ∧
    (s.frecs = [] → exec .failureRecordWrite s = .next s) ∧
    (∀ (r : FailRec) (rest : List FailRec), s.frecs = r :: rest →
      let c := r.dest.getD r.cid
      let home := (spanOf s c).headD s.chip
      let d := (ctxOf s c).home
      let q := qregsOf s d c
      let s' := { s with frecs := rest }
      let base := fld q.fqbase 56 6 * 64
      let n := 2 ^ fld q.fqsize 4 0
      (home ≠ s.chip → canSend s (home * 65536) 7 = true → ∃ (t : State) (p : Packet), exec .failureRecordWrite s = .next t ∧ t.frecs = rest ∧ t.egress = s.egress ++ [p] ∧ agChip p.dst = home ∧ p.cls = 7 ∧
        t.cores = s.cores ∧ t.mem = s.mem) ∧
      (home = s.chip → bit q.fqbase 63 = false → exec .failureRecordWrite s = .next (count s' d 8)) ∧
      (∀ p0 p1 p2 p3 : Nat, home = s.chip → bit q.fqbase 63 = true → xlate? s' c base 0 = some p0 → xlate? s' c base 1 = some p1 → paChip p0 = s.chip → paClass p0 < 3 →
        let tail := rdLE s.mem p0 8
        let head := rdLE s.mem (p0 + 8) 8
        let slot := base + 64 + 32 * (tail % n)
        xlate? s' c slot 0 = some p2 → xlate? s' c slot 1 = some p3 → paChip p2 = s.chip → paClass p2 < 3 →
        ((tail + 2 ^ 64 - head) % 2 ^ 64 < n →
          ∃ t : State, exec .failureRecordWrite s = .next t ∧ t.frecs = rest ∧
            t.mem = wrBytes (wrBytes s.mem p2 (wordsBytes (recWords r))) p0 (leBytes 8 (tail + 1)) ∧ t.dies = s.dies) ∧
        (n ≤ (tail + 2 ^ 64 - head) % 2 ^ 64 →
          ∃ t : State, exec .failureRecordWrite s = .next t ∧ t.frecs = rest ∧ t.mem = wrBytes s.mem (p0 + 16) (leBytes 8 (rdLE s.mem (p0 + 16) 8 + 1)) ∧
            (dieAt t d).counters[8] = ((dieAt s d).counters[8] + 1) % 2 ^ 32)))

/-! ### Schedulers and cores (chapters 5 and 7) -/

namespace Sys2Proof.Stated

/-- A packet with this payload, and no other, has entered a channel. -/
def Sent (s t : State) (src dst cls : Nat) (b : Body) : Prop := ∃ q : Packet, chanQ t src dst cls = chanQ s src dst cls ++ [q] ∧ q.body = b ∧ q.src = src ∧ q.dst = dst ∧ q.cls = cls

end Sys2Proof.Stated

/-- R85 to R89, R343, R347: submissions, events and live counts. A scheduler accepts its next submission, tests it against the events, and ends one with a
bad descriptor; KSUB is answered with the kernel or with why not; SETEV changes a quarter of the vector and makes the kernels ready that it satisfies; and a
report changes a live count, which ends the kernel at zero. Where the spec leaves a point of this open the model chose: logs 18, 26 and 34. -/
def Obligations.SubmissionsAndEvents : Prop :=
  ∀ (s : State) (die src : Nat) (p : Packet) (rest : List Packet),
    let sched := schedOf s die
    (s.subs.find? (fun u => decide (u.die = die)) = none → exec (.kernelAccept die) s = .next s) ∧
    (∀ u : SubReq, s.subs.find? (fun u => decide (u.die = die)) = some u →
      let g := fun (i : Nat) => u.words.getD i 0
      let s1 := { s with subs := s.subs.erase u, kidNext := s.kidNext + 1 }
      let k0 : Kernel := { kid := s.chip * 2 ^ 22 + s.kidNext, cid := u.cid, inc := (incAt s sched u.cid).getD (ctxInc (ctxOf s u.cid)), die := die, wq := fld (g 4) 12 11,
                           wmask := g 2, sq := fld (g 4) 14 13, smask := g 3, job := fld (g 4) 47 16, prio := min (fld (g 4) 10 8) (ctxPmax (ctxOf s u.cid)), subtag := g 6,
                           args := (g 1).toNat }
      jobCancelled s die u.cid (fld (g 4) 47 16) = false → (∀ x ∈ s.kernels, x.kid ≠ k0.kid) →
      (∀ k : Kernel, readKernel s1 k0 (fld (g 0) 56 0) (g 5) = some k →
        ∃ t : State, exec (.kernelAccept die) s = .next t ∧ t.subs = s.subs.erase u ∧ t.kidNext = s.kidNext + 1 ∧ t.kernels.length = s.kernels.length + 1 ∧
          (if k.wmask &&& eventSeen s die u.cid k.wq = k.wmask then { k with state := 1, age := s.now } ∈ t.kernels else k ∈ t.kernels) ∧ t.cores = s.cores ∧ t.mem = s.mem) ∧
      (readKernel s1 k0 (fld (g 0) 56 0) (g 5) = none →
        ∃ t : State, exec (.kernelAccept die) s = .next t ∧ t.subs = s.subs.erase u ∧ (∃ k ∈ t.kernels, k.kid = k0.kid ∧ k.state = 3) ∧
          (∃ r ∈ t.frecs, r.cause = 0x45 ∧ r.kind = 4 ∧ r.cid = u.cid ∧ r.subtag = g 6) ∧ t.cores = s.cores ∧ t.mem = s.mem)) ∧
    (∀ (w : List Word) (tok : Nat), chanQ s src sched 2 = p :: rest → p.body = .ksub w tok → p.bad = false → isEng p.tok = false → isRedTok p.tok = false →
      incOk s sched p.cid p.inc = true → agChip p.src = s.chip →
      jobCancelled s die p.cid (fld (w.getD 4 0) 47 16) = false →
      ∃ t : State, exec (.ksubArrive src die) s = .next t ∧ chanQ t src sched 2 = rest ∧ t.mem = s.mem ∧
        (recBad w = true → Sent s t sched p.src 4 (.rdata tok 0x66 false) ∧ t.kernels = s.kernels) ∧
        (recBad w = false → credOf s die p.cid = 0 → Sent s t sched p.src 4 (.rdata tok 1 false) ∧ t.kernels = s.kernels) ∧
        (recBad w = false → credOf s die p.cid ≠ 0 →
          Sent s t sched p.src 4 (.rdata tok (wd ((s.chip * 2 ^ 22 + s.kidNext) * 2 ^ 32)) false) ∧ t.kernels.length = s.kernels.length + 1 ∧
            ∃ k ∈ t.kernels, k.kid = s.chip * 2 ^ 22 + s.kidNext ∧ k.cid = p.cid)) ∧
    (∀ (q : Nat) (mask : Word) (clr : Bool), chanQ s src sched 2 = p :: rest → p.body = .setev q mask clr → p.bad = false → isEng p.tok = false → isRedTok p.tok = false →
      q < 4 → incOk s sched p.cid p.inc = true →
      (holdsEvents s die p.cid = true →
        ∃ t : State, exec (.setevApply src die) s = .next t ∧ chanQ t src sched 2 = rest ∧ t.mem = s.mem ∧
          eventQ t p.cid q = (if clr = true then eventQ s p.cid q &&& ~~~mask else eventQ s p.cid q ||| mask) ∧
          (∀ i, i < 4 → i ≠ q → eventQ t p.cid i = eventQ s p.cid i) ∧
          (eventQ t p.cid q ≠ eventQ s p.cid q → ∀ k ∈ s.kernels, k.cid = p.cid → holdsEvents s k.die p.cid = true → k.state = 0 →
            k.wmask &&& eventQ t p.cid k.wq = k.wmask → { k with state := 1, age := s.now } ∈ t.kernels)) ∧
      (holdsEvents s die p.cid = false → homeChip s p.cid = s.chip →
        ∃ t : State, exec (.setevApply src die) s = .next t ∧ chanQ t src sched 2 = rest ∧ t.mem = s.mem ∧ t.cores = s.cores ∧ eventSeen t die p.cid q = mask ∧
          (∀ i, eventQ t p.cid i = eventQ s p.cid i) ∧ (∀ i, i < 4 → i ≠ q → eventSeen t die p.cid i = eventSeen s die p.cid i) ∧
          (∀ k ∈ s.kernels, k.cid = p.cid → k.die = die → k.state = 0 → k.wmask &&& eventSeen t die p.cid k.wq = k.wmask →
            { k with state := 1, age := s.now } ∈ t.kernels))) ∧
    (s.reports = [] → exec .liveCountReport s = .next s) ∧
    (∀ (r : Report) (rs : List Report) (k : Kernel), s.reports = r :: rs → kernelOf s r.kernel = some k → kernelChip r.kernel = s.chip →
      ∃ (t : State) (k' : Kernel), exec .liveCountReport s = .next t ∧ t.reports = rs ∧ kernelOf t r.kernel = some k' ∧ k'.live = k.live + r.delta ∧
        (k.live + r.delta ≠ 0 → k'.state = k.state) ∧ (k.live + r.delta = 0 → k.state = 2 → k.gates = [] → k'.state = 3) ∧
        (∀ c, r.ackTo = some c → c < 2 ^ 32 → t.acks = s.acks ++ [c]) ∧ t.cores = s.cores ∧ t.mem = s.mem) ∧
    (∀ core : Nat,
      (s.acks.find? (fun a => decide (a % 2048 = core)) = none → exec (.liveCountAck core) s = .next s) ∧
      (∀ a : Nat, s.acks.find? (fun a => decide (a % 2048 = core)) = some a →
        ∃ t : State, exec (.liveCountAck core) s = .next t ∧ t.acks = s.acks.erase a ∧ (∀ c, c ≠ core → coreOf t c = coreOf s c) ∧ t.mem = s.mem ∧
          (a / 2048 ≠ (coreOf s core).rptId → t.cores = s.cores) ∧
          (a / 2048 = (coreOf s core).rptId → (coreOf t core).rptWait = (coreOf s core).rptWait - 1 ∧
            (coreOf t core).flush = (if (coreOf s core).flush = some 0 ∧ (coreOf s core).rptWait ≤ 1 then none else (coreOf s core).flush))))

/-- R86, R91, R93, R95, R106: launches. The first READY kernel of a die sends its launch messages in mask order, or hands its elements to the dispatchers,
and runs; a gang's gate is armed on its row; and a kernel whose payload cannot be read, or whose ranks are placed wrongly, is DONE with its record. Where the
spec leaves a point of this open the model chose: logs 18, 26, 47 and 55. -/
def Obligations.Launches : Prop :=
  ∀ (s : State) (die kid : Nat) (k : Kernel), kernelOf s kid = some k →
    (k.die ≠ die ∨ k.state ≠ 1 ∨ kernelOk s k = false → exec (.schedulerLaunch die kid) s = .next s ∧ exec (.gateArm die kid) s = .next s) ∧
    (k.shape = 1 ∨ k.shape = 2 ∨ kernelFirst s k false = false → exec (.schedulerLaunch die kid) s = .next s) ∧
    (k.shape ≠ 1 → k.shape ≠ 2 → exec (.gateArm die kid) s = .next s) ∧
    (k.die = die → k.state = 1 → kernelOk s k = true →
      (∀ (rank : Nat) (pay : List Byte), kernelFirst s k false = true → k.shape = 0 → k.ranks = [rank] → launchPay s k = some pay → 0 ≤ k.live →
        let e := rankEntry s k.cid rank
        reState e = 1 → reChip e = s.chip → foreignCore s k.cid e = false →
        ∃ (t : State) (h : MsgHdr) (k' : Kernel), exec (.schedulerLaunch die kid) s = .next t ∧ Sent s t (schedOf s die) (reAgent s e) 2 (.msg h pay false) ∧
          h.kernel = kid ∧ h.trank = rank ∧ h.mkind = 4 ∧ h.x6 = 0 ∧ h.handler = k.handler ∧ h.queue = k.queue ∧ h.prio = k.prio ∧ h.job = k.job ∧
          kernelOf t kid = some k' ∧ k'.state = 2 ∧ k'.live = k.live + 1 ∧ k'.qentry = false ∧ t.cores = s.cores ∧ t.mem = s.mem) ∧
      (kernelFirst s k false = true → k.shape = 0 → launchPay s k = none →
        ∃ (t : State) (k' : Kernel), exec (.schedulerLaunch die kid) s = .next t ∧ kernelOf t kid = some k' ∧ k'.state = 3 ∧
          (∃ r ∈ t.frecs, r.cause = 0x45 ∧ r.kind = 4 ∧ r.cid = k.cid ∧ r.subtag = k.subtag) ∧ t.cores = s.cores ∧ t.mem = s.mem) ∧
      (kernelFirst s k false = true → k.shape = 3 → elemOk s k = true → k.count ≠ 0 → 0 ≤ k.live →
        ∃ (t : State) (k' : Kernel), exec (.schedulerLaunch die kid) s = .next t ∧ kernelOf t kid = some k' ∧ k'.state = 2 ∧ k'.live = k.live + k.count ∧
          (∀ (d : Nat) (a : AdjReg), d < 2 → kernelAdj s k = some a →
            let es := ((List.range k.count).map (k.first + ·)).filter fun e => decide (2 * (ownerAt s a e).1 + (ownerAt s a e).2 = 2 * s.chip + d)
            (dieAt t d).disp.cursors = (dieAt s d).disp.cursors ++ (if es = [] then [] else [{ kernel := kid, elems := es }])) ∧
          t.cores = s.cores ∧ t.mem = s.mem) ∧
      ((k.shape = 1 ∨ k.shape = 2) → k.placed = false → (∃ r ∈ k.ranks, reState (rankEntry s k.cid r) = 2) →
        (∀ r ∈ k.ranks, reState (rankEntry s k.cid r) ≠ 0 ∧ reState (rankEntry s k.cid r) ≠ 3) → exec (.gateArm die kid) s = .next s) ∧
      (∀ (g cs : List Nat) (c : Nat) (pay : List Byte), k.shape = 1 → k.placed = false → gateGroups k = [g] → (∀ r ∈ k.ranks, reState (rankEntry s k.cid r) = 1) →
        groupPlace s k g = some (s.chip, cs) → cs.head? = some c → kernelFirst s k true = true → launchPay s k = some pay → k.armed = 0 → kernelChip kid = s.chip →
        gateable s cs = true → rowOf c ∉ armedRows s → crewWaits s k [rowOf c] = false →
        ∃ (t : State) (x : Gang) (k' : Kernel), exec (.gateArm die kid) s = .next t ∧ t.gangs = s.gangs ++ [x] ∧ x.kernel = kid ∧ x.members = cs ∧ x.present = cs ∧
          x.size = k.gang ∧ x.row = rowOf c ∧ kernelOf t kid = some k' ∧ k'.state = 2 ∧ k'.live = k.live + g.length ∧ k'.gates = k.gates ++ [rowOf c] ∧
          (∀ x ∈ cs, ∃ y ∈ (coreOf t x).gates, y.1 = kid ∧ y.2.2.hdr.mkind = 4 ∧ (coreOf t x).pend = ((coreOf s x).act.isSome || (coreOf s x).pend)) ∧ t.mem = s.mem) ∧
      (∀ g : List Nat, k.shape = 1 → k.placed = false → k.todo = [] → gateGroups k = [g] → (∀ r ∈ k.ranks, reState (rankEntry s k.cid r) = 1) → groupPlace s k g = none →
        ∃ (t : State) (k' : Kernel), exec (.gateArm die kid) s = .next t ∧ kernelOf t kid = some k' ∧ k'.state = 3 ∧
          (∃ r ∈ t.frecs, r.cause = 0x46 ∧ r.kind = 4 ∧ r.cid = k.cid) ∧ t.gangs = s.gangs ∧ t.cores = s.cores ∧ t.mem = s.mem))

/-- R90, R91, R101, R127, R128, R137: an idle core starts the message that comes first, at its handler and with its entry registers, or drops it where its
job is cancelled; a waiting queue ages; and a chain whose budget is spent takes WDOG. Where the spec leaves a point of this open the model chose: logs 17, 20
and 56. -/
def Obligations.Activations : Prop :=
  ∀ (s : State) (core slot q : Nat),
    let k := coreOf s core
    (canStart s core = false → exec (.activationStart core) s = .next s) ∧
    (canStart s core = true → k.succ = none → k.gates = [] → (k.stopped = true ∨ candidates s core = []) → exec (.activationStart core) s = .next s) ∧
    (∀ (m : QMsg) (r : Resident), canStart s core = true → k.succ = none → k.gates = [] → k.stopped = false → bestOf (candidates s core) = some (slot, q, m) →
      (slotOf k slot).resident = some r → incOk s (niOf s core) m.cid m.inc = true → m.poison = false →
      ((∀ j ∈ k.cancel, ¬ (j.1 = m.hdr.job ∧ m.hdr.kernel ≠ 0)) → handlerV (handlerOf (slotOf k slot) m.hdr.handler) = true → (kernelOf s m.hdr.kernel).any (·.paired) = false →
        ∃ (t : State) (a : Act), exec (.activationStart core) s = .next t ∧ (coreOf t core).act = some a ∧ a.slot = slot ∧ a.queue = q ∧ a.handler = m.hdr.handler ∧ a.msg = m ∧
          a.cid = r.cid ∧ a.rank = r.rank ∧ (coreOf t core).pc = handlerPc (handlerOf (slotOf k slot) m.hdr.handler) ∧ rx (coreOf t core) 1 = wd m.addr ∧
          rx (coreOf t core) 2 = wd m.len ∧ rx (coreOf t core) 3 = (if m.hdr.mkind = 4 then 0 else wd m.hdr.tag) ∧ rx (coreOf t core) 4 = wd m.hdr.msgid ∧
          (∀ x : Reg, 9 ≤ x.toNat → rx (coreOf t core) x = 0) ∧ (coreOf t core).restart = true ∧ (coreOf t core).aborts = m.aborts ∧
          (queueOf (slotOf (coreOf t core) slot) q).msgs = (queueOf (slotOf k slot) q).msgs.tail ∧ (coreOf t core).lm = k.lm ∧
          (∀ c, c ≠ core → coreOf t c = coreOf s c) ∧ t.mem = s.mem) ∧
      (m.task = none → m.eosEnd = none → (∃ j ∈ k.cancel, j.1 = m.hdr.job) → m.hdr.kernel ≠ 0 →
        ∃ t : State, exec (.activationStart core) s = .next t ∧ (coreOf t core).act = none ∧ t.reports = s.reports ++ [⟨m.hdr.kernel, -1, none⟩] ∧
          (queueOf (slotOf (coreOf t core) slot) q).msgs = (queueOf (slotOf k slot) q).msgs.tail ∧ t.mem = s.mem)) ∧
    (let x := queueOf (slotOf k slot) q
     let period := max 1 (fld (dieAt s (dieOf core)).schedage 15 0) * 1024
     (x.msgs = [] ∨ x.age < period → exec (.ageingTick core slot q) s = .next s) ∧
     (∀ (m : QMsg) (ms : List QMsg), x.msgs = m :: ms → period ≤ x.age →
       ∃ t : State, exec (.ageingTick core slot q) s = .next t ∧
         queueOf (slotOf (coreOf t core) slot) q = { x with age := x.age - period, bump := min (x.bump + 1) (7 - min 7 m.hdr.prio) } ∧
         (coreOf t core).x = k.x ∧ (coreOf t core).act = k.act ∧ (∀ c, c ≠ core → coreOf t c = coreOf s c) ∧ t.mem = s.mem)) ∧
    (k.act = none ∨ k.wdog ≠ 0 ∨ k.hold = true → exec (.watchdogExpire core) s = .next s) ∧
    (∀ a : Act, k.act = some a → k.wdog = 0 → k.hold = false →
      exec (.watchdogExpire core) s = .next (takeTrap s core 0x23 none) ∧
      (k.twin = none → k.restart = false → ∃ t : State, exec (.watchdogExpire core) s = .next t ∧
        ∃ f ∈ t.frecs, f.cause = 0x23 ∧ f.kind = 0 ∧ f.cid = a.cid ∧ f.rank = a.rank ∧ f.msgid = a.msg.hdr.msgid ∧ f.detail = k.pc))

/-! ### The dispatcher (chapters 6 and 21) -/

namespace Sys2Proof.Stated

/-- The agent number of the lock engine of a slice of a die of this chip. -/
def engineOf (s : State) (d sl : Nat) : Nat := s.chip * 65536 + lockOf s d sl % 65536

/-- A lock message of a task. -/
def lockMsg (s : State) (die : Nat) (t : Task) (locks : List (Nat × Bool)) (kind : Nat) (compound : Bool) : Body :=
  .lock { chip := s.chip, die := die, widx := t.widx, age := t.age, reg := t.reg, locks := locks, kind := kind, compound := compound, key := t.key }

end Sys2Proof.Stated

/-- R103, R104, R106, R107, R111, R115, R345, R346: registrations, spawns and the window. ADJREG registers a record that passes its checks, drops one that no
kernel uses, and else answers why not; a spawn that names an element of a running element kernel is queued; and a window entry is filled from the spawns
first, then from the cursors. Where the spec leaves a point of this open the model chose: logs 19, 31 and 49. -/
def Obligations.RegistrationsAndWindow : Prop :=
  ∀ (s : State) (src die : Nat) (p : Packet) (rest : List Packet),
    let disp := dispOf s die
    (∀ (num addr tok : Nat), chanQ s src disp 0 = p :: rest → p.body = .adjreg num addr tok → incOk s disp p.cid p.inc = true → agChip p.src = s.chip →
      spanOthers s p.cid = [] →
      let stands := s.adjs.find? fun a => decide (a.cid = p.cid ∧ a.inc = p.inc ∧ a.num = num)
      ∃ t : State, exec (.adjregRequest src die) s = .next t ∧ chanQ t src disp 0 = rest ∧ t.cores = s.cores ∧ t.mem = s.mem ∧
        (addr = 0 → stands = none → Sent s t disp p.src 4 (.rdata tok 0 false) ∧ t.adjs = s.adjs) ∧
        (addr = 0 → stands ≠ none → adjBusy s p.cid p.inc num = true → Sent s t disp p.src 4 (.rdata tok 1 false) ∧ t.adjs = s.adjs) ∧
        (addr = 0 → stands ≠ none → adjBusy s p.cid p.inc num = false →
          Sent s t disp p.src 4 (.rdata tok 0 false) ∧ (∀ a, a ∈ t.adjs ↔ a ∈ s.adjs ∧ ¬ (a.cid = p.cid ∧ a.inc = p.inc ∧ a.num = num)) ∧
            ∀ h ∈ t.holds, ¬ (h.cid = p.cid ∧ h.reg = num)) ∧
        (addr ≠ 0 → stands ≠ none → Sent s t disp p.src 4 (.rdata tok 1 false) ∧ t.adjs = s.adjs) ∧
        (∀ st : Nat, addr ≠ 0 → adjCheck s die p.cid p.inc num addr = .inr st → Sent s t disp p.src 4 (.rdata tok (wd st) false) ∧ t.adjs = s.adjs) ∧
        (∀ a : AdjReg, addr ≠ 0 → adjCheck s die p.cid p.inc num addr = .inl a →
          Sent s t disp p.src 4 (.rdata tok 0 false) ∧ t.adjs = s.adjs ++ [a] ∧ a.num = num ∧ a.cid = p.cid ∧ a.nelem ≠ 0 ∧ holdFull s a = false)) ∧
    (∀ (h : MsgHdr) (elem : Nat) (pay : List Byte), chanQ s src disp 2 = p :: rest → p.body = .dspn h elem pay → incOk s disp p.cid p.inc = true →
      (∀ k : Kernel, kernelOf s h.kernel = some k → k.cid ≠ p.cid ∨ k.state ≠ 2 ∨ k.shape ≠ 3 →
        ∃ t : State, exec (.dspnArrive src die) s = .next t ∧ chanQ t src disp 2 = rest ∧ (∃ r ∈ t.frecs, r.cause = 0x45 ∧ r.cid = p.cid ∧ r.kind = 1) ∧
          (dieAt t die).disp.spawnq = (dieAt s die).disp.spawnq ∧ t.mem = s.mem) ∧
      (∀ (k : Kernel) (a : AdjReg), kernelOf s h.kernel = some k → k.cid = p.cid → k.state = 2 → k.shape = 3 → kernelAdj s k = some a →
        (a.nelem ≤ elem → ∃ t : State, exec (.dspnArrive src die) s = .next t ∧ chanQ t src disp 2 = rest ∧ (∃ r ∈ t.frecs, r.cause = 0x43 ∧ r.cid = p.cid ∧ r.kind = 1) ∧
          (dieAt t die).disp.spawnq = (dieAt s die).disp.spawnq ∧ t.mem = s.mem) ∧
        (elem < a.nelem → jobCancelled s die p.cid h.job = false → 65536 ≤ (dieAt s die).disp.spawnq.length → exec (.dspnArrive src die) s = .next s) ∧
        (elem < a.nelem → jobCancelled s die p.cid h.job = false → (dieAt s die).disp.spawnq.length < 65536 →
          ∃ t : State, exec (.dspnArrive src die) s = .next t ∧ chanQ t src disp 2 = rest ∧ (dieAt t die).disp.spawnq = (dieAt s die).disp.spawnq ++
            [{ kernel := h.kernel, cid := p.cid, inc := p.inc, elem := elem, tag := h.tag, srank := h.srank, pay := pay, poison := p.bad }] ∧ t.mem = s.mem))) ∧
    (let x := (dieAt s die).disp
     let cs := x.cursors.filter fun c => match kernelOf s c.kernel with | some k => windowRoom s die k.cid | none => false
     let noSpawn := ∀ w, x.spawnq.head? = some w → windowRoom s die w.cid = false
     (∀ (w : Spawn) (ws : List Spawn) (k : Kernel), x.spawnq = w :: ws → windowRoom s die w.cid = true → kernelOf s w.kernel = some k →
       ∃ (t : State) (y : Task), exec (.windowRefill die) s = .next t ∧ (dieAt t die).disp.window = x.window ++ [y] ∧ (dieAt t die).disp.spawnq = ws ∧
         y.age = x.nextAge ∧ y.elem = w.elem ∧ y.pay = w.pay ∧ y.spawned = true ∧ y.tag = w.tag ∧ y.srank = w.srank ∧ y.reg = k.adj ∧ y.radius = k.radius ∧ y.state = 0 ∧
         (∀ z ∈ x.window, z.widx ≠ y.widx) ∧ t.cores = s.cores ∧ t.mem = s.mem) ∧
     (noSpawn → firstCursor s cs = none → exec (.windowRefill die) s = .next s) ∧
     (∀ (c : Cursor) (k : Kernel), noSpawn → firstCursor s cs = some (c, k) → c.elems = [] →
       ∃ t : State, exec (.windowRefill die) s = .next t ∧ (dieAt t die).disp.cursors = x.cursors.erase c ∧ (dieAt t die).disp.window = x.window ∧ t.cores = s.cores ∧ t.mem = s.mem) ∧
     (∀ (c : Cursor) (k : Kernel) (e : Nat) (es : List Nat) (pay : List Byte), noSpawn → firstCursor s cs = some (c, k) → c.elems = e :: es → launchPay s k = some pay →
       ∃ (t : State) (y : Task), exec (.windowRefill die) s = .next t ∧ (dieAt t die).disp.window = x.window ++ [y] ∧ { c with elems := es } ∈ (dieAt t die).disp.cursors ∧
         y.age = x.nextAge ∧ y.elem = e ∧ y.pay = pay ∧ y.spawned = false ∧ y.state = 0 ∧ y.reg = k.adj ∧ y.radius = k.radius ∧ t.cores = s.cores ∧ t.mem = s.mem))

/-- R105, R108, R109, R111 to R114, R116: a task's life. The oldest eligible task asks for its locks; with all of them it issues to the owner's rank, with
one refused it waits and tries again, and after 64 failures it takes a stake slot and a key; and once its chain has ended and its effects are acknowledged,
its locks go back and it is done. Where the spec leaves a point of this open the model chose: logs 19 and 35. -/
def Obligations.DispatchedTasks : Prop :=
  ∀ (s : State) (src die age : Nat) (t0 : Task), taskAt s die age = some t0 →
    let disp := dispOf s die
    let x := (dieAt s die).disp
    (eligible s t0 = false → t0.state ≠ 6 → exec (.taskTry die age) s = .next s) ∧
    (∀ a : AdjReg, taskAdj s t0 = some a → eligible s t0 = true → (x.window.filter fun u => decide (u.state = 1)).length < 64 →
      (∀ u ∈ x.window, u.age < age → eligible s u = false) →
      let l := lockSet s a t0.elem t0.radius
      (8192 < l.length → ∃ t : State, exec (.taskTry die age) s = .next t ∧ taskAt t die age = none ∧
        (∃ r ∈ t.frecs, r.cause = 0x44 ∧ r.kind = 1 ∧ r.cid = t0.cid ∧ r.inc = t0.inc) ∧ t.cores = s.cores ∧ t.mem = s.mem) ∧
      (∀ d sl : Nat, l.length ≤ 8192 → (∀ y ∈ l, engineAt s a y.1 = engineAt s a t0.elem) → engineAt s a t0.elem = (s.chip, d, sl) →
        ∃ t : State, exec (.taskTry die age) s = .next t ∧ taskAt t die age = some { t0 with state := 1, locks := l, granted := [], refused := false, waiting := 1 } ∧
          Sent s t disp (engineOf s d sl) 7 (lockMsg s die t0 l 0 true) ∧ t.cores = s.cores ∧ t.mem = s.mem) ∧
      (l.length ≤ 8192 → (∃ y ∈ l, engineAt s a y.1 ≠ engineAt s a t0.elem) →
        ∃ t : State, exec (.taskTry die age) s = .next t ∧
          taskAt t die age = some { t0 with state := 1, locks := l, granted := [], refused := false, waiting := l.length } ∧ t.cores = s.cores ∧ t.mem = s.mem)) ∧
    (∀ (p : Packet) (rest : List Packet) (r : LockReq) (granted older : Bool) (clock : Nat), chanQ s src disp 7 = p :: rest → p.body = .lockRsp r granted older clock →
      incOk s disp p.cid p.inc = true → r.widx = t0.widx → r.age = age → t0.age = age → p.cid = t0.cid → r.reg = t0.reg → r.kind = 0 →
      let clk := if seqLt clock x.clock = true then x.clock else (clock + 1) % 2 ^ 32
      (1 < t0.waiting → ∃ t : State, exec (.lockResponse src die) s = .next t ∧ chanQ t src disp 7 = rest ∧ (dieAt t die).disp.clock = clk ∧
        taskAt t die age = some { t0 with waiting := t0.waiting - 1, granted := if granted = true then t0.granted ++ r.locks else t0.granted, refused := t0.refused || !granted } ∧
        t.cores = s.cores ∧ t.mem = s.mem) ∧
      (t0.waiting = 1 → t0.granted = [] → granted = false →
        ∃ (t : State) (y : Task), exec (.lockResponse src die) s = .next t ∧ taskAt t die age = some y ∧ y.fails = t0.fails + 1 ∧
          y.state = (if 64 ≤ t0.fails + 1 then 2 else 0) ∧ y.failedAt = s.now ∧ y.failedSince = true ∧ (dieAt t die).disp.fails = (x.fails + 1) % 2 ^ 32 ∧
          (dieAt t die).disp.clock = clk ∧ t.cores = s.cores ∧ t.mem = s.mem) ∧
      (∀ (k : Kernel) (a : AdjReg), t0.waiting = 1 → t0.refused = false → granted = true → kernelOf s t0.kernel = some k → taskAdj s t0 = some a → k.place = 0 →
        let e := rankEntry s k.cid (ownerRank s a t0.elem)
        reState e = 1 → reChip e = s.chip → foreignCore s k.cid e = false →
        ∃ (t : State) (h : MsgHdr) (y : Task), exec (.lockResponse src die) s = .next t ∧ taskAt t die age = some y ∧ y.state = 4 ∧ y.granted = t0.granted ++ r.locks ∧
          y.rank = ownerRank s a t0.elem ∧ y.msgid = h.msgid ∧ Sent s t disp (reAgent s e) 2 (.msg h t0.pay t0.poison) ∧ h.mkind = 5 ∧ h.x6 = t0.elem ∧
          h.x7 = adjOff s a (t0.elem + 1) - adjOff s a t0.elem ∧ h.x8 = a.nbr + 4 * adjOff s a t0.elem ∧ h.handler = k.handler ∧ h.kernel = k.kid ∧
          t.cores = s.cores ∧ t.mem = s.mem)) ∧
    (t0.state = 2 → x.stakes.length < 64 → (∀ u ∈ x.window, u.age < age → u.state ≠ 2) → ∀ a : AdjReg, taskAdj s t0 = some a →
      ∃ (t : State) (y : Task) (slot : Nat), exec (.stakeSlotGrant die age) s = .next t ∧ taskAt t die age = some y ∧ y.state = 3 ∧ y.key = some (x.clock, s.chip, die, slot) ∧
        slot < 64 ∧ slot ∉ x.stakes ∧ (dieAt t die).disp.stakes = x.stakes ++ [slot] ∧ (dieAt t die).disp.clock = (x.clock + 1) % 2 ^ 32 ∧ t.cores = s.cores ∧ t.mem = s.mem) ∧
    (t0.state ≠ 2 ∨ 64 ≤ x.stakes.length → exec (.stakeSlotGrant die age) s = .next s) ∧
    (∀ e : EndedTask, x.ended.find? (fun e => decide (e.age = age)) = some e →
      ((∃ u ∈ (coreOf s e.core).unack, u.tok < e.tok) ∨ (∃ o ∈ (coreOf s e.core).out, o.tok < e.tok) → exec (.taskChainEnd die age) s = .next s) ∧
      ((∀ u ∈ (coreOf s e.core).unack, e.tok ≤ u.tok) → (∀ o ∈ (coreOf s e.core).out, e.tok ≤ o.tok) →
        ∃ t : State, exec (.taskChainEnd die age) s = .next t ∧ (dieAt t die).disp.ended = x.ended.erase e ∧ t.cores = s.cores ∧ t.mem = s.mem ∧
          (e.again = false → taskAt t die age = none) ∧
          (e.again = true → t0.age = age → ∃ y : Task, taskAt t die age = some y ∧ y.state = (if 64 ≤ t0.fails then 2 else 0) ∧ y.granted = [] ∧ y.aborts = t0.aborts + 1 ∧
            y.elem = t0.elem ∧ y.age = age) ∧
          (∀ (a : AdjReg) (y : Nat × Bool) (d sl : Nat), taskAdj s t0 = some a → t0.granted = [y] → engineAt s a y.1 = (s.chip, d, sl) →
            Sent s t disp (engineOf s d sl) 7 (lockMsg s die t0 [y] 2 false))))

/-- R107, R108, R116, R351: the lock engines. A try is granted all or none; a staked acquisition is granted when it can be, and else waits; a release gives
locks back; an older stake stays and a younger one is replaced, and a lift takes away its own; and each answer carries the engines' clock. Where the spec
leaves a point of this open the model chose: logs 35 and 36. -/
def Obligations.LockEngines : Prop :=
  ∀ (s : State) (src die sl : Nat) (p : Packet) (rest : List Packet) (r : LockReq) (y : Nat × Bool),
    chanQ s src (lockOf s die sl) 7 = p :: rest → die < 2 → p.body = .lock r → incOk s (lockOf s die sl) p.cid p.inc = true → r.chip = s.chip → r.locks = [y] →
    let eng := die + 2 * sl
    let at_ := lockOf s die sl
    let now := engClockOf s die sl
    let h := holdOf s p.cid r.reg y.1
    let dst := s.chip * 65536 + dispOf s r.die % 65536
    let clk := fun (k : Nat) => if seqLt k now = true then now else (k + 1) % 2 ^ 32
    let taken := if y.2 = true then { h with w := true, wchip := r.chip, wdie := r.die, widx := r.widx } else { h with readers := h.readers + 1 }
    (r.kind = 0 → r.key = none →
      ∃ t : State, exec (.lockRequest src eng) s = .next t ∧ chanQ t src at_ 7 = rest ∧ t.cores = s.cores ∧ t.mem = s.mem ∧
        (grantable h y.2 none = true → holdOf t p.cid r.reg y.1 = taken ∧ Sent s t at_ dst 7 (.lockRsp r true false now)) ∧
        (grantable h y.2 none = false → t.holds = s.holds ∧ Sent s t at_ dst 7 (.lockRsp r false false now)) ∧
        ∀ c reg e, (c ≠ p.cid ∨ reg ≠ r.reg ∨ e ≠ y.1) → holdOf t c reg e = holdOf s c reg e) ∧
    (∀ key : Nat × Nat × Nat × Nat, r.kind = 1 → r.key = some key →
      let q := { r with cid := p.cid, inc := p.inc, eng := sl }
      ∃ t : State, exec (.lockRequest src eng) s = .next t ∧ chanQ t src at_ 7 = rest ∧ t.cores = s.cores ∧ t.mem = s.mem ∧
        (grantable h y.2 r.key = true → holdOf t p.cid r.reg y.1 = taken ∧ Sent s t at_ dst 7 (.lockRsp q true false (clk key.1))) ∧
        (grantable h y.2 r.key = false → h.stake = none → t.holds = s.holds ∧ (dieAt t die).disp.waiters = (dieAt s die).disp.waiters ++ [q])) ∧
    (r.kind = 2 → (∀ w ∈ (dieAt s die).disp.waiters, w.eng ≠ sl) →
      ∃ t : State, exec (.lockRelease src eng) s = .next t ∧ chanQ t src at_ 7 = rest ∧
        (y.2 = true → (holdOf t p.cid r.reg y.1).w = false) ∧ (y.2 = false → (holdOf t p.cid r.reg y.1).readers = h.readers - 1) ∧
        (holdOf t p.cid r.reg y.1).stake = h.stake ∧ (∀ c reg e, (c ≠ p.cid ∨ reg ≠ r.reg ∨ e ≠ y.1) → holdOf t c reg e = holdOf s c reg e) ∧
        t.cores = s.cores ∧ t.mem = s.mem) ∧
    (∀ key : Nat × Nat × Nat × Nat, r.kind = 3 → r.key = some key →
      ∃ t : State, exec (.stakeRequest src eng) s = .next t ∧ chanQ t src at_ 7 = rest ∧ Sent s t at_ dst 7 (.lockRsp r true false (clk key.1)) ∧
        (h.stake = none → (holdOf t p.cid r.reg y.1).stake = some key) ∧
        (∀ old, h.stake = some old → (holdOf t p.cid r.reg y.1).stake = if olderKey old key = true then some old else some key) ∧ t.cores = s.cores ∧ t.mem = s.mem) ∧
    (∀ key : Nat × Nat × Nat × Nat, r.kind = 4 → r.key = some key → (∀ w ∈ (dieAt s die).disp.waiters, w.eng ≠ sl) →
      ∃ t : State, exec (.stakeRequest src eng) s = .next t ∧ chanQ t src at_ 7 = rest ∧
        (holdOf t p.cid r.reg y.1).stake = (if h.stake = some key then none else h.stake) ∧ t.cores = s.cores ∧ t.mem = s.mem)

/-- R101, R118, R348: a job is cancelled on this chip at once, its queued kernels going to CANCELLED, and the issuer is answered when every kernel of the job
has no live activation and every other chip has answered; with every place of a filter in use, BUSY is answered. Where the spec leaves a point of this open
the model chose: log 40. -/
def Obligations.JobCancel : Prop :=
  ∀ (s : State) (src die : Nat) (p : Packet) (rest : List Packet) (job tok : Nat),
    let sched := schedOf s die
    (chanQ s src sched 2 = p :: rest → p.body = .jcan job tok → p.bad = false → isEng p.tok = false → isRedTok p.tok = false → incOk s sched p.cid p.inc = true → agChip p.src = s.chip →
      (filtersFull s p.cid = true → ∃ t : State, exec (.jcanApply src die) s = .next t ∧ chanQ t src sched 2 = rest ∧ Sent s t sched p.src 4 (.rdata tok 1 false) ∧
        t.kernels = s.kernels ∧ t.ops = s.ops ∧ t.mem = s.mem) ∧
      (filtersFull s p.cid = false →
        ∃ (t : State) (o : Op), exec (.jcanApply src die) s = .next t ∧ o ∈ t.ops ∧ o.kind = 4 ∧ o.cid = p.cid ∧ o.arg = job ∧ o.arg2 = tok ∧ o.org = none ∧
          o.left = spanOthers s p.cid ∧ (∀ d, (p.cid, job) ∈ (dieAt t d).cancelJobs) ∧
          (∀ k ∈ s.kernels, k.cid = p.cid → k.job = job → k.state ≤ 1 → ∃ k' ∈ t.kernels, k'.kid = k.kid ∧ k'.state = 4) ∧ t.mem = s.mem)) ∧
    (∀ (op : Nat) (o : Op), s.ops.find? (fun o => decide (o.tok = op ∧ o.kind = 4)) = some o →
      (o.left ≠ [] ∨ (∃ k ∈ s.kernels, k.cid = o.cid ∧ k.job = o.arg ∧ k.live ≠ 0) ∨ (∃ r ∈ s.reports, ∃ k, kernelOf s r.kernel = some k ∧ k.cid = o.cid ∧ k.job = o.arg) →
        exec (.jcanComplete op) s = .next s) ∧
      (o.left = [] → (∀ k ∈ s.kernels, k.cid = o.cid → k.job = o.arg → k.live = 0) →
        (∀ r ∈ s.reports, ∀ k, kernelOf s r.kernel = some k → k.cid = o.cid → k.job ≠ o.arg) → o.org = none → dieOf o.core < 2 →
        ∃ t : State, exec (.jcanComplete op) s = .next t ∧ t.ops = s.ops.erase o ∧
          Sent s t (schedOf s (dieOf o.core)) (niOf s o.core) 4 (.rdata o.arg2 0 false) ∧
          (∀ kv ∈ s.cores, corePart s kv.1 = some (ctxPart (ctxOf s o.cid)) → (o.arg, false) ∉ (coreOf t kv.1).cancel) ∧ t.mem = s.mem))

/-! ### Arrivals at the NIs and the overflow store (chapters 5, 7, 10) -/

namespace Sys2Proof.Stated

/-- A message of n bytes for a queue of a slot finds its place: a resident, LAND for it, fewer than 256 messages before it, and nothing of the resident parked. -/
def Room (s : State) (core slot q n a : Nat) : Prop :=
  ∃ r, (slotOf (coreOf s core) slot).resident = some r ∧ roundUp n 64 ≤ rgSize (rgOf (slotOf (coreOf s core) slot) 2) ∧
    (queueOf (slotOf (coreOf s core) slot) q).msgs.length < 256 ∧ landPlace (coreOf s core) slot n = some a ∧ spilling s (dieOf core) r.cid r.rank = false

/-- A message stands at the tail of a queue, with its payload at an address of LAND. -/
def Landed (s t : State) (core slot q a : Nat) (h : MsgHdr) (pay : List Byte) : Prop :=
  (∃ m : QMsg, (queueOf (slotOf (coreOf t core) slot) q).msgs = (queueOf (slotOf (coreOf s core) slot) q).msgs ++ [m] ∧ m.hdr = { h with aborts := 0 } ∧ m.addr = a ∧ m.len = pay.length) ∧
  (Memory.wf (coreOf s core).lm = true → rdBytes (coreOf t core).lm a pay.length = pay ∧
    ∀ x, (x < a ∨ a + pay.length ≤ x) → rdByte (coreOf t core).lm x = rdByte (coreOf s core).lm x)

/-- The record of an end after a step. -/
def EndIs (t : State) (core : Nat) (key : EndKey) (e : EndRec) : Prop := endRec (coreOf t core) key = some e

/-- A packet with the token of a core's effect, as messages and stream packets have it. -/
def Plain (p : Packet) : Prop := isEng p.tok = false ∧ isRedTok p.tok = false

/-- A stream packet at the head of its channel to an NI that holds the end it is for, in its own incarnation. -/
def Arrives (s : State) (src core : Nat) (p : Packet) (rest : List Packet) (key : EndKey) (e : EndRec) : Prop :=
  chanQ s src (niOf s core) 3 = p :: rest ∧ p.cls = 3 ∧ Plain p ∧ (incExempt p = true ∨ incOk s (niOf s core) p.cid p.inc = true) ∧
  key = ((strmHdr p.body).scid, (strmHdr p.body).sid, (strmHdr p.body).ekind) ∧ endRec (coreOf s core) key = some e ∧ e.state ≠ 7 ∧
  (∀ x ∈ (coreOf s core).ends, keyOf x = key → x.state ≠ 7) ∧ (coreOf s core).loop = none

end Sys2Proof.Stated

/-- R126, R129, R389, R96 to R99: a message lands in its queue, behind what is there, and sets PEND where it is above what runs; without a resident it is
reported; what finds no place parks and later drains in order; and an NI forgets a rank and acknowledges once what it sent there has landed. Where the spec
leaves a point of this open the model chose: logs 17 and 25. -/
def Obligations.MessageArrivals : Prop :=
  ∀ (s : State) (src core die cid rank : Nat) (p : Packet) (rest : List Packet),
    let k := coreOf s core
    (∀ (h : MsgHdr) (pay : List Byte) (a : Nat), chanQ s src (niOf s core) 2 = p :: rest → p.body = .msg h pay false → p.bad = false → Plain p →
      incOk s (niOf s core) p.cid p.inc = true → (inject s (dieOf core) p.cid 0).1 = false →
      (badHdr h pay.length = true → ∃ t : State, exec (.messageLand src core) s = .next t ∧
        (dieAt t (dieOf core)).counters[2] = ((dieAt s (dieOf core)).counters[2] + 1) % 2 ^ 32 ∧ (coreOf t core).slots = k.slots ∧ t.mem = s.mem) ∧
      (badHdr h pay.length = false → (slotOf k p.slot).resident = none →
        ∃ t : State, exec (.messageLand src core) s = .next t ∧ (∃ r ∈ t.frecs, r.cause = 0x42 ∧ r.kind = 1 ∧ r.cid = p.cid ∧ r.msgid = h.msgid) ∧
          (coreOf t core).slots = k.slots ∧ t.mem = s.mem) ∧
      (badHdr h pay.length = false → Room s core p.slot h.queue pay.length a →
        ∃ t : State, exec (.messageLand src core) s = .next t ∧ chanQ t src (niOf s core) 2 = rest ∧ Landed s t core p.slot h.queue a h pay ∧
          (∀ x : Act, k.act = some x → runPrio k < h.prio → (coreOf t core).pend = true) ∧ t.mem = s.mem)) ∧
    (∀ (h : MsgHdr) (pay : List Byte) (bad : Bool), chanQ s src (storeOf s die) 2 = p :: rest → p.cls = 2 → Plain p → p.body = .msg h pay bad →
      incOk s (storeOf s die) p.cid p.inc = true →
      let old := (ovOf s die p.cid h.trank).getD { cid := p.cid, rank := h.trank }
      (ovUsed s die p.cid + parkSize pay.length ≤ ovShare s p.cid →
        ∃ (t : State) (o : OvList), exec (.overflowPark src die) s = .next t ∧ ovOf t die p.cid h.trank = some o ∧ o.items = old.items ++ [(p, s.now)] ∧ o.trapped = true ∧
          t.mem = s.mem) ∧
      (ovShare s p.cid < ovUsed s die p.cid + parkSize pay.length →
        ∃ t : State, exec (.overflowPark src die) s = .next t ∧ (∃ r ∈ t.frecs, r.cause = 0x29 ∧ r.kind = 1 ∧ r.cid = p.cid ∧ r.rank = h.trank) ∧
          (dieAt t die).ov = (dieAt s die).ov ∧ t.mem = s.mem)) ∧
    (∀ (o : OvList) (slot w a : Nat) (h : MsgHdr) (pay : List Byte) (r : Resident), ovOf s die cid rank = some o → whereIs s cid rank = some (core, slot) →
      (slotOf k slot).resident = some r → o.items = [(p, w)] → p.cls = 2 → p.body = .msg h pay false → p.bad = false →
      incOk s (storeOf s die) p.cid p.inc = true → (inject s (dieOf core) p.cid 0).1 = false →
      (queueOf (slotOf k slot) h.queue).msgs.length < 256 → landPlace k slot pay.length = some a →
      ∃ t : State, exec (.overflowDrain die cid rank) s = .next t ∧ Landed s t core slot h.queue a h pay ∧ (∀ x : OvList, ovOf t die cid rank = some x → x.items = []) ∧
        t.mem = s.mem) ∧
    (ovOf s die cid rank = none → exec (.overflowDrain die cid rank) s = .next s) ∧
    (∀ o : Op, s.ops.find? (fun o => decide (o.kind = 3 ∧ o.cid = cid ∧ o.arg = rank ∧ core ∈ o.todo)) = some o → k.transit = [] →
      ∃ t : State, exec (.rankInvalidate core cid rank) s = .next t ∧ { o with todo := o.todo.erase core } ∈ t.ops ∧ (coreOf t core).invq = k.invq ++ [(cid, rank)] ∧
        (∀ x, x ∈ (coreOf t core).rcache ↔ x ∈ k.rcache ∧ ¬ (x.cid = cid ∧ x.rank = rank)) ∧ (∀ c, c ≠ core → coreOf t c = coreOf s c) ∧ t.mem = s.mem) ∧
    ((cid, rank) ∉ k.invq ∨ agentMsg s cid rank = true → exec (.rankInvalidateAck core cid rank) s = .next s) ∧
    (∀ u ∈ k.unack, (u.rank = some (cid, rank) ∨ (u.own.1 = cid ∧ rank ∈ u.ranks)) → u.applied = false → u.target ≠ 0 →
      ¬ (reState (rankEntry s cid rank) = 1 ∧ u.target = reAgent s (rankEntry s cid rank)) → exec (.rankInvalidateAck core cid rank) s = .next s) ∧
    (∀ o : Op, (cid, rank) ∈ k.invq → agentMsg s cid rank = false → (∀ u ∈ k.unack, u.rank ≠ some (cid, rank) ∧ ¬ (u.own.1 = cid ∧ rank ∈ u.ranks)) →
      s.ops.find? (fun o => decide (o.kind = 3 ∧ o.cid = cid ∧ o.arg = rank)) = some o → opOf s o.tok = some o →
      ∃ t : State, exec (.rankInvalidateAck core cid rank) s = .next t ∧ (coreOf t core).invq = k.invq.erase (cid, rank) ∧ t.mem = s.mem ∧
        (o.left.erase core ≠ [] → { o with left := o.left.erase core } ∈ t.ops) ∧
        (o.left = [core] → o.org = none → o.asked = none → (coreOf s o.core).wait = .sup o.tok → (coreOf t o.core).wait = .supDone 0 ∧ ∀ x ∈ t.ops, x.tok ≠ o.tok))

/-- R193 to R197, R200 to R207: stream packets at the end that they are for. Items go to the ring in sequence and repeats are dropped; the end-of-stream word
ends a consumer once every item before it is there, and queues its activation; credit, a peer's move, an orphan, FINACK, RETIRE and BOUNCE do to the record
what their rules say; and a packet that waits 1 ms for a record has none. Where the spec leaves a point of this open the model chose: logs 17, 30, 39 and 53. -/
def Obligations.StreamArrivals : Prop :=
  ∀ (s : State) (src core : Nat) (p : Packet) (rest : List Packet) (key : EndKey) (e : EndRec) (h : StrmHdr),
    let k := coreOf s core
    let here := isAway k e = false
    (Arrives s src core p rest key e → strmHdr p.body = h →
      (∀ (i : List Word) (bad : Bool), p.op = 0x0A → p.body = .item h i bad → e.kind = 1 → ¬ here →
        ovUsed s (dieOf core) e.res.1 + parkSize (8 * i.length) ≤ ovShare s e.res.1 →
        let old := (ovOf s (dieOf core) e.res.1 e.res.2).getD { cid := e.res.1, rank := e.res.2 }
        ∃ (t : State) (o : OvList), exec (.streamItemArrive src core) s = .next t ∧ ovOf t (dieOf core) e.res.1 e.res.2 = some o ∧ o.items = old.items ++ [(p, s.now)] ∧
          (coreOf t core).ends = k.ends ∧ (coreOf t core).lm = k.lm ∧ t.mem = s.mem) ∧
      (∀ w : Word, p.op = 0x0A → p.body = .item h [w] false → e.kind = 1 → here → e.state = 1 → e.cause ≠ 2 → e.eosWord = none → e.held = [] → e.heldBad = [] →
        e.wrSeq < 2 ^ 32 →
        (h.seq = e.wrSeq → ∃ t : State, exec (.streamItemArrive src core) s = .next t ∧ EndIs t core key { e with wrSeq := (e.wrSeq + 1) % 2 ^ 32 } ∧
          (Memory.wf k.lm = true → rdLE (coreOf t core).lm (ringAt e e.wrSeq) 8 = w.toNat ∧
            ∀ x, (x < ringAt e e.wrSeq ∨ ringAt e e.wrSeq + 8 ≤ x) → rdByte (coreOf t core).lm x = rdByte k.lm x) ∧ t.mem = s.mem) ∧
        (seqLt h.seq e.wrSeq = true → ∃ t : State, exec (.streamItemArrive src core) s = .next t ∧ EndIs t core key e ∧ (coreOf t core).lm = k.lm ∧ t.mem = s.mem)) ∧
      (∀ w : Word, p.op = 0x0B → p.body = .eos h w → e.kind = 1 → here → e.state = 1 → e.cause ≠ 2 → e.eosWord = none →
        (e.wrSeq ≠ fld w 31 0 → ∃ t : State, exec (.streamEosArrive src core) s = .next t ∧ EndIs t core key { e with eosWord := some w, eosBad := p.bad } ∧
          (coreOf t core).slots = k.slots ∧
          t.mem = s.mem) ∧
        (∀ a : Nat, e.wrSeq = fld w 31 0 → Room s core e.slot e.eq 8 a →
          ∃ (t : State) (x : EndRec) (m : MsgHdr), exec (.streamEosArrive src core) s = .next t ∧ EndIs t core key x ∧ x.state = 4 ∧ x.cause = fld w 63 60 ∧
            Landed s t core e.slot e.eq a m (leBytes 8 w.toNat) ∧ m.mkind = 6 ∧ m.handler = e.ehnd ∧ m.queue = e.eq ∧ m.tag = e.tag ∧ t.mem = s.mem)) ∧
      (p.op = 0x0C → p.body = .notice h →
        (h.typ = 3 → e.kind = 0 → ∃ t : State, exec (.creditArrive src core) s = .next t ∧ chanQ t src (niOf s core) 3 = rest ∧
          EndIs t core key (if seqLt e.relSeq h.seq = true then { e with relSeq := h.seq } else e) ∧ t.mem = s.mem) ∧
        (h.typ = 1 → e.kind = 0 → e.state = 1 → ∃ t : State, exec (.rerouteArrive src core) s = .next t ∧ t.mem = s.mem ∧
          let d := (h.sgen + 256 - e.peerGen % 256) % 256
          EndIs t core key (if 0 < d ∧ d < 128 then { e with peerRank := h.nrank, peerGen := h.sgen } else e)) ∧
        (h.typ = 4 → e.kind = 0 → e.state ≠ 3 → e.state ≠ 5 → ∃ t : State, exec (.orphanArrive src core) s = .next t ∧ EndIs t core key { e with state := 6, prev := 6, cause := h.cause } ∧
          t.mem = s.mem) ∧
        (h.typ = 4 → e.kind = 0 → e.state = 5 → ∃ t : State, exec (.orphanArrive src core) s = .next t ∧ (∀ x ∈ (coreOf t core).ends, keyOf x ≠ key) ∧ t.mem = s.mem) ∧
        (h.typ = 4 → e.kind = 1 → here → e.state = 1 → e.wrSeq < 2 ^ 32 → (∀ w, e.eosWord = some w → fld w 63 60 = 0) → ∃ (t : State) (x : EndRec), exec (.orphanArrive src core) s = .next t ∧ EndIs t core key x ∧ x.state = 4 ∧
          x.cause = h.cause % 16 ∧ t.mem = s.mem) ∧
        (h.typ = 5 → e.kind = 0 → ∃ t : State, exec (.finackArrive src core) s = .next t ∧ t.mem = s.mem ∧
          (e.state = 5 → ∀ x ∈ (coreOf t core).ends, keyOf x ≠ key) ∧ (e.state ≠ 5 → EndIs t core key e)) ∧
        (h.typ = 6 → ∃ t : State, exec (.retireArrive src core) s = .next t ∧ EndIs t core key { e with fwd := e.fwd - 1 } ∧ t.mem = s.mem) ∧
        (h.typ = 7 → ∃ t : State, exec (.bounceArrive src core) s = .next t ∧ EndIs t core key e ∧ chanQ t src (niOf s core) 3 = rest ∧ t.mem = s.mem))) ∧
    (∀ f : EndRec, chanQ s src (niOf s core) 3 = p :: rest → p.cls = 3 → Plain p → p.op = 0x0C → p.body = .notice h → key = (h.scid, h.sid, h.ekind) → f.kind = h.ekind →
      (h.typ = 2 → incOk s (niOf s core) p.cid p.inc = true → k.ends.find? (fun x => decide (keyOf x = key ∧ x.state = 7 ∧ x.gen = h.pgen ∧ decide (p.op = 0x0C) ∧ h.typ = 2)) = some f →
        f.kind = 0 → ∃ t : State, exec (.reackArrive src core) s = .next t ∧ (∀ x ∈ (coreOf t core).ends, ¬ (keyOf x = key ∧ x.state = 7 ∧ x.gen = f.gen)) ∧ t.mem = s.mem) ∧
      (h.typ = 7 → k.ends.find? (fun x => decide (keyOf x = key ∧ x.state = 7 ∧ x.gen = h.pgen)) = some f → src ≠ niOf s core →
        let re := (resolve s core f.ocid f.peerRank).1
        holdsFor k f.ocid f.peerRank = false → reState re = 1 → reChip re = s.chip →
        ∃ (t : State) (n : StrmHdr), exec (.bounceArrive src core) s = .next t ∧ Sent s t (niOf s core) (reAgent s re) 3 (.notice n) ∧ n.typ = 1 ∧ n.nrank = f.fwdRank ∧
          n.trank = f.peerRank ∧ n.sid = f.sid ∧ (coreOf t core).ends = k.ends ∧ t.mem = s.mem)) ∧
    (∀ (die cid rank slot w : Nat) (o : OvList) (i : List Word) (bad : Bool), ovOf s die cid rank = some o → whereIs s cid rank = some (core, slot) → o.items = [(p, w)] →
      p.cls = 3 → p.op = 0x0A → p.body = .item h i bad → endRec k (h.scid, h.sid, h.ekind) = none →
      (s.now - w < 1600000 → exec (.strmwaitExpire die cid rank) s = .next s) ∧
      (1600000 ≤ s.now - w → ∃ t : State, exec (.strmwaitExpire die cid rank) s = .next t ∧ (coreOf t core).strmdrop = (k.strmdrop + 1) % 2 ^ 32 ∧
        (∀ x : OvList, ovOf t die cid rank = some x → x.items = []) ∧ (coreOf t core).ends = k.ends ∧ t.mem = s.mem))

/-! ### Effects and answers (chapters 9, 12 and 16) -/

/-- R131, R143, R169, R170, R175, R182, R223, R293: a flush's oldest entry leaves, and the flush ends with its last; a home applies a store or answers a
load, or refuses; an answer completes what waits for it, and a status becomes a trap owed; an acknowledgement takes an applied effect out of the set; a wait
may end without cause; and a barrier's phase advances once every present member has arrived. Where the spec leaves a point of this open the model chose: logs
1, 26 and 51. -/
def Obligations.EffectsAndAnswers : Prop :=
  ∀ (s : State) (src dst core tok : Nat) (p : Packet) (rest : List Packet),
    let k := coreOf s core
    (k.flush = none → exec (.leave core) s = .next s) ∧
    (∀ n : Nat, k.flush = some n → k.twin = none →
      (k.rptWait ≠ 0 → exec (.leave core) s = .next s) ∧
      (k.rptWait = 0 → k.sb = [] → ∃ t : State, exec (.leave core) s = .next t ∧ (coreOf t core).flush = none ∧ (∀ c, c ≠ core → coreOf t c = coreOf s c) ∧ t.mem = s.mem) ∧
      (∀ (e : SbEntry) (es : List SbEntry) (h : MsgHdr) (pay : List Byte) (cid inc rank : Nat), k.rptWait = 0 → k.sb = e :: es → e.eff = .msg h pay → actCtx k = (cid, inc, rank) →
        incOk s (niOf s core) cid inc = true → (dieAt s (dieOf core)).einjseed = 0 → k.spawnSent = none → holdsFor k cid h.trank = false →
        let re := (resolve s core cid h.trank).1
        reState re = 1 → reChip re = s.chip → foreignCore s cid re = false →
        ∃ (t : State) (u : UnE), exec (.leave core) s = .next t ∧
          Sent s t (niOf s core) (reAgent s re) 2 (.msg { h with msgid := s.chip * 2 ^ 48 + (ctxOf s cid).msgNext } pay e.poison) ∧ (coreOf t core).sb = es ∧
          (coreOf t core).flush = (if n ≤ 1 then none else some (n - 1)) ∧ (coreOf t core).unack = k.unack ++ [u] ∧ u.tok = e.tok ∧ u.target = reAgent s re ∧
          u.applied = false ∧ (∀ c, c ≠ core → coreOf t c = coreOf s c) ∧ t.mem = s.mem) ∧
      (∀ (e : SbEntry) (es : List SbEntry) (cid inc rank : Nat), k.rptWait = 0 → k.sb = e :: es → actCtx k = (cid, inc, rank) → incOk s (niOf s core) cid inc = false →
        ∃ t : State, exec (.leave core) s = .next t ∧ (coreOf t core).sb = es ∧ t.chans = s.chans ∧ t.egress = s.egress ∧ t.mem = s.mem)) ∧
    (∀ u : UnE, k.unack.find? (fun u => u.tok = tok ∧ u.applied = true) = some u →
      ∃ t : State, exec (.ack core tok) s = .next t ∧ (coreOf t core).unack = k.unack.erase u ∧ (coreOf t core).x = k.x ∧ (∀ c, c ≠ core → coreOf t c = coreOf s c) ∧
        t.mem = s.mem) ∧
    ((∀ u ∈ k.unack, u.tok = tok → u.applied = false) → exec (.ack core tok) s = .next s) ∧
    (∀ (a w : Nat) (v : Word) (cls : Nat), chanQ s src dst cls = p :: rest → p.dst = dst → agIsCore dst = false → agKind dst = 1 → incOk s dst p.cid p.inc = true →
      migHeld s (agDie dst) a = none → (dieAt s (agDie dst)).einjseed = 0 → p.bad = false → p.unc = false → cls ≤ 1 →
      agIsCore p.src = true → isEng tok = false → isRedTok tok = false →
      (p.body = .store a w v false tok → ∃ t : State, exec (.applyStep src dst cls) s = .next t ∧ t.mem = wrBytes s.mem a (leBytes w v.toNat) ∧ chanQ t src dst cls = rest ∧
        (agChip p.src = s.chip →
          (coreOf t (agCore p.src)).unack = markFirst tok dst (coreOf s (agCore p.src)).unack)) ∧
      (p.body = .load a w tok → memBad s a w = false → agChip p.src = s.chip → agKind p.src ≠ 5 → paClass a = 0 → a % 64 + w ≤ 64 →
        ∃ t : State, exec (.applyStep src dst cls) s = .next t ∧ Sent s t dst p.src 4 (.rdata tok (wd (rdLE s.mem a w)) false) ∧ chanQ t src dst cls = rest ∧ t.mem = s.mem ∧
          (∀ c, (coreOf t c).x = (coreOf s c).x ∧ (coreOf t c).pc = (coreOf s c).pc ∧ (coreOf t c).lm = (coreOf s c).lm))) ∧
    (∀ (a w : Nat) (v : Word) (cls : Nat), chanQ s src (niOf s core) cls = p :: rest → p.dst = niOf s core → agIsCore (niOf s core) = true → agCore (niOf s core) = core →
      incOk s (niOf s core) p.cid p.inc = true → (dieAt s (dieOf core)).einjseed = 0 → p.bad = false → cls ≤ 1 → p.body = .store a w v false tok →
      agIsCore p.src = true → isEng tok = false → isRedTok tok = false →
      (niRefusal s core p.slot p.src (a % 2 ^ 19) w true = none →
        ∃ t : State, exec (.applyStep src (niOf s core) cls) s = .next t ∧ (coreOf t core).lm = wrBytes k.lm (a % 2 ^ 19) (leBytes w v.toNat) ∧ t.mem = s.mem) ∧
      (∀ cause : Nat, niRefusal s core p.slot p.src (a % 2 ^ 19) w true = some cause → agChip p.src = s.chip →
        ∃ t : State, exec (.applyStep src (niOf s core) cls) s = .next t ∧ Sent s t (niOf s core) p.src 4 (.status tok cause) ∧ t.cores = s.cores ∧ t.mem = s.mem)) ∧
    (∀ (o : OutE) (r w : Nat) (sx : Bool) (v : Word), chanQ s src (niOf s core) 4 = p :: rest → p.body = .rdata tok v false → incOk s (niOf s core) p.cid p.inc = true →
      k.out.find? (fun o => decide (o.tok = tok)) = some o → o.live = true → o.kind = .load w sx → k.pendx.find? (fun x => decide (x.2 = tok)) = some (r, tok) → 0 < r → r < 32 →
      k.twin = none →
      ∃ t : State, exec (.returnStep src core) s = .next t ∧ chanQ t src (niOf s core) 4 = rest ∧
        rx (coreOf t core) (rg5 r) = (if sx = true then wdI (signedN (8 * w) v.toNat) else wd (v.toNat % 2 ^ (8 * w))) ∧
        (∀ x, x ≠ rg5 r → rx (coreOf t core) x = rx k x) ∧ (∀ x ∈ (coreOf t core).pendx, x.2 ≠ tok) ∧ (∀ x ∈ (coreOf t core).out, x.tok ≠ tok) ∧
        (coreOf t core).pc = k.pc ∧ (coreOf t core).lm = k.lm ∧ (∀ c, c ≠ core → coreOf t c = coreOf s c) ∧ t.mem = s.mem) ∧
    (∀ (o : OutE) (cause : Nat), chanQ s src (niOf s core) 4 = p :: rest → p.body = .status tok cause → incOk s (niOf s core) p.cid p.inc = true →
      (∀ u ∈ k.unack, u.tok ≠ tok) → k.out.find? (fun o => decide (o.tok = tok)) = some o → o.live = true → k.owed = none →
      ¬ (o.kind = .fe ∧ statusCause cause = 0) →
      ∃ t : State, exec (.returnStep src core) s = .next t ∧ (coreOf t core).owed.map (·.1) = some (statusCause cause) ∧ (∀ x ∈ (coreOf t core).out, x.tok ≠ tok) ∧
        (coreOf t core).x = k.x ∧ t.mem = s.mem) ∧
    (core < 2 ^ 40 →
      (∀ n : Nat, k.wait = .armed n → ∃ t : State, exec (.spuriousWake core) s = .next t ∧ (coreOf t core).wait = .woke 6 ∧ (coreOf t core).x = k.x ∧
        (∀ m ∈ t.monitors, m.core ≠ core) ∧ (∀ c, c ≠ core → coreOf t c = coreOf s c) ∧ t.mem = s.mem) ∧
      ((∀ n : Nat, k.wait ≠ .armed n) → (∀ m ∈ s.monitors, m.core ≠ core) → exec (.spuriousWake core) s = .next s)) ∧
    (∀ gid : Nat,
      (∃ t : State, exec (.barrierArrive core gid) s = .next t ∧ t = { s with gangs := t.gangs } ∧
        ∀ g ∈ s.gangs, (g.gid = gid → core ∈ g.again → core ∉ g.arrived → { g with again := g.again.erase core, arrived := g.arrived ++ [core] } ∈ t.gangs) ∧
          (g.gid ≠ gid ∨ core ∉ g.again ∨ core ∈ g.arrived → g ∈ t.gangs)) ∧
      (∃ t : State, exec (.barrierAdvance gid) s = .next t ∧ t = { s with gangs := t.gangs } ∧
        ∀ g ∈ s.gangs, (g.gid = gid → g.arrived ≠ [] → (∀ c ∈ g.present, c ∈ g.arrived) → { g with ph := (g.ph + 1) % 2 ^ 16, arrived := [] } ∈ t.gangs) ∧
          (g.gid ≠ gid ∨ (∃ c ∈ g.present, c ∉ g.arrived) → g ∈ t.gangs)))

/-- R69, R138, R234: a fetch past the regions of code takes XONLY, one past the external boundary OVLY, and a poisoned word seals the core; and a word that is no instruction
takes ILL. -/
def Clauses.FetchTraps : Prop :=
  ∀ (s : State) (w : IWord) (a : Act),
    let k := cc s
    let t0 := slotOf k (curSlot k)
    let pc := k.pc.toNat
    (∀ x, decode w = .error x → exec (.illegalWord w) s = .next (takeTrap s s.cur 0x20 none)) ∧
    (∀ i, decode w = .ok i → exec (.illegalWord w) s = .next s) ∧
    (k.act = some a →
      (rgHas (rgOf t0 0) pc = false → exec .fetchTrap s = .next (takeTrap s s.cur 0x21 (some k.pc))) ∧
      (rgHas (rgOf t0 0) pc = true → xbOf t0 ≤ pc → exec .fetchTrap s = .next (takeTrap s s.cur 0x10 (some k.pc))) ∧
      (rgHas (rgOf t0 0) pc = true → pc < xbOf t0 → lmBad k pc 4 = true → exec .fetchTrap s = .next (sealCore s s.cur)) ∧
      (rgHas (rgOf t0 0) pc = true → pc < xbOf t0 → lmBad k pc 4 = false → exec .fetchTrap s = .next s))

/-! ### The whole machine -/

/-- The words of well-formed instructions, and the command words of tile commands, decode to what they stand for, as words and as the bytes that lie in LM
or in a command block, with every operand at every value that its field admits (12 R229 to R234, R236, R237). -/
def Obligations.EncodingsDecodeToTheirInstructions : Prop :=
  (∀ (i : Instr) (w : IWord), i.wf = true → encodeWord i = some w → decode w = .ok i) ∧
  (∀ (i : Instr) (w0 w1 w2 w3 : Word), i.wf = true → encodeCommand i = some (w0, w1, w2, w3) → decodeCommand w0 w1 w2 w3 = .ok i) ∧
  (∀ (i : Instr) (w : IWord) (bs rest : List Byte), i.wf = true → encodeWord i = some w → encode i = some bs →
    bs.length = 4 ∧ decodeBytes (bs ++ rest) = .ok (i, rest)) ∧
  (∀ (i : Instr) (ws : Word × Word × Word × Word) (bs : List Byte), i.wf = true → encodeCommand i = some ws → encode i = some bs →
    bs.length = 32 ∧ decodeCommandBytes bs = .ok i)

/-- Nothing else decodes: a word that decodes is the word of the instruction that it decodes to, and that instruction is well formed; so no bit of a word is
ignored and no two words stand for one instruction (12 R229, R230, R234, R236). -/
def Obligations.OnlyEncodingsDecode : Prop :=
  (∀ (w : IWord) (i : Instr), decode w = .ok i → i.wf = true ∧ encodeWord i = some w) ∧
  (∀ (w0 w1 w2 w3 : Word) (i : Instr), decodeCommand w0 w1 w2 w3 = .ok i → i.wf = true ∧ encodeCommand i = some (w0, w1, w2, w3))

/-- Words written out from the encoding tables decode to the instructions that they stand for (12 R229 to R234), and reserved ones are rejected by name. -/
def Obligations.WrittenWordsDecode : Prop :=
  decode 0b0000001_00101_00110_00111_0000000000 = .ok (.add 5 6 7) ∧
  decode 0b0000011_00101_00110_00111_0000001000 = .ok (.clmul 5 6 7) ∧
  decode 0b0000100_00101_00110_000_000111_010000 = .ok (.exts 5 6 7 16) ∧
  decode 0b0001000_00001_00001_111111111111100 = .ok (.addi 1 1 0x7FFC) ∧
  decode 0b0100110_00000_11111111111111000000 = .ok (.jump 0xFFFC0) ∧
  decode 0b0110000_01100_01011_110_000000000000 = .ok (.ld 12 11 3 0) ∧
  decode 0b0110111_00101_00110_00111_0010_10_0000 = .ok (.amo 5 6 7 2 2) ∧
  decode 0b0111000_00101_00110_00000_000000_1_1_10 = .ok (.rldAcq 5 6 1 2) ∧
  decode 0b0111101_00000_00000_00000_0000010011 = .ok .fenceFab ∧
  decode 0b1010001_00000_00101_000000000001000 = .ok (.csrw 5 8) ∧
  decode 0b1100001_00001_00010_00011_1000_000_000 = .ok (.vadd 1 2 3 8 0) ∧
  decode 0b1100110_00001_00010_00011_0000_000_000 = .ok (.kand 1 2 3) ∧
  decode 0b0000001_00101_00110_00111_0000000110 = .error (.reservedFunc 1 6) ∧
  decode 0 = .error (.unassignedOpcode 0)

/-- What the spec's register maps say that reset leaves (03 R52, R60; 04 R74, R77, R78, R81 to R83; 05 R91; 07 R129, R136, R137; 08 R163; 12 R226 to R228):
and memory has nothing listed. Where the spec leaves a point of this open the model chose: log 7. -/
def Obligations.ResetValues : Prop :=
  State.reset.now = 0 ∧ State.reset.boot.state = 0 ∧ State.reset.boot.failstep = 0 ∧ State.reset.mem = [] ∧
  (∀ cid, (ctxOf State.reset cid).w0 = 0 ∧ (ctxOf State.reset cid).w1 = 0) ∧
  (∀ d, (dieAt State.reset d).schedage = 0x0000_0100_0000_0040 ∧ (∀ cid, mgetD (dieAt State.reset d).cred cid 64 = 64) ∧
    (∀ cid, mgetD (dieAt State.reset d).rej cid 0 = 0) ∧ (dieAt State.reset d).disp.fails = 0 ∧
    (∀ n : Fin 10, (dieAt State.reset d).counters[n] = 0) ∧ (∀ u : Fin 32, (dieAt State.reset d).thr[u] = {}) ∧
    (∀ n : Fin 4, ((dieAt State.reset d).mig[n]).w0 = 0 ∧ ((dieAt State.reset d).mig[n]).w1 = 0) ∧
    (dieAt State.reset d).trimsel = 0 ∧ (dieAt State.reset d).s2sel = 0 ∧ (dieAt State.reset d).einjseed = 0 ∧ (dieAt State.reset d).einjctl = 0) ∧
  (∀ d cid, (qregsOf State.reset d cid).fqbase = 0 ∧ (qregsOf State.reset d cid).fqsize = 4 ∧ (qregsOf State.reset d cid).frbase = 0 ∧
    (qregsOf State.reset d cid).frsize = 4 ∧ (qregsOf State.reset d cid).nicid = 0) ∧
  (∀ d cid i w, peerWord State.reset d cid i w = 0) ∧
  (∀ r, (rowState State.reset r).step = 7 ∧ (rowState State.reset r).target = 7 ∧ (rowState State.reset r).idle = true ∧
    (rowState State.reset r).cause = 0 ∧ (rowState State.reset r).changes = 0) ∧
  (∀ c, (coreOf State.reset c).fmta = 0 ∧ (coreOf State.reset c).fmtb = 0 ∧ (coreOf State.reset c).fmtc = 0 ∧ (coreOf State.reset c).fmts = 0 ∧
    (coreOf State.reset c).rmode = 0 ∧ (coreOf State.reset c).restart = true ∧ (coreOf State.reset c).trapped = false ∧ (coreOf State.reset c).inh = false ∧
    (coreOf State.reset c).pair = false ∧ (coreOf State.reset c).pend = false ∧ (coreOf State.reset c).clrby = 0 ∧ (coreOf State.reset c).aborts = 0 ∧
    (coreOf State.reset c).hold = false ∧ (coreOf State.reset c).trapcause = 0 ∧ (coreOf State.reset c).trappc = 0 ∧ (coreOf State.reset c).trapaddr = 0) ∧
  (∀ c n, (slotOf (coreOf State.reset c) n).trapvec = 0 ∧ (∀ r, rgOf (slotOf (coreOf State.reset c) n) r = 0) ∧
    (∀ m, mbOf (slotOf (coreOf State.reset c) n) m = 0) ∧ (slotOf (coreOf State.reset c) n).handlers = [])

/-- The machine of the reset has its byte memories in canonical form and x0 stored as zero (12 R221). Where the spec leaves a point of this open the model
chose: log 7. -/
def Obligations.ResetIsOk : Prop := State.reset.ok = true

/-- Every step keeps the byte memories in canonical form, with one entry for an address that holds another value than an unlisted one reads as and none for
any other, and keeps the hard-wired x0 of every core zero (07 R122, 12 R221), from every state in which that holds. Where the spec leaves a point of this
open the model chose: log 7. -/
def Obligations.StepsKeepOk : Prop := ∀ s t : State, s.ok = true → step s = .next t → t.ok = true

/-- A step runs the decoded instruction: with no move left on the agenda the current core's scalar stream moves, and with a core's move at its head that
core's; where its activation runs, owes no trap and has time left, its PC passes the checks of a fetch (07 R138) and the bytes there decode to i, which waits
on no pending register (12 R223) and uses no poisoned one, the move is exec of i; one that would use a poisoned register seals the core (04 R69). A move that another agent takes of itself is exec of its step, and one that only a scalar stream
performs changes nothing; a tick is time passing. The free-value counter moves on with every step (log 4), and nothing else stands around it (log 9). In a package
that a failed boot has halted no scalar stream runs and no agent moves but the maintenance interface (03 R58, 04 R81); where it booted unconfigured, a supervisor
core's stream does nothing (03 R56). -/
def Obligations.StepRunsDecoded : Prop :=
  (∀ (s : State), s.agenda = [] → step s = coreStep { s with free := s.free + 1 }) ∧
  (∀ (s : State) (c : Nat) (ms : List Move), s.agenda = .core c :: ms →
    step s = coreStep { s with free := s.free + 1, agenda := ms, cur := c }) ∧
  (∀ (s : State) (a : Act) (i : Instr) (rest : List Byte), s.boot.state ≠ 2 → ¬ (s.boot.state = 3 ∧ isSup s.cur = true) → (cc s).act = some a → ((cc s).wdog ≠ 0 ∨ (cc s).hold = true) →
    (cc s).owed = none → fetchFault (cc s) = none → decodeBytes (rdBytes (cc s).lm (cc s).pc.toNat 4) = .ok (i, rest) →
    waitsPending (cc s) i = false →
    ((cc s).wait ≠ .idle ∨ readsBad (cc s) i = false → coreStep s = exec i s) ∧
    ((cc s).wait = .idle → readsBad (cc s) i = true → coreStep s = .next (sealCore s s.cur))) ∧
  (∀ s : State, s.boot.state = 2 → coreStep s = .fault .packageHalted) ∧
  (∀ s : State, s.boot.state = 3 → isSup s.cur = true → coreStep s = .next s) ∧
  (∀ (s : State) (i : Instr) (ms : List Move), s.agenda = .ev i :: ms → selfStep i = true → (s.boot.state ≠ 2 ∨ haltedStep i = true) →
    step s = exec i { s with free := s.free + 1, agenda := ms }) ∧
  (∀ (s : State) (i : Instr) (ms : List Move), s.agenda = .ev i :: ms → (selfStep i = false ∨ (s.boot.state = 2 ∧ haltedStep i = false)) →
    step s = .next { s with free := s.free + 1, agenda := ms }) ∧
  (∀ (s : State) (n : Nat) (ms : List Move), s.agenda = .tick n :: ms →
    (s.boot.state ≠ 2 → step s = .next (passTime n { s with free := s.free + 1, agenda := ms })) ∧
    (s.boot.state = 2 → step s = .next (tick n { s with free := s.free + 1, agenda := ms })))

/-! ### Statements made of the parts above -/

/-- R254: the sums, differences and logic of two registers, for every pair of operands; x0 as a destination takes nothing (R221). R255: shifts and rotates
use b[5:0] alone. A rotate is stated bit by bit. R256: the comparisons give 1 or 0, and the extremes one of the operands, read signed or unsigned. R254 to
R256: the func of each instruction of opcode 0x01, at all registers; a reserved func is no instruction, and such a word takes ILL (12 R234). -/
def Obligations.RegisterArithmetic : Prop :=
  Clauses.ArithmeticAndLogic ∧ Clauses.ShiftsAndRotates ∧ Clauses.ComparisonsAndExtremes ∧ Clauses.AluWords

/-- R257 and R258: the halves of the exact product, and division that never traps, with its two borderline cases. R259 and R260: the immediate forms; the
shift counts are their 6-bit field, every other immediate is sign-extended. -/
def Obligations.ProductsAndImmediates : Prop :=
  Clauses.MultiplyAndDivide ∧ Clauses.ImmediateForms

/-- R261: each result is said by what it counts or where each bit goes. CLZ and CTZ give 64 for 0. R261: the func of each of these instructions, at all
registers; the rb field is zero, and a word where it is not is no instruction. R262: a field of n = min(len, 64 - pos) bits, len being the instruction's
field + 1; bit by bit. R263 and R264: bit j of the carry-less product is the parity of the pairs of set bits whose places add to j; SEL's condition is the
whole of x[rd]. -/
def Obligations.BitOperations : Prop :=
  Clauses.BitCounts ∧ Clauses.BitCountWords ∧ Clauses.FieldMoves ∧ Clauses.CarrylessProductAndSelect

/-- R265, R268: a branch that is taken goes to PC + 4 x SExt(off) when that is a word of LM; one that is not taken passes on, whatever its target. R265: the
opcode of each branch, at all registers and offsets. R266 to R268: jumps, with x[ra] read before the link is written; a target that is no word of LM takes
XONLY, with neither rd nor PC written by the jump. -/
def Obligations.BranchesAndJumps : Prop :=
  Clauses.Branches ∧ Clauses.BranchWords ∧ Clauses.JumpsAndLinks

/-- R269: a loop instruction pushes its level when its count is not 0 and the body lies within the level outside; with count 0 it skips the body, past the
end check there; in a handler, with two levels, or with a body that leaves the outer one it takes ILL. R270: at the passage from p to p + 4 the levels whose
end is p are checked, innermost first: one with turns left begins again with one turn less, one without is popped and the next checked; with no level ending
at p the PC is p + 4. In a handler no check is made (R271). R271: a level that a taken transfer leaves is popped with every level inside it: what remains is
the outermost levels that hold the target, and each of them does. -/
def Obligations.LoopsAndEarlyPops : Prop :=
  Clauses.HardwareLoop ∧ Clauses.EndCheck ∧ Clauses.EarlyPops

/-- R288, R124 for an access outside a fused window: a misaligned address takes ALIGN, one above LM PRIV; else the access passes exactly where every one of
its bytes may be accessed, and the cause is that of its first byte. R289: LD sign-extends and LDN zero-extends the bytes at x[ra] + SExt(off); a load that a
check refuses takes its trap, and one of poisoned bytes seals the core (04 R70). R289: ST writes the low bytes of x[rb] at x[ra] + SExt(off), little-endian,
and no other byte of any memory. A store into P0 to P3 clears RESTART (07 R132). Where the spec leaves a point of this open the model chose: log 50. -/
def Obligations.LoadsAndStoresOfLocalMemory : Prop :=
  Clauses.LocalChecks ∧ Clauses.LoadsOfLocalMemory ∧ Clauses.StoresToLocalMemory

/-- R291: the new value of an atomic on a w-bit word, for its integer operators; FADD rounds the exact sum of two f32 values. R292: AMO reads the word at
x[ra], writes R291's new value there and returns the old one zero-extended, in one step; FADD has width 4 alone, and takes ATYPE at any other. -/
def Obligations.AtomicsOnLocalMemory : Prop :=
  Clauses.AtomicFunction ∧ Clauses.LocalAtomics

/-- R295, R171, R293: a load of a virtual address is served from the send buffer where that holds all its bytes, else translated at the RTU, and then asked
of its home; the form with ACQ holds the issue point until its answer has come. R297, R298, R299: an atomic or an insert whose address is translated leaves
for its home where the target executes it, and clears RESTART as it leaves; where the target does not, ATYPE is taken with the global address, and nothing
leaves. R301: LDG and STG take NOPATH on a compute core; on a supervisor core a populated physical address goes to its home with no translation, STG past the
send buffer, into the outstanding table and the unacknowledged set at once. Where the spec leaves a point of this open the model chose: logs 1 and 22. -/
def Obligations.RemoteOperations : Prop :=
  Clauses.RemoteLoads ∧ Clauses.RemoteAtomics ∧ Clauses.DirectPath

/-- R131, R302, R303, R174: FLUSH and the fences begin by clearing RESTART and starting the flush of what the buffer holds, and hold their issue point; FLUSH
passes when the flush is over; a fence passes when no request is outstanding and no covered effect unacknowledged, and waits otherwise. A fabric fence first
waits until every store of the core has a home, and then sends one marker to each die of another chip that the core stored to, each with an outstanding entry
(02 R39, 09 R175). R182, R304: WAITM of a block of the core's own LM returns 0 at once when the first word differs from x[rb], and sleeps with its monitor
armed when it does not; once woken it returns its reason. A misaligned block takes ALIGN. Where the spec leaves a point of this open the model chose: log 1. -/
def Obligations.FencesAndWaits : Prop :=
  Clauses.FlushAndFences ∧ Clauses.WaitForMemory

/-- R273, R225: CSRR of an assigned register that is neither queue nor stream gives its value; CSRW writes its RW fields, CSRS sets and CSRC clears the RW
bits that the operand has set. R225, R239: what a control-register instruction is refused with, in the order of R235: an unassigned number or a write of a
read-only register is ILL, and so is CSRS or CSRC of a queue, stream or format register; a supervisor register, or a write of a region register, is PRIV off
a supervisor core; a write of XB or TRAPPC is PRIV outside a handler there. R138, R211, R213, R214, R225, R227: the register-write forms. XB, the format
registers and RMODE take a valid value and refuse any other with ILL; TRAPPC keeps its 17 bits; a mailbox counter takes COUNT, and loses ERR where the value
has it set. Where the spec leaves a point of this open the model chose: log 10. -/
def Obligations.ControlRegisterAccess : Prop :=
  Clauses.ControlRegisters ∧ Clauses.ControlRegisterRefusals ∧ Clauses.RegisterWriteForms

/-- R240: a resuming trap outside a handler, with one installed, saves the PC, the cause and the address, and goes to the handler, all in one step and with
nothing else changed. R242, R133, R134, R135: a trap that no handler can take ends the activation: nothing runs, and the send buffer, the commands that have
not started and the queue registers are empty; the trap registers are not written. With RESTART clear its failure record carries the cause and the address,
or the PC where the rule gives no address; with RESTART set, fewer than three aborts and no frame, gang or task of its own its message goes back to the head
of its queue with one abort more. -/
def Obligations.TakingATrap : Prop :=
  Clauses.TrapEntry ∧ Clauses.AbortingTraps

/-- R241, R274, R275: RTA goes back to TRAPPC and leaves the handler, with the end check where that lands behind a loop's end (14 R270), and is ILL outside
one; BKPT raises the resuming trap BKPT with address 0; ABORT and TRAP n raise their aborting traps. R69, R138, R234: a fetch past the regions of code takes
XONLY, one past the external boundary OVLY, and a poisoned word seals the core; and a word that is no instruction takes ILL. -/
def Obligations.TrapInstructionsAndFetchTraps : Prop :=
  Clauses.TrapInstructions ∧ Clauses.FetchTraps

/-- R130, R329, R330, R342, R345, R347, R296, R290: the buffered effects with their payload bytes and the messages that they count. A send word with a
reserved bit, or a length above its limit, is ILL. Words of an operand that another member of the gang holds are asked for first, over the row channel (R139,
R173). R343, R344, R348, R346: KSUB and JCAN enter the buffer and leave their register pending for the answer; ADJREG is not buffered: its request goes to
the dispatcher of the issuing die. Where the spec leaves a point of this open the model chose: logs 1 and 31. -/
def Obligations.EffectsAndRequestsOfMessages : Prop :=
  Clauses.BufferedEffects ∧ Clauses.AnsweredRequests

/-- R332 to R337, R191, R192: the stream instructions on an end that the activation holds. STRNEW makes both records and writes their handles into FRAME;
STRBIND binds, STRUNB unbinds; STREOS and SENDH buffer their effect, with the record PENDING until it leaves, and SENDH removes the binding; STRSTAT gives
the status word. R187, R188, R333: STRNEW makes the two ends of a new stream, both OPEN and held by the calling slot, takes the context's next stream number
for them, and writes the producer's and the consumer's handle. Where the spec leaves a point of this open the model chose: log 30. -/
def Obligations.StreamHandlesAndNewStreams : Prop :=
  Clauses.StreamInstructions ∧ Clauses.NewStream

/-- R307, R234, R141: a type that the instruction does not allow, or one whose descriptor is UNSET, is ILL; past that check, naming v16 to v31 or k4 to k7
while a loop stands is PRIV. R314, R316 (VPOPC), R319 to R321: logic and shifts, whose count is the low bits of the element; population counts; the
carry-less products; and EXP2, reciprocal and reciprocal square root of f32 elements. -/
def Obligations.VectorRefusalsLogicAndFunctions : Prop :=
  Clauses.VectorRefusals ∧ Clauses.VectorLogicAndFunctions

/-- R315, R322: the comparisons, signed or unsigned by the type and IEEE on floating elements, and the mask logic on all 128 bits, which samples nothing.
R316 to R318: the moves; conversion of the first 1,024 / max(ws, wd) elements, rounded in the destination format; and reduction over the fixed tree, with the
operator's identity where no element is active. -/
def Obligations.VectorComparesMasksMovesReductions : Prop :=
  Clauses.VectorComparesAndMasks ∧ Clauses.VectorMovesAndReductions

/-- R354, R236, R238: CMD reads four words at a 32-byte aligned local address, fills the sampled fields of word 0, places the command behind the others of
the FIFO and leaves its register pending. With 16 commands in the FIFO CMD waits and CMD.NB gives 1. R355, R356, R358, R237, R140, R61: the head of a FIFO
goes to its engine, with the popped value as word 1 where it asks for one, and ends at once with the status of the first check that fails; a word that R237
refuses ends with BADCMD, and a command of an old incarnation is dropped and counted. A completed command's status word reaches its register and its mailbox
counter; while its push stands before a full queue register the stream is blocked. Where the spec leaves a point of this open the model chose: logs 1 and 13. -/
def Obligations.TileCommandLife : Prop :=
  Clauses.PlacingCommands ∧ Clauses.StartingAndCompleting

/-- R359, R367, R369, R361, R218, R169, R179: the element operations on tiles and LM. ZCLR clears the tiles of its mask. A word of a ZLD or a COPY is asked
of its home, and once it has come it sets two words of the tile, or goes to the NI of its destination; so does a word of a ZST. A block of MMA.S whose
operands have come adds to each word of the tile, exactly on the integer path. R370 to R374, R378 to R380, R166: the element operations of the commands that
act beyond LM, once the words that they read have come. Where the spec leaves a point of this open the model chose: logs 13 and 24. -/
def Obligations.EngineWork : Prop :=
  Clauses.EngineElements ∧ Clauses.EngineRequests

/-- R276: a supervisor instruction is PRIV elsewhere; it waits while its operation is unacknowledged, and then its status is written. (A SLOTLOAD that reads
its area is no such operation.). R277 to R287, R62, R65, R98, R162: what each supervisor instruction refuses, with its status, and what it does; a kill or a
reclaim of a context whose home is another chip is put to that chip. SLOTLOAD checks first, and then reads its area, during which a kill of the context stops
it. Where the spec leaves a point of this open the model chose: logs 12, 41 and 42. -/
def Obligations.SupervisorInstructionsAndStatus : Prop :=
  Clauses.SupervisorCommon ∧ Clauses.SupervisorInstructions

/-- R17, R19, R20: a flit arrives at a port. A whole one in sequence is delivered, one behind a flit in recovery is held, up to 64, a protocol error makes
the link retrain; a damaged one is stored and its recovery asked for, a ninth one makes the link retrain. On the die-to-die link an error is recovered by
replay. R21 to R23: a damaged flit is recovered by two parity increments and then a replay, with one repeat of each request after 1 µs; one not delivered
after 6 µs makes the link retrain. R13, R24: training ends within 50 µs or the port is DOWN; after it the unacknowledged flits go again, and those of a DOWN
port to the end-to-end layer. R18, R20, R28, R31, R40: packets enter a port with credits for all their granules and room in its replay buffer, one behind
another in flits of 15 granules; with 512 data flits unacknowledged, or no packet waiting, the port sends an idle flit. Where the spec leaves a point of this
open the model chose: logs 4 and 45. -/
def Obligations.LinkSteps : Prop :=
  Clauses.FlitArrivals ∧ Clauses.FlitRecovery ∧ Clauses.PortTraining ∧ Clauses.PacketsEnterPorts

/-- R74: an access with the injector's seed 0, or of a partition that it does not serve, is left alone; else the generator moves, and where it strikes the
words of the access are poisoned and nothing else changes. R68, R70 to R72: scrubbing leaves data as it is; a resident of a sealed core is built again on a
free slot from its initial image, and its rank becomes valid there; a sealed core without residents returns to service once its test passes, and else its row
is fenced; a copy that waits more than 4,096 cycles at the comparison aborts with PAIRMIS; and a row without work is tested, for 2 ms, and then cleared or
fenced. Where the spec leaves a point of this open the model chose: logs 32, 33 and 38. -/
def Obligations.InjectorAndHealth : Prop :=
  Clauses.ErrorInjector ∧ Clauses.HealthSteps
end

