-- ==== Sys2Proof/Laws/Decode.lean ====
section
/-! SUPPORT. What the decoder reads out of a word built from its fields (12 R229): one lemma per format, so that no later proof takes a word
apart again. -/

namespace Sys2Proof

@[simp] theorem hiF_append (m n : Nat) (a : BitVec m) (b : BitVec n) : hiF m n (a ++ b) = a := by
  ext i hi
  simp [hiF, BitVec.getElem_extractLsb', BitVec.getLsbD_append, hi]

@[simp] theorem loF_append (m n : Nat) (a : BitVec m) (b : BitVec n) : loF m n (a ++ b) = b := by
  ext i hi
  simp [loF, BitVec.getElem_extractLsb', BitVec.getLsbD_append, hi]

/-- A field is its upper and lower part. -/
theorem append_hiF_loF (m n : Nat) (x : BitVec (m + n)) : hiF m n x ++ loF m n x = x := by
  ext i hi
  simp only [BitVec.getElem_append, hiF, loF, BitVec.getElem_extractLsb']
  by_cases h : i < n
  · simp [h, BitVec.getLsbD_eq_getElem hi]
  · simp only [h, dite_false]
    have e : n + (i - n) = i := by omega
    rw [e, BitVec.getLsbD_eq_getElem hi]

/-- A and B format words, by their fields. -/
theorem decode_fmtI (op : BitVec 7) (r1 r2 : Reg) (imm : BitVec 15) :
    decode (fmtI op r1 r2 imm) = checkWf op.toNat (decodeFields op.toNat r1 r2 imm) := by
  have h : fmtI op r1 r2 imm = (op ++ ((r1 ++ ((r2 ++ imm : BitVec 20) : BitVec 20)) : BitVec 25)) := rfl
  unfold decode
  rw [h, hiF_append 7 25, loF_append 7 25]
  dsimp only
  rw [hiF_append 5 20, loF_append 5 20, hiF_append 5 15, loF_append 5 15]

/-- A word is the fields that the decoder reads. -/
theorem fmtI_fields (w : IWord) :
    fmtI (hiF 7 25 w) (hiF 5 20 (loF 7 25 w)) (hiF 5 15 (loF 5 20 (loF 7 25 w))) (loF 5 15 (loF 5 20 (loF 7 25 w))) = w := by
  unfold fmtI
  exact (congrArg (hiF 7 25 w ++ ·) ((congrArg (hiF 5 20 (loF 7 25 w) ++ ·) (append_hiF_loF 5 15 (loF 5 20 (loF 7 25 w)))).trans
    (append_hiF_loF 5 20 (loF 7 25 w)))).trans (append_hiF_loF 7 25 w)

/-- U and J format words are I format words whose immediate spans ra. -/
theorem fmtU_eq (op : BitVec 7) (r1 : Reg) (imm : BitVec 20) : fmtU op r1 imm = fmtI op r1 (hiF 5 15 imm) (loF 5 15 imm) := by
  unfold fmtU fmtI
  exact congrArg (fun x : BitVec 20 => op ++ (r1 ++ x)) (append_hiF_loF 5 15 imm).symm

/-- U and J format words, by their fields. -/
theorem decode_fmtU (op : BitVec 7) (r1 : Reg) (imm : BitVec 20) (h : isU op.toNat = true) :
    decode (fmtU op r1 imm) = checkWf op.toNat (decodeU op.toNat r1 imm) := by
  rw [fmtU_eq, decode_fmtI, decodeFields, if_pos h]
  exact congrArg (fun x => checkWf op.toNat (decodeU op.toNat r1 x)) (append_hiF_loF 5 15 imm)

/-- A format words, by their fields. -/
theorem decode_fmtA (op : BitVec 7) (rd ra rb : Reg) (fn : BitVec 10) (hu : isU op.toNat = false) (hi : isI op.toNat = false) (hv : isV op.toNat = false) :
    decode (fmtA op rd ra rb fn) = checkWf op.toNat (decodeA op.toNat rd ra rb fn) := by
  have h : fmtA op rd ra rb fn = fmtI op rd ra (rb ++ fn) := rfl
  rw [h, decode_fmtI, decodeFields, hu, hi, hv]
  simp only [Bool.false_eq_true, if_false]
  rw [hiF_append 5 10, loF_append 5 10]

/-- I and B format words, by their fields. -/
theorem decode_fmtI_of_isI (op : BitVec 7) (r1 r2 : Reg) (imm : BitVec 15) (hu : isU op.toNat = false) (hi : isI op.toNat = true) :
    decode (fmtI op r1 r2 imm) = checkWf op.toNat (decodeI op.toNat r1 r2 imm) := by
  rw [decode_fmtI, decodeFields, hu, hi]
  simp

/-- V format words, by their fields. -/
theorem decode_fmtV (op : BitVec 7) (a b c : Reg) (t : BitVec 4) (m fn : BitVec 3) (hu : isU op.toNat = false) (hi : isI op.toNat = false)
    (hv : isV op.toNat = true) :
    decode (fmtV op a b c t m fn) = checkWf op.toNat (decodeV op.toNat a b c (t ++ (m ++ fn))) := by
  have h : fmtV op a b c t m fn = fmtI op a b (c ++ ((t ++ ((m ++ fn : BitVec 6) : BitVec 6)) : BitVec 10)) := rfl
  rw [h, decode_fmtI, decodeFields, hu, hi, hv]
  simp only [Bool.false_eq_true, if_false, if_true]
  rw [hiF_append 5 10, loF_append 5 10]

/-- The check of the reserved codes passes well-formed instructions on. -/
theorem checkWf_ok (op : Nat) (i : Instr) (h : i.wf = true) : checkWf op (.ok i) = .ok i := by simp [checkWf, h]

/-- What the check passes on is well formed. -/
theorem wf_of_checkWf (op : Nat) (r : Except DecodeError Instr) (i : Instr) (h : checkWf op r = .ok i) : r = .ok i ∧ i.wf = true := by
  cases r with
  | error e => simp [checkWf] at h
  | ok j =>
    simp only [checkWf] at h
    split at h
    · cases h; exact ⟨rfl, ‹_›⟩
    · cases h

/-- What decodes is well formed. -/
theorem wf_of_decode (w : IWord) (i : Instr) (h : decode w = .ok i) : i.wf = true := (wf_of_checkWf _ _ i h).2

end Sys2Proof
end

