-- ==== Sys2Proof/Laws/Memory.lean ====
section
/-! SUPPORT. Byte memory: a read after a write, a write leaves every other byte, and every write keeps the canonical form (08 R147). -/

namespace Sys2Proof.Machine

theorem rdByte_wrByte (m : Memory) (a b : Nat) (v : Byte) (h : Memory.wf m = true) :
    rdByte (wrByte m a v) b = if b = a then v else rdByte m b := by
  suffices H : ∀ (lo : Option Nat), memWfFrom lo m = true → rdByte (wrByte m a v) b = if b = a then v else rdByte m b from H none h
  have low : ∀ (m : Memory) (lo c : Nat), memWfFrom (some lo) m = true → c ≤ lo → rdByte m c = unlistedByte := by
    intro m
    induction m with
    | nil => intros; rfl
    | cons p m ih =>
      obtain ⟨k, w⟩ := p
      intro lo c hw hc
      simp only [memWfFrom, Option.all_some, Bool.and_eq_true, decide_eq_true_eq] at hw
      have hk : k ≠ c := by omega
      simp only [rdByte, hk, if_false]
      exact ih k c hw.2 (by omega)
  clear h
  induction m with
  | nil =>
    intro lo _
    by_cases hv : v = unlistedByte <;> by_cases hb : b = a <;> simp [wrByte, rdByte, hv, hb, Ne.symm]
  | cons p m ih =>
    obtain ⟨k, w⟩ := p
    intro lo hw
    simp only [memWfFrom, Bool.and_eq_true, decide_eq_true_eq] at hw
    have ih' := ih (some k) hw.2
    by_cases h1 : a < k
    · by_cases hv : v = unlistedByte
      · simp only [wrByte, h1, if_true, hv, rdByte]
        by_cases hb : b = a
        · subst hb
          have hk : k ≠ b := by omega
          simp [hk, low m k b hw.2 (by omega)]
        · simp [hb]
      · simp only [wrByte, h1, if_true, hv, if_false, rdByte]
        by_cases hb : a = b
        · simp [hb]
        · simp [hb, Ne.symm hb]
    · by_cases h2 : a = k
      · subst h2
        by_cases hv : v = unlistedByte
        · simp only [wrByte, Nat.lt_irrefl, if_false, hv, if_true, rdByte]
          by_cases hb : b = a
          · subst hb; simp [low m b b hw.2 (Nat.le_refl b)]
          · simp [hb, Ne.symm hb]
        · simp only [wrByte, Nat.lt_irrefl, if_false, hv, if_true, rdByte]
          by_cases hb : b = a
          · simp [hb]
          · simp [hb, Ne.symm hb]
      · simp only [wrByte, h1, if_false, h2, rdByte]
        by_cases hb : k = b
        · subst hb; simp [Ne.symm h2]
        · simp [hb, ih']

theorem memWfFrom_wrByte (m : Memory) (a : Nat) (v : Byte) :
    ∀ lo : Option Nat, memWfFrom lo m = true → (∀ l, lo = some l → l < a) → memWfFrom lo (wrByte m a v) = true := by
  induction m with
  | nil =>
    intro lo _ hlo
    by_cases hv : v = unlistedByte
    · simp [wrByte, hv, memWfFrom]
    · cases lo with
      | none => simp [wrByte, hv, memWfFrom]
      | some l => simp [wrByte, hv, memWfFrom, hlo l rfl]
  | cons p m ih =>
    obtain ⟨k, w⟩ := p
    intro lo hw hlo
    have hw' := hw
    simp only [memWfFrom, Bool.and_eq_true, decide_eq_true_eq] at hw
    by_cases h1 : a < k
    · by_cases hv : v = unlistedByte
      · simpa [wrByte, h1, hv] using hw'
      · cases lo with
        | none => simp [wrByte, h1, hv, memWfFrom, hw]
        | some l => simp [wrByte, h1, hv, memWfFrom, hw, hlo l rfl]
    · by_cases h2 : a = k
      · subst h2
        by_cases hv : v = unlistedByte
        · simp only [wrByte, Nat.lt_irrefl, if_false, hv, if_true]
          cases m with
          | nil => rfl
          | cons q m =>
            obtain ⟨k2, w2⟩ := q
            simp only [memWfFrom, Option.all_some, Bool.and_eq_true, decide_eq_true_eq] at hw ⊢
            refine ⟨⟨?_, hw.2.1.2⟩, hw.2.2⟩
            cases lo with
            | none => rfl
            | some l => simpa using Nat.lt_trans (hlo l rfl) hw.2.1.1
        · simp only [wrByte, Nat.lt_irrefl, if_false, hv, if_true, memWfFrom, Bool.and_eq_true, decide_eq_true_eq]
          exact ⟨⟨hw.1.1, hv⟩, hw.2⟩
      · simp only [wrByte, h1, if_false, h2, memWfFrom, Bool.and_eq_true, decide_eq_true_eq]
        exact ⟨hw.1, ih (some k) hw.2 (by intro l hl; cases hl; omega)⟩

theorem wrByte_wf (m : Memory) (a : Nat) (v : Byte) (h : Memory.wf m = true) : Memory.wf (wrByte m a v) = true :=
  memWfFrom_wrByte m a v none h (by simp)

theorem wrBytes_wf (bs : List Byte) : ∀ (m : Memory) (a : Nat), Memory.wf m = true → Memory.wf (wrBytes m a bs) = true := by
  induction bs with
  | nil => intro m a h; exact h
  | cons b bs ih => intro m a h; exact ih _ _ (wrByte_wf m a b h)

theorem wrLE_wf (m : Memory) (a n v : Nat) (h : Memory.wf m = true) : Memory.wf (wrLE m a n v) = true := wrBytes_wf _ m a h

/-- A byte after a write of bytes: the written one inside, the old one outside. -/
theorem rdByte_wrBytes (bs : List Byte) : ∀ (m : Memory) (a b : Nat), Memory.wf m = true →
    rdByte (wrBytes m a bs) b = if a ≤ b ∧ b < a + bs.length then bs.getD (b - a) 0 else rdByte m b := by
  induction bs with
  | nil => intro m a b h; simp [wrBytes]
  | cons x bs ih =>
    intro m a b h
    rw [wrBytes, ih _ _ _ (wrByte_wf m a x h), rdByte_wrByte m a b x h]
    by_cases h1 : b = a
    · subst h1; simp
    · by_cases h2 : a + 1 ≤ b ∧ b < a + 1 + bs.length
      · have h3 : a ≤ b ∧ b < a + (x :: bs).length := by simp; omega
        have h4 : b - a = (b - (a + 1)) + 1 := by omega
        simp only [h2, h3, and_self, if_true, h4, List.getD_cons_succ]
      · have h3 : ¬ (a ≤ b ∧ b < a + (x :: bs).length) := by simp; omega
        simp only [h2, h3, if_false, h1]

theorem leBytes_length (n : Nat) : ∀ v, (leBytes n v).length = n := by
  induction n with
  | zero => intro v; rfl
  | succ n ih => intro v; simp [leBytes, ih]

theorem rdBytes_length (m : Memory) (n : Nat) : ∀ a, (rdBytes m a n).length = n := by
  induction n with
  | zero => intro a; rfl
  | succ n ih => intro a; simp [rdBytes, ih]

/-- Bytes read where they were written are those written. -/
theorem rdBytes_wrBytes (bs : List Byte) : ∀ (m : Memory) (a : Nat), Memory.wf m = true → rdBytes (wrBytes m a bs) a bs.length = bs := by
  intro m a h
  apply List.ext_getElem
  · exact rdBytes_length _ _ _
  · have key : ∀ (n c i : Nat) (hi : i < (rdBytes (wrBytes m a bs) c n).length),
        (rdBytes (wrBytes m a bs) c n)[i] = rdByte (wrBytes m a bs) (c + i) := by
      intro n
      induction n with
      | zero => intro c i hi; simp [rdBytes] at hi
      | succ n ih =>
        intro c i hi
        cases i with
        | zero => rfl
        | succ i => simp only [rdBytes, List.getElem_cons_succ]; rw [ih]; congr 1; omega
    intro i h1 h2
    rw [key, rdByte_wrBytes _ _ _ _ h]
    have : a ≤ a + i ∧ a + i < a + bs.length := by omega
    simp [this, h2]

theorem leNat_leBytes (n : Nat) : ∀ v, leNat (leBytes n v) = v % 256 ^ n := by
  induction n with
  | zero => intro v; simp [leBytes, leNat, Nat.mod_one]
  | succ n ih =>
    intro v
    simp only [leBytes, leNat, ih, BitVec.toNat_ofNat]
    rw [show 256 ^ (n + 1) = 256 * 256 ^ n from Nat.pow_succ', Nat.mod_mul]

/-- A little-endian number read where it was written. -/
theorem rdLE_wrLE (m : Memory) (a n v : Nat) (h : Memory.wf m = true) : rdLE (wrLE m a n v) a n = v % 256 ^ n := by
  have := rdBytes_wrBytes (leBytes n v) m a h
  rw [leBytes_length] at this
  rw [rdLE, wrLE, this, leNat_leBytes]

end Sys2Proof.Machine
end

