-- ==== Sys2Proof/Laws/State.lean ====
section
/-! SUPPORT. One lemma for each field and each update of the state: what reading it after the update gives. -/

namespace Sys2Proof.Machine

/-! ### Sorted maps -/

@[simp] theorem mget_mput_same {α : Type} (m : SMap α) (a : Nat) (v : α) : mget (mput m a v) a = some v := by
  induction m with
  | nil => simp [mput, mget]
  | cons p m ih =>
    obtain ⟨k, w⟩ := p
    by_cases h1 : a < k
    · simp [mput, h1, mget]
    · by_cases h2 : a = k
      · simp [mput, h2, mget]
      · have h3 : k ≠ a := Ne.symm h2
        simp [mput, h1, h2, mget, h3, ih]

theorem mget_mput_other {α : Type} (m : SMap α) (a b : Nat) (v : α) (h : b ≠ a) : mget (mput m a v) b = mget m b := by
  induction m with
  | nil => simp [mput, mget, h.symm]
  | cons p m ih =>
    obtain ⟨k, w⟩ := p
    by_cases h1 : a < k
    · simp [mput, h1, mget, h.symm]
    · by_cases h2 : a = k
      · subst h2; simp [mput, mget, h.symm]
      · simp only [mput, h1, if_false, h2, mget, ih]

@[simp] theorem mgetD_mput_same {α : Type} (m : SMap α) (a : Nat) (v d : α) : mgetD (mput m a v) a d = v := by simp [mgetD]

theorem mgetD_mput_other {α : Type} (m : SMap α) (a b : Nat) (v d : α) (h : b ≠ a) : mgetD (mput m a v) b d = mgetD m b d := by
  simp [mgetD, mget_mput_other m a b v h]

/-! ### Cores -/

@[simp] theorem coreOf_setCore_same (s : State) (c : Nat) (k : Core) : coreOf (setCore s c k) c = k := by simp [coreOf, setCore]
theorem coreOf_setCore_other (s : State) (c d : Nat) (k : Core) (h : d ≠ c) : coreOf (setCore s c k) d = coreOf s d := by
  simp [coreOf, setCore, mgetD_mput_other _ _ _ _ _ h]
@[simp] theorem cc_setCC (s : State) (k : Core) : cc (setCC s k) = k := by simp [cc, setCC, coreOf, setCore]
@[simp] theorem cc_setCore_cur (s : State) (k : Core) : cc (setCore s s.cur k) = k := by simp [cc, coreOf, setCore]
theorem coreOf_setCC_other (s : State) (d : Nat) (k : Core) (h : d ≠ s.cur) : coreOf (setCC s k) d = coreOf s d :=
  coreOf_setCore_other s s.cur d k h
@[simp] theorem coreOf_updCore_same (s : State) (c : Nat) (f : Core → Core) : coreOf (updCore s c f) c = f (coreOf s c) := by simp [updCore]
theorem coreOf_updCore_other (s : State) (c d : Nat) (f : Core → Core) (h : d ≠ c) : coreOf (updCore s c f) d = coreOf s d :=
  coreOf_setCore_other s c d _ h

@[simp] theorem setCore_now (s : State) (c : Nat) (k : Core) : (setCore s c k).now = s.now := rfl
@[simp] theorem setCore_agenda (s : State) (c : Nat) (k : Core) : (setCore s c k).agenda = s.agenda := rfl
@[simp] theorem setCore_cur (s : State) (c : Nat) (k : Core) : (setCore s c k).cur = s.cur := rfl
@[simp] theorem setCore_free (s : State) (c : Nat) (k : Core) : (setCore s c k).free = s.free := rfl
@[simp] theorem setCore_chip (s : State) (c : Nat) (k : Core) : (setCore s c k).chip = s.chip := rfl
@[simp] theorem setCore_boot (s : State) (c : Nat) (k : Core) : (setCore s c k).boot = s.boot := rfl
@[simp] theorem setCore_flash (s : State) (c : Nat) (k : Core) : (setCore s c k).flash = s.flash := rfl
@[simp] theorem setCore_ctxs (s : State) (c : Nat) (k : Core) : (setCore s c k).ctxs = s.ctxs := rfl
@[simp] theorem setCore_ranks (s : State) (c : Nat) (k : Core) : (setCore s c k).ranks = s.ranks := rfl
@[simp] theorem setCore_parts (s : State) (c : Nat) (k : Core) : (setCore s c k).parts = s.parts := rfl
@[simp] theorem setCore_retired (s : State) (c : Nat) (k : Core) : (setCore s c k).retired = s.retired := rfl
@[simp] theorem setCore_mem (s : State) (c : Nat) (k : Core) : (setCore s c k).mem = s.mem := rfl
@[simp] theorem setCore_memPoison (s : State) (c : Nat) (k : Core) : (setCore s c k).memPoison = s.memPoison := rfl
@[simp] theorem setCore_lines (s : State) (c : Nat) (k : Core) : (setCore s c k).lines = s.lines := rfl
@[simp] theorem setCore_monitors (s : State) (c : Nat) (k : Core) : (setCore s c k).monitors = s.monitors := rfl
@[simp] theorem setCore_chans (s : State) (c : Nat) (k : Core) : (setCore s c k).chans = s.chans := rfl
@[simp] theorem setCore_dies (s : State) (c : Nat) (k : Core) : (setCore s c k).dies = s.dies := rfl
@[simp] theorem setCore_ports (s : State) (c : Nat) (k : Core) : (setCore s c k).ports = s.ports := rfl
@[simp] theorem setCore_e2e (s : State) (c : Nat) (k : Core) : (setCore s c k).e2e = s.e2e := rfl
@[simp] theorem setCore_counted (s : State) (c : Nat) (k : Core) : (setCore s c k).counted = s.counted := rfl
@[simp] theorem setCore_egress (s : State) (c : Nat) (k : Core) : (setCore s c k).egress = s.egress := rfl
@[simp] theorem setCore_switches (s : State) (c : Nat) (k : Core) : (setCore s c k).switches = s.switches := rfl
@[simp] theorem setCore_wire (s : State) (c : Nat) (k : Core) : (setCore s c k).wire = s.wire := rfl
@[simp] theorem setCore_mouts (s : State) (c : Nat) (k : Core) : (setCore s c k).mouts = s.mouts := rfl
@[simp] theorem setCore_mtagNext (s : State) (c : Nat) (k : Core) : (setCore s c k).mtagNext = s.mtagNext := rfl
@[simp] theorem setCore_pairs (s : State) (c : Nat) (k : Core) : (setCore s c k).pairs = s.pairs := rfl
@[simp] theorem setCore_adjs (s : State) (c : Nat) (k : Core) : (setCore s c k).adjs = s.adjs := rfl
@[simp] theorem setCore_holdMiB (s : State) (c : Nat) (k : Core) : (setCore s c k).holdMiB = s.holdMiB := rfl
@[simp] theorem setCore_holds (s : State) (c : Nat) (k : Core) : (setCore s c k).holds = s.holds := rfl
@[simp] theorem setCore_kernels (s : State) (c : Nat) (k : Core) : (setCore s c k).kernels = s.kernels := rfl
@[simp] theorem setCore_kidNext (s : State) (c : Nat) (k : Core) : (setCore s c k).kidNext = s.kidNext := rfl
@[simp] theorem setCore_reports (s : State) (c : Nat) (k : Core) : (setCore s c k).reports = s.reports := rfl
@[simp] theorem setCore_acks (s : State) (c : Nat) (k : Core) : (setCore s c k).acks = s.acks := rfl
@[simp] theorem setCore_gangs (s : State) (c : Nat) (k : Core) : (setCore s c k).gangs = s.gangs := rfl
@[simp] theorem setCore_frecs (s : State) (c : Nat) (k : Core) : (setCore s c k).frecs = s.frecs := rfl
@[simp] theorem setCore_ops (s : State) (c : Nat) (k : Core) : (setCore s c k).ops = s.ops := rfl
@[simp] theorem setCore_opNext (s : State) (c : Nat) (k : Core) : (setCore s c k).opNext = s.opNext := rfl
@[simp] theorem setCore_images (s : State) (c : Nat) (k : Core) : (setCore s c k).images = s.images := rfl
@[simp] theorem setCore_subs (s : State) (c : Nat) (k : Core) : (setCore s c k).subs = s.subs := rfl
@[simp] theorem setCore_incLag (s : State) (c : Nat) (k : Core) : (setCore s c k).incLag = s.incLag := rfl
@[simp] theorem setCore_hostOut (s : State) (c : Nat) (k : Core) : (setCore s c k).hostOut = s.hostOut := rfl
@[simp] theorem setCore_reportsOut (s : State) (c : Nat) (k : Core) : (setCore s c k).reportsOut = s.reportsOut := rfl
@[simp] theorem setCore_domain (s : State) (c : Nat) (k : Core) : (setCore s c k).domain = s.domain := rfl
@[simp] theorem setCore_cxl (s : State) (c : Nat) (k : Core) : (setCore s c k).cxl = s.cxl := rfl
@[simp] theorem setCore_testper (s : State) (c : Nat) (k : Core) : (setCore s c k).testper = s.testper := rfl
@[simp] theorem setCore_powerAt (s : State) (c : Nat) (k : Core) : (setCore s c k).powerAt = s.powerAt := rfl
@[simp] theorem setCore_grants (s : State) (c : Nat) (k : Core) : (setCore s c k).grants = s.grants := rfl
@[simp] theorem setCore_spans (s : State) (c : Nat) (k : Core) : (setCore s c k).spans = s.spans := rfl
@[simp] theorem setCore_landNext (s : State) (c : Nat) (k : Core) : (setCore s c k).landNext = s.landNext := rfl
@[simp] theorem setCore_lostEnds (s : State) (c : Nat) (k : Core) : (setCore s c k).lostEnds = s.lostEnds := rfl
@[simp] theorem setCore_cxlPoison (s : State) (c : Nat) (k : Core) : (setCore s c k).cxlPoison = s.cxlPoison := rfl
@[simp] theorem setCC_now (s : State) (k : Core) : (setCC s k).now = s.now := rfl
@[simp] theorem setCC_agenda (s : State) (k : Core) : (setCC s k).agenda = s.agenda := rfl
@[simp] theorem setCC_cur (s : State) (k : Core) : (setCC s k).cur = s.cur := rfl
@[simp] theorem setCC_free (s : State) (k : Core) : (setCC s k).free = s.free := rfl
@[simp] theorem setCC_chip (s : State) (k : Core) : (setCC s k).chip = s.chip := rfl
@[simp] theorem setCC_boot (s : State) (k : Core) : (setCC s k).boot = s.boot := rfl
@[simp] theorem setCC_flash (s : State) (k : Core) : (setCC s k).flash = s.flash := rfl
@[simp] theorem setCC_ctxs (s : State) (k : Core) : (setCC s k).ctxs = s.ctxs := rfl
@[simp] theorem setCC_ranks (s : State) (k : Core) : (setCC s k).ranks = s.ranks := rfl
@[simp] theorem setCC_parts (s : State) (k : Core) : (setCC s k).parts = s.parts := rfl
@[simp] theorem setCC_retired (s : State) (k : Core) : (setCC s k).retired = s.retired := rfl
@[simp] theorem setCC_mem (s : State) (k : Core) : (setCC s k).mem = s.mem := rfl
@[simp] theorem setCC_memPoison (s : State) (k : Core) : (setCC s k).memPoison = s.memPoison := rfl
@[simp] theorem setCC_lines (s : State) (k : Core) : (setCC s k).lines = s.lines := rfl
@[simp] theorem setCC_monitors (s : State) (k : Core) : (setCC s k).monitors = s.monitors := rfl
@[simp] theorem setCC_chans (s : State) (k : Core) : (setCC s k).chans = s.chans := rfl
@[simp] theorem setCC_dies (s : State) (k : Core) : (setCC s k).dies = s.dies := rfl
@[simp] theorem setCC_ports (s : State) (k : Core) : (setCC s k).ports = s.ports := rfl
@[simp] theorem setCC_e2e (s : State) (k : Core) : (setCC s k).e2e = s.e2e := rfl
@[simp] theorem setCC_counted (s : State) (k : Core) : (setCC s k).counted = s.counted := rfl
@[simp] theorem setCC_egress (s : State) (k : Core) : (setCC s k).egress = s.egress := rfl
@[simp] theorem setCC_switches (s : State) (k : Core) : (setCC s k).switches = s.switches := rfl
@[simp] theorem setCC_wire (s : State) (k : Core) : (setCC s k).wire = s.wire := rfl
@[simp] theorem setCC_mouts (s : State) (k : Core) : (setCC s k).mouts = s.mouts := rfl
@[simp] theorem setCC_mtagNext (s : State) (k : Core) : (setCC s k).mtagNext = s.mtagNext := rfl
@[simp] theorem setCC_pairs (s : State) (k : Core) : (setCC s k).pairs = s.pairs := rfl
@[simp] theorem setCC_adjs (s : State) (k : Core) : (setCC s k).adjs = s.adjs := rfl
@[simp] theorem setCC_holdMiB (s : State) (k : Core) : (setCC s k).holdMiB = s.holdMiB := rfl
@[simp] theorem setCC_holds (s : State) (k : Core) : (setCC s k).holds = s.holds := rfl
@[simp] theorem setCC_kernels (s : State) (k : Core) : (setCC s k).kernels = s.kernels := rfl
@[simp] theorem setCC_kidNext (s : State) (k : Core) : (setCC s k).kidNext = s.kidNext := rfl
@[simp] theorem setCC_reports (s : State) (k : Core) : (setCC s k).reports = s.reports := rfl
@[simp] theorem setCC_acks (s : State) (k : Core) : (setCC s k).acks = s.acks := rfl
@[simp] theorem setCC_gangs (s : State) (k : Core) : (setCC s k).gangs = s.gangs := rfl
@[simp] theorem setCC_frecs (s : State) (k : Core) : (setCC s k).frecs = s.frecs := rfl
@[simp] theorem setCC_ops (s : State) (k : Core) : (setCC s k).ops = s.ops := rfl
@[simp] theorem setCC_opNext (s : State) (k : Core) : (setCC s k).opNext = s.opNext := rfl
@[simp] theorem setCC_images (s : State) (k : Core) : (setCC s k).images = s.images := rfl
@[simp] theorem setCC_subs (s : State) (k : Core) : (setCC s k).subs = s.subs := rfl
@[simp] theorem setCC_incLag (s : State) (k : Core) : (setCC s k).incLag = s.incLag := rfl
@[simp] theorem setCC_hostOut (s : State) (k : Core) : (setCC s k).hostOut = s.hostOut := rfl
@[simp] theorem setCC_reportsOut (s : State) (k : Core) : (setCC s k).reportsOut = s.reportsOut := rfl
@[simp] theorem setCC_domain (s : State) (k : Core) : (setCC s k).domain = s.domain := rfl
@[simp] theorem setCC_cxl (s : State) (k : Core) : (setCC s k).cxl = s.cxl := rfl
@[simp] theorem setCC_testper (s : State) (k : Core) : (setCC s k).testper = s.testper := rfl
@[simp] theorem setCC_powerAt (s : State) (k : Core) : (setCC s k).powerAt = s.powerAt := rfl
@[simp] theorem setCC_grants (s : State) (k : Core) : (setCC s k).grants = s.grants := rfl
@[simp] theorem setCC_spans (s : State) (k : Core) : (setCC s k).spans = s.spans := rfl
@[simp] theorem setCC_landNext (s : State) (k : Core) : (setCC s k).landNext = s.landNext := rfl
@[simp] theorem setCC_lostEnds (s : State) (k : Core) : (setCC s k).lostEnds = s.lostEnds := rfl
@[simp] theorem setCC_cxlPoison (s : State) (k : Core) : (setCC s k).cxlPoison = s.cxlPoison := rfl
@[simp] theorem updCore_now (s : State) (c : Nat) (g : Core → Core) : (updCore s c g).now = s.now := rfl
@[simp] theorem updCore_agenda (s : State) (c : Nat) (g : Core → Core) : (updCore s c g).agenda = s.agenda := rfl
@[simp] theorem updCore_cur (s : State) (c : Nat) (g : Core → Core) : (updCore s c g).cur = s.cur := rfl
@[simp] theorem updCore_free (s : State) (c : Nat) (g : Core → Core) : (updCore s c g).free = s.free := rfl
@[simp] theorem updCore_chip (s : State) (c : Nat) (g : Core → Core) : (updCore s c g).chip = s.chip := rfl
@[simp] theorem updCore_boot (s : State) (c : Nat) (g : Core → Core) : (updCore s c g).boot = s.boot := rfl
@[simp] theorem updCore_flash (s : State) (c : Nat) (g : Core → Core) : (updCore s c g).flash = s.flash := rfl
@[simp] theorem updCore_ctxs (s : State) (c : Nat) (g : Core → Core) : (updCore s c g).ctxs = s.ctxs := rfl
@[simp] theorem updCore_ranks (s : State) (c : Nat) (g : Core → Core) : (updCore s c g).ranks = s.ranks := rfl
@[simp] theorem updCore_parts (s : State) (c : Nat) (g : Core → Core) : (updCore s c g).parts = s.parts := rfl
@[simp] theorem updCore_retired (s : State) (c : Nat) (g : Core → Core) : (updCore s c g).retired = s.retired := rfl
@[simp] theorem updCore_mem (s : State) (c : Nat) (g : Core → Core) : (updCore s c g).mem = s.mem := rfl
@[simp] theorem updCore_memPoison (s : State) (c : Nat) (g : Core → Core) : (updCore s c g).memPoison = s.memPoison := rfl
@[simp] theorem updCore_lines (s : State) (c : Nat) (g : Core → Core) : (updCore s c g).lines = s.lines := rfl
@[simp] theorem updCore_monitors (s : State) (c : Nat) (g : Core → Core) : (updCore s c g).monitors = s.monitors := rfl
@[simp] theorem updCore_chans (s : State) (c : Nat) (g : Core → Core) : (updCore s c g).chans = s.chans := rfl
@[simp] theorem updCore_dies (s : State) (c : Nat) (g : Core → Core) : (updCore s c g).dies = s.dies := rfl
@[simp] theorem updCore_ports (s : State) (c : Nat) (g : Core → Core) : (updCore s c g).ports = s.ports := rfl
@[simp] theorem updCore_e2e (s : State) (c : Nat) (g : Core → Core) : (updCore s c g).e2e = s.e2e := rfl
@[simp] theorem updCore_counted (s : State) (c : Nat) (g : Core → Core) : (updCore s c g).counted = s.counted := rfl
@[simp] theorem updCore_egress (s : State) (c : Nat) (g : Core → Core) : (updCore s c g).egress = s.egress := rfl
@[simp] theorem updCore_switches (s : State) (c : Nat) (g : Core → Core) : (updCore s c g).switches = s.switches := rfl
@[simp] theorem updCore_wire (s : State) (c : Nat) (g : Core → Core) : (updCore s c g).wire = s.wire := rfl
@[simp] theorem updCore_mouts (s : State) (c : Nat) (g : Core → Core) : (updCore s c g).mouts = s.mouts := rfl
@[simp] theorem updCore_mtagNext (s : State) (c : Nat) (g : Core → Core) : (updCore s c g).mtagNext = s.mtagNext := rfl
@[simp] theorem updCore_pairs (s : State) (c : Nat) (g : Core → Core) : (updCore s c g).pairs = s.pairs := rfl
@[simp] theorem updCore_adjs (s : State) (c : Nat) (g : Core → Core) : (updCore s c g).adjs = s.adjs := rfl
@[simp] theorem updCore_holdMiB (s : State) (c : Nat) (g : Core → Core) : (updCore s c g).holdMiB = s.holdMiB := rfl
@[simp] theorem updCore_holds (s : State) (c : Nat) (g : Core → Core) : (updCore s c g).holds = s.holds := rfl
@[simp] theorem updCore_kernels (s : State) (c : Nat) (g : Core → Core) : (updCore s c g).kernels = s.kernels := rfl
@[simp] theorem updCore_kidNext (s : State) (c : Nat) (g : Core → Core) : (updCore s c g).kidNext = s.kidNext := rfl
@[simp] theorem updCore_reports (s : State) (c : Nat) (g : Core → Core) : (updCore s c g).reports = s.reports := rfl
@[simp] theorem updCore_acks (s : State) (c : Nat) (g : Core → Core) : (updCore s c g).acks = s.acks := rfl
@[simp] theorem updCore_gangs (s : State) (c : Nat) (g : Core → Core) : (updCore s c g).gangs = s.gangs := rfl
@[simp] theorem updCore_frecs (s : State) (c : Nat) (g : Core → Core) : (updCore s c g).frecs = s.frecs := rfl
@[simp] theorem updCore_ops (s : State) (c : Nat) (g : Core → Core) : (updCore s c g).ops = s.ops := rfl
@[simp] theorem updCore_opNext (s : State) (c : Nat) (g : Core → Core) : (updCore s c g).opNext = s.opNext := rfl
@[simp] theorem updCore_images (s : State) (c : Nat) (g : Core → Core) : (updCore s c g).images = s.images := rfl
@[simp] theorem updCore_subs (s : State) (c : Nat) (g : Core → Core) : (updCore s c g).subs = s.subs := rfl
@[simp] theorem updCore_incLag (s : State) (c : Nat) (g : Core → Core) : (updCore s c g).incLag = s.incLag := rfl
@[simp] theorem updCore_hostOut (s : State) (c : Nat) (g : Core → Core) : (updCore s c g).hostOut = s.hostOut := rfl
@[simp] theorem updCore_reportsOut (s : State) (c : Nat) (g : Core → Core) : (updCore s c g).reportsOut = s.reportsOut := rfl
@[simp] theorem updCore_domain (s : State) (c : Nat) (g : Core → Core) : (updCore s c g).domain = s.domain := rfl
@[simp] theorem updCore_cxl (s : State) (c : Nat) (g : Core → Core) : (updCore s c g).cxl = s.cxl := rfl
@[simp] theorem updCore_testper (s : State) (c : Nat) (g : Core → Core) : (updCore s c g).testper = s.testper := rfl
@[simp] theorem updCore_powerAt (s : State) (c : Nat) (g : Core → Core) : (updCore s c g).powerAt = s.powerAt := rfl
@[simp] theorem updCore_grants (s : State) (c : Nat) (g : Core → Core) : (updCore s c g).grants = s.grants := rfl
@[simp] theorem updCore_spans (s : State) (c : Nat) (g : Core → Core) : (updCore s c g).spans = s.spans := rfl
@[simp] theorem updCore_landNext (s : State) (c : Nat) (g : Core → Core) : (updCore s c g).landNext = s.landNext := rfl
@[simp] theorem updCore_lostEnds (s : State) (c : Nat) (g : Core → Core) : (updCore s c g).lostEnds = s.lostEnds := rfl
@[simp] theorem updCore_cxlPoison (s : State) (c : Nat) (g : Core → Core) : (updCore s c g).cxlPoison = s.cxlPoison := rfl

/-! ### Dies -/

@[simp] theorem setDie_now (s : State) (d : Nat) (x : Die) : (setDie s d x).now = s.now := rfl
@[simp] theorem setDie_agenda (s : State) (d : Nat) (x : Die) : (setDie s d x).agenda = s.agenda := rfl
@[simp] theorem setDie_cur (s : State) (d : Nat) (x : Die) : (setDie s d x).cur = s.cur := rfl
@[simp] theorem setDie_free (s : State) (d : Nat) (x : Die) : (setDie s d x).free = s.free := rfl
@[simp] theorem setDie_chip (s : State) (d : Nat) (x : Die) : (setDie s d x).chip = s.chip := rfl
@[simp] theorem setDie_boot (s : State) (d : Nat) (x : Die) : (setDie s d x).boot = s.boot := rfl
@[simp] theorem setDie_flash (s : State) (d : Nat) (x : Die) : (setDie s d x).flash = s.flash := rfl
@[simp] theorem setDie_ctxs (s : State) (d : Nat) (x : Die) : (setDie s d x).ctxs = s.ctxs := rfl
@[simp] theorem setDie_ranks (s : State) (d : Nat) (x : Die) : (setDie s d x).ranks = s.ranks := rfl
@[simp] theorem setDie_parts (s : State) (d : Nat) (x : Die) : (setDie s d x).parts = s.parts := rfl
@[simp] theorem setDie_retired (s : State) (d : Nat) (x : Die) : (setDie s d x).retired = s.retired := rfl
@[simp] theorem setDie_mem (s : State) (d : Nat) (x : Die) : (setDie s d x).mem = s.mem := rfl
@[simp] theorem setDie_memPoison (s : State) (d : Nat) (x : Die) : (setDie s d x).memPoison = s.memPoison := rfl
@[simp] theorem setDie_lines (s : State) (d : Nat) (x : Die) : (setDie s d x).lines = s.lines := rfl
@[simp] theorem setDie_monitors (s : State) (d : Nat) (x : Die) : (setDie s d x).monitors = s.monitors := rfl
@[simp] theorem setDie_chans (s : State) (d : Nat) (x : Die) : (setDie s d x).chans = s.chans := rfl
@[simp] theorem setDie_cores (s : State) (d : Nat) (x : Die) : (setDie s d x).cores = s.cores := rfl
@[simp] theorem setDie_ports (s : State) (d : Nat) (x : Die) : (setDie s d x).ports = s.ports := rfl
@[simp] theorem setDie_e2e (s : State) (d : Nat) (x : Die) : (setDie s d x).e2e = s.e2e := rfl
@[simp] theorem setDie_counted (s : State) (d : Nat) (x : Die) : (setDie s d x).counted = s.counted := rfl
@[simp] theorem setDie_egress (s : State) (d : Nat) (x : Die) : (setDie s d x).egress = s.egress := rfl
@[simp] theorem setDie_switches (s : State) (d : Nat) (x : Die) : (setDie s d x).switches = s.switches := rfl
@[simp] theorem setDie_wire (s : State) (d : Nat) (x : Die) : (setDie s d x).wire = s.wire := rfl
@[simp] theorem setDie_mouts (s : State) (d : Nat) (x : Die) : (setDie s d x).mouts = s.mouts := rfl
@[simp] theorem setDie_mtagNext (s : State) (d : Nat) (x : Die) : (setDie s d x).mtagNext = s.mtagNext := rfl
@[simp] theorem setDie_pairs (s : State) (d : Nat) (x : Die) : (setDie s d x).pairs = s.pairs := rfl
@[simp] theorem setDie_adjs (s : State) (d : Nat) (x : Die) : (setDie s d x).adjs = s.adjs := rfl
@[simp] theorem setDie_holdMiB (s : State) (d : Nat) (x : Die) : (setDie s d x).holdMiB = s.holdMiB := rfl
@[simp] theorem setDie_holds (s : State) (d : Nat) (x : Die) : (setDie s d x).holds = s.holds := rfl
@[simp] theorem setDie_kernels (s : State) (d : Nat) (x : Die) : (setDie s d x).kernels = s.kernels := rfl
@[simp] theorem setDie_kidNext (s : State) (d : Nat) (x : Die) : (setDie s d x).kidNext = s.kidNext := rfl
@[simp] theorem setDie_reports (s : State) (d : Nat) (x : Die) : (setDie s d x).reports = s.reports := rfl
@[simp] theorem setDie_acks (s : State) (d : Nat) (x : Die) : (setDie s d x).acks = s.acks := rfl
@[simp] theorem setDie_gangs (s : State) (d : Nat) (x : Die) : (setDie s d x).gangs = s.gangs := rfl
@[simp] theorem setDie_frecs (s : State) (d : Nat) (x : Die) : (setDie s d x).frecs = s.frecs := rfl
@[simp] theorem setDie_ops (s : State) (d : Nat) (x : Die) : (setDie s d x).ops = s.ops := rfl
@[simp] theorem setDie_opNext (s : State) (d : Nat) (x : Die) : (setDie s d x).opNext = s.opNext := rfl
@[simp] theorem setDie_images (s : State) (d : Nat) (x : Die) : (setDie s d x).images = s.images := rfl
@[simp] theorem setDie_subs (s : State) (d : Nat) (x : Die) : (setDie s d x).subs = s.subs := rfl
@[simp] theorem setDie_incLag (s : State) (d : Nat) (x : Die) : (setDie s d x).incLag = s.incLag := rfl
@[simp] theorem setDie_hostOut (s : State) (d : Nat) (x : Die) : (setDie s d x).hostOut = s.hostOut := rfl
@[simp] theorem setDie_reportsOut (s : State) (d : Nat) (x : Die) : (setDie s d x).reportsOut = s.reportsOut := rfl
@[simp] theorem setDie_domain (s : State) (d : Nat) (x : Die) : (setDie s d x).domain = s.domain := rfl
@[simp] theorem setDie_cxl (s : State) (d : Nat) (x : Die) : (setDie s d x).cxl = s.cxl := rfl
@[simp] theorem setDie_testper (s : State) (d : Nat) (x : Die) : (setDie s d x).testper = s.testper := rfl
@[simp] theorem setDie_powerAt (s : State) (d : Nat) (x : Die) : (setDie s d x).powerAt = s.powerAt := rfl
@[simp] theorem setDie_grants (s : State) (d : Nat) (x : Die) : (setDie s d x).grants = s.grants := rfl
@[simp] theorem setDie_spans (s : State) (d : Nat) (x : Die) : (setDie s d x).spans = s.spans := rfl
@[simp] theorem setDie_landNext (s : State) (d : Nat) (x : Die) : (setDie s d x).landNext = s.landNext := rfl
@[simp] theorem setDie_lostEnds (s : State) (d : Nat) (x : Die) : (setDie s d x).lostEnds = s.lostEnds := rfl
@[simp] theorem setDie_cxlPoison (s : State) (d : Nat) (x : Die) : (setDie s d x).cxlPoison = s.cxlPoison := rfl
@[simp] theorem updDie_now (s : State) (d : Nat) (g : Die → Die) : (updDie s d g).now = s.now := rfl
@[simp] theorem updDie_agenda (s : State) (d : Nat) (g : Die → Die) : (updDie s d g).agenda = s.agenda := rfl
@[simp] theorem updDie_cur (s : State) (d : Nat) (g : Die → Die) : (updDie s d g).cur = s.cur := rfl
@[simp] theorem updDie_free (s : State) (d : Nat) (g : Die → Die) : (updDie s d g).free = s.free := rfl
@[simp] theorem updDie_chip (s : State) (d : Nat) (g : Die → Die) : (updDie s d g).chip = s.chip := rfl
@[simp] theorem updDie_boot (s : State) (d : Nat) (g : Die → Die) : (updDie s d g).boot = s.boot := rfl
@[simp] theorem updDie_flash (s : State) (d : Nat) (g : Die → Die) : (updDie s d g).flash = s.flash := rfl
@[simp] theorem updDie_ctxs (s : State) (d : Nat) (g : Die → Die) : (updDie s d g).ctxs = s.ctxs := rfl
@[simp] theorem updDie_ranks (s : State) (d : Nat) (g : Die → Die) : (updDie s d g).ranks = s.ranks := rfl
@[simp] theorem updDie_parts (s : State) (d : Nat) (g : Die → Die) : (updDie s d g).parts = s.parts := rfl
@[simp] theorem updDie_retired (s : State) (d : Nat) (g : Die → Die) : (updDie s d g).retired = s.retired := rfl
@[simp] theorem updDie_mem (s : State) (d : Nat) (g : Die → Die) : (updDie s d g).mem = s.mem := rfl
@[simp] theorem updDie_memPoison (s : State) (d : Nat) (g : Die → Die) : (updDie s d g).memPoison = s.memPoison := rfl
@[simp] theorem updDie_lines (s : State) (d : Nat) (g : Die → Die) : (updDie s d g).lines = s.lines := rfl
@[simp] theorem updDie_monitors (s : State) (d : Nat) (g : Die → Die) : (updDie s d g).monitors = s.monitors := rfl
@[simp] theorem updDie_chans (s : State) (d : Nat) (g : Die → Die) : (updDie s d g).chans = s.chans := rfl
@[simp] theorem updDie_cores (s : State) (d : Nat) (g : Die → Die) : (updDie s d g).cores = s.cores := rfl
@[simp] theorem updDie_ports (s : State) (d : Nat) (g : Die → Die) : (updDie s d g).ports = s.ports := rfl
@[simp] theorem updDie_e2e (s : State) (d : Nat) (g : Die → Die) : (updDie s d g).e2e = s.e2e := rfl
@[simp] theorem updDie_counted (s : State) (d : Nat) (g : Die → Die) : (updDie s d g).counted = s.counted := rfl
@[simp] theorem updDie_egress (s : State) (d : Nat) (g : Die → Die) : (updDie s d g).egress = s.egress := rfl
@[simp] theorem updDie_switches (s : State) (d : Nat) (g : Die → Die) : (updDie s d g).switches = s.switches := rfl
@[simp] theorem updDie_wire (s : State) (d : Nat) (g : Die → Die) : (updDie s d g).wire = s.wire := rfl
@[simp] theorem updDie_mouts (s : State) (d : Nat) (g : Die → Die) : (updDie s d g).mouts = s.mouts := rfl
@[simp] theorem updDie_mtagNext (s : State) (d : Nat) (g : Die → Die) : (updDie s d g).mtagNext = s.mtagNext := rfl
@[simp] theorem updDie_pairs (s : State) (d : Nat) (g : Die → Die) : (updDie s d g).pairs = s.pairs := rfl
@[simp] theorem updDie_adjs (s : State) (d : Nat) (g : Die → Die) : (updDie s d g).adjs = s.adjs := rfl
@[simp] theorem updDie_holdMiB (s : State) (d : Nat) (g : Die → Die) : (updDie s d g).holdMiB = s.holdMiB := rfl
@[simp] theorem updDie_holds (s : State) (d : Nat) (g : Die → Die) : (updDie s d g).holds = s.holds := rfl
@[simp] theorem updDie_kernels (s : State) (d : Nat) (g : Die → Die) : (updDie s d g).kernels = s.kernels := rfl
@[simp] theorem updDie_kidNext (s : State) (d : Nat) (g : Die → Die) : (updDie s d g).kidNext = s.kidNext := rfl
@[simp] theorem updDie_reports (s : State) (d : Nat) (g : Die → Die) : (updDie s d g).reports = s.reports := rfl
@[simp] theorem updDie_acks (s : State) (d : Nat) (g : Die → Die) : (updDie s d g).acks = s.acks := rfl
@[simp] theorem updDie_gangs (s : State) (d : Nat) (g : Die → Die) : (updDie s d g).gangs = s.gangs := rfl
@[simp] theorem updDie_frecs (s : State) (d : Nat) (g : Die → Die) : (updDie s d g).frecs = s.frecs := rfl
@[simp] theorem updDie_ops (s : State) (d : Nat) (g : Die → Die) : (updDie s d g).ops = s.ops := rfl
@[simp] theorem updDie_opNext (s : State) (d : Nat) (g : Die → Die) : (updDie s d g).opNext = s.opNext := rfl
@[simp] theorem updDie_images (s : State) (d : Nat) (g : Die → Die) : (updDie s d g).images = s.images := rfl
@[simp] theorem updDie_subs (s : State) (d : Nat) (g : Die → Die) : (updDie s d g).subs = s.subs := rfl
@[simp] theorem updDie_incLag (s : State) (d : Nat) (g : Die → Die) : (updDie s d g).incLag = s.incLag := rfl
@[simp] theorem updDie_hostOut (s : State) (d : Nat) (g : Die → Die) : (updDie s d g).hostOut = s.hostOut := rfl
@[simp] theorem updDie_reportsOut (s : State) (d : Nat) (g : Die → Die) : (updDie s d g).reportsOut = s.reportsOut := rfl
@[simp] theorem updDie_domain (s : State) (d : Nat) (g : Die → Die) : (updDie s d g).domain = s.domain := rfl
@[simp] theorem updDie_cxl (s : State) (d : Nat) (g : Die → Die) : (updDie s d g).cxl = s.cxl := rfl
@[simp] theorem updDie_testper (s : State) (d : Nat) (g : Die → Die) : (updDie s d g).testper = s.testper := rfl
@[simp] theorem updDie_powerAt (s : State) (d : Nat) (g : Die → Die) : (updDie s d g).powerAt = s.powerAt := rfl
@[simp] theorem updDie_grants (s : State) (d : Nat) (g : Die → Die) : (updDie s d g).grants = s.grants := rfl
@[simp] theorem updDie_spans (s : State) (d : Nat) (g : Die → Die) : (updDie s d g).spans = s.spans := rfl
@[simp] theorem updDie_landNext (s : State) (d : Nat) (g : Die → Die) : (updDie s d g).landNext = s.landNext := rfl
@[simp] theorem updDie_lostEnds (s : State) (d : Nat) (g : Die → Die) : (updDie s d g).lostEnds = s.lostEnds := rfl
@[simp] theorem updDie_cxlPoison (s : State) (d : Nat) (g : Die → Die) : (updDie s d g).cxlPoison = s.cxlPoison := rfl
@[simp] theorem dieAt_setDie_same (s : State) (d : Nat) (x : Die) : dieAt (setDie s d x) d = x := by simp [dieAt, setDie]
theorem dieAt_setDie_other (s : State) (d e : Nat) (x : Die) (h : e % 2 ≠ d % 2) : dieAt (setDie s d x) e = dieAt s e := by
  have h' : d % 2 ≠ e % 2 := fun x => h x.symm
  simp [dieAt, setDie, h']
@[simp] theorem dieAt_updDie_same (s : State) (d : Nat) (g : Die → Die) : dieAt (updDie s d g) d = g (dieAt s d) := by simp [updDie]
@[simp] theorem coreOf_setDie (s : State) (d : Nat) (x : Die) (c : Nat) : coreOf (setDie s d x) c = coreOf s c := rfl
@[simp] theorem coreOf_updDie (s : State) (d : Nat) (g : Die → Die) (c : Nat) : coreOf (updDie s d g) c = coreOf s c := rfl
@[simp] theorem cc_updDie (s : State) (d : Nat) (g : Die → Die) : cc (updDie s d g) = cc s := rfl
@[simp] theorem dieAt_setCore (s : State) (c : Nat) (k : Core) (d : Nat) : dieAt (setCore s c k) d = dieAt s d := rfl
@[simp] theorem dieAt_setCC (s : State) (k : Core) (d : Nat) : dieAt (setCC s k) d = dieAt s d := rfl

/-! ### Scalar registers: x0 reads as 0 and keeps what it holds (12 R221) -/

@[simp] theorem rx_zero (k : Core) : rx k 0 = 0 := rfl
@[simp] theorem wx_zero (k : Core) (v : Word) : wx k 0 v = k := rfl
@[simp] theorem rx_wx_same (k : Core) (r : Reg) (v : Word) (h : r ≠ 0) : rx (wx k r v) r = v := by
  simp only [rx, wx, if_neg h, cleanReg, Vector.getElem_set_self]
theorem rx_wx_other (k : Core) (r q : Reg) (v : Word) (h : q ≠ r) : rx (wx k r v) q = rx k q := by
  by_cases hr : r = 0
  · subst hr; rfl
  · by_cases hq : q = 0
    · subst hq; rfl
    · have hn : r.toNat ≠ q.toNat := fun e => h (BitVec.eq_of_toNat_eq e.symm)
      simp only [rx, wx, if_neg hr, if_neg hq, cleanReg]
      exact Vector.getElem_set_ne _ _ hn
@[simp] theorem wx_v (k : Core) (r : Reg) (v : Word) : (wx k r v).v = k.v := by unfold wx; split <;> rfl
@[simp] theorem wx_k (k : Core) (r : Reg) (v : Word) : (wx k r v).k = k.k := by unfold wx; split <;> rfl
@[simp] theorem wx_z (k : Core) (r : Reg) (v : Word) : (wx k r v).z = k.z := by unfold wx; split <;> rfl
@[simp] theorem wx_q (k : Core) (r : Reg) (v : Word) : (wx k r v).q = k.q := by unfold wx; split <;> rfl
@[simp] theorem wx_sbind (k : Core) (r : Reg) (v : Word) : (wx k r v).sbind = k.sbind := by unfold wx; split <;> rfl
@[simp] theorem wx_vqbind (k : Core) (r : Reg) (v : Word) : (wx k r v).vqbind = k.vqbind := by unfold wx; split <;> rfl
@[simp] theorem wx_pc (k : Core) (r : Reg) (v : Word) : (wx k r v).pc = k.pc := by unfold wx; split <;> rfl
@[simp] theorem wx_loops (k : Core) (r : Reg) (v : Word) : (wx k r v).loops = k.loops := by unfold wx; split <;> rfl
@[simp] theorem wx_rmode (k : Core) (r : Reg) (v : Word) : (wx k r v).rmode = k.rmode := by unfold wx; split <;> rfl
@[simp] theorem wx_fmta (k : Core) (r : Reg) (v : Word) : (wx k r v).fmta = k.fmta := by unfold wx; split <;> rfl
@[simp] theorem wx_fmtb (k : Core) (r : Reg) (v : Word) : (wx k r v).fmtb = k.fmtb := by unfold wx; split <;> rfl
@[simp] theorem wx_fmtc (k : Core) (r : Reg) (v : Word) : (wx k r v).fmtc = k.fmtc := by unfold wx; split <;> rfl
@[simp] theorem wx_fmts (k : Core) (r : Reg) (v : Word) : (wx k r v).fmts = k.fmts := by unfold wx; split <;> rfl
@[simp] theorem wx_restart (k : Core) (r : Reg) (v : Word) : (wx k r v).restart = k.restart := by unfold wx; split <;> rfl
@[simp] theorem wx_trapped (k : Core) (r : Reg) (v : Word) : (wx k r v).trapped = k.trapped := by unfold wx; split <;> rfl
@[simp] theorem wx_inh (k : Core) (r : Reg) (v : Word) : (wx k r v).inh = k.inh := by unfold wx; split <;> rfl
@[simp] theorem wx_pair (k : Core) (r : Reg) (v : Word) : (wx k r v).pair = k.pair := by unfold wx; split <;> rfl
@[simp] theorem wx_pend (k : Core) (r : Reg) (v : Word) : (wx k r v).pend = k.pend := by unfold wx; split <;> rfl
@[simp] theorem wx_clrby (k : Core) (r : Reg) (v : Word) : (wx k r v).clrby = k.clrby := by unfold wx; split <;> rfl
@[simp] theorem wx_aborts (k : Core) (r : Reg) (v : Word) : (wx k r v).aborts = k.aborts := by unfold wx; split <;> rfl
@[simp] theorem wx_wdog (k : Core) (r : Reg) (v : Word) : (wx k r v).wdog = k.wdog := by unfold wx; split <;> rfl
@[simp] theorem wx_hold (k : Core) (r : Reg) (v : Word) : (wx k r v).hold = k.hold := by unfold wx; split <;> rfl
@[simp] theorem wx_trapcause (k : Core) (r : Reg) (v : Word) : (wx k r v).trapcause = k.trapcause := by unfold wx; split <;> rfl
@[simp] theorem wx_trappc (k : Core) (r : Reg) (v : Word) : (wx k r v).trappc = k.trappc := by unfold wx; split <;> rfl
@[simp] theorem wx_trapaddr (k : Core) (r : Reg) (v : Word) : (wx k r v).trapaddr = k.trapaddr := by unfold wx; split <;> rfl
@[simp] theorem wx_pendx (k : Core) (r : Reg) (v : Word) : (wx k r v).pendx = k.pendx := by unfold wx; split <;> rfl
@[simp] theorem wx_owed (k : Core) (r : Reg) (v : Word) : (wx k r v).owed = k.owed := by unfold wx; split <;> rfl
@[simp] theorem wx_sb (k : Core) (r : Reg) (v : Word) : (wx k r v).sb = k.sb := by unfold wx; split <;> rfl
@[simp] theorem wx_flush (k : Core) (r : Reg) (v : Word) : (wx k r v).flush = k.flush := by unfold wx; split <;> rfl
@[simp] theorem wx_rptWait (k : Core) (r : Reg) (v : Word) : (wx k r v).rptWait = k.rptWait := by unfold wx; split <;> rfl
@[simp] theorem wx_exited (k : Core) (r : Reg) (v : Word) : (wx k r v).exited = k.exited := by unfold wx; split <;> rfl
@[simp] theorem wx_out (k : Core) (r : Reg) (v : Word) : (wx k r v).out = k.out := by unfold wx; split <;> rfl
@[simp] theorem wx_unack (k : Core) (r : Reg) (v : Word) : (wx k r v).unack = k.unack := by unfold wx; split <;> rfl
@[simp] theorem wx_wait (k : Core) (r : Reg) (v : Word) : (wx k r v).wait = k.wait := by unfold wx; split <;> rfl
@[simp] theorem wx_scan (k : Core) (r : Reg) (v : Word) : (wx k r v).scan = k.scan := by unfold wx; split <;> rfl
@[simp] theorem wx_tok (k : Core) (r : Reg) (v : Word) : (wx k r v).tok = k.tok := by unfold wx; split <;> rfl
@[simp] theorem wx_fifo (k : Core) (r : Reg) (v : Word) : (wx k r v).fifo = k.fifo := by unfold wx; split <;> rfl
@[simp] theorem wx_run (k : Core) (r : Reg) (v : Word) : (wx k r v).run = k.run := by unfold wx; split <;> rfl
@[simp] theorem wx_act (k : Core) (r : Reg) (v : Word) : (wx k r v).act = k.act := by unfold wx; split <;> rfl
@[simp] theorem wx_ends (k : Core) (r : Reg) (v : Word) : (wx k r v).ends = k.ends := by unfold wx; split <;> rfl
@[simp] theorem wx_rcache (k : Core) (r : Reg) (v : Word) : (wx k r v).rcache = k.rcache := by unfold wx; split <;> rfl
@[simp] theorem wx_transit (k : Core) (r : Reg) (v : Word) : (wx k r v).transit = k.transit := by unfold wx; split <;> rfl
@[simp] theorem wx_invq (k : Core) (r : Reg) (v : Word) : (wx k r v).invq = k.invq := by unfold wx; split <;> rfl
@[simp] theorem wx_cancel (k : Core) (r : Reg) (v : Word) : (wx k r v).cancel = k.cancel := by unfold wx; split <;> rfl
@[simp] theorem wx_stale (k : Core) (r : Reg) (v : Word) : (wx k r v).stale = k.stale := by unfold wx; split <;> rfl
@[simp] theorem wx_strmdrop (k : Core) (r : Reg) (v : Word) : (wx k r v).strmdrop = k.strmdrop := by unfold wx; split <;> rfl
@[simp] theorem wx_sealed_ (k : Core) (r : Reg) (v : Word) : (wx k r v).sealed_ = k.sealed_ := by unfold wx; split <;> rfl
@[simp] theorem wx_stopped (k : Core) (r : Reg) (v : Word) : (wx k r v).stopped = k.stopped := by unfold wx; split <;> rfl
@[simp] theorem wx_lm (k : Core) (r : Reg) (v : Word) : (wx k r v).lm = k.lm := by unfold wx; split <;> rfl
@[simp] theorem wx_fe (k : Core) (r : Reg) (v : Word) : (wx k r v).fe = k.fe := by unfold wx; split <;> rfl
@[simp] theorem wx_poison (k : Core) (r : Reg) (v : Word) : (wx k r v).poison = k.poison := by unfold wx; split <;> rfl
@[simp] theorem wx_slots (k : Core) (r : Reg) (v : Word) : (wx k r v).slots = k.slots := by unfold wx; split <;> rfl
@[simp] theorem wx_loop (k : Core) (r : Reg) (v : Word) : (wx k r v).loop = k.loop := by unfold wx; split <;> rfl
@[simp] theorem wx_gangRec (k : Core) (r : Reg) (v : Word) : (wx k r v).gangRec = k.gangRec := by unfold wx; split <;> rfl
@[simp] theorem wx_crewRec (k : Core) (r : Reg) (v : Word) : (wx k r v).crewRec = k.crewRec := by unfold wx; split <;> rfl
@[simp] theorem wx_gates (k : Core) (r : Reg) (v : Word) : (wx k r v).gates = k.gates := by unfold wx; split <;> rfl
@[simp] theorem wx_storedTo (k : Core) (r : Reg) (v : Word) : (wx k r v).storedTo = k.storedTo := by unfold wx; split <;> rfl
@[simp] theorem wx_succ (k : Core) (r : Reg) (v : Word) : (wx k r v).succ = k.succ := by unfold wx; split <;> rfl
@[simp] theorem wx_settings (k : Core) (r : Reg) (v : Word) : (wx k r v).settings = k.settings := by unfold wx; split <;> rfl
@[simp] theorem wx_twin (k : Core) (r : Reg) (v : Word) : (wx k r v).twin = k.twin := by unfold wx; split <;> rfl
@[simp] theorem wx_folded (k : Core) (r : Reg) (v : Word) : (wx k r v).folded = k.folded := by unfold wx; split <;> rfl
@[simp] theorem wx_cmpAt (k : Core) (r : Reg) (v : Word) : (wx k r v).cmpAt = k.cmpAt := by unfold wx; split <;> rfl
@[simp] theorem wx_badQ (k : Core) (r : Reg) (v : Word) : (wx k r v).badQ = k.badQ := by unfold wx; split <;> rfl
@[simp] theorem wx_vgot (k : Core) (r : Reg) (v : Word) : (wx k r v).vgot = k.vgot := by unfold wx; split <;> rfl
@[simp] theorem wx_vpos (k : Core) (r : Reg) (v : Word) : (wx k r v).vpos = k.vpos := by unfold wx; split <;> rfl
@[simp] theorem wx_rptId (k : Core) (r : Reg) (v : Word) : (wx k r v).rptId = k.rptId := by unfold wx; split <;> rfl
@[simp] theorem wx_spawnSent (k : Core) (r : Reg) (v : Word) : (wx k r v).spawnSent = k.spawnSent := by unfold wx; split <;> rfl
@[simp] theorem wx_grant (k : Core) (r : Reg) (v : Word) : (wx k r v).grant = k.grant := by unfold wx; split <;> rfl
@[simp] theorem wx_blocked (k : Core) (r : Reg) (v : Word) : (wx k r v).blocked = k.blocked := by unfold wx; split <;> rfl

/-! ### The program counter (14 R270) -/

@[simp] theorem passTo_x (k : Core) (p : Word) : (passTo k p).x = k.x := by unfold passTo; split <;> rfl
@[simp] theorem passTo_v (k : Core) (p : Word) : (passTo k p).v = k.v := by unfold passTo; split <;> rfl
@[simp] theorem passTo_k (k : Core) (p : Word) : (passTo k p).k = k.k := by unfold passTo; split <;> rfl
@[simp] theorem passTo_z (k : Core) (p : Word) : (passTo k p).z = k.z := by unfold passTo; split <;> rfl
@[simp] theorem passTo_q (k : Core) (p : Word) : (passTo k p).q = k.q := by unfold passTo; split <;> rfl
@[simp] theorem passTo_sbind (k : Core) (p : Word) : (passTo k p).sbind = k.sbind := by unfold passTo; split <;> rfl
@[simp] theorem passTo_vqbind (k : Core) (p : Word) : (passTo k p).vqbind = k.vqbind := by unfold passTo; split <;> rfl
@[simp] theorem passTo_rmode (k : Core) (p : Word) : (passTo k p).rmode = k.rmode := by unfold passTo; split <;> rfl
@[simp] theorem passTo_fmta (k : Core) (p : Word) : (passTo k p).fmta = k.fmta := by unfold passTo; split <;> rfl
@[simp] theorem passTo_fmtb (k : Core) (p : Word) : (passTo k p).fmtb = k.fmtb := by unfold passTo; split <;> rfl
@[simp] theorem passTo_fmtc (k : Core) (p : Word) : (passTo k p).fmtc = k.fmtc := by unfold passTo; split <;> rfl
@[simp] theorem passTo_fmts (k : Core) (p : Word) : (passTo k p).fmts = k.fmts := by unfold passTo; split <;> rfl
@[simp] theorem passTo_restart (k : Core) (p : Word) : (passTo k p).restart = k.restart := by unfold passTo; split <;> rfl
@[simp] theorem passTo_trapped (k : Core) (p : Word) : (passTo k p).trapped = k.trapped := by unfold passTo; split <;> rfl
@[simp] theorem passTo_inh (k : Core) (p : Word) : (passTo k p).inh = k.inh := by unfold passTo; split <;> rfl
@[simp] theorem passTo_pair (k : Core) (p : Word) : (passTo k p).pair = k.pair := by unfold passTo; split <;> rfl
@[simp] theorem passTo_pend (k : Core) (p : Word) : (passTo k p).pend = k.pend := by unfold passTo; split <;> rfl
@[simp] theorem passTo_clrby (k : Core) (p : Word) : (passTo k p).clrby = k.clrby := by unfold passTo; split <;> rfl
@[simp] theorem passTo_aborts (k : Core) (p : Word) : (passTo k p).aborts = k.aborts := by unfold passTo; split <;> rfl
@[simp] theorem passTo_wdog (k : Core) (p : Word) : (passTo k p).wdog = k.wdog := by unfold passTo; split <;> rfl
@[simp] theorem passTo_hold (k : Core) (p : Word) : (passTo k p).hold = k.hold := by unfold passTo; split <;> rfl
@[simp] theorem passTo_trapcause (k : Core) (p : Word) : (passTo k p).trapcause = k.trapcause := by unfold passTo; split <;> rfl
@[simp] theorem passTo_trappc (k : Core) (p : Word) : (passTo k p).trappc = k.trappc := by unfold passTo; split <;> rfl
@[simp] theorem passTo_trapaddr (k : Core) (p : Word) : (passTo k p).trapaddr = k.trapaddr := by unfold passTo; split <;> rfl
@[simp] theorem passTo_pendx (k : Core) (p : Word) : (passTo k p).pendx = k.pendx := by unfold passTo; split <;> rfl
@[simp] theorem passTo_owed (k : Core) (p : Word) : (passTo k p).owed = k.owed := by unfold passTo; split <;> rfl
@[simp] theorem passTo_sb (k : Core) (p : Word) : (passTo k p).sb = k.sb := by unfold passTo; split <;> rfl
@[simp] theorem passTo_flush (k : Core) (p : Word) : (passTo k p).flush = k.flush := by unfold passTo; split <;> rfl
@[simp] theorem passTo_rptWait (k : Core) (p : Word) : (passTo k p).rptWait = k.rptWait := by unfold passTo; split <;> rfl
@[simp] theorem passTo_exited (k : Core) (p : Word) : (passTo k p).exited = k.exited := by unfold passTo; split <;> rfl
@[simp] theorem passTo_out (k : Core) (p : Word) : (passTo k p).out = k.out := by unfold passTo; split <;> rfl
@[simp] theorem passTo_unack (k : Core) (p : Word) : (passTo k p).unack = k.unack := by unfold passTo; split <;> rfl
@[simp] theorem passTo_wait (k : Core) (p : Word) : (passTo k p).wait = k.wait := by unfold passTo; split <;> rfl
@[simp] theorem passTo_scan (k : Core) (p : Word) : (passTo k p).scan = k.scan := by unfold passTo; split <;> rfl
@[simp] theorem passTo_tok (k : Core) (p : Word) : (passTo k p).tok = k.tok := by unfold passTo; split <;> rfl
@[simp] theorem passTo_fifo (k : Core) (p : Word) : (passTo k p).fifo = k.fifo := by unfold passTo; split <;> rfl
@[simp] theorem passTo_run (k : Core) (p : Word) : (passTo k p).run = k.run := by unfold passTo; split <;> rfl
@[simp] theorem passTo_act (k : Core) (p : Word) : (passTo k p).act = k.act := by unfold passTo; split <;> rfl
@[simp] theorem passTo_ends (k : Core) (p : Word) : (passTo k p).ends = k.ends := by unfold passTo; split <;> rfl
@[simp] theorem passTo_rcache (k : Core) (p : Word) : (passTo k p).rcache = k.rcache := by unfold passTo; split <;> rfl
@[simp] theorem passTo_transit (k : Core) (p : Word) : (passTo k p).transit = k.transit := by unfold passTo; split <;> rfl
@[simp] theorem passTo_invq (k : Core) (p : Word) : (passTo k p).invq = k.invq := by unfold passTo; split <;> rfl
@[simp] theorem passTo_cancel (k : Core) (p : Word) : (passTo k p).cancel = k.cancel := by unfold passTo; split <;> rfl
@[simp] theorem passTo_stale (k : Core) (p : Word) : (passTo k p).stale = k.stale := by unfold passTo; split <;> rfl
@[simp] theorem passTo_strmdrop (k : Core) (p : Word) : (passTo k p).strmdrop = k.strmdrop := by unfold passTo; split <;> rfl
@[simp] theorem passTo_sealed_ (k : Core) (p : Word) : (passTo k p).sealed_ = k.sealed_ := by unfold passTo; split <;> rfl
@[simp] theorem passTo_stopped (k : Core) (p : Word) : (passTo k p).stopped = k.stopped := by unfold passTo; split <;> rfl
@[simp] theorem passTo_lm (k : Core) (p : Word) : (passTo k p).lm = k.lm := by unfold passTo; split <;> rfl
@[simp] theorem passTo_fe (k : Core) (p : Word) : (passTo k p).fe = k.fe := by unfold passTo; split <;> rfl
@[simp] theorem passTo_poison (k : Core) (p : Word) : (passTo k p).poison = k.poison := by unfold passTo; split <;> rfl
@[simp] theorem passTo_slots (k : Core) (p : Word) : (passTo k p).slots = k.slots := by unfold passTo; split <;> rfl
@[simp] theorem passTo_loop (k : Core) (p : Word) : (passTo k p).loop = k.loop := by unfold passTo; split <;> rfl
@[simp] theorem passTo_gangRec (k : Core) (p : Word) : (passTo k p).gangRec = k.gangRec := by unfold passTo; split <;> rfl
@[simp] theorem passTo_crewRec (k : Core) (p : Word) : (passTo k p).crewRec = k.crewRec := by unfold passTo; split <;> rfl
@[simp] theorem passTo_gates (k : Core) (p : Word) : (passTo k p).gates = k.gates := by unfold passTo; split <;> rfl
@[simp] theorem passTo_storedTo (k : Core) (p : Word) : (passTo k p).storedTo = k.storedTo := by unfold passTo; split <;> rfl
@[simp] theorem passTo_succ (k : Core) (p : Word) : (passTo k p).succ = k.succ := by unfold passTo; split <;> rfl
@[simp] theorem passTo_settings (k : Core) (p : Word) : (passTo k p).settings = k.settings := by unfold passTo; split <;> rfl
@[simp] theorem passTo_twin (k : Core) (p : Word) : (passTo k p).twin = k.twin := by unfold passTo; split <;> rfl
@[simp] theorem passTo_folded (k : Core) (p : Word) : (passTo k p).folded = k.folded := by unfold passTo; split <;> rfl
@[simp] theorem passTo_cmpAt (k : Core) (p : Word) : (passTo k p).cmpAt = k.cmpAt := by unfold passTo; split <;> rfl
@[simp] theorem passTo_badRegs (k : Core) (p : Word) : (passTo k p).badRegs = k.badRegs := by unfold passTo; split <;> rfl
@[simp] theorem passTo_badQ (k : Core) (p : Word) : (passTo k p).badQ = k.badQ := by unfold passTo; split <;> rfl
@[simp] theorem passTo_vgot (k : Core) (p : Word) : (passTo k p).vgot = k.vgot := by unfold passTo; split <;> rfl
@[simp] theorem passTo_vpos (k : Core) (p : Word) : (passTo k p).vpos = k.vpos := by unfold passTo; split <;> rfl
@[simp] theorem passTo_rptId (k : Core) (p : Word) : (passTo k p).rptId = k.rptId := by unfold passTo; split <;> rfl
@[simp] theorem passTo_spawnSent (k : Core) (p : Word) : (passTo k p).spawnSent = k.spawnSent := by unfold passTo; split <;> rfl
@[simp] theorem passTo_grant (k : Core) (p : Word) : (passTo k p).grant = k.grant := by unfold passTo; split <;> rfl
@[simp] theorem passTo_blocked (k : Core) (p : Word) : (passTo k p).blocked = k.blocked := by unfold passTo; split <;> rfl
@[simp] theorem advance_x (k : Core) : (advance k).x = k.x := passTo_x _ _
@[simp] theorem advance_v (k : Core) : (advance k).v = k.v := passTo_v _ _
@[simp] theorem advance_k (k : Core) : (advance k).k = k.k := passTo_k _ _
@[simp] theorem advance_z (k : Core) : (advance k).z = k.z := passTo_z _ _
@[simp] theorem advance_q (k : Core) : (advance k).q = k.q := passTo_q _ _
@[simp] theorem advance_sbind (k : Core) : (advance k).sbind = k.sbind := passTo_sbind _ _
@[simp] theorem advance_vqbind (k : Core) : (advance k).vqbind = k.vqbind := passTo_vqbind _ _
@[simp] theorem advance_rmode (k : Core) : (advance k).rmode = k.rmode := passTo_rmode _ _
@[simp] theorem advance_fmta (k : Core) : (advance k).fmta = k.fmta := passTo_fmta _ _
@[simp] theorem advance_fmtb (k : Core) : (advance k).fmtb = k.fmtb := passTo_fmtb _ _
@[simp] theorem advance_fmtc (k : Core) : (advance k).fmtc = k.fmtc := passTo_fmtc _ _
@[simp] theorem advance_fmts (k : Core) : (advance k).fmts = k.fmts := passTo_fmts _ _
@[simp] theorem advance_restart (k : Core) : (advance k).restart = k.restart := passTo_restart _ _
@[simp] theorem advance_trapped (k : Core) : (advance k).trapped = k.trapped := passTo_trapped _ _
@[simp] theorem advance_inh (k : Core) : (advance k).inh = k.inh := passTo_inh _ _
@[simp] theorem advance_pair (k : Core) : (advance k).pair = k.pair := passTo_pair _ _
@[simp] theorem advance_pend (k : Core) : (advance k).pend = k.pend := passTo_pend _ _
@[simp] theorem advance_clrby (k : Core) : (advance k).clrby = k.clrby := passTo_clrby _ _
@[simp] theorem advance_aborts (k : Core) : (advance k).aborts = k.aborts := passTo_aborts _ _
@[simp] theorem advance_wdog (k : Core) : (advance k).wdog = k.wdog := passTo_wdog _ _
@[simp] theorem advance_hold (k : Core) : (advance k).hold = k.hold := passTo_hold _ _
@[simp] theorem advance_trapcause (k : Core) : (advance k).trapcause = k.trapcause := passTo_trapcause _ _
@[simp] theorem advance_trappc (k : Core) : (advance k).trappc = k.trappc := passTo_trappc _ _
@[simp] theorem advance_trapaddr (k : Core) : (advance k).trapaddr = k.trapaddr := passTo_trapaddr _ _
@[simp] theorem advance_pendx (k : Core) : (advance k).pendx = k.pendx := passTo_pendx _ _
@[simp] theorem advance_owed (k : Core) : (advance k).owed = k.owed := passTo_owed _ _
@[simp] theorem advance_sb (k : Core) : (advance k).sb = k.sb := passTo_sb _ _
@[simp] theorem advance_flush (k : Core) : (advance k).flush = k.flush := passTo_flush _ _
@[simp] theorem advance_rptWait (k : Core) : (advance k).rptWait = k.rptWait := passTo_rptWait _ _
@[simp] theorem advance_exited (k : Core) : (advance k).exited = k.exited := passTo_exited _ _
@[simp] theorem advance_out (k : Core) : (advance k).out = k.out := passTo_out _ _
@[simp] theorem advance_unack (k : Core) : (advance k).unack = k.unack := passTo_unack _ _
@[simp] theorem advance_wait (k : Core) : (advance k).wait = k.wait := passTo_wait _ _
@[simp] theorem advance_scan (k : Core) : (advance k).scan = k.scan := passTo_scan _ _
@[simp] theorem advance_tok (k : Core) : (advance k).tok = k.tok := passTo_tok _ _
@[simp] theorem advance_fifo (k : Core) : (advance k).fifo = k.fifo := passTo_fifo _ _
@[simp] theorem advance_run (k : Core) : (advance k).run = k.run := passTo_run _ _
@[simp] theorem advance_act (k : Core) : (advance k).act = k.act := passTo_act _ _
@[simp] theorem advance_ends (k : Core) : (advance k).ends = k.ends := passTo_ends _ _
@[simp] theorem advance_rcache (k : Core) : (advance k).rcache = k.rcache := passTo_rcache _ _
@[simp] theorem advance_transit (k : Core) : (advance k).transit = k.transit := passTo_transit _ _
@[simp] theorem advance_invq (k : Core) : (advance k).invq = k.invq := passTo_invq _ _
@[simp] theorem advance_cancel (k : Core) : (advance k).cancel = k.cancel := passTo_cancel _ _
@[simp] theorem advance_stale (k : Core) : (advance k).stale = k.stale := passTo_stale _ _
@[simp] theorem advance_strmdrop (k : Core) : (advance k).strmdrop = k.strmdrop := passTo_strmdrop _ _
@[simp] theorem advance_sealed_ (k : Core) : (advance k).sealed_ = k.sealed_ := passTo_sealed_ _ _
@[simp] theorem advance_stopped (k : Core) : (advance k).stopped = k.stopped := passTo_stopped _ _
@[simp] theorem advance_lm (k : Core) : (advance k).lm = k.lm := passTo_lm _ _
@[simp] theorem advance_fe (k : Core) : (advance k).fe = k.fe := passTo_fe _ _
@[simp] theorem advance_poison (k : Core) : (advance k).poison = k.poison := passTo_poison _ _
@[simp] theorem advance_slots (k : Core) : (advance k).slots = k.slots := passTo_slots _ _
@[simp] theorem advance_loop (k : Core) : (advance k).loop = k.loop := passTo_loop _ _
@[simp] theorem advance_gangRec (k : Core) : (advance k).gangRec = k.gangRec := passTo_gangRec _ _
@[simp] theorem advance_crewRec (k : Core) : (advance k).crewRec = k.crewRec := passTo_crewRec _ _
@[simp] theorem advance_gates (k : Core) : (advance k).gates = k.gates := passTo_gates _ _
@[simp] theorem advance_storedTo (k : Core) : (advance k).storedTo = k.storedTo := passTo_storedTo _ _
@[simp] theorem advance_succ (k : Core) : (advance k).succ = k.succ := passTo_succ _ _
@[simp] theorem advance_settings (k : Core) : (advance k).settings = k.settings := passTo_settings _ _
@[simp] theorem advance_twin (k : Core) : (advance k).twin = k.twin := passTo_twin _ _
@[simp] theorem advance_folded (k : Core) : (advance k).folded = k.folded := passTo_folded _ _
@[simp] theorem advance_cmpAt (k : Core) : (advance k).cmpAt = k.cmpAt := passTo_cmpAt _ _
@[simp] theorem advance_badRegs (k : Core) : (advance k).badRegs = k.badRegs := passTo_badRegs _ _
@[simp] theorem advance_badQ (k : Core) : (advance k).badQ = k.badQ := passTo_badQ _ _
@[simp] theorem advance_rptId (k : Core) : (advance k).rptId = k.rptId := passTo_rptId _ _
@[simp] theorem advance_spawnSent (k : Core) : (advance k).spawnSent = k.spawnSent := passTo_spawnSent _ _
@[simp] theorem advance_grant (k : Core) : (advance k).grant = k.grant := passTo_grant _ _
@[simp] theorem advance_blocked (k : Core) : (advance k).blocked = k.blocked := passTo_blocked _ _
@[simp] theorem advance_vgot (k : Core) : (advance k).vgot = [] := passTo_vgot _ _
@[simp] theorem advance_vpos (k : Core) : (advance k).vpos = 0 := passTo_vpos _ _
@[simp] theorem rx_passTo (k : Core) (p : Word) (r : Reg) : rx (passTo k p) r = rx k r := by simp [rx]
@[simp] theorem rx_advance (k : Core) (r : Reg) : rx (advance k) r = rx k r := by simp [rx]

/-! ### One instruction completed -/

@[simp] theorem cc_done (s : State) (f : Core → Core) : cc (done s f) = advance (f (cc s)) := by simp [done]
theorem coreOf_done_other (s : State) (f : Core → Core) (c : Nat) (h : c ≠ s.cur) : coreOf (done s f) c = coreOf s c := by
  simp [done, coreOf_setCC_other s c _ h]

@[simp] theorem done_now (s : State) (g : Core → Core) : (done s g).now = s.now := rfl
@[simp] theorem done_agenda (s : State) (g : Core → Core) : (done s g).agenda = s.agenda := rfl
@[simp] theorem done_cur (s : State) (g : Core → Core) : (done s g).cur = s.cur := rfl
@[simp] theorem done_free (s : State) (g : Core → Core) : (done s g).free = s.free := rfl
@[simp] theorem done_chip (s : State) (g : Core → Core) : (done s g).chip = s.chip := rfl
@[simp] theorem done_boot (s : State) (g : Core → Core) : (done s g).boot = s.boot := rfl
@[simp] theorem done_flash (s : State) (g : Core → Core) : (done s g).flash = s.flash := rfl
@[simp] theorem done_ctxs (s : State) (g : Core → Core) : (done s g).ctxs = s.ctxs := rfl
@[simp] theorem done_ranks (s : State) (g : Core → Core) : (done s g).ranks = s.ranks := rfl
@[simp] theorem done_parts (s : State) (g : Core → Core) : (done s g).parts = s.parts := rfl
@[simp] theorem done_retired (s : State) (g : Core → Core) : (done s g).retired = s.retired := rfl
@[simp] theorem done_mem (s : State) (g : Core → Core) : (done s g).mem = s.mem := rfl
@[simp] theorem done_memPoison (s : State) (g : Core → Core) : (done s g).memPoison = s.memPoison := rfl
@[simp] theorem done_lines (s : State) (g : Core → Core) : (done s g).lines = s.lines := rfl
@[simp] theorem done_monitors (s : State) (g : Core → Core) : (done s g).monitors = s.monitors := rfl
@[simp] theorem done_chans (s : State) (g : Core → Core) : (done s g).chans = s.chans := rfl
@[simp] theorem done_dies (s : State) (g : Core → Core) : (done s g).dies = s.dies := rfl
@[simp] theorem done_ports (s : State) (g : Core → Core) : (done s g).ports = s.ports := rfl
@[simp] theorem done_e2e (s : State) (g : Core → Core) : (done s g).e2e = s.e2e := rfl
@[simp] theorem done_counted (s : State) (g : Core → Core) : (done s g).counted = s.counted := rfl
@[simp] theorem done_egress (s : State) (g : Core → Core) : (done s g).egress = s.egress := rfl
@[simp] theorem done_switches (s : State) (g : Core → Core) : (done s g).switches = s.switches := rfl
@[simp] theorem done_wire (s : State) (g : Core → Core) : (done s g).wire = s.wire := rfl
@[simp] theorem done_mouts (s : State) (g : Core → Core) : (done s g).mouts = s.mouts := rfl
@[simp] theorem done_mtagNext (s : State) (g : Core → Core) : (done s g).mtagNext = s.mtagNext := rfl
@[simp] theorem done_pairs (s : State) (g : Core → Core) : (done s g).pairs = s.pairs := rfl
@[simp] theorem done_adjs (s : State) (g : Core → Core) : (done s g).adjs = s.adjs := rfl
@[simp] theorem done_holdMiB (s : State) (g : Core → Core) : (done s g).holdMiB = s.holdMiB := rfl
@[simp] theorem done_holds (s : State) (g : Core → Core) : (done s g).holds = s.holds := rfl
@[simp] theorem done_kernels (s : State) (g : Core → Core) : (done s g).kernels = s.kernels := rfl
@[simp] theorem done_kidNext (s : State) (g : Core → Core) : (done s g).kidNext = s.kidNext := rfl
@[simp] theorem done_reports (s : State) (g : Core → Core) : (done s g).reports = s.reports := rfl
@[simp] theorem done_acks (s : State) (g : Core → Core) : (done s g).acks = s.acks := rfl
@[simp] theorem done_gangs (s : State) (g : Core → Core) : (done s g).gangs = s.gangs := rfl
@[simp] theorem done_frecs (s : State) (g : Core → Core) : (done s g).frecs = s.frecs := rfl
@[simp] theorem done_ops (s : State) (g : Core → Core) : (done s g).ops = s.ops := rfl
@[simp] theorem done_opNext (s : State) (g : Core → Core) : (done s g).opNext = s.opNext := rfl
@[simp] theorem done_images (s : State) (g : Core → Core) : (done s g).images = s.images := rfl
@[simp] theorem done_subs (s : State) (g : Core → Core) : (done s g).subs = s.subs := rfl
@[simp] theorem done_incLag (s : State) (g : Core → Core) : (done s g).incLag = s.incLag := rfl
@[simp] theorem done_hostOut (s : State) (g : Core → Core) : (done s g).hostOut = s.hostOut := rfl
@[simp] theorem done_reportsOut (s : State) (g : Core → Core) : (done s g).reportsOut = s.reportsOut := rfl
@[simp] theorem done_domain (s : State) (g : Core → Core) : (done s g).domain = s.domain := rfl
@[simp] theorem done_cxl (s : State) (g : Core → Core) : (done s g).cxl = s.cxl := rfl
@[simp] theorem done_testper (s : State) (g : Core → Core) : (done s g).testper = s.testper := rfl
@[simp] theorem done_powerAt (s : State) (g : Core → Core) : (done s g).powerAt = s.powerAt := rfl
@[simp] theorem done_grants (s : State) (g : Core → Core) : (done s g).grants = s.grants := rfl
@[simp] theorem done_spans (s : State) (g : Core → Core) : (done s g).spans = s.spans := rfl
@[simp] theorem done_landNext (s : State) (g : Core → Core) : (done s g).landNext = s.landNext := rfl
@[simp] theorem done_lostEnds (s : State) (g : Core → Core) : (done s g).lostEnds = s.lostEnds := rfl
@[simp] theorem done_cxlPoison (s : State) (g : Core → Core) : (done s g).cxlPoison = s.cxlPoison := rfl

end Sys2Proof.Machine
end

