-- ==== Sys2Proof/Laws/Ops.lean ====
section
/-! SUPPORT. What the shared operations do, each said once, for the proofs to cite in place of the definitions. -/

namespace Sys2Proof.Machine

/-! ### The PC -/

/-- With no level at the top of the loop stack that ends at p, the PC is p + 4. -/
theorem passTo_plain (k : Core) (p : Word) (h : k.trapped = true ∨ ∀ l ∈ k.loops.head?, l.stop ≠ p) : passTo k p = { k with pc := p + 4 } := by
  unfold passTo
  split
  · rfl
  · rcases h with h | h
    · simp_all
    · cases hl : k.loops with
      | nil => simp [endCheck, ← hl]
      | cons l ls =>
        have hne : l.stop ≠ p := h l (by simp [hl])
        simp [endCheck, hne, ← hl]

/-- A write to a register other than x0: its value, and its poison gone. -/
theorem wx_of_ne (k : Core) (r : Reg) (v : Word) (h : r ≠ 0) :
    wx k r v = cleanReg { k with x := k.x.set r.toNat v (by have := r.isLt; omega) } r.toNat := if_neg h

/-- A write to x[rd] changes nothing of where the PC goes next. -/
theorem advance_wx (k : Core) (r : Reg) (v : Word) : advance (wx k r v) = wx (advance k) r v := by
  by_cases h : r = 0
  · subst h; rfl
  · rw [wx_of_ne _ _ _ h, wx_of_ne _ _ _ h]
    unfold advance passTo cleanReg
    dsimp only
    by_cases ht : k.trapped = true
    · rw [if_pos ht]; simp only [ht, if_true]
    · rw [if_neg ht]; simp only [ht, if_false, Bool.false_eq_true]

/-- x[rd] written and the PC advanced: everything that it does. -/
theorem writeX_spec (s : State) (rd : Reg) (v : Word) :
    writeX s rd v = .next (setCC s (wx (advance (cc s)) rd v)) := by
  simp [writeX, done, advance_wx]

/-- What is left of the loop stack after a transfer is its outer end. -/
theorem popLoops_suffix (t : Word) : ∀ ls : List LoopLvl, popLoops t ls <:+ ls
  | [] => by simp [popLoops]
  | l :: ls => by
    have h := popLoops_suffix t ls
    unfold popLoops
    dsimp only
    split
    · exact h.trans (List.suffix_cons l ls)
    · split
      · exact List.suffix_refl _
      · exact List.suffix_cons l ls

/-! ### Control transfers -/

/-- A transfer to a word of LM, without a link register. -/
theorem transfer_taken (s : State) (t : Int) (h : t % 4 = 0 ∧ 0 ≤ t ∧ t ≤ 0x7FFFF) :
    transfer s none t = .next (setCC s { cc s with pc := wdI t, loops := if (cc s).trapped then (cc s).loops else popLoops (wdI t) (cc s).loops }) := by
  unfold transfer
  rw [if_neg (by omega)]

/-- A transfer to a word of LM, with the link register r. -/
theorem transfer_linked (s : State) (r : Reg) (t : Int) (h : t % 4 = 0 ∧ 0 ≤ t ∧ t ≤ 0x7FFFF) :
    transfer s (some r) t = .next (setCC s { wx (cc s) r ((cc s).pc + 4) with
      pc := wdI t, loops := if (cc s).trapped then (cc s).loops else popLoops (wdI t) (cc s).loops }) := by
  unfold transfer
  rw [if_neg (by omega)]
  simp

/-- A transfer elsewhere takes XONLY and writes neither link nor PC. -/
theorem transfer_refused (s : State) (l : Option Reg) (t : Int) (h : ¬ (t % 4 = 0 ∧ 0 ≤ t ∧ t ≤ 0x7FFFF)) :
    transfer s l t = .next (takeTrap s s.cur 0x21 (some (wdI t))) := by
  unfold transfer trap
  rw [if_pos (by omega)]

/-! ### Traps -/

/-- A resuming trap enters the handler. -/
theorem takeTrap_enter (s : State) (c cause : Nat) (addr : Option Word) (hr : resuming cause = true) (ht : (coreOf s c).trapped = false)
    (hv : bit (slotOf (coreOf s c) (curSlot (coreOf s c))).trapvec 63 = true) (hw : (coreOf s c).twin = none) :
    takeTrap s c cause addr =
      setCore s c { coreOf s c with trappc := (coreOf s c).pc, trapcause := wd (0x100 + cause), trapaddr := addr.getD 0, trapped := true,
                                    pc := wd (fld (slotOf (coreOf s c) (curSlot (coreOf s c))).trapvec 18 2 * 4), wait := .idle, vgot := [], vpos := 0 } := by
  unfold takeTrap
  simp [hr, ht, hv, hw]

/-- Every other trap aborts the activation. -/
theorem takeTrap_abort (s : State) (c cause : Nat) (addr : Option Word)
    (h : resuming cause = false ∨ (coreOf s c).trapped = true ∨ bit (slotOf (coreOf s c) (curSlot (coreOf s c))).trapvec 63 = false) :
    takeTrap s c cause addr = abortAct s c cause (addr.getD (coreOf s c).pc) := by
  unfold takeTrap
  rcases h with h | h | h <;> simp [h]

/-! ### The send buffer -/

/-- A buffered effect with room for it. -/
theorem bufferT_room (s : State) (eff : Nat → Effect) (n m : Nat) (f : Nat → Core → Core) (bad : Bool) (hw : (cc s).wait = .idle)
    (ht : (cc s).twin = none) (hr : sbRoom (cc s) n = true) :
    bufferT s eff n m f bad = .next (setCC s (advance (f (cc s).tok { cc s with
      sb := (cc s).sb ++ [{ eff := eff (cc s).tok, bytes := n, counted := m, tok := (cc s).tok, poison := bad }], tok := (cc s).tok + 1 }))) := by
  unfold bufferT
  simp [hw, hr, ht, freshTok]

/-- A flush in progress holds the instruction that waits for it. -/
theorem afterFlush_waits (s : State) (x : Int) (cont : State → Out) (hw : (cc s).wait = .flush) (hf : (cc s).flush ≠ none) :
    afterFlush s x cont = .next s := by
  unfold afterFlush
  cases h : (cc s).flush with
  | none => exact absurd h hf
  | some n => simp [hw]

/-- A flush that is over lets it go on. -/
theorem afterFlush_over (s : State) (x : Int) (cont : State → Out) (hw : (cc s).wait = .flush) (hf : (cc s).flush = none) :
    afterFlush s x cont = cont (setCC s { cc s with wait := .idle }) := by
  unfold afterFlush
  simp [hw, hf]

end Sys2Proof.Machine
end

