-- ==== Sys2Proof/Tests/Slice0.lean ====
section
/-! SUPPORT. Tests: words decoded by hand from the encoding tables, ill-formed instructions that the check refuses, one step each of a few instructions with
the spec's own numbers, and for every statement with hypotheses a state that meets them. -/

namespace Sys2Proof.Tests
open Sys2Proof Sys2Proof.Machine Sys2Proof.Stated

set_option maxRecDepth 4000

/-! ### Helpers -/

/-- A running activation of context 1, incarnation 2, rank 5, slot 0. -/
def act0 : Act := { msg := { hdr := {}, cid := 1, inc := 2, addr := 0x4000, len := 0 }, cid := 1, inc := 2, rank := 5 }

/-- A slot with CODE at 0, FRAME at 0x1000, LAND at 0x4000 and P0 at 0x2000, of 4 KiB each but CODE's 256 bytes, all of it code. -/
def slot0 : Slot :=
  { rg := #v[0x8000010000000000, 0x8000100000001000, 0x8000100000004000, 0x8000100000002000, 0, 0, 0], xb := 256 }

/-- A core that runs the activation. -/
def k0 : Core := { act := some act0, wdog := 100, slots := (Vector.replicate 4 {}).set 0 slot0 }

/-- A booted package with core 0 as given. -/
def st (k : Core) : State := setCC { State.reset with boot := { state := 1 } } k

/-- The package with another core current. -/
def stAt (c : Nat) (k : Core) : State := setCC { State.reset with boot := { state := 1 }, cur := c } k

/-- A field of the state that a step gives, or a default where it gives none. -/
def after {α : Type} (o : Host.Outcome State Fault Refusal) (d : α) (f : State → α) : α := match o with | .next t => f t | _ => d

/-- Stage-1 and stage-2 tables that map the first 8 GiB of context 1 onto themselves. -/
def mapped (s : State) : State :=
  { s with
    mem := [(0x10000, 0x8000000000012000), (0x12000, 0x8000000000014000), (0x14000, 0xDC00000000000000), (0x20000, 0x8000000000022000),
            (0x22000, 0x8000000000024000), (0x24000, 0xDC00000000000000), (0x24008, 0xFFFFFFFFFFFFFFFF)].foldl (fun m x => wrLE m x.1 8 x.2) s.mem
    parts := [(0, { s2root := 0x10000 })], ctxs := [(1, { w0 := 0x4000000200000000, w1 := 0x20000 })] }

/-- The package with context 1 LIVE at incarnation 2, its tables in memory, every row pair its partition's, and row 0 powered; core 0 as given. -/
def pkg (k : Core) : State :=
  let m := mapped (st k)
  let s := { m with parts := [(0, { pairs := 2 ^ 64 - 1, s2root := 0x10000 })], ctxs := [(1, { w0 := 0x4000002000000000, w1 := 0x20000 })], spans := [(0, [0])] }
  updDie (updDie s 0 fun d => { d with incTab := [(1, 2)], rows := [(0, { powered := true })] }) 1 fun d => { d with incTab := [(1, 2)] }

/-- A slot whose regions take 256 bytes each, for a resident of context 1. -/
def slotR (rank : Nat) : Slot :=
  { resident := some { cid := 1, inc := 2, rank := rank }, xb := 64,
    rg := #v[0x8000010000000000, 0x8000010000000100, 0x8000010000000200, 0x8000010000000300, 0, 0, 0] }

/-! ### Words of the encoding tables (12 R229 to R236) and the examples that the chapters give -/

theorem test_words_arith :
    decode 0x02531C00 = .ok (.add 5 6 7) ∧ decode 0x06531C08 = .ok (.clmul 5 6 7) ∧ decode 0x06531C0C = .ok (.sel 5 6 7) ∧
    decode 0x085303C8 = .ok (.exts 5 6 15 8) ∧ decode 0x1010FFFC = .ok (.addi 1 1 0x7FFC) ∧ decode 0x1A910003 = .ok (.srli 9 2 3) ∧
    decode 0x04D52404 = .ok (.div 13 10 9) ∧ decode 0x22E02FE0 = .ok (.addpc 14 0x02FE0) := by decide

theorem test_words_control :
    decode 0x4C0FFFC0 = .ok (.jump 0xFFFC0) ∧ decode 0x53F30010 = .ok (.jalr 31 6 16) ∧ decode 0x54300064 = .ok (.loopi 3 100) ∧
    decode 0x54280009 = .ok (.loopiReg 2 9) := by decide

theorem test_words_memory :
    decode 0x62531FFF = .ok (.ldn 5 6 0 0x1FFF) ∧ decode 0x66536010 = .ok (.ldF 5 6 16) ∧ decode 0x6824E008 = .ok (.stF 2 9 8) ∧
    decode 0x6A736000 = .ok (.fec 7 6 0) ∧ decode 0x6C736000 = .ok (.fes 7 6 0) ∧ decode 0x6E531CA0 = .ok (.amo 5 6 7 2 2) ∧
    decode 0x60C5E000 = .ok (.ld 12 11 3 0) := by decide

theorem test_words_remote :
    decode 0x70530003 = .ok (.rld 5 6 0 3) ∧ decode 0x7053000E = .ok (.rldAcq 5 6 1 2) ∧ decode 0x72031C03 = .ok (.rst 6 7 3) ∧
    decode 0x74031C12 = .ok (.rstn 6 7 4 2) ∧ decode 0x76531CA0 = .ok (.ramo 5 6 7 2 2) ∧ decode 0x78531C01 = .ok (.hinsTag 5 6 7) ∧
    decode 0x7A000000 = .ok .flush ∧ decode 0x7A000011 = .ok .fenceDie ∧ decode 0x7A000013 = .ok .fenceFab ∧
    decode 0x7A531C20 = .ok (.waitm 5 6 7) ∧ decode 0x7C536000 = .ok (.ldg 5 6 3 0) ∧ decode 0x7E63E000 = .ok (.stg 6 7 3 0) := by decide

theorem test_words_system :
    decode 0xA2028008 = .ok (.csrw 5 8) ∧ decode 0xA0700032 = .ok (.csrr 7 0x32) ∧ decode 0xAA000000 = .ok .rta ∧ decode 0xAA000001 = .ok .abort ∧
    decode 0xAA000002 = .ok .bkpt ∧ decode 0x88000000 = .ok .exit ∧ decode 0xA0300000 = .ok (.csrr 3 0) := by decide

theorem test_words_vector :
    decode 0xC0430080 = .ok (.vld 4 6 2 0) ∧ decode 0xC053A19C = .ok (.vgath 5 7 8 6 3) ∧ decode 0xC2110E00 = .ok (.vadd 1 2 3 8 0) ∧
    decode 0xC2110E03 = .ok (.vfma 1 2 3 8 0) ∧ decode 0xC6510E02 = .ok (.vcmpLt 5 2 3 8 0) ∧ decode 0xC863AE01 = .ok (.vcvt 6 7 11 8 0) ∧
    decode 0xC8920202 = .ok (.vred 9 4 0 8 0) ∧ decode 0xCC110C00 = .ok (.kand 1 2 3) ∧ decode 0xCE228000 = .ok (.vloop 2 5) := by decide

/-- Words that R234 names as no instruction: the zero word, a reserved func, a used ra of CSRR, a width other than 3 of LD.F, a reserved RSTN offset. -/
theorem test_words_refused :
    decode 0 = .error (.unassignedOpcode 0) ∧ decode 0x02531C06 = .error (.reservedFunc 1 6) ∧ decode 0xA0308000 = .error (.reservedField 0x50) ∧
    decode 0x66534010 = .error (.badWidth 0x33) ∧ decode 0x74031C0A = .error (.reservedCode 0x3A) ∧ decode 0x0E000000 = .error (.unassignedOpcode 7) := by decide

/-- The first word of R234's table lies in LM as 00 1C 53 02. -/
theorem test_words_bytes : decodeBytes [0x00, 0x1C, 0x53, 0x02, 0xFF] = .ok (.add 5 6 7, [0xFF]) ∧ decodeBytes [0x00, 0x1C, 0x53] = .error .tooShort := by
  decide

theorem test_words_commands :
    decodeCommand 0x0100000000000000 0 0 0 = .ok (.zclr 0x0100000000000000 0 0 0) ∧ decodeCommand 0x4100000000000000 1 2 3 = .ok (.cprobe 0x4100000000000000 1 2 3) ∧
    decodeCommand 0x0600000000000000 0 0 0 = .error (.unknownCommand 6) := by decide

/-! ### Ill-formed instructions, one for each check of WellFormed -/

theorem test_wf_amo : Instr.wf (.amo 1 2 3 11 2) = false ∧ Instr.wf (.ramo 1 2 3 15 2) = false ∧ Instr.wf (.amo 1 2 3 10 2) = true := by decide
theorem test_wf_rstn : Instr.wf (.rstn 1 2 0 3) = false ∧ Instr.wf (.rstn 1 2 1 1) = false ∧ Instr.wf (.rstn 1 2 2 1) = true := by decide
theorem test_wf_sendnz : Instr.wf (.sendnz 1 2 3 3 0) = false ∧ Instr.wf (.sendnzStream 1 2 3 0 1) = false ∧ Instr.wf (.sendnz 1 2 3 2 1) = true := by decide
theorem test_wf_lengths : Instr.wf (.launch 1 2 3 257) = false ∧ Instr.wf (.dspn 1 2 3 33) = false ∧ Instr.wf (.launch 1 2 3 256) = true := by decide
theorem test_wf_types :
    Instr.wf (.vadd 1 2 3 13 0) = false ∧ Instr.wf (.vcvt 1 2 13 0 0) = false ∧ Instr.wf (.vcvt 1 2 0 12 0) = false ∧ Instr.wf (.vred 1 2 6 0 0) = false ∧
    Instr.wf (.vext 1 2 3 15) = false ∧ Instr.wf (.vadd 1 2 3 12 0) = true := by decide
theorem test_wf_commands : Instr.wf (.zclr 0x0200000000000000 0 0 0) = false ∧ Instr.wf (.coll 0x4000000000000000 0 0 0) = true := by decide

/-! ### One step each, with numbers that the spec gives -/

/-- Registers 1 and 2 with values. -/
def regs (a b : Word) : State := st (wx (wx k0 1 a) 2 b)

/-- 14 R258: DIV(-7, 2) = -3 and REM(-7, 2) = -1; division by 0. -/
theorem test_div : after (exec (.div 3 1 2) (regs (-7) 2)) 0 (fun t => rx (cc t) 3) = -3 ∧
    after (exec (.rem 3 1 2) (regs (-7) 2)) 0 (fun t => rx (cc t) 3) = -1 ∧ after (exec (.div 3 1 2) (regs 5 0)) 0 (fun t => rx (cc t) 3) = -1 ∧
    after (exec (.remn 3 1 2) (regs 5 0)) 0 (fun t => rx (cc t) 3) = 5 := by decide

/-- 14 R257: MUL of -2^63 by -1 gives -2^63, and MULH 0. -/
theorem test_mul : after (exec (.mul 3 1 2) (regs (0x8000000000000000) (-1))) 0 (fun t => rx (cc t) 3) = 0x8000000000000000 ∧
    after (exec (.mulh 3 1 2) (regs (0x8000000000000000) (-1))) 7 (fun t => rx (cc t) 3) = 0 := by decide

/-- 14 R255: SLL by 64 gives the operand; a rotate right by 4. -/
theorem test_shift : after (exec (.sll 3 1 2) (regs 0x123 64)) 0 (fun t => rx (cc t) 3) = 0x123 ∧
    after (exec (.ror 3 1 2) (regs 0x123 4)) 0 (fun t => rx (cc t) 3) = 0x3000000000000012 := by decide

/-- 12 R221: x0 takes nothing, and the PC passes on. -/
theorem test_x0 : after (exec (.add 0 1 2) (regs 1 2)) 7 (fun t => rx (cc t) 0) = 0 ∧ after (exec (.add 0 1 2) (regs 1 2)) 0 (fun t => (cc t).pc) = 4 := by
  decide

/-- 14 R267: jalr x5, x5, 0 jumps to the old x5 and links PC + 4. -/
theorem test_jalr : after (exec (.jalr 5 5 0) (st (wx { k0 with pc := 0x40 } 5 0x80))) (0, 0) (fun t => ((cc t).pc, rx (cc t) 5)) = (0x80, 0x44) := by decide

/-- 14 R269, R270: a loop of one word and count 2 runs its body twice. -/
theorem test_loop :
    after (exec (.loopi 0 2) (st k0)) [] (fun t => (cc t).loops) = [⟨4, 4, 2⟩] ∧
    after (exec (.addi 1 0 1) (st { k0 with pc := 4, loops := [⟨4, 4, 2⟩] })) (0, []) (fun t => ((cc t).pc, (cc t).loops)) = (4, [⟨4, 4, 1⟩]) ∧
    after (exec (.addi 1 0 1) (st { k0 with pc := 4, loops := [⟨4, 4, 1⟩] })) (0, [⟨0, 0, 0⟩]) (fun t => ((cc t).pc, (cc t).loops)) = (8, []) := by decide

/-- 16 R289: a store of two bytes, little-endian, and the sign-extended load of one of them. -/
theorem test_store : after (exec (.st 1 2 1 0) (regs 0x2000 0x12F0)) [] (fun t => rdBytes (cc t).lm 0x2000 3) = [0xF0, 0x12, 0] ∧
    after (exec (.ld 3 1 0 0) (st (wx { k0 with lm := wrLE [] 0x2000 1 0xF0 } 1 0x2000))) 0 (fun t => rx (cc t) 3) = 0xFFFFFFFFFFFFFFF0 := by decide

/-- 15 R240, R275: BKPT with a handler at 0x30 enters it. -/
theorem test_bkpt :
    after (exec .bkpt (st { k0 with pc := 0x10, slots := (Vector.replicate 4 {}).set 0 { slot0 with trapvec := 0x8000000000000030 } })) (0, 0, 0, false)
      (fun t => ((cc t).pc, (cc t).trappc, (cc t).trapcause, (cc t).trapped)) = (0x30, 0x10, 0x112, true) := by decide

/-- 18 R321: VRCP of 3.0 is 0x3EAAB000. -/
theorem test_vrcp : after (exec (.vrcp 1 2 0) (st (wv k0 2 0x40400000))) 0 (fun t => (rv (cc t) 1).toNat % 2 ^ 32) = 0x3EAAB000 := by decide

/-- A step fetches, decodes and runs what stands at the PC. -/
theorem test_step : after (step (State.reset.withFetchWord 32 0x1010FFFC)) 0 (fun t => rx (cc t) 1) = -4 := by decide

/-! ### States that meet the hypotheses of the statements -/

/-- Branches and jumps: a target that is the last word of LM, one past it, one below it and one that is no word address; a branch taken and one not. -/
theorem test_meets_BranchesAndJumps :
    (let s := st { k0 with pc := 0x7FFF8 }
     LmWord ((cc s).pc.toNat + 4 * (1 : BitVec 15).toInt) ∧ rx (cc s) 1 = rx (cc s) 2 ∧ LmWord ((cc s).pc.toNat + 4 * (1 : BitVec 20).toInt)) ∧
    (let s := regs 0x7FFFC (-1)
     ¬ LmWord ((cc s).pc.toNat + 4 * (-1 : BitVec 15).toInt) ∧ ¬ rx (cc s) 1 = rx (cc s) 2 ∧ LmWord ((rx (cc s) 1).toNat + (0 : BitVec 15).toInt) ∧
     ¬ LmWord ((rx (cc s) 1).toNat + (4 : BitVec 15).toInt) ∧ ¬ LmWord ((rx (cc s) 1).toNat + (2 : BitVec 15).toInt) ∧
     (rx (cc s) 2).toInt < (rx (cc s) 1).toInt ∧ (rx (cc s) 1).toNat < (rx (cc s) 2).toNat ∧ ¬ LmWord ((cc s).pc.toNat + 4 * (-1 : BitVec 20).toInt)) := by
  unfold LmWord; decide

/-- The words: a reserved func of opcode 0x01 at each end of its ranges, and one that does not decode. -/
theorem test_meets_Words :
    (let fn : BitVec 10 := 0x00D; 0x00D ≤ fn.toNat ∧ fn.toNat ≤ 0x00F) ∧ (let fn : BitVec 10 := 0x016; 0x016 ≤ fn.toNat) ∧
    decode 0 = .error (.unassignedOpcode 0) ∧ (let fn : BitVec 10 := 4; fn.toNat < 5 ∧ (1 : Reg) ≠ 0) := by decide

/-- The loop stack: a level that fits in none and within one, a count of 0, and a stack that it does not fit; a level that ends at the PC with turns left and
with its last; a handler. -/
theorem test_meets_LoopsAndEarlyPops :
    (let k := cc (st k0); k.trapped = false ∧ k.loops = [] ∧ (524287 : BitVec 19).toNat ≠ 0 ∧ (0 : BitVec 19).toNat = 0) ∧
    (let k := cc (st { k0 with loops := [⟨0, 4, 1⟩] })
     k.trapped = false ∧ (∃ o, k.loops = [o] ∧ (k.pc + wd (4 * ((0 : BitVec 5).toNat + 1))).toNat ≤ o.stop.toNat) ∧
     ¬ ∃ o, k.loops = [o] ∧ (k.pc + wd (4 * ((1 : BitVec 5).toNat + 1))).toNat ≤ o.stop.toNat) ∧
    ({ k0 with trapped := true } : Core).trapped = true ∧ (k0.trapped = false ∧ ∀ x ∈ k0.loops.head?, x.stop ≠ 0) ∧
    (let l : LoopLvl := ⟨0, 4, 2⟩; ({ k0 with loops := [l] } : Core).loops = l :: [] ∧ l.stop = 4 ∧ 1 < l.count) ∧
    (let l : LoopLvl := ⟨0, 4, 1⟩; ({ k0 with loops := [l] } : Core).loops = l :: [] ∧ l.stop = 4 ∧ l.count ≤ 1) ∧
    ([⟨0, 8, 1⟩] : List LoopLvl) <:+ [⟨4, 4, 1⟩, ⟨0, 8, 1⟩] := by
  refine ⟨by decide, ⟨by decide, ⟨⟨0, 4, 1⟩, by decide, by decide⟩, ?_⟩, by decide, by decide, by decide, by decide, by decide⟩
  rintro ⟨o, h, h'⟩
  have : o = ⟨0, 4, 1⟩ := by have e : [(⟨0, 4, 1⟩ : LoopLvl)] = [o] := h; simpa using e.symm
  subst this
  revert h'
  decide

/-- LM: addresses in P0, one misaligned, one above LM, one in no region, one in CODE; clean and poisoned words; full and empty. -/
theorem test_meets_LoadsAndStoresOfLocalMemory :
    (let s := regs 0x2000 0x7FFFF
     fusedAt s s.cur 0x2000 = none ∧ localCheck s (rx (cc s) 1 + sext (0 : BitVec 13)) 8 false = none ∧
     localCheck s (rx (cc s) 1 + sext (8 : BitVec 13)) 8 true = none ∧ lmBad (cc (struck s s.cur 0x2000 8)) 0x2000 8 = false ∧
     Memory.wf (cc s).lm = true ∧ inP (slotOf (cc s) (curSlot (cc s))) 0x2000 = true ∧ (0x2001 : Word).toNat % wbytes 1 ≠ 0 ∧
     localCheck s (0x2001 : Word) 2 false = some (0x13, 0x2001) ∧ localCheck s (0x80000 : Word) 1 true = some (0x27, 0x80000) ∧
     byteFault (slotOf (cc s) (curSlot (cc s))) (0x80 : Word).toNat false = some 0x21 ∧ inP (slotOf (cc s) (curSlot (cc s))) 0x1000 = false ∧
     localCheck s (0x1000 : Word) 8 true = none ∧ (cc s).inh = false) ∧
    (let s := st (wx { k0 with poison := [0x400] } 1 0x2000)
     localCheck s 0x2000 8 false = none ∧ fusedAt s s.cur 0x2000 = none ∧ lmBad (cc (struck s s.cur 0x2000 8)) 0x2000 8 = true) := by decide

theorem test_meets_FullEmptyForms :
    (let s := regs 0x2000 1
     let a := rx (cc s) 1 + sext (0 : BitVec 13)
     fusedAt s s.cur a.toNat = none ∧ localCheck s a 8 false = none ∧ localCheck s a 8 true = none ∧ decide (a.toNat / 8 ∈ (cc s).fe) = false ∧
     bit a 63 = false ∧ Memory.wf (cc s).lm = true) ∧
    (let s := st (wx { k0 with fe := [0x400] } 1 0x2000)
     let a := rx (cc s) 1 + sext (0 : BitVec 13)
     fusedAt s s.cur a.toNat = none ∧ localCheck s a 8 false = none ∧ localCheck s a 8 true = none ∧ decide (a.toNat / 8 ∈ (cc s).fe) = true ∧
     lmBad (cc (struck s s.cur a.toNat 8)) a.toNat 8 = false) := by decide

theorem test_meets_AtomicsOnLocalMemory :
    (∃ w m : Nat, (w = 8 ∨ w = 16 ∨ w = 32 ∨ w = 64) ∧ m < 2 ^ w) ∧
    (let s := regs 0x2000 1
     let a := rx (cc s) 1
     Memory.wf (cc s).lm = true ∧ localCheck s a (wbytes 2) true = none ∧ fusedAt s s.cur a.toNat = none ∧ ((10 : BitVec 4) = 10 → (2 : BitVec 2) = 2) ∧
     lmBad (cc (struck s s.cur a.toNat (wbytes 2))) a.toNat (wbytes 2) = false ∧ localCheck s a (wbytes 3) true = none ∧ (3 : BitVec 2) ≠ 2) ∧
    (let s := regs 0x4000 1; localCheck s (rx (cc s) 1) 8 true = some (0x27, 0x4000)) :=
  ⟨⟨8, 255, by decide⟩, by decide, by decide⟩

/-- The error injector: on for the context's partition, and off. -/
def injected1 : State :=
  updCtx { setDie (st k0) 0 { einjseed := 1, einjctl := 1 } with parts := [(0, { test := true })] } 1 id

theorem test_meets_ErrorInjector :
    (let d := dieAt injected1 0
     d.einjseed ≠ 0 ∧ bit d.einjctl 0 = true ∧ fld d.einjctl 37 32 < 40 ∧ ctxPart (ctxOf injected1 (actOwn (cc injected1)).1) = fld d.einjctl 37 32 ∧
     (mgetD injected1.parts (fld d.einjctl 37 32) {}).test = true) ∧ (dieAt (st k0) 0).einjseed = 0 := by decide

/-- Remote operations: a virtual address, with the bytes in the send buffer and without; translated, for a target that executes the operation and for one that
does not; an answer that has come. -/
theorem test_meets_RemoteOperations :
    (let s := regs 0x1000 1
     let g := rx (cc s) 1
     g.toNat % wbytes 3 = 0 ∧ gform g = .virt 0x1000 ∧ (cc s).wait = .idle ∧ overlaps (cc s) g.toNat (wbytes 3) = false) ∧
    (let s := st (wx { k0 with sb := [{ eff := .store 0x1000 8 0x55 false, bytes := 8, counted := 0, tok := 1 }] } 1 0x1000)
     (cc s).wait = .idle ∧ served (cc s) 0x1000 8 = some [0x55, 0, 0, 0, 0, 0, 0, 0]) ∧
    (let s := st (wx { k0 with wait := .xlOk 0x1000 false } 1 0x1000)
     (cc s).wait = .xlOk 0x1000 false ∧ agChip (homeOf s (dieOf s.cur) 0x1000) = s.chip ∧ (cc s).twin = none ∧ gform (rx (cc s) 1) ≠ .bad ∧
     amoAllowed (paKind 0x1000) (2 : BitVec 4).toNat (wbytes 3) = true ∧ amoAllowed (paKind 0x1000) (2 : BitVec 4).toNat (wbytes 1) = false ∧
     (rx (cc s) 1).toNat % 256 = 0 ∧ hinsAllowed (paKind 0x1000) = true) ∧
    (let pa := 2 * 2 ^ 44
     let s := st (wx { k0 with wait := .xlOk pa false } 1 0x1000)
     agChip (homeOf s (dieOf s.cur) pa) = s.chip ∧ hinsAllowed (paKind pa) = false) ∧
    (let s := st { k0 with wait := .ret 3 }; (cc s).wait = .ret 3 ∧ ∀ o ∈ (cc s).out, o.tok ≠ 3) ∧
    (isCompute (stAt 511 k0).cur = true) ∧
    (let s := stAt 640 (wx k0 1 0x1000)
     let g := rx (cc s) 1 + sext (0 : BitVec 13)
     isSup s.cur = true ∧ bit g 63 = false ∧ fld g 62 56 = 0 ∧ populated s (fld g 55 0) = true ∧ g.toNat % wbytes 3 = 0 ∧ (cc s).wait = .idle ∧
     overlaps (cc s) g.toNat (wbytes 3) = false ∧ agChip (homeOf s (dieOf s.cur) (fld g 55 0)) = s.chip) := by decide

/-- Flush, fences and WAITM: the flush to begin, in progress and over; a fence with nothing left to wait for and with a covered effect; WAITM asleep, woken, of a
misaligned block, and of the core's own block with the value and without. -/
theorem test_meets_FencesAndWaits :
    (let s := st { k0 with sb := [{ eff := .store 0x1000 8 0x55 false, bytes := 8, counted := 0, tok := 1 }] }
     (cc s).wait = .idle ∧ (cc s).twin = none ∧ (cc s).sb ≠ []) ∧
    (let s := st { k0 with wait := .flush }; (cc s).wait = .flush ∧ (cc s).flush = none) ∧
    (let s := st { k0 with wait := .flush, flush := some 1 }; (cc s).wait = .flush ∧ (cc s).flush ≠ none) ∧
    (let s := st { k0 with wait := .fence false, unack := [{ tok := 1, target := 0, g := 0, w := 0, msgid := 0 }] }
     (cc s).wait = .fence false ∧ ∃ u ∈ (cc s).unack, u.target = 0) ∧
    (let s := st { k0 with wait := .fence false, storedTo := [2] }; (cc s).wait = .fence false ∧ (∀ u ∈ (cc s).unack, u.target ≠ 0) ∧ (cc s).storedTo ≠ []) ∧
    (let s := st { k0 with wait := .fence true }; (cc s).wait = .fence true ∧ (cc s).out = [] ∧ ∀ u ∈ (cc s).unack, inScope s s.cur 0 u.target = false) ∧
    (let s := st { k0 with wait := .fence true, unack := [{ tok := 1, target := 0, g := 0, w := 0, msgid := 0 }] }
     (cc s).wait = .fence true ∧ ∃ u ∈ (cc s).unack, inScope s s.cur 3 u.target = true) ∧
    (let s := st { k0 with wait := .woke 1 }; (cc s).wait = .woke 1) ∧ (let s := st { k0 with wait := .armed 1 }; (cc s).wait = .armed 1) ∧
    (let s := regs 0x8000000500002008 0; (cc s).wait = .idle ∧ (rx (cc s) 1).toNat % 64 ≠ 0) ∧
    (let s := regs 0x8000000500002000 0
     (cc s).wait = .idle ∧ (rx (cc s) 1).toNat % 64 = 0 ∧ (cc s).act = some act0 ∧ gform (rx (cc s) 1) = .peer act0.rank 0x2000 ∧
     rangeFault (slotOf (cc s) (curSlot (cc s))) 0x2000 64 false = none ∧ s.cur < 2 ^ 40 ∧ rdLE (cc s).lm 0x2000 8 = (rx (cc s) 2).toNat) ∧
    (let s := regs 0x8000000500002000 1; rdLE (cc s).lm 0x2000 8 ≠ (rx (cc s) 2).toNat) := by decide

/-- Control registers: a known plain one on a core that may write it and one refused for each reason. -/
theorem test_meets_ControlRegisterAccess :
    (let s := st k0
     let m := (0x030 : BitVec 12).toNat
     csrKnown m = true ∧ csrQueue m = false ∧ csrStream m = false ∧ (csrSup m = true → isSup s.cur = true) ∧ (m = 0x002 → isMemCore s.cur = false) ∧
     m ∈ plainCsr ∧ (csrRegion m = true ∨ csrSup m = true → isSup s.cur = true) ∧ (m = 0x013 → trapRestricted s = true)) ∧
    (let s := stAt 647 k0
     let m := (0x407 : BitVec 12).toNat
     csrKnown m = true ∧ csrQueue m = false ∧ csrStream m = false ∧ (csrSup m = true → isSup s.cur = true) ∧ m ∈ plainCsr ∧ trapRestricted s = true ∧
     xbValid (slotOf (cc s) (curSlot (cc s))) 0x100 = true ∧ xbValid (slotOf (cc s) (curSlot (cc s))) 0x200 = false) ∧
    (csrKnown 0x00D = false ∧ csrRO 0x402 = true ∧ csrQueue 0x01B = true ∧ csrStream 0x02F = true ∧ csrFormat 0x00C = true) ∧
    (let s := st k0
     csrKnown 0x400 = true ∧ csrSup 0x400 = true ∧ isSup s.cur = false ∧ csrRO 0x400 = false ∧ csrKnown 0x066 = true ∧ csrRegion 0x066 = true ∧
     csrRO 0x066 = false ∧ (cc s).trapped = false ∧ (cc s).sealed_ = false) ∧
    ((0 : BitVec 2) ≠ 3 ∧ fmtValid 0x00012121 = true ∧ fmtValid 1 = false ∧ fld (2 : Word) 1 0 ≠ 3 ∧ fld (7 : Word) 1 0 = 3 ∧ fld (5 : Word) 2 0 ≤ 5 ∧
     5 < fld (6 : Word) 2 0) := by decide

theorem test_meets_QueueRegisters :
    (let s := st (setQreg k0 3 [7, 8]); qreg (cc s) (3 : BitVec 2).toNat = 7 :: [8] ∧ (qreg (cc s) (3 : BitVec 2).toNat).length < 4 ∧ qreg (cc s) 0 = []) ∧
    (let s := st (setQreg k0 0 [1, 2, 3, 4]); 4 ≤ (qreg (cc s) (0 : BitVec 2).toNat).length) := by decide

/-- Traps: a resuming cause at each end of their range with a handler, the same in a handler, RESTART clear, and RESTART set with a message to requeue. -/
theorem test_meets_TakingATrap :
    (let k := coreOf (st { k0 with slots := (Vector.replicate 4 {}).set 0 { slot0 with trapvec := 0x8000000000000030 } }) 0
     0x10 ≤ 0x13 ∧ 0x13 ≤ 0x13 ∧ k.trapped = false ∧ bit (slotOf k (curSlot k)).trapvec 63 = true ∧ k.twin = none) ∧
    (let k := coreOf (st k0) 0
     k.act = some act0 ∧ k.twin = none ∧ (¬ (0x10 ≤ 0x20 ∧ 0x20 ≤ 0x13) ∨ k.trapped = true ∨ bit (slotOf k (curSlot k)).trapvec 63 = false) ∧ k.ends = [] ∧
     (k.restart = false ∨ k.inh = false) ∧ k.restart = true ∧ k.aborts < 3 ∧ k.inh = false ∧ act0.gang = none ∧ act0.msg.task = none ∧ act0.home = none) ∧
    (let k := coreOf (st { k0 with restart := false }) 0; k.restart = false) := by decide

theorem test_meets_TrapInstructions :
    (let s := st { k0 with trapped := true, trappc := 8 }
     (cc s).trapped = true ∧ ∀ l ∈ (cc s).loops, l.stop + 4 ≠ wd (fld (cc s).trappc 18 2 * 4)) ∧
    (let s := st { k0 with trapped := true, trappc := 8, loops := [⟨4, 4, 2⟩] }
     (cc s).trapped = true ∧ ∃ l ∈ (cc s).loops, l.stop + 4 = wd (fld (cc s).trappc 18 2 * 4)) ∧ (cc (st k0)).trapped = false := by decide

theorem test_meets_StatusWords :
    let s := stAt 2047 { k0 with aborts := 3, clrby := 5 }
    (cc s).act = some act0 ∧ s.cur < 2048 ∧ s.chip < 1024 ∧ (cc s).sb.length ≤ 64 ∧ sbBytes (cc s) ≤ 4096 ∧ act0.slot < 4 ∧ act0.queue < 4 ∧ act0.handler < 64 ∧
      (cc s).aborts ≤ 3 ∧ (cc s).clrby ≤ 5 ∧ act0.cid < 4096 ∧ act0.inc < 4096 ∧ act0.rank < 65536 := by decide

theorem test_meets_FetchTraps :
    (let k := cc (st { k0 with pc := 0x100 })
     k.act = some act0 ∧ rgHas (rgOf (slotOf k (curSlot k)) 0) k.pc.toNat = false) ∧
    (let k := cc (st { k0 with pc := 0xFC, poison := [0x1F], slots := (Vector.replicate 4 {}).set 0 { slot0 with xb := 0xFC } })
     rgHas (rgOf (slotOf k (curSlot k)) 0) k.pc.toNat = true ∧ xbOf (slotOf k (curSlot k)) ≤ k.pc.toNat) ∧
    (let k := cc (st { k0 with pc := 0xFC, poison := [0x1F] })
     rgHas (rgOf (slotOf k (curSlot k)) 0) k.pc.toNat = true ∧ k.pc.toNat < xbOf (slotOf k (curSlot k)) ∧ lmBad k k.pc.toNat 4 = true) ∧
    lmBad (cc (st k0)) 0xFC 4 = false ∧ decode 0 = .error (.unassignedOpcode 0) ∧ decode 0x88000000 = .ok .exit := by decide

/-- Buffered effects: send words with and without a reserved bit, the greatest lengths, room in the buffer and none. -/
theorem test_meets_EffectsAndRequests :
    (let s := st (wx (wx k0 1 0x1000) 2 0x800)
     sendWordOk 0 = true ∧ (rx (cc s) 2).toNat ≤ 2048 ∧ spanFault s (rx (cc s) 1) (rx (cc s) 2).toNat false = none ∧ (cc s).wait = .idle ∧ (cc s).twin = none ∧
     sbRoom (cc s) 2048 = true ∧ (256 : BitVec 9).toNat ≤ 256 ∧ (32 : BitVec 6).toNat ≤ 32 ∧ fld (0 : Word) 47 32 = 0 ∧ fld (0 : Word) 63 32 = 0 ∧
     spanFault s (rx (cc s) 1) (8 * 256) false = none ∧ Near s 0x1000 2048 ∧ (rx (cc s) 1).toNat % wbytes 3 = 0 ∧ gform (rx (cc s) 1) ≠ .bad ∧
     (rx (cc s) 1).toNat % 64 = 0 ∧ spanFault s (rx (cc s) 1) 64 false = none ∧ sbRoom (cc s) 64 = true ∧ sbRoom (cc s) 0 = true ∧ s.cur < 2048) ∧
    (let s := st { k0 with sb := List.replicate 64 { eff := .store 0x1000 8 0x55 false, bytes := 8, counted := 0, tok := 1 } }
     sbRoom (cc s) 0 = false ∧ (cc s).sb ≠ []) ∧
    sendWordOk 0x800 = false ∧ 2048 < (0x801 : Word).toNat ∧ fld (1 : Word) 63 1 = 0 ∧ (15 : Word).toNat ≤ 15 ∧ 15 < (16 : Word).toNat ∧
    (let g : Word := 0x8000000500002000; bit g 63 = true ∧ g.toNat % 8 = 0 ∧ gform g ≠ .bad) := by unfold Near; decide

/-- A gang of eight whose region at 0x4000, of 2 KiB a member, is fused: address 0x4100 lies at core 1. -/
def fusedSt (a b : Word) : State :=
  { st (wx (wx { k0 with act := some { act0 with gang := some 4 } } 1 a) 2 b) with
    gangs := [{ gid := 4, kernel := 0, members := [0, 1, 2, 3, 4, 5, 6, 7], present := [0, 1, 2, 3, 4, 5, 6, 7], size := 8, row := 0,
                fused := [0xC000080000004000] }] }

/-- 07 R139: the second 256 bytes of the window are the first of core 1's slice. -/
theorem test_fused : lmHome (fusedSt 0 0) 0x4100 = (1, 0x4000) ∧ lmHome (fusedSt 0 0) 0x4900 = (1, 0x4100) := by decide

/-- A message whose bytes another member of the gang holds. -/
theorem test_meets_far :
    let s := fusedSt 0x4100 8
    sendWordOk 0 = true ∧ (rx (cc s) 2).toNat ≤ 2048 ∧ spanFault s (rx (cc s) 1) 8 false = none ∧ ¬ Near s 0x4100 8 := by unfold Near; decide

/-- An open producer and an open consumer of one stream, held by the activation, both bound. -/
def pEnd : EndRec := { scid := 1, sid := 9, kind := 0, slot := 0, state := 1, ocid := 1, oinc := 2, rsize := 1, rbase := 0x2000 }
def cEnd : EndRec := { pEnd with kind := 1 }
def kEnds : Core := { k0 with ends := [pEnd, cEnd], sbind := ((Vector.replicate 16 none).set 0 (some (1, 9, 0))).set 15 (some (1, 9, 1)) }

theorem test_meets_SendNonZero :
    let s := st (wx (wx kEnds 1 0x1000) 2 4)
    let a := rx (cc s) 1
    (rx (cc s) 2).toNat ≤ 256 ∧ sendWordOk (rx (cc s) 3) = true ∧ a.toNat % 2 ^ (2 : BitVec 2).toNat = 0 ∧ spanFault s a (4 * 4) false = none ∧ Near s a.toNat (4 * 4) ∧
      (cc s).pair = false ∧ boundEnd (cc s) 0 0 [1] = some pEnd ∧ (cc s).wait = .idle ∧ (cc s).scan = 0 ∧ (cc s).flush = none ∧ (cc s).sb = [] := by unfold Near; decide

theorem test_meets_StreamRegisters :
    (let s := st kEnds
     boundEnd (cc s) 0 0 [1, 6] = some pEnd ∧ (cc s).pair = false ∧ (cc s).wait = .idle ∧ (cc s).twin = none ∧ (cc s).flush = none ∧ sbRoom (cc s) 8 = true ∧
     boundEnd (cc s) 15 1 [1, 4] = some cEnd ∧ cEnd.popSeq = cEnd.wrSeq ∧ cEnd.state ≠ 4 ∧ boundEnd (cc s) 1 1 [1, 4] = none ∧ boundEnd (cc s) 1 0 [1, 6] = none) ∧
    (let e : EndRec := { cEnd with wrSeq := 3 }
     let s := st { kEnds with ends := [pEnd, e] }
     boundEnd (cc s) 15 1 [1, 4] = some e ∧ e.popSeq ≠ e.wrSeq ∧ lmBad (cc s) (ringAt e e.popSeq) 8 = false) ∧
    (let e : EndRec := { cEnd with state := 4 }
     let s := st { kEnds with ends := [pEnd, e] }
     boundEnd (cc s) 15 1 [1, 4] = some e ∧ e.popSeq = e.wrSeq ∧ e.state = 4) := by decide

/-- Handles in FRAME of the two ends, at the addresses in x1 and x2. -/
def kHandles : Core :=
  let h := handleWords pEnd 5
  let g := handleWords cEnd 5
  wx (wx { kEnds with lm := wrBytes [] 0x1000 (wordsBytes [h.1, h.2, g.1, g.2]) } 1 0x1000) 2 0x1010

theorem test_meets_StreamInstructions_producer :
    Held (st kHandles) 1 [1] (handleWords pEnd 5).1 (handleWords pEnd 5).2 pEnd ∧ pEnd.kind = 0 ∧ pEnd.fwd ≠ 4 ∧ pEnd.state ∈ [1, 6] ∧
    (cc (st kHandles)).wait = .idle ∧ sbRoom (cc (st kHandles)) 16 = true := by unfold Held Near; decide

theorem test_meets_StreamInstructions_consumer :
    Held (st kHandles) 2 [1, 4] (handleWords cEnd 5).1 (handleWords cEnd 5).2 cEnd ∧ cEnd.kind = 1 ∧ cEnd.state ∈ [1, 3] ∧ cEnd.state ∈ [1, 3, 4] := by
  unfold Held Near; decide

theorem test_meets_StreamInstructions_words :
    fld (0x780000 : Word) 23 19 < 16 ∧ fld (0x780000 : Word) 28 24 = 0 ∧ fld (0xFFFF : Word) 63 16 = 0 ∧ sendWordOk 0 = true := by decide

theorem test_meets_StreamInstructions_forwarded :
    Held (st { kHandles with ends := [{ pEnd with fwd := 4 }, cEnd] }) 1 [1] (handleWords pEnd 5).1 (handleWords pEnd 5).2 { pEnd with fwd := 4 } := by
  unfold Held Near; decide

theorem test_meets_NewStream :
    let s := st (wx (wx k0 1 0x0000000020002000) 2 0x1000)
    let w := rx (cc s) 1
    (cc s).act = some act0 ∧ (cc s).pair = false ∧ (rx (cc s) 2).toNat % 16 = 0 ∧ frameFault (cc s) (rx (cc s) 2) 32 = none ∧ fld w 28 19 = 0 ∧ fld w 39 29 ≠ 0 ∧
      fld w 18 0 % 8 = 0 ∧ ringInP (slotOf (cc s) (curSlot (cc s))) (fld w 18 0) (fld w 39 29 * 256) = true ∧ (ctxOf s act0.cid).sidNext < 2 ^ 32 ∧
      2 ≤ freeRecs (cc s) ∧ Memory.wf (cc s).lm = true := by decide

theorem test_meets_Exits :
    let k := { k0 with slots := (Vector.replicate 4 {}).set 0 { slot0 with handlers := [(0, 0x80000010)] } }
    let s := updDie (st (wx k 1 0x1000)) 0 fun d => { d with incTab := [(1, 2)], rows := [(0, { powered := true })] }
    let w : Word := 0x800
    (cc s).act = some act0 ∧ (cc s).wait = .idle ∧ (cc s).twin = none ∧ headWaits (cc s) = false ∧ (cc s).sb = [] ∧ (cc s).settings = [] ∧ (cc s).ends = [] ∧
      fld w 33 12 = 0 ∧ fld w 11 0 ≤ 2048 ∧ (fld w 41 34 ≠ 0 → isCompute s.cur = true) ∧ frameFault (cc s) (rx (cc s) 1) (fld w 11 0) = none ∧ (cc s).run = [] ∧
      (cc s).sealed_ = false ∧ (rowState s (rowOf s.cur)).powered = true ∧ (rowState s (rowOf s.cur)).fenced = false ∧ (rowState s (rowOf s.cur)).testing = false ∧
      handlerV (handlerOf (slotOf (cc s) act0.slot) (fld w 47 42)) = true ∧ incAt s (niOf s s.cur) act0.cid = some act0.inc ∧
      s.boot.state ≠ 2 ∧ s.boot.state ≠ 3 ∧ (∀ j ∈ (cc s).cancel, j.1 ≠ act0.msg.hdr.job) := by decide

/-- A gang of the one core 0, and its activation: present, arrived, and one that records it with none running. -/
def gang0 : Gang := { gid := 4, kernel := 0, members := [0], present := [0], size := 8, row := 0, crew := some 4 }
def gangSt (k : Core) (g : Gang) : State := { st { k with act := some { act0 with gang := some 4 } } with gangs := [g] }

theorem test_meets_Barriers :
    (let s := gangSt k0 gang0
     presentIn s false = some gang0 ∧ presentIn s true = some gang0 ∧ (cc s).wait = .idle ∧ (cc s).twin = none ∧ (cc s).sb = [] ∧ (cc s).settings = [] ∧
     (cc s).ends = []) ∧
    (let s := gangSt { k0 with wait := .barrier 0, gangRec := some 4, crewRec := some 4 } gang0
     (cc s).wait = .barrier 0 ∧ presentIn s true = some gang0 ∧ s.cur ∉ gang0.arrived ∧ s.cur ∉ gang0.again ∧ (cc s).gangRec = some 4 ∧ (cc s).crewRec = some 4 ∧
     s.gangs.find? (fun x => decide (x.gid = 4)) = some gang0 ∧ gang0.ph < 2 ^ 16) ∧
    (let g := { gang0 with arrived := [0] }
     let s := gangSt { k0 with wait := .barrier 0 } g
     (cc s).wait = .barrier 0 ∧ presentIn s false = some g ∧ s.cur ∈ g.arrived) ∧
    (let s := st k0; (cc s).wait = .idle ∧ presentIn s true = none ∧ presentIn s false = none ∧ (cc s).gangRec = none ∧ (cc s).crewRec = none) := by decide

theorem issues_of {s : State} {i : Instr} (h1 : vtypeOk (envOf (cc s)) i = true) (h2 : (bankClosed (cc s) && namesBank i) = false) (h3 : (cc s).loop = none) :
    Issues s i := ⟨h1, h2, fun l h => by rw [h3] at h; cases h⟩

/-- Vector instructions of the last integer and of the first and last floating type issue, and name an element type; a reserved type is refused, and one of the
bank of a standing loop. -/
theorem test_meets_VectorInstructions :
    Issues (st k0) (.vadd 31 0 31 7 7) ∧ Issues (st k0) (.vfma 31 0 31 10 0) ∧ Issues (st k0) (.vmin 0 1 2 0 1) ∧ Issues (st k0) (.vabs 0 1 8 1) ∧
    Issues (st k0) (.vsra 0 1 2 3 1) ∧ Issues (st k0) (.vpopc 0 1 7 1) ∧ Issues (st k0) (.vclmul 0 1 2 7 1) ∧ Issues (st k0) (.vexp2 0 1 1) ∧
    Issues (st k0) (.vcmpUn 7 1 2 8 1) ∧ Issues (st k0) (.vcmpEq 0 1 2 7 1) ∧ Issues (st k0) (.kand 7 6 5) ∧ Issues (st k0) (.vsel 1 2 3 0 1) ∧
    Issues (st k0) (.vext 1 2 3 10) ∧ Issues (st k0) (.vins 1 2 3 4) ∧ Issues (st k0) (.vcvt 1 2 8 9 0) ∧ Issues (st k0) (.vred 1 2 5 7 0) ∧
    Issues (st k0) (.vred 1 2 2 8 0) := by
  refine ⟨?_, ?_, ?_, ?_, ?_, ?_, ?_, ?_, ?_, ?_, ?_, ?_, ?_, ?_, ?_, ?_, ?_⟩ <;> exact issues_of (by decide) (by decide) rfl

theorem test_meets_VectorTypes :
    (etype (envOf (cc (st k0))) 0).isSome = true ∧ (etype (envOf (cc (st k0))) 10).isSome = true ∧ (cvtDst (envOf (cc (st k0))) 9).isSome = true ∧
    vtypeOk (envOf (cc (st k0))) (.vadd 1 2 3 11 0) = false ∧ vtypeOk (envOf (cc (st k0))) (.vadd 16 2 3 0 0) = true ∧ namesBank (.vadd 16 2 3 0 0) = true := by
  decide

def loop0 : StandLoop := { slot := 0, body := [fmtV 0x61 17 16 16 8 0 0], rmode := 0, fmta := 0, fmtb := 0, fmtc := 0, endk := (1, 9, 1), phase := 1 }

theorem test_meets_VectorRefusals : ∃ l, (cc (st { k0 with loop := some loop0 })).loop = some l ∧ l.phase = 1 := ⟨loop0, rfl, rfl⟩

/-- The last 128 bytes of P0 as vector memory: a core of which p units have been stored, with a word read of each place, of which that at w is poisoned. -/
def kVmem (p w : Nat) : Core :=
  { wx k0 1 0x2F80 with vpos := p, vgot := (List.range 16).map fun i => (0x5F0 + i, (0, decide (0x5F0 + i = w))) }

/-- The memory forms: the last 128 bytes of P0 with no word read, with all read, and with one of them poisoned; no unit stored, the last but one, and all; a
misaligned base, an index out of line. -/
theorem test_meets_VectorMemory :
    Issues (st (wx k0 1 0x2F80)) (.vld 1 1 3 0) ∧ (etype (envOf (cc (st k0))) 3).isSome = true ∧
    Reaches (st (wx k0 1 0x2F80)) 0 8 (fun j => 0x2F80 + (8 * j : Nat)) true ∧ Reaches (st (kVmem 0 0)) 0 8 (fun j => 0x2F80 + (8 * j : Nat)) false ∧
    Memory.wf (cc (st k0)).lm = true ∧ (∀ j, j < 16 → rowAsked (cc (st (kVmem 0 0))) (0x5F0 + j) = false) ∧
    mget (cc (st (wx k0 1 0x2F80))).vgot 0x5F0 = none ∧ (∀ j, j < 16 → mget (cc (st (kVmem 0 0))).vgot (0x5F0 + j) ≠ none) ∧
    (mgetD (cc (st (kVmem 0 0x5F3))).vgot 0x5F3 (0, false)).2 = true ∧
    (let us := fun (p : Nat) => units (st (kVmem p 0)) 1 0 8 (fun j => 0x2F80 + (8 * j : Nat)) true
     (us 0)[0]? = some (0x2F80, [0, 0, 0, 0, 0, 0, 0, 0]) ∧ (us 15)[15]? = some (0x2FF8, [0, 0, 0, 0, 0, 0, 0, 0]) ∧ (us 16).length ≤ (cc (st (kVmem 16 0))).vpos ∧
     14 + 1 < (us 14).length ∧ 15 + 1 = (us 15).length) ∧
    InWords [(0x2F86, [1, 2])] ∧ joinRuns [(0x2F80, [1]), (0x2F81, [2]), (0x2F84, [3])] = [(0x2F80, [1, 2]), (0x2F84, [3])] ∧
    lane (st k0) 0 8 0 = true ∧ (0x2F84 : Word).toNat % 8 ≠ 0 ∧ (0x2F81 : Int) % 8 ≠ 0 ∧
    (∀ j', j' < 128 / 8 → fusedAt (st k0) 0 (0x2F81 + 8 * j') = none) :=
  ⟨issues_of (by decide) (by decide) rfl, by decide, by unfold Reaches; decide, by unfold Reaches; decide, by decide, by decide, by decide, by decide, by decide,
   by decide, by unfold InWords; decide, by decide, by decide, by decide, by decide, by decide⟩

/-- VLOOP: a body that may stand, one that may not, no operand queue, a held consumer, a loop that stands already; an iteration with its 16 items there. -/
theorem test_meets_StandingLoop :
    (let k := { kEnds with lm := wrLE [] 4 4 (fmtV 0x61 17 16 16 8 0 0).toNat, vqbind := some (1, 9, 1) }
     (∀ i, i < 1 → fetchFault { k with pc := wd (k.pc.toNat + 4 + 4 * i) } = none) ∧ k.trapped = false ∧
     (∀ i, i < 1 → bodyOk (envOf k) (BitVec.ofNat 32 (rdLE k.lm (k.pc.toNat + 4 + 4 * i) 4)) = true) ∧ k.loop = none ∧ k.vqbind = some (1, 9, 1) ∧
     endRec k (1, 9, 1) = some cEnd ∧ cEnd.kind = 1 ∧ cEnd.slot = curSlot k) ∧
    bodyOk (envOf k0) 0x88000000 = false ∧ k0.vqbind = none ∧ ({ k0 with loop := some loop0 } : Core).loop ≠ none ∧
    (let e : EndRec := { cEnd with wrSeq := 16 }
     let k := { kEnds with ends := [pEnd, e], loop := some loop0 }
     k.loop = some loop0 ∧ loop0.phase = 1 ∧ loop0.mid = none ∧ endRec k loop0.endk = some e ∧ e.state = 1 ∧ e.eosWord = none ∧ e.cause ≠ 2 ∧ k.vgot = [] ∧ k.vpos = 0 ∧ 16 ≤ seqDiff e.wrSeq e.popSeq ∧
     (∀ j, j < 16 → lmBad k (ringAt e (e.popSeq + j)) 8 = false) ∧ (∀ j, j < 16 → el 0 64 j = rdLE k.lm (ringAt e (e.popSeq + j)) 8) ∧
     (bodyRun { rmode := 0, fmta := 0, fmtb := 0, fmtc := 0 } 0 loop0.body 0 (wv k 16 0)).2 = none) := by decide

/-! Tile commands -/

def cmd (w0 w1 w2 w3 : Word) : Cmd := { w0 := w0, w1 := w1, w2 := w2, w3 := w3, tok := 7, cid := 1, inc := 2 }

/-- A core with one started command. -/
def started (c : Nat) (k : Core) (r : RunCmd) : State := stAt c { k with run := [r] }

/-- A core whose one started command has n element operations. -/
def running (c : Nat) (k : Core) (x : Cmd) (n : Nat) : State := started c k { cmd := x, total := n }

/-- A command whose source words have come under the numbers from base on. -/
def gotten (x : Cmd) (n base : Nat) (ws : List (Word × Bool)) : RunCmd := { cmd := x, total := n, reads := ws.zipIdx.map fun w => (base + w.2, w.1) }

theorem came_gotten (x : Cmd) (n base : Nat) (ws : List (Word × Bool)) : Came (gotten x n base ws) base ws := by
  unfold Came gotten
  refine List.filter_eq_self.mpr ?_
  intro a h
  simp only [List.mem_map] at h
  obtain ⟨w, hw, rfl⟩ := h
  have := List.snd_lt_of_mem_zipIdx hw
  simp only [decide_eq_true_eq]
  omega

theorem partBytes_clean (ps : List ((Nat → Place) × Nat × Nat)) (ws : List (Word × Bool)) (h : Clean ws) : ∃ bs, partBytes ps ws = (bs, false) := by
  induction ps generalizing ws with
  | nil => exact ⟨_, rfl⟩
  | cons p ps ih =>
    obtain ⟨p, a, n⟩ := p
    obtain ⟨bs, hb⟩ := ih (ws.drop (placesOf p a n).length) fun x hx => h x (List.mem_of_mem_drop hx)
    have hc : (ws.take (placesOf p a n).length).any (·.2) = false := by
      simp only [List.any_eq_false]
      intro x hx
      simp [h x (List.mem_of_mem_take hx)]
    exact ⟨_, by simp [partBytes, bytesOf, hb, hc]; rfl⟩

theorem clean_replicate (n : Nat) (v : Word) : Clean (List.replicate n (v, false)) := fun _ h => by rw [List.eq_of_mem_replicate h]

theorem quiet_of {s : State} (h0 : (dieAt s 0).einjseed = 0) (h1 : (dieAt s 1).einjseed = 0) : Quiet s := by
  intro d
  have e : dieAt s d = dieAt s (d % 2) := by simp [dieAt]
  rw [e]
  obtain h | h := Nat.mod_two_eq_zero_or_one d <;> rw [h] <;> assumption

theorem unfused_of {s : State} {c : Nat} (h : fusedWins s c = []) (a : Nat) : fusedAt s c a = none := by simp [fusedAt, h]

theorem test_meets_TileCommandLife :
    (let s := st (wx k0 1 0x1010)
     (rx (cc s) 1 + sext (0 : BitVec 15)).toNat % 32 ≠ 0 ∧ (rx (cc s) 1 + sext (0x10 : BitVec 15)).toNat % 32 = 0 ∧ spanFault s 0x1020 32 false = none ∧
     Near s 0x1020 32 ∧ (spanRead s 0x1020 32).2 = false ∧ (cc s).fifo.length < 16 ∧ (cc s).twin = none) ∧
    (let s := st { k0 with fifo := List.replicate 16 (cmd 0 0 0 0) }; 16 ≤ (cc s).fifo.length) ∧
    (let c := cmd 0x0100000000000000 0xFF 0 0
     let s := updDie (st { k0 with fifo := [c] }) 0 fun d => { d with incTab := [(1, 2)] }
     (coreOf s 0).fifo = c :: [] ∧ (coreOf s 0).blocked = none ∧ cmdBad 0 c.w0 = false ∧ engineRoom s 0 c = true ∧ bit c.w0 48 = false ∧
     incOk s (engKnows s 0 c) c.cid c.inc = true ∧ incOk (st { k0 with fifo := [c] }) (engKnows s 0 c) c.cid c.inc = false ∧ cmdBad 0 0x0600000000000000 = true ∧
     engineRoom (running 0 k0 c 1) 0 c = false) ∧
    (let c := cmd 0x0101000000000000 0 0 0
     let s := updDie (st (setQreg { k0 with fifo := [c] } 0 [0xFF])) 0 fun d => { d with incTab := [(1, 2)] }
     cmdBad 0 c.w0 = false ∧ engineRoom s 0 c = true ∧ bit c.w0 48 = true ∧ qreg (coreOf s 0) (fld c.w0 46 45) = 0xFF :: [] ∧
     headBad (coreOf s 0) (fld c.w0 46 45) = false ∧ headBad { coreOf s 0 with badQ := [0] } (fld c.w0 46 45) = true ∧ qreg k0 0 = []) ∧
    (let r : RunCmd := { cmd := cmd 0x0110000000000000 0 0 0, total := 1, result := some (0, 0, 0) }
     let s := st { k0 with run := [r], pendx := [(31, 7)] }
     runAt s 0 r.cmd.tok = some r ∧ ended r = some (0, 0, 0) ∧ r.cmd.live = true ∧ bit r.cmd.w0 47 = false ∧ bit r.cmd.w0 52 = true ∧ r.cmd.mirror = false ∧
     (coreOf s 0).twin = none ∧ ((coreOf s 0).pendx.find? fun p => decide (p.2 = r.cmd.tok)) = some (31, r.cmd.tok) ∧ (coreOf s 0).sealed_ = false ∧
     (coreOf s 0).blocked = none ∧ ended { r with result := none } = none) ∧
    (let r : RunCmd := { cmd := cmd 0x0100800000000000 0 0 0, total := 1, result := some (0, 0, 0) }
     let k := coreOf (st (setQreg { k0 with run := [r] } 0 [1, 2, 3, 4])) 0
     ended r = some (0, 0, 0) ∧ r.cmd.live = true ∧ bit r.cmd.w0 47 = true ∧ k.blocked = none ∧ 4 ≤ (qreg k (fld r.cmd.w0 46 45)).length) ∧
    ({ k0 with blocked := some 8 } : Core).blocked = some 8 := by unfold Near; decide

/-- An element operation of each kind of R359, R361, R367 and R369, at its first or its last place, with its source word neither asked nor there, and there. -/
theorem test_meets_EngineElements_zclr :
    let c := cmd 0x0100000000000000 0xFF 0 0
    Works (running 0 k0 c 1) 0 { cmd := c, total := 1 } 0 ∧ Machine.cmdCode c = 0x01 := by unfold Works; decide

theorem test_meets_EngineElements_zld :
    let c := cmd 0x0200000000000000 0x7800000000000000 0x1000 8
    let r := gotten c 4096 4095 [(5, false)]
    Works (running 0 k0 c 4096) 0 { cmd := c, total := 4096 } 4095 ∧ NotAsked { cmd := c, total := 4096 } 4095 1 ∧ Works (started 0 k0 r) 0 r 4095 ∧
      Machine.cmdCode c = 0x02 ∧ bit c.w2 63 = false ∧ fld c.w1 59 56 = 8 ∧ fusedAt (running 0 k0 c 4096) 0 0x1000 = none := by
  unfold Works NotAsked; decide

theorem test_meets_EngineElements_zst :
    let c := cmd 0x0300000000000000 0x0800000000000000 0x1000 8
    Works (running 511 k0 c 4096) 511 { cmd := c, total := 4096 } 0 ∧ Machine.cmdCode c = 0x03 ∧ bit c.w2 63 = false ∧ fld c.w1 59 56 = 8 ∧
      fusedAt (running 511 k0 c 4096) 511 0x1000 = none ∧ (tileOf (coreOf (running 511 k0 c 4096) 511) 0).bad = [] := by
  unfold Works; decide

theorem test_meets_EngineElements_copy :
    let c := cmd 0x1020000000000000 0x1000 0x2000 0x0000000000010001
    let r := gotten c 1 0 [(5, true)]
    Works (running 0 k0 c 1) 0 { cmd := c, total := 1 } 0 ∧ NotAsked { cmd := c, total := 1 } 0 1 ∧ Works (started 0 k0 r) 0 r 0 ∧ Machine.cmdCode c = 0x10 ∧
      sideOf c.w1 false = some { kind := 0, full := false, addr := 0x1000 } ∧ sideOf c.w2 true = some { kind := 0, full := false, addr := 0x2000 } ∧
      0 < copyWords c ∧ fusedAt (running 0 k0 c 1) 0 0x1000 = none ∧ fusedAt (running 0 k0 c 1) 0 0x2000 = none := by unfold Works NotAsked; decide

/-- Neither die's injector is on. -/
theorem test_meets_Quiet : Quiet (running 0 k0 (cmd 0x0100000000000000 0xFF 0 0) 1) := quiet_of rfl rfl

/-- An MMA.S of 8-bit integers, whose block's words have come. -/
def mmaC : Cmd := { cmd 0x0400000000000000 0x0BC0000000001000 0x1000 0 with fmta := 0x0101, fmtb := 0x0101, fmts := 2 }
def mmaW : List (Word × Bool) := List.replicate (((mmaParts mmaC 0).flatMap fun x => placesOf x.1 x.2.1 x.2.2).length) (0, false)

theorem test_meets_EngineElements_mma :
    Works (started 0 k0 (gotten mmaC 1 (0 * 2 ^ 14) mmaW)) 0 (gotten mmaC 1 (0 * 2 ^ 14) mmaW) 0 ∧ Machine.cmdCode mmaC = 0x04 ∧ (mmaTypes mmaC).isSome = true ∧
      mmaW.length = ((mmaParts mmaC 0).flatMap fun x => placesOf x.1 x.2.1 x.2.2).length ∧ Came (gotten mmaC 1 (0 * 2 ^ 14) mmaW) (0 * 2 ^ 14) mmaW ∧
      (∃ bs, partBytes (mmaParts mmaC 0) mmaW = (bs, false)) ∧ (tileOf (coreOf (started 0 k0 (gotten mmaC 1 (0 * 2 ^ 14) mmaW)) 0) 0).bad = [] :=
  ⟨⟨by decide, rfl, rfl, rfl, by decide, by decide, by decide, by decide, rfl, rfl⟩, by decide, by decide, by simp [mmaW], came_gotten _ _ _ _,
   partBytes_clean _ _ (clean_replicate _ _), rfl⟩

/-- The commands beyond LM: layouts, streams, NIC requests, collectives and reductions, with the words that they read. -/
def layW (base stride : Word) : List (Word × Bool) := [(base, false), (0x0000000100000008, false), (stride, false), (0x101, false)]

theorem test_meets_EngineRequests_layouts :
    let c := cmd 0x1320000000000000 5 0x30000 0
    let r := gotten c 1 0 (layW 0x40000 8)
    let s := mapped (started 0 k0 r)
    let good := fun (l : List (Word × Bool)) => l.length = 4 ∧ (gotten c 1 0 l).reads.length = 4
    Works s 0 r 0 ∧ Machine.cmdCode c = 0x13 ∧ good (layW 0x40000 8) ∧ layoutOf s 0 1 2 5 = none ∧ c.w2.toNat % 32 = 0 ∧ c.w2.toNat + 32 ≤ 2 ^ 57 ∧
      (extentPages s 1 0x40000 8 false (pairFor 0)).isSome = true ∧ (extentPages s 1 0x300000000 8 false (pairFor 0)).isNone = true ∧
      holdUsed s 0 + 8 * 1 ≤ s.holdMiB * 2 ^ 20 ∧ ({ s with holdMiB := 0 }).holdMiB * 2 ^ 20 < holdUsed s 0 + 8 * 1 := by unfold Works; decide

def lay5 : Layout := { cid := 1, inc := 2, num := 5, base := 0x40000, rows := 1, rowbytes := 8, stride := 8, wr := false, rd := true, pages := [] }

theorem test_meets_EngineRequests_laydrop :
    (let c := cmd 0x1420000000000000 5 0 0
     let s := updDie (running 0 k0 c 1) 0 fun d => { d with layouts := [lay5] }
     Works s 0 { cmd := c, total := 1 } 0 ∧ Machine.cmdCode c = 0x14 ∧ layoutOf s 0 c.cid c.inc 5 = some lay5 ∧
      (∀ kv ∈ s.cores, dieOf kv.1 = 0 → ∀ x ∈ kv.2.run, x.cmd.cid = c.cid → x.cmd.inc = c.inc → usesLayout x.cmd 5 = false)) ∧
    (let c := cmd 0x1320000000000000 5 0 0
     let s := updDie (running 0 k0 c 1) 0 fun d => { d with layouts := [lay5] }
     Works s 0 { cmd := c, total := 1 } 0 ∧ (layoutOf s 0 c.cid c.inc 5).isSome = true) := by unfold Works; decide

/-- Handles in FRAME of a memory core for the two stream commands. -/
def kStr (e : EndRec) : Core :=
  let h := handleWords e 5
  { k0 with lm := wrBytes [] 0x1000 (wordsBytes [h.1, h.2]), ends := [e] }

/-- A translation of the page at 0x30000 that an RTU holds. -/
def tlb9 : TlbE :=
  { cid := 1, va := 0x30000, size := 32768, pa := 0x30000, part := 0x30000, pid := 0, rd := true, wr := true, at_ := true, unc := false, rpmask := 2 ^ 64 - 1 }

theorem test_meets_EngineRequests_strfill :
    let c := cmd 0x2040000000000000 0x1000 0x30000 0x0001000200000008
    let r := gotten c 2 0 [(9, false)]
    let s := mapped (started 512 (kStr pEnd) r)
    Works s 512 r 0 ∧ Machine.cmdCode c = 0x20 ∧ 0 ≠ strItems c ∧ strBad s 512 r = false ∧ cmdEnd s 512 c 0 = some pEnd ∧ pEnd.state = 1 ∧
      seqDiff pEnd.nextSeq pEnd.relSeq < ritems pEnd ∧ mget r.reads 0 = some (9, false) ∧
      (strSend s 512 c 0 pEnd 0x0A 2 fun h => .item h [9] false).isSome = true := by unfold Works; decide

theorem test_meets_EngineRequests_strdrain :
    let e := { cEnd with wrSeq := 1 }
    let c := cmd 0x2140000000000000 0x1000 0x30000 0x0002000100000008
    let r := gotten c 2 0 [(9, false)]
    let s := updRtu (mapped (started 639 (kStr e) r)) 0 (rtuOf 639) fun x => { x with tlb := [tlb9] }
    Works s 639 r 0 ∧ Machine.cmdCode c = 0x21 ∧ strBad s 639 r = false ∧ cmdEnd s 639 c 1 = some e ∧ e.popSeq ≠ e.wrSeq ∧ mget r.reads 0 = some (9, false) ∧
      (0 + 1) % fld c.w3 63 48 ≠ 0 ∧ 0 + 1 ≠ strItems c ∧
      ((writePlace s 639 c 0 9 false false (.va (strAddr c 0))).any fun u => (runAt u 639 c.tok).any fun r' => !r'.stalled && r'.result.isNone) = true := by
  unfold Works; decide

/-- A NICPOST whose first request is malformed, so that no data are read, and a NICCQ. -/
theorem test_meets_EngineRequests_nicpost :
    let c := cmd 0x3060000000000000 0x1000 0 0
    let ws : List (Word × Bool) := List.replicate 8 (0, false)
    let r := gotten c 1 0 ws
    let s := started 0 k0 r
    Works s 0 r 0 ∧ Machine.cmdCode c = 0x30 ∧ Clean ws ∧ Came r 0 ws ∧ Came r (2 ^ 20) [] ∧ ws.length = (placesOf .lm 0x1000 64).length ∧
      (postAll 0 c [(0, ws.map (·.1), [])] s).1 = some 0 :=
  ⟨by unfold Works; decide, by decide, clean_replicate _ _, came_gotten _ _ _ _, by unfold Came; decide, by decide, by decide⟩

theorem test_meets_EngineRequests_niccq :
    let c := cmd 0x3160000000000000 1 0x1000 0
    let s := running 0 k0 c 1
    Works s 0 { cmd := c, total := 1 } 0 ∧ Machine.cmdCode c = 0x31 ∧ fusedWins s 0 = [] := by unfold Works; decide

theorem test_meets_EngineRequests_coll :
    (let c := cmd 0x4080000000000000 0x0004010000001000 0x2000 1
     let ws : List (Word × Bool) := List.replicate (placesOf .lm (fld c.w1 18 0) (collBytes c)).length (0, false)
     let r := gotten c 1 0 ws
     let s := started 0 k0 r
     Works s 0 r 0 ∧ Machine.cmdCode c = 0x40 ∧ r.asked = [] ∧ roundOf s c.cid c.inc (collGid c) (collRound c) = none ∧
      ws.length = (placesOf .lm (fld c.w1 18 0) (collBytes c)).length) ∧
    (let c := cmd 0x4180000000000000 0x0004010000000000 0 0
     let s := running 0 k0 c 1
     Works s 0 { cmd := c, total := 1 } 0 ∧ Machine.cmdCode c = 0x41) := by unfold Works; decide

theorem test_meets_EngineRequests_round :
    let e : RoundE := { cid := 1, inc := 2, gid := 4, round := 1, state := 1, running := [], at_ := 0 }
    let s := updDie (st k0) 1 fun d => { d with rounds := [e] }
    roundOf s 1 2 4 1 = some (1, e) := by decide

/-- Rank 5 of context 1 is VALID on chip 3. -/
theorem test_meets_EngineRequests_copyM :
    let c := cmd 0x1120000000000000 0x1000 0x0005000100002000 1
    let r := gotten c 1 0 [(9, false)]
    let s := { started 0 k0 r with ranks := [(65541, 0x4030000000000000)] }
    Works s 0 r 0 ∧ Machine.cmdCode c = 0x11 ∧ (sideOf c.w1 false).isSome = true ∧
      (copyMChips 0 c.cid (operandRanks { rankbase := fld c.w2 63 48, setfull := bit c.w2 47, offset := fld c.w2 18 0 + 2048 * 0, mask := c.w3.toNat }) s).1 =
        some ([3], false) ∧ [(9, false)].length = min 256 (copyMWords c - 256 * 0) := by unfold Works; decide

theorem test_meets_EngineRequests_red :
    let c := cmd 0x1220000000000000 0x0000042000001000 0x2000 0
    let ws : List (Word × Bool) := List.replicate (redSrc c 0 (redLen c)).1.length (0, false)
    let r := gotten c 1 0 ws
    let s := { started 0 k0 r with parts := [(0, { ovMiB := 1 })] }
    Works s 0 r 0 ∧ Machine.cmdCode c = 0x12 ∧ redArr c = false ∧ r.asked = [] ∧ sideOf c.w2 true = some { kind := 0, full := false, addr := 0x2000 } ∧
      ws.length = (redSrc c 0 (redLen c)).1.length ∧ 1 < redNum c ∧ ovUsed s 0 c.cid + redLen c * elSize (redTyp c) ≤ ovShare s c.cid ∧
      ∀ g ∈ (dieAt s 0).reds, redSame g c.cid c.inc { tag := redTag c, dst := niOf s 0, addr := 0x2000 } = false := by unfold Works; decide

/-- A package in which the command waits at the head of the FIFO of core 0, of a member of a gang, with P0 of 32 KiB. -/
def waiting (c : Cmd) : State :=
  let t := { slot0 with rg := slot0.rg.set 3 0x8000800000020000 }
  { updDie (st { k0 with act := some { act0 with gang := some 4 }, slots := (Vector.replicate 4 {}).set 0 t, fifo := [c] }) 0 fun d =>
      { d with incTab := [(1, 2)], layouts := [lay5] } with
    gangs := [gang0] }

theorem waiting_quiet (c : Cmd) : Quiet (waiting c) := quiet_of rfl rfl
theorem waiting_unfused (c : Cmd) (a : Nat) : fusedAt (waiting c) (waiting c).cur a = none := unfused_of rfl a

/-- The heads of FIFOs that start: ZCLR, LAYDROP, NICCQ, CPROBE, MMA.G, ZST, ZLD and COPY. -/
theorem test_meets_TileCommands_zclr :
    let c := cmd 0x0100000000000000 0xFF 0 0
    Startable (waiting c) c [] ∧ Machine.cmdCode c = 0x01 ∧ sameWords c c.w0 c.w1 c.w2 c.w3 = true := by unfold Startable; decide

theorem test_meets_TileCommands_laydrop :
    let c := cmd 0x1420000000000000 5 0 0
    let s := waiting c
    Startable s c [] ∧ Machine.cmdCode c = 0x14 ∧ layoutOf s 0 c.cid c.inc (fld c.w1 5 0) = some lay5 ∧
      ∀ kv ∈ s.cores, dieOf kv.1 = 0 → ∀ x ∈ kv.2.run, x.cmd.cid = c.cid → x.cmd.inc = c.inc → usesLayout x.cmd 5 = false := by unfold Startable; decide

theorem test_meets_TileCommands_ask :
    (let c := cmd 0x3160000000000000 1 0x1000 0; Startable (waiting c) c [] ∧ Machine.cmdCode c = 0x31) ∧
    (let c := cmd 0x4180000000000000 0x0004010000000000 0 0; Startable (waiting c) c [] ∧ Machine.cmdCode c = 0x41) := by unfold Startable; decide

theorem test_meets_TileCommands_mmaG :
    let c := { cmd 0x0500000000000000 0x0BC0000000020000 0x20000 0 with fmta := 0x0101, fmtb := 0x0101, fmts := 2 }
    Startable (waiting c) c [] ∧ Machine.cmdCode c = 0x05 := by unfold Startable; decide

theorem test_meets_TileCommands_tiles :
    (let c := cmd 0x0300000000000000 0x0800000000000000 0x20000 512
     let s := waiting c
     Startable s c [] ∧ Machine.cmdCode c = 0x03 ∧ bit c.w2 63 = false ∧ fld c.w1 59 56 = 8 ∧ (tileOf (cc s) (fld c.w1 62 60)).bad = []) ∧
    (let c := cmd 0x0200000000000000 0x7800000000000000 0x20000 512; Startable (waiting c) c [] ∧ Machine.cmdCode c = 0x02 ∧ bit c.w2 63 = false ∧ fld c.w1 59 56 = 8) := by
  unfold Startable; decide

theorem test_meets_TileCommands_moves :
    let c := cmd 0x1020000000000000 0x1000 0x20000 0x0000000000010001
    let s := waiting c
    Startable s c [] ∧ atWork s s.cur { cmd := c, ord := s.opNext } = true ∧ Machine.cmdCode c = 0x10 ∧ (sideOf c.w1 false).isSome = true ∧ (sideOf c.w2 true).isSome = true := by
  unfold Startable; decide

/-- Commands that go on: one of a single operation, and a ZLD, a COPY and an MMA.S all of whose words have come. -/
theorem test_meets_TileCommands_one :
    let r : RunCmd := { cmd := cmd 0x1420000000000000 5 0 0, total := 1 }
    Going (started 0 k0 r) 0x14 r.cmd.w0 r.cmd.w1 r.cmd.w2 r.cmd.w3 r ∧ r.total = 1 := by unfold Going; decide

theorem test_meets_TileCommands_zld :
    let c := cmd 0x0200000000000000 0x7800000000000000 0x2000 8
    let ws : List (Word × Bool) := List.replicate 4096 (7, false)
    let r := gotten c 4096 0 ws
    let s := started 0 k0 r
    Going s 0x02 c.w0 c.w1 c.w2 c.w3 r ∧ fld c.w1 59 56 = 8 ∧ Clean ws ∧ ws.length = 4096 ∧ Came r 0 ws ∧ r.total = cmdTotal c ∧ atWork s s.cur r = true ∧
      r.stalled = false ∧ r.asked = [] ∧ r.done_ = [] ∧ r.pend = [] ∧ r.refused = 0 :=
  ⟨⟨by decide, rfl, rfl⟩, by decide, clean_replicate _ _, List.length_replicate, came_gotten _ _ _ _, by decide, rfl, rfl, rfl, rfl, rfl, rfl⟩

theorem test_meets_TileCommands_copy :
    let c := cmd 0x1020000000000000 0x1000 0x2000 0x0000000000010001
    let ws : List (Word × Bool) := [(7, true)]
    let r := gotten c 1 0 ws
    let s := started 0 k0 r
    Going s 0x10 c.w0 c.w1 c.w2 c.w3 r ∧ 0 < copyWords c ∧ ws.length = copyRows c * copyWords c ∧ r.total = cmdTotal c ∧ atWork s s.cur r = true := by
  unfold Going; decide

theorem test_meets_TileCommands_mma :
    let r := gotten mmaC 1 (0 * 2 ^ 14) mmaW
    let s := started 0 k0 r
    Going s 0x04 mmaC.w0 mmaC.w1 mmaC.w2 mmaC.w3 r ∧ r.failed = false ∧ r.prog + 1 = mmaBlocks mmaC ∧ r.total = cmdTotal mmaC ∧ atWork s s.cur r = true :=
  ⟨⟨by decide, rfl, rfl⟩, rfl, by decide, by decide, rfl⟩

/-- Gangs: a gang of one whose command has accepted; one that has joined, with its block fetched; an arrival-mode RED, and its word at the NI; standing times
at their ends. -/
theorem test_meets_GangsAndReductions_join :
    let c := cmd 0x0500000000000000 0x0BC0000000001000 0x1000 0
    let r : RunCmd := { cmd := c, total := 1, gang := some 4 }
    let s := { st { k0 with run := [r] } with gangs := [gang0] }
    gangPlaces s 4 ≠ [] ∧ gangPlaces s 4 = [(0, 0)] ∧ (coreOf s 0).sealed_ = false ∧ gangRun s 4 0 = some r ∧ r.joined = false ∧ mmaBlocks r.cmd = 1 := by decide

theorem test_meets_GangsAndReductions_step :
    let c := cmd 0x0500000000000000 0x0BC0000000001000 0x1000 0
    let r : RunCmd := { cmd := c, total := 1, gang := some 4, joined := true, ops := some ([], [], [], []) }
    let s := { st { k0 with run := [r] } with gangs := [gang0] }
    ([((0, 0), r)] : List ((Nat × Nat) × RunCmd)) ≠ [] ∧ ([((0, 0), r)] : List ((Nat × Nat) × RunCmd)).map (·.1) = gangPlaces s 4 ∧
      ((gangPlaces s 4).map (·.1)).Nodup ∧ gangRun s 4 0 = some r ∧ r.joined = true ∧ r.failed = false ∧ r.ops.isSome = true ∧ (coreOf s 0).sealed_ = false ∧
      (tileOf (coreOf s 0) 0).bad = [] := by
  decide

theorem test_meets_GangsAndReductions_arrival :
    let c := cmd 0x1220000000000000 0x0000042800001000 0x2000 0
    let ws : List (Word × Bool) := List.replicate (redSrc c 0 (min (8 / elSize (redTyp c)) (redLen c))).1.length (0, false)
    let r := gotten c 1 0 ws
    let s := started 0 k0 r
    Works s 0 r r.asked.length ∧ Machine.cmdCode c = 0x12 ∧ redArr c = true ∧ sideOf c.w2 true = some { kind := 0, full := false, addr := 0x2000 } ∧
      ws.length = (redSrc c 0 (min (8 / elSize (redTyp c)) (redLen c))).1.length ∧ fusedAt s 0 0x2000 = none ∧
      (∀ g ∈ (dieAt s 0).reds, redSame g c.cid c.inc { tag := redTag c, dst := niOf s 0, addr := 0x2000 } = false) := by unfold Works; decide

theorem test_meets_GangsAndReductions_redw :
    let s0 := updDie (st k0) 0 fun d => { d with incTab := [(1, 2)] }
    let p : Packet := { src := copyEng s0 0 0, dst := niOf s0 0, cls := 1, op := 6, cid := 1, inc := 2, len := 2, body := .redw 0x2000 0 0 0 [1] false (engTok 0 7 0) }
    let s := chanPush s0 p
    chanQ s (copyEng s0 0 0) (niOf s 0) 1 = p :: [] ∧ agIsCore (niOf s 0) = true ∧ agCore (niOf s 0) = 0 ∧ incOk s (niOf s 0) p.cid p.inc = true ∧
      (dieAt s 0).einjseed = 0 ∧ agChip p.src = s.chip ∧ agIsCore p.src = false ∧ Memory.wf (coreOf s 0).lm = true ∧ lmBad (coreOf s 0) 0x2000 8 = false := by decide

theorem test_meets_GangsAndReductions_times :
    let c := cmd 0x4080000000000000 0x0004010000001000 0x2000 1
    let r : RunCmd := { cmd := c, total := 1 }
    let s := { running 0 k0 c 1 with now := 32000000 }
    runAt s 0 r.cmd.tok = some r ∧ r.result = none ∧ Machine.cmdCode r.cmd = 0x40 ∧ 32000000 ≤ s.now - r.started ∧ ({ s with now := 31999999 }).now - r.started < 32000000 := by
  decide

/-- NIC packets: one not sent, one sent and awaited just short of its time and at it, at the sixth and the seventh resend; a packet for another endpoint, a
repeat, and a SEND's packet with its RECV. -/
def wrq0 : Wrq := { id := 0, cid := 1, inc := 2, core := 0, slot := 0, op := 1, cqe := true, len := 8, lg := false, buf := 0x2000, peer := 3, rva := 0, rkey := 0,
                    cctr := 0, utag := 0, pkts := [{ psn := 5, off := 0, n := 8 }] }
def wrqSent (n : Nat) : Wrq := { wrq0 with pkts := [{ psn := 5, off := 0, n := 8, sent := some 0, resends := n }] }
def nicSt (now : Nat) (r : Wrq) : State := { updDie (st k0) 0 fun d => { d with nic := { wrqs := [r] }, incTab := [(1, 2)], qregs := [(1, { nicid := 0x8000000000000009 })] } with now := now }

theorem test_meets_NicPackets_send :
    let n := nicAt (nicSt 0 wrq0) 0
    n.wrqs[0]? = some wrq0 ∧ (wrq0.pkts.find? fun p => p.sent.isNone) = some { psn := 5, off := 0, n := 8 } ∧
      ((n.wrqs.take 0).all fun x => !(decide (x.op ≠ 3 ∧ x.cid = wrq0.cid ∧ x.peer = wrq0.peer) && x.pkts.any fun p => p.sent.isNone)) = true := by decide

theorem test_meets_NicPackets_wait :
    (waitingPkts (nicSt 160000 (wrqSent 6)) 0 1 3).find? (fun x => decide (x.2.psn = 5)) = some (wrqSent 6, { psn := 5, off := 0, n := 8, sent := some 0, resends := 6 }) ∧
      (waitingPkts (nicSt 160000 (wrqSent 7)) 0 1 3).find? (fun x => decide (x.2.psn = 5)) = some (wrqSent 7, { psn := 5, off := 0, n := 8, sent := some 0, resends := 7 }) ∧
      160000 ≤ (nicSt 160000 wrq0).now - 0 ∧ (nicSt 159999 wrq0).now - 0 < 160000 := by decide

theorem test_meets_NicPackets_receive :
    let r := { wrq0 with op := 3, pkts := [] }
    let s := nicSt 0 r
    let q : NicPkt := { from_ := 1, scid := 7, peer := 0, psn := 0, kind := 0, jobid := 9, pid := 1, ridx := 0, msgno := 0, offset := 0, total := 8, rva := 0, rkey := 0,
                        data := [1, 2, 3, 4, 5, 6, 7, 8] }
    bit (qregsOf s 0 q.pid).nicid 63 = true ∧ fld (qregsOf s 0 q.pid).nicid 23 0 = q.jobid ∧ psnLt q.psn (rxPair s 0 q).cum = false ∧ q.psn ∉ (rxPair s 0 q).got ∧ isPlacing s 0 q = false ∧
      q.kind ≠ 1 ∧ q.msgno ∉ (rxPair s 0 q).bad ∧
      (((nicAt s 0).wrqs.filter fun r => decide (r.op = 3 ∧ r.cid = q.pid) && incOk s (nicOf s 0) r.cid r.inc).find?
        fun r => decide (r.match_ = some (q.from_, q.scid, q.peer, q.msgno))) = none ∧
      (((nicAt s 0).wrqs.filter fun r => decide (r.op = 3 ∧ r.cid = q.pid) && incOk s (nicOf s 0) r.cid r.inc).find? fun r => r.match_.isNone) = some r ∧
      q.total ≤ r.len ∧ q.offset + q.data.length ≤ r.len ∧ r.lg = false ∧ (coreOf s r.core).sealed_ = false ∧ Memory.wf (coreOf s r.core).lm = true ∧
      bit (qregsOf (st k0) 0 q.pid).nicid 63 = false := by decide

/-! Supervisor instructions -/

/-- A supervisor core whose package has context 1 LIVE with incarnation 2, and context 2 LIVE with UNREC at 7. -/
def sup (k : Core) : State :=
  { stAt 647 k with ctxs := [(1, { w0 := 0x4000002000000000 }), (2, { w0 := 0x405C002000000000 }), (3, { w0 := 0x4004002000000000 }),
                             (9, { w0 := 0x4004002000010000 })], spans := [(0, [0]), (1, [5, 0])] }

/-- Slot 2 of memory core 512 holding rank 7 of context 1. -/
def slot7 : Slot := { resident := some { cid := 1, inc := 2, rank := 7 }, rg := #v[0x8000010000000000, 0x8000010000000100, 0x8000010000000200, 0, 0, 0, 0] }
def sup7 (k : Core) (state : Nat) : State :=
  let s := updCore (sup k) 512 fun x => setSlot x 2 slot7
  { s with ranks := [(65543, wd (state * 2 ^ 62 + 512 * 2 ^ 41 + 2 * 2 ^ 39))] }

theorem test_meets_SupervisorCommon :
    isSup (st k0).cur = false ∧ isSup (sup k0).cur = true ∧ (cc (sup { k0 with wait := .sup 9 })).wait = .sup 9 ∧ loadOp (sup { k0 with wait := .sup 9 }) = none ∧ (cc (sup k0)).wait = .idle ∧
      (cc (sup { k0 with out := [{ tok := 1, rd := 1, kind := .stg, g := 0 }] })).out ≠ [] ∧ (cc (sup { k0 with wait := .supDone 1 })).wait = .supDone 1 := by decide

theorem test_meets_SupervisorInstructions_ctx :
    let s := sup (wx (wx (wx (wx (wx k0 1 4096) 2 1) 3 2) 4 3) 5 4095)
    Asks s ∧ 4096 ≤ (rx (cc s) 1).toNat ∧ (∃ x, (cc s).act = some x ∧ x.cid = (rx (cc s) 2).toNat) ∧ (rx (cc s) 3).toNat < 4096 ∧
      (∀ x, (cc s).act = some x → x.cid ≠ (rx (cc s) 3).toNat) ∧ ctxFree (ctxOf s 2) = false ∧ killing s 2 = false ∧ ctxUnrec (ctxOf s 2) = 7 ∧
      ctxFree (ctxOf s 3) = false ∧ killing s 3 = false ∧ ctxUnrec (ctxOf s 3) = 1 ∧ homeChip s 2 = s.chip ∧ homeChip s 3 = s.chip ∧
      ctxFree (ctxOf s 9) = false ∧ homeChip s 9 ≠ s.chip ∧ killing { s with ops := [{ tok := 1, kind := 0, core := 0, cid := 3, left := [] }] } 3 = true ∧ ctxUnrec (ctxOf s 1) = 0 ∧ ctxFree (ctxOf s 4095) = true := by
  refine ⟨by unfold Asks; decide, by decide, ⟨act0, by decide, by decide⟩, by decide, ?_, by decide, by decide, by decide, by decide, by decide, by decide,
    by decide, by decide, by decide, by decide, by decide, by decide, by decide⟩
  intro x h
  have : x = act0 := by simpa using (h.symm.trans (by decide : (cc (sup (wx (wx (wx (wx (wx k0 1 4096) 2 1) 3 2) 4 3) 5 4095))).act = some act0))
  subst this; decide

theorem test_meets_SupervisorInstructions_tables :
    (let s := sup k0
     tlbinvOk 0 0x0001000000000001 = true ∧ ctxFree (ctxOf s (fld (0x0001000000000001 : Word) 59 48)) = false ∧ tlbinvOk 1 0 = false ∧
     tlbinvOk 0 0x4000000000000000 = true ∧ bit (0x4000000000000000 : Word) 62 = true ∧ tlbinvOk 0 0 = true ∧ bit (0 : Word) 62 = false ∧
     ctxFree (ctxOf s 0) = true) ∧
    (let s := sup k0
     let b : Word := 0x4004000000000000
     let v := 0x10005
     v < 2 ^ 28 ∧ fld b 38 0 = 0 ∧ fld b 50 41 < 648 ∧ rankMove (reState (rankEntry s (v / 65536) (v % 65536))) (reState b) = true ∧
     ctxFree (ctxOf s (v / 65536)) = false ∧ reChip b ∈ spanOf s (v / 65536) ∧ coreUsable s (reCore b) (ctxPart (ctxOf s (v / 65536))) = true ∧
     rankMove (reState (rankEntry s 1 5)) 0 = false ∧ reChip 0x4010000000000000 ∉ spanOf s 1 ∧ rankMove 1 2 = true ∧ 648 ≤ fld (0x0005100000000000 : Word) 50 41) := by
  decide

theorem test_meets_SupervisorInstructions_leave :
    (let s := sup7 k0 2
     leaveCheck s 0x10007 (!areaOk s 0x1000) = .inr (512, 2, { cid := 1, inc := 2, rank := 7 }) ∧
     saveLen (savePieces (coreOf s 512) 2) ≤ 2 ^ 22 ∧ Memory.wf s.mem = true) ∧
    leaveCheck (sup7 k0 1) 0x10007 false = .inl 0x66 ∧ leaveCheck (sup7 k0 2) 0x40007 false = .inl 0x4B ∧
    (let s := sup7 k0 2
     leaveCheck s 0x10007 (!coordOk s 0x0004000080000000) = .inl 0x66 ∧
     leaveCheck s 0x10007 (!coordOk s 0x0004000000000000) = .inr (512, 2, { cid := 1, inc := 2, rank := 7 }) ∧
     (slotOf (coreOf s (reCore 0x0004000000000000)) (reSlot 0x0004000000000000)).resident = none ∧
     targetCheck s (reCore 0x0004000000000000) (reSlot 0x0004000000000000) { cid := 1, inc := 2, rank := 7 } (slotOf (coreOf s 512) 2).rg.toList (some (512, 2)) true
       = none ∧ Memory.wf (coreOf s (reCore 0x0004000000000000)).lm = true ∧
     (slotOf (coreOf s (reCore 0x0005000000000000)) 0).resident = none) ∧
    (let s := sup7 k0 2
     coordOk s 0x0004010000000000 = true ∧ (slotOf (coreOf s (reCore 0x0004010000000000)) (reSlot 0x0004010000000000)).resident ≠ none ∧
     targetCheck s 512 0 { cid := 1, inc := 3, rank := 7 } [] none true = some 0x4B) := by decide

theorem test_meets_SupervisorInstructions_drop :
    (let s := sup7 k0 2
     coordOk s 1 = false ∧ coordOk s 0x0004010000000000 = true ∧ agentOf (reCore 0x0004010000000000) < 648 ∧ 648 ≤ agentOf (reCore 0x0005100000000000) ∧
     coordOk s 0x0005100000000000 = true ∧ (slotOf (coreOf s 512) 2).resident = some { cid := 1, inc := 2, rank := 7 } ∧ ctxInc (ctxOf s 1) = 2 ∧
     reState (rankEntry s 1 7) = 2 ∧ quiescent (coreOf s 512) 2 = true ∧ (slotOf (coreOf s 512) 0).resident = none ∧
     ctxInc (ctxOf (sup7 k0 1) 1) = 2 ∧ reState (rankEntry (sup7 k0 1) 1 7) ≠ 2) ∧
    quiescent { k0 with act := some { act0 with slot := 2 } } 2 = false ∧
    (let s := { sup7 k0 2 with retired := [0] }
     coordOk s 0 = true ∧ reSlot 0 = 0 ∧ isSup (reCore 0) = false ∧ isCompute (reCore 0) = true ∧ rowOf (reCore 0) ∈ s.retired ∧ rowOf 1023 ∉ s.retired ∧
     isCompute (reCore 0x0004000000000000) = false ∧ (coreOf s 512).act = none ∧ (coreOf s 512).succ = none ∧ (coreOf s 512).gates = []) ∧
    (coreOf (updCore (sup k0) 512 fun _ => k0) 512).act ≠ none := by decide

/-- A save area of 576 bytes, but for its tag, and the package that holds it with a tag. -/
def area0 : Memory := [(0x1000, 0x534C4F5400000001), (0x1008, 0x10020007), (0x1010, 576), (0x1040, 0x8000010000000000), (0x1048, 0x8000100000001000),
    (0x1050, 0x8000100000002000)].foldl (fun m x => wrLE m x.1 8 x.2) []

def areaSt (tag : Word) : State := { sup k0 with mem := wrLE area0 0x1028 8 tag.toNat }

theorem area0_wf : Memory.wf area0 = true := by decide

/-- Outside its tag the area reads the same whatever the tag is. -/
theorem area_bytes (tag : Word) (n : Nat) : ∀ a, a + n ≤ 0x1028 ∨ 0x1030 ≤ a → rdBytes (areaSt tag).mem a n = rdBytes area0 a n := by
  induction n with
  | zero => intro a _; simp only [rdBytes]
  | succ n ih =>
    intro a h
    have hb : rdByte (areaSt tag).mem a = rdByte area0 a := by
      have h1 := rdByte_wrBytes (leBytes 8 tag.toNat) area0 0x1028 a area0_wf
      rw [leBytes_length, if_neg (by omega)] at h1
      exact h1
    simp only [rdBytes]
    rw [hb, ih (a + 1) (by omega)]

theorem area_word (tag : Word) (off : Nat) (h : off ≤ 32 ∨ 48 ≤ off) : areaWord (areaSt tag) 0x1000 off = wd (rdLE area0 (0x1000 + off) 8) := by
  unfold areaWord rdLE
  rw [area_bytes tag 8 _ (by omega)]

theorem area_tag (tag : Word) : areaWord (areaSt tag) 0x1000 40 = tag := by
  unfold areaWord
  rw [show (areaSt tag).mem = wrLE area0 0x1028 8 tag.toNat from rfl, rdLE_wrLE _ _ _ _ area0_wf]
  have := tag.isLt
  rw [Nat.mod_eq_of_lt (by omega)]
  simp [wd]

theorem area_hdr (tag : Word) : hdrBad (areaSt tag) 0x1000 = false := by
  unfold hdrBad areaWords
  simp only [List.range, List.range.loop, List.map, Nat.reduceMul, Nat.reduceAdd, List.getD_cons_zero, List.getD_cons_succ]
  rw [area_word tag 0 (by omega), area_word tag 8 (by omega), area_word tag 16 (by omega), area_word tag 24 (by omega), area_word tag 48 (by omega),
    area_word tag 56 (by omega)]
  decide

theorem area_res (tag : Word) : areaRes (areaSt tag) 0x1000 = { cid := 1, inc := 2, rank := 7 } := by
  unfold areaRes
  rw [area_word tag 8 (by omega)]
  decide

/-- The regions of the area, and what it says of the slot that it was saved from. -/
def regions0 : List Word :=
  (((List.range 7).map fun i => wd (rdLE area0 (0x1000 + (64 + 8 * i)) 8)).zipIdx).map fun w => w.1 &&& (if w.2 < 3 then 0x800FFF000007FF00 else 0xC00FFF000007FF00)
def from0 : Word := wd (rdLE area0 (0x1000 + 24) 8)

theorem area_regions (tag : Word) : areaRegions (areaSt tag) 0x1000 = regions0 := by
  have h : areaWords (areaSt tag) 0x1000 64 7 = (List.range 7).map fun i => wd (rdLE area0 (0x1000 + (64 + 8 * i)) 8) := by
    unfold areaWords
    apply List.map_congr_left
    intro i _
    exact area_word tag _ (by omega)
  unfold areaRegions regions0
  rw [h]

theorem area_target (tag : Word) : targetCheck (areaSt tag) 512 0 (areaRes (areaSt tag) 0x1000) (areaRegions (areaSt tag) 0x1000)
    (savedFrom (areaSt tag) (areaWord (areaSt tag) 0x1000 24)) false = none := by
  rw [area_res, area_regions, area_word tag 24 (by omega)]
  exact (show targetCheck (sup k0) 512 0 { cid := 1, inc := 2, rank := 7 } regions0 (savedFrom (sup k0) from0) false = none by decide)

/-- An area that SLOTLOAD's checks accept, for slot 0 of memory core 512. -/
theorem test_meets_SupervisorInstructions_load :
    let s := areaSt 0
    Asks s ∧ coordOk s 0x0004000000000000 = true ∧ areaOk s 0x1000 = true ∧ (slotOf (coreOf s 512) 0).resident = none ∧ hdrBad s 0x1000 = false ∧
      targetCheck s 512 0 (areaRes s 0x1000) (areaRegions s 0x1000) (savedFrom s (areaWord s 0x1000 24)) false = none :=
  ⟨⟨rfl, (show (cc (sup k0)).wait = .idle by decide), (show (cc (sup k0)).out = [] by decide)⟩, (show coordOk (sup k0) _ = true by decide),
    (show areaOk (sup k0) _ = true by decide), (show (slotOf (coreOf (sup k0) 512) 0).resident = none by decide), area_hdr 0, area_target 0⟩

/-- The load that reads the area, and the package with it. -/
def load0 : Op := { tok := 3, kind := 9, core := 647, cid := 1, left := [], arg := 2 }
def loadSt (tag : Word) : State :=
  { sup (wx (wx { k0 with wait := .sup 3 } 1 0x0004000000000000) 2 0x1000) with mem := (areaSt tag).mem, ops := [load0] }

theorem load_check (tag : Word) : loadCheck { loadSt tag with ops := [] } 0x0004000000000000 0x1000 = none := by
  let z := sup (wx (wx { k0 with wait := .sup 3 } 1 0x0004000000000000) 2 0x1000)
  have c1 : coordOk { loadSt tag with ops := [] } 0x0004000000000000 = true := (show coordOk z _ = true by decide)
  have c2 : areaOk { loadSt tag with ops := [] } 0x1000 = true := (show areaOk z _ = true by decide)
  have c3 : (slotOf (coreOf { loadSt tag with ops := [] } (reCore 0x0004000000000000)) (reSlot 0x0004000000000000)).resident.isSome = false :=
    (show (slotOf (coreOf z 512) 0).resident.isSome = false by decide)
  have c4 : hdrBad { loadSt tag with ops := [] } (0x1000 : Word).toNat = false := area_hdr tag
  unfold loadCheck
  simp only [c1, c2, c3, c4, Bool.false_eq_true, reduceCtorEq, or_self, if_false]
  change targetCheck { loadSt tag with ops := [] } 512 0 (areaRes (areaSt tag) 0x1000) (areaRegions (areaSt tag) 0x1000)
    (savedFrom { loadSt tag with ops := [] } (areaWord (areaSt tag) 0x1000 24)) false = none
  rw [area_res, area_regions, area_word tag 24 (by omega)]
  exact (show targetCheck z 512 0 { cid := 1, inc := 2, rank := 7 } regions0 (savedFrom z from0) false = none by decide)

/-- A tagged area about to be read into its slot; and one whose context has been killed meanwhile. -/
theorem test_meets_SupervisorInstructions_read :
    let s := loadSt (saveTag (areaSt 0) 1 0 (rdBytes area0 0x1000 40 ++ List.replicate 8 0 ++ rdBytes area0 0x1030 528))
    loadOp s = some load0 ∧ ctxInc (ctxOf s 1) = load0.arg ∧ killing s 1 = false ∧ loadCheck { s with ops := [] } (rx (cc s) 1) (rx (cc s) 2) = none ∧
      memBad s 0x1000 (areaWord s 0x1000 16).toNat = false ∧ homeChip s 1 = s.chip ∧ ctxUnrec (ctxOf s 1) < 7 ∧
      saveTag s (areaRes s 0x1000).cid (areaWord s 0x1000 32).toNat
        (rdBytes s.mem 0x1000 40 ++ List.replicate 8 0 ++ rdBytes s.mem (0x1000 + 48) ((areaWord s 0x1000 16).toNat - 48)) = areaWord s 0x1000 40 := by
  generalize hg : saveTag (areaSt 0) 1 0 (rdBytes area0 0x1000 40 ++ List.replicate 8 0 ++ rdBytes area0 0x1030 528) = tag
  let z := { sup (wx (wx { k0 with wait := .sup 3 } 1 0x0004000000000000) 2 0x1000) with ops := [load0] }
  refine ⟨(show loadOp z = some load0 by decide), (show ctxInc (ctxOf z 1) = 2 by decide), (show killing z 1 = false by decide), ?_, ?_,
    (show homeChip z 1 = z.chip by decide), (show ctxUnrec (ctxOf z 1) < 7 by decide), ?_⟩
  · have h1 : rx (cc (loadSt tag)) 1 = 0x0004000000000000 := (show rx (cc z) 1 = _ by decide)
    have h2 : rx (cc (loadSt tag)) 2 = 0x1000 := (show rx (cc z) 2 = _ by decide)
    rw [h1, h2]
    exact load_check tag
  · rw [show areaWord (loadSt tag) 0x1000 16 = areaWord (areaSt tag) 0x1000 16 from rfl, area_word tag 16 (by omega)]
    exact (show memBad z 0x1000 (wd (rdLE area0 (0x1000 + 16) 8)).toNat = false by decide)
  · have h1 : (areaRes (loadSt tag) 0x1000).cid = 1 := congrArg (·.cid) (area_res tag)
    have h2 : (wd (rdLE area0 (0x1000 + 32) 8)).toNat = 0 := by decide
    have h3 : (wd (rdLE area0 (0x1000 + 16) 8)).toNat - 48 = 528 := by decide
    have e : ∀ o, areaWord (loadSt tag) 0x1000 o = areaWord (areaSt tag) 0x1000 o := fun _ => rfl
    rw [h1, e, e, e, area_tag, area_word tag 16 (by omega), area_word tag 32 (by omega), show (loadSt tag).mem = (areaSt tag).mem from rfl,
      area_bytes tag _ _ (by omega), area_bytes tag _ _ (by omega), h2, h3, ← hg]
    rfl

theorem test_meets_SupervisorInstructions_killed :
    let s := { loadSt 0 with ops := [load0, { tok := 4, kind := 0, core := 0, cid := 1, left := [] }] }
    loadOp s = some load0 ∧ killing s load0.cid = true := by decide

/-! Host windows, device registers and translation -/

/-- A submission record that the window accepts: version 1 and nothing else set. -/
def rec0 : List Byte := List.replicate 32 0 ++ [1] ++ List.replicate 31 0

theorem test_meets_HostAndRegisters_window :
    (let s := sup k0
     rec0.length = 64 ∧ 0x7C0 % 64 = 0 ∧ 0x7C0 < 0x800 ∧ 0 < mgetD (dieAt s 0).cred 1 64 ∧ recBad (leWords 8 rec0) = false ∧
     ctxFree (ctxOf s 1) = false ∧ s.boot.state ≠ 3 ∧ mgetD (dieAt s 0).cred 4095 64 = 64 ∧ ctxFree (ctxOf s 4095) = true) ∧
    recBad (leWords 8 (List.replicate 64 0)) = true := by decide

theorem test_meets_HostAndRegisters_registers :
    regAt 0x1004 = .counter 0 ∧ 0x1004 % 8 ≠ 0 ∧
    regAt 8 = .none_ ∧ regAt 0 = .boot ∧ regAt 0x2248 = .port 18 1 ∧ regAt 0x10000 = .thr 0 0 ∧ regAt 0x10008 = .thr 0 1 ∧ regAt 0x103E8 = .thr 31 1 ∧ regAt (3 * 2 ^ 32 + 0x3FFC0) = .qreg 4095 0 ∧
    regAt (3 * 2 ^ 32 + 0x48) = .qreg 1 1 ∧ regAt (4 * 2 ^ 32 + 0x1FFFFFF0) = .peer 4095 4095 2 ∧ 0x103E8 % 8 = 0 := by decide

theorem test_meets_HostAndRegisters_windows :
    (let v : Word := 0x5000000000008000
     let s := { st k0 with adjs := [{ cid := 1, inc := 2, num := 1, nelem := 0, blkshift := 0, off := 0, nbr := 0, map := 0, recAddr := 0, pages := [(0x1000000, 0x1000000)] }] }
     fld v 63 62 = 1 ∧ fld v 60 59 = 2 ∧ fld (0x7800000000000000 : Word) 60 59 = 3 ∧ pinned s (fld v 55 15 * 2 ^ 15 / 2 ^ 33 * 2 ^ 33) (2 ^ 33) = true ∧
     pinned s (fld (0x4000000000008000 : Word) 55 15 * 2 ^ 15) (2 ^ 15) = false) ∧
    (let p : Packet := { src := 0, dst := 0, cls := 1, cid := 1, inc := 2, body := .load 0x8008 8 9 }
     let w : MigWin := { w0 := 0x4000000000008000, w1 := 0x0000000000018000, held := [p] }
     agChip (homeOf (st k0) 0 (fld w.w1 55 15 * 2 ^ 15 + (0x8008 - (migPage w).1) % (migPage w).2)) = (st k0).chip) := by decide

/-- A request of context 1 at an RTU, of the core that waits for it. -/
def req0 : XReq := { agent := 0, core := 0, cls := 1, cid := 1, inc := 0, va := 0x1234, acc := 0, tok := 9, pkt := none, rp := none }

/-- The package with RTU 0 of die 0 as given, and core 0 waiting for its translation. -/
def rtuSt (r : Rtu) : State := updRtu (mapped (st { k0 with wait := .xl 9 })) 0 0 fun _ => r

def tlb0 : TlbE := { cid := 1, va := 0, size := 2 ^ 33, pa := 0, part := 0, pid := 0, rd := true, wr := true, at_ := true, unc := false, rpmask := 0 }

theorem test_meets_TranslationSteps_request :
    (let r : Rtu := { queue := [req0], tlb := [tlb0] }
     let s := updDie (rtuSt r) 0 fun d => { d with incTab := [(1, 0)] }
     (rtuAt s 0 0).queue = [req0] ∧ rtuWaits r req0 = false ∧ incOk s (rtuAgent 0 0) 1 0 = true ∧ r.walkers = [] ∧ tlbHit r req0 = some tlb0 ∧ AtIssue s req0 ∧
     tlbHit { r with tlb := [] } req0 = none ∧ heldWalk r req0 = none ∧ r.walkers.length < 8) := by unfold AtIssue; decide

/-- A walker at a level and a node for that request, and the package in which it stands. -/
def walker0 (lvl node : Nat) : Walker := { cid := 1, va := 0x1234, lvl := lvl, node := node, reqs := [req0] }
def walkSt (lvl node : Nat) : State := rtuSt { walkers := [walker0 lvl node] }

theorem test_meets_TranslationSteps_walk :
    (let s := walkSt 1 0x20000
     let r := rtuAt s 0 0
     let w := walker0 1 0x20000
     r.walkers[0]? = some w ∧ w.reqs = req0 :: [] ∧ AtIssue s req0 ∧ r.wcache = [] ∧ w.moved = [] ∧ r.fslots = [] ∧
     (∀ a ∈ walkReads s (movedTo w.moved) w.cid w.va w.lvl w.node (s2Held r (ctxPart (ctxOf s w.cid)) w.node), paChip a = s.chip → migHeld s (paDie a) a = none) ∧
     walkAt s r w req0 = .more 0x22000 ∧
     (let s' := updDie s 0 fun d => { d with mig := d.mig.set 0 { w0 := 0x4000000000020000 } }
      ∃ a ∈ walkReads s' (movedTo w.moved) w.cid w.va w.lvl w.node (s2Held r (ctxPart (ctxOf s' w.cid)) w.node), paChip a = s'.chip ∧ migHeld s' (paDie a) a ≠ none)) ∧
    (let s := walkSt 3 0x24000; (match walkAt s (rtuAt s 0 0) (walker0 3 0x24000) req0 with | .ok _ => true | _ => false) = true) ∧
    (let s := walkSt 5 0x22000; walkAt s (rtuAt s 0 0) (walker0 5 0x22000) req0 = .xlate) ∧
    (let s := walkSt 1 0x300000000
     (match walkAt s (rtuAt s 0 0) (walker0 1 0x300000000) req0 with | .fault k _ _ _ => decide (k ≠ 1) | _ => false) = true) := by unfold AtIssue; decide

def fslot0 : FSlot := { idx := 15, kind := 1, level := 3, why := 0, seq := 0xFFF, va := 0x1234, paddr := 0, cid := 1, inc := 0, acc := 0, reqs := [req0], since := 5 }

theorem test_meets_TranslationSteps_resolve :
    (let s := rtuSt { fslots := [fslot0] }
     let v : Word := 0x400000000000FFFF
     ((rtuAt s 0 0).fslots.find? fun f => decide (f.idx = fld v 15 12)) = some fslot0 ∧ fld v 22 16 = 0 ∧ fslot0.seq = fld v 11 0 ∧ fld v 63 62 = 1 ∧
     (∀ q ∈ fslot0.reqs, q.cls ≠ 9) ∧ AtIssue s req0 ∧ fld (0x800000000000FFFF : Word) 63 62 = 2 ∧ fslot0.seq ≠ fld (0x800000000000F000 : Word) 11 0 ∧
     fld (0x800000000000F000 : Word) 15 12 = 15 ∧ fld (0x400000000000F000 : Word) 11 0 ≠ fslot0.seq) ∧
    (let s := { rtuSt { fslots := [{ fslot0 with kind := 3 }] } with now := 160000005 }
     160000000 ≤ s.now - fslot0.since ∧ AtIssue s req0 ∧ ({ fslot0 with kind := 3 } : FSlot).kind ≠ 1) ∧ (st k0).now - fslot0.since < 160000000 := by
  unfold AtIssue; decide

theorem test_meets_TranslationSteps_invalidate :
    (let o : Op := { tok := 4, kind := 2, core := 0, cid := 1, left := [0], todo := [0] }
     let s := { rtuSt { tlb := [tlb0] } with ops := [o] }
     (s.ops.find? fun x => decide (x.tok = o.tok ∧ x.kind = 2 ∧ 0 * 128 + 0 ∈ x.todo)) = some o ∧ invDrain o = false ∧ tlbGone o tlb0 = true) ∧
    (let s := rtuSt { invs := [(4, []), (5, [(0, 9)])] }
     ((rtuAt s 0 0).invs.find? fun x => decide (x.1 = 4)) = some (4, []) ∧ ((rtuAt s 0 0).invs.find? fun x => decide (x.1 = 5)) = some (5, [(0, 9)])) ∧
    stillAwaited (st { k0 with out := [{ tok := 9, rd := 1, kind := .stg, g := 0 }] }) (0, 9) = true ∧
    (let o : Op := { tok := 4, kind := 2, core := 0, cid := 1, left := [0], back := [0] }
     let s := { st { k0 with wait := .sup 4 } with ops := [o] }
     (s.ops.find? fun x => decide (x.tok = o.tok ∧ x.kind = 2 ∧ 0 * 128 + 0 ∈ x.back)) = some o ∧ opOf s o.tok = some o ∧ o.left = [0 * 128 + 0] ∧
     o.org = none ∧ o.asked = none ∧ (coreOf s o.core).wait = .sup o.tok) := by decide

/-! The links -/

/-- An idle flit of sequence number 4095 as sent, and the same with a payload byte damaged. -/
def flit0 : Flit := sealFlit { lseq := 4095, ackseq := 7, kind := 1, payload := List.replicate 240 0 }
def flit1 : Flit := { flit0 with payload := 1 :: List.replicate 239 0 }
def flit5 : Flit := sealFlit { lseq := 4095, kind := 5, payload := List.replicate 240 0 }

/-- An answer to the request for increment 1 of flit 4095 that carries no check values. -/
def inc1 : Flit := sealFlit { kind := 2, payload := [0xFF, 0x0F, 1] }
def recov1 : Recov := { lseq := 4095, flit := flit1, first := 5, asked := 5 }

/-- The package with port 17 of die 1 as given. -/
def portSt (p : Port) : State := updPort (st k0) 49 fun _ => p

theorem test_meets_LinkSteps_flits :
    crcOk flit0 = true ∧ crcOk flit1 = false ∧ crcOk flit5 = true ∧ 5 ≤ flit5.kind ∧ flit0.kind ≤ 1 ∧ flit0.rsv = 0 ∧ crcOk inc1 = true ∧ inc1.kind = 2 ∧
      inc1.rsv = 0 ∧ recov1.lseq = leNat (inc1.payload.take 2) ∧ (inc1.payload.getD 2 0).toNat = recov1.step ∧ recov1.step = 1 ∧ recov1.inc1 = none ∧
      (let cs := (inc1.payload.drop 16).take 32
       correct flit0 ((cs.take 16).map (·.toNat)) (((cs.drop 16).take 16).map (·.toNat)) = some flit0 ∧
       correct recov1.flit ((cs.take 16).map (·.toNat)) (((cs.drop 16).take 16).map (·.toNat)) = none) := by decide +kernel

/-- A recovery whose repaired flit is whole, one whose repaired flit is a protocol error, and the flit that brings their first increments. -/
theorem test_meets_LinkSteps_repairs :
    (let cs := (inc1.payload.drop 16).take 32
     let fixed := fun (r : Recov) => correct r.flit ((cs.take 16).map (·.toNat)) (((cs.drop 16).take 16).map (·.toNat))
     let good := { recov1 with flit := flit0 }
     let bad := { recov1 with flit := flit5 }
     fixed good = some flit0 ∧ flitBad flit0 = false ∧ fixed bad = some flit5 ∧ flitBad flit5 = true ∧ fixed recov1 = none ∧
     good.lseq = leNat (inc1.payload.take 2) ∧ (inc1.payload.getD 2 0).toNat = good.step ∧ good.step = 1 ∧ good.inc1 = none) ∧
    (let r2 : Recov := { recov1 with step := 2, inc1 := some (List.replicate 32 0) }; r2.step = 2 ∧ (r2.inc1.getD []).length = 32) := by decide +kernel

theorem test_meets_LinkSteps_ports :
    (let p : Port := { state := 3, rxSeq := 4095 }
     let s := portSt p
     isPort 49 = true ∧ isLink 49 = true ∧ portUp (portOf s 49) = true ∧ p.recov = [] ∧ p.held = [] ∧ flit0.lseq = p.rxSeq ∧ p.rxSeq < 4096 ∧
     p.recov.length < 8 ∧ flit0.lseq ≠ wantSeq { p with rxSeq := 0 }) ∧
    (isLink 50 = true ∧ 50 % 32 = 18 ∧ portUp (portOf (updPort (st k0) 50 fun _ => { state := 2 }) 50) = true ∧ portUp (portOf (st k0) 0) = false ∧ isLink 19 = false) ∧
    (let p : Port := { state := 2, rxSeq := 4094, recov := [{ recov1 with lseq := 4094 }] }
     flit0.lseq = wantSeq p ∧ flit0.lseq ≠ p.rxSeq ∧ (∀ x ∈ p.held, x.lseq ≠ p.rxSeq) ∧ p.held.length < 64 ∧ 64 ≤ (List.replicate 64 flit0).length ∧
     p.recov.find? (fun r => decide (r.lseq = flit0.lseq ∧ r.step = 3)) = none) ∧
    (let r : Recov := { recov1 with step := 3 }
     let p : Port := { state := 2, recov := [r] }
     p.recov.find? (fun r => decide (r.lseq = flit1.lseq ∧ r.step = 3)) = some r ∧ r.replays = 0 ∧ 1 ≤ ({ r with replays := 1 } : Recov).replays) ∧
    (let p : Port := { state := 2, recov := List.replicate 8 { recov1 with lseq := 1 } }
     portUp (portOf (portSt p) 49) = true ∧ p.recov.find? (fun r => decide (r.lseq = flit1.lseq ∧ r.step = 3)) = none ∧ 8 ≤ p.recov.length) ∧
    (let p : Port := { state := 2, replay := [{ flit := flit0, pkts := [] }], recov := [recov1] }
     portUp (portOf (portSt p) 49) = true ∧ p.replay.find? (fun y => decide (y.flit.lseq = 4095)) = some { flit := flit0, pkts := [] } ∧ p.recov = [recov1] ∧
     p.replay.find? (fun y => decide (y.flit.lseq = 1)) = none ∧ p.recov.find? (fun r => decide (r.step < 3) && !r.again) = some recov1 ∧
     p.recov.find? (fun x => decide (x.lseq = 4095)) = some recov1 ∧ recov1.again = false ∧ 1600 ≤ 1605 - recov1.asked ∧ 9600 ≤ 9605 - recov1.first) := by
  decide +kernel

theorem test_meets_LinkSteps_training :
    (portOf (portSt { state := 0 }) 49).state = 0 ∧ isLink 49 = true ∧ (portOf (portSt { state := 2 }) 49).state ≠ 0 ∧
    (let q : Packet := { dst := 1 * 65536, cls := 1, seq := 6, len := 256, body := .load 0 8 1 }
     let x : TxFlit := { flit := flit0, pkts := [q] }
     let u : E2eOut := { seq := 6, pkt := q, sent := 0, resends := 2 }
     let s := { portSt { state := 1, trainAt := 5, replay := [x] } with now := 80006, e2e := [(e2eKey 1 1, { unacked := [u] })], egress := [q] }
     (portOf s 49).state = 1 ∧ 80000 < s.now - (portOf s 49).trainAt ∧ (portOf s 49).replay = [x] ∧ x.pkts = [q] ∧ q.mcast = false ∧ q.comb = false ∧ q.cls ≠ 5 ∧
     (e2eOf s (e2eKey (agChip q.dst) q.cls)).unacked.find? (fun u => decide (u.seq = q.seq)) = some u ∧ u.resends < 3 ∧ s.egress[0]? = some q ∧
     portUp (portOf s 49) = false) ∧
    (let s := { portSt { state := 1, trainAt := 5 } with now := 80005 }; s.now - (portOf s 49).trainAt ≤ 80000 ∧ (portOf s 49).replay = []) := by decide +kernel

/-- A packet of the greatest length at the last place that the replay buffer has room for, with and without its credits; a port that sends an idle flit because
nothing waits, and one whose buffer is full of data. -/
theorem test_meets_LinkSteps_inject :
    (let q : Packet := { cls := 1, len := 256, body := .load 0 8 1 }
     let p : Port := { state := 2, credits := [(1, 257)], replay := List.replicate 494 { flit := {}, pkts := [] } }
     let s := { portSt p with egress := [q] }
     let ps := q :: (takeClass q.cls 0 []).1
     s.egress.drop 0 = q :: [] ∧ portUp (portOf s 49) = true ∧ dataHeld p < 512 ∧ dataHeld p + flitCount ps ≤ 512 ∧ p.replay.length + flitCount ps ≤ 2048 ∧
     granules ps ≤ mgetD p.credits q.cls 0 ∧ mgetD ({} : Port).credits q.cls 0 < granules ps ∧ s.egress.drop 1 = []) ∧
    (let p : Port := { state := 2, replay := List.replicate 512 { flit := {}, pkts := [] } }
     512 ≤ dataHeld p ∧ p.replay.length < 2048) := by decide +kernel

/-! The fabric -/

/-- The package with chip 1 in its domain and incarnation 2 of context 1 known on both dies. -/
def fab (k : Core) : State :=
  let s := { st k with domain := [0, 1], ctxs := [(1, { w0 := 0x4000002000000000 })], spans := [(0, [0, 1])] }
  updDie (updDie s 0 fun d => { d with incTab := [(1, 2)] }) 1 fun d => { d with incTab := [(1, 2)] }

/-- A message of chip 1 to core 0. -/
def far0 : Packet := { src := 65536, dst := 0, cls := 2, op := 8, cid := 1, inc := 2, seq := 0xFFFFFF, len := 3, body := .msg {} [1, 2, 3] false }

theorem test_meets_EndToEndDelivery_arrive :
    (let s := { fab k0 with e2e := [(e2eKey 1 2, { rxNext := 0xFFFFFF })] }
     let e := e2eOf s (e2eKey (agChip far0.src) far0.cls)
     agChip far0.dst = s.chip ∧ agChip far0.src ∈ s.domain ∧ agChip far0.src ≠ s.chip ∧ far0.mcast = false ∧ far0.comb = false ∧
     (far0.seq + 2 ^ 24 - e.rxNext) % 2 ^ 24 = 0 ∧ mget e.rxHeld ((e.rxNext + 1) % 2 ^ 24) = none ∧ far0.rsv = 0 ∧ far0.len ≤ 256 ∧ far0.kinfo = none ∧
     (mget (dieAt s (agDie far0.dst)).incTab far0.cid).isSome = true ∧ incOk s (fabOf s (agDie far0.dst)) far0.cid far0.inc = true ∧
     (1022 + 2 ^ 24 - e.rxNext) % 2 ^ 24 = 1023 ∧ (1023 + 2 ^ 24 - e.rxNext) % 2 ^ 24 = 1024 ∧ opClass 0x0A ≠ some 2 ∧ e.ackDue < 31 ∧
     31 ≤ (e2eOf { fab k0 with e2e := [(e2eKey 1 1, { ackDue := 31 })] } (e2eKey 1 1)).ackDue) := by decide

theorem test_meets_EndToEndDelivery_acks :
    (let u : E2eOut := { seq := 0xFFFFFF, pkt := { src := 0, dst := 65536, cls := 2, tok := 4, body := .msg {} [] false }, sent := 5, resends := 3 }
     let s := { fab k0 with now := 800005, e2e := [(e2eKey 1 2, { unacked := [u], ackDue := 16 }), (e2eKey 1 4, { ackDue := 1 })] }
     let e := e2eOf s (e2eKey 1 2)
     e.ackDue ≠ 0 ∧ (e2eOf s (e2eKey 1 4)).ackDue ≠ 0 ∧ (e2eOf s (e2eKey 1 3)).ackDue = 0 ∧ e.unacked = [u] ∧ (nicAt s 0).wrqs = [] ∧ (nicAt s 1).wrqs = [] ∧ e.waiting = [] ∧ isRedTok u.pkt.tok = false ∧
     (0 + 2 ^ 24 - u.seq - 1) % 2 ^ 24 < 2 ^ 23 ∧ 2 ^ 23 ≤ (0xFFFFFF + 2 ^ 24 - u.seq - 1) % 2 ^ 24 ∧ agChip u.pkt.src = s.chip ∧ agIsCore u.pkt.src = true ∧
     isEng u.pkt.tok = false ∧ e.unacked.find? (fun x => decide (x.seq = 0xFFFFFF)) = some u ∧ 800000 ≤ s.now - u.sent ∧ 3 ≤ u.resends) ∧
    (let u : E2eOut := { seq := 0, pkt := { src := 0, dst := 65536, cls := 0, cid := 1, inc := 2, body := .load 0 8 1 }, sent := 5, resends := 2 }
     let q : Packet := { src := 0, dst := 65536, cls := 0, cid := 1, inc := 2, body := .load 8 8 2 }
     let s := { fab k0 with e2e := [(e2eKey 1 0, { unacked := [u], waiting := [q] })] }
     (e2eOf s (e2eKey 1 0)).unacked = [u] ∧ (e2eOf s (e2eKey 1 0)).waiting = [q] ∧ agChip q.dst = 1 ∧ incOk s u.pkt.src u.pkt.cid u.pkt.inc = true ∧ (1 + 2 ^ 24 - u.seq - 1) % 2 ^ 24 < 2 ^ 23 ∧ u.pkt.cls = 0 ∧ u.pkt.body = .load 0 8 1 ∧ s.now - u.sent < 800000 ∧
     u.resends < 3) := by decide

theorem test_meets_EndToEndDelivery_fence :
    (let q : Packet := { src := 65536, dst := 0x7000, cls := 1, op := 0x18, cid := 1, inc := 2, body := .marker 3 9 }
     let s := { fab k0 with chans := [{ src := 65536, dst := fabOf (fab k0) 0, cls := 1, q := [q] }] }
     chanQ s 65536 (fabOf s 0) 1 = q :: [] ∧ incOk s (fabOf s 0) q.cid q.inc = true ∧ agChip q.src ≠ s.chip ∧ canSend s q.src 4 = true ∧ storeBefore s 1 0 q.seq = false ∧
     (let z : Packet := { src := 65536, dst := fabOf s 0, cls := 1, op := 2, cid := 1, inc := 2, seq := 5, body := .store 0x1000 8 0 false 1 }
      storeBefore { s with chans := [{ src := 65536, dst := niOf s 0, cls := 1, q := [z] }] } 1 0 6 = true)) ∧
    (let q : Packet := { src := 0x17000, dst := 0, cls := 4, op := 0x19, cid := 1, inc := 2, body := .fenceack 9 0x2A }
     let o : OutE := { tok := 9, rd := 0, kind := .marker, g := 5 }
     let s := { fab { k0 with out := [o] } with chans := [{ src := 0x17000, dst := niOf (fab k0) 0, cls := 4, q := [q] }] }
     chanQ s 0x17000 (niOf s 0) 4 = q :: [] ∧ incOk s (niOf s 0) q.cid q.inc = true ∧ ((coreOf s 0).out.find? fun o => decide (o.tok = 9)) = some o) ∧
    (∀ kv ∈ (fab k0).cores, ∀ e ∈ (coreOf (fab k0) kv.1).ends, e.state = 7 ∨
      (reState (rankEntry (fab k0) e.ocid e.peerRank) ≠ 1 ∧ reState (rankEntry (fab k0) e.ocid e.peerRank) ≠ 3)) ∧
    (let x : EndRec := { scid := 1, sid := 9, kind := 0, slot := 0, state := 1, ocid := 1, oinc := 2, peerRank := 5 }
     let k := { k0 with ends := [x] }
     let s := { fab k with ranks := [(65541, 0x4010000000000000)] }
     s.cores = [(0, k)] ∧ k.ends = [x] ∧ x.kind = 0 ∧ x.state ≠ 3 ∧ x.state ≠ 5 ∧ x.state ≠ 7 ∧ reState (rankEntry s x.ocid x.peerRank) = 1 ∧
     reChip (rankEntry s x.ocid x.peerRank) = 1) := by decide

/-- A multicast packet of chip 1 with one word for rank 5 on this chip, and its pair. -/
def mop0 : MOperand := { rankbase := 5, offset := 0x2FF8, mask := 1 }
def mc0 : Packet := { src := 65536, cls := 1, op := 6, cid := 1, inc := 2, seq := 77, mcast := true, body := .mdata 77 [0, 2] mop0 [(0x55, false)] none }
def pair0 : LeafPair := { src := 65536, mtag := 77, since := 5, drop := false, due := true }

theorem test_meets_MulticastAndCombining_copies :
    (let s := { fab k0 with switches := [(3, { routes := [(0, 1), (2, 4)], reps := [{ src := 65536, mtag := 78, left := [1, 2], since := 5 }, { src := 65536, mtag := 79, left := [1], since := 5 }] })] }
     mc0.mcast = true ∧ onWire s mc0 (agChip mc0.src) = true ∧ (∃ x ∈ destChips mc0, (mget (swOf s 3).routes x).isSome = true) ∧ (swOf s 3).reps.length < 4096 ∧ (∃ r ∈ (swOf s 3).reps, r.src = 65536 ∧ r.mtag = 78) ∧
     (swOf s 3).reps.find? (fun r => decide (r.src = 65536 ∧ r.mtag = 78 ∧ 9 ∈ r.left)) = none ∧
     s.chip ∈ destChips mc0 ∧
     (swOf s 3).reps.find? (fun r => decide (r.src = 65536 ∧ r.mtag = 78 ∧ 2 ∈ r.left)) = some { src := 65536, mtag := 78, left := [1, 2], since := 5 } ∧
     (swOf s 3).reps.find? (fun r => decide (r.src = 65536 ∧ r.mtag = 79 ∧ 1 ∈ r.left)) = some { src := 65536, mtag := 79, left := [1], since := 5 }) ∧
    (let s := { fab k0 with pairs := [pair0, { pair0 with mtag := 78, due := false }] }
     pairOfTag s 65536 77 = some pair0 ∧ pair0.due = true ∧ pairOfTag s 65536 78 = some { pair0 with mtag := 78, due := false }) ∧
    incOk (st k0) (fabOf (st k0) 0) 1 2 = false ∧ badPacket { mc0 with rsv := 1 } = true ∧
    (let s := { fab { k0 with slots := (Vector.replicate 4 {}).set 0 { slot0 with resident := some { cid := 1, inc := 2, rank := 5 } } } with
                ranks := [(65541, 0x4000000000000000)] }
     let en := rankEntry s 1 5
     pairOfTag s 65536 77 = none ∧ badPacket mc0 = false ∧ incOk s (fabOf s 0) mc0.cid mc0.inc = true ∧ operandRanks mop0 = [5] ∧ mop0.offset < 2 ^ 19 ∧ reState en = 1 ∧
     reChip en = s.chip ∧ incOk s (niOf s (reCore en)) mc0.cid mc0.inc = true ∧ niRefusal s (reCore en) (reSlot en) mc0.src mop0.offset 8 true = none ∧
     Memory.wf (coreOf s (reCore en)).lm = true) := by decide

theorem test_meets_MulticastAndCombining_waits :
    4096 ≤ (swOf { fab k0 with switches := [(3, { routes := [(0, 1)], reps := List.replicate 4096 { src := 0, mtag := 0, left := [1, 2], since := 5 } })] } 3).reps.length ∧
    (mget (swOf { fab k0 with switches := [(3, { routes := [(0, 1)] })] } 3).routes 0).isSome = true ∧
    1024 ≤ (swOf { fab k0 with switches := [(3, { routes := [(0, 2 ^ 32)], groups := List.replicate 1024 { c := { gid := 9 }, got := [], since := 5 } })] } 3).groups.length ∧
    isRoot { routes := [(0, 2 ^ 32)] } { chips := [0, 1] } = true := by decide +kernel

/-- This chip's multicast packets that await their BFACKs: one of a COPY.M to chip 2, and one that is a combining result. -/
def mo0 : MOut := { mtag := 77, src := 0, cid := 1, inc := 2, core := 0, tok := 2 ^ 60, pkt := { mc0 with src := 0, body := .mdata 77 [2] mop0 [(0x55, false)] none }, sent := 5, resends := 3 }

theorem test_meets_MulticastAndCombining_source :
    (let s := { fab k0 with now := 800005, mouts := [mo0, { mo0 with mtag := 78, tok := 3, resends := 2, sent := 6 }] }
     s.mouts.find? (fun m => decide (m.src = 0 ∧ m.mtag = 77) && m.uni.isNone) = some mo0 ∧ s.chip ∉ destChips mo0.pkt ∧
     (∀ x ∈ s.switches, ∀ r ∈ x.2.reps, ¬ (r.src = 0 ∧ r.mtag = 77)) ∧ 800000 ≤ s.now - mo0.sent ∧ 3 ≤ mo0.resends ∧ isEng mo0.tok = true ∧
     mo0.pkt.body = .mdata 77 [2] mop0 [(0x55, false)] none ∧ 2 ≠ s.chip ∧ canSend s (2 * 65536) 1 = true ∧ s.now - 6 < 800000 ∧
     isEng ({ mo0 with mtag := 78, tok := 3 } : MOut).tok = false) ∧
    (let s := { fab k0 with mouts := [{ mo0 with resends := 2 }], now := 800005, switches := [(3, { reps := [{ src := 0, mtag := 77, left := [1], since := 5 }] })] }
     s.mouts.find? (fun m => decide (m.src = 0 ∧ m.mtag = 77) && m.uni.isNone) = some { mo0 with resends := 2 } ∧
     (∃ x ∈ s.switches, ∃ r ∈ x.2.reps, r.src = 0 ∧ r.mtag = 77) ∧ ({ mo0 with resends := 2 } : MOut).resends < 3) := by decide

/-- Two chips' contributions to one round, and one that disagrees. -/
def cb0 : Contrib := { cid := 1, inc := 2, gid := 4, round := 6, op := 0, typ := 2, len := 1, pmask := 3, chips := [0, 1], chip := 0, vals := [5] }
def cb1 : Contrib := { cb0 with chip := 1, vals := [7] }

theorem test_meets_MulticastAndCombining_groups :
    (let p : Packet := { cls := 6, op := 0x1C, comb := true, body := .contrib cb1 }
     let g : CombG := { c := cb0, got := [cb0], since := 5 }
     let s := { fab k0 with wire := [p], switches := [(3, { routes := [(0, 2 ^ 32)], groups := [g] }), (4, { routes := [(0, 1)] }), (5, { routes := [(0, 2 ^ 32)] })], now := 16000005 }
     s.wire.find? (fun q => decide (q.body = .contrib cb1)) = some p ∧ incOk s (fabOf s 0) cb1.cid cb1.inc = true ∧ incOk { s with dies := State.reset.dies } (fabOf s 0) 1 2 = false ∧ isRoot (swOf s 4) cb1 = false ∧ cb1.arr = false ∧ isRoot (swOf s 3) cb1 = true ∧
     isRoot (swOf s 5) cb1 = true ∧ (swOf s 5).groups.find? (fun g => sameGroup g.c cb1) = none ∧ (swOf s 5).groups.length < 1024 ∧
     (∃ x ∈ cb1.chips, x ∉ fromChips cb1) ∧ (swOf s 3).groups.find? (fun g => sameGroup g.c cb1) = some g ∧ g.sent = false ∧ g.bad = false ∧
     (∀ x ∈ fromChips cb1, x ∉ g.got.flatMap fromChips) ∧ agrees g.c cb1 = true ∧ (∀ x ∈ g.c.chips, x ∈ (g.got ++ [cb1]).flatMap fromChips) ∧
     (swOf s 3).groups.find? (fun g => decide (g.c.cid = 1 ∧ g.c.gid = 4 ∧ g.c.round = 6) && !g.sent) = some g ∧ 16000000 ≤ s.now - g.since ∧
     (fab k0).now - g.since < 16000000) ∧
    (let c2 : Contrib := { cb1 with op := 1, chips := [0, 1] }
     let g : CombG := { c := { cb0 with pmask := 7, chips := [0, 1, 2] }, got := [cb0], since := 5 }
     sameGroup g.c c2 = true ∧ agrees g.c c2 = false ∧ (∃ x ∈ g.c.chips, x ∉ g.got.flatMap fromChips ∧ x ∉ fromChips c2) ∧
     isRoot { routes := [(0, 2 ^ 32)] } c2 = true ∧ (∀ x ∈ fromChips c2, x ∉ g.got.flatMap fromChips)) := by decide

/-! Boot, kill and reclaim. The digests and signatures are constants with no body (log 8), so the records that boot accepts are witnessed from what a signer gives. -/

/-- A flash whose floor is properly tagged, and one whose floor is not. -/
def flashSt (f : Flash) : State := { State.reset with flash := { f with floorMac := Config.tagOf (floorKey State.reset) [] } }

theorem test_meets_Boot_fails :
    (let s := { State.reset with flash := { floorMac := 0 :: Config.tagOf (floorKey State.reset) [] } }
     ¬ s.flash.floorMac = Config.tagOf (floorKey s) s.flash.floor) ∧
    (let s := flashSt {}; s.boot.state = 0 ∧ s.flash.floorMac = Config.tagOf (floorKey s) s.flash.floor) := by
  constructor
  · intro s h
    exact absurd (congrArg List.length (show 0 :: Config.tagOf (floorKey State.reset) [] = Config.tagOf (floorKey State.reset) [] from h))
      (by rw [List.length_cons]; omega)
  · exact ⟨rfl, rfl⟩

theorem test_meets_Boot_refused :
    (let s := { State.reset with flash := { floor := [1], floorMac := Config.tagOf (floorKey State.reset) [1] } }
     s.flash.floorMac = Config.tagOf (floorKey s) s.flash.floor ∧
     ¬ (Config.sm2Verify Config.nerralKey (Config.sm3 s.flash.fw) s.flash.fwSig = true ∧ floorFw s ≤ s.flash.fwVersion)) ∧
    cfgOk (flashSt {}) [] = false := by
  refine ⟨⟨rfl, ?_⟩, ?_⟩
  · rintro ⟨-, h⟩
    exact absurd h (by decide)
  · simp [cfgOk]

/-- A failure of the image leaves the ownership check unreached; the ownership record of another device fails it. -/
theorem test_meets_Boot_owner (fs : List Byte) (hlen : ∀ m, (Config.sm3 m).length = 32) (hf : Config.sm2Verify Config.nerralKey (Config.sm3 []) fs = true) :
    let s := flashSt { fwSig := fs }
    s.boot.state = 0 ∧ (Config.sm2Verify Config.nerralKey (Config.sm3 s.flash.fw) s.flash.fwSig = true ∧ floorFw s ≤ s.flash.fwVersion) ∧
    ¬ (Config.sm2Verify Config.nerralKey (Config.sm3 s.flash.owner) s.flash.ownerSig = true ∧ ownerDevid s = deviceId s) ∧
    cfgOk s s.flash.cfgA = false ∧ cfgOk s s.flash.cfgB = false := by
  refine ⟨rfl, ⟨hf, Nat.zero_le _⟩, ?_, by simp [cfgOk, flashSt], by simp [cfgOk, flashSt]⟩
  rintro ⟨-, h⟩
  have : (ownerDevid (flashSt { fwSig := fs })).length = 32 := by rw [h]; exact hlen _
  exact absurd (show (([] : List Byte).drop 64 |>.take 32).length = 32 from this) (by decide)

/-- A configuration record of the package's device without partitions. -/
def head1 : List Byte := leBytes 4 0x4E434647 ++ leBytes 4 9
def rec1 : List Byte := head1 ++ (deviceId State.reset ++ List.replicate 27 0)

/-- With digests of 32 bytes, a signed image, a signed ownership record and a signed configuration record, all of boot's checks pass. -/
theorem test_meets_Boot_passes (hlen : ∀ m, (Config.sm3 m).length = 32) (fs os cs : List Byte) (hcs : cs.length = 64)
    (hf : Config.sm2Verify Config.nerralKey (Config.sm3 []) fs = true)
    (ho : Config.sm2Verify Config.nerralKey (Config.sm3 (List.replicate 64 0 ++ deviceId State.reset)) os = true)
    (hc : Config.sm2Verify (List.replicate 64 0) (Config.sm3 rec1) cs = true) :
    let s := flashSt { fwSig := fs, owner := List.replicate 64 0 ++ deviceId State.reset, ownerSig := os, cfgA := rec1 ++ cs }
    s.flash.floorMac = Config.tagOf (floorKey s) s.flash.floor ∧
    (Config.sm2Verify Config.nerralKey (Config.sm3 s.flash.fw) s.flash.fwSig = true ∧ floorFw s ≤ s.flash.fwVersion) ∧
    (Config.sm2Verify Config.nerralKey (Config.sm3 s.flash.owner) s.flash.ownerSig = true ∧ ownerDevid s = deviceId s) ∧
    cfgPick s = some (rec1 ++ cs, 0) := by
  have hd : (deviceId State.reset).length = 32 := hlen _
  have ha : head1.length = 8 := by decide
  generalize hs : flashSt { fwSig := fs, owner := List.replicate 64 0 ++ deviceId State.reset, ownerSig := os, cfgA := rec1 ++ cs } = s
  have hid : deviceId s = deviceId State.reset := by subst hs; rfl
  have hrec : ∀ n, 40 ≤ n → (rec1 ++ cs).drop n = (List.replicate 27 0 ++ cs).drop (n - 40) := by
    intro n hn
    rw [rec1, List.append_assoc, List.append_assoc, List.drop_append, ha, List.drop_of_length_le (by omega), List.nil_append, List.drop_append, hd,
      List.drop_of_length_le (by omega), List.nil_append, show n - 8 - 32 = n - 40 by omega]
  have hz : ∀ (n m : Nat), 40 ≤ n → n + m ≤ 67 → cfgField (rec1 ++ cs) n m = 0 := by
    intro n m hn hm
    have h0 : ∀ k, leNat (List.replicate k (0 : Byte)) = 0 := by
      intro k
      induction k with
      | zero => rfl
      | succ k ih => rw [List.replicate_succ, leNat, ih]; rfl
    rw [cfgField, hrec n hn, List.drop_append, List.drop_replicate, List.take_append, List.take_replicate, List.length_replicate,
      show m - (27 - (n - 40)) = 0 by omega, List.take_zero, List.append_nil, h0]
  have hlow : ∀ (n m : Nat), n + m ≤ 8 → ((rec1 ++ cs).drop n).take m = (head1.drop n).take m := by
    intro n m h
    rw [rec1, List.append_assoc, List.drop_append, ha, List.take_append, List.length_drop, ha, show m - (8 - n) = 0 by omega, List.take_zero, List.append_nil]
  have hdev : ((rec1 ++ cs).drop 8).take 32 = deviceId State.reset := by
    rw [rec1, List.append_assoc, List.drop_append, ha, List.drop_of_length_le (by omega), List.nil_append, show 8 - 8 = 0 from rfl, List.drop_zero,
      List.append_assoc, List.take_append, hd, List.take_of_length_le (by omega)]
    simp
  have hn : rec1.length = 67 := by rw [rec1, List.length_append, List.length_append, ha, hd, List.length_replicate]
  have hok : cfgOk s (rec1 ++ cs) = true := by
    have h1 : cfgField (rec1 ++ cs) 0 4 = 0x4E434647 := by rw [cfgField, hlow 0 4 (by omega)]; decide
    have hk : ownerKey s = List.replicate 64 0 := by subst hs; show List.take 64 (List.replicate 64 0 ++ _) = _; rw [List.take_append]; simp
    have hfl : floorSerial s = 0 := by subst hs; exact (show leNat ((([] : List Byte).drop 4).take 4) = 0 by decide)
    have hu : s.flash.usedChips = [] := by subst hs; rfl
    simp [cfgOk, cfgParts, cfgChip, hz 66 1 (by omega) (by omega), hz 40 2 (by omega) (by omega), h1, hid, hdev, hk, hfl, hu, hn, hcs]
    simpa using hc
  have hno : cfgOk s [] = false := by simp [cfgOk]
  have hA : s.flash.cfgA = rec1 ++ cs := by subst hs; rfl
  have hB : s.flash.cfgB = [] := by subst hs; rfl
  refine ⟨by subst hs; rfl, ⟨by subst hs; exact hf, by subst hs; exact Nat.zero_le _⟩, ⟨by subst hs; exact ho, ?_⟩, ?_⟩
  · rw [hid]; subst hs
    show ((List.replicate 64 0 ++ deviceId State.reset).drop 64).take 32 = _
    rw [List.drop_append, List.length_replicate, List.drop_of_length_le (by simp), List.nil_append, show 64 - 64 = 0 from rfl, List.drop_zero,
      List.take_of_length_le (by omega)]
  · simp [cfgPick, hA, hB, hok, hno]

theorem test_meets_Attestation :
    (List.replicate 32 (0 : Byte)).length = 32 ∧ (st k0).boot.state = 1 ∧ State.reset.boot.state ≠ 1 ∧ State.reset.boot.state ≠ 3 := by decide

/-- The kill of incarnation 2 of context 1, which is now 3, with core 0's NI left. -/
def kill0 : Op := { tok := 4, kind := 0, core := 647, cid := 1, sample := 2, left := [0], todo := [0] }
def killSt (o : Op) (k : Core) : State :=
  updCore { stAt 647 { k0 with wait := .sup 4 } with ops := [o], ctxs := [(1, { w0 := 0x4004003000000000 })] } 0 fun _ => k

theorem test_meets_KillAndReclaim_kill :
    (let s := killSt kill0 { k0 with slots := (Vector.replicate 4 {}).set 3 { slot0 with resident := some { cid := 1, inc := 2, rank := 5 } } }
     s.ops.find? (fun o => decide (o.kind = 0 ∧ o.cid = 1 ∧ 0 ∈ o.todo)) = some kill0 ∧ ctxInc (ctxOf s 1) = 3 ∧ agKind 0 = 0 ∧
     (coreOf s (agCore 0)).act = some act0 ∧ act0.cid = 1 ∧ act0.inc = kill0.sample ∧ (coreOf s 0).twin = none ∧ (coreOf s 0).succ = none ∧ act0.gang = none ∧
     (slotOf (coreOf s 0) 3).resident = some { cid := 1, inc := 2, rank := 5 } ∧ ctxInc (ctxOf s 1) ≠ 2) ∧
    (agKind 0x4000 = 4 ∧ agKind 0x6000 = 6 ∧ agIdx 0x6000 = 0 ∧ agKind 0x7100 = 7 ∧ 256 ≤ agIdx 0x7100) ∧
    (let o : Op := { kill0 with todo := [], back := [0] }
     let s := killSt o k0
     s.ops.find? (fun o => decide (o.kind = 0 ∧ o.cid = 1 ∧ 0 ∈ o.back)) = some o ∧ opOf s o.tok = some o ∧ o.left = [0] ∧ o.org = none ∧ o.asked = none ∧
     (∀ x ∈ s.ops, ¬ (x.kind = 7 ∧ x.cid = 1)) ∧ (coreOf s o.core).wait = .sup o.tok) ∧
    ({ kill0 with left := [0, 1] } : Op).left.erase 0 ≠ [] := by decide

theorem test_meets_KillAndReclaim_reclaim :
    (let o : Op := { kill0 with kind := 1, sample := 3, u := 1 }
     let s := killSt o k0
     s.ops.find? (fun o => decide (o.kind = 1 ∧ o.cid = 1 ∧ 0 ∈ o.todo)) = some o) ∧
    (let o : Op := { kill0 with kind := 1, sample := 3, u := 1, todo := [] }
     let s := killSt o k0
     s.ops.find? (fun o => decide (o.kind = 1 ∧ o.cid = 1 ∧ 0 ∈ o.left ∧ 0 ∉ o.todo ∧ 0 ∉ o.back ∧ 0 < 2 ^ 30)) = some o ∧
     agentHolds s o (s.chip * 65536 + 0 % 65536) = true ∧ agentHolds (killSt o {}) o ((killSt o {}).chip * 65536 + 0 % 65536) = false) ∧
    (let o : Op := { kill0 with kind := 1, sample := 3, u := 1, todo := [], back := [0] }
     let s := killSt o {}
     s.ops.find? (fun o => decide (o.kind = 1 ∧ o.cid = 1 ∧ 0 ∈ o.back)) = some o ∧ opOf s o.tok = some o ∧ o.left = [0] ∧ o.org = none ∧ o.asked = none ∧
     (coreOf s o.core).wait = .sup o.tok ∧ o.sample < 4096 ∧ (ctxInc (ctxOf s 1) + 4096 - o.sample) % 4096 < 8) := by decide

/-! Errors, tests, power, thresholds and failure records -/

def image5 : Image := { cid := 1, inc := 2, rank := 5, slot := slotR 5, mem := [], fe := [] }
def rebuildSt : State := { pkg { k0 with act := none, sealed_ := true, slots := (Vector.replicate 4 {}).set 3 (slotR 5) } with images := [image5] }

theorem test_meets_HealthSteps_rebuild_image : rebuildSt.images.find? (fun i => decide (i.cid = 1 ∧ i.inc = 2 ∧ i.rank = 5)) = some image5 := rfl

theorem test_meets_HealthSteps_rebuild_source :
    let s := rebuildSt
    (coreOf s 0).sealed_ = true ∧ (slotOf (coreOf s 0) 3).resident = some { cid := 1, inc := 2, rank := 5 } ∧ inboundTo s 0 = false ∧
      0x8000010000000300 ∈ image5.slot.rg.toList.drop 3 ∧ rgV 0x8000010000000300 = true := by decide

theorem test_meets_HealthSteps_rebuild_target :
    let s := rebuildSt
    (coreOf s 1).sealed_ = false ∧ (slotOf (coreOf s 1) 3).resident = none ∧
      coreUsable s 1 (ctxPart (ctxOf s 1)) = true ∧ isSup 1 = isSup 0 ∧ isMemCore 1 = isMemCore 0 ∧ (∀ kv ∈ s.cores, kv.2.transit = []) := by decide

theorem test_meets_HealthSteps_rebuild_regions : regionsBad (coreOf rebuildSt 1) 3 none image5.slot.rg.toList = false := by decide

theorem queueOf_mod (t : Slot) (q : Nat) : queueOf t q = queueOf t (q % 4) := by simp only [queueOf, Nat.mod_mod]
theorem slotOf_mod (k : Core) (n : Nat) : slotOf k n = slotOf k (n % 4) := by simp only [slotOf, Nat.mod_mod]

theorem test_meets_HealthSteps_queues (q : Nat) : (queueOf (slotR 5) q).msgs = [] := by
  have h : ∀ n, n < 4 → (queueOf (slotR 5) n).msgs = [] := by decide
  rw [queueOf_mod]
  exact h _ (Nat.mod_lt _ (by decide))

theorem test_meets_HealthSteps_sealed (n : Nat) : (slotOf { k0 with sealed_ := true } n).resident = none := by
  have h : ∀ n, n < 4 → (slotOf { k0 with sealed_ := true } n).resident = none := by decide
  rw [slotOf_mod]
  exact h _ (Nat.mod_lt _ (by decide))

theorem test_meets_HealthSteps_cores :
    coreOf (pkg { k0 with sealed_ := true }) 0 = { k0 with sealed_ := true } ∧ isCompute 0 = true ∧ isCompute 512 = false ∧
    (coreOf (pkg k0) 0).sealed_ = false := by refine ⟨rfl, by decide⟩

theorem test_meets_HealthSteps_pair :
    let s := { pkg { k0 with twin := some 1, cmpAt := some 5 } with now := 4102 }
    (coreOf s 0).twin = some 1 ∧ (coreOf s 0).cmpAt = some 5 ∧ (coreOf s 1).cmpAt = none ∧ 4096 < s.now - 5 := by decide

theorem test_meets_HealthSteps_test :
    (let s := pkg { k0 with act := none }
     let r := rowState s 0
     r.powered = true ∧ r.fenced = false ∧ r.testing = false ∧ r.lastTest = 0 ∧
     (∀ c ∈ rowCores 0, (coreOf s c).act = none ∧ (coreOf s c).run = [] ∧ (coreOf s c).succ = none ∧ (coreOf s c).gates = [] ∧
       ∀ n, n < 4 → (slotOf (coreOf s c) n).resident = none) ∧ (rowState s 127).powered = false) ∧
    (let s := updDie { pkg k0 with now := 3200005 } 1 fun d => { d with rows := [(127, { testing := true, lastTest := 5 })] }
     (rowState s 127).testing = true ∧ 3200000 ≤ s.now - (rowState s 127).lastTest ∧ (rowState s 127).away = [] ∧ (rowState s 127).taint = [] ∧ (rowState s 127).taintSet = [] ∧ 127 / 64 = 1) := by
  decide

theorem test_meets_PowerSteps :
    ((pkg k0).powerAt = none ∧
     (let s := { pkg k0 with powerAt := some 5, now := 48005 }; s.powerAt = some 5 ∧ 5 + 3200 * 15 ≤ s.now ∧ ∃ kv ∈ s.cores, kv.2.act.isSome = true) ∧
     ({ pkg k0 with powerAt := some 5, now := 5 }).now < 5 + 3200 * 1) ∧
    (1 = 127 / 64 ∧ (rowState (pkg k0) 127).idle = true) ∧
    (let s := { pkg k0 with grants := List.replicate 166 5, now := 16004 }
     166 ≤ (s.grants.filter fun t => decide (s.now < t + 16000)).length ∧ bestAsk s false = none ∧ bestAsk s true = none) ∧
    (let s := updDie (pkg k0) 1 fun d => { d with rows := [(127, { demands := [(1, 3)], asked := [(5, true)] })] }
     ((s.grants.filter fun t => decide (s.now < t + 16000)).length < 166 ∧
      (bestAsk s false).orElse (fun _ => bestAsk s true) = some (1, 127, 5)) ∧ nextChange (mgetD (dieAt s 1).rows 127 {}) = some true) ∧
    charged (pkg k0) 7 = false ∧ charged { pkg k0 with kernels := [{ kid := 7, cid := 1, inc := 2, die := 0, state := 2 }] } 7 = true ∧
    nextChange { idle := false, step := 7 } = some false ∧ nextChange { idle := false, step := 6 } = some false ∧
    nextChange { idle := false, step := 6, demands := [(1, 3)] } = some true := by decide

theorem test_meets_Thresholds :
    (let x : Thr := { ctl := 0x8001000000000000, thresh := 100, target := 0x0010000500000000 }
     let s := { setThr (pkg k0) 1 31 x with ranks := [(65541, 0x4000000000000000)] }
     let e := rankEntry s 1 5
     fld x.ctl 55 48 ≠ 0 ∧ bit x.ctl 63 = true ∧ bit x.ctl 62 = false ∧ x.thresh.toNat ≤ (100 : Word).toNat ∧ fld x.target 63 52 = 1 ∧ fld x.target 47 32 = 5 ∧
     ctxState (ctxOf s 1) = 1 ∧ ctxState (ctxOf s 2) ≠ 1 ∧ reState e = 1 ∧ reChip e = s.chip ∧ foreignCore s 1 e = false ∧ ¬ x.thresh.toNat ≤ (99 : Word).toNat) ∧
    fld (thrOf (pkg k0) 0 0).ctl 55 48 = 0 ∧ (pkg k0).frecs = [] := by decide

theorem test_meets_FailureRecords :
    let r : FailRec := { cause := 0x23, kind := 0, inc := 2, cid := 1 }
    let s := updDie { pkg k0 with frecs := [r] } 0 fun d => { d with qregs := [(1, { fqbase := 0x8000000000100000 })] }
    let s' := { s with frecs := [] }
    let q := qregsOf s 0 1
    let base := fld q.fqbase 56 6 * 64
    s.frecs = r :: [] ∧ r.dest.getD r.cid = 1 ∧ (spanOf s 1).headD s.chip = s.chip ∧ (ctxOf s 1).home = 0 ∧ bit q.fqbase 63 = true ∧
      xlate? s' 1 base 0 = some 0x100000 ∧ xlate? s' 1 base 1 = some 0x100000 ∧ paChip 0x100000 = s.chip ∧ paClass 0x100000 < 3 ∧ rdLE s.mem 0x100000 8 = 0 ∧
      rdLE s.mem 0x100008 8 = 0 ∧ xlate? s' 1 (base + 64 + 32 * (0 % 16)) 0 = some 0x100040 ∧ xlate? s' 1 (base + 64 + 32 * (0 % 16)) 1 = some 0x100040 ∧
      (0 + 2 ^ 64 - 0) % 2 ^ 64 < 2 ^ fld q.fqsize 4 0 ∧ bit (qregsOf (pkg k0) 0 1).fqbase 63 = false := by decide

theorem test_meets_FailureRecords_full :
    (let s := { pkg k0 with mem := wrLE (pkg k0).mem 0x100000 8 16 }
     2 ^ 4 ≤ (rdLE s.mem 0x100000 8 + 2 ^ 64 - rdLE s.mem 0x100008 8) % 2 ^ 64 ∧ xlate? s 1 0x100040 0 = some 0x100040 ∧ xlate? s 1 0x100000 1 = some 0x100000) ∧
    (let s := { pkg k0 with spans := [(0, [1, 0])] }; (spanOf s 1).headD s.chip = 1 ∧ 1 ≠ s.chip ∧ canSend s 65536 7 = true) := by decide

/-! Schedulers and cores -/

/-- A descriptor of a plain kernel of rank 5 in memory, and a submission that names it. -/
def descSt : State :=
  { pkg k0 with mem := [(0x200000, 0x44101), (0x200008, 1), (0x200018, 0x200040), (0x200040, 0x20)].foldl (fun m x => wrLE m x.1 8 x.2) (pkg k0).mem }
def sub0 (kdesc : Word) : SubReq := { die := 0, cid := 1, inc := 2, words := [kdesc, 0, 0, 0, 1, 0, 0, 0], ans := none }

theorem test_meets_Submissions :
    (let s := { descSt with subs := [sub0 0x200000, sub0 1] }
     let k0 : Kernel := { kid := 1, cid := 1, inc := 2, die := 0, prio := 0 }
     s.subs.find? (fun u => decide (u.die = 0)) = some (sub0 0x200000) ∧ s.subs.find? (fun u => decide (u.die = 1)) = none ∧
     (readKernel s k0 0x200000 0).isSome = true ∧ readKernel s k0 1 0 = none) := by decide +kernel

theorem test_meets_Ksub_and_Setev :
    (let p : Packet := { cls := 2, cid := 1, inc := 2, body := .ksub [0x200000, 0, 0, 0, 1, 0, 0, 0] 9 }
     let s := { descSt with chans := [{ src := 0, dst := schedOf descSt 0, cls := 2, q := [p] }] }
     chanQ s 0 (schedOf s 0) 2 = p :: [] ∧ p.bad = false ∧ isEng p.tok = false ∧ isRedTok p.tok = false ∧ incOk s (schedOf s 0) 1 2 = true ∧ agChip p.src = s.chip ∧ jobCancelled s 0 1 0 = false ∧
     recBad [0x200000, 0, 0, 0, 1, 0, 0, 0] = false ∧ recBad [0, 0, 0, 0, 0, 0, 0, 0] = true ∧ credOf s 0 1 ≠ 0) ∧
    credOf (updDie descSt 0 fun d => { d with cred := [(1, 0)] }) 0 1 = 0 ∧
    (let p : Packet := { cls := 2, cid := 1, inc := 2, body := .setev 3 0x80 false }
     let s := { pkg k0 with chans := [{ src := 0, dst := schedOf (pkg k0) 0, cls := 2, q := [p] }], kernels := [{ kid := 1, cid := 1, inc := 2, die := 0, wq := 3, wmask := 0x80 }] }
     chanQ s 0 (schedOf s 0) 2 = p :: [] ∧ p.bad = false ∧ isEng p.tok = false ∧ isRedTok p.tok = false ∧ incOk s (schedOf s 0) 1 2 = true ∧ holdsEvents s 0 1 = true ∧ (∃ k ∈ s.kernels, k.cid = 1 ∧ k.state = 0 ∧ k.wmask &&& 0x80 = k.wmask) ∧
     eventQ s 1 3 = 0) ∧
    (let s := pkg k0; holdsEvents s 1 1 = false ∧ homeChip s 1 = s.chip) := by decide

theorem test_meets_LiveCounts :
    (let k : Kernel := { kid := 1, cid := 1, inc := 2, die := 0, state := 2, live := 1 }
     let s := { pkg { k0 with flush := some 0, rptWait := 1 } with kernels := [k], reports := [⟨1, -1, some 0⟩], acks := [0] }
     s.reports = ⟨1, -1, some 0⟩ :: [] ∧ kernelOf s 1 = some k ∧ kernelChip 1 = s.chip ∧ k.live + (-1) = 0 ∧ k.state = 2 ∧ k.gates = [] ∧ 0 ∈ s.acks ∧ 1 ∉ s.acks ∧
     0 / 2048 = (coreOf s 0).rptId ∧ 2048 / 2048 ≠ (coreOf s 0).rptId ∧ (coreOf s 0).flush = some 0 ∧ (coreOf s 0).rptWait ≤ 1) ∧ (pkg k0).reports = [] := by decide

/-- A READY kernel of rank 5, whose resident stands on core 0. -/
def kern0 : Kernel := { kid := 1, cid := 1, inc := 2, die := 0, state := 1, ranks := [5] }
def launchSt (k : Kernel) : State :=
  { pkg { k0 with act := none, slots := (Vector.replicate 4 {}).set 0 (slotR 5) } with kernels := [k], ranks := [(65541, 0x4000000000000000)] }

theorem test_meets_Launches_plain :
    (let s := launchSt kern0
     let e := rankEntry s 1 5
     kernelOf s 1 = some kern0 ∧ kernelOk s kern0 = true ∧ kernelFirst s kern0 false = true ∧ launchPay s kern0 = some [] ∧ (0 : Int) ≤ kern0.live ∧ reState e = 1 ∧
     reChip e = s.chip ∧ foreignCore s 1 e = false) ∧
    (let k := { kern0 with plen := 1, args := 2 ^ 40 }; launchPay (launchSt k) k = none ∧ kernelFirst (launchSt k) k false = true ∧ kernelOk (launchSt k) k = true) ∧
    (let k := { kern0 with shape := 3, count := 4, adj := 1 }
     let s := { launchSt k with adjs := [{ cid := 1, inc := 2, num := 1, nelem := 4, blkshift := 0, off := 0, nbr := 0, map := 0, recAddr := 0, pages := [] }] }
     kernelFirst s k false = true ∧ elemOk s k = true ∧ k.count ≠ 0) := by decide

theorem test_meets_Launches_gang :
    (let k := { kern0 with shape := 1 }
     let s := launchSt k
     k.placed = false ∧ gateGroups k = [[5]] ∧ (∀ r ∈ k.ranks, reState (rankEntry s 1 r) = 1) ∧ groupPlace s k [5] = some (s.chip, [0]) ∧ [0].head? = some 0 ∧
     kernelFirst s k true = true ∧ launchPay s k = some [] ∧ k.armed = 0 ∧ kernelChip 1 = s.chip ∧ gateable s [0] = true ∧ rowOf 0 ∉ armedRows s ∧
     crewWaits s k [rowOf 0] = false) ∧
    (let k := { kern0 with shape := 1 }
     let s := { launchSt k with ranks := [(65541, 0x4004000000000000)] }
     gateGroups k = [[5]] ∧ k.todo = [] ∧ groupPlace s k [5] = none ∧ (∀ r ∈ k.ranks, reState (rankEntry s 1 r) = 1)) ∧
    (let k := { kern0 with shape := 2 }
     let s := { launchSt k with ranks := [(65541, 0x8000000000000000)] }
     (∃ r ∈ k.ranks, reState (rankEntry s 1 r) = 2) ∧ ∀ r ∈ k.ranks, reState (rankEntry s 1 r) ≠ 0 ∧ reState (rankEntry s 1 r) ≠ 3) ∧
    kernelOk (launchSt { kern0 with inc := 1 }) { kern0 with inc := 1 } = false := by decide

/-- A message of tag 7 in queue 3 of slot 0, and the core that holds it with handler 63 at byte 0x3C. -/
def qmsg0 : QMsg := { hdr := { handler := 63, tag := 7, job := 3, kernel := 1, queue := 3 }, cid := 1, inc := 2, addr := 0x200, len := 4 }
def startSt (m : QMsg) (k : Core) : State :=
  pkg { k with act := none, slots := (Vector.replicate 4 {}).set 0 (setQueue { slotR 5 with handlers := [(63, 0x8000003C)] } 3 { msgs := [m], age := 65536 }) }

theorem test_meets_Activations_start :
    let s := startSt qmsg0 k0
    canStart s 0 = true ∧ (coreOf s 0).succ = none ∧ (coreOf s 0).gates = [] ∧ (coreOf s 0).stopped = false ∧ bestOf (candidates s 0) = some (0, 3, qmsg0) ∧
      (slotOf (coreOf s 0) 0).resident = some { cid := 1, inc := 2, rank := 5 } ∧ incOk s (niOf s 0) 1 2 = true ∧ qmsg0.poison = false ∧
      handlerV (handlerOf (slotOf (coreOf s 0) 0) 63) = true ∧ (kernelOf s 1).any (·.paired) = false ∧ (coreOf s 0).cancel = [] ∧ qmsg0.task = none ∧
      qmsg0.eosEnd = none ∧ qmsg0.hdr.kernel ≠ 0 := by decide

theorem test_meets_Activations_others :
    (let s := startSt qmsg0 { k0 with cancel := [(3, 4)] }; ∃ j ∈ (coreOf s 0).cancel, j.1 = qmsg0.hdr.job) ∧
    canStart (pkg k0) 0 = false ∧ candidates (pkg { k0 with act := none }) 0 = [] ∧
    (let x := queueOf (slotOf (coreOf (startSt qmsg0 k0) 0) 0) 3
     x.msgs = qmsg0 :: [] ∧ max 1 (fld (dieAt (startSt qmsg0 k0) 0).schedage 15 0) * 1024 ≤ x.age) ∧
    (let k := coreOf (pkg { k0 with wdog := 0, restart := false }) 0; k.act = some act0 ∧ k.wdog = 0 ∧ k.hold = false ∧ k.twin = none ∧ k.restart = false) := by
  decide

/-! The dispatcher -/

/-- A record of two elements, each the other's neighbour, both owned by rank 5 on core 0, and its registration as number 15. -/
def recSt : State :=
  let m := [(0x200000, 8, 2), (0x200008, 8, 0x200100), (0x200010, 8, 0x200200), (0x200018, 8, 0x200300), (0x200020, 8, 1), (0x200104, 4, 1), (0x200108, 4, 2),
            (0x200200, 4, 1), (0x200300, 2, 5), (0x200302, 2, 5)].foldl (fun m x => wrLE m x.1 x.2.1 x.2.2) (pkg k0).mem
  { pkg k0 with mem := m, ranks := [(65541, 0x4000000000000000)], parts := [(0, { pairs := 2 ^ 64 - 1, s2root := 0x10000, weight := 1 })] }
def adj0 : AdjReg :=
  { cid := 1, inc := 2, num := 15, nelem := 2, blkshift := 0, off := 0x200100, nbr := 0x200200, map := 0x200300, recAddr := 0x200000, pages := [(64, 0x200000)] }
def regSt : State := { recSt with adjs := [adj0] }

/-- A RUNNING element kernel over it. -/
def ekern : Kernel := { kid := 1, cid := 1, inc := 2, die := 0, state := 2, shape := 3, adj := 15, radius := 1, first := 0, count := 2, live := 2, qentry := false }

theorem test_adjCheck :
    ((adjCheck recSt 0 1 2 15 0x200000).elim (fun a => decide ({ a with hbase := 0, home := none } = adj0 ∧ a.home = some 0 ∧ a.num = 15 ∧ a.cid = 1 ∧ a.nelem ≠ 0)) fun _ => false) = true ∧
    adjCheck recSt 0 1 2 15 0x200004 = .inr 0x61 ∧ adjCheck recSt 0 1 2 15 (2 ^ 57) = .inr 0x26 ∧
    lockSet regSt adj0 0 1 = [(0, true), (1, false)] := by decide +kernel

theorem test_meets_Registrations :
    (let p : Packet := { cls := 0, cid := 1, inc := 2, body := .adjreg 15 0x200000 9 }
     let s := { recSt with chans := [{ src := 0, dst := dispOf recSt 0, cls := 0, q := [p] }] }
     chanQ s 0 (dispOf s 0) 0 = p :: [] ∧ incOk s (dispOf s 0) 1 2 = true ∧ agChip p.src = s.chip ∧ spanOthers s 1 = [] ∧
     s.adjs.find? (fun a => decide (a.cid = 1 ∧ a.inc = 2 ∧ a.num = 15)) = none) ∧
    (regSt.adjs.find? (fun a => decide (a.cid = 1 ∧ a.inc = 2 ∧ a.num = 15)) = some adj0 ∧ adjBusy regSt 1 2 15 = false ∧
     adjBusy { regSt with kernels := [ekern] } 1 2 15 = true) := by decide

theorem test_meets_Spawns :
    let p : Packet := { cls := 2, cid := 1, inc := 2, body := .dspn { kernel := 1 } 1 [7] }
    let s := { regSt with kernels := [ekern], chans := [{ src := 0, dst := dispOf recSt 0, cls := 2, q := [p] }] }
    chanQ s 0 (dispOf s 0) 2 = p :: [] ∧ incOk s (dispOf s 0) 1 2 = true ∧ kernelOf s 1 = some ekern ∧ kernelAdj s ekern = some adj0 ∧ 1 < adj0.nelem ∧ adj0.nelem ≤ 2 ∧
      jobCancelled s 0 1 0 = false ∧ (dieAt s 0).disp.spawnq.length < 65536 ∧ kernelOf { s with kernels := [{ ekern with state := 3 }] } 1 = some { ekern with state := 3 } := by
  decide

theorem test_meets_Spawns_full :
    65536 ≤ (dieAt (updDie regSt 0 fun d => { d with disp := { d.disp with spawnq := List.replicate 65536 ⟨1, 1, 2, 0, 0, 0, [], false⟩ } }) 0).disp.spawnq.length := by
  show 65536 ≤ (List.replicate 65536 _).length
  rw [List.length_replicate]

theorem test_meets_Window :
    (let w : Spawn := { kernel := 1, cid := 1, inc := 2, elem := 1, tag := 0, srank := 5, pay := [7] }
     let s := updDie { regSt with kernels := [ekern] } 0 fun d => { d with disp := { d.disp with spawnq := [w] } }
     (dieAt s 0).disp.spawnq = w :: [] ∧ windowRoom s 0 w.cid = true ∧ kernelOf s 1 = some ekern) ∧
    (let c : Cursor := { kernel := 1, elems := [0, 1] }
     let s := updDie { regSt with kernels := [ekern] } 0 fun d => { d with disp := { d.disp with cursors := [c] } }
     let x := (dieAt s 0).disp
     (∀ w, x.spawnq.head? = some w → windowRoom s 0 w.cid = false) ∧
     firstCursor s (x.cursors.filter fun c => match kernelOf s c.kernel with | some k => windowRoom s 0 k.cid | none => false) = some (c, ekern) ∧
     c.elems = 0 :: [1] ∧ launchPay s ekern = some []) ∧
    firstCursor regSt [] = none := by decide

/-- A task of element 0, and the die that has it in its window. -/
def task0 : Task := { age := 9, widx := 0, kernel := 1, cid := 1, inc := 2, reg := 15, elem := 0, radius := 1 }
def taskSt (t : Task) : State := updDie { regSt with kernels := [ekern] } 0 fun d => { d with disp := { d.disp with window := [t], ended := [{ age := 9, again := false, core := 0, tok := 5 }] } }

theorem test_meets_DispatchedTasks_try :
    (let s := taskSt task0
     let x := (dieAt s 0).disp
     taskAt s 0 9 = some task0 ∧ taskAdj s task0 = some adj0 ∧ eligible s task0 = true ∧ (x.window.filter fun u => decide (u.state = 1)).length < 64 ∧
     (∀ u ∈ x.window, u.age < 9 → eligible s u = false) ∧ (lockSet s adj0 0 1).length ≤ 8192 ∧ (engineAt s adj0 0).1 = s.chip ∧
     (∀ y ∈ lockSet s adj0 0 1, engineAt s adj0 y.1 = engineAt s adj0 0)) ∧
    (let s := { taskSt task0 with mem := [(0x200400, 4, 0), (0x200404, 4, 1), (0x200500, 4, 64), (0x200600, 2, 5)].foldl (fun m x => wrLE m x.1 x.2.1 x.2.2) (taskSt task0).mem }
     let a := { adj0 with nelem := 65, blkshift := 24, off := 0x200400, nbr := 0x200500, map := 0x200600 }
     lockSet s a 0 1 = [(0, true), (64, false)] ∧ ∃ y ∈ lockSet s a 0 1, engineAt s a y.1 ≠ engineAt s a 0) ∧
    task0.state ≠ 6 ∧
    eligible (taskSt { task0 with state := 1 }) { task0 with state := 1 } = false := by decide +kernel

theorem test_meets_DispatchedTasks_response :
    let t := { task0 with state := 1, locks := [(0, true), (1, false)], waiting := 1 }
    let r : LockReq := { widx := 0, age := 9, reg := 15, locks := [(0, true), (1, false)], kind := 0 }
    let p : Packet := { cls := 7, cid := 1, inc := 2, body := .lockRsp r true false 3 }
    let s := { taskSt t with chans := [{ src := 1, dst := dispOf recSt 0, cls := 7, q := [p] }] }
    let e := rankEntry s 1 (ownerRank s adj0 0)
    taskAt s 0 9 = some t ∧ chanQ s 1 (dispOf s 0) 7 = p :: [] ∧ incOk s (dispOf s 0) 1 2 = true ∧ r.widx = t.widx ∧ r.age = 9 ∧ t.age = 9 ∧ p.cid = t.cid ∧ r.kind = 0 ∧ r.reg = t.reg ∧ t.waiting = 1 ∧ t.granted = [] ∧
      t.refused = false ∧ kernelOf s 1 = some ekern ∧ taskAdj s t = some adj0 ∧ ekern.place = 0 ∧ reState e = 1 ∧ reChip e = s.chip ∧ foreignCore s 1 e = false ∧
      taskAt (taskSt { t with waiting := 2 }) 0 9 = some { t with waiting := 2 } := by decide +kernel

theorem test_meets_DispatchedTasks_stakes :
    (let s := taskSt { task0 with state := 2, fails := 64 }
     (dieAt s 0).disp.stakes.length < 64 ∧ (∀ u ∈ (dieAt s 0).disp.window, u.age < 9 → u.state ≠ 2) ∧ taskAdj s { task0 with state := 2, fails := 64 } = some adj0) ∧
    (let s := taskSt { task0 with state := 4, granted := [(1, false)] }
     (dieAt s 0).disp.ended.find? (fun e => decide (e.age = 9)) = some { age := 9, again := false, core := 0, tok := 5 } ∧ (coreOf s 0).unack = [] ∧
     (coreOf s 0).out = [] ∧ (engineAt s adj0 1).1 = s.chip) ∧
    (let s := updCore (taskSt task0) 0 fun k => { k with unack := [{ tok := 4, msgid := 0, target := 1, g := 0, w := 8 }] }
     ∃ u ∈ (coreOf s 0).unack, u.tok < 5) := by decide +kernel

theorem test_meets_LockEngines :
    let r : LockReq := { chip := 0, die := 1, widx := 4095, age := 9, reg := 15, locks := [(1, true)], kind := 0 }
    let p : Packet := { src := 1, cls := 7, cid := 1, inc := 2, body := .lock r }
    let s := { regSt with chans := [{ src := 1, dst := lockOf recSt 1 63, cls := 7, q := [p] }] }
    chanQ s 1 (lockOf s 1 63) 7 = p :: [] ∧ incOk s (lockOf s 1 63) 1 2 = true ∧ r.chip = s.chip ∧ r.locks = [(1, true)] ∧ r.key = none ∧
      grantable (holdOf s 1 15 1) true none = true ∧ grantable { cid := 1, reg := 15, elem := 1, readers := 1 } true none = false ∧
      grantable { cid := 1, reg := 15, elem := 1, readers := 32766 } false none = true ∧ grantable { cid := 1, reg := 15, elem := 1, readers := 32767 } false none = false ∧
      grantable { cid := 1, reg := 15, elem := 1, stake := some (5, 0, 0, 1) } true (some (5, 0, 0, 0)) = true ∧
      grantable { cid := 1, reg := 15, elem := 1, stake := some (5, 0, 0, 1) } true (some (5, 0, 0, 2)) = false ∧ (holdOf s 1 15 1).stake = none ∧
      (dieAt s 1).disp.waiters = [] ∧ olderKey (5, 0, 0, 0) (5, 0, 0, 1) = true := by decide +kernel

theorem test_meets_JobCancel :
    (let p : Packet := { cls := 2, cid := 1, inc := 2, body := .jcan 3 9 }
     let s := { pkg k0 with kernels := [{ kid := 1, cid := 1, inc := 2, die := 0, job := 3 }], chans := [{ src := 0, dst := schedOf recSt 0, cls := 2, q := [p] }] }
     chanQ s 0 (schedOf s 0) 2 = p :: [] ∧ incOk s (schedOf s 0) 1 2 = true ∧ agChip p.src = s.chip ∧ filtersFull s 1 = false ∧
     p.bad = false ∧ isEng p.tok = false ∧ isRedTok p.tok = false ∧ (∃ k ∈ s.kernels, k.cid = 1 ∧ k.job = 3 ∧ k.state ≤ 1)) ∧
    filtersFull (pkg { k0 with cancel := List.replicate 8 (3, false) }) 1 = true ∧
    (let o : Op := { tok := 4, kind := 4, core := 0, cid := 1, left := [], arg := 3, arg2 := 9 }
     let s := { pkg k0 with ops := [o] }
     s.ops.find? (fun o => decide (o.tok = 4 ∧ o.kind = 4)) = some o ∧ o.left = [] ∧ (∀ k ∈ s.kernels, k.cid = o.cid → k.job = o.arg → k.live = 0) ∧ s.reports = [] ∧
     o.org = none ∧ dieOf o.core < 2) ∧ ({ tok := 4, kind := 4, core := 0, cid := 1, left := [1] } : Op).left ≠ [] := by decide +kernel

/-! Arrivals -/

/-- Core 0 with resident 5 in slot 0 and a packet at the head of a channel to its NI. -/
def niSt (k : Core) (p : Packet) (cls : Nat) : State :=
  { pkg { k with slots := (Vector.replicate 4 {}).set 0 (slotR 5) } with chans := [{ src := 1, dst := niOf (pkg k0) 0, cls := cls, q := [p] }], ranks := [(65541, 0x4000000000000000)] }
def land0 : Packet := { cls := 2, cid := 1, inc := 2, slot := 0, body := .msg { queue := 3, prio := 7, trank := 5 } [1, 2] false }

theorem test_meets_MessageArrivals_land :
    (let s := niSt k0 land0 2
     chanQ s 1 (niOf s 0) 2 = land0 :: [] ∧ land0.bad = false ∧ isEng land0.tok = false ∧ isRedTok land0.tok = false ∧ (inject s (dieOf 0) 1 0).1 = false ∧ incOk s (niOf s 0) 1 2 = true ∧ badHdr { queue := 3, prio := 7, trank := 5 } 2 = false ∧
     (slotOf (coreOf s 0) 0).resident = some { cid := 1, inc := 2, rank := 5 } ∧ roundUp 2 64 ≤ rgSize (rgOf (slotOf (coreOf s 0) 0) 2) ∧
     (queueOf (slotOf (coreOf s 0) 0) 3).msgs.length < 256 ∧ landPlace (coreOf s 0) 0 2 = some 0x200 ∧ spilling s 0 1 5 = false ∧ (coreOf s 0).act = some act0 ∧
     runPrio (coreOf s 0) < 7 ∧ (slotOf (coreOf s 0) 1).resident = none) ∧ badHdr { rsv := 1 } 2 = true := by decide

theorem test_meets_MessageArrivals_park :
    (let s := { niSt k0 land0 2 with chans := [{ src := 1, dst := storeOf (pkg k0) 0, cls := 2, q := [land0] }], parts := [(0, { ovMiB := 1 })] }
     chanQ s 1 (storeOf s 0) 2 = land0 :: [] ∧ incOk s (storeOf s 0) 1 2 = true ∧ ovUsed s 0 1 + parkSize 2 ≤ ovShare s 1) ∧
    (let s := niSt k0 land0 2; ovShare s 1 < ovUsed s 0 1 + parkSize 2 ∧ ovOf s 0 1 5 = none) ∧
    (let o : OvList := { cid := 1, rank := 5, items := [(land0, 5)] }
     let s := updDie (niSt k0 land0 2) 0 fun d => { d with ov := [o] }
     ovOf s 0 1 5 = some o ∧ whereIs s 1 5 = some (0, 0) ∧ o.items = [(land0, 5)] ∧ incOk s (storeOf s 0) 1 2 = true ∧ (inject s (dieOf 0) 1 0).1 = false ∧
     (queueOf (slotOf (coreOf s 0) 0) 3).msgs.length < 256 ∧ landPlace (coreOf s 0) 0 2 = some 0x200) ∧ ovOf (pkg k0) 0 1 5 = none := by decide

theorem test_meets_MessageArrivals_ranks :
    (let o : Op := { tok := 4, kind := 3, core := 647, cid := 1, left := [0], todo := [0], arg := 5 }
     let s := { pkg k0 with ops := [o] }
     s.ops.find? (fun o => decide (o.kind = 3 ∧ o.cid = 1 ∧ o.arg = 5 ∧ 0 ∈ o.todo)) = some o ∧ (coreOf s 0).transit = [] ∧ (1, 5) ∉ (coreOf s 0).invq) ∧
    (let o : Op := { tok := 4, kind := 3, core := 1, cid := 1, left := [0], arg := 5 }
     let s := updCore { pkg { k0 with invq := [(1, 5)] } with ops := [o] } 1 fun k => { k with wait := .sup 4 }
     (1, 5) ∈ (coreOf s 0).invq ∧ agentMsg s 1 5 = false ∧ (∀ u ∈ (coreOf s 0).unack, u.rank ≠ some (1, 5) ∧ ¬ (u.own.1 = 1 ∧ 5 ∈ u.ranks)) ∧
     s.ops.find? (fun o => decide (o.kind = 3 ∧ o.cid = 1 ∧ o.arg = 5)) = some o ∧ opOf s o.tok = some o ∧ o.left = [0] ∧ o.org = none ∧ o.asked = none ∧
     (coreOf s o.core).wait = .sup o.tok) ∧
    (let u : UnE := { tok := 4, msgid := 0, target := 1, g := 0, w := 8, rank := some (1, 5), own := (1, 2) }
     u.rank = some (1, 5) ∧ u.applied = false ∧ u.target ≠ 0 ∧ reState (rankEntry (pkg k0) 1 5) ≠ 1) := by decide

/-- A consumer with its ring at 0x300 in P0, and a producer; both of stream 9. -/
def con0 : EndRec := { scid := 1, sid := 9, kind := 1, slot := 0, state := 1, ocid := 1, oinc := 2, peerRank := 5, rsize := 1, rbase := 0x300, wrSeq := 0xFFFFFFFF, res := (1, 5) }
def pro0 : EndRec := { con0 with kind := 0, wrSeq := 0, peerGen := 255 }
def strmSt (p : Packet) : State := niSt { k0 with ends := [con0, pro0] } p 3

theorem test_meets_StreamArrivals_items :
    (let h : StrmHdr := { sid := 9, scid := 1, seq := 0xFFFFFFFF, ekind := 1, trank := 5 }
     let p : Packet := { cls := 3, op := 0x0A, cid := 1, inc := 2, body := .item h [7] false }
     Arrives (strmSt p) 1 0 p [] (1, 9, 1) con0 ∧ strmHdr p.body = h ∧ con0.kind = 1 ∧ con0.state = 1 ∧
     isAway (coreOf (strmSt p) 0) con0 = false ∧ con0.cause ≠ 2 ∧ con0.heldBad = [] ∧ con0.eosWord = none ∧ con0.held = [] ∧ con0.wrSeq < 2 ^ 32 ∧
     h.seq = con0.wrSeq ∧ seqLt (con0.wrSeq - 1) con0.wrSeq = true) ∧
    (let h : StrmHdr := { sid := 9, scid := 1, ekind := 1, trank := 6 }
     let p : Packet := { cls := 3, op := 0x0A, cid := 1, inc := 2, body := .item h [7] false }
     let e := { con0 with res := (1, 6) }
     let s := { niSt { k0 with ends := [e] } p 3 with parts := [(0, { ovMiB := 1 })] }
     Arrives s 1 0 p [] (1, 9, 1) e ∧ isAway (coreOf s 0) e = true ∧ ovUsed s (dieOf 0) 1 + parkSize (8 * 1) ≤ ovShare s 1) := by unfold Arrives Plain; decide

theorem test_meets_StreamArrivals_eos :
    (let h : StrmHdr := { sid := 9, scid := 1, ekind := 1, trank := 5 }
     let w : Word := 0x10000000FFFFFFFF
     let p : Packet := { cls := 3, op := 0x0B, cid := 1, inc := 2, body := .eos h w }
     Arrives (strmSt p) 1 0 p [] (1, 9, 1) con0 ∧ con0.wrSeq = fld w 31 0 ∧ con0.wrSeq ≠ fld (0 : Word) 31 0 ∧ isAway (coreOf (strmSt p) 0) con0 = false ∧ con0.cause ≠ 2 ∧ con0.eosWord = none ∧
     (slotOf (coreOf (strmSt p) 0) 0).resident = some { cid := 1, inc := 2, rank := 5 } ∧ roundUp 8 64 ≤ rgSize (rgOf (slotOf (coreOf (strmSt p) 0) 0) 2) ∧
     (queueOf (slotOf (coreOf (strmSt p) 0) 0) con0.eq).msgs.length < 256 ∧ landPlace (coreOf (strmSt p) 0) 0 8 = some 0x200 ∧ spilling (strmSt p) 0 1 5 = false) := by
  unfold Arrives Plain; decide

theorem test_meets_StreamArrivals_notices :
    (let h : StrmHdr := { sid := 9, scid := 1, typ := 1, ekind := 0, sgen := 0, trank := 5 }
     let p : Packet := { cls := 3, op := 0x0C, cid := 1, inc := 2, body := .notice h }
     Arrives (strmSt p) 1 0 p [] (1, 9, 0) pro0 ∧ pro0.kind = 0 ∧ pro0.state = 1 ∧ 0 < (h.sgen + 256 - pro0.peerGen % 256) % 256 ∧
     (h.sgen + 256 - pro0.peerGen % 256) % 256 < 128) ∧
    (let h : StrmHdr := { sid := 9, scid := 1, typ := 5, ekind := 0, trank := 5 }
     let p : Packet := { cls := 3, op := 0x0C, cid := 1, inc := 2, body := .notice h }
     let e := { pro0 with state := 5 }
     Arrives (niSt { k0 with ends := [e] } p 3) 1 0 p [] (1, 9, 0) e) ∧
    (let h : StrmHdr := { sid := 9, scid := 1, typ := 4, ekind := 1, trank := 5 }
     let p : Packet := { cls := 3, op := 0x0C, cid := 1, inc := 2, body := .notice h }
     Arrives (strmSt p) 1 0 p [] (1, 9, 1) con0 ∧ isAway (coreOf (strmSt p) 0) con0 = false ∧ con0.wrSeq < 2 ^ 32 ∧ con0.eosWord = none) := by unfold Arrives Plain; decide

/-- A forwarding record of a producer that has moved to rank 6. -/
def fwd0 : EndRec := { pro0 with state := 7, gen := 3, fwdRank := 6 }

theorem test_meets_StreamArrivals_moved :
    (let h : StrmHdr := { sid := 9, scid := 1, typ := 2, ekind := 0, pgen := 3, trank := 5 }
     let p : Packet := { cls := 3, op := 0x0C, cid := 1, inc := 2, body := .notice h }
     let s := niSt { k0 with ends := [fwd0] } p 3
     chanQ s 1 (niOf s 0) 3 = p :: [] ∧ p.cls = 3 ∧ isEng p.tok = false ∧ isRedTok p.tok = false ∧ fwd0.kind = h.ekind ∧ incOk s (niOf s 0) 1 2 = true ∧
     (coreOf s 0).ends.find? (fun x => decide (keyOf x = (1, 9, 0) ∧ x.state = 7 ∧ x.gen = h.pgen ∧ decide (p.op = 0x0C) ∧ h.typ = 2)) = some fwd0 ∧ fwd0.kind = 0) ∧
    (let h : StrmHdr := { sid := 9, scid := 1, typ := 7, ekind := 0, pgen := 3, trank := 5 }
     let p : Packet := { cls := 3, op := 0x0C, cid := 1, inc := 2, body := .notice h }
     let s := niSt { k0 with ends := [fwd0] } p 3
     let re := (resolve s 0 fwd0.ocid fwd0.peerRank).1
     (coreOf s 0).ends.find? (fun x => decide (keyOf x = (1, 9, 0) ∧ x.state = 7 ∧ x.gen = h.pgen)) = some fwd0 ∧ 1 ≠ niOf s 0 ∧ holdsFor (coreOf s 0) fwd0.ocid fwd0.peerRank = false ∧ reState re = 1 ∧ reChip re = s.chip) ∧
    (let h : StrmHdr := { sid := 8, scid := 1, ekind := 1, trank := 5 }
     let p : Packet := { cls := 3, op := 0x0A, cid := 1, inc := 2, body := .item h [7] false }
     let o : OvList := { cid := 1, rank := 5, items := [(p, 5)] }
     let s := updDie { niSt k0 p 3 with now := 1600005 } 0 fun d => { d with ov := [o] }
     ovOf s 0 1 5 = some o ∧ whereIs s 1 5 = some (0, 0) ∧ endRec (coreOf s 0) (1, 8, 1) = none ∧ 1600000 ≤ s.now - 5) := by decide

/-! Effects and answers -/

theorem test_meets_Effects_leave :
    (let e : SbEntry := { eff := .msg { trank := 5 } [1], bytes := 1, counted := 1, tok := 3 }
     let s := { pkg { k0 with sb := [e], flush := some 1 } with ranks := [(65541, 0x4000000000000000)] }
     let re := (resolve s 0 1 5).1
     (coreOf s 0).flush = some 1 ∧ (coreOf s 0).twin = none ∧ (coreOf s 0).rptWait = 0 ∧ (coreOf s 0).sb = e :: [] ∧ actCtx (coreOf s 0) = (1, 2, 5) ∧
     incOk s (niOf s 0) 1 2 = true ∧ (dieAt s (dieOf 0)).einjseed = 0 ∧ (coreOf s 0).spawnSent = none ∧ holdsFor (coreOf s 0) 1 5 = false ∧ reState re = 1 ∧ reChip re = s.chip ∧ foreignCore s 1 re = false) ∧
    (let s := st { k0 with sb := [{ eff := .msg {} [], bytes := 0, counted := 1, tok := 3 }], flush := some 1 }
     incOk s (niOf s 0) 1 2 = false ∧ actCtx (coreOf s 0) = (1, 2, 5)) ∧ (coreOf (pkg k0) 0).flush = none ∧
    (coreOf (pkg { k0 with flush := some 0 }) 0).sb = [] ∧ (coreOf (pkg { k0 with flush := some 0, rptWait := 1 }) 0).rptWait ≠ 0 := by decide

theorem test_meets_Effects_acks :
    (let u : UnE := { tok := 4, msgid := 0, target := 1, g := 0, w := 8, applied := true }
     let s := pkg { k0 with unack := [u] }
     (coreOf s 0).unack.find? (fun u => u.tok = 4 ∧ u.applied = true) = some u ∧ (∀ u ∈ (coreOf s 0).unack, u.tok = 5 → u.applied = false)) ∧
    (coreOf (pkg { k0 with wait := .armed 0 }) 0).wait = .armed 0 ∧
    (let g : Gang := { gid := 4, kernel := 1, members := [0, 1], present := [0, 1], arrived := [1], again := [0], size := 2, row := 0 }
     let h : Gang := { g with gid := 5, arrived := [1, 0], ph := 0xFFFF }
     let s := { pkg k0 with gangs := [g, h] }
     g ∈ s.gangs ∧ 0 ∈ g.again ∧ 0 ∉ g.arrived ∧ h ∈ s.gangs ∧ h.arrived ≠ [] ∧ (∀ c ∈ h.present, c ∈ h.arrived) ∧ ∃ c ∈ g.present, c ∉ g.arrived) := by decide

theorem test_meets_Effects_not_armed : ∀ n : Nat, (coreOf (pkg k0) 0).wait ≠ .armed n := by
  intro n h
  have : (coreOf (pkg k0) 0).wait = .idle := rfl
  rw [this] at h
  cases h

theorem test_meets_Effects_no_monitor : ∀ m ∈ (pkg k0).monitors, m.core ≠ 0 := by decide

theorem test_meets_Effects_homes :
    (let p : Packet := { src := 0, dst := 0x1005, cls := 1, cid := 1, inc := 2, tok := 4, body := .store 0x200000 8 0x55 false 4 }
     let s := { pkg k0 with chans := [{ src := 0, dst := 0x1005, cls := 1, q := [p] }] }
     chanQ s 0 0x1005 1 = p :: [] ∧ agIsCore 0x1005 = false ∧ agKind 0x1005 = 1 ∧ incOk s 0x1005 1 2 = true ∧ migHeld s (agDie 0x1005) 0x200000 = none ∧
     (dieAt s (agDie 0x1005)).einjseed = 0 ∧ p.bad = false ∧ p.unc = false ∧ p.dst = 0x1005 ∧ agIsCore p.src = true ∧ agChip p.src = s.chip ∧ isEng 4 = false ∧ isRedTok 4 = false ∧ agKind p.src ≠ 5 ∧
     memBad s 0x200000 8 = false ∧ paClass 0x200000 = 0 ∧ 0x200000 % 64 + 8 ≤ 64) ∧
    (let p : Packet := { src := 1, dst := 0, cls := 1, cid := 1, inc := 2, body := .store 0x3F8 8 0x55 false 4 }
     let s := niSt k0 p 1
     chanQ s 1 (niOf s 0) 1 = p :: [] ∧ p.dst = niOf s 0 ∧ agIsCore (niOf s 0) = true ∧ agCore (niOf s 0) = 0 ∧ incOk s (niOf s 0) 1 2 = true ∧
     niRefusal s 0 0 1 (0x3F8 % 2 ^ 19) 8 true = none ∧ niRefusal s 0 0 1 (0x3FC % 2 ^ 19) 8 true = some 0x27 ∧ (dieAt s (dieOf 0)).einjseed = 0 ∧ agIsCore p.src = true ∧ agChip p.src = s.chip ∧ isEng 4 = false ∧ isRedTok 4 = false) := by decide

theorem test_meets_Effects_returns :
    (let p : Packet := { cls := 4, cid := 1, inc := 2, body := .rdata 4 0x80 false }
     let o : OutE := { tok := 4, rd := 31, kind := .load 1 true, g := 0 }
     let s := niSt { k0 with out := [o], pendx := [(31, 4)] } p 4
     chanQ s 1 (niOf s 0) 4 = p :: [] ∧ incOk s (niOf s 0) 1 2 = true ∧ (coreOf s 0).out.find? (fun o => decide (o.tok = 4)) = some o ∧ o.live = true ∧
     (coreOf s 0).pendx.find? (fun x => decide (x.2 = 4)) = some (31, 4) ∧ (coreOf s 0).twin = none) ∧
    (let p : Packet := { cls := 4, cid := 1, inc := 2, body := .status 4 0x26 }
     let o : OutE := { tok := 4, rd := 31, kind := .load 1 true, g := 0 }
     let s := niSt { k0 with out := [o] } p 4
     chanQ s 1 (niOf s 0) 4 = p :: [] ∧ (∀ u ∈ (coreOf s 0).unack, u.tok ≠ 4) ∧ (coreOf s 0).out.find? (fun o => decide (o.tok = 4)) = some o ∧ o.live = true ∧ (coreOf s 0).owed = none ∧ ¬ (o.kind = .fe ∧ statusCause 0x26 = 0)) := by
  decide

/-! The whole machine -/

theorem test_meets_Encodings :
    (Instr.ld 12 11 3 0).wf = true ∧ encodeWord (.ld 12 11 3 0) = some 0x60C5E000 ∧ (Instr.rldAcq 31 31 1 3).wf = true ∧
      encodeWord (.rldAcq 31 31 1 3) = some 0x71FF800F ∧ decode 0x60C5E000 = .ok (.ld 12 11 3 0) ∧ (encode (.ld 12 11 3 0)).isSome = true := by decide

theorem test_meets_Encodings_commands :
    (decodeCommand 0x0100000000000000 0xFF 0 0).toOption.isSome = true ∧ (decodeCommand 0x0100000000000000 0xFF 0 0).toOption.bind encodeCommand = some (0x0100000000000000, 0xFF, 0, 0) ∧
      (decodeCommand 0x0100000000000000 0xFF 0 0).toOption.all Instr.wf = true := by decide

theorem test_meets_StepsKeepOk : State.reset.ok = true ∧ after (step State.reset) false (fun t => t.ok) = true := by decide

/-- A placed ADDI x1, x1, 0x7FFC, and what stands around it. -/
def placedAdd : State := State.reset.withFetchWord 32 0b0001000_00001_00001_111111111111100

theorem test_meets_StepRunsDecoded :
    let s := { placedAdd with agenda := [] }
    s.boot.state ≠ 2 ∧ (cc s).act = some placedAct ∧ (cc s).wdog ≠ 0 ∧ (cc s).owed = none ∧ fetchFault (cc s) = none ∧
      decodeBytes (rdBytes (cc s).lm (cc s).pc.toNat 4) = .ok (.addi 1 1 0x7FFC, []) ∧ waitsPending (cc s) (.addi 1 1 0x7FFC) = false ∧
      ¬ (s.boot.state = 3 ∧ isSup s.cur = true) ∧ (cc s).wait = .idle ∧ readsBad (cc s) (.addi 1 1 0x7FFC) = false ∧
      readsBad { cc s with badRegs := [1] } (.addi 1 1 0x7FFC) = true ∧
      placedAdd.agenda = .core 0 :: [] ∧ s.agenda = [] := by decide

theorem test_step_runs_placed : after (step placedAdd) 0 (fun t => rx (cc t) 1) = 0xFFFFFFFFFFFFFFFC ∧ after (step placedAdd) 0 (fun t => (cc t).pc) = 4 := by decide

theorem test_meets_StepRunsDecoded_moves :
    selfStep (.commandStart 0) = true ∧ selfStep .exit = false ∧ haltedStep (.commandStart 0) = false ∧ haltedStep (.registerWrite 9 0 0 64) = true ∧ isSup 647 = true ∧ ({ State.reset with boot := { state := 2 } } : State).boot.state = 2 ∧
      ({ State.reset with agenda := [.ev .exit] } : State).agenda = .ev .exit :: [] ∧ ({ State.reset with agenda := [.tick 5] } : State).agenda = .tick 5 :: [] := by decide
end Sys2Proof.Tests
end

section
/-! ### Flits and ports: what one link operation does (01 R18 to R22) -/

namespace Sys2Proof.Machine

/-! #### Ports of the state -/

@[simp] theorem portOf_updPort_same (s : State) (k : Nat) (g : Port → Port) : portOf (updPort s k g) k = g (portOf s k) := by
  simp [portOf, updPort, mupd]

theorem portOf_updPort_other (s : State) (k j : Nat) (g : Port → Port) (h : j ≠ k) : portOf (updPort s k g) j = portOf s j := by
  simp [portOf, updPort, mupd, mgetD_mput_other _ _ _ _ _ h]

@[simp] theorem e2eOf_updE2e_same (s : State) (key : Nat) (g : E2e → E2e) : e2eOf (updE2e s key g) key = g (e2eOf s key) := by
  simp [e2eOf, updE2e, mupd]

/-- A port of this package is an end of a link, and not of the die-to-die link. -/
theorem isPort_spec {k : Nat} (h : isPort k = true) : isLink k = true ∧ k % 32 ≠ 18 := by
  simp only [isPort, isLink, Bool.and_eq_true, decide_eq_true_eq] at h ⊢
  omega

/-! #### Maps -/

theorem mget_mdel_same {α : Type} (m : SMap α) (a : Nat) : mget (mdel m a) a = none := by
  induction m with
  | nil => rfl
  | cons x m ih =>
    obtain ⟨k, v⟩ := x
    by_cases h : k = a
    · simpa [mdel, h] using ih
    · simpa [mdel, h, mget] using ih

@[simp] theorem mgetD_mdel_same {α : Type} (m : SMap α) (a : Nat) (d : α) : mgetD (mdel m a) a d = d := by
  simp [mgetD, mget_mdel_same]

@[simp] theorem mgetD_mupd_same {α : Type} (m : SMap α) (a : Nat) (d : α) (g : α → α) : mgetD (mupd m a d g) a d = g (mgetD m a d) := by
  simp [mupd]

/-! #### Flits -/

@[simp] theorem fitBytes_length (n : Nat) (bs : List Byte) : (fitBytes n bs).length = n := by
  simp [fitBytes]; omega

/-- What fits is at the front. -/
theorem take_fitBytes (n : Nat) (bs : List Byte) (h : bs.length ≤ n) : (fitBytes n bs).take bs.length = bs := by
  simp [fitBytes, List.take_of_length_le h]

@[simp] theorem crcOk_sealFlit (f : Flit) : crcOk (sealFlit f) = true := by
  -- the CRC covers the header and the payload, not itself (01 R19)
  have hbody : flitBody (sealFlit f) = flitBody f := rfl
  simp only [crcOk, hbody, decide_eq_true_eq]
  rfl

@[simp] theorem crcOk_newFlit (p : Port) (kind cls lseq : Nat) (pay : List Byte) : crcOk (newFlit p kind cls lseq pay) = true := crcOk_sealFlit _
@[simp] theorem newFlit_kind (p : Port) (kind cls lseq : Nat) (pay : List Byte) : (newFlit p kind cls lseq pay).kind = kind := rfl
@[simp] theorem newFlit_cls (p : Port) (kind cls lseq : Nat) (pay : List Byte) : (newFlit p kind cls lseq pay).cls = cls := rfl
@[simp] theorem newFlit_lseq (p : Port) (kind cls lseq : Nat) (pay : List Byte) : (newFlit p kind cls lseq pay).lseq = lseq := rfl
@[simp] theorem newFlit_ackseq (p : Port) (kind cls lseq : Nat) (pay : List Byte) : (newFlit p kind cls lseq pay).ackseq = (p.rxSeq + 4095) % 4096 := rfl
@[simp] theorem newFlit_payload (p : Port) (kind cls lseq : Nat) (pay : List Byte) : (newFlit p kind cls lseq pay).payload = fitBytes 240 pay := rfl

/-- A flit is a protocol error where its KIND is reserved or a reserved bit is set. -/
theorem flitBad_iff (f : Flit) : flitBad f = true ↔ 5 ≤ f.kind ∨ f.rsv ≠ 0 := by simp [flitBad]

theorem flitBad_of_kind_le {f : Flit} (hk : f.kind ≤ 4) (hr : f.rsv = 0) : flitBad f = false := by
  simp [flitBad, hr]; omega

/-! #### Requests -/

/-- A request is one flit more, numbered and laid out as an increment's first bytes, whatever else of the port has changed before. -/
theorem asksStep_request (p p' : Port) (now lseq step : Nat) (again : Bool) (h : p'.tx = p.tx) :
    Stated.AsksStep p (request now p' lseq step again) lseq step := by
  refine ⟨newFlit p' 3 0 lseq (leBytes 2 lseq ++ [BitVec.ofNat 8 step]), by simp [request, h], rfl, crcOk_newFlit .., rfl, ?_⟩
  have hlen : (leBytes 2 lseq ++ [BitVec.ofNat 8 step]).length = 3 := by simp [leBytes_length]
  rw [newFlit_payload, ← hlen, take_fitBytes _ _ (by omega)]

/-- The recovery that a request is for notes the step, the time and whether it is a repeat. -/
theorem mem_recov_request (p : Port) (now step : Nat) (again : Bool) (r : Recov) (h : r ∈ p.recov) :
    { r with step := step, asked := now, again := again } ∈ (request now p r.lseq step again).recov :=
  List.mem_map.mpr ⟨r, h, by simp⟩

theorem recov_request_length (p : Port) (now lseq step : Nat) (again : Bool) : (request now p lseq step again).recov.length = p.recov.length := by
  simp [request]

/-! #### Acknowledgements and credits -/

/-- A flit's acknowledgement leaves in the replay buffer what it does not cover. -/
theorem mem_replay_takeAcks (p : Port) (f : Flit) (x : TxFlit) :
    x ∈ (takeAcks p f).replay ↔ x ∈ p.replay ∧ 2048 ≤ (f.ackseq + 4096 - x.flit.lseq) % 4096 := by
  simp [takeAcks]

theorem mgetD_credits_takeCredits (p : Port) (f : Flit) :
    mgetD (takeCredits p f).credits f.crcls 0 = mgetD p.credits f.crcls 0 + f.crcnt := by
  unfold takeCredits
  split <;> simp_all

/-! #### Delivery -/

/-- With no held flit next in sequence, nothing more is delivered. -/
theorem deliverHeld_none (n : Nat) (p : Port) (h : ∀ x ∈ p.held, x.lseq ≠ p.rxSeq) : deliverHeld n p = p := by
  cases n with
  | zero => rfl
  | succ n =>
    have hnone : p.held.find? (fun f => decide (f.lseq = p.rxSeq)) = none := by simpa using h
    simp [deliverHeld, hnone]

@[simp] theorem deliverFlit_held (p : Port) (f : Flit) : (deliverFlit p f).held = p.held.erase f := by
  unfold deliverFlit; split <;> rfl

@[simp] theorem deliverFlit_recov (p : Port) (f : Flit) : (deliverFlit p f).recov = p.recov := by
  unfold deliverFlit; split <;> rfl

@[simp] theorem deliverFlit_parfix (p : Port) (f : Flit) : (deliverFlit p f).parfix = p.parfix := by
  unfold deliverFlit; split <;> rfl

/-- A single held flit in its turn is delivered, and nothing after it. -/
theorem deliverHeld_single (n : Nat) (p : Port) (f : Flit) (hheld : p.held = [f]) (hseq : f.lseq = p.rxSeq) :
    deliverHeld (n + 1) p = deliverFlit p f := by
  have hfound : p.held.find? (fun f => decide (f.lseq = p.rxSeq)) = some f := by simp [hheld, hseq]
  simp only [deliverHeld, hfound]
  exact deliverHeld_none n _ (by simp [hheld])

/-- A flit in its turn at a port that holds none is delivered, and nothing else is. -/
theorem placeFlit_turn (p : Port) (f : Flit) (hheld : p.held = []) (hseq : f.lseq = p.rxSeq) :
    placeFlit p f = some (deliverFlit { p with held := [f] } f) := by
  rw [placeFlit, if_neg (fun h => h.1 hseq), hheld]
  exact congrArg some (deliverHeld_single 127 { p with held := [f] } f rfl hseq)

/-- A flit behind one in recovery is held, while fewer than 64 are. -/
theorem placeFlit_behind (p : Port) (f : Flit) (hseq : f.lseq ≠ p.rxSeq) (hheld : ∀ x ∈ p.held, x.lseq ≠ p.rxSeq) (hroom : p.held.length < 64) :
    placeFlit p f = some { p with held := p.held ++ [f] } := by
  have hstays : ∀ x ∈ p.held ++ [f], x.lseq ≠ p.rxSeq := by
    intro x hx
    rcases List.mem_append.mp hx with h | h
    · exact hheld x h
    · rwa [List.mem_singleton.mp h]
  rw [placeFlit, if_neg (by omega), deliverHeld_none _ _ hstays]

/-- With 64 held, a flit out of its turn makes the link retrain. -/
theorem placeFlit_full (p : Port) (f : Flit) (hseq : f.lseq ≠ p.rxSeq) (hfull : 64 ≤ p.held.length) : placeFlit p f = none := by
  rw [placeFlit, if_pos ⟨hseq, hfull⟩]

/-- A data flit's granules join those of its class; whole packets leave, and their granules are owed as credits (01 R18, 02 R28). -/
theorem assemble_spec (p : Port) (f : Flit) :
    let cut := cutPackets 16 (mgetD p.asm f.cls [] ++ f.payload)
    (assemble p f).rxFlits = p.rxFlits ++ [f] ∧ (assemble p f).rxPkts = p.rxPkts ++ cut.1 ∧ mgetD (assemble p f).asm f.cls [] = cut.2 ∧
      mgetD (assemble p f).owed f.cls 0 = mgetD p.owed f.cls 0 + (cut.1.map fun b => b.length / 16).sum := by
  refine ⟨rfl, rfl, ?_, ?_⟩ <;> simp only [assemble] <;> split <;> simp_all

/-- A flit delivered alone, its acknowledgement taken before: what the statements ask of it. The recoveries and the count of repairs, which a delivery
does not touch, may have changed before. -/
theorem deliveredFlit_deliverFlit (p : Port) (f : Flit) (rs : List Recov) (n : Nat) :
    Stated.DeliveredFlit p (deliverFlit { takeAcks { p with recov := rs, parfix := n } f with held := [f] } f) f := by
  have hacks := mem_replay_takeAcks p f
  have hcred := mgetD_credits_takeCredits p f
  by_cases hk : f.kind = 0
  · obtain ⟨hflits, hpkts, hasm, howed⟩ :=
      assemble_spec (takeCredits { takeAcks { p with recov := rs, parfix := n } f with held := [f].erase f, rxSeq := (p.rxSeq + 1) % 4096 } f) f
    simp only [deliverFlit, hk, if_true]
    exact ⟨rfl, by simp [assemble, takeCredits], rfl, rfl, hacks, hcred, fun h => absurd hk h, fun _ => ⟨hflits, hpkts, hasm, howed⟩⟩
  · simp only [deliverFlit, hk, if_false]
    exact ⟨rfl, by simp [takeCredits], rfl, rfl, hacks, hcred, fun _ => ⟨rfl, rfl, rfl, rfl⟩, fun h => absurd h hk⟩

/-- A flit in its turn is delivered by placing it, at a port that holds none. -/
theorem placeFlit_delivers (p : Port) (f : Flit) (rs : List Recov) (n : Nat) (hheld : p.held = []) (hseq : f.lseq = p.rxSeq) :
    ∃ q, placeFlit (takeAcks { p with recov := rs, parfix := n } f) f = some q ∧ Stated.DeliveredFlit p q f ∧ q.recov = rs ∧ q.parfix = n :=
  ⟨_, placeFlit_turn _ f hheld hseq, deliveredFlit_deliverFlit p f rs n, by simp [takeAcks], by simp [takeAcks]⟩

/-! #### Whole and damaged flits -/

/-- Whether a replay of a flit with this LSEQ is awaited. -/
abbrev awaitsReplay (f : Flit) (r : Recov) : Bool := decide (r.lseq = f.lseq ∧ r.step = 3)

/-- A whole flit that no replay was to bring and that is not the next one is dropped; its acknowledgement counts. -/
theorem takeFlit_repeat (p : Port) (f : Flit) (hr : p.recov.find? (awaitsReplay f) = none) (hseq : f.lseq ≠ wantSeq p) :
    takeFlit p f = some (takeAcks p f) := by
  simp only [takeFlit, hr, if_pos hseq]

/-- The next whole flit takes its place. -/
theorem takeFlit_next (p : Port) (f : Flit) (hr : p.recov.find? (awaitsReplay f) = none) (hseq : f.lseq = wantSeq p) :
    takeFlit p f = placeFlit (takeAcks p f) f := by
  simp only [takeFlit, hr, if_neg (not_not.mpr hseq)]

/-- A damaged flit is stored and its first increment asked for. -/
theorem takeDamaged_first (now : Nat) (p : Port) (f : Flit) (hr : p.recov.find? (awaitsReplay f) = none) (hroom : p.recov.length < 8) :
    takeDamaged now p f = some (request now { p with recov := p.recov ++ [{ lseq := wantSeq p, flit := f, first := now }] } (wantSeq p) 1 false) := by
  simp only [takeDamaged, hr, if_neg (Nat.not_le.mpr hroom)]

/-- A ninth damaged flit makes the link retrain. -/
theorem takeDamaged_ninth (now : Nat) (p : Port) (f : Flit) (hr : p.recov.find? (awaitsReplay f) = none) (hfull : 8 ≤ p.recov.length) :
    takeDamaged now p f = none := by
  simp only [takeDamaged, hr, if_pos hfull]

/-- A second damaged copy from a replay makes the link retrain. -/
theorem takeDamaged_copy_again (now : Nat) (p : Port) (f : Flit) (r : Recov) (hr : p.recov.find? (awaitsReplay f) = some r) (hagain : 1 ≤ r.replays) :
    takeDamaged now p f = none := by
  simp only [takeDamaged, hr, if_pos hagain]

/-- A first damaged copy from a replay takes the stored one's place, and the replay is asked for once more. -/
theorem takeDamaged_copy (now : Nat) (p : Port) (f : Flit) (r : Recov) (hr : p.recov.find? (awaitsReplay f) = some r) (hfirst : r.replays = 0) :
    takeDamaged now p f =
      some (request now { p with recov := p.recov.map fun x => if x = r then { r with flit := f, replays := r.replays + 1 } else x } r.lseq 3 true) := by
  simp only [takeDamaged, hr, if_neg (show ¬ r.replays ≥ 1 by omega)]

/-! #### Parity increments -/

/-- The check values known of an interleave (lo = 0 the even one, 16 the odd one): those of the first increment and those that have come now. -/
def checkValues (r : Recov) (cs : List Byte) (lo : Nat) : List Nat :=
  (((r.inc1.getD []).drop lo).take 16 ++ (cs.drop lo).take 16).map (·.toNat)

/-- The check values that an increment's payload carries. -/
def incChecks (pay : List Byte) : List Byte := (pay.drop 16).take 32

/-- The recoveries to which the rules send an increment: one that waits for its first, and one that has its first and waits for its second. -/
def AwaitsIncrement (r : Recov) : Prop := r.step = 1 ∧ r.inc1 = none ∨ r.step = 2 ∧ (r.inc1.getD []).length = 32

/-- The values that takeParity cuts out of the increments one behind another are the check values of the interleave. -/
theorem increments_cut (r : Recov) (cs : List Byte) (lo : Nat) (hr : AwaitsIncrement r) (hlo : lo ≤ 16) :
    (((r.inc1.getD [] ++ cs).drop lo).take 16 ++ (if r.step = 2 then ((r.inc1.getD [] ++ cs).drop (32 + lo)).take 16 else [])).map (·.toNat) =
      checkValues r cs lo := by
  rcases hr with ⟨hstep, hnone⟩ | ⟨hstep, hlen⟩
  · simp [checkValues, hstep, hnone]
  · have hfirst : ((r.inc1.getD [] ++ cs).drop lo).take 16 = ((r.inc1.getD []).drop lo).take 16 := by
      rw [List.drop_append_of_le_length (by omega), List.take_append_of_le_length (by simp; omega)]
    have hsecond : (r.inc1.getD [] ++ cs).drop (32 + lo) = cs.drop lo := by
      rw [← hlen, List.drop_length_add_append]
    rw [if_pos hstep, hfirst, hsecond, checkValues]

/-- An increment with which the flit is corrected ends its recovery. -/
theorem takeParity_corrects (now : Nat) (p : Port) (r : Recov) (pay : List Byte) (g : Flit) (hr : AwaitsIncrement r)
    (h : correct r.flit (checkValues r (incChecks pay) 0) (checkValues r (incChecks pay) 16) = some g) :
    takeParity now p r pay = recovered { p with parfix := (p.parfix + 1) % 2 ^ 32 } r g := by
  rw [← increments_cut r _ 0 hr (by omega), ← increments_cut r _ 16 hr (by omega), incChecks] at h
  simp only [takeParity, h]

/-- One with which it is not has the next step asked for. -/
theorem takeParity_fails (now : Nat) (p : Port) (r : Recov) (pay : List Byte) (hr : AwaitsIncrement r)
    (h : correct r.flit (checkValues r (incChecks pay) 0) (checkValues r (incChecks pay) 16) = none) :
    takeParity now p r pay =
      some (request now { p with recov := p.recov.map fun x => if x = r then { r with inc1 := some (incChecks pay) } else x } r.lseq (r.step + 1) false) := by
  rw [← increments_cut r _ 0 hr (by omega), ← increments_cut r _ 16 hr (by omega), incChecks] at h
  simp only [takeParity, h, incChecks]

/-- A repaired flit that is a protocol error makes the link retrain. -/
theorem recovered_bad (p : Port) (r : Recov) (g : Flit) (h : flitBad g = true) : recovered p r g = none := by
  simp [recovered, h]

/-- The flit of the only recovery, repaired in its turn, is delivered. -/
theorem recovered_delivers (p : Port) (r : Recov) (g : Flit) (n : Nat) (hbad : flitBad g = false) (hrec : p.recov = [r]) (hheld : p.held = [])
    (hseq : r.lseq = p.rxSeq) :
    ∃ q, recovered { p with parfix := n } r g = some q ∧ Stated.DeliveredFlit p q { g with lseq := r.lseq } ∧ q.recov = [] ∧ q.parfix = n := by
  obtain ⟨q, hq, hrest⟩ := placeFlit_delivers p { g with lseq := r.lseq } [] n hheld hseq
  refine ⟨q, ?_, hrest⟩
  have herase : p.recov.erase r = [] := by simp [hrec]
  rw [recovered, if_neg (by simp [hbad]), ← hq]
  simp only [herase, takeAcks]

end Sys2Proof.Machine
end

section
/-! ### The link steps at a port (01 R13, R17, R19 to R24) -/

namespace Sys2Proof.Machine
open Stated

/-- A step that changes one port changes nothing else. -/
theorem portBecomes_updPort {i : Instr} {s : State} {port : Nat} {g : Port → Port} {q : Port} (h : exec i s = .next (updPort s port g))
    (hq : g (portOf s port) = q) : PortBecomes i s port q :=
  ⟨_, h, by rw [portOf_updPort_same, hq], rfl, fun k hk => portOf_updPort_other s port k g hk⟩

section
variable {s : State} {port : Nat} {f : Flit}

/-! #### FLIT_RECEIVE -/

theorem flitReceive_off (h : isLink port = false ∨ portUp (portOf s port) = false) : exec (.flitReceive port f) s = .next s := by
  change execFlitReceive port f s = _
  rw [execFlitReceive, if_pos h]

/-- A protocol error makes the link retrain. -/
theorem flitReceive_bad (hl : isLink port = true) (hup : portUp (portOf s port) = true) (hcrc : crcOk f = true) (hbad : 5 ≤ f.kind ∨ f.rsv ≠ 0) :
    PortBecomes (.flitReceive port f) s port (retrained s.now (portOf s port)) := by
  refine portBecomes_updPort (g := retrained s.now) ?_ rfl
  change execFlitReceive port f s = _
  simp [execFlitReceive, hl, hup, hcrc, (flitBad_iff f).mpr hbad]

/-- A whole flit of the die-to-die link asks for nothing. -/
theorem flitReceive_dieLink_whole (hl : isLink port = true) (hup : portUp (portOf s port) = true) (h18 : port % 32 = 18) (hcrc : crcOk f = true)
    (hbad : flitBad f = false) : PortBecomes (.flitReceive port f) s port (portOf s port) := by
  refine portBecomes_updPort (g := fun p => p) ?_ rfl
  change execFlitReceive port f s = _
  simp [execFlitReceive, hl, hup, h18, hcrc, hbad]

/-- A damaged one is replayed. -/
theorem flitReceive_dieLink_damaged (hl : isLink port = true) (hup : portUp (portOf s port) = true) (h18 : port % 32 = 18) (hcrc : crcOk f = false) :
    PortBecomes (.flitReceive port f) s port
      { portOf s port with crcfail := ((portOf s port).crcfail + 1) % 2 ^ 32, replayed := ((portOf s port).replayed + 1) % 2 ^ 32 } := by
  refine portBecomes_updPort (g := fun p => { p with crcfail := (p.crcfail + 1) % 2 ^ 32, replayed := (p.replayed + 1) % 2 ^ 32 }) ?_ rfl
  change execFlitReceive port f s = _
  simp [execFlitReceive, hl, hup, h18, hcrc]

/-- A whole data or idle flit at a port is taken, or makes the link retrain. -/
theorem flitReceive_whole (hp : isPort port = true) (hup : portUp (portOf s port) = true) (hcrc : crcOk f = true) (hk : f.kind ≤ 1) (hrsv : f.rsv = 0) :
    PortBecomes (.flitReceive port f) s port (orRetrain s.now (portOf s port) (takeFlit (portOf s port) f)) := by
  obtain ⟨hl, h18⟩ := isPort_spec hp
  have hbad : flitBad f = false := flitBad_of_kind_le (by omega) hrsv
  have hk2 : ¬ (port % 32 = 18 ∨ f.kind = 2) := by omega
  have hk3 : ¬ (f.kind = 3 ∨ f.kind = 4) := by omega
  refine portBecomes_updPort (g := fun p => orRetrain s.now p (takeFlit p f)) ?_ rfl
  change execFlitReceive port f s = _
  simp [execFlitReceive, hl, hup, hcrc, hbad, hk2, hk3]

/-- The port with one more damaged flit counted (04 R82). -/
def countDamaged (p : Port) : Port := { p with crcfail := (p.crcfail + 1) % 2 ^ 32 }

/-- A damaged flit at a port is counted, and is stored or makes the link retrain. -/
theorem flitReceive_damaged (hp : isPort port = true) (hup : portUp (portOf s port) = true) (hcrc : crcOk f = false) :
    PortBecomes (.flitReceive port f) s port
      (orRetrain s.now (countDamaged (portOf s port)) (takeDamaged s.now (countDamaged (portOf s port)) f)) := by
  obtain ⟨hl, h18⟩ := isPort_spec hp
  refine portBecomes_updPort (g := fun p => orRetrain s.now (countDamaged p) (takeDamaged s.now (countDamaged p) f)) ?_ rfl
  change execFlitReceive port f s = _
  simp [execFlitReceive, hl, hup, h18, hcrc, countDamaged]

/-! #### RECOVERY_REQUEST_RECEIVE -/

theorem recoveryRequestReceive_off (lseq step : Nat) (h : isPort port = false ∨ portUp (portOf s port) = false) :
    exec (.recoveryRequestReceive port lseq step) s = .next s := by
  change execRecoveryRequestReceive port lseq step s = _
  simp only [execRecoveryRequestReceive, if_pos h]

/-- A request for a flit that is not in the replay buffer is dropped. -/
theorem recoveryRequestReceive_unknown {lseq : Nat} (step : Nat)
    (hx : (portOf s port).replay.find? (fun y => decide (y.flit.lseq = lseq)) = none) :
    exec (.recoveryRequestReceive port lseq step) s = .next s := by
  change execRecoveryRequestReceive port lseq step s = _
  simp only [execRecoveryRequestReceive, hx, ite_self]

/-- A request for an increment is answered with it. -/
theorem recoveryRequestReceive_increment {lseq step : Nat} {x : TxFlit} (hp : isPort port = true) (hup : portUp (portOf s port) = true)
    (hx : (portOf s port).replay.find? (fun y => decide (y.flit.lseq = lseq)) = some x) (hstep : step = 1 ∨ step = 2) :
    PortBecomes (.recoveryRequestReceive port lseq step) s port
      { portOf s port with tx := (portOf s port).tx ++ [newFlit (portOf s port) 2 0 lseq (parityPay x.flit step)] } := by
  refine portBecomes_updPort (g := fun p => { p with tx := p.tx ++ [newFlit p 2 0 lseq (parityPay x.flit step)] }) ?_ rfl
  change execRecoveryRequestReceive port lseq step s = _
  simp only [execRecoveryRequestReceive, hp, hup, hx, if_pos hstep, Bool.true_eq_false, or_self, if_false]

/-- A request for a replay is answered with the flit itself. -/
theorem recoveryRequestReceive_replay {lseq : Nat} {x : TxFlit} (hp : isPort port = true) (hup : portUp (portOf s port) = true)
    (hx : (portOf s port).replay.find? (fun y => decide (y.flit.lseq = lseq)) = some x) :
    PortBecomes (.recoveryRequestReceive port lseq 3) s port
      { portOf s port with tx := (portOf s port).tx ++ [x.flit], replayed := ((portOf s port).replayed + 1) % 2 ^ 32 } := by
  refine portBecomes_updPort (g := fun p => { p with tx := p.tx ++ [x.flit], replayed := (p.replayed + 1) % 2 ^ 32 }) ?_ rfl
  change execRecoveryRequestReceive port lseq 3 s = _
  simp [execRecoveryRequestReceive, hp, hup, hx]

/-! #### PARITY_INCREMENT_RECEIVE -/

theorem parityIncrementReceive_off (h : isPort port = false ∨ portUp (portOf s port) = false) : exec (.parityIncrementReceive port f) s = .next s := by
  change execParityIncrementReceive port f s = _
  simp only [execParityIncrementReceive, if_pos h]

theorem parityIncrementReceive_bad (hp : isPort port = true) (hup : portUp (portOf s port) = true) (hcrc : crcOk f = true)
    (hbad : 5 ≤ f.kind ∨ f.rsv ≠ 0) : PortBecomes (.parityIncrementReceive port f) s port (retrained s.now (portOf s port)) := by
  refine portBecomes_updPort (g := retrained s.now) ?_ rfl
  change execParityIncrementReceive port f s = _
  simp [execParityIncrementReceive, hp, hup, hcrc, (flitBad_iff f).mpr hbad]

/-- A damaged flit in an increment's place has the first request not yet repeated made again. -/
theorem parityIncrementReceive_damaged {r : Recov} (hp : isPort port = true) (hup : portUp (portOf s port) = true) (hcrc : crcOk f = false)
    (hr : (portOf s port).recov.find? (fun r => decide (r.step < 3) && !r.again) = some r) :
    PortBecomes (.parityIncrementReceive port f) s port (request s.now (countDamaged (portOf s port)) r.lseq r.step true) := by
  have hcount : (countDamaged (portOf s port)).recov.find? (fun r => decide (r.step < 3) && !r.again) = some r := hr
  refine portBecomes_updPort (g := fun p => match (countDamaged p).recov.find? (fun r => decide (r.step < 3) && !r.again) with
    | some r => request s.now (countDamaged p) r.lseq r.step true
    | none => countDamaged p) ?_ (by simp only [hcount])
  change execParityIncrementReceive port f s = _
  simp only [execParityIncrementReceive, hp, hup, hcrc, Bool.true_eq_false, or_self, if_false, if_true]
  rfl

/-- An increment for a recovery that waits for it is tried, once its acknowledgement and credits are taken. -/
theorem parityIncrementReceive_increment {r : Recov} {p : Port} (hp : isPort port = true) (hup : portUp (portOf s port) = true) (hcrc : crcOk f = true)
    (hk : f.kind = 2) (hrsv : f.rsv = 0) (hrec : (portOf s port).recov = [r]) (hlseq : r.lseq = leNat (f.payload.take 2))
    (hinc : (f.payload.getD 2 0).toNat = r.step) (hstep : r.step < 3) (htaken : takeCredits (takeAcks (portOf s port) f) f = p) :
    PortBecomes (.parityIncrementReceive port f) s port (orRetrain s.now { p with parfix := (p.parfix + 1) % 2 ^ 32 } (takeParity s.now p r f.payload)) := by
  have hbad : flitBad f = false := flitBad_of_kind_le (by omega) hrsv
  have hfound : p.recov.find?
      (fun r => decide (r.lseq = leNat (f.payload.take 2) ∧ r.step = (f.payload.getD 2 0).toNat ∧ (f.payload.getD 2 0).toNat < 3)) = some r := by
    have hrec' : p.recov = [r] := htaken ▸ hrec
    rw [hinc, hrec']
    simp [← hlseq, hstep]
  obtain ⟨g, hexec, hg⟩ : ∃ g, execParityIncrementReceive port f s = .next (updPort s port g) ∧
      g (portOf s port) = orRetrain s.now { p with parfix := (p.parfix + 1) % 2 ^ 32 } (takeParity s.now p r f.payload) := by
    simp only [execParityIncrementReceive, hp, hup, hcrc, hbad, hk, Bool.true_eq_false, Bool.false_eq_true, or_self, if_false, ne_eq, not_true_eq_false]
    exact ⟨_, rfl, by simp only [htaken, hfound]⟩
  exact portBecomes_updPort hexec hg

/-! #### The time-outs of a recovery -/

/-- What has been asked for and has not come for 1 µs is asked for once more. -/
theorem recoveryRetryTimeout_late {lseq : Nat} {r : Recov} (hup : portUp (portOf s port) = true)
    (hr : (portOf s port).recov.find? (fun x => decide (x.lseq = lseq)) = some r) (hagain : r.again = false) (hlate : 1600 ≤ s.now - r.asked) :
    PortBecomes (.recoveryRetryTimeout port lseq) s port (request s.now (portOf s port) lseq r.step true) := by
  refine portBecomes_updPort (g := fun p => request s.now p lseq r.step true) ?_ rfl
  change execRecoveryRetryTimeout port lseq s = _
  simp [execRecoveryRetryTimeout, hr, hup, hagain, hlate]

theorem recoveryRetryTimeout_early {lseq : Nat} {r : Recov} (hr : (portOf s port).recov.find? (fun x => decide (x.lseq = lseq)) = some r)
    (h : r.again = true ∨ s.now - r.asked < 1600) : exec (.recoveryRetryTimeout port lseq) s = .next s := by
  have hno : ¬ ((portUp (portOf s port) && !r.again && decide (s.now - r.asked ≥ 1600)) = true) := by
    rcases h with h | h
    · simp [h]
    · simp only [Bool.and_eq_true, decide_eq_true_eq]; omega
  change execRecoveryRetryTimeout port lseq s = _
  simp only [execRecoveryRetryTimeout, hr, if_neg hno]

/-- A flit not delivered 6 µs after its arrival makes the link retrain. -/
theorem linkrecmaxExpire_late {lseq : Nat} {r : Recov} (hup : portUp (portOf s port) = true)
    (hr : (portOf s port).recov.find? (fun x => decide (x.lseq = lseq)) = some r) (hlate : 9600 ≤ s.now - r.first) :
    PortBecomes (.linkrecmaxExpire port lseq) s port (retrained s.now (portOf s port)) := by
  refine portBecomes_updPort (g := retrained s.now) ?_ rfl
  change execLinkrecmaxExpire port lseq s = _
  simp [execLinkrecmaxExpire, hr, hup, hlate]

theorem linkrecmaxExpire_early {lseq : Nat} {r : Recov} (hr : (portOf s port).recov.find? (fun x => decide (x.lseq = lseq)) = some r)
    (h : s.now - r.first < 9600) : exec (.linkrecmaxExpire port lseq) s = .next s := by
  have hno : ¬ ((portUp (portOf s port) && decide (s.now - r.first ≥ 9600)) = true) := by
    simp only [Bool.and_eq_true, decide_eq_true_eq]; omega
  change execLinkrecmaxExpire port lseq s = _
  simp only [execLinkrecmaxExpire, hr, if_neg hno]

/-! #### Training -/

theorem portTraining_starts (hl : isLink port = true) (hstate : (portOf s port).state = 0) :
    PortBecomes (.portTraining port true) s port (beginLink s.now (portOf s port)) := by
  refine portBecomes_updPort (g := beginLink s.now) ?_ rfl
  change execPortTraining port true s = _
  simp [execPortTraining, hl, hstate]

theorem portTraining_stays {ok : Bool} (h : (portOf s port).state ≠ 0 ∨ ok = false) : exec (.portTraining port ok) s = .next s := by
  change execPortTraining port ok s = _
  rw [execPortTraining, if_pos (.inr h)]

/-- Training that ends in time opens the port and sends the unacknowledged flits again. -/
theorem retrainComplete_inTime (four : Bool) (hl : isLink port = true) (hstate : (portOf s port).state = 1)
    (htime : s.now - (portOf s port).trainAt ≤ 80000) :
    PortBecomes (.retrainComplete port four) s port
      { portOf s port with state := if four then 3 else 2, tx := (portOf s port).tx ++ (portOf s port).replay.map (·.flit) } := by
  refine portBecomes_updPort (g := fun p => { p with state := if four then 3 else 2, tx := p.tx ++ p.replay.map (·.flit) }) ?_ rfl
  change execRetrainComplete port four s = _
  rw [execRetrainComplete, if_neg (by simp [hl, hstate, trainMax, htime])]

theorem retrainComplete_late (four : Bool) (hlate : 80000 < s.now - (portOf s port).trainAt) : exec (.retrainComplete port four) s = .next s := by
  change execRetrainComplete port four s = _
  rw [execRetrainComplete, if_pos (.inr (.inr hlate))]

theorem retrainTimeout_early (h : s.now - (portOf s port).trainAt ≤ 80000) : exec (.retrainTimeout port) s = .next s := by
  change execRetrainTimeout port s = _
  rw [execRetrainTimeout, if_pos (.inr (.inr h))]

/-- The port as a training that has failed leaves it. -/
def downPort (p : Port) : Port := { p with state := 0, replay := [] }

/-- Training that has not ended in time closes the port, and the unicast packets of its replay buffer go to the end-to-end layer. -/
theorem retrainTimeout_late (hl : isLink port = true) (hstate : (portOf s port).state = 1) (hlate : 80000 < s.now - (portOf s port).trainAt) :
    exec (.retrainTimeout port) s =
      .next (((((portOf s port).replay.flatMap (·.pkts)).foldl (fun l q => addTo q l) []).filter fun q => !q.mcast && !q.comb && decide (q.cls ≠ 5)).foldl
        (fun s q => resendOut s (agChip q.dst) q.cls q.seq) (updPort s port downPort)) := by
  have hno : ¬ (isLink port = false ∨ (portOf s port).state ≠ 1 ∨ s.now - (portOf s port).trainAt ≤ trainMax) := by
    rintro (h | h | h)
    · exact absurd (hl.symm.trans h) (by decide)
    · exact h hstate
    · exact absurd h (Nat.not_le.mpr hlate)
  change execRetrainTimeout port s = _
  rw [execRetrainTimeout, if_neg hno]
  rfl

end

/-- An end-to-end triple that notes one resend more, now, of its packet with this SEQ (02 R37). -/
def noteResend (now seq : Nat) (e : E2e) : E2e :=
  { e with unacked := e.unacked.map fun x => if x.seq = seq then { x with sent := now, resends := x.resends + 1 } else x }

/-- A packet with fewer than three resends goes to the ports again. -/
theorem resendOut_again (s : State) (chip cls seq : Nat) (u : E2eOut)
    (hu : (e2eOf s (e2eKey chip cls)).unacked.find? (fun u => decide (u.seq = seq)) = some u) (hr : u.resends < 3) :
    resendOut s chip cls seq = { updE2e s (e2eKey chip cls) (noteResend s.now seq) with egress := s.egress ++ [u.pkt] } := by
  simp only [resendOut, hu, if_neg (Nat.not_le.mpr hr)]
  rfl

/-- The entry of the packet notes the time and the resend. -/
theorem mem_unacked_noteResend (s : State) (key now seq : Nat) (u : E2eOut) (hu : (e2eOf s key).unacked.find? (fun u => decide (u.seq = seq)) = some u) :
    { u with sent := now, resends := u.resends + 1 } ∈ (e2eOf (updE2e s key (noteResend now seq)) key).unacked := by
  have hseq : u.seq = seq := by simpa using List.find?_some hu
  rw [e2eOf_updE2e_same]
  exact List.mem_map.mpr ⟨u, List.mem_of_find?_eq_some hu, by simp [hseq]⟩

end Sys2Proof.Machine
end

section
/-! ### The statement about flits that arrive, their recovery and training -/

namespace Sys2Proof.Machine
open Stated

/-- R17, R19, R20: a whole flit is taken, placed or dropped; a damaged one is stored, or makes the link retrain. -/
theorem flitArrivals : Clauses.FlitArrivals := by
  intro s port f p failed
  refine ⟨flitReceive_off, fun hl hup => ⟨flitReceive_bad hl hup, fun h18 => ⟨fun hcrc hk hrsv => ?_, flitReceive_dieLink_damaged hl hup h18⟩⟩,
    fun hp hup => ⟨fun hcrc hk hrsv => ?_, fun hcrc hr => ?_, fun r hcrc hr => ?_⟩⟩
  · exact flitReceive_dieLink_whole hl hup h18 hcrc (flitBad_of_kind_le hk hrsv)
  · have hstep := flitReceive_whole hp hup hcrc hk hrsv
    refine ⟨fun hrec hheld hseq hlt => ?_, fun hr => ⟨fun hseq => ?_, fun hnext hseq hheld => ⟨fun hroom => ?_, fun hfull => ?_⟩⟩⟩
    · have hnext : f.lseq = wantSeq p := by simp [wantSeq, hrec, hheld, hseq]; omega
      obtain ⟨q, hq, hdel, hqrec, -⟩ := placeFlit_delivers p f p.recov p.parfix hheld hseq
      have htake : takeFlit p f = some q := (takeFlit_next p f (by simp [hrec]) hnext).trans hq
      rw [htake] at hstep
      exact ⟨q, hstep, hdel, hqrec.trans hrec⟩
    · rwa [takeFlit_repeat p f hr hseq] at hstep
    · rwa [takeFlit_next p f hr hnext, placeFlit_behind (takeAcks p f) f hseq hheld hroom] at hstep
    · rwa [takeFlit_next p f hr hnext, placeFlit_full (takeAcks p f) f hseq hfull] at hstep
  · have hstep := flitReceive_damaged hp hup hcrc
    refine ⟨fun hroom => ?_, fun hfull => ?_⟩
    · rw [takeDamaged_first s.now (countDamaged p) f hr hroom] at hstep
      exact ⟨_, _, hstep, rfl, asksStep_request _ _ _ _ _ _ rfl,
        mem_recov_request _ _ _ _ { lseq := wantSeq p, flit := f, first := s.now } (List.mem_append_right _ (List.mem_singleton.mpr rfl)),
        rfl, rfl, rfl, rfl, rfl, rfl, (recov_request_length ..).trans List.length_append, rfl, rfl, rfl, rfl, rfl⟩
    · rwa [takeDamaged_ninth s.now (countDamaged p) f hr hfull] at hstep
  · have hstep := flitReceive_damaged hp hup hcrc
    refine ⟨fun hagain => ?_, fun hfirst => ?_⟩
    · rwa [takeDamaged_copy_again s.now (countDamaged p) f r hr hagain] at hstep
    · rw [takeDamaged_copy s.now (countDamaged p) f r hr hfirst] at hstep
      have hstored : { r with flit := f, replays := r.replays + 1 } ∈
          p.recov.map fun x => if x = r then { r with flit := f, replays := r.replays + 1 } else x :=
        List.mem_map.mpr ⟨r, List.mem_of_find?_eq_some hr, by simp⟩
      exact ⟨_, _, hstep, rfl, asksStep_request _ _ _ _ _ _ rfl, mem_recov_request _ _ _ _ { r with flit := f, replays := r.replays + 1 } hstored,
        rfl, rfl, congrArg (· + 1) hfirst, rfl, rfl⟩

/-- R21 to R23: an increment either corrects the flit, which is then placed, or has the next step asked for. -/
theorem flitRecovery : Clauses.FlitRecovery := by
  intro s port f p
  refine ⟨fun h => ⟨parityIncrementReceive_off h, fun lseq step => recoveryRequestReceive_off lseq step h⟩, fun hp hup =>
    ⟨fun lseq hx step => recoveryRequestReceive_unknown step hx, fun lseq x hx => ⟨fun step hstep => ?_, recoveryRequestReceive_replay hp hup hx⟩,
      parityIncrementReceive_bad hp hup, fun r hcrc hr => ?_, fun r hcrc hk hrsv hrec hlseq hinc hr => ?_, fun r lseq hr =>
        ⟨fun hagain hlate => ?_, recoveryRetryTimeout_early hr, linkrecmaxExpire_late hup hr, linkrecmaxExpire_early hr⟩⟩⟩
  · exact ⟨_, recoveryRequestReceive_increment hp hup hx hstep, rfl, crcOk_newFlit .., rfl⟩
  · exact ⟨_, parityIncrementReceive_damaged hp hup hcrc hr, rfl, asksStep_request _ _ _ _ _ _ rfl,
      mem_recov_request _ _ _ _ r (List.mem_of_find?_eq_some hr)⟩
  · have hstep : r.step < 3 := by omega
    have hexec := parityIncrementReceive_increment hp hup hcrc hk hrsv hrec hlseq hinc hstep rfl
    intro cs before fixed
    refine ⟨fun g hg hbad => ?_, fun g hg hbad hheld hseq hlt => ?_, fun hnone => ?_⟩
    · rw [takeParity_corrects _ _ _ _ g hr hg, recovered_bad _ _ _ hbad] at hexec
      exact ⟨_, hexec, rfl, rfl, rfl, rfl⟩
    · obtain ⟨q, hq, hdel, hqrec, hqfix⟩ := recovered_delivers (takeCredits (takeAcks (portOf s port) f) f) r g
        (((takeCredits (takeAcks (portOf s port) f) f).parfix + 1) % 2 ^ 32) hbad hrec hheld hseq
      rw [takeParity_corrects _ _ _ _ g hr hg, hq] at hexec
      exact ⟨q, hexec, hqrec, hqfix, hdel⟩
    · rw [takeParity_fails _ _ _ _ hr hnone] at hexec
      refine ⟨_, hexec, asksStep_request _ _ _ _ _ _ rfl, rfl, rfl, ?_⟩
      have hport : (portOf s port).recov = [r] := hrec
      simp [orRetrain, request, takeCredits, takeAcks, hport, cs, incChecks]
  · have hseq : r.lseq = lseq := by simpa using List.find?_some hr
    refine ⟨_, recoveryRetryTimeout_late hup hr hagain hlate, asksStep_request _ _ _ _ _ _ rfl, ?_⟩
    exact hseq ▸ mem_recov_request p s.now r.step true r (List.mem_of_find?_eq_some hr)

/-- R13, R24: a port whose training fails hands the packets of its replay buffer to the end-to-end layer. -/
theorem portTraining : Clauses.PortTraining := by
  intro s port p
  refine ⟨fun hl hstate => ⟨portTraining_stays (.inr rfl), _, portTraining_starts hl hstate, rfl, rfl, rfl, rfl, rfl, rfl, rfl, rfl, rfl⟩,
    fun hl hstate ok => portTraining_stays (.inl hstate), fun hl hstate =>
      ⟨fun four => retrainComplete_inTime four hl hstate, fun four => retrainComplete_late four, retrainTimeout_early,
        fun hlate hempty => ?_, fun x q u hlate hreplay hpkts hm hc hcls hu hr => ?_⟩⟩
  · have hnone : p.replay.flatMap (·.pkts) = [] := List.flatMap_eq_nil_iff.mpr hempty
    have hexec := retrainTimeout_late hl hstate hlate
    rw [show (portOf s port).replay.flatMap (·.pkts) = [] from hnone] at hexec
    exact portBecomes_updPort hexec rfl
  · have hexec := retrainTimeout_late hl hstate hlate
    have hone : (((portOf s port).replay.flatMap (·.pkts)).foldl (fun l q => addTo q l) []).filter
        (fun q => !q.mcast && !q.comb && decide (q.cls ≠ 5)) = [q] := by
      have hps : (portOf s port).replay.flatMap (·.pkts) = [q] := by
        rw [show (portOf s port).replay = [x] from hreplay]; simp [hpkts]
      simp [hps, addTo, hm, hc, hcls]
    rw [hone] at hexec
    simp only [List.foldl_cons, List.foldl_nil, resendOut_again (updPort s port downPort) (agChip q.dst) q.cls q.seq u hu hr] at hexec
    exact ⟨_, hexec, portOf_updPort_same s port downPort, rfl,
      mem_unacked_noteResend (updPort s port downPort) (e2eKey (agChip q.dst) q.cls) s.now q.seq u hu, rfl, rfl⟩

end Sys2Proof.Machine
end

section
/-! ### Packets that enter a port: their granules, the flits that carry them, the step (01 R18, R20; 02 R28, R31, R40) -/

namespace Sys2Proof.Machine
open Stated

/-! #### Granules -/

@[simp] theorem headBytes_length (p : Packet) : (headBytes p).length = 16 := by simp [headBytes, leBytes_length]

/-- A packet takes a granule for its header and one for each of its LEN. -/
@[simp] theorem packetBytes_length (p : Packet) (f : Nat) : (packetBytes p f).length = 16 * (1 + p.len) := by
  simp only [packetBytes, List.length_append, headBytes_length, List.length_take, List.length_map, List.length_range]
  omega

/-- Its header is its first granule. -/
theorem packetBytes_eq_head (p : Packet) (f : Nat) : ∃ body, packetBytes p f = headBytes p ++ body :=
  ⟨_, by simp only [packetBytes, List.append_assoc]; rfl⟩

/-- The granules of packets one behind another, with the free bytes from number f on. -/
def runBytes : Nat → List Packet → List Byte
  | _, [] => []
  | f, p :: ps => packetBytes p f ++ runBytes (f + 1) ps

/-- Drawing the packets' bytes one by one gives their run, and moves the free-value counter on. -/
theorem foldl_drawFree_packetBytes (ps : List Packet) : ∀ (bs : List Byte) (s : State),
    ps.foldl (fun (x : List Byte × State) p => let (f, s) := drawFree x.2; (x.1 ++ packetBytes p f, s)) (bs, s) =
      (bs ++ runBytes s.free ps, { s with free := s.free + ps.length }) := by
  induction ps with
  | nil => intro bs s; simp [runBytes]
  | cons p ps ih =>
    intro bs s
    rw [List.foldl_cons]
    refine (ih _ _).trans ?_
    simp [runBytes, Nat.add_assoc, Nat.add_comm 1]

theorem runBytes_length (ps : List Packet) : ∀ f, (runBytes f ps).length = 16 * granules ps := by
  induction ps with
  | nil => intro f; rfl
  | cons p ps ih => intro f; simp [runBytes, ih, granules, Nat.mul_add]

/-- Each packet's header stands where its granules begin, whatever stands before (o granules) and behind. -/
theorem head_in_runBytes (ps : List Packet) : ∀ (o f : Nat) (before behind : List Byte), before.length = 16 * o → ∀ x ∈ spansFrom o ps,
    ((before ++ runBytes f ps ++ behind).drop (16 * x.1)).take 16 = headBytes x.2.2 := by
  induction ps with
  | nil => intro o f before behind _ x hx; cases hx
  | cons p ps ih =>
    intro o f before behind hlen x hx
    rcases List.mem_cons.mp hx with rfl | hx
    · obtain ⟨body, hbody⟩ := packetBytes_eq_head p f
      simp [runBytes, hbody, ← hlen]
    · have hnext : (before ++ packetBytes p f).length = 16 * (o + 1 + p.len) := by simp [hlen]; omega
      simpa [runBytes] using ih (o + 1 + p.len) (f + 1) (before ++ packetBytes p f) behind hnext x hx

/-! #### Flits -/

/-- Filling up the first m bytes and the rest fills up the whole. -/
theorem fitBytes_take_drop (m n : Nat) (bs : List Byte) : fitBytes m (bs.take m) ++ fitBytes n (bs.drop m) = fitBytes (m + n) bs := by
  rcases Nat.le_total bs.length m with h | h
  · have hzeros : m + n - bs.length = (m - bs.length) + n := by omega
    have hall : bs.take (m + n) = bs := List.take_of_length_le (by omega)
    simp [fitBytes, hall, List.take_of_length_le h, List.drop_of_length_le h, hzeros]
  · have hzeros : n - (bs.length - m) = m + n - bs.length := by omega
    simp [fitBytes, h, List.take_add, hzeros]

@[simp] theorem cutFlits_length (k : Nat) : ∀ (p : Port) (cls seq : Nat) (bs : List Byte), (cutFlits p cls k seq bs).length = k := by
  induction k with
  | zero => intros; rfl
  | succ k ih => intros; simp [cutFlits, ih]

/-- The flits are whole data flits of the class with 15 granules each. -/
theorem mem_cutFlits (k : Nat) : ∀ (p : Port) (cls seq : Nat) (bs : List Byte), ∀ x ∈ cutFlits p cls k seq bs,
    x.kind = 0 ∧ x.cls = cls ∧ crcOk x = true ∧ x.payload.length = 240 := by
  induction k with
  | zero => intro p cls seq bs x hx; cases hx
  | succ k ih =>
    intro p cls seq bs x hx
    rcases List.mem_cons.mp hx with rfl | hx
    · simp
    · exact ih _ _ _ _ x hx

/-- Their payloads one behind another are the bytes, filled up. -/
theorem cutFlits_payload (k : Nat) : ∀ (p : Port) (cls seq : Nat) (bs : List Byte),
    (cutFlits p cls k seq bs).flatMap (·.payload) = fitBytes (240 * k) bs := by
  induction k with
  | zero => intros; simp [cutFlits, fitBytes]
  | succ k ih =>
    intro p cls seq bs
    rw [cutFlits, List.flatMap_cons, ih, newFlit_payload, fitBytes_take_drop, Nat.mul_succ, Nat.add_comm]

/-- The flits that are counted for packets have room for all their granules. -/
theorem granules_le_flitCount (ps : List Packet) : 16 * granules ps ≤ 240 * flitCount ps := by
  unfold flitCount; omega

/-- In the payloads of the flits that carry packets, each packet's header stands where its granules begin. -/
theorem head_in_cutFlits (q : Port) (cls seq f : Nat) (ps : List Packet) : ∀ x ∈ spansFrom 0 ps,
    (((cutFlits q cls (flitCount ps) seq (runBytes f ps)).flatMap (·.payload)).drop (16 * x.1)).take 16 = headBytes x.2.2 := by
  have hfits : (runBytes f ps).length ≤ 240 * flitCount ps := by rw [runBytes_length]; exact granules_le_flitCount ps
  rw [cutFlits_payload, fitBytes, List.take_of_length_le hfits]
  exact head_in_runBytes ps 0 f [] _ rfl

/-! #### PACKET_INJECT -/

@[simp] theorem paid_credits (p : Port) : (paid p).credits = p.credits := by unfold paid; split <;> rfl
@[simp] theorem paid_state (p : Port) : (paid p).state = p.state := by unfold paid; split <;> rfl

theorem sendsIdle_sendIdle (p : Port) : SendsIdle p (sendIdle p) :=
  ⟨newFlit p 1 0 p.txSeq [], rfl, rfl, crcOk_newFlit .., rfl, rfl, rfl, rfl, paid_credits p, paid_state p⟩

/-- The error injector changes nothing but its die (04 R74). -/
theorem inject_only_dies (s : State) (die cid target : Nat) : (inject s die cid target).2 = { s with dies := (inject s die cid target).2.dies } := by
  unfold inject
  dsimp only
  split <;> rfl

section
variable {s : State} {port n more : Nat}

/-- The operand's two numbers (the packet, and how many follow it). -/
theorem operand_split (hn : n < 2 ^ 32) : (n + 2 ^ 32 * more) % 2 ^ 32 = n ∧ (n + 2 ^ 32 * more) / 2 ^ 32 = more := by omega

theorem packetInject_off (h : isPort port = false ∨ portUp (portOf s port) = false) : exec (.packetInject port (n + 2 ^ 32 * more)) s = .next s := by
  change execPacketInject port _ s = _
  simp only [execPacketInject, if_pos h]

/-- With no packet waiting, or the greatest number of data flits unacknowledged, the port sends an idle flit where the replay buffer has room. -/
theorem packetInject_idle (hn : n < 2 ^ 32) (hp : isPort port = true) (hup : portUp (portOf s port) = true)
    (h : s.egress.drop n = [] ∨ 512 ≤ dataHeld (portOf s port)) :
    exec (.packetInject port (n + 2 ^ 32 * more)) s = .next (if (portOf s port).replay.length < 2048 then updPort s port sendIdle else s) := by
  change execPacketInject port _ s = _
  simp only [execPacketInject, hp, hup, operand_split hn, Bool.true_eq_false, or_self, if_false]
  split
  next => rfl
  next p rest hdrop => rw [if_pos (h.resolve_left (by simp [hdrop]))]

variable {p : Packet} {rest ps : List Packet}

/-- Packets without room in the replay buffer or without credits wait. -/
theorem packetInject_waits (hn : n < 2 ^ 32) (hp : isPort port = true) (hup : portUp (portOf s port) = true) (hdrop : s.egress.drop n = p :: rest)
    (hdata : dataHeld (portOf s port) < 512) (hps : ps = p :: (takeClass p.cls more rest).1)
    (h : 512 < dataHeld (portOf s port) + flitCount ps ∨ 2048 < (portOf s port).replay.length + flitCount ps ∨
      mgetD (portOf s port).credits p.cls 0 < granules ps) : exec (.packetInject port (n + 2 ^ 32 * more)) s = .next s := by
  subst hps
  change execPacketInject port _ s = _
  simp only [execPacketInject, hp, hup, operand_split hn, hdrop, Bool.true_eq_false, or_self, if_false, if_neg (Nat.not_le.mpr hdata)]
  exact if_pos h

/-- The port that has taken packets with the given flits, of which `sent` is what leaves. -/
def portTaking (ps : List Packet) (cls : Nat) (fs sent : List Flit) (q : Port) : Port :=
  { paidN (flitCount ps) q with
    txSeq := (q.txSeq + flitCount ps) % 4096, replay := q.replay ++ fs.zipIdx.map fun x => { flit := x.1, pkts := carriedBy ps x.2 }
    tx := q.tx ++ sent, credits := mput q.credits cls (mgetD q.credits cls 0 - granules ps) }

/-- Packets with room and credits enter: their flits go to the replay buffer, and as many are sent, the first of them perhaps damaged. -/
theorem packetInject_enters (hn : n < 2 ^ 32) (hp : isPort port = true) (hup : portUp (portOf s port) = true) (hdrop : s.egress.drop n = p :: rest)
    (hdata : dataHeld (portOf s port) < 512) (hps : ps = p :: (takeClass p.cls more rest).1)
    (hroom : dataHeld (portOf s port) + flitCount ps ≤ 512) (hreplay : (portOf s port).replay.length + flitCount ps ≤ 2048)
    (hcred : granules ps ≤ mgetD (portOf s port).credits p.cls 0) :
    ∃ ds sent, sent.length = flitCount ps ∧ exec (.packetInject port (n + 2 ^ 32 * more)) s =
      .next { updPort { s with free := s.free + ps.length, dies := ds } port
                (portTaking ps p.cls (cutFlits (portOf s port) p.cls (flitCount ps) (portOf s port).txSeq (runBytes s.free ps)) sent) with
              egress := s.egress.take n ++ (takeClass p.cls more rest).2, wire := s.wire ++ ps.filter fun p => p.mcast || p.comb } := by
  subst hps
  change ∃ ds sent, _ ∧ execPacketInject port _ s = _
  have henter : ¬ (512 < dataHeld (portOf s port) + flitCount (p :: (takeClass p.cls more rest).1) ∨
      2048 < (portOf s port).replay.length + flitCount (p :: (takeClass p.cls more rest).1) ∨
      mgetD (portOf s port).credits p.cls 0 < granules (p :: (takeClass p.cls more rest).1)) := by omega
  simp only [execPacketInject, hp, hup, operand_split hn, hdrop, Bool.true_eq_false, or_self, if_false, if_neg (Nat.not_le.mpr hdata), gt_iff_lt,
    if_neg henter, foldl_drawFree_packetBytes, List.nil_append]
  rw [inject_only_dies]
  refine ⟨_, _, ?_, rfl⟩
  have hlen := cutFlits_length (flitCount (p :: (takeClass p.cls more rest).1)) (portOf s port) p.cls (portOf s port).txSeq
    (runBytes s.free (p :: (takeClass p.cls more rest).1))
  split <;> simp_all

end

/-- R18, R20, R28, R31, R40: the packets' granules, cut into flits, enter together or wait together. -/
theorem packetsEnterPorts : Clauses.PacketsEnterPorts := by
  intro s port n more hn p
  refine ⟨packetInject_off, fun hp hup => ⟨fun h => ⟨fun hroom => ⟨sendIdle p, ?_, sendsIdle_sendIdle p⟩, fun hfull => ?_⟩, fun h rest hdrop hdata => ?_⟩⟩
  · exact portBecomes_updPort ((packetInject_idle hn hp hup h).trans (by rw [if_pos hroom])) rfl
  · rw [packetInject_idle hn hp hup h, if_neg (Nat.not_lt.mpr hfull)]
  · intro ps k
    refine ⟨packetInject_waits hn hp hup hdrop hdata rfl, fun hroom hreplay hcred => ?_⟩
    obtain ⟨ds, sent, hsent, hexec⟩ := packetInject_enters hn hp hup hdrop hdata rfl hroom hreplay hcred
    have hport := portOf_updPort_same { s with free := s.free + ps.length, dies := ds } port
      (portTaking ps h.cls (cutFlits p h.cls k p.txSeq (runBytes s.free ps)) sent)
    refine ⟨_, cutFlits p h.cls k p.txSeq (runBytes s.free ps), hexec, rfl, ?_, cutFlits_length .., mem_cutFlits _ _ _ _ _,
      head_in_cutFlits _ _ _ _ _, ?_, ?_, ?_, rfl, rfl, rfl⟩
    · exact congrArg Port.txSeq hport
    · exact congrArg Port.replay hport
    · exact (congrArg (·.tx.length) hport).trans (by rw [portTaking, List.length_append, hsent])
    · exact (congrArg (mgetD ·.credits h.cls 0) hport).trans (mgetD_mput_same ..)

/-- Settles O59: each step answers the port that its lemma gives, and the port has what the clause says of it. -/
theorem linkSteps : Obligations.LinkSteps := ⟨flitArrivals, flitRecovery, portTraining, packetsEnterPorts⟩

end Sys2Proof.Machine
end

section
/-! ### Channels, counters and triples: what reading gives after an update -/

namespace Sys2Proof.Machine

/-! #### Channels -/

@[simp] theorem chanQ_setChan_same (s : State) (src dst cls : Nat) (q : List Packet) : chanQ (setChan s src dst cls q) src dst cls = q := by
  have hrest : (s.chans.filter fun h => !decide (h.src = src ∧ h.dst = dst ∧ h.cls = cls)).find?
      (fun h => decide (h.src = src ∧ h.dst = dst ∧ h.cls = cls)) = none := by
    rw [List.find?_eq_none]
    intro h hh hsame
    have hother := (List.mem_filter.mp hh).2
    rw [hsame] at hother
    exact absurd hother (by decide)
  by_cases hq : q = []
  · simp only [chanQ, setChan, hq, if_true, hrest]
  · simp only [chanQ, setChan, if_neg hq, List.find?_append, hrest]
    simp

@[simp] theorem chanQ_chanPush_same (s : State) (p : Packet) : chanQ (chanPush s p) p.src p.dst p.cls = chanQ s p.src p.dst p.cls ++ [p] :=
  chanQ_setChan_same ..

@[simp] theorem chanQ_chanPop_same (s : State) (src dst cls : Nat) : chanQ (chanPop s src dst cls) src dst cls = (chanQ s src dst cls).tail :=
  chanQ_setChan_same ..

/-! #### Counters (04 R82) -/

theorem counters_count (s : State) (d n : Nat) (hn : n < 10) :
    (dieAt (count s d n) d).counters[n] = ((dieAt s d).counters[n] + 1) % 2 ^ 32 := by
  simp [count, Nat.mod_eq_of_lt hn]

/-! #### Packets that are numbered and sent (02 R35, R36) -/

/-- What `e2eNumber` makes of a packet that is no fence marker: its SEQ, and what the kernel is that it names. -/
def numbered (s : State) (p : Packet) : Packet :=
  { p with seq := (e2eOf s (e2eKey (agChip p.dst) p.cls)).txNext, kinfo := p.kinfo.orElse fun _ => kernelOf s (bodyKernel p.body) }

/-- A triple that keeps one packet more until it is acknowledged. -/
def keepSent (now : Nat) (q : Packet) (e : E2e) : E2e :=
  { e with txNext := (e.txNext + 1) % 2 ^ 24, unacked := e.unacked ++ [{ seq := e.txNext, pkt := q, sent := now }] }

/-- A packet that is neither a fence marker nor a counted store takes the next SEQ of its triple and goes to the ports; nothing else changes. -/
theorem e2eNumber_uncounted (s : State) (p : Packet) (hbody : ∀ n t, p.body ≠ .marker n t) (hcls : p.cls ≠ 1) :
    e2eNumber s p = { updE2e s (e2eKey (agChip p.dst) p.cls) (keepSent s.now (numbered s p)) with egress := s.egress ++ [numbered s p] } := by
  have hcount : ¬ (countedOp p.op = true ∧ p.cls = 1) := fun h => hcls h.2
  unfold e2eNumber
  dsimp only
  rw [if_neg hcount]
  split
  next n t h => exact absurd h (hbody n t)
  next => rfl

/-- A response to another chip is sent to it where its triple has room. -/
theorem respond_far (s : State) (p : Packet) (op : Nat) (body : Body) (hchip : agChip p.src ≠ s.chip) (hroom : canSend s p.src 4 = true)
    (hbody : ∀ n t, body ≠ .marker n t) :
    ∃ (es : SMap E2e) (r : Packet), respond s p op body = { s with e2e := es, egress := s.egress ++ [r] } ∧
      r.body = body ∧ r.dst = p.src ∧ r.cls = 4 ∧ r.op = op := by
  refine ⟨(respond s p op body).e2e, numbered s
    { dst := p.src, src := p.dst, cls := 4, op := op, cid := p.cid, inc := p.inc, rseq := p.seq, rcls := p.cls, len := 1, body := body },
    ?_, rfl, rfl, rfl, rfl⟩
  rw [respond, if_neg (fun h => hchip h.1), emit, if_neg hchip, e2eSend, if_pos hroom, e2eNumber_uncounted _ _ hbody (show 4 ≠ 1 by decide)]
  rfl

end Sys2Proof.Machine
end

section
/-! ### Acknowledgements that a target owes and sends (02 R35; 09 R175) -/

namespace Sys2Proof.Machine

/-- Of classes other than those of messages and streams, an acknowledgement covers every packet in sequence. -/
theorem ackNext_of_direct (s : State) (chip cls : Nat) (h2 : cls ≠ 2) (h3 : cls ≠ 3) : ackNext s chip cls = (e2eOf s (e2eKey chip cls)).rxNext :=
  if_pos ⟨h2, h3⟩

/-- An acknowledgement goes to the other chip's fabric agent. -/
theorem ackSend_egress (s : State) (chip cls : Nat) :
    ∃ q : Packet, (ackSend s chip cls).egress = s.egress ++ [q] ∧ q.body = .e2eack cls (ackNext s chip cls) ∧ q.op = 0x14 ∧ q.cls = 5 ∧
      q.dst = chip * 65536 + 7 * 4096 := ⟨_, rfl, rfl, rfl, rfl, rfl⟩

theorem ackSend_ackDue (s : State) (chip cls : Nat) (h2 : cls ≠ 2) (h3 : cls ≠ 3) : (e2eOf (ackSend s chip cls) (e2eKey chip cls)).ackDue = 0 := by
  have hrest : ∀ n, (n + 2 ^ 24 - n) % 2 ^ 24 = 0 := fun n => by omega
  rw [ackSend, e2eOf_updE2e_same, ackNext_of_direct s chip cls h2 h3]
  exact hrest _

/-- An acknowledgement leaves what the triple has received and expects. -/
theorem ackSend_rx (s : State) (chip cls : Nat) :
    let key := e2eKey chip cls
    (e2eOf (ackSend s chip cls) key).rxNext = (e2eOf s key).rxNext ∧ (e2eOf (ackSend s chip cls) key).rxHeld = (e2eOf s key).rxHeld := by
  simp [ackSend, e2eOf, updE2e]

theorem ackAt32_few (s : State) (chip cls : Nat) (h : (e2eOf s (e2eKey chip cls)).ackDue < 32) : ackAt32 s chip cls = s := if_neg (Nat.not_le.mpr h)

theorem ackAt32_many (s : State) (chip cls : Nat) (h : 32 ≤ (e2eOf s (e2eKey chip cls)).ackDue) : ackAt32 s chip cls = ackSend s chip cls := if_pos h

theorem ackAt32_rx (s : State) (chip cls : Nat) :
    let key := e2eKey chip cls
    (e2eOf (ackAt32 s chip cls) key).rxNext = (e2eOf s key).rxNext ∧ (e2eOf (ackAt32 s chip cls) key).rxHeld = (e2eOf s key).rxHeld := by
  unfold ackAt32
  split
  · exact ackSend_rx s chip cls
  · exact ⟨rfl, rfl⟩

/-- The acknowledgement after 32 packets changes the triple and what goes to the ports. -/
theorem ackAt32_only (s : State) (chip cls : Nat) :
    ackAt32 s chip cls = { s with e2e := (ackAt32 s chip cls).e2e, egress := (ackAt32 s chip cls).egress } := by
  unfold ackAt32
  split <;> rfl

end Sys2Proof.Machine
end

section
/-! ### Packets that arrive (02 R28, R30, R35) -/

namespace Sys2Proof.Machine

/-! #### What a packet must be -/

theorem badPacket_iff (p : Packet) : badPacket p = true ↔
    p.rsv ≠ 0 ∨ opClass p.op ≠ some p.cls ∨ bodyFits p.op p.body = false ∨ 256 < p.len ∨ (p.comb = true ∧ p.mcast = false) := by
  simp [badPacket, or_assoc]

/-- A malformed packet is dropped and counted in its turn. Stores are counted among those taken, too (02 R39). -/
theorem takeIn_bad (s : State) (p : Packet) (hcls : p.cls ≠ 1) (hbad : badPacket p = true) : takeIn s p = count s (agDie p.dst) 2 := by
  simp [takeIn, hcls, hbad]

/-- A well-formed message of a living incarnation joins its channel in its turn. -/
theorem takeIn_msg (s : State) (p : Packet) (h : MsgHdr) (pay : List Byte) (bad : Bool) (hcls : p.cls = 2) (hbody : p.body = .msg h pay bad)
    (hkinfo : p.kinfo = none) (hgood : badPacket p = false) (hctx : (mget (dieAt s (agDie p.dst)).incTab p.cid).isSome = true)
    (hinc : incOk s (fabOf s (agDie p.dst)) p.cid p.inc = true) : takeIn s p = chanPush s p := by
  simp [takeIn, handOff, learn, hcls, hbody, hkinfo, hgood, hinc, Option.isSome_iff_ne_none.mp hctx]

/-! #### Its turn -/

/-- The triple once a packet's turn has come: NEXT has moved on, and one packet more is to be acknowledged. -/
def turnCome (now : Nat) (e : E2e) : E2e := ackOwed now { e with rxNext := (e.rxNext + 1) % 2 ^ 24 }

/-- A packet in sequence is taken in, and, where nothing held follows it, nothing else is. -/
theorem takeInOrder_alone {s t : State} {chip cls n : Nat} {p : Packet} (hcls : cls < 16)
    (hnone : mget (e2eOf s (e2eKey chip cls)).rxHeld (((e2eOf s (e2eKey chip cls)).rxNext + 1) % 2 ^ 24) = none)
    (ht : takeIn (updE2e s (e2eKey chip cls) (turnCome s.now)) p = t) (hkeeps : t.e2e = (updE2e s (e2eKey chip cls) (turnCome s.now)).e2e) :
    takeInOrder (e2eKey chip cls) (n + 1) p s = ackAt32 t chip cls := by
  have hkey : e2eKey chip cls / 16 = chip ∧ e2eKey chip cls % 16 = cls := by unfold e2eKey; omega
  have htriple : e2eOf t (e2eKey chip cls) = turnCome s.now (e2eOf s (e2eKey chip cls)) := by
    rw [e2eOf, hkeeps]; exact e2eOf_updE2e_same ..
  obtain ⟨hnext, hheld⟩ := ackAt32_rx t chip cls
  have hlast : mget (e2eOf (ackAt32 t chip cls) (e2eKey chip cls)).rxHeld (e2eOf (ackAt32 t chip cls) (e2eKey chip cls)).rxNext = none := by
    rw [hnext, hheld, htriple]; exact hnone
  have hturn : updE2e s (e2eKey chip cls) (fun e => ackOwed s.now { e with rxNext := (e.rxNext + 1) % 2 ^ 24 }) =
      updE2e s (e2eKey chip cls) (turnCome s.now) := rfl
  simp only [takeInOrder, hturn, ht, hkey, hlast]

end Sys2Proof.Machine
end

section
/-! ### What the NIC engines of both dies owe where they have no requests (23 R377) -/

namespace Sys2Proof.Machine

/-- Neither die's NIC engine has a request. -/
def NoRequests (s : State) : Prop := ∀ die, (nicAt s die).wrqs = []

theorem noRequests_of {s : State} (h0 : (nicAt s 0).wrqs = []) (h1 : (nicAt s 1).wrqs = []) : NoRequests s := by
  intro die
  rcases Nat.mod_two_eq_zero_or_one die with h | h
  · have hdie : nicAt s die = nicAt s 0 := by simp [nicAt, dieAt, h]
    rw [hdie, h0]
  · have hdie : nicAt s die = nicAt s 1 := by simp [nicAt, dieAt, h]
    rw [hdie, h1]

/-- A package's next state in which only its dies differ, and in which neither has a request. -/
def QuietDies (s t : State) : Prop := t = { s with dies := t.dies } ∧ NoRequests t

theorem quietDies_trans {s t u : State} (hst : QuietDies s t) (htu : QuietDies t u) : QuietDies s u :=
  ⟨htu.1.trans (by rw [hst.1]), htu.2⟩

theorem quietDies_updNic {s : State} (h : NoRequests s) (die : Nat) (f : Nic → Nic) (hf : ∀ n, n.wrqs = [] → (f n).wrqs = []) :
    QuietDies s (updNic s die f) := by
  refine ⟨rfl, fun d => ?_⟩
  by_cases hd : d % 2 = die % 2
  · have hsame : nicAt (updNic s die f) d = f (nicAt s die) := by simp [nicAt, updNic, updDie, setDie, dieAt, hd]
    rw [hsame]
    exact hf _ (h die)
  · have hother : nicAt (updNic s die f) d = nicAt s d := congrArg Die.nic (dieAt_setDie_other s die d _ hd)
    rw [hother]
    exact h d

theorem quietDies_rxPut {s : State} (h : NoRequests s) (die : Nat) (x : RxPair) : QuietDies s (rxPut s die x) :=
  quietDies_updNic h die _ fun _ hn => hn

theorem quietDies_sackSend {s : State} (h : NoRequests s) (die : Nat) (x : RxPair) : QuietDies s (sackSend s die x) := by
  unfold sackSend
  exact quietDies_updNic h die _ fun _ hn => hn

/-- A packet noted as received, and acknowledged. -/
theorem quietDies_rxTake {s : State} (h : NoRequests s) (die : Nat) (p : NicPkt) : QuietDies s (rxTake s die p) :=
  quietDies_trans (quietDies_rxPut h die _) (quietDies_sackSend (quietDies_rxPut h die _).2 die _)

theorem quietDies_foldl {α : Type} {f : State → α → State} (hf : ∀ t a, NoRequests t → QuietDies t (f t a)) (as : List α) :
    ∀ s, NoRequests s → QuietDies s (as.foldl f s) := by
  induction as with
  | nil => exact fun s h => ⟨rfl, h⟩
  | cons a as ih => exact fun s h => quietDies_trans (hf s a h) (ih _ (hf s a h).2)

theorem quietDies_nicPlaced {s : State} (h : NoRequests s) (die : Nat) : QuietDies s (nicPlaced s die) := by
  refine quietDies_foldl (fun t q ht => ?_) _ s h
  have hplace := quietDies_updNic ht die (fun n => { n with
    placing := n.placing.filter fun x => !decide (x.id = q.id)
    wrqs := n.wrqs.map fun r => if q.req = some r.id then { r with far := r.far - 1 } else r }) fun n hn => by simp [hn]
  exact quietDies_trans hplace (quietDies_rxTake hplace.2 die q.pkt)

theorem nicSettle_of_noRequests {s : State} (h : NoRequests s) (die : Nat) : nicSettle s die = s := by
  simp [nicSettle, h die]

/-- Without requests, the engines only acknowledge packets. -/
theorem nicDue_only_dies {s : State} (h : NoRequests s) : nicDue s = { s with dies := (nicDue s).dies } := by
  have hplaced := quietDies_trans (quietDies_nicPlaced h 0) (quietDies_nicPlaced (quietDies_nicPlaced h 0).2 1)
  have hdue : nicDue s = nicPlaced (nicPlaced s 0) 1 := by
    rw [nicDue, nicSettle_of_noRequests hplaced.2, nicSettle_of_noRequests hplaced.2]
  rw [hdue]
  exact hplaced.1

end Sys2Proof.Machine
end

section
/-! ### The end-to-end steps (02 R35 to R37) -/

namespace Sys2Proof.Machine

/-! #### FABRIC_PACKET_ARRIVE -/

section
variable {s : State} {p : Packet}

/-- A unicast packet in sequence of another chip of the domain reaches this chip. -/
structure Reaches (s : State) (p : Packet) : Prop where
  dst : agChip p.dst = s.chip
  domain : agChip p.src ∈ s.domain
  src : agChip p.src ≠ s.chip
  unicast : p.mcast = false
  cls : p.cls < 16
  sequenced : p.cls ≠ 5

/-- The triple of a packet that arrives. -/
abbrev keyFrom (p : Packet) : Nat := e2eKey (agChip p.src) p.cls

/-- How far a packet's SEQ is ahead of NEXT. -/
def seqAhead (s : State) (p : Packet) : Nat := (p.seq + 2 ^ 24 - (e2eOf s (keyFrom p)).rxNext) % 2 ^ 24

theorem fabricPacketArrive_eq (h : Reaches s p) : exec (.fabricPacketArrive p) s =
    if seqAhead s p = 0 then .next (takeInOrder (keyFrom p) 1024 p s)
    else if seqAhead s p < 1024 then .next (updE2e s (keyFrom p) fun e => { e with rxHeld := mput e.rxHeld (p.seq % 2 ^ 24) p })
    else .next (ackAt32 (updE2e (count s (agDie p.dst) 7) (keyFrom p) (ackOwed s.now)) (agChip p.src) p.cls) := by
  obtain ⟨hdst, hdomain, hsrc, hunicast, hcls, hsequenced⟩ := h
  have henter : ¬ (agChip p.dst ≠ s.chip ∨ agChip p.src ∉ s.domain ∨ agChip p.src = s.chip ∨ p.mcast = true ∨ 16 ≤ p.cls) := by
    simp [hdst, hdomain, hsrc, hunicast, hcls]
  exact (if_neg henter).trans (if_neg hsequenced)

/-- A packet ahead of its turn is held. -/
theorem fabricPacketArrive_ahead (h : Reaches s p) (hpos : 0 < seqAhead s p) (hlt : seqAhead s p < 1024) :
    exec (.fabricPacketArrive p) s = .next (updE2e s (keyFrom p) fun e => { e with rxHeld := mput e.rxHeld (p.seq % 2 ^ 24) p }) := by
  rw [fabricPacketArrive_eq h, if_neg (by omega), if_pos hlt]

/-- A repeat is counted and acknowledged again. -/
theorem fabricPacketArrive_repeat (h : Reaches s p) (hle : 1024 ≤ seqAhead s p) :
    exec (.fabricPacketArrive p) s =
      .next (ackAt32 (updE2e (count s (agDie p.dst) 7) (keyFrom p) (ackOwed s.now)) (agChip p.src) p.cls) := by
  rw [fabricPacketArrive_eq h, if_neg (by omega), if_neg (by omega)]

/-- A packet whose turn it is is taken in. -/
theorem fabricPacketArrive_turn {t : State} (h : Reaches s p) (hzero : seqAhead s p = 0)
    (hnone : mget (e2eOf s (keyFrom p)).rxHeld (((e2eOf s (keyFrom p)).rxNext + 1) % 2 ^ 24) = none)
    (ht : takeIn (updE2e s (keyFrom p) (turnCome s.now)) p = t) (hkeeps : t.e2e = (updE2e s (keyFrom p) (turnCome s.now)).e2e) :
    exec (.fabricPacketArrive p) s = .next (ackAt32 t (agChip p.src) p.cls) := by
  rw [fabricPacketArrive_eq h, if_pos hzero, takeInOrder_alone h.cls hnone ht hkeeps]

end

/-! #### E2EACK_SEND -/

theorem e2eackSend_idle {s : State} {chip cls : Nat} (h : (e2eOf s (e2eKey chip cls)).ackDue = 0) : exec (.e2eackSend chip cls) s = .next s := by
  change execE2eackSend chip cls s = _
  rw [execE2eackSend, if_pos h]

theorem e2eackSend_due {s : State} {chip cls : Nat} (h : (e2eOf s (e2eKey chip cls)).ackDue ≠ 0) :
    exec (.e2eackSend chip cls) s = .next (ackSend s chip cls) := by
  change execE2eackSend chip cls s = _
  rw [execE2eackSend, if_neg h]

/-! #### E2EACK_RECEIVE -/

section
variable {s : State} {chip cls next : Nat} {u : E2eOut}

/-- Whether an acknowledgement with this NEXT covers a packet. -/
def covers (next : Nat) (u : E2eOut) : Bool := decide ((next + 2 ^ 24 - u.seq - 1) % 2 ^ 24 < 2 ^ 23)

/-- The triple without the packets that an acknowledgement covers. -/
def uncoveredBy (next : Nat) (e : E2e) : E2e := { e with unacked := e.unacked.filter fun u => !covers next u }

@[simp] theorem uncoveredBy_waiting (next : Nat) (e : E2e) : (uncoveredBy next e).waiting = e.waiting := rfl

/-- The sources of packets learn of their acknowledgement, and packets of the triple that wait leave. -/
def learnAcks (key : Nat) (us : List E2eOut) (s : State) : State :=
  let t := us.foldl (fun s u => acked s u.pkt) s
  e2eDrain key (e2eOf t key).waiting.length t

theorem e2eackReceive_eq : exec (.e2eackReceive chip cls next) s =
    let key := e2eKey chip cls
    let us := (e2eOf s key).unacked.filter (covers next)
    let t := learnAcks key us (updE2e s key (uncoveredBy next))
    .next (if us = [] then t else nicDue t) := rfl

/-- An acknowledgement that does not cover the only packet of a triple changes nothing of it. -/
theorem e2eackReceive_uncovered (hu : (e2eOf s (e2eKey chip cls)).unacked = [u]) (hwait : (e2eOf s (e2eKey chip cls)).waiting = [])
    (hno : 2 ^ 23 ≤ (next + 2 ^ 24 - u.seq - 1) % 2 ^ 24) :
    exec (.e2eackReceive chip cls next) s = .next (updE2e s (e2eKey chip cls) (uncoveredBy next)) := by
  have hu' : [u].filter (covers next) = [] := List.filter_cons_of_neg (by simpa [covers] using hno)
  simp [e2eackReceive_eq, hu, hu', learnAcks, hwait, e2eDrain]

/-- The only packet of a triple, acknowledged: its source learns it, packets that wait leave, and the NIC engines, without requests, have no more to do than
to acknowledge what they have received. -/
theorem e2eackReceive_covered {t : State} (hu : (e2eOf s (e2eKey chip cls)).unacked = [u]) (hcov : (next + 2 ^ 24 - u.seq - 1) % 2 ^ 24 < 2 ^ 23)
    (ht : learnAcks (e2eKey chip cls) [u] (updE2e s (e2eKey chip cls) (uncoveredBy next)) = t) (hreq : NoRequests t) :
    ∃ t', exec (.e2eackReceive chip cls next) s = .next t' ∧ t'.e2e = t.e2e ∧ t'.egress = t.egress ∧ t'.cores = t.cores ∧ t'.mem = t.mem := by
  have hu' : [u].filter (covers next) = [u] := List.filter_cons_of_pos (decide_eq_true hcov)
  have hexec : exec (.e2eackReceive chip cls next) s = .next (nicDue t) := by
    rw [← ht, e2eackReceive_eq]
    simp only [hu, hu', if_neg (List.cons_ne_nil u [])]
  rw [nicDue_only_dies hreq] at hexec
  exact ⟨_, hexec, rfl, rfl, rfl, rfl⟩

/-- Such a triple has nothing left to be acknowledged. -/
theorem unacked_uncoveredBy (hu : (e2eOf s (e2eKey chip cls)).unacked = [u]) (hcov : (next + 2 ^ 24 - u.seq - 1) % 2 ^ 24 < 2 ^ 23) :
    (uncoveredBy next (e2eOf s (e2eKey chip cls))).unacked = [] := by
  have hu' : covers next u = true := decide_eq_true hcov
  simp [uncoveredBy, hu, hu']

end

/-! What the source of a packet learns from its acknowledgement (09 R175). -/

/-- Of a load whose incarnation lives, nothing. -/
theorem acked_load {s : State} {p : Packet} {a w tok : Nat} (hcls : p.cls = 0) (hbody : p.body = .load a w tok) (hinc : incOk s p.src p.cid p.inc = true) :
    acked s p = s := by
  simp [acked, hcls, hbody, hinc]

/-- The core that learns that an effect has been applied at a target. -/
def effectApplied (tok dst : Nat) (k : Core) : Core := { k with unack := markFirst tok dst k.unack }

/-- Of a core's message, that it has been applied. -/
theorem acked_msg {s : State} {p : Packet} {h : MsgHdr} {pay : List Byte} {bad : Bool} (hcls : p.cls = 2) (hbody : p.body = .msg h pay bad)
    (hchip : agChip p.src = s.chip) (hcore : agIsCore p.src = true) (heng : isEng p.tok = false) (hred : isRedTok p.tok = false) :
    acked s p = updCore s (agCore p.src) (effectApplied p.tok p.dst) := by
  have hnic : agKind p.src ≠ 4 := by
    intro h
    simp [agIsCore, h] at hcore
  have happlied : acked s p = updCore s (agCore p.src) fun k => { k with unack := markFirst p.tok p.dst k.unack } := by
    simp [acked, markApplied, hcls, hbody, hchip, hcore, heng, hred, hnic]
  exact happlied

/-! Packets that wait at injection (02 R36). -/

/-- A triple without packets that wait. -/
def noneWaits (e : E2e) : E2e := { e with waiting := [] }

/-- The only packet that waits leaves where there is room. -/
theorem e2eDrain_one {s : State} {key : Nat} {p : Packet} (hwait : (e2eOf s key).waiting = [p]) (hroom : (e2eOf s key).unacked.length < 1024)
    (hkey : e2eKey (agChip p.dst) p.cls = key) (hbody : ∀ n t, p.body ≠ .marker n t) (hcls : p.cls ≠ 1) :
    let s' := updE2e s key noneWaits
    e2eDrain key 1 s = { updE2e s' key (keepSent s.now (numbered s' p)) with egress := s.egress ++ [numbered s' p] } := by
  have hnumber := e2eNumber_uncounted (updE2e s key noneWaits) p hbody hcls
  rw [hkey] at hnumber
  have hwait' : (mgetD s.e2e key {}).waiting = [p] := hwait
  simp only [e2eDrain, hwait']
  exact (if_pos hroom).trans hnumber

/-! An acknowledgement of the only packet of a triple (02 R36). -/

section
variable {s t : State} {chip cls next : Nat} {u : E2eOut}

/-- Its source learns it, and where none waits nothing leaves. -/
theorem e2eackReceive_noneWaits (hu : (e2eOf s (e2eKey chip cls)).unacked = [u]) (hcov : (next + 2 ^ 24 - u.seq - 1) % 2 ^ 24 < 2 ^ 23)
    (hwait : (e2eOf s (e2eKey chip cls)).waiting = []) (ht : acked (updE2e s (e2eKey chip cls) (uncoveredBy next)) u.pkt = t)
    (hkeeps : t.e2e = (updE2e s (e2eKey chip cls) (uncoveredBy next)).e2e) (hreq : NoRequests t) :
    ∃ t', exec (.e2eackReceive chip cls next) s = .next t' ∧ (e2eOf t' (e2eKey chip cls)).unacked = [] ∧ t'.cores = t.cores ∧ t'.mem = t.mem := by
  have htriple : e2eOf t (e2eKey chip cls) = uncoveredBy next (e2eOf s (e2eKey chip cls)) := by
    rw [e2eOf, hkeeps]; exact e2eOf_updE2e_same ..
  have hlearn : learnAcks (e2eKey chip cls) [u] (updE2e s (e2eKey chip cls) (uncoveredBy next)) = t := by
    simp [learnAcks, ht, htriple, hwait, e2eDrain]
  obtain ⟨t', hexec, he2e, -, hcores, hmem⟩ := e2eackReceive_covered hu hcov hlearn hreq
  refine ⟨t', hexec, ?_, hcores, hmem⟩
  rw [e2eOf, he2e]
  exact (congrArg E2e.unacked htriple).trans (unacked_uncoveredBy hu hcov)

/-- Where one waits, it leaves. -/
theorem e2eackReceive_oneWaits {p : Packet} (hu : (e2eOf s (e2eKey chip cls)).unacked = [u]) (hcov : (next + 2 ^ 24 - u.seq - 1) % 2 ^ 24 < 2 ^ 23)
    (hwait : (e2eOf s (e2eKey chip cls)).waiting = [p])
    (hacked : acked (updE2e s (e2eKey chip cls) (uncoveredBy next)) u.pkt = updE2e s (e2eKey chip cls) (uncoveredBy next))
    (hkey : e2eKey (agChip p.dst) p.cls = e2eKey chip cls) (hbody : ∀ n t, p.body ≠ .marker n t) (hcls : p.cls ≠ 1) (hreq : NoRequests s) :
    ∃ (t : State) (q : Packet), exec (.e2eackReceive chip cls next) s = .next t ∧ t.egress = s.egress ++ [q] ∧ q.body = p.body ∧
      q.seq = (e2eOf s (e2eKey chip cls)).txNext ∧ q.dst = p.dst ∧
      e2eOf t (e2eKey chip cls) = keepSent s.now q { e2eOf s (e2eKey chip cls) with unacked := [], waiting := [] } ∧ t.cores = s.cores ∧ t.mem = s.mem := by
  have htriple : e2eOf (updE2e s (e2eKey chip cls) (uncoveredBy next)) (e2eKey chip cls) = { e2eOf s (e2eKey chip cls) with unacked := [] } := by
    rw [e2eOf_updE2e_same, ← unacked_uncoveredBy hu hcov]
    rfl
  have hdrain := e2eDrain_one (s := updE2e s (e2eKey chip cls) (uncoveredBy next)) (by rw [htriple]; exact hwait)
    (by rw [htriple]; exact Nat.succ_pos _) hkey hbody hcls
  have hlearn : learnAcks (e2eKey chip cls) [u] (updE2e s (e2eKey chip cls) (uncoveredBy next)) =
      e2eDrain (e2eKey chip cls) 1 (updE2e s (e2eKey chip cls) (uncoveredBy next)) := by
    simp [learnAcks, hacked, hwait]
  obtain ⟨t, hexec, he2e, hegress, hcores, hmem⟩ := e2eackReceive_covered hu hcov (hlearn.trans hdrain) hreq
  refine ⟨t, _, hexec, hegress, rfl, ?_, rfl, ?_, hcores, hmem⟩
  · rw [numbered, hkey, e2eOf_updE2e_same, htriple]
    rfl
  · rw [e2eOf, he2e]
    refine (e2eOf_updE2e_same ..).trans ?_
    rw [e2eOf_updE2e_same, htriple]
    rfl

end

/-! #### E2E_TIMEOUT -/

section
variable {s : State} {chip cls seq : Nat} {u : E2eOut}

theorem e2eTimeout_early (hu : (e2eOf s (e2eKey chip cls)).unacked.find? (fun x => decide (x.seq = seq)) = some u) (h : s.now - u.sent < 800000) :
    exec (.e2eTimeout chip cls seq) s = .next s := by
  change execE2eTimeout chip cls seq s = _
  simp only [execE2eTimeout, hu, e2eTo, ge_iff_le, if_neg (Nat.not_le.mpr h)]

theorem e2eTimeout_late (hu : (e2eOf s (e2eKey chip cls)).unacked.find? (fun x => decide (x.seq = seq)) = some u) (h : 800000 ≤ s.now - u.sent) :
    exec (.e2eTimeout chip cls seq) s = .next (resendOut s chip cls seq) := by
  change execE2eTimeout chip cls seq s = _
  simp only [execE2eTimeout, hu, e2eTo, ge_iff_le, if_pos h]

/-- A resend drops nothing. -/
theorem noteResend_unacked_length (now seq : Nat) (e : E2e) : (noteResend now seq e).unacked.length = e.unacked.length := List.length_map _

/-- After three resends the pair of chips is unreachable. -/
theorem resendOut_dead (hu : (e2eOf s (e2eKey chip cls)).unacked.find? (fun x => decide (x.seq = seq)) = some u) (h : 3 ≤ u.resends) :
    resendOut s chip cls seq = declareDead s chip cls := by
  simp only [resendOut, hu, ge_iff_le, if_pos h]

end

end Sys2Proof.Machine
end

section
/-! ### Fence markers, their answers, and unreachable chips (02 R39; 10 R204) -/

namespace Sys2Proof.Machine

/-! #### FENCE_MARKER_ARRIVE -/

section
variable {s : State} {src die : Nat} {q : Packet} {n tok : Nat} {rest : List Packet}

/-- A marker waits for the stores before it. -/
theorem fenceMarkerArrive_waits (hq : chanQ s src (fabOf s die) 1 = q :: rest) (hbody : q.body = .marker n tok)
    (hinc : incOk s (fabOf s die) q.cid q.inc = true) (hbefore : storeBefore s (agChip src) die q.seq = true) :
    exec (.fenceMarkerArrive src die) s = .next s := by
  change execFenceMarkerArrive src die s = _
  simp [execFenceMarkerArrive, hq, hbody, hinc, hbefore]

/-- With the stores applied, a marker whose count agrees is answered. -/
theorem fenceMarkerArrive_agrees (hq : chanQ s src (fabOf s die) 1 = q :: rest) (hbody : q.body = .marker n tok)
    (hinc : incOk s (fabOf s die) q.cid q.inc = true) (hbefore : storeBefore s (agChip src) die q.seq = false) (hcount : q.rseq % 2 ^ 32 = n % 2 ^ 32) :
    exec (.fenceMarkerArrive src die) s = .next (respond (chanPop s src (fabOf s die) 1) q 0x19 (.fenceack tok 0)) := by
  change execFenceMarkerArrive src die s = _
  simp only [execFenceMarkerArrive, hq, hbody, hinc, hbefore, if_pos hcount, Bool.not_true, Bool.false_eq_true, if_false]

/-- The die that has set its count of a chip's stores to a marker's, with what it has taken since the marker's turn. -/
def countSet (chip n r : Nat) (d : Die) : Die := { d with taken := mupd d.taken chip 0 fun m => (n + 2 ^ 32 + m - r % 2 ^ 32) % 2 ^ 32 }

theorem taken_countSet (chip n r : Nat) (d : Die) :
    mgetD (countSet chip n r d).taken chip 0 = (n + 2 ^ 32 + mgetD d.taken chip 0 - r % 2 ^ 32) % 2 ^ 32 :=
  mgetD_mupd_same _ _ _ fun m => (n + 2 ^ 32 + m - r % 2 ^ 32) % 2 ^ 32

/-- One whose count does not is answered with CNTMISS, and the die's count is set to the marker's. -/
theorem fenceMarkerArrive_misses (hq : chanQ s src (fabOf s die) 1 = q :: rest) (hbody : q.body = .marker n tok)
    (hinc : incOk s (fabOf s die) q.cid q.inc = true) (hbefore : storeBefore s (agChip src) die q.seq = false) (hcount : q.rseq % 2 ^ 32 ≠ n % 2 ^ 32) :
    exec (.fenceMarkerArrive src die) s =
      .next (respond (updDie (chanPop s src (fabOf s die) 1) die (countSet (agChip src) n q.rseq)) q 0x19 (.fenceack tok 0x2A)) := by
  change execFenceMarkerArrive src die s = _
  simp only [execFenceMarkerArrive, hq, hbody, hinc, hbefore, if_neg hcount, Bool.not_true, Bool.false_eq_true, if_false]
  rfl

/-- Either way the answer goes back to the marker's chip, and says whether the counts agreed. -/
theorem fenceMarkerArrive_answers (hq : chanQ s src (fabOf s die) 1 = q :: rest) (hbody : q.body = .marker n tok)
    (hinc : incOk s (fabOf s die) q.cid q.inc = true) (hbefore : storeBefore s (agChip src) die q.seq = false) (hchip : agChip q.src ≠ s.chip)
    (hroom : canSend s q.src 4 = true) :
    ∃ (es : SMap E2e) (r : Packet), exec (.fenceMarkerArrive src die) s =
        .next { (if q.rseq % 2 ^ 32 = n % 2 ^ 32 then chanPop s src (fabOf s die) 1
                 else updDie (chanPop s src (fabOf s die) 1) die (countSet (agChip src) n q.rseq)) with e2e := es, egress := s.egress ++ [r] } ∧
      r.body = .fenceack tok (if q.rseq % 2 ^ 32 = n % 2 ^ 32 then 0 else 0x2A) ∧ r.dst = q.src ∧ r.cls = 4 ∧ r.op = 0x19 := by
  by_cases hcount : q.rseq % 2 ^ 32 = n % 2 ^ 32
  · simp only [if_pos hcount, fenceMarkerArrive_agrees hq hbody hinc hbefore hcount, Host.Outcome.next.injEq]
    exact respond_far (chanPop s src (fabOf s die) 1) q 0x19 (.fenceack tok 0) hchip hroom (by simp)
  · simp only [if_neg hcount, fenceMarkerArrive_misses hq hbody hinc hbefore hcount, Host.Outcome.next.injEq]
    exact respond_far (updDie (chanPop s src (fabOf s die) 1) die (countSet (agChip src) n q.rseq)) q 0x19 (.fenceack tok 0x2A) hchip hroom (by simp)

end

/-! #### FENCEACK_RECEIVE -/

theorem fenceackReceive_eq {s : State} {src core : Nat} {q : Packet} {tok cause : Nat} {rest : List Packet}
    (hq : chanQ s src (niOf s core) 4 = q :: rest) (hbody : q.body = .fenceack tok cause) (hinc : incOk s (niOf s core) q.cid q.inc = true) :
    exec (.fenceackReceive src core) s = .next (fenceackAt (chanPop s src (niOf s core) 4) core tok cause) := by
  change execFenceackReceive src core s = _
  simp [execFenceackReceive, hq, hbody, hinc]

/-- The core whose marker to a die has been answered: its entry is gone, and the stores to the die are applied. -/
def fenceAnswered (tok die : Nat) (k : Core) : Core :=
  { k with
    out := k.out.filter fun o => !decide (o.tok = tok)
    unack := k.unack.map fun u => if u.w ≠ 0 ∧ agChip u.target * 2 + agDie u.target = die ∧ u.target ≠ 0 then { u with applied := true } else u }

/-- The core that owes a trap at its next boundary, unless it owes one already (12 R235). -/
def owing (cause : Nat) (detail : Option Word) (k : Core) : Core := { k with owed := if k.owed = none then some (cause, detail) else k.owed }

theorem oweTrap_none {s : State} {c cause : Nat} {detail : Option Word} (h : (coreOf s c).owed = none) :
    oweTrap s c cause detail = updCore s c fun k => { k with owed := some (cause, detail) } := if_neg (by simp [h])

theorem oweTrap_some {s : State} {c cause : Nat} {detail : Option Word} (h : (coreOf s c).owed ≠ none) : oweTrap s c cause detail = s :=
  if_pos (Option.isSome_iff_ne_none.mpr h)

theorem coreOf_oweTrap_same (s : State) (c cause : Nat) (detail : Option Word) : coreOf (oweTrap s c cause detail) c = owing cause detail (coreOf s c) := by
  by_cases h : (coreOf s c).owed = none
  · rw [oweTrap_none h, coreOf_updCore_same, owing, if_pos h]
  · rw [oweTrap_some h, owing, if_neg h]

theorem coreOf_oweTrap_other (s : State) (c d cause : Nat) (detail : Option Word) (hd : d ≠ c) : coreOf (oweTrap s c cause detail) d = coreOf s d := by
  by_cases h : (coreOf s c).owed = none
  · rw [oweTrap_none h, coreOf_updCore_other _ _ _ _ hd]
  · rw [oweTrap_some h]

theorem oweTrap_only_cores (s : State) (c cause : Nat) (detail : Option Word) :
    oweTrap s c cause detail = { s with cores := (oweTrap s c cause detail).cores } := by
  by_cases h : (coreOf s c).owed = none
  · rw [oweTrap_none h]; rfl
  · rw [oweTrap_some h]

section
variable {s : State} {c tok cause : Nat} {o : OutE}

/-- The answer to a marker completes its entry, and CNTMISS is owed where the activation runs on. -/
theorem fenceackAt_eq (ho : (coreOf s c).out.find? (fun o => decide (o.tok = tok)) = some o) : fenceackAt s c tok cause =
    if o.live = true ∧ cause = 0x2A then oweTrap (updCore s c (fenceAnswered tok o.g)) c 0x2A (some (wd o.g))
    else updCore s c (fenceAnswered tok o.g) := by
  simp only [fenceackAt, ho, Bool.and_eq_true, decide_eq_true_eq]
  rfl

theorem coreOf_fenceackAt_same (ho : (coreOf s c).out.find? (fun o => decide (o.tok = tok)) = some o) :
    coreOf (fenceackAt s c tok cause) c =
      if o.live = true ∧ cause = 0x2A then owing 0x2A (some (wd o.g)) (fenceAnswered tok o.g (coreOf s c)) else fenceAnswered tok o.g (coreOf s c) := by
  rw [fenceackAt_eq ho, apply_ite (coreOf · c), coreOf_oweTrap_same, coreOf_updCore_same]

theorem coreOf_fenceackAt_other {d : Nat} (ho : (coreOf s c).out.find? (fun o => decide (o.tok = tok)) = some o) (hd : d ≠ c) :
    coreOf (fenceackAt s c tok cause) d = coreOf s d := by
  rw [fenceackAt_eq ho, apply_ite (coreOf · d), coreOf_oweTrap_other _ _ _ _ _ hd, coreOf_updCore_other _ _ _ _ hd, ite_self]

theorem fenceackAt_only_cores (ho : (coreOf s c).out.find? (fun o => decide (o.tok = tok)) = some o) :
    fenceackAt s c tok cause = { s with cores := (fenceackAt s c tok cause).cores } := by
  rw [fenceackAt_eq ho]
  split
  · rw [oweTrap_only_cores]; rfl
  · rfl

end

/-! #### UNREACHABLE_DECLARATION_RECEIVE -/

/-- The ends that an NI holds whose peers lie on a chip. -/
def endsTo (s : State) (chip c : Nat) : List EndRec :=
  (coreOf s c).ends.filter fun e =>
    decide (e.state ≠ 7) && (let r := rankEntry s e.ocid e.peerRank; decide (reState r = 1 ∨ reState r = 3) && decide (reChip r = chip))

theorem mem_endsTo (s : State) (chip c : Nat) (e : EndRec) : e ∈ endsTo s chip c ↔ e ∈ (coreOf s c).ends ∧ e.state ≠ 7 ∧
    (reState (rankEntry s e.ocid e.peerRank) = 1 ∨ reState (rankEntry s e.ocid e.peerRank) = 3) ∧ reChip (rankEntry s e.ocid e.peerRank) = chip := by
  simp [endsTo]

theorem peersDead_eq (s : State) (chip : Nat) :
    peersDead s chip = s.cores.foldl (fun t kv => (endsTo t chip kv.1).foldl (fun t e => peerDead t kv.1 e) t) s := rfl

/-- Without an end to the chip, nothing dies. -/
theorem peersDead_none {s : State} {chip : Nat} (h : ∀ kv ∈ s.cores, endsTo s chip kv.1 = []) : peersDead s chip = s := by
  have hfold : ∀ cs : SMap Core, (∀ kv ∈ cs, endsTo s chip kv.1 = []) →
      cs.foldl (fun t kv => (endsTo t chip kv.1).foldl (fun t e => peerDead t kv.1 e) t) s = s := by
    intro cs
    induction cs with
    | nil => intro _; rfl
    | cons kv cs ih =>
      intro h
      obtain ⟨hkv, hcs⟩ := List.forall_mem_cons.mp h
      rw [List.foldl_cons, hkv]
      exact ih hcs
  exact hfold s.cores h

/-- A producer end whose peer is dead is ORPHANED with CAUSE UCE, unless it is CLOSING (10 R206, R207). -/
theorem peerDead_producer {s : State} {c : Nat} {x : EndRec} (hends : (coreOf s c).ends = [x]) (hkind : x.kind = 0) (h3 : x.state ≠ 3) (h5 : x.state ≠ 5)
    (h7 : x.state ≠ 7) : peerDead s c x = updEnd s c (keyOf x) fun e => { e with state := 6, prev := 6, cause := 2 } := by
  simp [peerDead, strmAt, strmHdr, recFor, hends, keyOf, unringed, orphanAt, hkind, h3, h5, h7]

/-- A package's only end, a producer whose peer lies on the chip, is ORPHANED. -/
theorem peersDead_producer {s : State} {chip c : Nat} {k : Core} {x : EndRec} (hcores : s.cores = [(c, k)]) (hends : k.ends = [x])
    (hto : endsTo s chip c = [x]) (hkind : x.kind = 0) (h3 : x.state ≠ 3) (h5 : x.state ≠ 5) (h7 : x.state ≠ 7) :
    (coreOf (peersDead s chip) c).ends = [{ x with state := 6, prev := 6, cause := 2 }] ∧ (peersDead s chip).mem = s.mem := by
  have hk : (coreOf s c).ends = [x] := by simp [coreOf, hcores, mgetD, mget, hends]
  have hdead : peersDead s chip = updEnd s c (keyOf x) fun e => { e with state := 6, prev := 6, cause := 2 } := by
    rw [peersDead_eq, hcores]
    simp [hto, peerDead_producer hk hkind h3 h5 h7]
  rw [hdead]
  refine ⟨?_, rfl⟩
  rw [updEnd, coreOf_updCore_same]
  simp [hk, h7]

theorem unreachableDeclarationReceive_eq (chip : Nat) (s : State) : exec (.unreachableDeclarationReceive chip) s = .next (peersDead s chip) := rfl

end Sys2Proof.Machine
end

section
/-! ### The statement about end-to-end delivery -/

namespace Sys2Proof.Machine

section
variable {s : State} {p : Packet}

/-- A repeat owes one acknowledgement more, while fewer than 32 are due. -/
theorem fabricPacketArrive_repeat_few (h : Reaches s p) (hle : 1024 ≤ seqAhead s p) (hfew : (e2eOf s (keyFrom p)).ackDue < 31) :
    exec (.fabricPacketArrive p) s = .next (updE2e (count s (agDie p.dst) 7) (keyFrom p) (ackOwed s.now)) := by
  rw [fabricPacketArrive_repeat h hle, ackAt32_few]
  rw [e2eOf_updE2e_same]
  exact Nat.succ_lt_succ hfew

/-- With the 32nd it is sent. -/
theorem fabricPacketArrive_repeat_many (h : Reaches s p) (hle : 1024 ≤ seqAhead s p) (hmany : 31 ≤ (e2eOf s (keyFrom p)).ackDue) :
    exec (.fabricPacketArrive p) s = .next (ackSend (updE2e (count s (agDie p.dst) 7) (keyFrom p) (ackOwed s.now)) (agChip p.src) p.cls) := by
  rw [fabricPacketArrive_repeat h hle, ackAt32_many]
  rw [e2eOf_updE2e_same]
  exact Nat.succ_le_succ hmany

/-- A message in its turn joins its channel. -/
theorem fabricPacketArrive_msg (h : Reaches s p) (hzero : seqAhead s p = 0)
    (hnone : mget (e2eOf s (keyFrom p)).rxHeld (((e2eOf s (keyFrom p)).rxNext + 1) % 2 ^ 24) = none) {m : MsgHdr} {pay : List Byte} {bad : Bool}
    (hcls : p.cls = 2) (hbody : p.body = .msg m pay bad) (hkinfo : p.kinfo = none) (hgood : badPacket p = false)
    (hctx : (mget (dieAt s (agDie p.dst)).incTab p.cid).isSome = true) (hinc : incOk s (fabOf s (agDie p.dst)) p.cid p.inc = true)
    (hfew : (e2eOf s (keyFrom p)).ackDue < 31) :
    exec (.fabricPacketArrive p) s = .next (chanPush (updE2e s (keyFrom p) (turnCome s.now)) p) := by
  rw [fabricPacketArrive_turn h hzero hnone (takeIn_msg _ p m pay bad hcls hbody hkinfo hgood hctx hinc) rfl, ackAt32_few]
  have htriple : e2eOf (chanPush (updE2e s (keyFrom p) (turnCome s.now)) p) (keyFrom p) = turnCome s.now (e2eOf s (keyFrom p)) := e2eOf_updE2e_same ..
  rw [htriple]
  exact Nat.succ_lt_succ hfew

/-- A malformed packet in its turn is dropped and counted; NEXT moves on all the same. -/
theorem fabricPacketArrive_bad (h : Reaches s p) (hzero : seqAhead s p = 0)
    (hnone : mget (e2eOf s (keyFrom p)).rxHeld (((e2eOf s (keyFrom p)).rxNext + 1) % 2 ^ 24) = none) (hcls : p.cls ≠ 1) (hbad : badPacket p = true) :
    exec (.fabricPacketArrive p) s = .next (ackAt32 (count (updE2e s (keyFrom p) (turnCome s.now)) (agDie p.dst) 2) (agChip p.src) p.cls) :=
  fabricPacketArrive_turn h hzero hnone (takeIn_bad _ p hcls hbad) rfl

end

/-- Settles O17: each step's lemma names the state that it leaves, and the triple, the channel, the die or the core that the statement asks about is read off
it. -/
theorem endToEndDelivery : Obligations.EndToEndDelivery := by
  intro s p chip cls src key e d
  refine ⟨fun hdst hdomain hsrc hunicast hcls => ?_, ?_, ?_, ?_, ?_, ?_⟩
  · have hreach : p.cls ≠ 5 → Reaches s p := fun h5 => ⟨hdst, hdomain, hsrc, hunicast, hcls, h5⟩
    refine ⟨fun h5 hpos hlt => ?_, fun h5 hle hfew => ?_, fun h5 h2 h3 hle hmany => ?_, fun h2 hzero hnone =>
      ⟨fun h pay bad hbody hfew hcomb hop hrsv hlen hkinfo hctx hinc => ?_, fun hbad => ?_⟩⟩
    · exact ⟨_, fabricPacketArrive_ahead (hreach h5) hpos hlt, by rw [e2eOf_updE2e_same]; exact mget_mput_same .., by rw [e2eOf_updE2e_same],
        rfl, rfl, rfl, rfl⟩
    · exact ⟨_, fabricPacketArrive_repeat_few (hreach h5) hle hfew, by rw [e2eOf_updE2e_same]; rfl, by rw [e2eOf_updE2e_same]; rfl,
        counters_count s (agDie p.dst) 7 (by decide), rfl, rfl, rfl, rfl⟩
    · obtain ⟨q, hsent, hbody, hop, hqcls, hqdst⟩ := ackSend_egress (updE2e (count s (agDie p.dst) 7) key (ackOwed s.now)) src p.cls
      rw [ackNext_of_direct _ _ _ h2 h3, e2eOf_updE2e_same] at hbody
      exact ⟨_, q, fabricPacketArrive_repeat_many (hreach h5) hle hmany, hsent, hbody, hop, hqcls, hqdst, ackSend_ackDue _ _ _ h2 h3, rfl, rfl, rfl⟩
    · have hgood : badPacket p = false := by
        rw [Bool.eq_false_iff, ne_eq, badPacket_iff]
        simp [hrsv, hop, h2, hbody, hcomb, hlen, opClass, bodyFits]
      have htriple : e2eOf (chanPush (updE2e s key (turnCome s.now)) p) key = turnCome s.now e := e2eOf_updE2e_same ..
      have hpush := chanQ_chanPush_same (updE2e s key (turnCome s.now)) p
      rw [h2] at hpush
      exact ⟨_, fabricPacketArrive_msg (hreach (by omega)) hzero hnone h2 hbody hkinfo hgood hctx hinc hfew, hpush, by rw [htriple]; rfl,
        by rw [htriple]; rfl, rfl, rfl, rfl⟩
    · have hbad' : badPacket p = true := (badPacket_iff p).mpr (by rw [h2, hunicast]; tauto)
      have hexec := fabricPacketArrive_bad (hreach (by omega)) hzero hnone (by omega) hbad'
      rw [ackAt32_only] at hexec
      obtain ⟨hnext, -⟩ := ackAt32_rx (count (updE2e s key (turnCome s.now)) (agDie p.dst) 2) src p.cls
      have htriple : e2eOf (count (updE2e s key (turnCome s.now)) (agDie p.dst) 2) key = turnCome s.now e := e2eOf_updE2e_same ..
      exact ⟨_, hexec, rfl, hnext.trans (by rw [htriple]; rfl), counters_count (updE2e s key (turnCome s.now)) (agDie p.dst) 2 (by decide), rfl, rfl⟩
  · refine ⟨e2eackSend_idle, fun hdue h2 h3 => ?_, fun next u hu hwait hw0 hw1 => ⟨fun hno => ?_, fun a w tok hcov hcls hbody hinc => ?_,
      fun h pay bad hcov hcls hbody hchip hcore heng hred => ?_⟩,
      fun next u q a w tok a' w' tok' hu hwait hw0 hw1 hcov hcls hbody hinc hcls0 hqcls hqdst hqbody => ?_,
      fun seq u hu => ⟨e2eTimeout_early hu, fun hlate hfew => ?_, fun hlate hmany => ?_⟩⟩
    · obtain ⟨q, hsent, hbody, hop, hqcls, hqdst⟩ := ackSend_egress s chip cls
      rw [ackNext_of_direct _ _ _ h2 h3] at hbody
      exact ⟨_, q, e2eackSend_due hdue, hsent, hbody, hop, hqcls, hqdst, ackSend_ackDue _ _ _ h2 h3, rfl, rfl⟩
    · have hstays : covers next u = false := decide_eq_false (Nat.not_lt.mpr hno)
      exact ⟨_, e2eackReceive_uncovered hu hwait hno, by rw [e2eOf_updE2e_same]; simp [uncoveredBy, hu, hstays], rfl, rfl⟩
    · exact e2eackReceive_noneWaits (t := updE2e s (e2eKey chip cls) (uncoveredBy next)) hu hcov hwait (acked_load hcls hbody hinc) rfl (noRequests_of hw0 hw1)
    · obtain ⟨t, hexec, hunacked, hcores, hmem⟩ := e2eackReceive_noneWaits hu hcov hwait
        (acked_msg (s := updE2e s (e2eKey chip cls) (uncoveredBy next)) hcls hbody hchip hcore heng hred) rfl (noRequests_of hw0 hw1)
      refine ⟨t, hexec, hunacked, ?_, hmem⟩
      rw [coreOf, hcores]
      exact congrArg Core.unack (coreOf_updCore_same (updE2e s (e2eKey chip cls) (uncoveredBy next)) (agCore u.pkt.src) (effectApplied u.pkt.tok u.pkt.dst))
    · obtain ⟨t, r, hexec, hsent, hrbody, hseq, hdst, htriple, hcores, hmem⟩ := e2eackReceive_oneWaits hu hcov hwait
        (acked_load (s := updE2e s (e2eKey chip cls) (uncoveredBy next)) hcls hbody hinc) (by rw [hqdst, hqcls, hcls0]) (by simp [hqbody]) (by omega)
        (noRequests_of hw0 hw1)
      exact ⟨t, r, hexec, hsent, hrbody, hseq, hdst, by rw [htriple]; rfl, by rw [htriple]; rfl, by rw [htriple]; rfl, hcores, hmem⟩
    · have hexec := e2eTimeout_late hu hlate
      rw [resendOut_again s chip cls seq u hu hfew] at hexec
      have hlength := congrArg (·.unacked.length) (e2eOf_updE2e_same s (e2eKey chip cls) (noteResend s.now seq))
      exact ⟨_, hexec, rfl, mem_unacked_noteResend s (e2eKey chip cls) s.now seq u hu, hlength.trans (noteResend_unacked_length ..), rfl, rfl⟩
    · exact (e2eTimeout_late hu hlate).trans (by rw [resendOut_dead hu hmany])
  · intro from_ die q n tok rest hq hbody hinc hchip hroom c
    refine ⟨fenceMarkerArrive_waits hq hbody hinc, fun hbefore => ?_⟩
    have hrest : chanQ (chanPop s from_ (fabOf s die) 1) from_ (fabOf s die) 1 = rest := by rw [chanQ_chanPop_same, hq]; rfl
    obtain ⟨es, r, hexec, hrbody, hdst, hcls, hop⟩ := fenceMarkerArrive_answers hq hbody hinc hbefore hchip hroom
    by_cases hcount : q.rseq % 2 ^ 32 = n % 2 ^ 32
    · rw [if_pos hcount] at hexec
      exact ⟨_, r, hexec, rfl, hrbody, hdst, hcls, hop, hrest, fun _ => rfl, fun h => absurd hcount h, rfl, rfl⟩
    · rw [if_neg hcount] at hexec
      have hdie := dieAt_updDie_same (chanPop s from_ (fabOf s die) 1) die (countSet (agChip from_) n q.rseq)
      exact ⟨_, r, hexec, rfl, hrbody, hdst, hcls, hop, hrest, fun h => absurd h hcount,
        fun _ => (congrArg (mgetD ·.taken (agChip from_) 0) hdie).trans (taken_countSet ..), rfl, rfl⟩
  · intro from_ core q tok cause rest o hq hbody hinc ho
    have ho' : (coreOf (chanPop s from_ (niOf s core) 4) core).out.find? (fun o => decide (o.tok = tok)) = some o := ho
    have hcore : coreOf (fenceackAt (chanPop s from_ (niOf s core) 4) core tok cause) core =
        if o.live = true ∧ cause = 0x2A then owing 0x2A (some (wd o.g)) (fenceAnswered tok o.g (coreOf s core)) else fenceAnswered tok o.g (coreOf s core) :=
      coreOf_fenceackAt_same ho'
    have honly := fenceackAt_only_cores (cause := cause) ho'
    refine ⟨_, fenceackReceive_eq hq hbody hinc, ?_, ?_, ?_, ?_, fun d hd => coreOf_fenceackAt_other ho' hd, by rw [honly]; rfl⟩
    · rw [hcore]; split <;> rfl
    · rw [hcore]
      by_cases hmiss : o.live = true ∧ cause = 0x2A <;> by_cases hfree : (coreOf s core).owed = none <;> simp [hmiss, hfree, owing, fenceAnswered]
    · rw [hcore]; split <;> rfl
    · rw [honly]
      exact (chanQ_chanPop_same ..).trans (by rw [hq]; rfl)
  · intro h
    rw [unreachableDeclarationReceive_eq, peersDead_none]
    intro kv hkv
    refine List.eq_nil_iff_forall_not_mem.mpr fun e he => ?_
    obtain ⟨hmem, hstate, hlives, hon⟩ := (mem_endsTo ..).mp he
    have := h kv hkv e hmem
    tauto
  · intro c k x hcores hends hkind h3 h5 h7 hlives hon
    have hto : endsTo s chip c = [x] := by simp [endsTo, coreOf, hcores, mgetD, mget, hends, h7, hlives, hon]
    obtain ⟨horphaned, hmem⟩ := peersDead_producer hcores hends hto hkind h3 h5 h7
    exact ⟨_, unreachableDeclarationReceive_eq .., horphaned, hmem⟩

end Sys2Proof.Machine
end

section
/-! ### The fallback of COPY.M: a copy whose class has no room (02 R36, R43) -/

namespace Sys2Proof.Machine

/-- A data packet of a COPY.M for chip 1 that three resends have not delivered. Its class is 0; data packets are of class 1 (02 R30), but O18 asks no class. -/
def class0Out : MOut :=
  { mtag := 0, src := 0, cid := 0, inc := 0, core := 0, tok := 2 ^ 60, pkt := { cls := 0, mcast := true, body := .mdata 0 [1] {} [] none }, sent := 0, resends := 3 }

/-- Refutes O18: the clause about the fallback to unicast asks for room in class 1 toward the copy's chip, and not that the packet is of class 1. The copy
leaves in the packet's own class (02 R36), here class 0, where a packet to that chip already waits: the copy waits behind it and does not reach the ports. What
the clause lacks is the hypothesis `m.pkt.cls = 1`. -/
theorem not_multicastAndCombining : ¬ Obligations.MulticastAndCombining := by
  intro h
  let s : State := { State.reset with now := 800000, mouts := [class0Out], e2e := [(e2eKey 1 0, { waiting := [class0Out.pkt] })] }
  obtain ⟨-, -, -, -, -, -, hsource, -⟩ := h s 0 0 0 class0Out.pkt {}
  obtain ⟨-, -, -, -, hfallback⟩ := hsource false class0Out (by decide)
  obtain ⟨t, q, hexec, -, hsent, -⟩ := hfallback 0 1 {} [] none (by decide) (by decide) (by decide) rfl (by decide) (by decide)
  have hstep : exec (.multicastResend 0 0) s = .next (unicastCopies s class0Out) := rfl
  have hstays : (unicastCopies s class0Out).egress = [] := by decide
  rw [hstep] at hexec
  cases hexec
  rw [hstays] at hsent
  exact absurd hsent (by simp)

end Sys2Proof.Machine
end

section
/-! ### What the accessors read at reset (12 R226 to R228; log 7) -/

namespace Sys2Proof.Machine

@[simp] theorem ctxOf_reset (cid : Nat) : ctxOf State.reset cid = {} := rfl

@[simp] theorem coreOf_reset (c : Nat) : coreOf State.reset c = {} := rfl

@[simp] theorem dieAt_reset (d : Nat) : dieAt State.reset d = {} := by
  simp [dieAt, State.reset]

@[simp] theorem qregsOf_reset (d cid : Nat) : qregsOf State.reset d cid = {} := by
  simp [qregsOf, mgetD, mget]

@[simp] theorem peerWord_reset (d cid i w : Nat) : peerWord State.reset d cid i w = 0 := by
  simp [peerWord, mgetD, mget]

@[simp] theorem rowState_reset (r : Nat) : rowState State.reset r = {} := by
  simp [rowState, mgetD, mget]

@[simp] theorem slotOf_empty (n : Nat) : slotOf {} n = {} := by
  simp [slotOf]

@[simp] theorem mbOf_empty (m : Nat) : mbOf {} m = 0 := by
  simp [mbOf]

/-- Region registers read 0, those that a slot does not have with them. -/
@[simp] theorem rgOf_empty (r : Nat) : rgOf {} r = 0 := by
  rw [rgOf, List.getD_eq_getElem?_getD]
  exact List.getElem?_getD_replicate_default_eq (0 : Word) 7 r

/-- Settles O36: every accessor reads its record's reset value, whatever it is asked for. -/
theorem resetValues : Obligations.ResetValues := by
  unfold Obligations.ResetValues
  refine ⟨rfl, rfl, rfl, rfl, ?ctxs, ?dies, ?queues, peerWord_reset, ?rows, ?cores, ?slots⟩
  case ctxs => exact fun cid => ⟨rfl, rfl⟩
  case dies =>
    intro d
    rw [dieAt_reset]
    exact ⟨rfl, fun _ => rfl, fun _ => rfl, rfl, by simp, by simp, by simp, rfl, rfl, rfl, rfl⟩
  case queues =>
    intro d cid
    rw [qregsOf_reset]
    exact ⟨rfl, rfl, rfl, rfl, rfl⟩
  case rows =>
    intro r
    rw [rowState_reset]
    exact ⟨rfl, rfl, rfl, rfl, rfl⟩
  case cores =>
    intro c
    rw [coreOf_reset]
    exact ⟨rfl, rfl, rfl, rfl, rfl, rfl, rfl, rfl, rfl, rfl, rfl, rfl, rfl, rfl, rfl, rfl⟩
  case slots =>
    intro c n
    rw [coreOf_reset, slotOf_empty]
    exact ⟨rfl, rgOf_empty, mbOf_empty, rfl⟩

end Sys2Proof.Machine
end

section
/-! ### Fields of words (00 R4) -/

namespace Sys2Proof.Machine

theorem fld_lt (w : Word) (hi lo : Nat) : fld w hi lo < 2 ^ (hi + 1 - lo) := Nat.mod_lt _ (by positivity)

/-- A field reads no bit from k on that it does not span. -/
theorem fldN_mod (n k hi lo : Nat) (h : hi < k) : fldN (n % 2 ^ k) hi lo = fldN n hi lo := by
  rcases Nat.lt_or_ge hi lo with hlo | hlo
  · simp [fldN, show hi + 1 - lo = 0 by omega, Nat.mod_one]
  · have hk : 2 ^ k = 2 ^ lo * 2 ^ (k - lo) := by rw [← Nat.pow_add]; congr 1; omega
    rw [fldN, fldN, hk, Nat.mod_mul_right_div_self]
    exact Nat.mod_mod_of_dvd _ (Nat.pow_dvd_pow 2 (by omega))

/-- A field of a word made of a number is the number's. -/
theorem fld_wd (n hi lo : Nat) (h : hi < 64) : fld (wd n) hi lo = fldN n hi lo := by
  rw [fld, wd, BitVec.toNat_ofNat, fldN_mod n 64 hi lo h]

theorem fld_or (v w : Word) (hi lo : Nat) : fld (v ||| w) hi lo = fld v hi lo ||| fld w hi lo := by
  simp only [fld, fldN, BitVec.toNat_or, ← Nat.shiftRight_eq_div_pow, Nat.shiftRight_or_distrib, Nat.or_mod_two_pow]

theorem bit_eq_fld (w : Word) (i : Nat) : bit w i = decide (fld w i i = 1) := by
  simp [bit, fld, fldN, BitVec.getLsbD, Nat.testBit_eq_decide_div_mod_eq]

/-- What a word is with a field replaced: what stands above the field, the field, and what stands below it. -/
def fldSet (n hi lo v : Nat) : Nat := 2 ^ lo * (2 ^ (hi + 1 - lo) * (n / 2 ^ (hi + 1)) + v % 2 ^ (hi + 1 - lo)) + n % 2 ^ lo

section
variable (w : Word) (hi lo v : Nat)

theorem two_pow_field (hlo : lo ≤ hi) : 2 ^ (hi + 1) = 2 ^ lo * 2 ^ (hi + 1 - lo) := by
  rw [← Nat.pow_add, Nat.add_sub_cancel' (Nat.le_succ_of_le hlo)]

theorem setFld_eq_fldSet (hlo : lo ≤ hi) : setFld w hi lo v = wd (fldSet w.toNat hi lo v) := by
  have hparts : w.toNat = 2 ^ lo * (2 ^ (hi + 1 - lo) * (w.toNat / 2 ^ (hi + 1)) + fld w hi lo) + w.toNat % 2 ^ lo := by
    rw [two_pow_field hi lo hlo, ← Nat.div_div_eq_div_mul, fld, fldN, Nat.div_add_mod, Nat.div_add_mod]
  rw [setFld, wd, fldSet]
  congr 1
  rw [Nat.mul_add] at hparts ⊢
  rw [Nat.mul_comm (fld w hi lo), Nat.mul_comm (v % _)]
  omega

theorem fldSet_div (n : Nat) (hlo : lo ≤ hi) : fldSet n hi lo v / 2 ^ (hi + 1) = n / 2 ^ (hi + 1) := by
  have hv : v % 2 ^ (hi + 1 - lo) < 2 ^ (hi + 1 - lo) := Nat.mod_lt _ (by positivity)
  have hr : n % 2 ^ lo < 2 ^ lo := Nat.mod_lt _ (by positivity)
  conv_lhs => rw [two_pow_field hi lo hlo, ← Nat.div_div_eq_div_mul, fldSet, Nat.mul_add_div (by positivity), Nat.div_eq_of_lt hr,
    Nat.add_zero, Nat.mul_add_div (by positivity), Nat.div_eq_of_lt hv, Nat.add_zero]

theorem fld_setFld_same (hlo : lo ≤ hi) (hhi : hi < 64) : fld (setFld w hi lo v) hi lo = v % 2 ^ (hi + 1 - lo) := by
  have hr : w.toNat % 2 ^ lo < 2 ^ lo := Nat.mod_lt _ (by positivity)
  rw [setFld_eq_fldSet w hi lo v hlo, fld_wd _ _ _ hhi, fldN, fldSet, Nat.mul_add_div (by positivity), Nat.div_eq_of_lt hr, Nat.add_zero,
    Nat.mul_add_mod, Nat.mod_mod]

/-- A field above the one replaced stays. -/
theorem fld_setFld_above (hi' lo' : Nat) (hlo : lo ≤ hi) (h : hi < lo') (hhi : hi' < 64) : fld (setFld w hi lo v) hi' lo' = fld w hi' lo' := by
  have hpow : 2 ^ lo' = 2 ^ (hi + 1) * 2 ^ (lo' - (hi + 1)) := by rw [← Nat.pow_add, Nat.add_sub_cancel' h]
  rw [setFld_eq_fldSet w hi lo v hlo, fld_wd _ _ _ hhi]
  simp only [fld, fldN, hpow, ← Nat.div_div_eq_div_mul, fldSet_div hi lo v w.toNat hlo]

/-- A field below the one replaced stays. -/
theorem fld_setFld_below (hi' lo' : Nat) (hlo : lo ≤ hi) (h : hi' < lo) (hhi : hi < 64) : fld (setFld w hi lo v) hi' lo' = fld w hi' lo' := by
  have hmod : fldSet w.toNat hi lo v % 2 ^ lo = w.toNat % 2 ^ lo := by rw [fldSet, Nat.mul_add_mod, Nat.mod_mod]
  rw [setFld_eq_fldSet w hi lo v hlo, fld_wd _ _ _ (by omega), fld, ← fldN_mod _ lo hi' lo' h, hmod, fldN_mod _ lo hi' lo' h]

end

end Sys2Proof.Machine
end

section
/-! ### Launch windows (03 R52, R53) -/

namespace Sys2Proof.Machine

section
variable {s : State} {die cid off : Nat} {data : List Byte}

theorem regAt_wstat (h : cid < 4096) : regAt (2 ^ 32 + cid * 0x1000 + 0x800) = .window cid 0x800 := by
  have hbase : (2 ^ 32 + cid * 0x1000 + 0x800) / 2 ^ 32 = 1 := by omega
  have hoff : (2 ^ 32 + cid * 0x1000 + 0x800) % 2 ^ 32 = cid * 0x1000 + 0x800 := by omega
  have hcid : (cid * 0x1000 + 0x800) / 0x1000 = cid := by omega
  have hreg : (cid * 0x1000 + 0x800) % 0x1000 = 0x800 := by omega
  rw [regAt, hbase, hoff, if_neg (by decide), if_pos ⟨Eq.refl 1, by omega⟩, hcid, hreg]

/-- A die without a context's count of rejected submissions. -/
def clearRej (cid : Nat) (d : Die) : Die := { d with rej := mdel d.rej cid }

/-- The package once the host has read a WSTAT. -/
def statRead (s : State) (die cid : Nat) : State := { updDie s die (clearRej cid) with hostOut := s.hostOut ++ [wstat s die cid] }

theorem dieAt_statRead : dieAt (statRead s die cid) die = clearRej cid (dieAt s die) := dieAt_updDie_same s die (clearRej cid)

/-- The host reads WSTAT as it was, and REJ is gone. -/
theorem wstatRead_eq (h : cid < 4096) : exec (.wstatRead die cid) s = .next (statRead s die cid) := by
  have haligned : ¬ (8 ≠ 8 ∨ (2 ^ 32 + cid * 0x1000 + 0x800) % 8 ≠ 0) := by omega
  have hread : regRead s die (2 ^ 32 + cid * 0x1000 + 0x800) 8 = (wstat s die cid, updDie s die (clearRej cid)) := by
    rw [regRead, regAt_wstat h]
    dsimp only
    rw [if_neg (by decide), if_neg haligned, if_pos (Eq.refl 0x800)]
    rfl
  change execWstatRead die cid s = _
  rw [execWstatRead, hostRead, hread]
  rfl

/-- What a window asks of a write of its submission area. -/
def Acceptable (s : State) (die cid off : Nat) (data : List Byte) : Prop :=
  data.length = 64 ∧ off % 64 = 0 ∧ 0 < credOf s die cid ∧ recBad (leWords 8 data) = false ∧ ctxFree (ctxOf s cid) = false ∧ s.boot.state ≠ 3

/-- A die whose window has taken a submission: ACC counts it, and a credit is gone. -/
def takeCredit (cid : Nat) (d : Die) : Die :=
  { d with acc := mupd d.acc cid 0 fun n => (n + 1) % 2 ^ 16, cred := mput d.cred cid (mgetD d.cred cid 64 - 1) }

/-- The package once a window has taken a submission. -/
def submitted (s : State) (die cid : Nat) (data : List Byte) : State :=
  { updDie s die (takeCredit cid) with
    subs := s.subs ++ [{ die := die, cid := cid, inc := ctxInc (ctxOf s cid), words := leWords 8 data, ans := none }] }

theorem dieAt_submitted : dieAt (submitted s die cid data) die = takeCredit cid (dieAt s die) := dieAt_updDie_same s die (takeCredit cid)

theorem windowSubmission_accepted (hoff : off < 0x800) (h : Acceptable s die cid off data) :
    exec (.windowSubmission die cid off data) s = .next (submitted s die cid data) := by
  obtain ⟨hlen, haligned, hcred, hrec, hlive, hboot⟩ := h
  have hok : submit s die cid off data = submitted s die cid data := by
    rw [submit, if_neg (by simp [hlen, haligned, hrec, hlive, hboot]; omega)]
    rfl
  exact (if_pos hoff).trans (congrArg _ hok)

theorem windowSubmission_rejected (hoff : off < 0x800) (h : ¬ Acceptable s die cid off data) :
    exec (.windowSubmission die cid off data) s = .next (reject s die cid) := by
  have hbad : submit s die cid off data = reject s die cid := by
    rw [submit, if_pos]
    by_contra hno
    refine h ?_
    simp only [not_or, Decidable.not_not, Bool.not_eq_true, ← ne_eq] at hno
    obtain ⟨hlen, haligned, -, hcred, hrec, hlive, hboot⟩ := hno
    exact ⟨hlen, haligned, Nat.pos_of_ne_zero hcred, hrec, hlive, hboot⟩
  exact (if_pos hoff).trans (congrArg _ hbad)

end

end Sys2Proof.Machine
end

section
/-! ### Device registers as the firmware and the host reach them (04 R80 to R82; 07 R136; 23 R375) -/

namespace Sys2Proof.Machine

section
variable {s : State} {die off width : Nat} {v : Word}

/-- A write by the firmware of a register of a die. -/
theorem registerWrite_firmware (h : die < 2) : exec (.registerWrite die off width v) s = .next (regWrite s die off width v) := by
  interval_cases die <;> rfl

/-- An access of a wrong width or alignment is only counted. -/
theorem regWrite_misshapen (hwin : ∀ c o, regAt off ≠ .window c o) (h : width ≠ 8 ∨ off % 8 ≠ 0) :
    regWrite s die off width v = count s die 3 := by
  unfold regWrite
  split
  next c o hat => exact absurd hat (hwin c o)
  next => rw [if_pos h]

/-- A read by the host of a register of a die. -/
theorem registerWrite_host {x : Nat} {w : Word} (hx : x < 2) (h : regRead s x off width = (w, s)) :
    exec (.registerWrite (9 + x) off width v) s = .next { s with hostOut := s.hostOut ++ [w] } := by
  have hread : exec (.registerWrite (9 + x) off width v) s = .next (hostRead s x off width) := by
    interval_cases x <;> rfl
  rw [hread, hostRead, h]

section
/-! #### Writes, by the register at the offset -/

theorem regWrite_none (h : regAt off = .none_) : regWrite s die off 8 v = count s die 3 := by simp [regWrite, h]

variable (halign : off % 8 = 0)
include halign

theorem regWrite_boot (h : regAt off = .boot) : regWrite s die off 8 v = s := by simp [regWrite, h, halign]

theorem regWrite_thr {u w : Nat} (h : regAt off = .thr u w) : regWrite s die off 8 v = thrWrite s die u w v := by simp [regWrite, h, halign]

theorem regWrite_qreg {c i : Nat} (h : regAt off = .qreg c i) : regWrite s die off 8 v = qregWrite s die c i v := by simp [regWrite, h, halign]

theorem regWrite_peer {c i w : Nat} (h : regAt off = .peer c i w) : regWrite s die off 8 v = peerWrite s die c i w v := by
  simp [regWrite, h, halign]

/-! #### Reads -/

theorem regRead_boot (h : regAt off = .boot) : regRead s die off 8 = (bootstat s, s) := by simp [regRead, h, halign]

theorem regRead_port {p i : Nat} (h : regAt off = .port p i) : regRead s die off 8 = (portWord (portOf s (portKey die p)) i, s) := by
  simp [regRead, h, halign]

theorem regRead_thr {u : Nat} (h : regAt off = .thr u 0) : regRead s die off 8 = ((thrOf s die u).ctl, s) := by simp [regRead, h, halign]

theorem regRead_qreg {c i : Nat} (h : regAt off = .qreg c i) : regRead s die off 8 = (qregRead s die c i, s) := by simp [regRead, h, halign]

end

/-! #### Queue registers and peer tables -/

theorem qregsOf_qregWrite_base (c : Nat) :
    qregsOf (qregWrite s die c 0 v) die c = { qregsOf s die c with fqbase := ringBase v } := by
  simp [qregsOf, qregWrite]

theorem qregsOf_qregWrite_size (c : Nat) :
    qregsOf (qregWrite s die c 1 v) die c = { qregsOf s die c with fqsize := ringSize v } := by
  simp [qregsOf, qregWrite]

theorem peerWord_peerWrite_whole (c i : Nat) : peerWord (peerWrite s die c i 2 v) die c i 2 = v := by
  simp [peerWord, peerWrite]

end

end Sys2Proof.Machine
end

section
/-! ### Threshold units (04 R83) -/

namespace Sys2Proof.Machine

section
variable {s : State} {die u : Nat} {v : Word}

@[simp] theorem thrOf_setThr_same (t : Thr) : thrOf (setThr s die u t) die u = t := by simp [thrOf, setThr]

@[simp] theorem thrOf_count (n : Nat) : thrOf (count s die n) die u = thrOf s die u := by simp [thrOf, count]

theorem counters_setThr (t : Thr) : (dieAt (setThr s die u t) die).counters = (dieAt s die).counters := by simp [setThr]

/-- The CTL that a write of v leaves with a selection. -/
def ctlWord (v : Word) (sel : Nat) : Word := wd (fld v 63 62 * 2 ^ 62 + sel * 2 ^ 48 + fld v 47 41 * 2 ^ 41)

theorem fld_ctlWord {sel : Nat} (h : sel < 256) : fld (ctlWord v sel) 63 62 = fld v 63 62 ∧ fld (ctlWord v sel) 55 48 = sel ∧
    fld (ctlWord v sel) 47 41 = fld v 47 41 ∧ fld (ctlWord v sel) 40 0 = 0 := by
  have hmode : fld v 63 62 < 4 := fld_lt v 63 62
  have hrow : fld v 47 41 < 128 := fld_lt v 47 41
  simp only [ctlWord, fld_wd _ _ _ (show 63 < 64 by decide), fld_wd _ _ _ (show 55 < 64 by decide), fld_wd _ _ _ (show 47 < 64 by decide),
    fld_wd _ _ _ (show 40 < 64 by decide), fldN]
  omega

/-- A write of CTL with a selection that the register has. -/
theorem thrCtl_valid (h : fld v 55 48 ≤ 5) :
    ∃ b, thrCtl s die u v = setThr s die u { thrOf s die u with ctl := ctlWord v (fld v 55 48), base := b } := by
  have hsel : decide (fld v 55 48 > 5) = false := decide_eq_false (Nat.not_lt.mpr h)
  simp only [thrCtl, hsel, Bool.false_eq_true, if_false]
  exact ⟨_, rfl⟩

/-- A reserved selection leaves CSEL and is counted. -/
theorem thrCtl_reserved (h : 5 < fld v 55 48) : ∃ b, thrCtl s die u v =
    count (setThr s die u { thrOf s die u with ctl := ctlWord v (fld (thrOf s die u).ctl 55 48), base := b }) die 3 := by
  have hsel : decide (fld v 55 48 > 5) = true := decide_eq_true h
  simp only [thrCtl, hsel, if_true]
  exact ⟨_, rfl⟩

end

end Sys2Proof.Machine
end

section
/-! ### Migration windows (08 R163, R166) -/

namespace Sys2Proof.Machine

/-- A packet sent changes channels or the end-to-end layer, and nothing else of the package. -/
theorem emit_only (s : State) (p : Packet) : emit s p =
    { s with chans := (emit s p).chans, e2e := (emit s p).e2e, egress := (emit s p).egress, counted := (emit s p).counted } := by
  unfold emit e2eSend e2eNumber
  split
  · rfl
  · split
    · dsimp only
      split <;> rfl
    · rfl

theorem dieAt_of_dies {s t : State} (h : t.dies = s.dies) (d : Nat) : dieAt t d = dieAt s d := by simp only [dieAt, h]

/-- What a window's release and its messages leave of a package. -/
def SameWindows (s t : State) : Prop := t.dies = s.dies ∧ t.cores = s.cores ∧ t.mem = s.mem

theorem sameWindows_emit (s : State) (p : Packet) : SameWindows s (emit s p) := by
  rw [emit_only]
  exact ⟨rfl, rfl, rfl⟩

theorem sameWindows_foldl_emit {f : State → Packet → State} (hf : ∀ t p, ∃ q, f t p = emit t q) (ps : List Packet) :
    ∀ s, SameWindows s (ps.foldl f s) := by
  induction ps with
  | nil => exact fun s => ⟨rfl, rfl, rfl⟩
  | cons p ps ih =>
    intro s
    obtain ⟨q, hq⟩ := hf s p
    obtain ⟨hdies, hcores, hmem⟩ := ih (f s p)
    obtain ⟨hdies', hcores', hmem'⟩ := hq ▸ sameWindows_emit s q
    exact ⟨hdies.trans hdies', hcores.trans hcores', hmem.trans hmem'⟩

section
variable {s : State} {die n : Nat} {v : Word}

@[simp] theorem migOf_setMig_same (w : MigWin) : migOf (setMig s die n w) die n = w := by simp [migOf, setMig]

theorem migOf_updDie (d : Nat) {g : Die → Die} (hg : ∀ x, (g x).mig = x.mig) : migOf (updDie s d g) die n = migOf s die n := by
  have hmig : (dieAt (updDie s d g) die).mig = (dieAt s die).mig := by
    by_cases h : die % 2 = d % 2
    · have hsame : dieAt (updDie s d g) die = g (dieAt s die) := by simp [dieAt, updDie, setDie, h]
      rw [hsame, hg]
    · rw [updDie, dieAt_setDie_other _ _ _ _ h]
  simp only [migOf, hmig]

/-- The page that a write of MIGWIN0 names. -/
def pageWord (v : Word) : Word := wd (fld v 60 59 * 2 ^ 59 + fld v 55 15 * 2 ^ 15)

theorem fld_pageWord : fld (pageWord v) 63 62 = 0 ∧ fld (pageWord v) 61 61 = 0 ∧ fld (pageWord v) 60 59 = fld v 60 59 ∧
    fld (pageWord v) 55 15 = fld v 55 15 := by
  have hsize : fld v 60 59 < 4 := fld_lt v 60 59
  have hpage : fld v 55 15 < 2 ^ 41 := fld_lt v 55 15
  simp only [pageWord, fld_wd _ _ _ (show 63 < 64 by decide), fld_wd _ _ _ (show 61 < 64 by decide), fld_wd _ _ _ (show 60 < 64 by decide),
    fld_wd _ _ _ (show 55 < 64 by decide), fldN]
  omega

/-- MIGWIN0 of a window whose hold is refused: its STATE stays, and bit 61 tells of it. -/
theorem fld_refusedWord {st : Nat} (hst : st < 4) :
    let w0 := pageWord v ||| wd (st * 2 ^ 62) ||| (1 <<< 61)
    fld w0 63 62 = st ∧ bit w0 61 = true := by
  obtain ⟨hstate, hrefused, -, -⟩ := fld_pageWord (v := v)
  have hone : fld (1 <<< 61 : Word) 63 62 = 0 ∧ fld (1 <<< 61 : Word) 61 61 = 1 := by decide
  have hkept : fld (wd (st * 2 ^ 62)) 63 62 = st ∧ fld (wd (st * 2 ^ 62)) 61 61 = 0 := by
    rw [fld_wd _ _ _ (by decide), fld_wd _ _ _ (by decide), fldN, fldN]
    omega
  simp only [bit_eq_fld, fld_or, hstate, hrefused, hone, hkept]
  exact ⟨by simp, rfl⟩

/-- MIGWIN0 of a window that holds. -/
theorem fld_holdWord (v : Word) :
    let w0 := pageWord v ||| (1 <<< 62)
    fld w0 63 62 = 1 ∧ bit w0 61 = false ∧ fld w0 60 59 = fld v 60 59 ∧ fld w0 55 15 = fld v 55 15 := by
  obtain ⟨hstate, hrefused, hsize, hpage⟩ := fld_pageWord (v := v)
  have hone : fld (1 <<< 62 : Word) 63 62 = 1 ∧ fld (1 <<< 62 : Word) 61 61 = 0 ∧ fld (1 <<< 62 : Word) 60 59 = 0 ∧
    fld (1 <<< 62 : Word) 55 15 = 0 := by decide
  simp only [bit_eq_fld, fld_or, hstate, hrefused, hsize, hpage, hone]
  exact ⟨rfl, rfl, by simp, by simp⟩

/-- The size of a window's page. -/
def pageSize (v : Word) : Nat := if fld v 60 59 = 0 then 2 ^ 15 else if fld v 60 59 = 1 then 2 ^ 24 else 2 ^ 33

theorem migPage_pageWord (w : MigWin) (hw : w.w0 = pageWord v) :
    migPage w = (fld v 55 15 * 2 ^ 15 / pageSize v * pageSize v, pageSize v) := by
  obtain ⟨-, -, hsize, hpage⟩ := fld_pageWord (v := v)
  simp only [migPage, hw, hsize, hpage, pageSize]
  split <;> simp_all

/-! #### HOLD -/

theorem migWrite0_reserved (hst : fld v 63 62 = 1) (hsize : fld v 60 59 = 3) : migWrite0 s die n v = s := by
  simp only [migWrite0, hst, hsize, if_true]

theorem migWrite0_pinned (hst : fld v 63 62 = 1) (hsize : fld v 60 59 < 3)
    (hpin : pinned s (fld v 55 15 * 2 ^ 15 / pageSize v * pageSize v) (pageSize v) = true) :
    migWrite0 s die n v = setMig s die n { migOf s die n with
      w0 := pageWord v ||| wd (fld (migOf s die n).w0 63 62 * 2 ^ 62) ||| (1 <<< 61) } := by
  have hpage := migPage_pageWord { migOf s die n with w0 := pageWord v } rfl
  simp only [pageWord] at hpage ⊢
  simp only [migWrite0, hst, hpage, if_neg (Nat.ne_of_lt hsize), hpin, if_true]

theorem migWrite0_hold (hst : fld v 63 62 = 1) (hsize : fld v 60 59 < 3)
    (hpin : pinned s (fld v 55 15 * 2 ^ 15 / pageSize v * pageSize v) (pageSize v) = false) :
    migWrite0 s die n v = setMig s die n { migOf s die n with w0 := pageWord v ||| (1 <<< 62) } := by
  have hpage := migPage_pageWord { migOf s die n with w0 := pageWord v } rfl
  simp only [pageWord] at hpage ⊢
  simp only [migWrite0, hst, hpage, if_neg (Nat.ne_of_lt hsize), hpin, Bool.false_eq_true, if_false]

/-! #### Release -/

/-- The package when a window's held requests leave it: the window is empty and closed. -/
structure Released (s : State) (die n : Nat) (s0 : State) : Prop where
  window : migOf s0 die n = { migOf s die n with w0 := setFld (migOf s die n).w0 63 62 0, held := [] }
  cores : s0.cores = s.cores
  mem : s0.mem = s.mem
  chans : s0.chans = s.chans
  chip : s0.chip = s.chip

/-- Where an address of a window's page lies on the new page. -/
def onNewPage (w : MigWin) (a : Nat) : Nat := fld w.w1 55 15 * 2 ^ 15 + (a - (migPage w).1) % (migPage w).2

/-- The held requests are sent one after another, a load to its address on the new page. -/
theorem migRelease_eq (s : State) (die n : Nat) : ∃ (f : State → Packet → State) (s0 : State),
    migRelease s die n = (migOf s die n).held.foldl f s0 ∧ Released s die n s0 ∧ (∀ t p, ∃ q, f t p = emit t q) ∧
    ∀ t p a z tok, p.body = .load a z tok → f t p =
      emit t { p with dst := homeOf t die (onNewPage (migOf s die n) a), body := .load (onNewPage (migOf s die n) a) z tok } := by
  refine ⟨_, _, rfl, ⟨?_, rfl, rfl, rfl, rfl⟩, fun t p => ⟨_, rfl⟩, fun t p a z tok hbody => ?_⟩
  · refine (migOf_updDie 1 ?_).trans ((migOf_updDie 0 ?_).trans (migOf_setMig_same _)) <;> exact fun _ => rfl
  · dsimp only
    rw [hbody]
    rfl

/-- A released window holds nothing; cores and memory stay. -/
theorem migRelease_spec : (migOf (migRelease s die n) die n).held = [] ∧ (migRelease s die n).cores = s.cores ∧ (migRelease s die n).mem = s.mem := by
  obtain ⟨f, s0, hrelease, hstart, hemit, -⟩ := migRelease_eq s die n
  obtain ⟨hdies, hcores, hmem⟩ := sameWindows_foldl_emit hemit (migOf s die n).held s0
  have hwindow : migOf (migRelease s die n) die n = migOf s0 die n := by
    have hdie : dieAt (migRelease s die n) die = dieAt s0 die := by rw [hrelease]; exact dieAt_of_dies hdies die
    rw [migOf, migOf, hdie]
  rw [hwindow, hstart.window, hrelease]
  exact ⟨rfl, hcores.trans hstart.cores, hmem.trans hstart.mem⟩

/-- A held load goes to the home of its address on the new page. -/
theorem migRelease_load {p : Packet} {a z tok : Nat} (hheld : (migOf s die n).held = [p]) (hbody : p.body = .load a z tok)
    (hchip : agChip (homeOf s die (onNewPage (migOf s die n) a)) = s.chip) :
    let home := homeOf s die (onNewPage (migOf s die n) a)
    chanQ (migRelease s die n) p.src home p.cls =
      chanQ s p.src home p.cls ++ [{ p with dst := home, body := .load (onNewPage (migOf s die n) a) z tok }] := by
  obtain ⟨f, s0, hrelease, hstart, -, hload⟩ := migRelease_eq s die n
  have hhome : homeOf s0 die (onNewPage (migOf s die n) a) = homeOf s die (onNewPage (migOf s die n) a) := by
    simp only [homeOf, hostOf, regOf, sliceOf, agentId, hstart.chip]
  intro home
  have hchans : chanQ s p.src home p.cls = chanQ s0 p.src home p.cls := by simp only [chanQ, hstart.chans]
  rw [hrelease, hheld, List.foldl_cons, List.foldl_nil, hload s0 p a z tok hbody, hhome, emit, if_pos (hchip.trans hstart.chip.symm), hchans]
  exact chanQ_chanPush_same ..

/-- RELEASE or CLOSED written to a window: its held requests leave, and it is closed. -/
theorem migWrite0_release (hst : fld v 63 62 = 0 ∨ fld v 63 62 = 2) : ∃ w0, fld w0 63 62 = 0 ∧
    migWrite0 s die n v = setMig (migRelease s die n) die n { migOf (migRelease s die n) die n with w0 := w0 } := by
  refine ⟨setFld (pageWord v) 61 61 (fld (migOf s die n).w0 61 61), ?_, ?_⟩
  · rw [fld_setFld_above _ _ _ _ _ _ (by decide) (by decide) (by decide)]
    exact fld_pageWord.1
  · rcases hst with h | h <;> simp only [migWrite0, h] <;> rfl

/-- Such a write leaves the window closed and empty. -/
theorem migWrite0_closes (hst : fld v 63 62 = 0 ∨ fld v 63 62 = 2) :
    let t := migWrite0 s die n v
    fld (migOf t die n).w0 63 62 = 0 ∧ (migOf t die n).held = [] ∧ t.cores = s.cores ∧ t.mem = s.mem := by
  obtain ⟨w0, hw0, heq⟩ := migWrite0_release (s := s) (die := die) (n := n) hst
  obtain ⟨hheld, hcores, hmem⟩ := migRelease_spec (s := s) (die := die) (n := n)
  intro t
  simp only [t, heq, migOf_setMig_same]
  exact ⟨hw0, hheld, hcores, hmem⟩

end

end Sys2Proof.Machine
end

section
/-! ### The statement about the host windows and the device registers -/

namespace Sys2Proof.Machine

section
variable (s : State) (die n : Nat) (v : Word)

/-- A threshold's CTL takes the selections that it has. -/
theorem thresholdCtlWrite_spec (u : Nat) :
    let sel := if 5 < fld v 55 48 then fld (thrOf s die u).ctl 55 48 else fld v 55 48
    ∃ t : State, exec (.thresholdCtlWrite die u v) s = .next t ∧ fld (thrOf t die u).ctl 63 62 = fld v 63 62 ∧ fld (thrOf t die u).ctl 55 48 = sel ∧
      fld (thrOf t die u).ctl 47 41 = fld v 47 41 ∧ fld (thrOf t die u).ctl 40 0 = 0 ∧ (thrOf t die u).thresh = (thrOf s die u).thresh ∧
      (5 < fld v 55 48 → (dieAt t die).counters[3] = ((dieAt s die).counters[3] + 1) % 2 ^ 32) ∧
      (fld v 55 48 ≤ 5 → (dieAt t die).counters = (dieAt s die).counters) ∧ t.cores = s.cores ∧ t.mem = s.mem := by
  have hexec : exec (.thresholdCtlWrite die u v) s = .next (thrCtl s die u v) := rfl
  intro sel
  refine ⟨_, hexec, ?_⟩
  have hsel : sel < 256 := by
    dsimp only [sel]
    split
    · exact fld_lt (thrOf s die u).ctl 55 48
    · exact fld_lt v 55 48
  obtain ⟨hmode, hcsel, hrow, hrest⟩ := fld_ctlWord (v := v) hsel
  by_cases h : 5 < fld v 55 48
  · obtain ⟨b, heq⟩ := thrCtl_reserved (s := s) (die := die) (u := u) h
    have hs : fld (thrOf s die u).ctl 55 48 = sel := (if_pos h).symm
    rw [heq, hs, thrOf_count, thrOf_setThr_same]
    refine ⟨hmode, hcsel, hrow, hrest, rfl, fun _ => ?_, fun h' => absurd h (Nat.not_lt.mpr h'), rfl, rfl⟩
    rw [counters_count _ _ _ (by decide), counters_setThr]
  · obtain ⟨b, heq⟩ := thrCtl_valid (s := s) (die := die) (u := u) (Nat.not_lt.mp h)
    have hs : fld v 55 48 = sel := (if_neg h).symm
    rw [heq, hs, thrOf_setThr_same]
    exact ⟨hmode, hcsel, hrow, hrest, rfl, fun h' => absurd h' (hs ▸ h), fun _ => counters_setThr _, rfl, rfl⟩

end

/-- Settles O15: what the windows, the registers, the threshold units and the migration windows do, put together. -/
theorem hostAndRegisters : Obligations.HostAndRegisters := by
  unfold Obligations.HostAndRegisters
  intro s die cid off u n data v d w size base
  refine ⟨?wstat, ?submission, ?misshapen, ?writes, ?reads, thresholdCtlWrite_spec s die v u, ?reserved, ?pinned, ?hold, ?release, ?close, ?load⟩
  case wstat =>
    intro h
    refine ⟨_, wstatRead_eq h, rfl, ?_⟩
    rw [dieAt_statRead]
    exact ⟨mgetD_mdel_same .., rfl, rfl, rfl, rfl, rfl⟩
  case submission =>
    intro hoff ok
    refine ⟨fun hok => ⟨_, windowSubmission_accepted hoff hok, rfl, ?_⟩, fun hno => ⟨_, windowSubmission_rejected hoff hno, rfl, ?_⟩⟩
    · rw [dieAt_submitted]
      exact ⟨mgetD_mput_same .., mgetD_mupd_same (g := fun n => (n + 1) % 2 ^ 16) .., rfl, rfl, rfl⟩
    · rw [reject, dieAt_updDie_same]
      exact ⟨mgetD_mupd_same (g := fun n => min (n + 1) 0xFFFF) .., rfl, rfl, rfl, rfl⟩
  case misshapen => exact fun width hdie hwin h => (registerWrite_firmware hdie).trans (congrArg _ (regWrite_misshapen hwin h))
  case writes =>
    intro hdie halign
    rw [registerWrite_firmware hdie]
    refine ⟨fun h => congrArg _ (regWrite_none h), fun h => congrArg _ (regWrite_boot halign h), fun h => ⟨_, congrArg _ (regWrite_thr halign h), ?_⟩,
      fun c h => ⟨_, congrArg _ (regWrite_qreg halign h), ?_⟩, fun c h => ⟨_, congrArg _ (regWrite_qreg halign h), ?_⟩,
      fun c i h => ⟨_, congrArg _ (regWrite_peer halign h), peerWord_peerWrite_whole c i, rfl⟩⟩
    · exact ⟨thrOf_setThr_same _, rfl⟩
    · rw [qregsOf_qregWrite_base]
      exact ⟨rfl, rfl, rfl⟩
    · rw [qregsOf_qregWrite_size]
      exact ⟨rfl, rfl, rfl⟩
  case reads =>
    intro x hx halign
    exact ⟨fun h => registerWrite_host hx (regRead_boot halign h), fun p i h => registerWrite_host hx (regRead_port halign h),
      fun h => registerWrite_host hx (regRead_thr halign h), fun c i h => registerWrite_host hx (regRead_qreg halign h)⟩
  case reserved =>
    intro hst hsize
    exact (if_pos hst).trans (congrArg _ (migWrite0_reserved hst hsize))
  case pinned =>
    intro hst hsize hpin
    refine ⟨_, (if_pos hst).trans (congrArg _ (migWrite0_pinned hst hsize hpin)), ?_⟩
    rw [migOf_setMig_same]
    obtain ⟨hstate, hrefused⟩ := fld_refusedWord (v := v) (fld_lt w.w0 63 62)
    exact ⟨hstate, hrefused, rfl, rfl, rfl⟩
  case hold =>
    intro hst hsize hpin
    refine ⟨_, (if_pos hst).trans (congrArg _ (migWrite0_hold hst hsize hpin)), ?_⟩
    obtain ⟨hstate, hrefused, hfsize, hpage⟩ := fld_holdWord v
    rw [migOf_setMig_same]
    exact ⟨hstate, hrefused, hfsize, hpage, rfl, rfl, rfl, rfl⟩
  case release => exact ⟨_, rfl, migWrite0_closes (.inr (fld_setFld_same _ 63 62 2 (by decide) (by decide)))⟩
  case close => exact ⟨_, rfl, migWrite0_closes (.inl (fld_setFld_same _ 63 62 0 (by decide) (by decide)))⟩
  case load =>
    intro p a z tok hheld hbody mv hchip
    obtain ⟨w0, -, heq⟩ := migWrite0_release (s := s) (die := die) (n := n) (.inr (fld_setFld_same (migOf s die n).w0 63 62 2 (by decide) (by decide)))
    exact ⟨_, congrArg Host.Outcome.next heq, migRelease_load hheld hbody hchip⟩

end Sys2Proof.Machine
end

section
/-! ### Retired rows and the floor (03 R56, R58) -/

namespace Sys2Proof.Machine

/-- The rows that a configuration record retires are the set bits of its field. -/
theorem mem_setBits (n : Nat) : ∀ lo x k, k ∈ setBits n lo x ↔ lo ≤ k ∧ k < lo + n ∧ x / 2 ^ (k - lo) % 2 = 1 := by
  induction n with
  | zero =>
    intro lo x k
    simp only [setBits, List.not_mem_nil, false_iff]
    omega
  | succ n ih =>
    intro lo x k
    have hhead : k ∈ (if x % 2 = 1 then [lo] else []) ↔ k = lo ∧ x % 2 = 1 := by split <;> simp_all
    rw [setBits, List.mem_append, hhead, ih]
    rcases Nat.lt_trichotomy k lo with h | rfl | h
    · omega
    · simp
    · have hpow : x / 2 ^ (k - lo) = x / 2 / 2 ^ (k - (lo + 1)) := by
        rw [Nat.div_div_eq_div_mul, ← Nat.pow_succ', show (k - (lo + 1)).succ = k - lo by omega]
      rw [hpow]
      omega

/-- A row that is powered off, its ports fenced. -/
def Retired (s : State) (row : Nat) : Prop := (rowState s row).powered = false ∧ (rowState s row).fenced = true

theorem retired_retireRow (s : State) (row : Nat) : Retired (retireRow s row) row := by
  simp [Retired, rowState, retireRow]

/-- Retiring a row brings none back. -/
theorem retireRow_keeps {s : State} {row : Nat} (other : Nat) (h : Retired s row) : Retired (retireRow s other) row := by
  by_cases hrow : row = other
  · rw [hrow]
    exact retired_retireRow s other
  · have hsame : rowState (retireRow s other) row = rowState s row := by
      by_cases hdie : row / 64 % 2 = other / 64 % 2
      · have hother : dieAt s (other / 64) = dieAt s (row / 64) := by simp only [dieAt, hdie]
        have hset : dieAt (retireRow s other) (row / 64) = dieAt (retireRow s other) (other / 64) := by simp only [dieAt, hdie]
        rw [rowState, rowState, hset, retireRow, dieAt_updDie_same, hother, mupd]
        exact mgetD_mput_other _ _ _ _ _ hrow
      · rw [rowState, rowState, retireRow, updDie, dieAt_setDie_other _ _ _ _ hdie]
    rw [Retired, hsame]
    exact h

theorem retired_foldl_retireRow (rows : List Nat) {row : Nat} : ∀ s, row ∈ rows ∨ Retired s row → Retired (rows.foldl retireRow s) row := by
  induction rows with
  | nil => exact fun s h => h.resolve_left List.not_mem_nil
  | cons x rows ih =>
    intro s h
    refine ih (retireRow s x) ?_
    rcases h with h | h
    · rcases List.mem_cons.mp h with rfl | h
      · exact .inr (retired_retireRow s row)
      · exact .inl h
    · exact .inr (retireRow_keeps x h)

/-- Retiring rows changes the dies alone. -/
theorem foldl_retireRow_only (rows : List Nat) : ∀ s, rows.foldl retireRow s = { s with dies := (rows.foldl retireRow s).dies } := by
  induction rows with
  | nil => exact fun s => rfl
  | cons x rows ih =>
    intro s
    rw [List.foldl_cons, ih (retireRow s x)]
    rfl

theorem leNat_lt (bs : List Byte) : leNat bs < 256 ^ bs.length := by
  induction bs with
  | nil => decide
  | cons b bs ih =>
    have hb : b.toNat < 256 := b.isLt
    rw [leNat, List.length_cons, Nat.pow_succ]
    omega

/-- A number of four bytes. -/
theorem leNat_take_lt (bs : List Byte) : leNat (bs.take 4) < 2 ^ 32 :=
  calc leNat (bs.take 4) < 256 ^ (bs.take 4).length := leNat_lt _
    _ ≤ 256 ^ 4 := Nat.pow_le_pow_right (by decide) (List.length_take_le 4 bs)
    _ = 2 ^ 32 := by decide

/-- What a floor of two numbers reads as. -/
theorem floor_eq {s : State} {fw ser : Nat} (h : s.flash.floor = leBytes 4 fw ++ leBytes 4 ser) :
    floorFw s = fw % 2 ^ 32 ∧ floorSerial s = ser % 2 ^ 32 := by
  have hlen : (leBytes 4 fw).length = 4 := leBytes_length 4 fw
  have hlen' : (leBytes 4 ser).length = 4 := leBytes_length 4 ser
  rw [floorFw, floorSerial, h, List.take_left' hlen, List.drop_left' hlen, List.take_of_length_le (Nat.le_of_eq hlen'), leNat_leBytes, leNat_leBytes]
  exact ⟨rfl, rfl⟩

/-- The floor's SERIAL never falls. -/
theorem floorSerial_le_raiseFloor (s : State) (cfg : Option (List Byte)) : floorSerial s ≤ floorSerial (raiseFloor s cfg) := by
  have hfloor : floorSerial s < 2 ^ 32 := leNat_take_lt _
  obtain ⟨-, hser⟩ := floor_eq (s := raiseFloor s cfg) rfl
  rw [hser]
  cases cfg with
  | none => exact Nat.le_of_eq (Nat.mod_eq_of_lt hfloor).symm
  | some r =>
    have hcfg : cfgSerial r < 2 ^ 32 := leNat_take_lt _
    dsimp only
    split
    · rw [Nat.mod_eq_of_lt (Nat.max_lt.mpr ⟨hfloor, hcfg⟩)]
      exact Nat.le_max_left ..
    · exact Nat.le_of_eq (Nat.mod_eq_of_lt hfloor).symm

/-- The floor's firmware version never falls, to a version of four bytes. -/
theorem floorFw_le_raiseFloor (s : State) (cfg : Option (List Byte)) (h : s.flash.fwVersion < 2 ^ 32) : floorFw s ≤ floorFw (raiseFloor s cfg) := by
  have hfloor : floorFw s < 2 ^ 32 := leNat_take_lt _
  obtain ⟨hfw, -⟩ := floor_eq (s := raiseFloor s cfg) rfl
  rw [hfw]
  split
  · rw [Nat.mod_eq_of_lt (Nat.max_lt.mpr ⟨hfloor, h⟩)]
    exact Nat.le_max_left ..
  · exact Nat.le_of_eq (Nat.mod_eq_of_lt hfloor).symm

end Sys2Proof.Machine
end

section
/-! ### The boot ROM's steps and the attestation report (03 R56, R58, R59) -/

namespace Sys2Proof.Machine

section
variable {s : State}

/-- Step 2: the floor's code is that of its key. -/
def FloorGood (s : State) : Prop := s.flash.floorMac = Config.tagOf (floorKey s) s.flash.floor

/-- Step 3: the firmware is signed and not below the floor. -/
def FwGood (s : State) : Prop := Config.sm2Verify Config.nerralKey (Config.sm3 s.flash.fw) s.flash.fwSig = true ∧ floorFw s ≤ s.flash.fwVersion

/-- Step 4: the ownership record is signed and names this device. -/
def OwnerGood (s : State) : Prop := Config.sm2Verify Config.nerralKey (Config.sm3 s.flash.owner) s.flash.ownerSig = true ∧ ownerDevid s = deviceId s

theorem FwGood.passes (h : FwGood s) :
    ¬ (Config.sm2Verify Config.nerralKey (Config.sm3 s.flash.fw) s.flash.fwSig = false ∨ s.flash.fwVersion < floorFw s) := by
  simp [h.1, h.2]

theorem OwnerGood.passes (h : OwnerGood s) :
    ¬ (Config.sm2Verify Config.nerralKey (Config.sm3 s.flash.owner) s.flash.ownerSig = false ∨ ownerDevid s ≠ deviceId s) := by
  simp [h.1, h.2]

/-- The package with one boot more counted. -/
def bootCounted (s : State) : State := { s with boot := { s.boot with count := (s.boot.count + 1) % 2 ^ 32 } }

/-- The package that a failure at a step has halted. -/
def bootHalted (s : State) (step : Nat) : State := { bootCounted s with boot := { (bootCounted s).boot with failstep := step, state := 2 } }

/-- The package with a configuration record applied, and its measurements. -/
def configured (s : State) (r : List Byte) (code : Nat) : State :=
  { cfgApply (bootCounted s) r with boot := { measure (bootCounted s) r with failstep := 0, cfg := code, state := 1 } }

theorem configured_only (s : State) (r : List Byte) (code : Nat) :
    (configured s r code).flash = s.flash ∧ (configured s r code).cores = s.cores ∧ (configured s r code).mem = s.mem := by
  have honly := foldl_retireRow_only (setBits 128 0 (cfgField r 42 16)) (bootCounted s)
  simp only [configured, cfgApply]
  rw [honly]
  exact ⟨rfl, rfl, rfl⟩

/-- The package that waits unconfigured. -/
def bootWaiting (s : State) : State :=
  raiseFloor { bootCounted s with boot := { measure (bootCounted s) [] with failstep := 0, cfg := 2, state := 3 } } none

theorem boot_again (h : s.boot.state ≠ 0) : exec .boot s = .next s := if_pos h

section
variable (h : s.boot.state = 0)
include h

theorem boot_floor (hfloor : ¬ FloorGood s) : exec .boot s = .next (bootHalted s 2) :=
  (if_neg (not_not.mpr h)).trans (if_pos hfloor)

variable (hfloor : FloorGood s)
include hfloor

theorem boot_fw (hfw : ¬ FwGood s) : exec .boot s = .next (bootHalted s 3) := by
  have hbad : Config.sm2Verify Config.nerralKey (Config.sm3 s.flash.fw) s.flash.fwSig = false ∨ s.flash.fwVersion < floorFw s := by
    rw [FwGood, not_and_or, Bool.not_eq_true, Nat.not_le] at hfw
    exact hfw
  exact (if_neg (not_not.mpr h)).trans ((if_neg (not_not.mpr hfloor)).trans (if_pos hbad))

variable (hfw : FwGood s)
include hfw

theorem boot_owner (howner : ¬ OwnerGood s) : exec .boot s = .next (bootHalted s 4) := by
  have hbad : Config.sm2Verify Config.nerralKey (Config.sm3 s.flash.owner) s.flash.ownerSig = false ∨ ownerDevid s ≠ deviceId s := by
    rw [OwnerGood, not_and_or, Bool.not_eq_true] at howner
    exact howner
  exact (if_neg (not_not.mpr h)).trans ((if_neg (not_not.mpr hfloor)).trans ((if_neg hfw.passes).trans (if_pos hbad)))

variable (howner : OwnerGood s)
include howner

/-- With a record that qualifies, boot applies it. -/
theorem boot_applies {r : List Byte} {code : Nat} (hpick : cfgPick s = some (r, code)) :
    exec .boot s = .next (raiseFloor (configured s r code) (some r)) := by
  have hpick' : cfgPick (bootCounted s) = some (r, code) := hpick
  refine (if_neg (not_not.mpr h)).trans ((if_neg (not_not.mpr hfloor)).trans ((if_neg hfw.passes).trans ((if_neg howner.passes).trans ?_)))
  rw [bootCounted] at hpick'
  rw [hpick']
  rfl

/-- Without one the package waits. -/
theorem boot_waits (hpick : cfgPick s = none) : exec .boot s = .next (bootWaiting s) := by
  have hpick' : cfgPick (bootCounted s) = none := hpick
  refine (if_neg (not_not.mpr h)).trans ((if_neg (not_not.mpr hfloor)).trans ((if_neg hfw.passes).trans ((if_neg howner.passes).trans ?_)))
  rw [bootCounted] at hpick'
  rw [hpick']
  rfl

end

/-- The rows that a record retires, and no others below 128, are retired. -/
theorem mem_retired_configured (s : State) (r : List Byte) (code : Nat) {row : Nat} (h : row < 128) :
    row ∈ (configured s r code).retired ↔ cfgField r 42 16 / 2 ^ row % 2 = 1 := by
  have hgone : row ∈ setBits 128 0 (cfgField r 42 16) ↔ cfgField r 42 16 / 2 ^ row % 2 = 1 := by
    rw [mem_setBits, Nat.sub_zero]
    omega
  exact hgone

theorem retired_configured (s : State) (r : List Byte) (code : Nat) {row : Nat} (h : row ∈ (configured s r code).retired) :
    Retired (configured s r code) row :=
  retired_foldl_retireRow (setBits 128 0 (cfgField r 42 16)) (bootCounted s) (.inl h)

end

/-- A request whose nonce has not 32 bytes, or that comes before boot has measured, gets no report. -/
theorem attestationRequest_idle {s : State} {nonce : List Byte} (h : nonce.length ≠ 32 ∨ (s.boot.state ≠ 1 ∧ s.boot.state ≠ 3)) :
    exec (.attestationRequest nonce) s = .next s := if_pos h

/-- Settles O19: boot's checks in their order, what an applied record leaves, and the report. -/
theorem bootAndAttestation : Obligations.BootAndAttestation := by
  unfold Obligations.BootAndAttestation
  intro s nonce n floorGood fwGood ownerGood halted
  refine ⟨boot_again, fun h => ⟨boot_floor h, boot_fw h, boot_owner h, fun hfloor hfw howner => ⟨?applies, ?both, ?neither⟩⟩, ?idle, ?report⟩
  case applies =>
    intro r code hpick
    obtain ⟨hflash, hcores, hmem⟩ := configured_only s r code
    have hfw' : floorFw (configured s r code) = floorFw s := by rw [floorFw, floorFw, hflash]
    have hser : floorSerial (configured s r code) = floorSerial s := by rw [floorSerial, floorSerial, hflash]
    refine ⟨_, boot_applies h hfloor hfw howner hpick, rfl, rfl, rfl, rfl, fun row => mem_retired_configured s r code,
      fun row _ => retired_configured s r code, ?_, rfl, ?_, fun hversion => ?_, hcores, hmem⟩
    · simp [raiseFloor, configured, cfgApply]
    · rw [← hser]
      exact floorSerial_le_raiseFloor ..
    · rw [← hfw']
      exact floorFw_le_raiseFloor _ _ (hflash ▸ hversion)
  case both =>
    intro ha hb
    simp only [cfgPick, ha, hb]
  case neither =>
    intro ha hb
    exact ⟨_, boot_waits h hfloor hfw howner (by simp only [cfgPick, ha, hb]), rfl, rfl, rfl, rfl, rfl⟩
  case idle => exact attestationRequest_idle
  case report =>
    intro hlen hstate
    exact if_neg (by omega)

end Sys2Proof.Machine
end

section
/-! ### What runs on: updates that leave every core's activation, its slots, memory and the operations in progress as they are -/

namespace Sys2Proof.Machine

/-- What a kill concerns in a core: its activation, its send buffer and FIFO, and its slots. -/
def coreKept (k : Core) : Option Act × List SbEntry × List Cmd × Vector Slot 4 := (k.act, k.sb, k.fifo, k.slots)

/-- Memory, the operations in progress, the incarnations still on their way and every core's slots are as they were. -/
structure Beside (s t : State) : Prop where
  mem : t.mem = s.mem
  ops : t.ops = s.ops
  lag : t.incLag = s.incLag
  slots : ∀ c, (coreOf t c).slots = (coreOf s c).slots

/-- And so is what runs and waits on every core. -/
structure Quiet (s t : State) : Prop where
  mem : t.mem = s.mem
  ops : t.ops = s.ops
  lag : t.incLag = s.incLag
  cores : ∀ c, coreKept (coreOf t c) = coreKept (coreOf s c)

theorem Quiet.beside {s t : State} (h : Quiet s t) : Beside s t :=
  ⟨h.mem, h.ops, h.lag, fun c => congrArg (·.2.2.2) (h.cores c)⟩

theorem Beside.trans {s t u : State} (h : Beside s t) (h' : Beside t u) : Beside s u :=
  ⟨h'.mem.trans h.mem, h'.ops.trans h.ops, h'.lag.trans h.lag, fun c => (h'.slots c).trans (h.slots c)⟩

theorem Beside.refl (s : State) : Beside s s := ⟨rfl, rfl, rfl, fun _ => rfl⟩

theorem Quiet.trans {s t u : State} (h : Quiet s t) (h' : Quiet t u) : Quiet s u :=
  ⟨h'.mem.trans h.mem, h'.ops.trans h.ops, h'.lag.trans h.lag, fun c => (h'.cores c).trans (h.cores c)⟩

theorem Quiet.refl (s : State) : Quiet s s := ⟨rfl, rfl, rfl, fun _ => rfl⟩

/-- An update of other parts of the package. -/
theorem Quiet.of_cores {s t : State} (hcores : t.cores = s.cores) (hmem : t.mem = s.mem) (hops : t.ops = s.ops) (hlag : t.incLag = s.incLag) : Quiet s t :=
  ⟨hmem, hops, hlag, fun c => by rw [coreOf, coreOf, hcores]⟩

theorem quiet_updDie (s : State) (d : Nat) (g : Die → Die) : Quiet s (updDie s d g) := .of_cores rfl rfl rfl rfl

theorem quiet_count (s : State) (d n : Nat) : Quiet s (count s d n) := quiet_updDie ..

theorem coreOf_updCore (s : State) (c d : Nat) (f : Core → Core) : coreOf (updCore s c f) d = if d = c then f (coreOf s d) else coreOf s d := by
  split
  next h => rw [h, coreOf_updCore_same]
  next h => exact coreOf_updCore_other s c d f h

theorem quiet_updCore (s : State) (c : Nat) {f : Core → Core} (hf : ∀ k, coreKept (f k) = coreKept k := by intro k; rfl) : Quiet s (updCore s c f) := by
  refine ⟨rfl, rfl, rfl, fun d => ?_⟩
  rw [coreOf_updCore]
  split
  · exact hf _
  · rfl

theorem beside_updCore (s : State) (c : Nat) {f : Core → Core} (hf : ∀ k, (f k).slots = k.slots := by intro k; rfl) : Beside s (updCore s c f) := by
  refine ⟨rfl, rfl, rfl, fun d => ?_⟩
  rw [coreOf_updCore]
  split
  · exact hf _
  · rfl

theorem quiet_ite {s t u : State} (p : Prop) [Decidable p] (ht : Quiet s t) (hu : Quiet s u) : Quiet s (if p then t else u) := by
  split
  · exact ht
  · exact hu

theorem quiet_foldl {α : Type} {f : State → α → State} (hf : ∀ s a, Quiet s (f s a)) (as : List α) : ∀ s, Quiet s (as.foldl f s) := by
  induction as with
  | nil => exact .refl
  | cons a as ih => exact fun s => (hf s a).trans (ih _)

/-! #### Packets and reports -/

theorem quiet_emit (s : State) (p : Packet) : Quiet s (emit s p) := by
  rw [emit_only]
  exact .of_cores rfl rfl rfl rfl

theorem quiet_report (s : State) (kid : Nat) (delta : Int) (ackTo : Option Nat) : Quiet s (report s kid delta ackTo) :=
  quiet_ite _ (.refl s) (.of_cores rfl rfl rfl rfl)

theorem quiet_failMsg (s : State) (cause cid inc rank aborts : Nat) (h : MsgHdr) : Quiet s (failMsg s cause cid inc rank aborts h) := by
  refine Quiet.trans ?_ (quiet_report ..)
  exact .of_cores rfl rfl rfl rfl

theorem quiet_forwardTo (s : State) (src cid rank : Nat) (p : Packet) : Quiet s (forwardTo s src cid rank p) := by
  unfold forwardTo
  dsimp only
  split
  · exact quiet_emit ..
  · exact quiet_ite _ (quiet_failMsg ..) (quiet_count ..)
  · exact quiet_emit ..

theorem quiet_handleDead (s : State) (at_ : Nat) (p : Packet) (cause : Nat) : Quiet s (handleDead s at_ p cause) := by
  unfold handleDead
  split
  · exact quiet_forwardTo ..
  · exact .refl s

theorem quiet_staleAt (s : State) (c : Nat) : Quiet s (staleAt s c) :=
  Quiet.trans (t := updCore s c fun k => { k with stale := (k.stale + 1) % 2 ^ 32 }) (quiet_updCore s c) (quiet_count ..)

theorem quiet_resolve (s : State) (c cid rank : Nat) : Quiet s (resolve s c cid rank).2 := by
  unfold resolve
  dsimp only
  split
  · exact .refl s
  · exact quiet_updCore s c (f := fun k => { k with rcache := _ })

theorem quiet_sendRank' (s : State) (c cid rank : Nat) (p : Packet) : Quiet s (sendRank' s c cid rank p) := by
  refine (quiet_resolve s c cid rank).trans ?_
  unfold sendRank'
  dsimp only
  split
  · exact quiet_emit ..
  · exact quiet_updCore _ c
  · exact quiet_emit ..
  · split
    · exact quiet_failMsg ..
    · exact quiet_failMsg ..
    · exact quiet_count ..

theorem quiet_notice (s : State) (c : Nat) (e : EndRec) (typ seq nrank cause : Nat) : Quiet s (notice s c e typ seq nrank cause) := quiet_sendRank' ..

theorem quiet_unset (s : State) (e : EndRec) : Quiet s (unset s e) := by
  unfold unset
  split
  · exact quiet_report ..
  · exact .refl s

theorem quiet_killEnd (s : State) (c : Nat) (e : EndRec) (cause : Nat) : Quiet s (killEnd s c e cause) := by
  unfold killEnd freeEnd
  refine Quiet.trans ?_ (quiet_updCore _ c)
  exact (quiet_ite _ (quiet_unset s e) (.refl s)).trans (quiet_notice ..)

/-! #### Element operations and ordered reductions -/

theorem quiet_updRun (s : State) (core cmd : Nat) (f : RunCmd → RunCmd) : Quiet s (updRun s core cmd f) := quiet_updCore s core

theorem quiet_engDone (s : State) (tok : Nat) (refused : Bool) : Quiet s (engDone s tok refused) := quiet_updRun ..

theorem quiet_engLost (s : State) (tok : Nat) : Quiet s (engLost s tok) := quiet_ite _ (quiet_engDone ..) (quiet_updRun ..)

theorem quiet_redEnd (s : State) (cid who tok status : Nat) : Quiet s (redEnd s cid who tok status) := quiet_ite _ (quiet_updRun ..) (quiet_emit ..)

theorem quiet_redWordDone (s : State) (die tok : Nat) (refused : Bool) : Quiet s (redWordDone s die tok refused) := by
  unfold redWordDone
  split
  · exact .refl s
  · exact quiet_ite _ (.trans (quiet_updDie ..) (quiet_foldl (fun _ _ => quiet_redEnd ..) _ _)) (quiet_updDie ..)

theorem quiet_markApplied (s : State) (src tok dst : Nat) : Quiet s (markApplied s src tok dst) :=
  quiet_ite _ (quiet_engDone ..) (quiet_ite _ (quiet_redWordDone ..) (quiet_ite _ (quiet_updDie ..)
    (quiet_ite _ (quiet_updCore s _) (.refl s))))

theorem quiet_staleDrop (s : State) (p : Packet) : Quiet s (staleDrop s p) := by
  have hdrop : Quiet s (if agIsCore p.dst then staleAt (handleDead s p.dst p 1) (agCore p.dst) else count (handleDead s p.dst p 1) (agDie p.dst) 0) :=
    (quiet_handleDead s p.dst p 1).trans (quiet_ite _ (quiet_staleAt ..) (quiet_count ..))
  exact hdrop.trans (quiet_ite _ (.refl _) (quiet_ite _ (quiet_ite _ (quiet_engLost ..) (quiet_ite _ (quiet_updCore _ _) (.refl _)))
    (quiet_markApplied ..)))

theorem quiet_syncHold (s : State) (c : Nat) : Quiet s (syncHold s c) := quiet_ite _ (.refl s) (quiet_updCore s c)

theorem quiet_syncHolds (s : State) (qs : List XReq) : Quiet s (syncHolds s qs) := quiet_foldl (fun _ _ => quiet_foldl quiet_syncHold _ _) qs s

end Sys2Proof.Machine
end

section
/-! ### What the broadcast of a new incarnation does at an agent (03 R63, R67) -/

namespace Sys2Proof.Machine

theorem ofInc_iff (cid inc c i : Nat) : ofInc cid inc c i = true ↔ c = cid ∧ i = inc := decide_eq_true_iff

theorem not_ofInc_iff (cid inc c i : Nat) : (!ofInc cid inc c i) = true ↔ ¬ (c = cid ∧ i = inc) := by
  rw [Bool.not_eq_true', ← Bool.not_eq_true, ofInc_iff]

/-! #### A core -/

theorem quiet_stopReport (s : State) (a : Act) (aborts : Nat) (pc : Word) (counted : Bool) : Quiet s (stopReport s a aborts pc counted) := by
  unfold stopReport
  refine Quiet.trans ?_ (quiet_ite _ (.refl _) (quiet_report ..))
  split
  · exact quiet_ite _ (.of_cores rfl rfl rfl rfl) (.refl s)
  · exact .refl s

theorem quiet_reportSettings (s : State) (c less : Nat) : Quiet s (reportSettings s c less) := by
  unfold reportSettings
  dsimp only
  split
  · exact .refl s
  · exact quiet_ite _ (.refl s) (quiet_report ..)

theorem quiet_leaveGang (s : State) (c : Nat) (g : Option Nat) : Quiet s (leaveGang s c g) := by
  unfold leaveGang
  split
  · exact .refl s
  · exact .of_cores rfl rfl rfl rfl

theorem beside_unpair (s : State) (c : Nat) : Beside s (unpair s c).2 := by
  unfold unpair
  dsimp only
  split
  · exact .refl s
  · dsimp only
    exact (beside_updCore s _).trans (beside_updCore _ _)

theorem unpair_alone {s : State} {c : Nat} (h : (coreOf s c).twin = none) : unpair s c = (c, s) := by
  simp [unpair, h]

theorem beside_stopAct (s : State) (c : Nat) : Beside s (stopAct s c) := by
  refine (beside_unpair s c).trans ?_
  unfold stopAct
  dsimp only
  split
  · exact .refl _
  · refine Beside.trans ?_ (beside_updCore _ _)
    refine Quiet.beside (Quiet.trans ?_ (Quiet.of_cores (s := leaveGang _ _ _) rfl rfl rfl rfl))
    exact ((quiet_reportSettings ..).trans (quiet_stopReport ..)).trans (quiet_leaveGang ..)

/-- The activation of an unpaired core is gone, and what it had waiting with it. -/
theorem stopAct_clears {s : State} {c : Nat} {a : Act} (hact : (coreOf s c).act = some a) (htwin : (coreOf s c).twin = none) :
    let k := coreOf (stopAct s c) c
    k.act = none ∧ k.sb = [] ∧ k.fifo = [] := by
  simp only [stopAct, unpair_alone htwin, hact, coreOf_updCore_same]
  exact ⟨rfl, rfl, rfl⟩

theorem beside_stopSucc (s : State) (c : Nat) : Beside s (stopSucc s c) := by
  unfold stopSucc
  split
  · exact .refl s
  · refine Beside.trans ?_ (beside_updCore _ c)
    exact ((quiet_stopReport ..).trans (quiet_leaveGang ..)).beside

/-- What a killed incarnation has running on a core, stopped. -/
def stopped (s : State) (c cid old : Nat) : State :=
  let s' := if (coreOf s c).act.any fun a => ofInc cid old a.cid a.inc then stopAct s c else s
  if (coreOf s c).succ.any fun a => ofInc cid old a.cid a.inc then stopSucc s' c else s'

theorem beside_stopped (s : State) (c cid old : Nat) : Beside s (stopped s c cid old) := by
  have hact : Beside s (if (coreOf s c).act.any fun a => ofInc cid old a.cid a.inc then stopAct s c else s) := by
    split
    · exact beside_stopAct s c
    · exact .refl s
  unfold stopped
  dsimp only
  split
  · exact hact.trans (beside_stopSucc ..)
  · exact hact

/-- Whether a slot's resident is of an incarnation. -/
def ownsSlot (cid old : Nat) (k : Core) (slot : Nat) : Bool := (slotOf k slot).resident.any fun r => ofInc cid old r.cid r.inc

/-- A core without the gates of some kernels and without the mailbox counts of an incarnation's residents. -/
def wiped (cid old : Nat) (kids : List Nat) (k : Core) : Core :=
  { k with gates := k.gates.filter fun g => !decide (g.1 ∈ kids)
           slots := Vector.ofFn fun (i : Fin 4) => let t := k.slots[i.val]; if ownsSlot cid old k i.val then { t with mb := Vector.replicate 8 0 } else t }

theorem quiet_clearBank (s : State) (c : Nat) : Quiet s (updCore s c clearBank) :=
  quiet_updCore s c fun k => by simp only [coreKept, clearBank]

theorem quiet_freeOut (s : State) (c cid old : Nat) : Quiet s (freeOut s c cid old) := quiet_updCore s c

/-- Once what ran is stopped, the rest leaves what runs and the slots of every core, until the mailbox counts go last. -/
theorem killCore_eq (s : State) (c cid old : Nat) : ∃ (kids : List Nat) (u : State),
    killCore s c cid old = pendNow (updCore u c (wiped cid old kids)) c ∧ Quiet (stopped s c cid old) u := by
  refine ⟨_, _, rfl, ?_⟩
  refine Quiet.trans ?_ (quiet_freeOut _ c cid old)
  refine Quiet.trans ?_ (quiet_foldl (fun _ _ => quiet_killEnd ..) _ _)
  refine Quiet.trans ?_ (quiet_foldl (fun _ _ => ((quiet_staleAt ..).trans (quiet_handleDead ..)).trans (quiet_markApplied ..)) _ _)
  refine Quiet.trans ?_ (quiet_updCore _ c)
  refine Quiet.trans ?_ (quiet_updCore _ c)
  refine Quiet.trans ?_ (quiet_ite _ (quiet_clearBank _ c) (.refl _))
  exact quiet_updCore _ c

theorem slotOf_wiped (cid old : Nat) (kids : List Nat) (k : Core) {slot : Nat} (h : slot < 4) :
    slotOf (wiped cid old kids k) slot = if ownsSlot cid old k slot then { slotOf k slot with mb := Vector.replicate 8 0 } else slotOf k slot := by
  simp [slotOf, wiped, ownsSlot, Nat.mod_eq_of_lt h]

/-- Memory, the operations in progress and the incarnations still on their way are as they were. -/
def KeepsOps (s t : State) : Prop := t.mem = s.mem ∧ t.ops = s.ops ∧ t.incLag = s.incLag

theorem Quiet.keepsOps {s t : State} (h : Quiet s t) : KeepsOps s t := ⟨h.mem, h.ops, h.lag⟩

theorem keepsOps_killCore (s : State) (c cid old : Nat) : KeepsOps s (killCore s c cid old) := by
  obtain ⟨kids, u, heq, hquiet⟩ := killCore_eq s c cid old
  obtain ⟨hmem, hops, hlag, -⟩ := (beside_stopped s c cid old).trans hquiet.beside
  rw [heq]
  exact ⟨hmem, hops, hlag⟩

/-- The activation of a killed incarnation is gone from its core. -/
theorem killCore_act {s : State} {c cid old : Nat} {a : Act} (hact : (coreOf s c).act = some a) (hcid : a.cid = cid) (hinc : a.inc = old)
    (htwin : (coreOf s c).twin = none) (hsucc : (coreOf s c).succ = none) :
    let k := coreOf (killCore s c cid old) c
    k.act = none ∧ k.sb = [] ∧ k.fifo = [] := by
  obtain ⟨kids, u, heq, hquiet⟩ := killCore_eq s c cid old
  have hstopped : stopped s c cid old = stopAct s c := by
    simp [stopped, hact, hsucc, (ofInc_iff ..).mpr ⟨hcid, hinc⟩]
  have hkept : coreKept (coreOf u c) = coreKept (coreOf (stopAct s c) c) := hstopped ▸ hquiet.cores c
  simp only [coreKept, Prod.mk.injEq] at hkept
  obtain ⟨hact', hsb', hfifo', -⟩ := hkept
  obtain ⟨hnone, hsb, hfifo⟩ := stopAct_clears hact htwin
  rw [heq, pendNow, coreOf_updCore_same, coreOf_updCore_same]
  exact ⟨hact'.trans hnone, hsb'.trans hsb, hfifo'.trans hfifo⟩

/-- The mailbox counts of a killed incarnation's residents are 0. -/
theorem killCore_mailboxes {s : State} {c cid old slot : Nat} {r : Resident} (hslot : slot < 4) (hres : (slotOf (coreOf s c) slot).resident = some r)
    (hcid : r.cid = cid) (hinc : r.inc = old) (n : Nat) : mbOf (slotOf (coreOf (killCore s c cid old) c) slot) n = 0 := by
  obtain ⟨kids, u, heq, hquiet⟩ := killCore_eq s c cid old
  have hslots : slotOf (coreOf u c) slot = slotOf (coreOf s c) slot := by
    rw [slotOf, slotOf, ((beside_stopped s c cid old).trans hquiet.beside).slots c]
  have hown : ownsSlot cid old (coreOf u c) slot = true := by
    simp [ownsSlot, hslots, hres, (ofInc_iff ..).mpr ⟨hcid, hinc⟩]
  have hslot' : slotOf (coreOf (killCore s c cid old) c) slot = slotOf (wiped cid old kids (coreOf u c)) slot := by
    rw [heq, pendNow, coreOf_updCore_same, coreOf_updCore_same]
    rfl
  rw [hslot', slotOf_wiped _ _ _ _ hslot, if_pos hown]
  simp [mbOf]

/-! #### The other agents -/

theorem mget_map {α : Type} (g : Nat → α → α) (m : SMap α) (a : Nat) : mget (m.map fun kv => (kv.1, g kv.1 kv.2)) a = (mget m a).map (g a) := by
  induction m with
  | nil => rfl
  | cons kv m ih =>
    obtain ⟨k, v⟩ := kv
    by_cases h : k = a
    · subst h; simp [mget]
    · simp [mget, h, ih]

theorem quiet_killRuns (s : State) (on : Nat → Bool) (eng cid old : Nat) : Quiet s (killRuns s on eng cid old) := by
  refine ⟨rfl, rfl, rfl, fun c => ?_⟩
  let g : Nat → Core → Core := fun c k =>
    if on c then { k with run := k.run.filter fun r => !(ofInc cid old r.cmd.cid r.cmd.inc && decide (cmdEng r.cmd = eng)) } else k
  have hmap : (killRuns s on eng cid old).cores = s.cores.map fun kv => (kv.1, g kv.1 kv.2) :=
    List.map_congr_left fun kv _ => by dsimp only [g]; split <;> rfl
  have hg : ∀ k, coreKept (g c k) = coreKept k := fun k => by dsimp only [g]; split <;> rfl
  rw [coreOf, coreOf, mgetD, mgetD, hmap, mget_map]
  cases mget s.cores c with
  | none => rfl
  | some k => exact hg k

theorem quiet_killRtu (s : State) (die n cid old : Nat) : Quiet s (killRtu s die n cid old) := by
  unfold killRtu
  refine Quiet.trans ?_ (quiet_syncHolds ..)
  refine Quiet.trans ?_ (quiet_foldl (fun _ _ => quiet_count ..) _ _)
  refine Quiet.trans ?_ (quiet_foldl (fun _ _ => quiet_updCore ..) _ _)
  exact quiet_updDie ..

theorem quiet_killSlice (s : State) (a cid old : Nat) : Quiet s (killSlice s a cid old) :=
  quiet_foldl (fun _ _ => .trans (quiet_ite _ (.refl _) (quiet_updDie ..)) (quiet_foldl quiet_staleDrop _ _)) _ s

theorem quiet_killDisp (s : State) (die cid old : Nat) : Quiet s (killDisp s die cid old) := .of_cores rfl rfl rfl rfl

theorem quiet_killLocks (s : State) (die sl cid old : Nat) : Quiet s (killLocks s die sl cid old) := .of_cores rfl rfl rfl rfl

theorem quiet_freeEntry (s : State) (k : Kernel) : Quiet s (freeEntry s k) := quiet_ite _ (.of_cores rfl rfl rfl rfl) (.refl s)

theorem quiet_endKernel (s : State) (kid : Nat) (f : Kernel → Kernel) : Quiet s (rampDown (updKernel s kid f) kid) := by
  refine Quiet.trans (t := updKernel s kid f) (.of_cores rfl rfl rfl rfl) ?_
  unfold rampDown
  exact Quiet.trans (quiet_updDie _ 0 _) (quiet_updDie _ 1 _)

theorem quiet_killSched (s : State) (die cid old new : Nat) : Quiet s (killSched s die cid old new) := by
  unfold killSched
  refine Quiet.trans (quiet_foldl ?_ _ s) (.of_cores (s := List.foldl _ _ _) rfl rfl rfl rfl)
  exact fun s kn => (quiet_freeEntry s kn).trans (quiet_endKernel ..)

theorem quiet_ovFree (s : State) (die cid : Nat) (p : Packet) : Quiet s (ovFree s die cid p) := quiet_updDie ..

theorem quiet_redFree (s : State) (die : Nat) (g : RedG) : Quiet s (redFree s die g) := .of_cores rfl rfl rfl rfl

theorem quiet_killStore (s : State) (die cid old : Nat) (restore : Bool) : Quiet s (killStore s die cid old restore) := by
  unfold killStore
  refine Quiet.trans (Quiet.trans (quiet_foldl ?lists _ s) (quiet_updDie ..)) (quiet_foldl ?groups _ _)
  case groups => exact fun s g => (quiet_redFree s die g).trans (quiet_updDie ..)
  case lists =>
    refine fun s o => Quiet.trans (quiet_updDie ..) (quiet_foldl (fun s x => ?_) _ _)
    refine Quiet.trans (Quiet.trans (quiet_ovFree s die cid x.1) (quiet_handleDead _ (storeOf s die) x.1 1)) ?_
    exact Quiet.trans (quiet_ite _ (quiet_failMsg ..) (.refl _)) (quiet_count ..)

theorem quiet_killFabric (s : State) (die cid old : Nat) : Quiet s (killFabric s die cid old) :=
  (quiet_killRuns s (fun c => decide (dieOf c = die)) 4 cid old).trans (.of_cores rfl rfl rfl rfl)

theorem quiet_killNic (s : State) (die cid old : Nat) : Quiet s (killNic s die cid old) :=
  (quiet_killRuns s (fun c => decide (dieOf c = die)) 3 cid old).trans (.of_cores rfl rfl rfl rfl)

/-- Whatever the agent, no byte of memory changes, nor an operation in progress. -/
theorem keepsOps_applyKill (s : State) (a cid old new : Nat) (restore : Bool) : KeepsOps s (applyKill s a cid old new restore) := by
  unfold applyKill
  dsimp only
  split
  · exact (quiet_killSlice ..).keepsOps
  · exact (quiet_killRuns ..).keepsOps
  · exact (quiet_killNic ..).keepsOps
  · exact (quiet_ite _ (quiet_killDisp ..) (quiet_killLocks ..)).keepsOps
  · split
    · exact (quiet_killFabric ..).keepsOps
    · exact ⟨rfl, rfl, rfl⟩
    · exact ⟨rfl, rfl, rfl⟩
    · exact (quiet_killSched ..).keepsOps
    · exact (quiet_killStore ..).keepsOps
    · exact (quiet_ite _ (quiet_killRtu ..) (.refl s)).keepsOps
  · exact keepsOps_killCore ..

/-! #### What they no longer hold -/

section
variable {s : State} {a cid old new : Nat} {restore : Bool}

theorem applyKill_core (h : agKind a = 0) : applyKill s a cid old new restore = killCore s (agCore a) cid old := by
  simp only [applyKill, h]

theorem applyKill_nic (h : agKind a = 4) : ∀ w ∈ (nicAt (applyKill s a cid old new restore) (agDie a)).wrqs, ¬ (w.cid = cid ∧ w.inc = old) := by
  intro w hw
  simp only [applyKill, h, killNic, nicAt, updNic, dieAt_updDie_same, List.mem_filter] at hw
  exact (not_ofInc_iff ..).mp hw.2

theorem applyKill_dispatcher (h : agKind a = 6) (hidx : agIdx a = 0) :
    ∀ w ∈ (dieAt (applyKill s a cid old new restore) (agDie a)).disp.window, ¬ (w.cid = cid ∧ w.inc = old) := by
  intro w hw
  simp only [applyKill, h, hidx, if_true, killDisp, updDisp, dieAt_updDie_same, List.mem_filter] at hw
  exact (not_ofInc_iff ..).mp hw.2

/-- What each step of a fold leaves as it is, the fold does. -/
theorem foldl_keeps {α β : Type} (φ : State → β) {f : State → α → State} (hf : ∀ s a, φ (f s a) = φ s) (as : List α) : ∀ s, φ (as.foldl f s) = φ s := by
  induction as with
  | nil => exact fun s => rfl
  | cons a as ih => exact fun s => (ih _).trans (hf s a)

theorem rtuAt_updDie (s : State) (d die n : Nat) {g : Die → Die} (hg : ∀ x, (g x).rtus = x.rtus) : rtuAt (updDie s d g) die n = rtuAt s die n := by
  have hrtus : (dieAt (updDie s d g) die).rtus = (dieAt s die).rtus := by
    by_cases h : die % 2 = d % 2
    · have hsame : dieAt (updDie s d g) die = g (dieAt s die) := by simp [dieAt, updDie, setDie, h]
      rw [hsame, hg]
    · rw [updDie, dieAt_setDie_other _ _ _ _ h]
  rw [rtuAt, rtuAt, hrtus]

theorem rtuAt_syncHolds (s : State) (qs : List XReq) (die n : Nat) : rtuAt (syncHolds s qs) die n = rtuAt s die n := by
  refine foldl_keeps (rtuAt · die n) (fun s q => foldl_keeps (rtuAt · die n) (fun s c => ?_) _ s) qs s
  unfold syncHold
  dsimp only
  split <;> rfl

theorem rtuAt_count (s : State) (d i die n : Nat) : rtuAt (count s d i) die n = rtuAt s die n := by
  refine rtuAt_updDie s d die n ?_
  exact fun _ => rfl

theorem rtuAt_foldl_updCore (g : XReq → Core → Core) (qs : List XReq) (s : State) (die n : Nat) :
    rtuAt (qs.foldl (fun s q => updCore s q.core (g q)) s) die n = rtuAt s die n :=
  foldl_keeps (rtuAt · die n) (f := fun s q => updCore s q.core (g q)) (fun _ _ => rfl) qs s

theorem killRtu_queue (s : State) (die n cid old : Nat) : ∀ q ∈ (rtuAt (killRtu s die n cid old) die n).queue, ¬ (q.cid = cid ∧ q.inc = old) := by
  intro q hq
  rw [killRtu, rtuAt_syncHolds, foldl_keeps (rtuAt · die n) fun s _ => rtuAt_count s die 0 die n, rtuAt_foldl_updCore] at hq
  simp only [rtuAt, updRtu, dieAt_updDie_same, mgetD_mupd_same, List.mem_filter] at hq
  exact (not_ofInc_iff ..).mp hq.2

theorem applyKill_rtu (h : agKind a = 7) (hlow : 256 ≤ agIdx a) (hhigh : agIdx a < 1024) :
    ∀ q ∈ (rtuAt (applyKill s a cid old new restore) (agDie a) (agIdx a - 256)).queue, ¬ (q.cid = cid ∧ q.inc = old) := by
  have hrtu : applyKill s a cid old new restore = killRtu s (agDie a) (agIdx a - 256) cid old := by
    simp only [applyKill, h]
    split
    case h_6 => exact if_pos hhigh
    all_goals omega
  rw [hrtu]
  exact killRtu_queue s (agDie a) (agIdx a - 256) cid old

end

end Sys2Proof.Machine
end

section
/-! ### Operations that many agents acknowledge, and their ends (03 R62, R63, R65) -/

namespace Sys2Proof.Machine

section
variable {s : State} {o : Op}

theorem coreOf_updOp (s : State) (tok : Nat) (f : Op → Op) (c : Nat) : coreOf (updOp s tok f) c = coreOf s c := rfl
theorem dieAt_updOp (s : State) (tok : Nat) (f : Op → Op) (die : Nat) : dieAt (updOp s tok f) die = dieAt s die := rfl
theorem nicAt_updOp (s : State) (tok : Nat) (f : Op → Op) (die : Nat) : nicAt (updOp s tok f) die = nicAt s die := rfl
theorem rtuAt_updOp (s : State) (tok : Nat) (f : Op → Op) (die n : Nat) : rtuAt (updOp s tok f) die n = rtuAt s die n := rfl

theorem mem_updOp (h : o ∈ s.ops) (f : Op → Op) : f o ∈ (updOp s o.tok f).ops := List.mem_map.mpr ⟨o, h, if_pos rfl⟩

/-- An operation that is found by its token is still found once it has changed. -/
theorem opOf_updOp {f : Op → Op} (h : opOf s o.tok = some o) (hf : ∀ x, (f x).tok = x.tok) : opOf (updOp s o.tok f) o.tok = some (f o) := by
  have htok : (fun x : Op => decide (x.tok = o.tok)) ∘ (fun x => if x.tok = o.tok then f x else x) = fun x => decide (x.tok = o.tok) := by
    funext x
    simp only [Function.comp_apply]
    split
    · rw [hf]
    · rfl
  rw [opOf, updOp, List.find?_map, htok]
  exact (congrArg (Option.map _) h).trans (congrArg some (if_pos rfl))

/-- With answers missing, nothing ends. -/
theorem opSettle_waits {tok : Nat} (h : opOf s tok = some o) (hleft : o.left ≠ []) : opSettle s tok = s := by
  simp [opSettle, h, hleft]

/-- With the last one, a kill of this package has its records and its status, and a kill that has waited begins. -/
theorem opSettle_kill {tok : Nat} (h : opOf s tok = some o) (hleft : o.left = []) (hkind : o.kind = 0) (horg : o.org = none) :
    opSettle s tok = nextKill (opDone (killedRecords s o.cid o.sample) o o.arg) o.cid := by
  simp [opSettle, h, hleft, hkind, horg]

/-- With the last one, a reclaim brings the table up to date. -/
theorem opSettle_recl {tok : Nat} (h : opOf s tok = some o) (hleft : o.left = []) (hkind : o.kind = 1) (horg : o.org = none) :
    opSettle s tok = opDone (reclaimed s o.cid o.sample) o 0 := by
  simp [opSettle, h, hleft, hkind, horg]

/-- The status that a core waits for under a token. -/
def giveStatus (tok status : Nat) (k : Core) : Core := if k.wait = .sup tok then { k with wait := .supDone status } else k

/-- The end of an operation of this package: it is gone, and its core has the status. -/
theorem opDone_own (status : Nat) (horg : o.org = none) (hasked : o.asked = none) :
    opDone s o status = updCore { s with ops := s.ops.filter fun x => !decide (x.tok = o.tok) } o.core (giveStatus o.tok status) := by
  rw [opDone, horg, hasked]
  rfl

theorem opDone_ops (status : Nat) (horg : o.org = none) (hasked : o.asked = none) : ∀ x ∈ (opDone s o status).ops, x.tok ≠ o.tok := by
  intro x hx
  rw [opDone_own status horg hasked, updCore_ops, List.mem_filter] at hx
  simpa using hx.2

theorem opDone_status (status : Nat) (horg : o.org = none) (hasked : o.asked = none) (hwait : (coreOf s o.core).wait = .sup o.tok) :
    (coreOf (opDone s o status) o.core).wait = .supDone status := by
  have hcore : coreOf { s with ops := s.ops.filter fun x => !decide (x.tok = o.tok) } o.core = coreOf s o.core := rfl
  rw [opDone_own status horg hasked, coreOf_updCore_same, hcore, giveStatus, if_pos hwait]

theorem opDone_other (status : Nat) (horg : o.org = none) (hasked : o.asked = none) {c : Nat} (hc : c ≠ o.core) :
    coreOf (opDone s o status) c = coreOf s c := by
  rw [opDone_own status horg hasked]
  exact coreOf_updCore_other _ _ _ _ hc

/-! #### The records of a kill -/

/-- The KILLED record of a kernel. -/
def killedRecord (s : State) (cid old : Nat) (kn : Kernel) : FailRec :=
  { cause := 0x47, kind := 2, inc := old, cid := cid, subtag := kn.subtag, detail := wd (ctxInc (ctxOf s cid)) }

theorem foldl_failRec (g : Kernel → FailRec) (ks : List Kernel) : ∀ s, ks.foldl (fun s k => failRec s (g k)) s = { s with frecs := s.frecs ++ ks.map g } := by
  induction ks with
  | nil => intro s; simp
  | cons k ks ih =>
    intro s
    rw [List.foldl_cons, ih, List.map_cons, failRec]
    simp

/-- Each kernel of the old incarnation that was queued or running has its record. -/
theorem killedRecords_eq (s : State) (cid old : Nat) : killedRecords s cid old =
    { s with frecs := s.frecs ++ (s.kernels.filter fun k => decide (k.cid = cid ∧ k.inc = old ∧ k.state = 5)).map (killedRecord s cid old) } :=
  foldl_failRec (killedRecord s cid old) _ s

theorem coreOf_killedRecords (s : State) (cid old c : Nat) : coreOf (killedRecords s cid old) c = coreOf s c := by
  rw [killedRecords_eq]
  rfl

theorem ops_killedRecords (s : State) (cid old : Nat) : (killedRecords s cid old).ops = s.ops := by
  rw [killedRecords_eq]

theorem mem_killedRecords {cid old : Nat} {kn : Kernel} (hkn : kn ∈ s.kernels) (hcid : kn.cid = cid) (hinc : kn.inc = old) (hstate : kn.state = 5) :
    killedRecord s cid old kn ∈ (killedRecords s cid old).frecs := by
  rw [killedRecords_eq]
  exact List.mem_append_right _ (List.mem_map_of_mem (List.mem_filter.mpr ⟨hkn, decide_eq_true ⟨hcid, hinc, hstate⟩⟩))

theorem nextKill_none {cid : Nat} (h : ∀ x ∈ s.ops, ¬ (x.kind = 7 ∧ x.cid = cid)) : nextKill s cid = s := by
  have hnone : s.ops.find? (fun o => decide (o.kind = 7 ∧ o.cid = cid)) = none := by
    rw [List.find?_eq_none]
    simpa using h
  rw [nextKill, hnone]

/-! #### The table after a reclaim -/

/-- A context entry once what was older than an incarnation is reclaimed. -/
def reclaimedEntry (sample : Nat) (x : Ctx) : Ctx :=
  let u := (ctxInc x + 4096 - sample % 4096) % 4096
  let w := setFld x.w0 52 50 u
  { x with w0 := if u = 0 then w else setFld w 35 24 sample }

theorem reclaimedEntry_spec {x : Ctx} {sample : Nat} (hsample : sample < 4096) (hu : (ctxInc x + 4096 - sample) % 4096 < 8) :
    let u := (ctxInc x + 4096 - sample) % 4096
    ctxUnrec (reclaimedEntry sample x) = u ∧ fld (reclaimedEntry sample x).w0 35 24 = (if u = 0 then fld x.w0 35 24 else sample) ∧
    ctxInc (reclaimedEntry sample x) = ctxInc x := by
  intro u
  have hw : (reclaimedEntry sample x).w0 = if u = 0 then setFld x.w0 52 50 u else setFld (setFld x.w0 52 50 u) 35 24 sample := by
    simp only [reclaimedEntry, Nat.mod_eq_of_lt hsample, u]
  have hunrec : fld (setFld x.w0 52 50 u) 52 50 = u := by
    rw [fld_setFld_same _ _ _ _ (by decide) (by decide)]
    exact Nat.mod_eq_of_lt hu
  have hbelow : ∀ hi lo, hi < 50 → fld (setFld x.w0 52 50 u) hi lo = fld x.w0 hi lo :=
    fun hi lo h => fld_setFld_below _ _ _ _ _ _ (by decide) h (by decide)
  rw [ctxUnrec, ctxInc, ctxInc, hw]
  split
  next hzero => exact ⟨hunrec, hbelow 35 24 (by decide), hbelow 47 36 (by decide)⟩
  next hsome =>
    have habove : ∀ hi lo, 35 < lo → hi < 64 → fld (setFld (setFld x.w0 52 50 u) 35 24 sample) hi lo = fld (setFld x.w0 52 50 u) hi lo :=
      fun hi lo h hhi => fld_setFld_above _ _ _ _ _ _ (by decide) h hhi
    refine ⟨(habove 52 50 (by decide) (by decide)).trans hunrec, ?_, (habove 47 36 (by decide) (by decide)).trans (hbelow 47 36 (by decide))⟩
    rw [fld_setFld_same _ _ _ _ (by decide) (by decide)]
    exact Nat.mod_eq_of_lt hsample

theorem ctxOf_reclaimed (s : State) (cid sample : Nat) : ctxOf (reclaimed s cid sample) cid = reclaimedEntry sample (ctxOf s cid) :=
  mgetD_mupd_same (g := reclaimedEntry sample) s.ctxs cid {}

end

end Sys2Proof.Machine
end

section
/-! ### The statement about kills and reclaims -/

namespace Sys2Proof.Machine

section
variable {s : State} {agent cid inc : Nat} {o : Op}

/-! #### INCARNATION_BROADCAST -/

theorem incarnationBroadcast_stale (h : ctxInc (ctxOf s cid) ≠ inc) : exec (.incarnationBroadcast agent cid inc) s = .next s := by
  have hnone : s.ops.find? (fun o => decide (o.kind = 0 ∧ o.cid = cid ∧ agent ∈ o.todo) && decide (ctxInc (ctxOf s cid) = inc)) = none := by
    simp [List.find?_eq_none, h]
  change execIncarnationBroadcast agent cid inc s = _
  rw [execIncarnationBroadcast, hnone]

/-- An agent that knows the new incarnation. -/
def learned (s : State) (agent cid : Nat) : State := { s with incLag := mdel s.incLag (agent % 65536 * 4096 + cid) }

/-- What the broadcast has changed at an agent. -/
def killedAt (s : State) (agent cid inc : Nat) (o : Op) : State := applyKill (learned s agent cid) agent cid o.sample inc (decide (o.arg2 = 1))

theorem incarnationBroadcast_reaches (h : s.ops.find? (fun o => decide (o.kind = 0 ∧ o.cid = cid ∧ agent ∈ o.todo)) = some o)
    (hinc : ctxInc (ctxOf s cid) = inc) : exec (.incarnationBroadcast agent cid inc) s =
      .next (updOp (killedAt s agent cid inc o) o.tok fun x => { x with todo := x.todo.erase agent, back := x.back ++ [agent] }) := by
  have hfound : s.ops.find? (fun o => decide (o.kind = 0 ∧ o.cid = cid ∧ agent ∈ o.todo) && decide (ctxInc (ctxOf s cid) = inc)) = some o := by
    simp only [hinc, decide_true, Bool.and_true]
    exact h
  change execIncarnationBroadcast agent cid inc s = _
  rw [execIncarnationBroadcast, hfound]
  rfl

theorem keepsOps_killedAt : KeepsOps (learned s agent cid) (killedAt s agent cid inc o) := keepsOps_applyKill ..

theorem killedAt_act {a : Act} (hkind : agKind agent = 0) (hact : (coreOf s (agCore agent)).act = some a) (hcid : a.cid = cid) (hinc : a.inc = o.sample)
    (htwin : (coreOf s (agCore agent)).twin = none) (hsucc : (coreOf s (agCore agent)).succ = none) :
    let k := coreOf (killedAt s agent cid inc o) (agCore agent)
    k.act = none ∧ k.sb = [] ∧ k.fifo = [] := by
  rw [killedAt, applyKill_core hkind]
  exact killCore_act (s := learned s agent cid) hact hcid hinc htwin hsucc

theorem killedAt_mailboxes {slot : Nat} {r : Resident} (hkind : agKind agent = 0) (hslot : slot < 4)
    (hres : (slotOf (coreOf s (agCore agent)) slot).resident = some r) (hcid : r.cid = cid) (hinc : r.inc = o.sample) (n : Nat) :
    mbOf (slotOf (coreOf (killedAt s agent cid inc o) (agCore agent)) slot) n = 0 := by
  rw [killedAt, applyKill_core hkind]
  exact killCore_mailboxes (s := learned s agent cid) hslot hres hcid hinc n

/-! #### Acknowledgements and answers that come back -/

/-- An operation that has one answer more. -/
def answered (agent : Nat) (o : Op) : Op := { o with back := o.back.erase agent, left := o.left.erase agent }

theorem opOf_answered (h : opOf s o.tok = some o) : opOf (updOp s o.tok (answered agent)) o.tok = some (answered agent o) :=
  opOf_updOp h fun _ => rfl

theorem killAckReceive_eq (h : s.ops.find? (fun o => decide (o.kind = 0 ∧ o.cid = cid ∧ agent ∈ o.back)) = some o) :
    exec (.killAckReceive agent cid) s = .next (opSettle (updOp s o.tok (answered agent)) o.tok) := by
  change execKillAckReceive agent cid s = _
  rw [execKillAckReceive, h]
  rfl

theorem reclQuery_eq (h : s.ops.find? (fun o => decide (o.kind = 1 ∧ o.cid = cid ∧ agent ∈ o.todo)) = some o) :
    exec (.reclQuery agent cid) s = .next (updOp s o.tok fun x => { x with todo := x.todo.erase agent }) := by
  change execReclQuery agent cid s = _
  rw [execReclQuery, h]

theorem reclAnswer_eq (h : s.ops.find? (fun o => decide (o.kind = 1 ∧ o.cid = cid ∧ agent ∈ o.left ∧ agent ∉ o.todo ∧ agent ∉ o.back ∧ agent < 2 ^ 30)) = some o) :
    exec (.reclAnswer agent cid) s =
      if agentHolds s o (s.chip * 65536 + agent % 65536) then .next s else .next (updOp s o.tok fun x => { x with back := x.back ++ [agent] }) := by
  change execReclAnswer agent cid s = _
  rw [execReclAnswer, h]

theorem reclAnswerReceive_eq (h : s.ops.find? (fun o => decide (o.kind = 1 ∧ o.cid = cid ∧ agent ∈ o.back)) = some o) :
    exec (.reclAnswerReceive agent cid) s = .next (opSettle (updOp s o.tok (answered agent)) o.tok) := by
  change execReclAnswerReceive agent cid s = _
  rw [execReclAnswerReceive, h]
  rfl

/-- While others are to answer, the operation only notes the answer. -/
theorem settle_answered_waits (h : opOf s o.tok = some o) (hleft : o.left.erase agent ≠ []) :
    opSettle (updOp s o.tok (answered agent)) o.tok = updOp s o.tok (answered agent) :=
  opSettle_waits (opOf_answered h) hleft

/-- The last acknowledgement of a kill. -/
theorem killAckReceive_last (h : s.ops.find? (fun o => decide (o.kind = 0 ∧ o.cid = cid ∧ agent ∈ o.back)) = some o) (hop : opOf s o.tok = some o)
    (hleft : o.left = [agent]) (horg : o.org = none) (hasked : o.asked = none) (hnext : ∀ x ∈ s.ops, ¬ (x.kind = 7 ∧ x.cid = cid)) :
    let u := killedRecords (updOp s o.tok (answered agent)) cid o.sample
    exec (.killAckReceive agent cid) s = .next (opDone u (answered agent o) o.arg) := by
  intro u
  have hfound := List.find?_some h
  simp only [decide_eq_true_eq] at hfound
  obtain ⟨hkind, hcid, -⟩ := hfound
  have hempty : (answered agent o).left = [] := by simp [answered, hleft]
  have hsettle := opSettle_kill (opOf_answered hop) hempty hkind horg
  have hstays : ∀ x ∈ (opDone u (answered agent o) o.arg).ops, ¬ (x.kind = 7 ∧ x.cid = cid) := by
    intro x hx
    rw [opDone_own (o := answered agent o) o.arg horg hasked, updCore_ops, List.mem_filter] at hx
    have hx' : x ∈ (updOp s o.tok (answered agent)).ops := ops_killedRecords (updOp s o.tok (answered agent)) cid o.sample ▸ hx.1
    obtain ⟨y, hy, rfl⟩ := List.mem_map.mp hx'
    split <;> exact hnext y hy
  have hcid' : (answered agent o).cid = cid := hcid
  rw [hcid'] at hsettle
  rw [killAckReceive_eq h]
  exact congrArg _ (hsettle.trans (nextKill_none hstays))

/-- The last answer to a reclaim. -/
theorem reclAnswerReceive_last (h : s.ops.find? (fun o => decide (o.kind = 1 ∧ o.cid = cid ∧ agent ∈ o.back)) = some o) (hop : opOf s o.tok = some o)
    (hleft : o.left = [agent]) (horg : o.org = none) :
    exec (.reclAnswerReceive agent cid) s = .next (opDone (reclaimed (updOp s o.tok (answered agent)) cid o.sample) (answered agent o) 0) := by
  have hfound := List.find?_some h
  simp only [decide_eq_true_eq] at hfound
  obtain ⟨hkind, hcid, -⟩ := hfound
  have hempty : (answered agent o).left = [] := by simp [answered, hleft]
  have hsettle := opSettle_recl (opOf_answered hop) hempty hkind horg
  have hcid' : (answered agent o).cid = cid := hcid
  rw [hcid'] at hsettle
  rw [reclAnswerReceive_eq h]
  exact congrArg _ hsettle

end

/-- Settles O20: what each agent drops, and how kills and reclaims go on and end. -/
theorem killAndReclaim : Obligations.KillAndReclaim := by
  unfold Obligations.KillAndReclaim
  intro s agent cid inc
  refine ⟨?broadcast, ?acknowledged, ?query, ?answer, ?answered⟩
  case broadcast =>
    intro o hfind
    refine ⟨incarnationBroadcast_stale, fun hinc => ⟨_, incarnationBroadcast_reaches hfind hinc, ?_⟩⟩
    have hmem : o ∈ s.ops := List.mem_of_find?_eq_some hfind
    obtain ⟨hbytes, hops, hlag⟩ := keepsOps_killedAt (s := s) (agent := agent) (cid := cid) (inc := inc) (o := o)
    have hmem' : o ∈ (killedAt s agent cid inc o).ops := hops.symm ▸ hmem
    refine ⟨mem_updOp hmem' _, ?_, hbytes, fun hkind => ⟨?_, ?_⟩, ?_, ?_, ?_⟩
    · exact (congrArg (mget · _) hlag).trans (mget_mdel_same ..)
    · intro a hact hcid ha htwin hsucc _
      rw [coreOf_updOp]
      exact killedAt_act hkind hact hcid ha htwin hsucc
    · intro slot n r hslot hres hcid hr
      rw [coreOf_updOp]
      exact killedAt_mailboxes hkind hslot hres hcid hr n
    · rw [nicAt_updOp]
      exact applyKill_nic
    · rw [dieAt_updOp]
      exact applyKill_dispatcher
    · rw [rtuAt_updOp]
      exact applyKill_rtu
  case acknowledged =>
    intro o hfind hop
    have hmem : o ∈ s.ops := List.mem_of_find?_eq_some hfind
    refine ⟨fun hleft => ⟨_, (killAckReceive_eq hfind).trans (congrArg _ (settle_answered_waits hop hleft)), mem_updOp hmem _, rfl, rfl, rfl⟩, ?_⟩
    intro hleft horg hasked hnext hwait
    refine ⟨_, killAckReceive_last hfind hop hleft horg hasked hnext, ?_, opDone_ops _ horg hasked, ?_, ?_, ?_⟩
    · exact opDone_status (o := answered agent o) _ horg hasked ((congrArg Core.wait (coreOf_killedRecords ..)).trans hwait)
    · intro kn hkn hcid hinc hstate
      refine ⟨killedRecord s cid o.sample kn, ?_, rfl, rfl, rfl, rfl, rfl, rfl⟩
      rw [opDone_own (o := answered agent o) _ horg hasked, updCore_frecs]
      exact mem_killedRecords (s := updOp s o.tok (answered agent)) hkn hcid hinc hstate
    · intro c hc
      exact (opDone_other (o := answered agent o) _ horg hasked hc).trans (coreOf_killedRecords ..)
    · rw [opDone_own (o := answered agent o) _ horg hasked, updCore_mem, killedRecords_eq]
      rfl
  case query =>
    intro o hfind
    exact ⟨_, reclQuery_eq hfind, mem_updOp (List.mem_of_find?_eq_some hfind) _, rfl⟩
  case answer =>
    intro o hfind
    rw [reclAnswer_eq hfind]
    exact ⟨fun hholds => if_pos hholds, fun hfree => ⟨_, if_neg (by simp [hfree]), mem_updOp (List.mem_of_find?_eq_some hfind) _, rfl⟩⟩
  case answered =>
    intro o hfind hop
    have hmem : o ∈ s.ops := List.mem_of_find?_eq_some hfind
    refine ⟨fun hleft => ⟨_, (reclAnswerReceive_eq hfind).trans (congrArg _ (settle_answered_waits hop hleft)), mem_updOp hmem _, rfl⟩, ?_⟩
    intro hleft horg hasked hwait hsample u hu
    have hctx : ctxOf (opDone (reclaimed (updOp s o.tok (answered agent)) cid o.sample) (answered agent o) 0) cid = reclaimedEntry o.sample (ctxOf s cid) := by
      rw [opDone_own (o := answered agent o) _ horg hasked]
      exact ctxOf_reclaimed (updOp s o.tok (answered agent)) cid o.sample
    obtain ⟨hunrec, holdinc, hinc⟩ := reclaimedEntry_spec hsample hu
    refine ⟨_, reclAnswerReceive_last hfind hop hleft horg, ?_, ?_, ?_, ?_, opDone_ops _ horg hasked, ?_, ?_⟩
    · exact opDone_status (o := answered agent o) _ horg hasked hwait
    · rw [hctx]; exact hunrec
    · rw [hctx]; exact holdinc
    · rw [hctx]; exact hinc
    · intro c hc
      exact opDone_other (o := answered agent o) _ horg hasked hc
    · rw [opDone_own (o := answered agent o) _ horg hasked]
      rfl

end Sys2Proof.Machine
end

section
/-! ### Rows of the package: reading one after another has changed (04 R75, R76) -/

namespace Sys2Proof.Machine

/-- The state with a row changed, on the row's die. -/
def updRow (s : State) (row : Nat) (f : RowSt → RowSt) : State := updDie s (row / 64) fun d => { d with rows := mupd d.rows row {} f }

@[simp] theorem rowState_updRow_same (s : State) (row : Nat) (f : RowSt → RowSt) : rowState (updRow s row f) row = f (rowState s row) := by
  simp [rowState, updRow]

theorem dieAt_of_mod {d e : Nat} (s : State) (h : d % 2 = e % 2) : dieAt s d = dieAt s e := by simp only [dieAt, h]

theorem rowState_updRow_other (s : State) {row other : Nat} (f : RowSt → RowSt) (h : other ≠ row) : rowState (updRow s row f) other = rowState s other := by
  by_cases hdie : other / 64 % 2 = row / 64 % 2
  · rw [rowState, rowState, dieAt_of_mod (updRow s row f) hdie, updRow, dieAt_updDie_same, dieAt_of_mod s hdie, mupd]
    exact mgetD_mput_other _ _ _ _ _ h
  · rw [rowState, rowState, updRow, updDie, dieAt_setDie_other _ _ _ _ hdie]

/-- One change made on both dies. -/
theorem dieAt_updDie_both (s : State) (f : Die → Die) (d : Nat) : dieAt (updDie (updDie s 0 f) 1 f) d = f (dieAt s d) := by
  rcases Nat.mod_two_eq_zero_or_one d with h | h
  · rw [dieAt_of_mod (e := 0) _ h, dieAt_of_mod (e := 0) s h, updDie, dieAt_setDie_other _ _ _ _ (by decide), dieAt_updDie_same]
  · rw [dieAt_of_mod (e := 1) _ h, dieAt_of_mod (e := 1) s h, dieAt_updDie_same, updDie, dieAt_setDie_other _ _ _ _ (by decide)]

/-! #### Power (04 R75) -/

/-- A row without power. -/
def unpowered (r : RowSt) : RowSt := { r with powered := false }

/-- A die whose rows are off. -/
def darkDie (d : Die) : Die := { d with rows := d.rows.map fun r => (r.1, unpowered r.2) }

theorem rowState_dark (s : State) (x : Nat) : rowState (updDie (updDie s 0 darkDie) 1 darkDie) x = unpowered (rowState s x) := by
  rw [rowState, dieAt_updDie_both, rowState, mgetD, mgetD, darkDie, mget_map (fun _ => unpowered)]
  cases mget (dieAt s (x / 64)).rows x <;> rfl

/-- A row of a group as the group is powered: a retired one stays as it is. -/
def powerRow (s : State) (row : Nat) : State := if row ∈ s.retired then s else updRow s row fun r => { r with powered := true }

/-- What powering its group leaves of row x. -/
def poweredRow (s : State) (x : Nat) : RowSt := if x ∈ s.retired then rowState s x else { rowState s x with powered := true }

theorem powerRow_only (s : State) (row : Nat) : powerRow s row = { s with dies := (powerRow s row).dies } := by
  unfold powerRow
  split <;> rfl

theorem foldl_powerRow_only (rows : List Nat) : ∀ s, rows.foldl powerRow s = { s with dies := (rows.foldl powerRow s).dies } := by
  induction rows with
  | nil => exact fun s => rfl
  | cons row rows ih =>
    intro s
    rw [List.foldl_cons, ih, powerRow_only]

theorem rowState_powerRow_same (s : State) (row : Nat) : rowState (powerRow s row) row = poweredRow s row := by
  unfold powerRow poweredRow
  split
  · rfl
  · exact rowState_updRow_same ..

theorem rowState_powerRow_other (s : State) {row x : Nat} (h : x ≠ row) : rowState (powerRow s row) x = rowState s x := by
  unfold powerRow
  split
  · rfl
  · exact rowState_updRow_other _ _ h

/-- Powering a group twice is powering it once. -/
theorem poweredRow_powerRow (s : State) (row x : Nat) : poweredRow (powerRow s row) x = poweredRow s x := by
  have hretired : (powerRow s row).retired = s.retired := by rw [powerRow_only]
  by_cases h : x = row
  · subst h
    rw [poweredRow, rowState_powerRow_same, hretired]
    unfold poweredRow
    split <;> rfl
  · rw [poweredRow, rowState_powerRow_other s h, hretired, poweredRow]

theorem rowState_foldl_powerRow (rows : List Nat) (x : Nat) : ∀ s, rowState (rows.foldl powerRow s) x = if x ∈ rows then poweredRow s x else rowState s x := by
  induction rows with
  | nil => exact fun s => rfl
  | cons row rows ih =>
    intro s
    rw [List.foldl_cons, ih, poweredRow_powerRow]
    by_cases hmem : x ∈ rows
    · rw [if_pos hmem, if_pos (List.mem_cons_of_mem _ hmem)]
    · rw [if_neg hmem]
      by_cases h : x = row
      · rw [if_pos (List.mem_cons.mpr (.inl h)), h, rowState_powerRow_same]
      · rw [if_neg (by simp [h, hmem]), rowState_powerRow_other s h]

/-- The eight rows of a group. -/
def groupRows (g : Nat) : List Nat := (List.range 8).map fun i => 8 * g + i

theorem mem_groupRows (g x : Nat) : x ∈ groupRows g ↔ 8 * g ≤ x ∧ x < 8 * g + 8 := by
  simp only [groupRows, List.mem_map, List.mem_range]
  constructor
  · rintro ⟨i, hi, rfl⟩
    omega
  · exact fun h => ⟨x - 8 * g, by omega, by omega⟩

end Sys2Proof.Machine
end

section
/-! ### Demands on a row's trim step, and grants (04 R76) -/

namespace Sys2Proof.Machine

/-- Bringing a row up to date changes its accounts of causes and what it asks for, and nothing else. -/
theorem settleRow_only (now : Nat) (r : RowSt) : settleRow now r =
    { r with acc3 := heldFor now 3 r, acc4 := heldFor now 4 r, since := now, cause := rowCause r, asked := (settleRow now r).asked } := by
  unfold settleRow
  dsimp only
  split
  · rfl
  · split <;> rfl
  · rfl

@[simp] theorem settleRow_step (now : Nat) (r : RowSt) : (settleRow now r).step = r.step := by rw [settleRow_only]
@[simp] theorem settleRow_idle (now : Nat) (r : RowSt) : (settleRow now r).idle = r.idle := by rw [settleRow_only]
@[simp] theorem settleRow_target (now : Nat) (r : RowSt) : (settleRow now r).target = r.target := by rw [settleRow_only]
@[simp] theorem settleRow_changes (now : Nat) (r : RowSt) : (settleRow now r).changes = r.changes := by rw [settleRow_only]
@[simp] theorem settleRow_demands (now : Nat) (r : RowSt) : (settleRow now r).demands = r.demands := by rw [settleRow_only]

/-- A row that is to change its step asks for that change. -/
theorem settleRow_asks (now : Nat) (r : RowSt) {up : Bool} (h : nextChange r = some up) : ∃ w l, (settleRow now r).asked = (w, up) :: l := by
  have hnext : nextChange { r with acc3 := heldFor now 3 r, acc4 := heldFor now 4 r, since := now, cause := rowCause r } = some up := h
  unfold settleRow
  dsimp only
  rw [hnext]
  cases hasked : r.asked with
  | nil => exact ⟨now, [], rfl⟩
  | cons a l =>
    obtain ⟨w, u⟩ := a
    dsimp only
    split
    next hu => exact ⟨w, l, hu ▸ rfl⟩
    next => exact ⟨now, [], rfl⟩

/-! #### Demands -/

/-- The demands of a row but those of a cause. -/
def demandsBut (c : Nat) (r : RowSt) : List (Nat × Nat) := r.demands.filter fun x => !decide (x.1 = c)

theorem not_mem_demandsBut {c : Nat} {r : RowSt} {x : Nat × Nat} (h : x ∈ demandsBut c r) : x.1 ≠ c := by
  simpa using (List.mem_filter.mp h).2

section
variable {now step : Nat} {r : RowSt}

/-- A kernel's start (04 R76). -/
theorem demandRow_start : demandRow now 1 step r = settleRow now { r with demands := (1, step) :: demandsBut 1 r, target := step } := rfl

/-- A kernel's end. -/
theorem demandRow_end : demandRow now 2 step r = settleRow now { r with demands := demandsBut 1 r, target := 7, kerns := [] } := rfl

/-- A limit's demand, or its lifting. -/
theorem demandRow_limit {cause : Nat} (h : 3 ≤ cause) : demandRow now cause step r =
    settleRow now { r with demands := if step = 0 then demandsBut cause r else (cause, step) :: demandsBut cause r } := by
  unfold demandRow
  split
  · omega
  · omega
  · rfl

/-- An idle array for which a kernel demands a step asks to ramp up. -/
theorem demandRow_start_asks (h : r.idle = true) : ∃ w l, (demandRow now 1 step r).asked = (w, true) :: l := by
  rw [demandRow_start]
  refine settleRow_asks now _ ?_
  simp [nextChange, wanted, h]

/-- A demand leaves the step and the idle state to the grants. -/
theorem demandRow_step_idle {cause : Nat} (hlo : 1 ≤ cause) : (demandRow now cause step r).step = r.step ∧ (demandRow now cause step r).idle = r.idle := by
  obtain rfl | rfl | h : cause = 1 ∨ cause = 2 ∨ 3 ≤ cause := by omega
  · simp [demandRow_start]
  · simp [demandRow_end]
  · simp [demandRow_limit h]

end

/-! #### Grants -/

/-- A row whose change has been granted, before it takes the step. -/
def grantTaken (r : RowSt) : RowSt := { r with asked := [], changes := (r.changes + 1) % 2 ^ 16 }

section
variable {now : Nat} {r : RowSt}

theorem grantRow_wakes (h : nextChange r = some true) (hidle : r.idle = true) :
    grantRow now r = settleRow now { grantTaken r with idle := false, step := 7 } := by
  simp only [grantRow, h, hidle, if_true, grantTaken]

theorem grantRow_up (h : nextChange r = some true) (hidle : r.idle = false) : grantRow now r = settleRow now { grantTaken r with step := r.step - 1 } := by
  simp only [grantRow, h, hidle, Bool.false_eq_true, if_false, grantTaken]

theorem grantRow_sleeps (h : nextChange r = some false) (hstep : r.step = 7) : grantRow now r = settleRow now { grantTaken r with idle := true } := by
  simp only [grantRow, h, hstep, if_true, grantTaken]

theorem grantRow_down (h : nextChange r = some false) (hstep : r.step ≠ 7) : grantRow now r = settleRow now { grantTaken r with step := r.step + 1 } := by
  simp only [grantRow, h, hstep, if_false, grantTaken]

/-- A grant counts one change, and moves the row by one step. -/
theorem grantRow_spec {up : Bool} (h : nextChange r = some up) :
    (grantRow now r).changes = (r.changes + 1) % 2 ^ 16 ∧
    (up = true → r.idle = true → (grantRow now r).idle = false ∧ (grantRow now r).step = 7) ∧
    (up = true → r.idle = false → (grantRow now r).step = r.step - 1) ∧
    (up = false → r.step = 7 → (grantRow now r).idle = true) ∧
    (up = false → r.step ≠ 7 → (grantRow now r).step = r.step + 1) := by
  cases up with
  | true =>
    cases hidle : r.idle with
    | true => simp [grantRow_wakes h hidle, grantTaken]
    | false => simp [grantRow_up h hidle, grantTaken]
  | false =>
    by_cases hstep : r.step = 7
    · simp [grantRow_sleeps h hstep, grantTaken, hstep]
    · simp [grantRow_down h hstep, grantTaken, hstep]

end

end Sys2Proof.Machine
end

section
/-! ### The statement about power, trim steps and energy (04 R75, R76, R78) -/

namespace Sys2Proof.Machine

section
variable {s : State} {g : Nat}

/-! #### POWER_UP -/

theorem powerUp_first (h : s.powerAt = none) : exec .powerUp s = .next { s with powerAt := some s.now } := by
  change execPowerUp s = _
  rw [execPowerUp, h]

theorem any_act_iff (s : State) : (s.cores.any fun kv => kv.2.act.isSome) = true ↔ ∃ kv ∈ s.cores, kv.2.act.isSome = true := List.any_eq_true

theorem powerUp_waits {first : Nat} (h : s.powerAt = some first) (hwaits : s.now < first + 48000 ∨ ∃ kv ∈ s.cores, kv.2.act.isSome = true) :
    exec .powerUp s = .next s := by
  change execPowerUp s = _
  rw [execPowerUp, h]
  exact if_pos (hwaits.imp_right (any_act_iff s).mpr)

theorem powerUp_again {first : Nat} (h : s.powerAt = some first) (htime : first + 48000 ≤ s.now) (hquiet : ∀ kv ∈ s.cores, kv.2.act = none) :
    exec .powerUp s = .next { updDie (updDie s 0 darkDie) 1 darkDie with powerAt := some s.now } := by
  have hgoes : ¬ (s.now < first + 48000 ∨ (s.cores.any fun kv => kv.2.act.isSome) = true) := by
    rintro (hearly | hact)
    · omega
    · obtain ⟨kv, hkv, hact⟩ := (any_act_iff s).mp hact
      simp [hquiet kv hkv] at hact
  change execPowerUp s = _
  rw [execPowerUp, h]
  exact if_neg hgoes

/-! #### ROW_GROUP_POWER_ON -/

theorem rowGroupPowerOn_off (h : s.powerAt = none) : exec (.rowGroupPowerOn g) s = .next s := by
  change execRowGroupPowerOn g s = _
  rw [execRowGroupPowerOn, h]

theorem rowGroupPowerOn_early {first : Nat} (h : s.powerAt = some first) (hearly : s.now < first + 3200 * g) : exec (.rowGroupPowerOn g) s = .next s := by
  change execRowGroupPowerOn g s = _
  rw [execRowGroupPowerOn, h]
  exact if_pos (.inr hearly)

theorem rowGroupPowerOn_due {first : Nat} (h : s.powerAt = some first) (hg : g < 16) (hdue : first + 3200 * g ≤ s.now) :
    exec (.rowGroupPowerOn g) s = .next ((groupRows g).foldl powerRow s) := by
  change execRowGroupPowerOn g s = _
  rw [execRowGroupPowerOn, h]
  exact if_neg (by omega)

/-! #### TRIM_STEP_DEMAND and TRIM_STEP_GRANT -/

theorem trimStepDemand_none {die row cause step : Nat} (h : die ≠ row / 64 ∨ 7 < step ∨ cause = 0 ∨ 6 < cause) :
    exec (.trimStepDemand die row cause step) s = .next s := if_pos h

theorem trimStepDemand_row {row cause step : Nat} (hstep : step ≤ 7) (hlo : 1 ≤ cause) (hhi : cause ≤ 6) :
    exec (.trimStepDemand (row / 64) row cause step) s = .next (updRow s row (demandRow s.now cause step)) := if_neg (by omega)

/-- The grants of the last 10 µs. -/
def recentGrants (s : State) : List Nat := s.grants.filter fun t => decide (s.now < t + 16000)

/-- A die whose row x has taken a grant. -/
def takeGrant (now x : Nat) (d : Die) : Die := { d with rows := mupd d.rows x {} (grantRow now) }

/-- The package after a grant to row x of die d. -/
def granted (s : State) (d x : Nat) : State := { updDie s d (takeGrant s.now x) with grants := recentGrants s ++ [s.now] }

theorem row_granted (s : State) (d x : Nat) : mgetD (dieAt (granted s d x) d).rows x {} = grantRow s.now (mgetD (dieAt s d).rows x {}) := by
  rw [dieAt_of_dies (s := updDie s d (takeGrant s.now x)) (t := granted s d x) rfl d, dieAt_updDie_same, takeGrant, mgetD_mupd_same]

theorem trimStepGrant_full (h : 166 ≤ (recentGrants s).length) : exec .trimStepGrant s = .next s := if_pos h

theorem trimStepGrant_unasked (hdown : bestAsk s false = none) (hup : bestAsk s true = none) : exec .trimStepGrant s = .next s := by
  change execTrimStepGrant s = _
  rw [execTrimStepGrant, hdown, hup]
  exact ite_self _

theorem trimStepGrant_grants {d x w : Nat} (hroom : (recentGrants s).length < 166)
    (hask : ((bestAsk s false).orElse fun _ => bestAsk s true) = some (d, x, w)) :
    exec .trimStepGrant s = .next (granted s d x) := by
  change execTrimStepGrant s = _
  rw [execTrimStepGrant, hask]
  exact if_neg (Nat.not_le.mpr hroom)

/-! #### ENERGY_UPDATE -/

/-- A die on which a kernel has drawn energy. -/
def drawn (now kid uj : Nat) (d : Die) : Die := { d with energy := mput d.energy kid ((mgetD d.energy kid (0, 0)).1 + uj, now) }

theorem energyUpdate_none {die kid uj : Nat} (h : charged s kid = false) : exec (.energyUpdate die kid uj) s = .next s := if_neg (by simp [h])

theorem energyUpdate_charged {die kid uj : Nat} (h : charged s kid = true) :
    exec (.energyUpdate die kid uj) s = .next (updDie s die (drawn s.now kid uj)) := if_pos h

end

/-- Settles O21, step by step of the controllers: each answers the state as it was, or the state with the rows or the energy named changed by one function. -/
theorem powerSteps : Obligations.PowerSteps := by
  unfold Obligations.PowerSteps
  intro s die row g cause step kid uj
  refine ⟨fun h => ⟨powerUp_first h, rowGroupPowerOn_off h⟩, ?power, trimStepDemand_none, ?demand, ⟨trimStepGrant_full, trimStepGrant_unasked, ?grant⟩,
    energyUpdate_none, ?energy⟩
  case power =>
    intro first h
    refine ⟨powerUp_waits h, fun htime hquiet => ⟨_, powerUp_again h htime hquiet, rfl, fun x _ => rowState_dark s x, rfl, rfl⟩, rowGroupPowerOn_early h, ?_⟩
    intro hg hdue
    refine ⟨_, rowGroupPowerOn_due h hg hdue, ?_, ?_, ?_, ?_⟩
    · intro x hlo hhi
      rw [rowState_foldl_powerRow, if_pos ((mem_groupRows g x).mpr ⟨hlo, hhi⟩), poweredRow]
    · intro x _ hout
      rw [rowState_foldl_powerRow, if_neg (fun hx => by have := (mem_groupRows g x).mp hx; omega)]
    · rw [foldl_powerRow_only]
    · rw [foldl_powerRow_only]
  case demand =>
    rintro rfl _ hstep hlo hhi
    obtain ⟨hsame, hidle⟩ := demandRow_step_idle (now := s.now) (step := step) (r := rowState s row) hlo
    refine ⟨_, trimStepDemand_row hstep hlo hhi, rfl, rfl, ?_⟩
    rw [rowState_updRow_same]
    refine ⟨hsame, hidle, ?_, ?_, ?_, ?_, ?_⟩
    · rintro rfl
      simp [demandRow_start]
    · rintro rfl
      rw [demandRow_end, settleRow_target, settleRow_demands]
      exact ⟨rfl, fun x => not_mem_demandsBut⟩
    · intro h3 hpos
      simp [demandRow_limit h3, hpos]
    · intro h3 hzero
      rw [demandRow_limit h3, settleRow_demands, if_pos hzero]
      exact fun x => not_mem_demandsBut
    · rintro rfl hidle
      exact demandRow_start_asks hidle
  case grant =>
    intro d x w up hroom hask r hnext
    refine ⟨_, trimStepGrant_grants hroom hask, rfl, rfl, rfl, ?_⟩
    rw [row_granted]
    exact grantRow_spec hnext
  case energy =>
    intro h
    refine ⟨_, energyUpdate_charged h, ?_, ?_, rfl, rfl⟩
    · rw [dieAt_updDie_same, drawn, mgetD_mput_same]
    · intro k hk
      rw [dieAt_updDie_same, drawn]
      exact mget_mput_other _ _ _ _ hk

end Sys2Proof.Machine
end

section
/-! ### Pages: a translation keeps 64-byte blocks together (08 R151 to R156) -/

namespace Sys2Proof.Machine

/-- A result that is not the first branch's is the second's. -/
theorem ite_else {α : Type} {c : Prop} [Decidable c] {a b r : α} (h : (if c then a else b) = r) (ha : a ≠ r) : b = r := by
  split at h
  · exact absurd h ha
  · exact h

theorem dvd_pageSize {lvl : Nat} (h : lvl ≤ 5) : 64 ∣ 2 ^ lvlShift lvl :=
  Nat.pow_dvd_pow 2 (m := 6) (by rw [lvlShift]; omega)

/-- A leaf of stage 2 is a page of one of the five levels. -/
theorem s2go_size (s : State) (mv : Nat → Nat) (addr : Nat) (g : LeafV) (l : Nat) : ∀ n node lvl, n + lvl ≤ 6 →
    s2go s mv addr n node lvl = .ok g l → 64 ∣ g.size := by
  intro n
  induction n with
  | zero => exact fun node lvl _ h => by simp [s2go] at h
  | succ n ih =>
    intro node lvl hlvl h
    rw [s2go] at h
    dsimp only at h
    iterate 3 replace h := ite_else h nofun
    split at h
    · cases h
      exact dvd_pageSize (by omega)
    · exact ih _ _ (by omega) h

/-- An entry whose page and physical base are whole 64-byte blocks. -/
def Blocked (e : TlbE) : Prop := 64 ∣ e.size ∧ 64 ∣ e.pa

/-- A level of a walk that ends with a translation has passed every check, and its page is the smaller one of the two stages' leaves. -/
theorem walkLevel_blocked {s : State} {cid va acc : Nat} {rp : Option Nat} {lvl node : Nat} {e : TlbE} (hlvl : lvl ≤ 5)
    (h : walkLevel s cid va acc rp lvl node = .ok e) : Blocked e := by
  unfold walkLevel walkNode at h
  dsimp only at h
  split at h
  · cases h
  · iterate 9 replace h := ite_else h nofun
    split at h
    · cases h
    next g l hs2 =>
      iterate 3 replace h := ite_else h nofun
      cases h
      have hsize : 64 ∣ min (2 ^ lvlShift lvl) g.size := min_rec' (64 ∣ ·) (dvd_pageSize hlvl) (s2go_size _ _ _ _ _ _ _ _ (by decide) hs2)
      exact ⟨hsize, Dvd.dvd.mul_left hsize _⟩

theorem walkFrom_blocked (s : State) (cid va acc : Nat) (rp : Option Nat) (e : TlbE) : ∀ n lvl node, n + lvl ≤ 6 →
    walkFrom s cid va acc rp n lvl node = .ok e → Blocked e := by
  intro n
  induction n with
  | zero => exact fun lvl node _ h => by simp [walkFrom] at h
  | succ n ih =>
    intro lvl node hlvl h
    rw [walkFrom] at h
    split at h
    · exact ih _ _ (by omega) h
    · exact walkLevel_blocked (by omega) h

/-- A 64-byte block of a context lies in one 64-byte block of memory. -/
theorem dvd_of_xlate? {s : State} {cid va acc p : Nat} {rp : Option Nat} (hva : 64 ∣ va) (h : xlate? s cid va acc rp = some p) : 64 ∣ p := by
  unfold xlate? at h
  split at h
  next e he =>
    cases h
    obtain ⟨hsize, hpa⟩ := walkFrom_blocked s cid va acc rp e 5 1 _ (by decide) he
    exact Nat.dvd_add hpa ((Nat.dvd_mod_iff hsize).mpr hva)
  · cases h

/-- A block lies in one chip. -/
theorem paChip_block {p k : Nat} (hp : 64 ∣ p) (hk : k < 64) : paChip (p + k) = paChip p := by
  obtain ⟨q, rfl⟩ := hp
  simp only [paChip, fldN]
  omega

end Sys2Proof.Machine
end

section
/-! ### Writes of memory by an agent, and rings of records (07 R136) -/

namespace Sys2Proof.Machine

/-! #### Wakes -/

/-- What waking sleepers leaves of a package: all but the cores, the monitors and the packets of answers. -/
structure Woken (s t : State) : Prop where
  mem : t.mem = s.mem
  dies : t.dies = s.dies
  frecs : t.frecs = s.frecs
  chip : t.chip = s.chip

theorem Woken.refl (s : State) : Woken s s := ⟨rfl, rfl, rfl, rfl⟩

theorem Woken.trans {s t u : State} (h : Woken s t) (h' : Woken t u) : Woken s u :=
  ⟨h'.mem.trans h.mem, h'.dies.trans h.dies, h'.frecs.trans h.frecs, h'.chip.trans h.chip⟩

theorem woken_foldl {α : Type} {f : State → α → State} (hf : ∀ s a, Woken s (f s a)) (as : List α) : ∀ s, Woken s (as.foldl f s) := by
  induction as with
  | nil => exact .refl
  | cons a as ih => exact fun s => (hf s a).trans (ih _)

theorem woken_farWake (s : State) (p : Packet) (tok reason : Nat) : Woken s (farWake s p tok reason) := by
  rw [farWake, emit_only]
  exact ⟨rfl, rfl, rfl, rfl⟩

theorem woken_wakeCore (s : State) (c reason : Nat) : Woken s (wakeCore s c reason) := by
  unfold wakeCore
  dsimp only
  split
  · refine Woken.trans (t := { s with monitors := s.monitors.filter fun m => !decide (m.core = c) }) ⟨rfl, rfl, rfl, rfl⟩ (woken_foldl (fun t m => ?_) _ _)
    split
    · exact woken_farWake ..
    · exact .refl t
  · split <;> exact ⟨rfl, rfl, rfl, rfl⟩

theorem woken_wakeAll (s : State) (lm : Bool) (home a n reason : Nat) : Woken s (wakeAll s lm home a n reason) :=
  woken_foldl (fun t c => woken_wakeCore t c reason) _ s

/-! #### Words written at a physical address -/

theorem leBytes_mod (n : Nat) : ∀ x, leBytes n (x % 256 ^ n) = leBytes n x := by
  induction n with
  | zero => exact fun x => rfl
  | succ n ih =>
    intro x
    have hlow : BitVec.ofNat 8 (x % 256 ^ (n + 1)) = BitVec.ofNat 8 x := by
      apply BitVec.eq_of_toNat_eq
      simp only [BitVec.toNat_ofNat]
      exact Nat.mod_mod_of_dvd x (Dvd.intro_left (256 ^ n) rfl)
    rw [leBytes, leBytes, hlow, Nat.pow_succ', Nat.mod_mul_right_div_self, ih]

/-- The bytes of the word that a number makes. -/
theorem wordsBytes_wd (n : Nat) : wordsBytes [wd n] = leBytes 8 n := by
  simp only [wordsBytes, List.flatMap_cons, List.flatMap_nil, List.append_nil, wd, BitVec.toNat_ofNat]
  exact leBytes_mod 8 n

theorem rdLE_lt (m : Memory) (a : Nat) : rdLE m a 8 < 2 ^ 64 := by
  have h := leNat_lt (rdBytes m a 8)
  rwa [rdBytes_length] at h

section
variable {s : State} {pa : Nat}

theorem paWord_own (h : paChip pa = s.chip) : paWord s pa = wd (rdLE s.mem pa 8) := if_pos h

theorem paWord_own_toNat (h : paChip pa = s.chip) : (paWord s pa).toNat = rdLE s.mem pa 8 := by
  rw [paWord_own h, wd, BitVec.toNat_ofNat, Nat.mod_eq_of_lt (rdLE_lt _ _)]

/-- Words written by an agent in this chip's memory change it there, and wake who watches them. -/
structure Written (s t : State) (pa : Nat) (bs : List Byte) : Prop where
  mem : t.mem = wrBytes s.mem pa bs
  dies : t.dies = s.dies
  frecs : t.frecs = s.frecs
  chip : t.chip = s.chip

theorem written_paWrite {src cid inc : Nat} {ws : List Word} (h : paChip pa = s.chip) : Written s (paWrite s src cid inc pa ws) pa (wordsBytes ws) := by
  obtain ⟨hmem, hdies, hfrecs, hchip⟩ := woken_wakeAll
    { s with mem := wrBytes s.mem pa (wordsBytes ws), memPoison := s.memPoison.filter fun w => !decide (w ∈ wholeWords pa (wordsBytes ws).length) }
    false 0 pa (wordsBytes ws).length 1
  rw [paWrite, if_pos h]
  exact ⟨hmem, hdies, hfrecs, hchip⟩

end

/-! #### Rings -/

/-- Where a context's block stands: a page of a class that can be written, which may be both read and written. -/
structure RingBlock (s : State) (cid : Nat) (rp : Option Nat) (va p : Nat) : Prop where
  reads : xlate? s cid va 0 rp = some p
  writes : ∃ q, xlate? s cid va 1 rp = some q
  kind : paClass p < 3

section
variable {s : State} {src cid inc : Nat} {base size : Word} {rec : List Word} {rp : Option Nat} {p : Nat}

/-- The first byte of a ring's header, and how many records the ring takes. -/
abbrev ringHead (base : Word) : Nat := fld base 56 6 * 64
abbrev ringCap (size : Word) : Nat := 2 ^ fld size 4 0

/-- How many records a ring whose header stands at p holds. -/
abbrev ringUsed (s : State) (p : Nat) : Nat := ((paWord s p).toNat + 2 ^ 64 - (paWord s (p + 8)).toNat) % 2 ^ 64

/-- Where the next record of a ring goes. -/
abbrev ringSlot (s : State) (base size : Word) (p : Nat) : Nat := ringHead base + 64 + 32 * ((paWord s p).toNat % ringCap size)

theorem ringAdd_unset (h : bit base 63 = false) : (ringAdd s src cid inc base size rec rp).1 = count s (agDie src) 8 := by
  simp [ringAdd, h]

theorem ringAdd_room {at_ : Nat} (hv : bit base 63 = true) (hhead : RingBlock s cid rp (ringHead base) p) (hroom : ringUsed s p < ringCap size)
    (hslot : RingBlock s cid rp (ringSlot s base size p) at_) :
    (ringAdd s src cid inc base size rec rp).1 = paWrite (paWrite s src cid inc at_ rec) src cid inc p [wd ((paWord s p).toNat + 1)] := by
  obtain ⟨hreads, ⟨_, hwrites⟩, hkind⟩ := hhead
  obtain ⟨hreads', ⟨_, hwrites'⟩, hkind'⟩ := hslot
  simp only [ringAdd, hv, Bool.not_true, Bool.false_eq_true, if_false, hreads, hwrites, hkind, if_true, hroom, hreads', hwrites', hkind']

theorem ringAdd_full (hv : bit base 63 = true) (hhead : RingBlock s cid rp (ringHead base) p) (hfull : ringCap size ≤ ringUsed s p) :
    (ringAdd s src cid inc base size rec rp).1 = count (paWrite s src cid inc (p + 16) [paWord s (p + 16) + 1]) (agDie src) 8 := by
  obtain ⟨hreads, ⟨_, hwrites⟩, hkind⟩ := hhead
  simp only [ringAdd, hv, Bool.not_true, Bool.false_eq_true, if_false, hreads, hwrites, hkind, if_true, Nat.not_lt.mpr hfull]

/-! A ring whose header stands in this chip's memory: the header's three words lie in one block. -/

/-- The records that such a ring holds: FTAIL less FHEAD. -/
abbrev ownUsed (s : State) (p : Nat) : Nat := (rdLE s.mem p 8 + 2 ^ 64 - rdLE s.mem (p + 8) 8) % 2 ^ 64

theorem dvd_ringHead (base : Word) : 64 ∣ ringHead base := Dvd.intro_left _ rfl

theorem RingBlock.within {k : Nat} (h : RingBlock s cid rp (ringHead base) p) (hchip : paChip p = s.chip) (hk : k < 64) : paChip (p + k) = s.chip :=
  (paChip_block (dvd_of_xlate? (dvd_ringHead base) h.reads) hk).trans hchip

theorem ringUsed_own (h : RingBlock s cid rp (ringHead base) p) (hchip : paChip p = s.chip) : ringUsed s p = ownUsed s p := by
  rw [ringUsed, paWord_own_toNat hchip, paWord_own_toNat (h.within hchip (by decide))]

/-- With room, the record is written in its slot and FTAIL grows by one. -/
theorem ringAdd_written {at_ : Nat} (hv : bit base 63 = true) (hhead : RingBlock s cid rp (ringHead base) p) (hchip : paChip p = s.chip)
    (hslot : RingBlock s cid rp (ringHead base + 64 + 32 * (rdLE s.mem p 8 % ringCap size)) at_) (hat : paChip at_ = s.chip) (hroom : ownUsed s p < ringCap size) :
    (ringAdd s src cid inc base size rec rp).1.mem = wrBytes (wrBytes s.mem at_ (wordsBytes rec)) p (leBytes 8 (rdLE s.mem p 8 + 1)) ∧
    (ringAdd s src cid inc base size rec rp).1.dies = s.dies ∧ (ringAdd s src cid inc base size rec rp).1.frecs = s.frecs := by
  have htail := paWord_own_toNat hchip
  have hrec := written_paWrite (src := src) (cid := cid) (inc := inc) (ws := rec) hat
  have hcount := written_paWrite (src := src) (cid := cid) (inc := inc) (ws := [wd (rdLE s.mem p 8 + 1)]) (hchip.trans hrec.chip.symm)
  have hslot' : RingBlock s cid rp (ringSlot s base size p) at_ := by rwa [ringSlot, htail]
  rw [ringAdd_room hv hhead (ringUsed_own hhead hchip ▸ hroom) hslot', htail]
  refine ⟨?_, hcount.dies.trans hrec.dies, hcount.frecs.trans hrec.frecs⟩
  rw [hcount.mem, hrec.mem, wordsBytes_wd]

/-- A full ring counts the loss in its header and in QLOST. -/
theorem ringAdd_lost (hv : bit base 63 = true) (hhead : RingBlock s cid rp (ringHead base) p) (hchip : paChip p = s.chip) (hfull : ringCap size ≤ ownUsed s p) :
    ∃ t, Written s t (p + 16) (leBytes 8 (rdLE s.mem (p + 16) 8 + 1)) ∧ (ringAdd s src cid inc base size rec rp).1 = count t (agDie src) 8 := by
  have hchip16 := hhead.within hchip (show 16 < 64 by decide)
  have hword : paWord s (p + 16) + 1 = wd (rdLE s.mem (p + 16) 8 + 1) := by
    rw [paWord_own hchip16, wd, wd, BitVec.ofNat_add]
    rfl
  have hlost := written_paWrite (src := src) (cid := cid) (inc := inc) (ws := [paWord s (p + 16) + 1]) hchip16
  rw [hword, wordsBytes_wd] at hlost
  refine ⟨_, hlost, ?_⟩
  rw [ringAdd_full hv hhead (ringUsed_own hhead hchip ▸ hfull), hword]

end

end Sys2Proof.Machine
end

section
/-! ### Failure records on their way (07 R135, R136) -/

namespace Sys2Proof.Machine

theorem failureRecordWrite_none {s : State} (h : s.frecs = []) : exec .failureRecordWrite s = .next s := by
  change execFailureRecordWrite s = _
  rw [execFailureRecordWrite, h]

section
variable {s : State} {r : FailRec} {rest : List FailRec}

/-- The context whose queue takes a record, and that queue's registers. -/
abbrev recCid (r : FailRec) : Nat := r.dest.getD r.cid
abbrev recQueue (s : State) (r : FailRec) : QRegs := qregsOf s (ctxOf s (recCid r)).home (recCid r)

/-- The die whose register block and counters a record of this chip concerns. -/
theorem agDie_schedOf (s : State) (d : Nat) : agDie (schedOf s d) = d % 2 := by
  simp only [agDie, schedOf, agentId]
  omega

theorem count_mod (s : State) (d n : Nat) : count s (d % 2) n = count s d n := by
  simp only [count, updDie, setDie, dieAt, Nat.mod_mod]

theorem agChip_mgmtPkt (s : State) (chip cid op : Nat) (body : Body) : agChip (mgmtPkt s chip cid op body).dst = chip := by
  change (chip * 65536 + 7 * 4096) / 65536 = chip
  omega

/-- A management packet to another chip is numbered and goes to the ports, where its triple has room. -/
theorem mgmtTo_far {chip cid op : Nat} {body : Body} (hchip : chip ≠ s.chip) (hroom : canSend s (chip * 65536) 7 = true)
    (hbody : ∀ n t, body ≠ .marker n t) :
    mgmtTo s chip cid op body =
      { updE2e s (e2eKey chip 7) (keepSent s.now (numbered s (mgmtPkt s chip cid op body))) with
        egress := s.egress ++ [numbered s (mgmtPkt s chip cid op body)] } := by
  have hdst := agChip_mgmtPkt s chip cid op body
  have hto : agChip (chip * 65536) = chip := Nat.mul_div_cancel _ (by decide)
  have hroom' : canSend s (mgmtPkt s chip cid op body).dst 7 = true := by
    rw [canSend, hdst, ← hto]
    exact hroom
  rw [mgmtTo, emit, hdst, if_neg hchip, e2eSend, show (mgmtPkt s chip cid op body).cls = 7 from rfl, if_pos hroom',
    e2eNumber_uncounted s (mgmtPkt s chip cid op body) hbody (show 7 ≠ 1 by decide), hdst]
  rfl

/-- A record of a context whose home is another chip goes there. -/
theorem failureRecordWrite_far (h : s.frecs = r :: rest) (hhome : homeChip s (recCid r) ≠ s.chip) :
    exec .failureRecordWrite s = .next (mgmtTo { s with frecs := rest } (homeChip s (recCid r)) (recCid r) 0x21 (.mgmt 12 (recNat r))) := by
  change execFailureRecordWrite s = _
  rw [execFailureRecordWrite, h]
  exact if_pos hhome

/-- A record of a context whose home is this chip goes to the context's failure queue. -/
theorem failureRecordWrite_here (h : s.frecs = r :: rest) (hhome : homeChip s (recCid r) = s.chip) :
    exec .failureRecordWrite s = .next (ringAdd { s with frecs := rest } (schedOf s (ctxOf s (recCid r)).home) (recCid r) r.inc
      (recQueue s r).fqbase (recQueue s r).fqsize (recWords r) none).1 := by
  change execFailureRecordWrite s = _
  rw [execFailureRecordWrite, h]
  exact if_neg (not_not_intro hhome)

end

end Sys2Proof.Machine
end

section
/-! ### THRESHOLD_CROSSING (04 R79, R83) -/

namespace Sys2Proof.Machine

section
variable {s : State} {die u : Nat} {v : Word}

/-! #### What a sensor's reading changes -/

/-- A counter of starvation that has been read at n, which never falls. -/
def withStarvation (row n : Nat) (d : Die) : Die := { d with starve := mupd d.starve row 0 fun m => max m n }
def withTemp (n : Nat) (d : Die) : Die := { d with temp := n }
def withPower (n : Nat) (d : Die) : Die := { d with power := n }

theorem senseAt_starvation {ctl : Word} (h : fld ctl 55 48 = 1) :
    senseAt s die ctl v = updDie s (fld ctl 47 41 / 64) (withStarvation (fld ctl 47 41) v.toNat) := by simp only [senseAt, h]; rfl

theorem senseAt_temperature {ctl : Word} (h : fld ctl 55 48 = 2) : senseAt s die ctl v = updDie s die (withTemp v.toNat) := by
  simp only [senseAt, h]; rfl

theorem senseAt_power {ctl : Word} (h : fld ctl 55 48 = 5) :
    senseAt s die ctl v = updDie (updDie s 0 (withPower v.toNat)) 1 (withPower v.toNat) := by simp only [senseAt, h]; rfl

theorem senseAt_unsensed {ctl : Word} (h1 : fld ctl 55 48 ≠ 1) (h2 : fld ctl 55 48 ≠ 2) (h5 : fld ctl 55 48 ≠ 5) : senseAt s die ctl v = s := by
  unfold senseAt
  split
  next h => exact absurd h h1
  next h => exact absurd h h2
  next h => exact absurd h h5
  next => rfl

theorem senseAt_only (s : State) (die : Nat) (ctl v : Word) : senseAt s die ctl v = { s with dies := (senseAt s die ctl v).dies } := by
  unfold senseAt
  split <;> rfl

theorem thrOf_updDie {d : Nat} {g : Die → Die} (hg : ∀ x, (g x).thr = x.thr) : thrOf (updDie s d g) die u = thrOf s die u := by
  by_cases hd : die % 2 = d % 2
  · simp only [thrOf, dieAt_of_mod _ hd, dieAt_updDie_same, hg]
  · simp only [thrOf, updDie, dieAt_setDie_other _ _ _ _ hd]

@[simp] theorem thrOf_senseAt (ctl : Word) : thrOf (senseAt s die ctl v) die u = thrOf s die u := by
  unfold senseAt
  split
  · exact thrOf_updDie fun _ => rfl
  · exact thrOf_updDie fun _ => rfl
  · exact (thrOf_updDie (s := updDie s 0 (withPower v.toNat)) (d := 1) (g := withPower v.toNat) fun _ => rfl).trans
      (thrOf_updDie (d := 0) (g := withPower v.toNat) fun _ => rfl)
  · rfl

/-! #### What the unit then reads -/

/-- The value of a unit's counter after its sensor has read v (04 R83). -/
def thrReads (s : State) (die u : Nat) (v : Word) : Word :=
  let x := thrOf s die u
  let row := fld x.ctl 47 41
  let csel := fld x.ctl 55 48
  if csel = 2 ∨ csel = 5 then v
  else if csel = 1 then wd (max (mgetD (dieAt s (row / 64)).starve row 0) v.toNat - x.base)
  else if csel = 3 then wd (heldFor s.now 4 (rowState s row) - x.base)
  else if csel = 4 then wd (heldFor s.now 3 (rowState s row) - x.base)
  else 0

theorem wd_toNat (w : Word) : wd w.toNat = w := BitVec.ofNat_toNat 64 w |>.trans (BitVec.setWidth_eq w)

theorem thrValue_senseAt (s : State) (die u : Nat) (v : Word) : thrValue (senseAt s die (thrOf s die u).ctl v) die u = thrReads s die u v := by
  rw [thrReads, thrValue, thrOf_senseAt]
  split
  next h0 => simp [h0]
  next h2 => rw [senseAt_temperature h2, if_pos (.inl h2), dieAt_updDie_same, withTemp, wd_toNat]
  next h5 => rw [senseAt_power h5, if_pos (.inr h5), dieAt_updDie_both, withPower, wd_toNat]
  next h0 h2 h5 =>
    rw [if_neg (not_or.mpr ⟨h2, h5⟩), thrCount]
    split
    next h1 => rw [if_pos h1, senseAt_starvation h1, dieAt_updDie_same, withStarvation, mgetD_mupd_same]
    next h3 => rw [if_neg (by omega), if_pos h3, senseAt_unsensed (by omega) h2 h5]
    next h4 => rw [if_neg (by omega), if_neg (by omega), if_pos h4, senseAt_unsensed (by omega) h2 h5]
    next h1 h3 h4 => rw [if_neg h1, if_neg h3, if_neg h4, Nat.zero_sub]; rfl

/-- Whether the reading crosses the threshold, in the direction that CTL gives. -/
def Crosses (s : State) (die u : Nat) (v : Word) : Prop :=
  if bit (thrOf s die u).ctl 62 = true then (thrReads s die u v).toNat < (thrOf s die u).thresh.toNat
  else (thrOf s die u).thresh.toNat ≤ (thrReads s die u v).toNat

/-- The comparison as the step makes it. -/
def crossed (s : State) (die u : Nat) (v : Word) : Bool :=
  if bit (thrOf s die u).ctl 62 then decide ((thrReads s die u v).toNat < (thrOf s die u).thresh.toNat)
  else decide ((thrOf s die u).thresh.toNat ≤ (thrReads s die u v).toNat)

theorem crossed_iff : crossed s die u v = true ↔ Crosses s die u v := by
  unfold crossed Crosses
  split <;> exact decide_eq_true_iff

/-! #### The message and its way -/

/-- The header of a unit's message (04 R83). -/
def thrHdr (x : Thr) (u id : Nat) : MsgHdr :=
  { msgid := id, trank := fld x.target 47 32, srank := 0xFFFF, tag := fld x.target 31 16, handler := fld x.target 15 10, queue := fld x.target 9 8, mkind := 7, prio := 7,
    x6 := u }

/-- A unit that has disarmed. -/
def disarmedThr (x : Thr) : Thr := { x with ctl := setFld x.ctl 63 63 0 }

abbrev thrCid (x : Thr) : Nat := fld x.target 63 52

/-- The state in which a unit that crosses sends: its sensor has been read and a message identifier is drawn. -/
def thrDrawn (s : State) (die u : Nat) (v : Word) : State :=
  (freshMsg (senseAt s die (thrOf s die u).ctl v) (thrCid (thrOf s die u))).2

theorem thrDrawn_only (s : State) (die u : Nat) (v : Word) :
    thrDrawn s die u v = { s with dies := (thrDrawn s die u v).dies, ctxs := (thrDrawn s die u v).ctxs } := by
  rw [thrDrawn, senseAt_only]
  rfl

theorem ctxOf_freshMsg_w0 (s : State) (cid c : Nat) : (ctxOf (freshMsg s cid).2 c).w0 = (ctxOf s c).w0 := by
  by_cases h : c = cid
  · subst h
    simp [ctxOf, freshMsg, updCtx]
  · simp [ctxOf, freshMsg, updCtx, mupd, mgetD_mput_other _ _ _ _ _ h]

theorem ctxOf_thrDrawn_w0 (s : State) (die u : Nat) (v : Word) (c : Nat) : (ctxOf (thrDrawn s die u v) c).w0 = (ctxOf s c).w0 := by
  rw [thrDrawn, ctxOf_freshMsg_w0, senseAt_only]
  rfl

theorem thresholdCrossing_unselected (h : fld (thrOf s die u).ctl 55 48 = 0) : exec (.thresholdCrossing die u v) s = .next s := if_pos h

/-- The step of a unit that has a selection: it stays armed, or it disarms with its message sent or dropped, or it waits for room. -/
theorem thresholdCrossing_eq (h : fld (thrOf s die u).ctl 55 48 ≠ 0) : exec (.thresholdCrossing die u v) s =
    if !(bit (thrOf s die u).ctl 63 && crossed s die u v) then .next (senseAt s die (thrOf s die u).ctl v)
    else if ctxState (ctxOf (thrDrawn s die u v) (thrCid (thrOf s die u))) ≠ 1 then .next (setThr (thrDrawn s die u v) die u (disarmedThr (thrOf s die u)))
    else
      match agentSend (thrDrawn s die u v) (regOf (thrDrawn s die u v) die) (thrCid (thrOf s die u))
        (ctxInc (ctxOf (thrDrawn s die u v) (thrCid (thrOf s die u)))) (fld (thrOf s die u).target 47 32) 24
        (thrHdr (thrOf s die u) u (freshMsg (senseAt s die (thrOf s die u).ctl v) (thrCid (thrOf s die u))).1)
        (wordsBytes [wd u, thrReads s die u v, wd (thrDrawn s die u v).now]) with
      | some t => .next (setThr t die u (disarmedThr (thrOf s die u)))
      | none => .next (thrDrawn s die u v) := by
  change execThresholdCrossing die u v s = _
  rw [execThresholdCrossing, if_neg h, crossed, ← thrValue_senseAt]
  rfl

theorem thresholdCrossing_stays (hsel : fld (thrOf s die u).ctl 55 48 ≠ 0) (hno : bit (thrOf s die u).ctl 63 = false ∨ ¬ Crosses s die u v) :
    exec (.thresholdCrossing die u v) s = .next (senseAt s die (thrOf s die u).ctl v) := by
  rw [thresholdCrossing_eq hsel]
  refine if_pos ?_
  rcases hno with harm | hcross
  · simp [harm]
  · simp [Bool.not_eq_true _ ▸ mt crossed_iff.mp hcross]

theorem armed_and_crossed (harm : bit (thrOf s die u).ctl 63 = true) (hcross : Crosses s die u v) :
    ¬ (!(bit (thrOf s die u).ctl 63 && crossed s die u v)) = true := by simp [harm, crossed_iff.mpr hcross]

theorem ctxState_thrDrawn (s : State) (die u : Nat) (v : Word) (c : Nat) : ctxState (ctxOf (thrDrawn s die u v) c) = ctxState (ctxOf s c) := by
  simp only [ctxState, ctxOf_thrDrawn_w0]

/-- The context of the target is not LIVE: the unit only disarms. -/
theorem thresholdCrossing_dead (hsel : fld (thrOf s die u).ctl 55 48 ≠ 0) (harm : bit (thrOf s die u).ctl 63 = true) (hcross : Crosses s die u v)
    (hdead : ctxState (ctxOf s (thrCid (thrOf s die u))) ≠ 1) :
    exec (.thresholdCrossing die u v) s = .next (setThr (thrDrawn s die u v) die u (disarmedThr (thrOf s die u))) := by
  rw [thresholdCrossing_eq hsel, if_neg (armed_and_crossed harm hcross), ctxState_thrDrawn]
  exact if_pos hdead

/-- Whether a rank's core serves another partition is a matter of the chip, the partitions, the cores and the contexts' tables. -/
theorem foreignCore_congr {s t : State} (hchip : t.chip = s.chip) (hparts : t.parts = s.parts) (hcores : t.cores = s.cores)
    (hctx : ∀ c, (ctxOf t c).w0 = (ctxOf s c).w0) (cid : Nat) (e : Word) : foreignCore t cid e = foreignCore s cid e := by
  simp only [foreignCore, hchip, reAgent, niOf, agentId, ctxPart, hctx, pairPart, hparts, coreOf, hcores]
  rfl

theorem agChip_reAgent (s : State) (e : Word) : agChip (reAgent s e) = reChip e := by
  rw [agChip, reAgent]
  omega

/-- What an agent sends to a rank that is VALID on this chip. -/
def agentPkt (s : State) (src cid inc rank n : Nat) (h : MsgHdr) (pay : List Byte) : Packet :=
  { src := src, dst := reAgent s (rankEntry s cid rank), cls := 2, op := 8, cid := cid, inc := inc, slot := reSlot (rankEntry s cid rank), len := msgLen n,
    body := .msg h pay false }

theorem agentSend_valid {src cid inc rank n : Nat} {h : MsgHdr} {pay : List Byte} (hstate : reState (rankEntry s cid rank) = 1)
    (hchip : reChip (rankEntry s cid rank) = s.chip) (hown : foreignCore s cid (rankEntry s cid rank) = false) :
    agentSend s src cid inc rank n h pay = some (chanPush s (agentPkt s src cid inc rank n h pay)) := by
  have hto : agChip (reAgent s (rankEntry s cid rank)) = s.chip := (agChip_reAgent ..).trans hchip
  have hroom : canSend s (reAgent s (rankEntry s cid rank)) 2 = true := by simp [canSend, hto]
  rw [agentSend]
  dsimp only
  rw [hstate, hown, if_neg (by decide), if_pos hroom, emit, if_pos hto]
  rfl

/-- The packet with which a unit tells its target. -/
def thrPkt (s : State) (die u : Nat) (v : Word) : Packet :=
  agentPkt (thrDrawn s die u v) (regOf s die) (thrCid (thrOf s die u)) (ctxInc (ctxOf (thrDrawn s die u v) (thrCid (thrOf s die u))))
    (fld (thrOf s die u).target 47 32) 24
    (thrHdr (thrOf s die u) u (freshMsg (senseAt s die (thrOf s die u).ctl v) (thrCid (thrOf s die u))).1)
    (wordsBytes [wd u, thrReads s die u v, wd s.now])

/-- The rank entry of a unit's target. -/
abbrev thrTarget (s : State) (die u : Nat) : Word := rankEntry s (thrCid (thrOf s die u)) (fld (thrOf s die u).target 47 32)

theorem thrPkt_dst (s : State) (die u : Nat) (v : Word) : (thrPkt s die u v).dst = reAgent s (thrTarget s die u) := by
  rw [thrPkt, agentPkt, thrDrawn_only]
  rfl

/-- The target is VALID on this chip: the unit disarms and its message goes to the target's NI. -/
theorem thresholdCrossing_sends (hsel : fld (thrOf s die u).ctl 55 48 ≠ 0) (harm : bit (thrOf s die u).ctl 63 = true) (hcross : Crosses s die u v)
    (hlive : ctxState (ctxOf s (thrCid (thrOf s die u))) = 1) (hvalid : reState (thrTarget s die u) = 1) (hchip : reChip (thrTarget s die u) = s.chip)
    (hown : foreignCore s (thrCid (thrOf s die u)) (thrTarget s die u) = false) :
    exec (.thresholdCrossing die u v) s = .next (setThr (chanPush (thrDrawn s die u v) (thrPkt s die u v)) die u (disarmedThr (thrOf s die u))) := by
  have hsame := thrDrawn_only s die u v
  have hrank : ∀ cid rank, rankEntry (thrDrawn s die u v) cid rank = rankEntry s cid rank := fun _ _ => by rw [hsame]; rfl
  have hchip' : (thrDrawn s die u v).chip = s.chip := by rw [hsame]
  have hown' : foreignCore (thrDrawn s die u v) (thrCid (thrOf s die u)) (thrTarget s die u) = false := by
    rw [foreignCore_congr hchip' (by rw [hsame]) (by rw [hsame]) (ctxOf_thrDrawn_w0 s die u v), hown]
  have hreg : regOf (thrDrawn s die u v) die = regOf s die := by rw [hsame]; rfl
  have hnow : (thrDrawn s die u v).now = s.now := by rw [hsame]
  rw [thresholdCrossing_eq hsel, if_neg (armed_and_crossed harm hcross), ctxState_thrDrawn, if_neg (not_not_intro hlive),
    agentSend_valid ((congrArg reState (hrank ..)).trans hvalid) ((congrArg reChip (hrank ..)).trans (hchip.trans hchip'.symm)) (by rw [hrank, hown']), hreg, hnow]
  rfl

end

end Sys2Proof.Machine
end

section
/-! ### The statement about threshold units and failure records -/

namespace Sys2Proof.Machine

/-- Settles O22. A threshold unit reads its sensor, and then stays, disarms, or disarms and sends; the oldest failure record leaves the list, for its ring (whose
header and slot lie each in one block of memory), for QLOST, or for the home chip. -/
theorem thresholdsAndFailureRecords : Obligations.ThresholdsAndFailureRecords := by
  unfold Obligations.ThresholdsAndFailureRecords
  intro s die u v x row csel val cross cid e
  refine ⟨thresholdCrossing_unselected, ?stays, ?dead, ?sends, failureRecordWrite_none, ?record⟩
  case stays =>
    intro hsel hno
    refine ⟨_, thresholdCrossing_stays hsel hno, thrOf_senseAt _, thrValue_senseAt s die u v, ?_, ?_, ?_⟩
    all_goals rw [senseAt_only]
  case dead =>
    intro hsel harm hcross hdead
    refine ⟨_, thresholdCrossing_dead hsel harm hcross hdead, thrOf_setThr_same _, ?_, ?_, ?_⟩
    all_goals
      rw [thrDrawn_only]
      rfl
  case sends =>
    intro hsel harm hcross hlive hvalid hchip hown
    refine ⟨_, thrPkt s die u v, _, thresholdCrossing_sends hsel harm hcross hlive hvalid hchip hown, thrOf_setThr_same _, ?_, rfl, rfl, rfl, rfl, rfl, rfl, rfl, ?_, ?_⟩
    · have hpush := chanQ_chanPush_same (thrDrawn s die u v) (thrPkt s die u v)
      rw [thrPkt_dst] at hpush
      refine hpush.trans ?_
      rw [thrDrawn_only]
      rfl
    all_goals
      rw [thrDrawn_only]
      rfl
  case record =>
    intro r rest hrecs c home d q s' base n
    refine ⟨?far, ?unset, ?ring⟩
    case far =>
      intro hhome hroom
      have hsent := mgmtTo_far (s := s') (cid := c) (op := 0x21) (body := .mgmt 12 (recNat r)) hhome hroom fun _ _ => nofun
      exact ⟨_, _, (failureRecordWrite_far hrecs hhome).trans (congrArg _ hsent), rfl, rfl, agChip_mgmtPkt s' home c 0x21 (.mgmt 12 (recNat r)), rfl, rfl, rfl⟩
    case unset =>
      intro hhome hunset
      rw [failureRecordWrite_here hrecs hhome, ringAdd_unset hunset, agDie_schedOf, count_mod]
    case ring =>
      intro p0 p1 p2 p3 hhome hset hread0 hwrite0 hchip0 hkind0 tail head slot hread2 hwrite2 hchip2 hkind2
      have hheader : RingBlock s' c none (ringHead q.fqbase) p0 := ⟨hread0, ⟨p1, hwrite0⟩, hkind0⟩
      have hslot : RingBlock s' c none (ringHead q.fqbase + 64 + 32 * (rdLE s'.mem p0 8 % ringCap q.fqsize)) p2 := ⟨hread2, ⟨p3, hwrite2⟩, hkind2⟩
      have hstep := failureRecordWrite_here hrecs hhome
      refine ⟨fun hroom => ?_, fun hfull => ?_⟩
      · obtain ⟨hmem, hdies, hfrecs⟩ := ringAdd_written (src := schedOf s d) (inc := r.inc) (rec := recWords r) hset hheader hchip0 hslot hchip2 hroom
        exact ⟨_, hstep, hfrecs, hmem, hdies⟩
      · obtain ⟨t, hlost, heq⟩ := ringAdd_lost (src := schedOf s d) (inc := r.inc) (rec := recWords r) hset hheader hchip0 hfull
        rw [agDie_schedOf, count_mod] at heq
        refine ⟨_, hstep.trans (congrArg _ heq), hlost.frecs, hlost.mem, ?_⟩
        rw [counters_count _ _ _ (by decide), dieAt_of_dies hlost.dies]
        rfl

end Sys2Proof.Machine
end

section
/-! ### The error injector (04 R74) -/

namespace Sys2Proof.Machine

/-! #### Poisoned words -/

theorem mem_addSorted (l : List Nat) (a w : Nat) : w ∈ addSorted l a ↔ w ∈ l ∨ w = a := by
  induction l with
  | nil => simp [addSorted]
  | cons b l ih =>
    simp only [addSorted]
    split
    · simp [or_comm]
    · split
      next h => simp [h, or_comm]
      next => simp [ih, or_assoc]

theorem mem_foldl_addSorted (as : List Nat) (w : Nat) : ∀ l, w ∈ as.foldl addSorted l ↔ w ∈ l ∨ w ∈ as := by
  induction as with
  | nil => simp
  | cons a as ih => exact fun l => by simp [ih, mem_addSorted, or_assoc]

theorem mem_touchWords (a n w : Nat) : w ∈ touchWords a n ↔ n ≠ 0 ∧ a / 8 ≤ w ∧ w ≤ (a + n - 1) / 8 := by
  rw [touchWords]
  split
  next h => simp [h]
  next h =>
    simp only [List.mem_map, List.mem_range]
    constructor
    · rintro ⟨i, hi, rfl⟩
      omega
    · rintro ⟨_, hlo, hhi⟩
      exact ⟨w - a / 8, by omega, by omega⟩

theorem lmBad_lmPoison (s : State) (c a : Nat) {n : Nat} (h : 0 < n) : lmBad (coreOf (lmPoison s c a n) c) a n = true := by
  have hfirst : a / 8 ∈ touchWords a n := (mem_touchWords ..).mpr ⟨by omega, Nat.le_refl _, by omega⟩
  rw [lmBad, List.any_eq_true]
  refine ⟨a / 8, hfirst, decide_eq_true ?_⟩
  rw [lmPoison, coreOf_updCore_same]
  exact (mem_foldl_addSorted ..).mpr (.inr hfirst)

/-! #### The generator -/

section
variable {s : State} {die cid target : Nat}

/-- Whether a die's injector serves the accesses of a context to a target. -/
def Serves (s : State) (die cid target : Nat) : Prop :=
  (dieAt s die).einjseed ≠ 0 ∧ bit (dieAt s die).einjctl target = true ∧ fld (dieAt s die).einjctl 37 32 < 40 ∧
    ctxPart (ctxOf s cid) = fld (dieAt s die).einjctl 37 32 ∧ (mgetD s.parts (fld (dieAt s die).einjctl 37 32) {}).test = true

/-- What the generator of a die gives next, and whether it strikes. -/
def nextSeed (s : State) (die : Nat) : Word := Config.xorshift (dieAt s die).einjseed
abbrev Strikes (s : State) (die : Nat) : Prop := fld (nextSeed s die) 31 0 < fld (dieAt s die).einjctl 31 8 * 256

/-- The package after the generator has moved. -/
def reseeded (s : State) (die : Nat) : State := setDie s die { dieAt s die with einjseed := nextSeed s die }

theorem inject_unserved (h : ¬ Serves s die cid target) : inject s die cid target = (false, s) := if_neg h

theorem inject_served (h : Serves s die cid target) :
    inject s die cid target = (decide (fld (nextSeed s die) 31 0 < fld (dieAt s die).einjctl 31 8 * 256), reseeded s die) := if_pos h

theorem struck_unserved {c : Nat} (a n : Nat) (h : ¬ Serves s (dieOf c) (actOwn (cc s)).1 0) : struck s c a n = s := by
  rw [struck, inject_unserved h]
  rfl

theorem struck_strikes {c : Nat} (a n : Nat) (h : Serves s (dieOf c) (actOwn (cc s)).1 0) (hit : Strikes s (dieOf c)) :
    struck s c a n = lmPoison (reseeded s (dieOf c)) c a n := by
  rw [struck, inject_served h]
  exact if_pos (decide_eq_true hit)

theorem struck_misses {c : Nat} (a n : Nat) (h : Serves s (dieOf c) (actOwn (cc s)).1 0) (miss : ¬ Strikes s (dieOf c)) :
    struck s c a n = reseeded s (dieOf c) := by
  rw [struck, inject_served h]
  exact if_neg (by rw [decide_eq_true_iff]; exact miss)

end

theorem errorInjector : Clauses.ErrorInjector := by
  unfold Clauses.ErrorInjector
  intro s c a n d p on
  refine ⟨struck_unserved a n, fun hon => ?_⟩
  by_cases hit : Strikes s (dieOf c)
  · rw [struck_strikes a n hon hit]
    refine ⟨?_, ?_, rfl, fun _ hpos => lmBad_lmPoison _ c a hpos, fun miss => absurd hit miss⟩
    · exact congrArg Die.einjseed (dieAt_setDie_same ..)
    · rw [lmPoison, coreOf_updCore_same]
      rfl
  · rw [struck_misses a n hon hit]
    exact ⟨congrArg Die.einjseed (dieAt_setDie_same ..), rfl, rfl, fun hit' => absurd hit' hit, fun _ => rfl⟩

end Sys2Proof.Machine
end

section
/-! ### Scrubbing, tests of cores and rows, and pair time-outs (04 R68, R70 to R72) -/

namespace Sys2Proof.Machine

/-! #### PATROL_SCRUB -/

/-- What a scrub of a line leaves: all data, with at most words of the line poisoned. -/
structure Scrubbed (s t : State) (line : Nat) : Prop where
  mem : t.mem = s.mem
  cores : t.cores = s.cores
  keeps : ∀ w ∈ s.memPoison, w ∈ t.memPoison
  adds : ∀ w ∈ t.memPoison, w ∈ s.memPoison ∨ w / 8 = line
  frecs : t.frecs = s.frecs

theorem scrubbed_of_poison {s t : State} {line : Nat} (hmem : t.mem = s.mem) (hcores : t.cores = s.cores) (hpoison : t.memPoison = s.memPoison)
    (hfrecs : t.frecs = s.frecs) : Scrubbed s t line :=
  ⟨hmem, hcores, fun _ h => hpoison ▸ h, fun _ h => .inl (hpoison ▸ h), hfrecs⟩

theorem scrubbed_line (s : State) (line die : Nat) (free : Nat) :
    Scrubbed s (count (memPoisonAdd { s with free := free } (line * 64) 64) die 5) line := by
  refine ⟨rfl, rfl, fun w hw => (mem_foldl_addSorted ..).mpr (.inl hw), fun w hw => ?_, rfl⟩
  refine ((mem_foldl_addSorted ..).mp hw).imp_right fun hword => ?_
  obtain ⟨_, hlo, hhi⟩ := (mem_touchWords ..).mp hword
  omega

theorem patrolScrub_spec (s : State) (addr : Nat) : ∃ t, exec (.patrolScrub addr) s = .next t ∧ Scrubbed s t (addr / 64) := by
  change ∃ t, execPatrolScrub addr s = .next t ∧ _
  unfold execPatrolScrub drawFree
  split
  · exact ⟨_, rfl, scrubbed_of_poison rfl rfl rfl rfl⟩
  · dsimp only
    split
    · exact ⟨_, rfl, scrubbed_of_poison rfl rfl rfl rfl⟩
    · exact ⟨_, rfl, scrubbed_line ..⟩
    · exact ⟨_, rfl, scrubbed_of_poison rfl rfl rfl rfl⟩

/-! #### Fenced rows -/

theorem rowState_fenceRow (s : State) (row : Nat) : rowState (fenceRow s row) row = { rowState s row with fenced := true, testing := false, away := [] } := by
  rw [rowState, fenceRow, dieAt_updDie_same, mgetD_mput_same]

/-- A row that has run nothing since its last test is reported to nobody. -/
theorem fenceRow_unreported {s : State} {row : Nat} (htaint : (rowState s row).taint = []) (hset : (rowState s row).taintSet = []) :
    (dieAt (fenceRow s row) (row / 64)).pmRing = (dieAt s (row / 64)).pmRing := by
  rw [fenceRow, dieAt_updDie_same]
  simp [htaint, hset]

/-! #### CORE_TEST_COMPLETE -/

section
variable {s : State} {core : Nat}

theorem residents_none_iff (k : Core) : (k.slots.toList.any fun t => t.resident.isSome) = true ↔ ¬ ∀ n, (slotOf k n).resident = none := by
  rw [List.any_eq_true]
  constructor
  · rintro ⟨t, ht, hres⟩ hnone
    obtain ⟨n, hn, rfl⟩ := List.mem_iff_getElem.mp ht
    have hslot : (slotOf k n).resident = none := hnone n
    have hn4 : n < 4 := by simpa using hn
    simp only [slotOf, Nat.mod_eq_of_lt hn4] at hslot
    simp [hslot] at hres
  · intro h
    obtain ⟨n, hn⟩ := not_forall.mp h
    exact ⟨slotOf k n, by simp [slotOf], Option.isSome_iff_ne_none.mpr hn⟩

/-- A core as its scrub leaves it, back in service. -/
def scrubbedCore (k : Core) : Core := { k with sealed_ := false, lm := [], fe := [], poison := [], badRegs := [], badQ := [], z := Vector.replicate 8 {} }

theorem coreTestComplete_unsealed (pass : Bool) (h : (coreOf s core).sealed_ = false) : exec (.coreTestComplete core pass) s = .next s := if_pos (.inl h)

theorem coreTest_due (hsealed : (coreOf s core).sealed_ = true) (hempty : ∀ n, (slotOf (coreOf s core) n).resident = none) :
    ¬ ((coreOf s core).sealed_ = false ∨ ((coreOf s core).slots.toList.any fun t => t.resident.isSome) = true) := by
  rw [residents_none_iff, hsealed]
  simpa using hempty

theorem coreTestComplete_pass (hsealed : (coreOf s core).sealed_ = true) (hempty : ∀ n, (slotOf (coreOf s core) n).resident = none) :
    exec (.coreTestComplete core true) s = .next (updCore s core scrubbedCore) := if_neg (coreTest_due hsealed hempty)

theorem coreTestComplete_fail (hsealed : (coreOf s core).sealed_ = true) (hempty : ∀ n, (slotOf (coreOf s core) n).resident = none) :
    exec (.coreTestComplete core false) s = if isCompute core then .next (fenceRow s (rowOf core)) else .next s := if_neg (coreTest_due hsealed hempty)

/-! #### PAIR_TIMEOUT -/

theorem pairTimeout_eq {c a : Nat} (htwin : (coreOf s core).twin = some c) (hcmp : (coreOf s core).cmpAt = some a) (hother : (coreOf s c).cmpAt = none) :
    exec (.pairTimeout core) s =
      if 4096 < s.now - a then .next (abortWith s core 0x40 (coreOf s core).pc (some (rowOf core, rowOf c))) else .next s := by
  change execPairTimeout core s = _
  rw [execPairTimeout, htwin, hcmp]
  simp [hother]

end

/-! #### ROW_TEST_START and ROW_TEST_COMPLETE -/

section
variable {s : State} {row : Nat}

/-- Whether a row's test of this period is still to come (04 R72). -/
def TestDue (s : State) (row : Nat) : Prop :=
  (rowState s row).lastTest = 0 ∨ s.now / (s.testper * second) ≠ (rowState s row).lastTest / (s.testper * second)

/-- Whether a row's cores run nothing and hold no resident. -/
def RowFree (s : State) (row : Nat) : Prop :=
  ∀ c ∈ rowCores row, (coreOf s c).act = none ∧ (coreOf s c).run = [] ∧ (coreOf s c).succ = none ∧ (coreOf s c).gates = [] ∧
    ∀ n, (slotOf (coreOf s c) n).resident = none

/-- Whether a core runs or awaits something. -/
def coreBusy (k : Core) : Bool := k.act.isSome || !k.run.isEmpty || k.succ.isSome || !k.gates.isEmpty

theorem rowFree_idle (h : RowFree s row) : ((rowCores row).any fun c => coreBusy (coreOf s c)) = false := by
  rw [List.any_eq_false]
  intro c hc
  obtain ⟨hact, hrun, hsucc, hgates, _⟩ := h c hc
  simp [coreBusy, hact, hrun, hsucc, hgates]

/-- A slot without a resident is cleared as it stands. (By the definition itself: Lean derives no equation of `clearRow` within its recursion depth.) -/
theorem clearRow_empty {c slot : Nat} (ps : List (Nat × Nat)) (l : List Away) (h : (slotOf (coreOf s c) slot).resident = none) :
    clearRow row ((c, slot) :: ps) (s, l) = clearRow row ps (s, l) := by
  change (match (slotOf (coreOf s c) slot).resident with | none => clearRow row ps (s, l) | some _ => _) = _
  rw [h]

/-- And so is a row without residents. -/
theorem clearRow_free (l : List Away) (ps : List (Nat × Nat)) (h : ∀ p ∈ ps, (slotOf (coreOf s p.1) p.2).resident = none) :
    clearRow row ps (s, l) = some (s, l) := by
  induction ps with
  | nil => rfl
  | cons p ps ih =>
    obtain ⟨hp, hps⟩ := List.forall_mem_cons.mp h
    exact (clearRow_empty ps l hp).trans (ih hps)

/-- The slots of a row's cores. -/
def rowSlots (row : Nat) : List (Nat × Nat) := (rowCores row).flatMap fun c => (List.range 4).map fun i => (c, i)

theorem rowFree_slots (h : RowFree s row) : ∀ p ∈ rowSlots row, (slotOf (coreOf s p.1) p.2).resident = none := by
  intro p hp
  obtain ⟨c, hc, hp⟩ := List.mem_flatMap.mp hp
  obtain ⟨i, _, rfl⟩ := List.mem_map.mp hp
  exact (h c hc).2.2.2.2 i

theorem testDue_iff : (decide ((rowState s row).lastTest = 0) ||
    decide (s.now / (s.testper * second) ≠ (rowState s row).lastTest / (s.testper * second))) = true ↔ TestDue s row := by
  rw [Bool.or_eq_true, decide_eq_true_iff, decide_eq_true_iff, TestDue]

theorem rowTestStart_skips (h : (rowState s row).powered = false ∨ (rowState s row).fenced = true ∨ (rowState s row).testing = true ∨ ¬ TestDue s row) :
    exec (.rowTestStart (row / 64) row) s = .next s := by
  rw [← testDue_iff, Bool.not_eq_true] at h
  exact if_pos (.inr (.inr h))

/-- A row under test since now. -/
def underTest (now : Nat) (r : RowSt) : RowSt := { r with testing := true, lastTest := now, away := [] }

theorem rowTestStart_starts (hpower : (rowState s row).powered = true) (hfence : (rowState s row).fenced = false) (htest : (rowState s row).testing = false)
    (hdue : TestDue s row) (hfree : RowFree s row) : exec (.rowTestStart (row / 64) row) s = .next (updRow s row (underTest s.now)) := by
  have hgo : ¬ (row / 64 ≠ row / 64 ∨ ((rowCores row).any fun c => coreBusy (coreOf s c)) = true ∨ (rowState s row).powered = false ∨
      (rowState s row).fenced = true ∨ (rowState s row).testing = true ∨ (decide ((rowState s row).lastTest = 0) ||
        decide (s.now / (s.testper * second) ≠ (rowState s row).lastTest / (s.testper * second))) = false) := by
    rw [rowFree_idle hfree, testDue_iff.mpr hdue, hpower, hfence, htest]
    simp
  have hclear : clearRow row (rowSlots row) (s, []) = some (s, []) := clearRow_free [] _ (rowFree_slots hfree)
  change execRowTestStart (row / 64) row s = _
  unfold rowSlots at hclear
  rw [execRowTestStart, hclear]
  exact if_neg hgo

/-- A row that has passed its test: its taint log starts again. -/
def passedTest (r : RowSt) : RowSt := { r with testing := false, taint := [], taintOver := false, taintSet := [], away := [] }

theorem passedTest_of_away {r : RowSt} (h : r.away = []) : passedTest r = { r with testing := false, taint := [], taintOver := false, taintSet := [] } := by
  cases r
  cases h
  rfl

theorem rowTestComplete_early (pass : Bool) (h : s.now - (rowState s row).lastTest < 3200000) :
    exec (.rowTestComplete (row / 64) row pass) s = .next s := if_pos (.inr (.inr h))

theorem rowTest_over (htest : (rowState s row).testing = true) (hover : 3200000 ≤ s.now - (rowState s row).lastTest) :
    ¬ (row / 64 ≠ row / 64 ∨ (rowState s row).testing = false ∨ s.now - (rowState s row).lastTest < 3200000) := by
  rw [htest]
  simpa using hover

theorem rowTestComplete_pass (htest : (rowState s row).testing = true) (hover : 3200000 ≤ s.now - (rowState s row).lastTest)
    (haway : (rowState s row).away = []) : exec (.rowTestComplete (row / 64) row true) s = .next (updRow s row passedTest) := by
  change execRowTestComplete (row / 64) row true s = _
  rw [execRowTestComplete, haway]
  exact if_neg (rowTest_over htest hover)

theorem rowTestComplete_fail (htest : (rowState s row).testing = true) (hover : 3200000 ≤ s.now - (rowState s row).lastTest) :
    exec (.rowTestComplete (row / 64) row false) s = .next (fenceRow s row) := if_neg (rowTest_over htest hover)

end

end Sys2Proof.Machine
end

section
/-! ### RESIDENT_REBUILD (04 R70 steps 4 and 5) -/

namespace Sys2Proof.Machine

/-! #### A rank entry written by the device -/

/-- Two packages that differ at most in their dies and in what travels. -/
structure Aside (s t : State) : Prop where
  cores : t.cores = s.cores
  ranks : t.ranks = s.ranks
  mem : t.mem = s.mem
  frecs : t.frecs = s.frecs

theorem Aside.refl (s : State) : Aside s s := ⟨rfl, rfl, rfl, rfl⟩

theorem Aside.trans {s t u : State} (h : Aside s t) (h' : Aside t u) : Aside s u :=
  ⟨h'.cores.trans h.cores, h'.ranks.trans h.ranks, h'.mem.trans h.mem, h'.frecs.trans h.frecs⟩

theorem aside_mgmtTo (s : State) (chip cid op : Nat) (body : Body) : Aside s (mgmtTo s chip cid op body) := by
  rw [mgmtTo, emit_only]
  exact ⟨rfl, rfl, rfl, rfl⟩

theorem aside_foldl {α : Type} {f : State → α → State} (hf : ∀ s a, Aside s (f s a)) (as : List α) : ∀ s, Aside s (as.foldl f s) := by
  induction as with
  | nil => exact .refl
  | cons a as ih => exact fun s => (hf s a).trans (ih _)

/-- A core without the cached entry of a rank. -/
def uncached (cid rank : Nat) (k : Core) : Core := { k with rcache := k.rcache.filter fun x => !decide (x.cid = cid ∧ x.rank = rank) }

/-- A rank's entry in place, its cached copies gone. -/
def rankPlaced (s : State) (cid rank : Nat) (e : Word) : State :=
  { s with ranks := mput s.ranks (cid * 65536 + rank) e, cores := s.cores.map fun kv => (kv.1, uncached cid rank kv.2) }

theorem aside_putRank (s : State) (cid rank : Nat) (e : Word) : Aside (rankPlaced s cid rank e) (putRank s cid rank e) := by
  have hclear : ∀ (t : State) (d : Nat), Aside t (match ovOf t d cid rank with | some o => setOv t d { o with trapped := false } | none => t) := by
    intro t d
    split
    · exact ⟨rfl, rfl, rfl, rfl⟩
    · exact .refl t
  refine Aside.trans ?_ (aside_foldl (fun t c => aside_mgmtTo ..) _ _)
  split
  · exact (hclear _ 0).trans (hclear _ 1)
  · exact .refl _

theorem coreOf_putRank (s : State) (cid rank : Nat) (e : Word) (c : Nat) : coreOf (putRank s cid rank e) c = uncached cid rank (coreOf s c) := by
  rw [coreOf, (aside_putRank s cid rank e).cores, rankPlaced, mgetD, mget_map (fun _ => uncached cid rank), coreOf, mgetD]
  cases mget s.cores c <;> rfl

theorem rankEntry_putRank (s : State) (cid : Nat) {rank : Nat} (e : Word) (h : rank < 65536) : rankEntry (putRank s cid rank e) cid rank = e := by
  rw [rankEntry, (aside_putRank s cid rank e).ranks, rankPlaced, Nat.mod_eq_of_lt h, mgetD_mput_same]

theorem putRank_mem (s : State) (cid rank : Nat) (e : Word) : (putRank s cid rank e).mem = s.mem := (aside_putRank s cid rank e).mem

/-! #### No packet waits at any NI for a rank that moves -/

def NoTransit (s : State) : Prop := ∀ kv ∈ s.cores, kv.2.transit = []

theorem mem_of_mget {α : Type} {m : SMap α} {a : Nat} {v : α} (h : mget m a = some v) : (a, v) ∈ m := by
  induction m with
  | nil => cases h
  | cons p m ih =>
    obtain ⟨k, w⟩ := p
    rw [mget] at h
    split at h
    next hk => cases h; exact hk ▸ List.mem_cons_self
    next => exact List.mem_cons_of_mem _ (ih h)

theorem mem_mput {α : Type} {m : SMap α} {a : Nat} {v : α} {p : Nat × α} (h : p ∈ mput m a v) : p = (a, v) ∨ p ∈ m := by
  induction m with
  | nil => exact .inl (List.mem_singleton.mp h)
  | cons q m ih =>
    rw [mput] at h
    split at h
    · exact List.mem_cons.mp h
    · split at h
      · exact (List.mem_cons.mp h).imp_right (List.mem_cons_of_mem _)
      · rcases List.mem_cons.mp h with h | h
        · exact .inr (h ▸ List.mem_cons_self)
        · exact (ih h).imp_right (List.mem_cons_of_mem _)

theorem NoTransit.coreOf {s : State} (h : NoTransit s) (c : Nat) : (coreOf s c).transit = [] := by
  rw [Machine.coreOf, mgetD]
  cases hc : mget s.cores c with
  | none => rfl
  | some k => exact h _ (mem_of_mget hc)

theorem NoTransit.updCore {s : State} (h : NoTransit s) (c : Nat) {f : Core → Core} (hf : ∀ k, (f k).transit = k.transit) : NoTransit (updCore s c f) := by
  intro kv hkv
  rcases mem_mput hkv with rfl | hkv
  · exact (hf _).trans (h.coreOf c)
  · exact h kv hkv

theorem NoTransit.putRank {s : State} (h : NoTransit s) (cid rank : Nat) (e : Word) : NoTransit (putRank s cid rank e) := by
  intro kv hkv
  rw [(aside_putRank s cid rank e).cores] at hkv
  obtain ⟨kv', hkv', rfl⟩ := List.mem_map.mp hkv
  exact h kv' hkv'

theorem foldl_of_fixed {α β : Type} {f : β → α → β} {b : β} {as : List α} (h : ∀ a ∈ as, f b a = b) : as.foldl f b = b := by
  induction as with
  | nil => rfl
  | cons a as ih =>
    rw [List.foldl_cons, h a List.mem_cons_self]
    exact ih fun x hx => h x (List.mem_cons_of_mem _ hx)

/-! #### The rebuilt resident -/

theorem slotOf_setSlot_same (k : Core) (n : Nat) (t : Slot) : slotOf (setSlot k n t) n = t := by simp [slotOf, setSlot]

theorem slotOf_of_slots {k k' : Core} (h : k'.slots = k.slots) (n : Nat) : slotOf k' n = slotOf k n := by simp only [slotOf, h]

/-- A slot as a rebuild leaves it: the image, with the resident, mailbox counters of 0 and empty queues. -/
def imageSlot (i : Image) (r : Resident) : Slot := { i.slot with resident := some r, mb := Vector.replicate 8 0, queues := Vector.replicate 4 {} }

theorem slotOf_putImage (k : Core) (slot : Nat) (i : Image) (r : Resident) : slotOf (putImage k slot i r) slot = imageSlot i r := slotOf_setSlot_same ..

theorem mbOf_imageSlot (i : Image) (r : Resident) (n : Nat) : mbOf (imageSlot i r) n = 0 := by simp [mbOf, imageSlot]

/-- The resident has moved to its new slot with its ends, and its old slot is free. -/
def residentMoved (s : State) (core slot target tslot : Nat) (i : Image) (r : Resident) : State :=
  updCore (moveEnds (updCore s target fun k => putImage k tslot i r) core r.cid r.rank target tslot) core fun k => setSlot k slot {}

/-- And its rank is VALID there. -/
def residentPlaced (s : State) (core slot target tslot : Nat) (i : Image) (r : Resident) : State :=
  putRank (residentMoved s core slot target tslot i r) r.cid r.rank (placeEntry (residentMoved s core slot target tslot i r) target tslot)

/-- The areas P0 to P3 that a rebuilt resident has, as the bits of its record's DETAIL: what they held is lost. -/
def lostAreas (i : Image) : Nat := ((i.slot.rg.toList.drop 3).zipIdx.map fun x => if rgV x.1 then 2 ^ x.2 else 0).sum

/-- The record of a rebuilt resident (04 R70 step 5). -/
def rebuiltRec (i : Image) (r : Resident) : FailRec := { cause := 0x48, kind := 3, inc := r.inc, cid := r.cid, rank := r.rank, detail := wd (lostAreas i) }

theorem lostAreas_pos {i : Image} (h : ∃ x ∈ i.slot.rg.toList.drop 3, rgV x = true) : lostAreas i ≠ 0 := by
  obtain ⟨x, hx, hv⟩ := h
  obtain ⟨n, hn⟩ : ∃ n, (x, n) ∈ (i.slot.rg.toList.drop 3).zipIdx := by
    obtain ⟨n, hlt, rfl⟩ := List.mem_iff_getElem.mp hx
    exact ⟨n, List.mem_iff_getElem.mpr ⟨n, by simpa using hlt, by simp⟩⟩
  have hterm : 2 ^ n ≤ lostAreas i := List.le_sum_of_mem (List.mem_map.mpr ⟨(x, n), hn, if_pos hv⟩)
  have hpos : 0 < 2 ^ n := Nat.two_pow_pos n
  omega

section
variable {s : State} {core slot target tslot : Nat} {r : Resident} {i : Image}

theorem slots_residentMoved_target (h : target ≠ core) :
    (coreOf (residentMoved s core slot target tslot i r) target).slots = (putImage (coreOf s target) tslot i r).slots := by
  rw [residentMoved, coreOf_updCore_other _ _ _ _ h, moveEnds, coreOf_updCore_same, coreOf_updCore_other _ _ _ _ h, coreOf_updCore_same]

theorem slotOf_residentMoved_core : slotOf (coreOf (residentMoved s core slot target tslot i r) core) slot = {} := by
  rw [residentMoved, coreOf_updCore_same, slotOf_setSlot_same]

theorem NoTransit.moveEnds (h : NoTransit s) (c cid rank d dslot : Nat) : NoTransit (moveEnds s c cid rank d dslot) := by
  unfold Machine.moveEnds
  refine NoTransit.updCore (NoTransit.updCore h c ?_) d ?_
  all_goals exact fun _ => rfl

theorem residentMoved_mem : (residentMoved s core slot target tslot i r).mem = s.mem := by
  simp only [residentMoved, moveEnds, updCore, setCore_mem]

theorem residentMoved_chip : (residentMoved s core slot target tslot i r).chip = s.chip := by
  simp only [residentMoved, moveEnds, updCore, setCore_chip]

/-- The resident stands in its new slot as its image gives it, its old slot is free, and its rank is VALID at the new one. -/
theorem residentPlaced_spec (hother : target ≠ core) (hrank : r.rank < 65536) :
    slotOf (coreOf (residentPlaced s core slot target tslot i r) target) tslot = imageSlot i r ∧
    slotOf (coreOf (residentPlaced s core slot target tslot i r) core) slot = {} ∧
    rankEntry (residentPlaced s core slot target tslot i r) r.cid r.rank = placeEntry s target tslot ∧
    (residentPlaced s core slot target tslot i r).mem = s.mem := by
  refine ⟨?_, ?_, ?_, by rw [residentPlaced, putRank_mem, residentMoved_mem]⟩
  · rw [residentPlaced, coreOf_putRank, slotOf_of_slots (k' := uncached ..) (slots_residentMoved_target hother), slotOf_putImage]
  · rw [residentPlaced, coreOf_putRank]
    exact slotOf_residentMoved_core
  · rw [residentPlaced, rankEntry_putRank _ _ _ hrank, placeEntry, placeEntry, residentMoved_chip]

theorem noTransit_residentMoved (h : NoTransit s) : NoTransit (residentMoved s core slot target tslot i r) := by
  refine NoTransit.updCore (NoTransit.moveEnds (NoTransit.updCore h target ?_) _ _ _ _ _) core ?_
  all_goals exact fun _ => rfl

theorem residentRebuild_unsealed (h : (coreOf s core).sealed_ = false) : exec (.residentRebuild core slot target tslot) s = .next s := by
  change execResidentRebuild core slot target tslot s = _
  rw [execResidentRebuild, h]

/-- What the rebuild of a resident asks of the slot that takes it. -/
structure Takes (s : State) (core slot target tslot : Nat) (r : Resident) (i : Image) : Prop where
  other : target ≠ core
  slots : slot < 4 ∧ tslot < 4
  working : (coreOf s target).sealed_ = false
  free : (slotOf (coreOf s target) tslot).resident = none
  usable : coreUsable s target (ctxPart (ctxOf s r.cid)) = true
  alike : isSup target = isSup core ∧ isMemCore target = isMemCore core
  settled : inboundTo s core = false
  fits : regionsBad (coreOf s target) tslot none i.slot.rg.toList = false

theorem Takes.passes (h : Takes s core slot target tslot r i) :
    ¬ (target = core ∨ 4 ≤ slot ∨ 4 ≤ tslot ∨ (coreOf s target).sealed_ = true ∨ (slotOf (coreOf s target) tslot).resident.isSome = true ∨
      coreUsable s target (ctxPart (ctxOf s r.cid)) = false ∨ isSup target ≠ isSup core ∨ isMemCore target ≠ isMemCore core ∨ inboundTo s core = true ∨
      regionsBad (coreOf s target) tslot none i.slot.rg.toList = true) := by
  obtain ⟨hother, ⟨hslot, htslot⟩, hworking, hfree, husable, ⟨hsup, hmem⟩, hsettled, hfits⟩ := h
  simp [hother, hslot, htslot, hworking, hfree, husable, hsup, hmem, hsettled, hfits]

/-- With no message in its queues and none waiting for its rank, a resident is placed, and reported where it has lost areas. -/
theorem residentRebuild_eq (hsealed : (coreOf s core).sealed_ = true) (hres : (slotOf (coreOf s core) slot).resident = some r)
    (himage : s.images.find? (fun i => decide (i.cid = r.cid ∧ i.inc = r.inc ∧ i.rank = r.rank)) = some i) (htakes : Takes s core slot target tslot r i)
    (hqueues : ∀ q, (queueOf (slotOf (coreOf s core) slot) q).msgs = []) (htransit : NoTransit s) :
    exec (.residentRebuild core slot target tslot) s =
      .next (if lostAreas i = 0 then residentPlaced s core slot target tslot i r
        else failRec (residentPlaced s core slot target tslot i r) (rebuiltRec i r)) := by
  have hplaced : NoTransit (residentPlaced s core slot target tslot i r) := NoTransit.putRank (noTransit_residentMoved htransit) _ _ _
  change execResidentRebuild core slot target tslot s = _
  simp only [execResidentRebuild, hsealed, hres, himage]
  rw [if_neg htakes.passes]
  simp only [hqueues, List.foldl_nil, List.foldl_fixed]
  rw [foldl_of_fixed]
  · rfl
  · intro kv hkv
    have hkv' : kv.2.transit = [] := hplaced kv hkv
    exact if_neg (by simp [hkv'])

end

end Sys2Proof.Machine
end

section
/-! ### The statement about the error injector and the health of cores and rows -/

namespace Sys2Proof.Machine

section
variable {s : State} {core slot target tslot row : Nat} {r : Resident} {i : Image}

theorem coreOf_failRec (s : State) (f : FailRec) (c : Nat) : coreOf (failRec s f) c = coreOf s c := rfl
theorem rankEntry_failRec (s : State) (f : FailRec) (cid rank : Nat) : rankEntry (failRec s f) cid rank = rankEntry s cid rank := rfl
theorem failRec_mem (s : State) (f : FailRec) : (failRec s f).mem = s.mem := rfl
theorem mem_failRec (s : State) (f : FailRec) : f ∈ (failRec s f).frecs := List.mem_append_right _ (List.mem_singleton.mpr rfl)

/-- What a rebuild leaves, with or without a record of lost areas. -/
theorem residentRebuild_spec (hsealed : (coreOf s core).sealed_ = true) (hres : (slotOf (coreOf s core) slot).resident = some r) (hrank : r.rank < 65536)
    (himage : s.images.find? (fun i => decide (i.cid = r.cid ∧ i.inc = r.inc ∧ i.rank = r.rank)) = some i) (htakes : Takes s core slot target tslot r i)
    (hqueues : ∀ q, (queueOf (slotOf (coreOf s core) slot) q).msgs = []) (htransit : NoTransit s) :
    ∃ t : State, exec (.residentRebuild core slot target tslot) s = .next t ∧ slotOf (coreOf t target) tslot = imageSlot i r ∧
      slotOf (coreOf t core) slot = {} ∧ rankEntry t r.cid r.rank = placeEntry s target tslot ∧
      ((∃ x ∈ i.slot.rg.toList.drop 3, rgV x = true) → rebuiltRec i r ∈ t.frecs) ∧ t.mem = s.mem := by
  obtain ⟨hnew, hold, hentry, hmem⟩ := residentPlaced_spec (s := s) (slot := slot) (tslot := tslot) (i := i) htakes.other hrank
  refine ⟨_, residentRebuild_eq hsealed hres himage htakes hqueues htransit, ?_⟩
  split
  next hnone => exact ⟨hnew, hold, hentry, fun hlost => absurd hnone (lostAreas_pos hlost), hmem⟩
  next =>
    rw [coreOf_failRec, coreOf_failRec, rankEntry_failRec, failRec_mem]
    exact ⟨hnew, hold, hentry, fun _ => mem_failRec .., hmem⟩

end

theorem healthSteps : Clauses.HealthSteps := by
  unfold Clauses.HealthSteps
  intro s addr core slot target tslot die row pass
  refine ⟨?scrub, fun h => ⟨residentRebuild_unsealed h, coreTestComplete_unsealed pass h⟩, ?rebuild, ?coreTest, ?pair, ?rowTest⟩
  case scrub =>
    obtain ⟨t, hstep, hscrubbed⟩ := patrolScrub_spec s addr
    exact ⟨t, hstep, hscrubbed.mem, hscrubbed.cores, hscrubbed.keeps, hscrubbed.adds, hscrubbed.frecs⟩
  case rebuild =>
    intro r i hsealed hres hrank himage hother hslot htslot hworking hfree husable hsup hmem hsettled hfits hqueues htransit
    obtain ⟨t, hstep, hnew, hold, hentry, hrec, hmemory⟩ := residentRebuild_spec hsealed hres hrank himage
      ⟨hother, ⟨hslot, htslot⟩, hworking, hfree, husable, ⟨hsup, hmem⟩, hsettled, hfits⟩ hqueues htransit
    exact ⟨t, hstep, hnew ▸ rfl, hnew ▸ rfl, hnew ▸ rfl, fun n => hnew ▸ mbOf_imageSlot i r n, hold, hentry,
      fun hlost => ⟨rebuiltRec i r, hrec hlost, rfl, rfl, rfl, rfl⟩, hmemory⟩
  case coreTest =>
    intro hsealed hempty
    refine ⟨⟨updCore s core scrubbedCore, coreTestComplete_pass hsealed hempty, ?_⟩, ?_, ?_⟩
    · rw [coreOf_updCore_same]
      exact ⟨rfl, rfl, rfl, rfl, rfl, rfl, fun c hc => coreOf_updCore_other _ _ _ _ hc, rfl⟩
    · intro hcompute _
      refine ⟨_, (coreTestComplete_fail hsealed hempty).trans (if_pos hcompute), ?_, rfl, rfl⟩
      rw [rowState_fenceRow]
    · exact fun hother => (coreTestComplete_fail hsealed hempty).trans (if_neg (by simp [hother]))
  case pair =>
    intro c a htwin hcmp hcopy
    rw [pairTimeout_eq htwin hcmp hcopy]
    exact ⟨fun hearly => if_neg (Nat.not_lt.mpr hearly), fun hlate => if_pos hlate⟩
  case rowTest =>
    rintro rfl _ r due
    refine ⟨rowTestStart_skips, ?_, fun _ => rowTestComplete_early pass, ?_⟩
    · intro hpower hfence htest hdue hfree
      exact ⟨_, rowTestStart_starts hpower hfence htest hdue hfree, rowState_updRow_same .., rfl, rfl⟩
    · intro htest hover haway
      refine ⟨⟨_, rowTestComplete_pass htest hover haway, ?_, rfl, rfl⟩, ⟨_, rowTestComplete_fail htest hover, ?_, ?_, fenceRow_unreported, rfl, rfl⟩⟩
      · rw [rowState_updRow_same]
        exact passedTest_of_away haway
      · rw [rowState_fenceRow]
      · rw [rowState_fenceRow]

/-- Settles O60: the injector's two outcomes, and each health step by the equations of its branches. -/
theorem injectorAndHealth : Obligations.InjectorAndHealth := ⟨errorInjector, healthSteps⟩

end Sys2Proof.Machine
end

section
/-! ### Kernels, channels and the NIs' sets: what reading gives after an update -/

namespace Sys2Proof.Machine

/-! #### Kernels -/

theorem kid_of_kernelOf {s : State} {kid : Nat} {k : Kernel} (h : kernelOf s kid = some k) : k.kid = kid := by
  simpa using List.find?_some h

theorem mem_of_kernelOf {s : State} {kid : Nat} {k : Kernel} (h : kernelOf s kid = some k) : k ∈ s.kernels := List.mem_of_find?_eq_some h

/-- An update that keeps every kernel's identifier is found in place of the kernel. -/
theorem kernelOf_map {s t : State} {g : Kernel → Kernel} (ht : t.kernels = s.kernels.map g) (hg : ∀ k, (g k).kid = k.kid) (kid : Nat) :
    kernelOf t kid = (kernelOf s kid).map g := by
  rw [kernelOf, ht, List.find?_map]
  congr 2
  funext k
  simp [hg]

theorem kernelOf_of_kernels {s t : State} (h : t.kernels = s.kernels) (kid : Nat) : kernelOf t kid = kernelOf s kid := by
  rw [kernelOf, kernelOf, h]

theorem kernelOf_updKernel {s : State} {kid : Nat} {k : Kernel} {f : Kernel → Kernel} (h : kernelOf s kid = some k) (hf : ∀ x, (f x).kid = x.kid) :
    kernelOf (updKernel s kid f) kid = some (f k) := by
  rw [kernelOf_map (s := s) rfl, h, Option.map_some, if_pos (kid_of_kernelOf h)]
  intro x
  split
  · exact hf x
  · rfl

/-- The kernel of an identifier that none has borne before, once it is listed. -/
theorem kernelOf_append {s : State} {ks : List Kernel} {k : Kernel} (hs : s.kernels = ks ++ [k]) (hnew : ∀ x ∈ ks, x.kid ≠ k.kid) :
    kernelOf s k.kid = some k := by
  have hnone : ks.find? (fun x => decide (x.kid = k.kid)) = none := by simpa using hnew
  simp [kernelOf, hs, List.find?_append, hnone]

/-- Where a kernel's entry is freed, only the dies and the kernels change (05 R86). -/
theorem freeEntry_only (s : State) (k : Kernel) : freeEntry s k = { s with dies := (freeEntry s k).dies, kernels := (freeEntry s k).kernels } := by
  unfold freeEntry
  split <;> rfl

theorem kernelOf_freeEntry {s : State} {kid : Nat} {k : Kernel} (h : kernelOf s kid = some k) :
    kernelOf (freeEntry s k) kid = some { k with qentry := false } := by
  have hkid := kid_of_kernelOf h
  subst hkid
  unfold freeEntry
  split
  next => exact kernelOf_updKernel (f := fun x => { x with qentry := false }) (s := updDie s k.die _) h fun _ => rfl
  next hq => rw [h]; cases k; simp_all

/-- What an update keeps of every die, reading it after the update shows. -/
theorem dieAt_updDie_keeps {β : Type} (φ : Die → β) {g : Die → Die} (hg : ∀ x, φ (g x) = φ x) (s : State) (d e : Nat) :
    φ (dieAt (updDie s d g) e) = φ (dieAt s e) := by
  by_cases h : e % 2 = d % 2
  · rw [dieAt_of_mod _ h, dieAt_of_mod s h, dieAt_updDie_same, hg]
  · rw [updDie, dieAt_setDie_other _ _ _ _ h]

/-- Nothing of a die but CRED changes where an entry is freed. -/
theorem dieAt_freeEntry {β : Type} (φ : Die → β) (hφ : ∀ x c, φ { x with cred := c } = φ x) (s : State) (k : Kernel) (d : Nat) :
    φ (dieAt (freeEntry s k) d) = φ (dieAt s d) := by
  unfold freeEntry
  split
  · exact dieAt_updDie_keeps φ (fun x => hφ x _) s k.die d
  · rfl

/-! #### Channels -/

theorem chanQ_of_chans {s t : State} (h : t.chans = s.chans) (src dst cls : Nat) : chanQ t src dst cls = chanQ s src dst cls := by
  rw [chanQ, chanQ, h]

theorem chanQ_setChan_other {s : State} {src dst cls src' dst' cls' : Nat} (h : ¬ (src' = src ∧ dst' = dst ∧ cls' = cls)) (q : List Packet) :
    chanQ (setChan s src dst cls q) src' dst' cls' = chanQ s src' dst' cls' := by
  have hrest : (s.chans.filter fun h => !decide (h.src = src ∧ h.dst = dst ∧ h.cls = cls)).find?
      (fun h => decide (h.src = src' ∧ h.dst = dst' ∧ h.cls = cls')) = s.chans.find? (fun h => decide (h.src = src' ∧ h.dst = dst' ∧ h.cls = cls')) := by
    rw [List.find?_filter]
    congr 1
    funext x
    by_cases hx : x.src = src' ∧ x.dst = dst' ∧ x.cls = cls'
    · obtain ⟨rfl, rfl, rfl⟩ := hx
      simp [h]
    · simp [hx]
  by_cases hq : q = []
  · simp only [chanQ, setChan, hq, if_true, hrest]
  · have hnew : ¬ (src = src' ∧ dst = dst' ∧ cls = cls') := fun e => h ⟨e.1.symm, e.2.1.symm, e.2.2.symm⟩
    have hsingle : [(⟨src, dst, cls, q⟩ : Chan)].find? (fun h => decide (h.src = src' ∧ h.dst = dst' ∧ h.cls = cls')) = none := by simp [hnew]
    simp only [chanQ, setChan, if_neg hq, List.find?_append, hrest, hsingle, Option.or_none]

theorem emit_own {s : State} {p : Packet} (h : agChip p.dst = s.chip) : emit s p = chanPush s p := if_pos h

/-- A packet for this chip joins its own channel. -/
theorem chanQ_emit_own {s : State} {p : Packet} (h : agChip p.dst = s.chip) : chanQ (emit s p) p.src p.dst p.cls = chanQ s p.src p.dst p.cls ++ [p] := by
  rw [emit_own h, chanQ_chanPush_same]

/-- One for another chip joins none. -/
theorem chans_emit_far {s : State} {p : Packet} (h : agChip p.dst ≠ s.chip) : (emit s p).chans = s.chans := by
  rw [emit, if_neg h]
  unfold e2eSend e2eNumber
  dsimp only
  split
  · split <;> rfl
  · rfl

theorem chanQ_emit_other {s : State} {p : Packet} {src dst cls : Nat} (h : ¬ (src = p.src ∧ dst = p.dst ∧ cls = p.cls)) :
    chanQ (emit s p) src dst cls = chanQ s src dst cls := by
  by_cases hp : agChip p.dst = s.chip
  · rw [emit_own hp, chanPush, chanQ_setChan_other h]
  · exact chanQ_of_chans (chans_emit_far hp) ..

theorem chanQ_chanPop_other {s : State} {src dst cls src' dst' cls' : Nat} (h : ¬ (src' = src ∧ dst' = dst ∧ cls' = cls)) :
    chanQ (chanPop s src dst cls) src' dst' cls' = chanQ s src' dst' cls' := chanQ_setChan_other h _

theorem schedOf_inj {s : State} {d e : Nat} (h : schedOf s d = schedOf s e) : d = e := by
  simp only [schedOf, agentId] at h
  omega

/-- Two packages that differ at most in what travels. -/
def Mailed (s t : State) : Prop :=
  ∃ (chans : List Chan) (e2e : SMap E2e) (egress : List Packet) (counted : SMap Nat), t = { s with chans := chans, e2e := e2e, egress := egress, counted := counted }

theorem Mailed.refl (s : State) : Mailed s s := ⟨_, _, _, _, rfl⟩

theorem Mailed.trans {s t u : State} (h : Mailed s t) (h' : Mailed t u) : Mailed s u := by
  obtain ⟨_, _, _, _, rfl⟩ := h
  obtain ⟨_, _, _, _, rfl⟩ := h'
  exact ⟨_, _, _, _, rfl⟩

theorem mailed_emit (s : State) (p : Packet) : Mailed s (emit s p) := ⟨_, _, _, _, emit_only s p⟩

theorem mailed_foldl {α : Type} {f : State → α → State} (hf : ∀ s a, Mailed s (f s a)) (as : List α) : ∀ s, Mailed s (as.foldl f s) := by
  induction as with
  | nil => exact .refl
  | cons a as ih => exact fun s => (hf s a).trans (ih _)

/-- What does not read channels or what is on its way reads as before. -/
theorem Mailed.keeps {β : Type} {s t : State} (h : Mailed s t) (φ : State → β)
    (hφ : ∀ s chans e2e egress counted, φ { s with chans := chans, e2e := e2e, egress := egress, counted := counted } = φ s := by intros; rfl) : φ t = φ s := by
  obtain ⟨_, _, _, _, rfl⟩ := h
  exact hφ ..

theorem mailed_mgmtTo (s : State) (chip cid op : Nat) (body : Body) : Mailed s (mgmtTo s chip cid op body) := mailed_emit ..

/-- What goes to the other chips of a span joins no channel of this one. -/
theorem chans_foldl_mgmtTo (cid op : Nat) (body : Body) (cs : List Nat) : ∀ s : State, (∀ c ∈ cs, c ≠ s.chip) →
    (cs.foldl (fun s c => mgmtTo s c cid op body) s).chans = s.chans := by
  induction cs with
  | nil => exact fun s _ => rfl
  | cons c cs ih =>
    intro s hfar
    have hchip : (mgmtTo s c cid op body).chip = s.chip := (mailed_mgmtTo ..).keeps State.chip
    rw [List.foldl_cons, ih _ (by rw [hchip]; exact fun x hx => hfar x (List.mem_cons_of_mem _ hx)), mgmtTo, chans_emit_far]
    rw [agChip_mgmtPkt]
    exact hfar c List.mem_cons_self

theorem ne_chip_of_spanOthers {s : State} {cid c : Nat} (h : c ∈ spanOthers s cid) : c ≠ s.chip := by
  simpa using (List.mem_filter.mp h).2

/-! #### The set of unacknowledged effects (09 R168) -/

/-- An effect that is no engine's has been applied: its NIC's request, or its core's set of unacknowledged effects, takes note; nothing else changes. -/
theorem markApplied_cases {tok : Nat} (heng : isEng tok = false) (hred : isRedTok tok = false) (s : State) (src dst : Nat) :
    (∃ (d : Nat) (f : Nic → Nic), markApplied s src tok dst = updDie s d fun x => { x with nic := f x.nic }) ∨
    (∃ c : Nat, markApplied s src tok dst = updCore s c (effectApplied tok dst)) ∨ markApplied s src tok dst = s := by
  unfold markApplied
  rw [if_neg (by simp [heng]), if_neg (by simp [hred])]
  split
  · exact .inl ⟨_, fun n => { n with placing := n.placing.map fun r => if 2 ^ 59 + r.id = tok then { r with left := r.left - 1 } else r }, rfl⟩
  · split
    · exact .inr (.inl ⟨_, rfl⟩)
    · exact .inr (.inr rfl)

/-- What a package keeps where an effect is noted as applied. -/
structure Noted (s t : State) : Prop where
  only : t = { s with cores := t.cores, dies := t.dies }
  dies : ∀ {β : Type} (φ : Die → β), (∀ x n, φ { x with nic := n } = φ x) → ∀ d, φ (dieAt t d) = φ (dieAt s d)
  cores : ∀ {β : Type} (φ : Core → β), (∀ x u, φ { x with unack := u } = φ x) → ∀ c, φ (coreOf t c) = φ (coreOf s c)

theorem noted_markApplied {tok : Nat} (heng : isEng tok = false) (hred : isRedTok tok = false) (s : State) (src dst : Nat) :
    Noted s (markApplied s src tok dst) := by
  obtain ⟨d, f, h⟩ | ⟨c, h⟩ | h := markApplied_cases heng hred s src dst
  · rw [h]
    exact ⟨rfl, fun φ hφ => dieAt_updDie_keeps φ (fun x => hφ x _) s d, fun _ _ _ => rfl⟩
  · rw [h]
    refine ⟨rfl, fun _ _ _ => rfl, fun φ hφ e => ?_⟩
    rw [coreOf_updCore]
    split
    · exact hφ _ _
    · rfl
  · rw [h]
    exact ⟨rfl, fun _ _ _ => rfl, fun _ _ _ => rfl⟩

end Sys2Proof.Machine
end

section
/-! ### Events: a quarter of the vector changed, and who hears of it (05 R87, R88) -/

namespace Sys2Proof.Machine

/-! #### The tests -/

/-- A kernel that becomes READY now. -/
def readied (now : Nat) (k : Kernel) : Kernel := { k with state := 1, age := now }

/-- What a test of a context's kernels makes of one (05 R87). -/
def tested (s : State) (cid : Nat) (k : Kernel) : Kernel :=
  if k.cid = cid ∧ k.state = 0 ∧ k.wmask &&& eventSeen s k.die cid k.wq = k.wmask then readied s.now k else k

theorem eventTest_eq (s : State) (cid : Nat) : eventTest s cid = { s with kernels := s.kernels.map (tested s cid) } := rfl

/-- What a change of kernels is that makes at most WAITING ones READY. -/
def OnlyReadies (g : Kernel → Kernel) : Prop := ∀ k, g k = k ∨ k.state = 0 ∧ ∃ now, g k = readied now k

theorem onlyReadies_id : OnlyReadies id := fun _ => .inl rfl

theorem onlyReadies_tested (s : State) (cid : Nat) : OnlyReadies (tested s cid) := by
  intro k
  unfold tested
  split
  next h => exact .inr ⟨h.2.1, _, rfl⟩
  next => exact .inl rfl

theorem OnlyReadies.kid {g : Kernel → Kernel} (h : OnlyReadies g) (k : Kernel) : (g k).kid = k.kid := by
  obtain h | ⟨-, now, h⟩ := h k <;> rw [h]; rfl

theorem OnlyReadies.fixes {g : Kernel → Kernel} (h : OnlyReadies g) {k : Kernel} (hk : k.state ≠ 0) : g k = k := (h k).resolve_right fun h => hk h.1

/-! #### The vector -/

theorem ctxOf_updCtx {β : Type} (φ : Ctx → β) {g : Ctx → Ctx} (hg : ∀ x, φ (g x) = φ x) (s : State) (cid c : Nat) :
    φ (ctxOf (updCtx s cid g) c) = φ (ctxOf s c) := by
  by_cases h : c = cid
  · rw [h, ctxOf, updCtx, mgetD_mupd_same, hg, ctxOf]
  · rw [ctxOf, updCtx, mupd, mgetD_mput_other _ _ _ _ _ h, ctxOf]

/-- A context with a quarter of its vector replaced. -/
def withQuarter (q : Nat) (w : Word) (x : Ctx) : Ctx := { x with events := Vector.ofFn fun i => if i.val = q then w else x.events[i.val] }

/-- A package that holds a new quarter. -/
def quarterHeld (s : State) (cid q : Nat) (w : Word) : State := updCtx s cid (withQuarter q w)

theorem eventQ_quarterHeld_same (s : State) (cid : Nat) {q : Nat} (w : Word) (hq : q < 4) : eventQ (quarterHeld s cid q w) cid q = w := by
  rw [eventQ, ctxOf, quarterHeld, updCtx, mgetD_mupd_same]
  simp [withQuarter, hq]

theorem eventQ_quarterHeld_other (s : State) (cid : Nat) {q i : Nat} (w : Word) (h : i ≠ q) : eventQ (quarterHeld s cid q w) cid i = eventQ s cid i := by
  rw [eventQ, ctxOf, quarterHeld, updCtx, mgetD_mupd_same, eventQ, ctxOf]
  by_cases hi : i < 4
  · simp [withQuarter, hi, h]
  · simp [withQuarter, hi]

theorem homeChip_quarterHeld (s : State) (cid q : Nat) (w : Word) (c : Nat) : homeChip (quarterHeld s cid q w) c = homeChip s c := by
  rw [homeChip, spanOf, homeChip, spanOf, quarterHeld, ctxOf_updCtx (g := withQuarter q w) Ctx.w0 fun _ => rfl]
  rfl

theorem holdsEvents_quarterHeld (s : State) (cid q : Nat) (w : Word) (die c : Nat) : holdsEvents (quarterHeld s cid q w) die c = holdsEvents s die c := by
  rw [holdsEvents, homeChip_quarterHeld, quarterHeld, ctxOf_updCtx (g := withQuarter q w) Ctx.home fun _ => rfl]
  rfl

theorem putEvents_changed {s : State} {cid q : Nat} {w : Word} (h : w ≠ eventQ s cid q) : putEvents s cid q w = eventTest (quarterHeld s cid q w) cid := if_neg h

theorem mailed_tellSched (s : State) (a b cid q : Nat) (w : Word) : Mailed s (tellSched s a b cid q w) := mailed_emit ..

/-- A change of a quarter, its tests made and the package's other scheduler told. -/
def schedTold (s : State) (cid q : Nat) (w : Word) : State :=
  tellSched (eventTest (quarterHeld s cid q w) cid) ((ctxOf s cid).home % 2) (1 - (ctxOf s cid).home % 2) cid q w

theorem mailed_schedTold (s : State) (cid q : Nat) (w : Word) : Mailed (eventTest (quarterHeld s cid q w) cid) (schedTold s cid q w) := mailed_tellSched ..

/-- And the span's other chips told. -/
def quarterTold (s : State) (cid q : Nat) (w : Word) : State :=
  (spanOthers s cid).foldl (fun s c => mgmtTo s c cid 0x21 (.mgmt 19 (w.toNat * 4 + q))) (schedTold s cid q w)

theorem setEvents_same {s : State} {cid q : Nat} {f : Word → Word} (h : f (eventQ s cid q) = eventQ s cid q) : setEvents s cid q f = s := if_pos h

theorem setEvents_changed {s : State} {cid q : Nat} {f : Word → Word} (h : f (eventQ s cid q) ≠ eventQ s cid q) :
    setEvents s cid q f = quarterTold s cid q (f (eventQ s cid q)) := by
  rw [setEvents, if_neg h, putEvents_changed h]
  rfl

theorem mailed_quarterTold (s : State) (cid q : Nat) (w : Word) : Mailed (eventTest (quarterHeld s cid q w) cid) (quarterTold s cid q w) :=
  (mailed_schedTold ..).trans (mailed_foldl (fun _ _ => mailed_mgmtTo ..) _ _)

/-- A channel that is not the one to the other scheduler is as it was. -/
theorem chanQ_quarterTold {s : State} {cid dst cls : Nat} (h : dst ≠ schedOf s (1 - (ctxOf s cid).home % 2) ∨ cls ≠ 2) (q : Nat) (w : Word) (src : Nat) :
    chanQ (quarterTold s cid q w) src dst cls = chanQ s src dst cls := by
  have hchip : (schedTold s cid q w).chip = s.chip := (mailed_schedTold s cid q w).keeps State.chip
  have hchans : (quarterTold s cid q w).chans = (schedTold s cid q w).chans := by
    rw [quarterTold]
    exact chans_foldl_mgmtTo _ _ _ _ _ fun c hc => hchip ▸ ne_chip_of_spanOthers hc
  rw [chanQ_of_chans hchans, schedTold, tellSched, chanQ_emit_other]
  · rfl
  · rintro ⟨-, hdst, hcls⟩
    exact h.elim (fun h => h hdst) fun h => h hcls

/-- The quarter holds what it was changed to, and the others what they held. -/
theorem eventQ_setEvents (s : State) (cid : Nat) {q : Nat} (hq : q < 4) (f : Word → Word) :
    eventQ (setEvents s cid q f) cid q = f (eventQ s cid q) ∧ ∀ i, i ≠ q → eventQ (setEvents s cid q f) cid i = eventQ s cid i := by
  by_cases hf : f (eventQ s cid q) = eventQ s cid q
  · rw [setEvents_same hf]
    exact ⟨hf.symm, fun _ _ => rfl⟩
  · have hread : ∀ i, eventQ (setEvents s cid q f) cid i = eventQ (quarterHeld s cid q (f (eventQ s cid q))) cid i := by
      intro i
      rw [setEvents_changed hf]
      exact (mailed_quarterTold s cid q _).keeps fun t => eventQ t cid i
    exact ⟨(hread q).trans (eventQ_quarterHeld_same s cid _ hq), fun i hi => (hread i).trans (eventQ_quarterHeld_other s cid _ hi)⟩

theorem eventSeen_of_holds {s : State} {die cid : Nat} (h : holdsEvents s die cid = true) (q : Nat) : eventSeen s die cid q = eventQ s cid q :=
  if_neg fun hn => absurd hn.2 (by simp [h])

/-- A change makes the kernels READY whose scheduler holds the vector and whose mask it satisfies (05 R87). -/
theorem readied_setEvents {s : State} {cid q : Nat} {f : Word → Word} (hf : f (eventQ s cid q) ≠ eventQ s cid q) {k : Kernel} (hk : k ∈ s.kernels)
    (hcid : k.cid = cid) (hholds : holdsEvents s k.die cid = true) (hstate : k.state = 0)
    (hmask : k.wmask &&& eventQ (setEvents s cid q f) cid k.wq = k.wmask) : readied s.now k ∈ (setEvents s cid q f).kernels := by
  rw [setEvents_changed hf] at hmask ⊢
  rw [(mailed_quarterTold s cid q _).keeps State.kernels]
  refine List.mem_map.mpr ⟨k, hk, if_pos ⟨hcid, hstate, ?_⟩⟩
  rw [eventSeen_of_holds ((holdsEvents_quarterHeld ..).trans hholds)]
  exact (congrArg (k.wmask &&& ·) ((mailed_quarterTold s cid q _).keeps fun t => eventQ t cid k.wq)).symm.trans hmask

/-! #### SMASK (05 R88) -/

/-- What a change of the vector at a die's scheduler does to the package: the vector, WAITING kernels that it makes READY, and what travels, but nothing to the
scheduler itself. -/
structure Signals (s t : State) (die : Nat) : Prop where
  only : ∃ ctxs kernels, Mailed { s with ctxs := ctxs, kernels := kernels } t
  kernels : ∃ g, OnlyReadies g ∧ t.kernels = s.kernels.map g
  inbox : ∀ src cls, chanQ t src (schedOf s die) cls = chanQ s src (schedOf s die) cls
  others : ∀ src dst cls, cls ≠ 2 → chanQ t src dst cls = chanQ s src dst cls

/-- What does not read these reads as before. -/
theorem Signals.keeps {β : Type} {s t : State} {die : Nat} (h : Signals s t die) (φ : State → β)
    (hφ : ∀ s ctxs kernels chans e2e egress counted,
      φ { s with ctxs := ctxs, kernels := kernels, chans := chans, e2e := e2e, egress := egress, counted := counted } = φ s := by intros; rfl) : φ t = φ s := by
  obtain ⟨_, _, _, _, _, _, rfl⟩ := h.only
  exact hφ s _ _ _ _ _ _

theorem Signals.refl (s : State) (die : Nat) : Signals s s die := ⟨⟨_, _, .refl s⟩, ⟨id, onlyReadies_id, (List.map_id _).symm⟩, fun _ _ => rfl, fun _ _ _ _ => rfl⟩

theorem holdsEvents_iff {s : State} {die cid : Nat} : holdsEvents s die cid = true ↔ homeChip s cid = s.chip ∧ (ctxOf s cid).home % 2 = die % 2 := by
  simp [holdsEvents]

theorem signals_setEvents {s : State} {die cid : Nat} (h : holdsEvents s die cid = true) (q : Nat) (f : Word → Word) : Signals s (setEvents s cid q f) die := by
  by_cases hf : f (eventQ s cid q) = eventQ s cid q
  · rw [setEvents_same hf]
    exact .refl s die
  · rw [setEvents_changed hf]
    have hmail := mailed_quarterTold s cid q (f (eventQ s cid q))
    have hhome := (holdsEvents_iff.mp h).2
    refine ⟨⟨_, _, hmail⟩, ⟨_, onlyReadies_tested _ _, hmail.keeps State.kernels⟩, fun src cls => chanQ_quarterTold (.inl fun e => ?_) ..,
      fun src dst cls hcls => chanQ_quarterTold (.inr hcls) ..⟩
    have hdie := schedOf_inj e
    omega

theorem signals_emit {s : State} {p : Packet} {die : Nat} (hdst : agChip p.dst = s.chip → p.dst ≠ schedOf s die ∧ p.cls = 2) : Signals s (emit s p) die := by
  have hmail := mailed_emit s p
  refine ⟨⟨_, _, hmail⟩, ⟨id, onlyReadies_id, (hmail.keeps State.kernels).trans (List.map_id _).symm⟩, fun src cls => ?_, fun src dst cls hcls => ?_⟩
  all_goals by_cases hp : agChip p.dst = s.chip
  · exact chanQ_emit_other fun e => (hdst hp).1 e.2.1.symm
  · exact chanQ_of_chans (chans_emit_far hp) ..
  · exact chanQ_emit_other fun e => hcls (e.2.2.trans (hdst hp).2)
  · exact chanQ_of_chans (chans_emit_far hp) ..

/-- What a kernel's SMASK does, whoever holds the vector. -/
theorem signals_applySmask (s : State) (k : Kernel) : Signals s (applySmask s k) k.die := by
  unfold applySmask
  split
  next hfar =>
    split
    · exact .refl s _
    · refine signals_emit fun hown => absurd hown ?_
      rw [agChip_mgmtPkt]
      exact hfar
  next hnear =>
    split
    next hholds => exact signals_setEvents hholds ..
    next hnot =>
      split
      · exact .refl s _
      · refine signals_emit fun _ => ⟨fun e => hnot (holdsEvents_iff.mpr ⟨not_not.mp hnear, ?_⟩), rfl⟩
        have hdie : (ctxOf s k.cid).home % 2 = k.die := schedOf_inj e
        omega

end Sys2Proof.Machine
end

section
/-! ### Acceptance, and kernels that never run (05 R85 to R88) -/

namespace Sys2Proof.Machine

theorem Signals.kernelOf_of_state {s t : State} {die kid : Nat} {k : Kernel} (h : Signals s t die) (hk : kernelOf s kid = some k) (hstate : k.state ≠ 0) :
    kernelOf t kid = some k := by
  obtain ⟨g, hg, hkernels⟩ := h.kernels
  rw [kernelOf_map hkernels hg.kid, hk, Option.map_some, hg.fixes hstate]

/-! #### A kernel that never runs -/

/-- A kernel that is DONE. -/
def kernelDone (k : Kernel) : Kernel := { k with state := 3 }

/-- The record of a kernel that never runs; its DETAIL is a free value. -/
def badRec (s : State) (k : Kernel) (cause : Nat) : FailRec :=
  { cause := cause, kind := 4, inc := k.inc, cid := k.cid, subtag := k.subtag, detail := Config.freeWord s.free }

/-- A kernel that never runs, DONE and recorded, its SMASK not yet applied. -/
def badEnded (s : State) (k : Kernel) (cause : Nat) : State :=
  updKernel (freeEntry (failRec { s with free := s.free + 1 } (badRec s k cause)) k) k.kid kernelDone

theorem badKernel_eq (s : State) (k : Kernel) (cause : Nat) : badKernel s k cause = applySmask (badEnded s k cause) k := rfl

theorem badEnded_only (s : State) (k : Kernel) (cause : Nat) : ∃ dies kernels, badEnded s k cause =
    { s with free := s.free + 1, frecs := s.frecs ++ [badRec s k cause], dies := dies, kernels := kernels } := by
  rw [badEnded, freeEntry_only]
  exact ⟨_, _, rfl⟩

theorem signals_badKernel (s : State) (k : Kernel) (cause : Nat) : Signals (badEnded s k cause) (badKernel s k cause) k.die := by
  rw [badKernel_eq]
  exact signals_applySmask ..

/-- What does not read the free value, records, dies, kernels, contexts and what travels reads as before. -/
theorem badKernel_keeps {β : Type} (φ : State → β)
    (hφ : ∀ s free frecs dies kernels ctxs chans e2e egress counted,
      φ { s with free := free, frecs := frecs, dies := dies, kernels := kernels, ctxs := ctxs, chans := chans, e2e := e2e, egress := egress, counted := counted } =
        φ s := by intros; rfl) (s : State) (k : Kernel) (cause : Nat) :
    φ (badKernel s k cause) = φ s := by
  obtain ⟨_, _, _, _, _, _, h⟩ := (signals_badKernel s k cause).only
  obtain ⟨_, _, h'⟩ := badEnded_only s k cause
  rw [h, h']
  exact hφ s _ _ _ _ _ _ _ _ _

theorem badRec_mem (s : State) (k : Kernel) (cause : Nat) : badRec s k cause ∈ (badKernel s k cause).frecs := by
  obtain ⟨_, _, h⟩ := badEnded_only s k cause
  rw [(signals_badKernel s k cause).keeps State.frecs, h]
  exact List.mem_append_right _ (List.mem_singleton.mpr rfl)

theorem kernelOf_badKernel {s : State} {k : Kernel} {kid : Nat} (h : kernelOf s kid = some k) (cause : Nat) :
    kernelOf (badKernel s k cause) kid = some (kernelDone { k with qentry := false }) := by
  have hkid := kid_of_kernelOf h
  subst hkid
  refine (signals_badKernel s k cause).kernelOf_of_state ?_ (show (3 : Nat) ≠ 0 by decide)
  exact kernelOf_updKernel (kernelOf_freeEntry (s := failRec { s with free := s.free + 1 } _) h) fun _ => rfl

/-- The kernels of a package by identifier and context. -/
def kernelNames (s : State) : List (Nat × Nat) := s.kernels.map fun k => (k.kid, k.cid)

theorem kernelNames_map {s t : State} {g : Kernel → Kernel} (ht : t.kernels = s.kernels.map g) (hg : ∀ k, (g k).kid = k.kid ∧ (g k).cid = k.cid) :
    kernelNames t = kernelNames s := by
  rw [kernelNames, ht, List.map_map]
  exact List.map_congr_left fun k _ => Prod.ext (hg k).1 (hg k).2

theorem kernelNames_updKernel (s : State) (kid : Nat) {f : Kernel → Kernel} (hf : ∀ k, (f k).kid = k.kid ∧ (f k).cid = k.cid) :
    kernelNames (updKernel s kid f) = kernelNames s := by
  refine kernelNames_map (s := s) rfl fun k => ?_
  split
  · exact hf k
  · exact ⟨rfl, rfl⟩

theorem kernelNames_freeEntry (s : State) (k : Kernel) : kernelNames (freeEntry s k) = kernelNames s := by
  unfold freeEntry
  split
  · exact kernelNames_updKernel (updDie s k.die _) _ fun _ => ⟨rfl, rfl⟩
  · rfl

theorem OnlyReadies.names {g : Kernel → Kernel} (h : OnlyReadies g) (k : Kernel) : (g k).kid = k.kid ∧ (g k).cid = k.cid := by
  rcases h k with h | ⟨-, _, h⟩ <;> rw [h] <;> exact ⟨rfl, rfl⟩

theorem kernelNames_badKernel (s : State) (k : Kernel) (cause : Nat) : kernelNames (badKernel s k cause) = kernelNames s := by
  obtain ⟨g, hg, hkernels⟩ := (signals_badKernel s k cause).kernels
  exact (kernelNames_map hkernels hg.names).trans ((kernelNames_updKernel (f := kernelDone) _ _ fun _ => ⟨rfl, rfl⟩).trans (kernelNames_freeEntry ..))

theorem chanQ_badEnded (s : State) (k : Kernel) (cause src dst cls : Nat) : chanQ (badEnded s k cause) src dst cls = chanQ s src dst cls := by
  obtain ⟨_, _, h⟩ := badEnded_only s k cause
  rw [h]
  rfl

/-! #### Acceptance -/

section
variable {s : State} {die cid inc : Nat} {w : List Word} {k : Kernel}

/-- The kernel that a submission makes, its descriptor not yet read (05 R85). -/
def submittedKernel (s : State) (die cid inc : Nat) (w : List Word) : Kernel :=
  { kid := s.chip * 2 ^ 22 + s.kidNext, cid := cid, inc := inc, die := die, wq := fld (w.getD 4 0) 12 11, wmask := w.getD 2 0, sq := fld (w.getD 4 0) 14 13,
    smask := w.getD 3 0, job := fld (w.getD 4 0) 47 16, prio := min (fld (w.getD 4 0) 10 8) (ctxPmax (ctxOf s cid)), subtag := w.getD 6 0,
    args := (w.getD 1 0).toNat }

/-- The descriptor of a submission read, by a scheduler that has numbered it. -/
def readSubmission (s : State) (die cid inc : Nat) (w : List Word) : Option Kernel :=
  readKernel { s with kidNext := s.kidNext + 1 } (submittedKernel s die cid inc w) (fld (w.getD 0 0) 56 0) (w.getD 5 0)

/-- A scheduler that lists a new kernel. -/
def listed (s : State) (k : Kernel) : State := { s with kidNext := s.kidNext + 1, kernels := s.kernels ++ [k] }

theorem acceptKernel_fst : (acceptKernel s die cid inc w).1 = s.chip * 2 ^ 22 + s.kidNext := by
  unfold acceptKernel
  dsimp only
  split <;> rfl

theorem acceptKernel_good (h : readSubmission s die cid inc w = some k) : (acceptKernel s die cid inc w).2 = eventTest (listed s k) cid := by
  unfold readSubmission submittedKernel at h
  unfold acceptKernel
  simp only [h]
  rfl

theorem acceptKernel_bad (h : readSubmission s die cid inc w = none) :
    (acceptKernel s die cid inc w).2 = badKernel (listed s (submittedKernel s die cid inc w)) (submittedKernel s die cid inc w) 0x45 := by
  unfold readSubmission submittedKernel at h
  unfold acceptKernel
  simp only [h]
  rfl

/-- What a descriptor adds to a kernel (05 R85, R106): nothing that the submission has said. -/
theorem readKernel_only {k' : Kernel} {kdesc : Nat} {budget : Word} (h : readKernel s k kdesc budget = some k') :
    k' = { k with budget := k'.budget, handler := k'.handler, queue := k'.queue, crew := k'.crew, gang := k'.gang, shape := k'.shape, paired := k'.paired,
                  plen := k'.plen, ranks := k'.ranks, adj := k'.adj, radius := k'.radius, place := k'.place, first := k'.first, count := k'.count } := by
  have hno : none ≠ some k' := nofun
  rw [readKernel] at h
  replace h := ite_else h hno
  split at h
  · cases h
  replace h := ite_else h hno
  extract_lets n masked at h
  split at h
  · cases h
  replace h := ite_else h hno
  extract_lets ranks k1 at h
  replace h := ite_else h hno
  by_cases hplain : k1.shape ≠ 3
  · rw [if_pos hplain] at h
    rw [← Option.some.inj h]
  · rw [if_neg hplain] at h
    split at h
    · cases h
    · rw [← Option.some.inj (ite_else h hno)]

end

end Sys2Proof.Machine
end

section
/-! ### KERNEL_ACCEPT and KSUB_ARRIVE (05 R85 to R87; 20 R343) -/

namespace Sys2Proof.Machine

section
variable {s : State} {die cid inc : Nat} {w : List Word} {k : Kernel}

theorem readSubmission_only (h : readSubmission s die cid inc w = some k) :
    k.kid = s.chip * 2 ^ 22 + s.kidNext ∧ k.cid = cid ∧ k.die = die ∧ k.job = fld (w.getD 4 0) 47 16 ∧ k.state = 0 := by
  rw [readKernel_only h]
  exact ⟨rfl, rfl, rfl, rfl, rfl⟩

theorem tested_waiting (hcid : k.cid = cid) (hstate : k.state = 0) :
    tested s cid k = if k.wmask &&& eventSeen s k.die cid k.wq = k.wmask then readied s.now k else k := by
  simp only [tested, hcid, hstate, true_and]

/-- A submission is accepted in one of two ways. -/
theorem acceptKernel_cases {P : State → Prop} (hgood : ∀ k, readSubmission s die cid inc w = some k → P (eventTest (listed s k) cid))
    (hbad : readSubmission s die cid inc w = none → P (badKernel (listed s (submittedKernel s die cid inc w)) (submittedKernel s die cid inc w) 0x45)) :
    P (acceptKernel s die cid inc w).2 := by
  cases h : readSubmission s die cid inc w with
  | some k => exact acceptKernel_good h ▸ hgood k h
  | none => exact acceptKernel_bad h ▸ hbad h

theorem acceptKernel_keeps {β : Type} (φ : State → β)
    (hφ : ∀ s kidNext free frecs dies kernels ctxs chans e2e egress counted,
      φ { s with kidNext := kidNext, free := free, frecs := frecs, dies := dies, kernels := kernels, ctxs := ctxs, chans := chans, e2e := e2e, egress := egress,
                 counted := counted } = φ s := by intros; rfl) : φ (acceptKernel s die cid inc w).2 = φ s := by
  refine acceptKernel_cases (P := fun t => φ t = φ s) (fun k _ => hφ s _ _ _ _ _ _ _ _ _ _) fun _ => (badKernel_keeps φ ?_ ..).trans (hφ s _ _ _ _ _ _ _ _ _ _)
  exact fun s free frecs dies kernels ctxs chans e2e egress counted => hφ s s.kidNext free frecs dies kernels ctxs chans e2e egress counted

/-- One kernel more is listed, and the others bear the identifiers that they bore. -/
theorem kernelNames_acceptKernel : kernelNames (acceptKernel s die cid inc w).2 = kernelNames s ++ [(s.chip * 2 ^ 22 + s.kidNext, cid)] := by
  have hlist : ∀ k, kernelNames (listed s k) = kernelNames s ++ [(k.kid, k.cid)] := fun k => List.map_append
  refine acceptKernel_cases (P := fun t => kernelNames t = _) (fun k h => ?_) fun _ => (kernelNames_badKernel ..).trans (hlist _)
  obtain ⟨hkid, hcid, -⟩ := readSubmission_only h
  rw [← hkid, ← hcid, ← hlist k]
  exact kernelNames_map (eventTest_eq ..  ▸ rfl) (onlyReadies_tested (listed s k) k.cid).names

/-- An acceptance puts nothing into a channel of its own scheduler, and nothing into one of another class than REQ. -/
theorem chanQ_acceptKernel {dst cls : Nat} (h : dst = schedOf s die ∨ cls ≠ 2) (src : Nat) :
    chanQ (acceptKernel s die cid inc w).2 src dst cls = chanQ s src dst cls := by
  refine acceptKernel_cases (P := fun t => chanQ t src dst cls = chanQ s src dst cls) (fun _ _ => rfl) fun _ => ?_
  have hsig := signals_badKernel (listed s (submittedKernel s die cid inc w)) (submittedKernel s die cid inc w) 0x45
  refine Eq.trans ?_ (chanQ_badEnded (listed s (submittedKernel s die cid inc w)) (submittedKernel s die cid inc w) 0x45 src dst cls)
  rcases h with rfl | h
  · have hinbox := hsig.inbox src cls
    obtain ⟨_, _, hended⟩ := badEnded_only (listed s (submittedKernel s die cid inc w)) (submittedKernel s die cid inc w) 0x45
    rw [hended] at hinbox ⊢
    exact hinbox
  · exact hsig.others src dst cls h

theorem cancelLate_of_not_cancelled {kid : Nat} (h : ∀ k, kernelOf s kid = some k → jobCancelled s die k.cid k.job = false) : cancelLate s die kid = s := by
  unfold cancelLate
  split
  next k hk => exact if_neg fun hc => absurd hc.2 (by simp [h k hk])
  next => rfl

theorem cancelLate_of_done {kid : Nat} (hk : kernelOf s kid = some k) (hstate : 1 < k.state) : cancelLate s die kid = s := by
  simp only [cancelLate, hk]
  exact if_neg fun h => absurd h.1 (Nat.not_le.mpr hstate)

end

/-! #### KERNEL_ACCEPT -/

section
variable {s : State} {die : Nat} {u : SubReq}

/-- A submission taken from those that wait. -/
def subTaken (s : State) (u : SubReq) : State := { s with subs := s.subs.erase u }

/-- The incarnation that a window's submission is accepted into (03 R67). -/
def submitInc (s : State) (die cid : Nat) : Nat := (incAt s (schedOf s die) cid).getD (ctxInc (ctxOf s cid))

/-- The kernel that a window's submission makes. -/
def windowKernel (s : State) (die : Nat) (u : SubReq) : Kernel := submittedKernel (subTaken s u) die u.cid (submitInc s die u.cid) u.words

theorem kernelAccept_none (h : s.subs.find? (fun u => decide (u.die = die)) = none) : exec (.kernelAccept die) s = .next s := by
  change execKernelAccept die s = _
  simp only [execKernelAccept, h]

theorem kernelAccept_eq (h : s.subs.find? (fun u => decide (u.die = die)) = some u) : exec (.kernelAccept die) s =
    .next (cancelLate (acceptKernel (subTaken s u) die u.cid (submitInc s die u.cid) u.words).2 die (windowKernel s die u).kid) := by
  change execKernelAccept die s = _
  simp only [execKernelAccept, h]
  rw [← Prod.mk.eta (p := acceptKernel { s with subs := s.subs.erase u } _ _ _ _), acceptKernel_fst]
  rfl

/-- A good submission's kernel is listed and tested once. -/
theorem kernelAccept_good {k : Kernel} (h : s.subs.find? (fun u => decide (u.die = die)) = some u)
    (hread : readSubmission (subTaken s u) die u.cid (submitInc s die u.cid) u.words = some k)
    (hnew : ∀ x ∈ s.kernels, x.kid ≠ (windowKernel s die u).kid) (hjob : jobCancelled s die u.cid (windowKernel s die u).job = false) :
    exec (.kernelAccept die) s = .next (eventTest (listed (subTaken s u) k) u.cid) := by
  obtain ⟨hkid, hcid, -, hkjob, -⟩ := readSubmission_only hread
  rw [kernelAccept_eq h, acceptKernel_good hread, cancelLate_of_not_cancelled]
  intro x hx
  have hlist : kernelOf (listed (subTaken s u) k) k.kid = some k := kernelOf_append rfl fun y hy => by rw [hkid]; exact hnew y hy
  rw [show (windowKernel s die u).kid = k.kid from hkid.symm, kernelOf_map (s := listed (subTaken s u) k) rfl (onlyReadies_tested _ _).kid, hlist,
    Option.map_some, Option.some.injEq] at hx
  have hsame : x.cid = k.cid ∧ x.job = k.job := by
    rcases onlyReadies_tested (listed (subTaken s u) k) u.cid k with h | ⟨-, _, h⟩ <;> rw [← hx, h] <;> exact ⟨rfl, rfl⟩
  rw [hsame.1, hsame.2, hcid, hkjob]
  exact hjob

/-- A bad one's is DONE, with its record. -/
theorem kernelAccept_bad (h : s.subs.find? (fun u => decide (u.die = die)) = some u)
    (hread : readSubmission (subTaken s u) die u.cid (submitInc s die u.cid) u.words = none)
    (hnew : ∀ x ∈ s.kernels, x.kid ≠ (windowKernel s die u).kid) :
    exec (.kernelAccept die) s = .next (badKernel (listed (subTaken s u) (windowKernel s die u)) (windowKernel s die u) 0x45) ∧
      kernelOf (badKernel (listed (subTaken s u) (windowKernel s die u)) (windowKernel s die u) 0x45) (windowKernel s die u).kid =
        some (kernelDone { windowKernel s die u with qentry := false }) := by
  have hdone := kernelOf_badKernel (kernelOf_append (s := listed (subTaken s u) (windowKernel s die u)) rfl hnew) 0x45
  refine ⟨?_, hdone⟩
  rw [kernelAccept_eq h, acceptKernel_bad hread]
  exact congrArg _ (cancelLate_of_done hdone (show (1 : Nat) < 3 by decide))

end

/-! #### Answers to cores -/

/-- An answer to a core of this chip is one packet more in its channel, whatever else the scheduler has done before. -/
theorem sent_answerCore {s t : State} {src tok : Nat} {p : Packet} (hchip : agChip p.src = t.chip) (hq : chanQ t src p.src 4 = chanQ s src p.src 4) (v : Word) :
    Stated.Sent s (answerCore t src p tok v) src p.src 4 (.rdata tok v false) := by
  refine ⟨{ dst := p.src, src := src, cls := 4, op := 0x10, cid := p.cid, inc := p.inc, len := 1, body := .rdata tok v false }, ?_, rfl, rfl, rfl, rfl⟩
  rw [← hq]
  exact chanQ_emit_own (p := { dst := p.src, src := src, cls := 4, op := 0x10, cid := p.cid, inc := p.inc, len := 1, body := .rdata tok v false }) hchip

theorem mailed_answerCore (s : State) (src tok : Nat) (p : Packet) (v : Word) : Mailed s (answerCore s src p tok v) := mailed_emit ..

theorem chanQ_answerCore {cls : Nat} (h : cls ≠ 4) (s : State) (src tok : Nat) (p : Packet) (v : Word) (a b : Nat) :
    chanQ (answerCore s src p tok v) a b cls = chanQ s a b cls := chanQ_emit_other fun e => h e.2.2

/-! #### KSUB_ARRIVE -/

section
variable {s : State} {die src : Nat} {p : Packet} {rest : List Packet}

/-- What a scheduler has done with a request that it takes: it has left its channel, and its sender's set takes note. -/
def requestTaken (s : State) (src die : Nat) (p : Packet) : State := markApplied (chanPop s src (schedOf s die) 2) src p.tok (schedOf s die)

/-- A request for a scheduler that it takes: whole, of a known incarnation, and no engine's. -/
structure Requests (s : State) (src die : Nat) (p : Packet) (rest : List Packet) : Prop where
  head : chanQ s src (schedOf s die) 2 = p :: rest
  whole : p.bad = false
  notEng : isEng p.tok = false
  notRed : isRedTok p.tok = false
  known : incOk s (schedOf s die) p.cid p.inc = true

theorem Requests.noted (h : Requests s src die p rest) : Noted (chanPop s src (schedOf s die) 2) (requestTaken s src die p) :=
  noted_markApplied h.notEng h.notRed _ _ _

theorem Requests.keeps {β : Type} (h : Requests s src die p rest) (φ : State → β)
    (hφ : ∀ s chans cores dies, φ { s with chans := chans, cores := cores, dies := dies } = φ s := by intros; rfl) : φ (requestTaken s src die p) = φ s := by
  rw [h.noted.only]
  exact hφ s _ _ _

theorem Requests.chanQ_own (h : Requests s src die p rest) : chanQ (requestTaken s src die p) src (schedOf s die) 2 = rest := by
  rw [h.noted.only]
  exact (chanQ_chanPop_same s src (schedOf s die) 2).trans (by rw [h.head, List.tail_cons])

theorem Requests.chanQ_other (h : Requests s src die p rest) {a b cls : Nat} (hcls : cls ≠ 2) : chanQ (requestTaken s src die p) a b cls = chanQ s a b cls := by
  rw [h.noted.only]
  exact chanQ_chanPop_other fun e => hcls e.2.2

theorem Requests.dieKept {β : Type} (h : Requests s src die p rest) (φ : Die → β) (hφ : ∀ x n, φ { x with nic := n } = φ x := by intros; rfl) (d : Nat) :
    φ (dieAt (requestTaken s src die p) d) = φ (dieAt s d) := h.noted.dies φ hφ d

theorem Requests.cred (h : Requests s src die p rest) (cid : Nat) : credOf (requestTaken s src die p) die cid = credOf s die cid := by
  rw [credOf, h.dieKept Die.cred, credOf]

theorem Requests.cancelled (h : Requests s src die p rest) (cid job : Nat) : jobCancelled (requestTaken s src die p) die cid job = jobCancelled s die cid job := by
  rw [jobCancelled, h.dieKept Die.cancelJobs, jobCancelled]

/-- One of n credits of a context taken for a submission. -/
def credTaken (s : State) (die cid n : Nat) : State := updDie s die fun d => { d with cred := mput d.cred cid (n - 1) }

/-- What a scheduler has done with a KSUB that it accepts, but for the answer. -/
def submissionTaken (s : State) (src die : Nat) (p : Packet) (w : List Word) : State :=
  (acceptKernel (credTaken (requestTaken s src die p) die p.cid (credOf s die p.cid)) die p.cid p.inc w).2

variable {w : List Word} {tok : Nat}

/-- A whole KSUB is answered with why not, or with the kernel that it makes. -/
theorem ksubArrive_eq (h : Requests s src die p rest) (hbody : p.body = .ksub w tok) (hjob : jobCancelled s die p.cid (fld (w.getD 4 0) 47 16) = false) :
    exec (.ksubArrive src die) s = .next (
      if recBad w then answerCore (requestTaken s src die p) (schedOf s die) p tok 0x66
      else if credOf s die p.cid = 0 then answerCore (requestTaken s src die p) (schedOf s die) p tok 1
      else answerCore (submissionTaken s src die p w) (schedOf s die) p tok (wd ((s.chip * 2 ^ 22 + s.kidNext) * 2 ^ 32))) := by
  have hcred : credOf (markApplied (chanPop s src (schedOf s die) 2) src p.tok (schedOf s die)) die p.cid = credOf s die p.cid := h.cred p.cid
  have hcancelled := (h.cancelled p.cid (fld (w.getD 4 0) 47 16)).trans hjob
  have hpair : acceptKernel (credTaken (requestTaken s src die p) die p.cid (credOf s die p.cid)) die p.cid p.inc w =
      (s.chip * 2 ^ 22 + s.kidNext, submissionTaken s src die p w) := by
    refine Prod.ext (acceptKernel_fst.trans ?_) rfl
    rw [show (credTaken (requestTaken s src die p) die p.cid (credOf s die p.cid)).chip = s.chip from h.keeps State.chip,
      show (credTaken (requestTaken s src die p) die p.cid (credOf s die p.cid)).kidNext = s.kidNext from h.keeps State.kidNext]
  rw [credTaken, requestTaken] at hpair
  rw [requestTaken] at hcancelled
  change execKsubArrive src die s = _
  simp only [execKsubArrive, h.head, hbody, h.known, h.whole, hcancelled, hcred, Bool.not_true, Bool.false_eq_true, if_false]
  rw [hpair]
  split
  · rfl
  · split <;> rfl

/-- What an accepted KSUB leaves behind: its request taken, and one kernel more. -/
theorem submissionTaken_spec (h : Requests s src die p rest) (w : List Word) :
    (submissionTaken s src die p w).chip = s.chip ∧ (submissionTaken s src die p w).mem = s.mem ∧
    chanQ (submissionTaken s src die p w) src (schedOf s die) 2 = rest ∧
    (∀ a b cls, cls ≠ 2 → chanQ (submissionTaken s src die p w) a b cls = chanQ s a b cls) ∧
    kernelNames (submissionTaken s src die p w) = kernelNames s ++ [(s.chip * 2 ^ 22 + s.kidNext, p.cid)] := by
  have hchip : (requestTaken s src die p).chip = s.chip := h.keeps State.chip
  have hnext : (requestTaken s src die p).kidNext = s.kidNext := h.keeps State.kidNext
  have hkernels : (requestTaken s src die p).kernels = s.kernels := h.keeps State.kernels
  have hsched : schedOf (requestTaken s src die p) die = schedOf s die := by rw [schedOf, agentId, hchip, schedOf, agentId]
  refine ⟨(acceptKernel_keeps State.chip).trans hchip, (acceptKernel_keeps State.mem).trans (h.keeps State.mem), ?_, fun a b cls hcls => ?_, ?_⟩
  · refine (chanQ_acceptKernel (.inl ?_) src).trans h.chanQ_own
    exact hsched.symm
  · exact (chanQ_acceptKernel (.inr hcls) a).trans (h.chanQ_other hcls)
  · refine kernelNames_acceptKernel.trans ?_
    change (requestTaken s src die p).kernels.map _ ++ [((requestTaken s src die p).chip * 2 ^ 22 + (requestTaken s src die p).kidNext, p.cid)] = _
    rw [hkernels, hchip, hnext]
    rfl

end

end Sys2Proof.Machine
end

section
/-! ### SETEV_APPLY and live counts (05 R87, R89; 20 R347) -/

namespace Sys2Proof.Machine

/-! #### SETEV_APPLY -/

section
variable {s : State} {die src q : Nat} {p : Packet} {rest : List Packet} {mask : Word} {clr : Bool}

/-- What a SETEV makes of a quarter. -/
def eventChange (mask : Word) (clr : Bool) (w : Word) : Word := if clr then w &&& ~~~mask else w ||| mask

/-- A change at the scheduler that holds the vector. -/
def eventsChanged (s : State) (src die : Nat) (cid q : Nat) (mask : Word) (clr : Bool) : State :=
  setEvents (chanPop s src (schedOf s die) 2) cid q (eventChange mask clr)

/-- A scheduler that another one has told a quarter. -/
def quarterSeen (s : State) (die cid q : Nat) (w : Word) : State := updDie s die fun d => { d with evView := mput d.evView (cid * 4 + q) w }

/-- It takes note, and makes its tests. -/
def eventsHeard (s : State) (src die : Nat) (cid q : Nat) (mask : Word) : State := eventTest (quarterSeen (chanPop s src (schedOf s die) 2) die cid q mask) cid

theorem setevApply_holder (h : Requests s src die p rest) (hbody : p.body = .setev q mask clr) (hholds : holdsEvents s die p.cid = true) :
    exec (.setevApply src die) s = .next (markApplied (eventsChanged s src die p.cid q mask clr) src p.tok (schedOf s die)) := by
  change execSetevApply src die s = _
  simp only [execSetevApply, h.head, hbody, h.known, h.whole, hholds, Bool.not_true, Bool.false_eq_true, if_false, if_true]
  rfl

theorem setevApply_other (h : Requests s src die p rest) (hbody : p.body = .setev q mask clr) (hholds : holdsEvents s die p.cid = false) :
    exec (.setevApply src die) s = .next (eventsHeard s src die p.cid q mask) := by
  change execSetevApply src die s = _
  simp only [execSetevApply, h.head, hbody, h.known, h.whole, hholds, Bool.not_true, Bool.false_eq_true, if_false]
  rfl

/-- What the holder's change leaves: the message taken, the quarter changed, and the kernels READY that it satisfies. -/
theorem setevApply_holder_spec (h : Requests s src die p rest) (hbody : p.body = .setev q mask clr) (hq : q < 4) (hholds : holdsEvents s die p.cid = true) :
    ∃ t : State, exec (.setevApply src die) s = .next t ∧ chanQ t src (schedOf s die) 2 = rest ∧ t.mem = s.mem ∧
      eventQ t p.cid q = eventChange mask clr (eventQ s p.cid q) ∧ (∀ i, i ≠ q → eventQ t p.cid i = eventQ s p.cid i) ∧
      (eventQ t p.cid q ≠ eventQ s p.cid q → ∀ k ∈ s.kernels, k.cid = p.cid → holdsEvents s k.die p.cid = true → k.state = 0 →
        k.wmask &&& eventQ t p.cid k.wq = k.wmask → readied s.now k ∈ t.kernels) := by
  have hnoted := noted_markApplied h.notEng h.notRed (eventsChanged s src die p.cid q mask clr) src (schedOf s die)
  have hsig : Signals (chanPop s src (schedOf s die) 2) (eventsChanged s src die p.cid q mask clr) die :=
    signals_setEvents (s := chanPop s src (schedOf s die) 2) hholds ..
  obtain ⟨hsame, hother⟩ := eventQ_setEvents (chanPop s src (schedOf s die) 2) p.cid hq (eventChange mask clr)
  refine ⟨_, setevApply_holder h hbody hholds, ?_⟩
  rw [hnoted.only]
  refine ⟨?_, hsig.keeps State.mem, hsame, hother, fun hchanged k hk hcid hkholds hstate hmask => ?_⟩
  · refine (hsig.inbox src 2).trans ((chanQ_chanPop_same s src (schedOf s die) 2).trans ?_)
    rw [h.head, List.tail_cons]
  · exact readied_setEvents (s := chanPop s src (schedOf s die) 2) (fun e => hchanged (hsame.trans e)) hk hcid hkholds hstate hmask

/-- What the other scheduler's knowledge of a quarter becomes, and the kernels READY that it satisfies. -/
theorem setevApply_other_spec (h : Requests s src die p rest) (hbody : p.body = .setev q mask clr) (hholds : holdsEvents s die p.cid = false)
    (hhome : homeChip s p.cid = s.chip) :
    ∃ t : State, exec (.setevApply src die) s = .next t ∧ chanQ t src (schedOf s die) 2 = rest ∧ t.mem = s.mem ∧ t.cores = s.cores ∧
      eventSeen t die p.cid q = mask ∧ (∀ i, eventQ t p.cid i = eventQ s p.cid i) ∧
      (∀ i, i < 4 → i ≠ q → eventSeen t die p.cid i = eventSeen s die p.cid i) ∧
      (∀ k ∈ s.kernels, k.cid = p.cid → k.die = die → k.state = 0 → k.wmask &&& eventSeen t die p.cid k.wq = k.wmask → readied s.now k ∈ t.kernels) := by
  have hseen : ∀ (t : State), homeChip t p.cid = t.chip → holdsEvents t die p.cid = false → ∀ i,
      eventSeen t die p.cid i = mgetD (dieAt t die).evView (p.cid * 4 + i) 0 := fun t hc hh i => if_pos ⟨hc, hh⟩
  refine ⟨_, setevApply_other h hbody hholds, ?_, rfl, rfl, ?_, fun _ => rfl, fun i hi hne => ?_, fun k hk hcid hdie hstate hmask => ?_⟩
  · refine (chanQ_chanPop_same s src (schedOf s die) 2).trans ?_
    rw [h.head, List.tail_cons]
  · refine (hseen (eventsHeard s src die p.cid q mask) hhome hholds q).trans ?_
    change mgetD (dieAt (quarterSeen _ die p.cid q mask) die).evView _ 0 = mask
    rw [quarterSeen, dieAt_updDie_same, mgetD_mput_same]
  · refine (hseen (eventsHeard s src die p.cid q mask) hhome hholds i).trans (Eq.trans ?_ (hseen s hhome hholds i).symm)
    change mgetD (dieAt (quarterSeen (chanPop s src (schedOf s die) 2) die p.cid q mask) die).evView _ 0 = _
    rw [quarterSeen, dieAt_updDie_same, mgetD_mput_other _ _ _ _ _ (by omega)]
    rfl
  · refine List.mem_map.mpr ⟨k, hk, if_pos ⟨hcid, hstate, ?_⟩⟩
    rw [hdie]
    exact hmask

end

/-! #### Kernels that settle -/

section
variable {s : State} {kid : Nat} {k : Kernel}

/-- A kernel is over: it runs, its live count is zero, and no gate of it stands; its chip's scheduler says so (05 R86, R89). -/
def Settles (k : Kernel) (s : State) : Prop := k.state = 2 ∧ k.live = 0 ∧ k.gates = [] ∧ kernelChip k.kid = s.chip

theorem settleKernel_stays (hk : kernelOf s kid = some k) (h : ¬ Settles k s) : settleKernel s kid = s := by
  have hkid := kid_of_kernelOf hk
  subst hkid
  simp only [settleKernel, hk]
  exact if_neg h

theorem settleKernel_ends (hk : kernelOf s kid = some k) (h : Settles k s) :
    settleKernel s kid = applySmask (rampDown (updKernel s kid kernelDone) kid) k := by
  have hkid := kid_of_kernelOf hk
  subst hkid
  simp only [settleKernel, hk]
  exact if_pos h

theorem rampDown_only (s : State) (kid : Nat) : rampDown s kid = { s with dies := (rampDown s kid).dies } := rfl

theorem settleKernel_keeps {β : Type} (φ : State → β)
    (hφ : ∀ s dies kernels ctxs chans e2e egress counted,
      φ { s with dies := dies, kernels := kernels, ctxs := ctxs, chans := chans, e2e := e2e, egress := egress, counted := counted } = φ s := by intros; rfl)
    (hk : kernelOf s kid = some k) : φ (settleKernel s kid) = φ s := by
  by_cases h : Settles k s
  · rw [settleKernel_ends hk h]
    refine ((signals_applySmask ..).keeps φ fun s ctxs kernels chans e2e egress counted => ?_).trans ?_
    · exact hφ s s.dies kernels ctxs chans e2e egress counted
    · rw [rampDown_only]
      exact hφ s _ _ _ _ _ _ _
  · rw [settleKernel_stays hk h]

theorem kernelOf_settleKernel (hk : kernelOf s kid = some k) :
    (Settles k s ∧ kernelOf (settleKernel s kid) kid = some (kernelDone k)) ∨ (¬ Settles k s ∧ kernelOf (settleKernel s kid) kid = some k) := by
  by_cases h : Settles k s
  · refine .inl ⟨h, ?_⟩
    rw [settleKernel_ends hk h]
    refine (signals_applySmask ..).kernelOf_of_state ?_ (show (3 : Nat) ≠ 0 by decide)
    exact kernelOf_updKernel (f := kernelDone) hk fun _ => rfl
  · exact .inr ⟨h, by rw [settleKernel_stays hk h, hk]⟩

end

/-! #### LIVE_COUNT_REPORT -/

section
variable {s : State} {r : Report} {rs : List Report} {k : Kernel}

/-- A kernel whose live count has changed. -/
def liveChanged (delta : Int) (k : Kernel) : Kernel := { k with live := k.live + delta }

/-- The oldest report taken and acknowledged. -/
def reportTaken (s : State) (rs : List Report) (cid : Nat) (ackTo : Option Nat) : State := ackReport { s with reports := rs } cid ackTo

theorem reportTaken_keeps {β : Type} (φ : State → β)
    (hφ : ∀ s acks chans e2e egress counted,
      φ { s with acks := acks, chans := chans, e2e := e2e, egress := egress, counted := counted } = φ s := by intros; rfl)
    (s : State) (rs : List Report) (cid : Nat) (ackTo : Option Nat) : φ (reportTaken s rs cid ackTo) = φ { s with reports := rs } := by
  unfold reportTaken ackReport
  split
  · rfl
  · split
    · exact hφ { s with reports := rs } _ _ _ _ _
    · exact (mailed_mgmtTo ..).keeps φ fun s chans e2e egress counted => hφ s s.acks chans e2e egress counted

theorem liveCountReport_none (h : s.reports = []) : exec .liveCountReport s = .next s := by
  change execLiveCountReport s = _
  simp only [execLiveCountReport, h]

theorem liveCountReport_own (h : s.reports = r :: rs) (hk : kernelOf s r.kernel = some k) (hchip : kernelChip r.kernel = s.chip) :
    exec .liveCountReport s = .next (settleKernel (updKernel (reportTaken s rs k.cid r.ackTo) r.kernel (liveChanged r.delta)) r.kernel) := by
  have hk' : kernelOf { s with reports := rs } r.kernel = some k := hk
  change execLiveCountReport s = _
  simp only [execLiveCountReport, h, hk', if_pos hchip]
  rfl

/-- A report changes the live count of the kernel, which at zero is over. -/
theorem liveCountReport_spec (h : s.reports = r :: rs) (hk : kernelOf s r.kernel = some k) (hchip : kernelChip r.kernel = s.chip) :
    ∃ (t : State) (k' : Kernel), exec .liveCountReport s = .next t ∧ t.reports = rs ∧ kernelOf t r.kernel = some k' ∧ k'.live = k.live + r.delta ∧
      (k.live + r.delta ≠ 0 → k'.state = k.state) ∧ (k.live + r.delta = 0 → k.state = 2 → k.gates = [] → k'.state = 3) ∧
      (∀ c, r.ackTo = some c → c < 2 ^ 32 → t.acks = s.acks ++ [c]) ∧ t.cores = s.cores ∧ t.mem = s.mem := by
  have hkid := kid_of_kernelOf hk
  have htaken : kernelOf (reportTaken s rs k.cid r.ackTo) r.kernel = some k := (reportTaken_keeps (fun t => kernelOf t r.kernel) ..).trans hk
  have hlive : kernelOf (updKernel (reportTaken s rs k.cid r.ackTo) r.kernel (liveChanged r.delta)) r.kernel = some (liveChanged r.delta k) :=
    kernelOf_updKernel htaken fun _ => rfl
  have hkeeps : ∀ {β : Type} (φ : State → β),
      (∀ s dies kernels ctxs chans e2e egress counted,
        φ { s with dies := dies, kernels := kernels, ctxs := ctxs, chans := chans, e2e := e2e, egress := egress, counted := counted } = φ s) →
      φ (settleKernel (updKernel (reportTaken s rs k.cid r.ackTo) r.kernel (liveChanged r.delta)) r.kernel) = φ (reportTaken s rs k.cid r.ackTo) :=
    fun φ hφ => (settleKernel_keeps φ hφ hlive).trans (hφ _ (reportTaken s rs k.cid r.ackTo).dies _ (reportTaken s rs k.cid r.ackTo).ctxs
      (reportTaken s rs k.cid r.ackTo).chans (reportTaken s rs k.cid r.ackTo).e2e (reportTaken s rs k.cid r.ackTo).egress (reportTaken s rs k.cid r.ackTo).counted)
  have hacks : ∀ c, r.ackTo = some c → c < 2 ^ 32 → (reportTaken s rs k.cid r.ackTo).acks = s.acks ++ [c] := by
    intro c hc hlt
    rw [hc, reportTaken, ackReport, if_pos (by omega)]
  have hframe := fun {β : Type} (φ : State → β) hφ hφ' => (hkeeps φ hφ).trans (reportTaken_keeps φ hφ' s rs k.cid r.ackTo)
  have hreports := hframe State.reports (fun _ _ _ _ _ _ _ _ => rfl) fun _ _ _ _ _ _ => rfl
  have hcores := hframe State.cores (fun _ _ _ _ _ _ _ _ => rfl) fun _ _ _ _ _ _ => rfl
  have hmem := hframe State.mem (fun _ _ _ _ _ _ _ _ => rfl) fun _ _ _ _ _ _ => rfl
  have hsettledAcks := hkeeps State.acks fun _ _ _ _ _ _ _ _ => rfl
  have hownAcks := fun c hc hlt => hsettledAcks.trans (hacks c hc hlt)
  rcases kernelOf_settleKernel hlive with ⟨hset, hk'⟩ | ⟨hnot, hk'⟩
  · exact ⟨_, _, liveCountReport_own h hk hchip, hreports, hk', rfl, fun hne => absurd hset.2.1 hne, fun _ _ _ => rfl, hownAcks, hcores, hmem⟩
  · have hhere : kernelChip k.kid = (reportTaken s rs k.cid r.ackTo).chip := by
      rw [hkid, hchip]
      exact (reportTaken_keeps State.chip (fun _ _ _ _ _ _ => rfl) s rs k.cid r.ackTo).symm
    exact ⟨_, _, liveCountReport_own h hk hchip, hreports, hk', rfl, fun _ => rfl, fun hzero hstate hgates => absurd ⟨hstate, hzero, hgates, hhere⟩ hnot,
      hownAcks, hcores, hmem⟩

end

/-! #### LIVE_COUNT_ACK -/

section
variable {s : State} {core a : Nat}

/-- A scheduler's acknowledgement on its way no more. -/
def ackTaken (s : State) (a : Nat) : State := { s with acks := s.acks.erase a }

/-- The core has its acknowledgement, and its flush may be over. -/
def ackHeard (k : Core) : Core :=
  { k with rptWait := k.rptWait - 1, flush := if k.flush = some 0 ∧ k.rptWait ≤ 1 then none else k.flush }

theorem liveCountAck_none (h : s.acks.find? (fun a => decide (a % 2048 = core)) = none) : exec (.liveCountAck core) s = .next s := by
  change execLiveCountAck core s = _
  simp only [execLiveCountAck, h]

theorem liveCountAck_late (h : s.acks.find? (fun a => decide (a % 2048 = core)) = some a) (hid : a / 2048 ≠ (coreOf s core).rptId) :
    exec (.liveCountAck core) s = .next (ackTaken s a) := by
  change execLiveCountAck core s = _
  simp only [execLiveCountAck, h]
  exact if_neg hid

theorem liveCountAck_heard (h : s.acks.find? (fun a => decide (a % 2048 = core)) = some a) (hid : a / 2048 = (coreOf s core).rptId) :
    ∃ t : State, exec (.liveCountAck core) s = .next t ∧ t.acks = s.acks.erase a ∧ t.mem = s.mem ∧ coreOf t core = ackHeard (coreOf s core) ∧
      ∀ c, c ≠ core → coreOf t c = coreOf s c := by
  refine ⟨endFlush (updCore (ackTaken s a) core fun k => { k with rptWait := k.rptWait - 1 }) core, ?_, rfl, rfl, ?_, fun c hc => ?_⟩
  · change execLiveCountAck core s = _
    simp only [execLiveCountAck, h]
    exact if_pos hid
  · rw [endFlush, coreOf_updCore_same, coreOf_updCore_same, ackHeard, show coreOf (ackTaken s a) core = coreOf s core from rfl]
    simp only [Nat.sub_eq_zero_iff_le]
    split <;> rfl
  · rw [endFlush, coreOf_updCore_other _ _ _ _ hc, coreOf_updCore_other _ _ _ _ hc]
    rfl

end

end Sys2Proof.Machine
end

section
/-! ### Submissions, KSUB, events and live counts (chapter 05) -/

namespace Sys2Proof.Machine

/-- A good submission's kernel is listed, READY where the events satisfy its mask. -/
theorem kernelAccept_good_spec {s : State} {die : Nat} {u : SubReq} {k : Kernel} (h : s.subs.find? (fun u => decide (u.die = die)) = some u)
    (hread : readSubmission (subTaken s u) die u.cid (submitInc s die u.cid) u.words = some k)
    (hnew : ∀ x ∈ s.kernels, x.kid ≠ (windowKernel s die u).kid) (hjob : jobCancelled s die u.cid (windowKernel s die u).job = false) :
    ∃ t : State, exec (.kernelAccept die) s = .next t ∧ t.subs = s.subs.erase u ∧ t.kidNext = s.kidNext + 1 ∧ t.kernels.length = s.kernels.length + 1 ∧
      (if k.wmask &&& eventSeen s die u.cid k.wq = k.wmask then readied s.now k ∈ t.kernels else k ∈ t.kernels) ∧ t.cores = s.cores ∧ t.mem = s.mem := by
  obtain ⟨-, hcid, hdie, -, hstate⟩ := readSubmission_only hread
  have hin : tested (listed (subTaken s u) k) u.cid k ∈ (eventTest (listed (subTaken s u) k) u.cid).kernels :=
    List.mem_map_of_mem (List.mem_append_right _ (List.mem_singleton.mpr rfl))
  rw [tested_waiting hcid hstate, hdie] at hin
  refine ⟨_, kernelAccept_good h hread hnew hjob, rfl, rfl, ?_, ?_, rfl, rfl⟩
  · rw [eventTest_eq]
    exact List.length_map _ |>.trans List.length_append
  · by_cases hsat : k.wmask &&& eventSeen s die u.cid k.wq = k.wmask
    · rw [if_pos hsat]
      exact (if_pos hsat).subst (motive := (· ∈ (eventTest (listed (subTaken s u) k) u.cid).kernels)) hin
    · rw [if_neg hsat]
      exact (if_neg hsat).subst (motive := (· ∈ (eventTest (listed (subTaken s u) k) u.cid).kernels)) hin

/-- A bad one's is DONE, with a record of cause 0x45. -/
theorem kernelAccept_bad_spec {s : State} {die : Nat} {u : SubReq} (h : s.subs.find? (fun u => decide (u.die = die)) = some u)
    (hread : readSubmission (subTaken s u) die u.cid (submitInc s die u.cid) u.words = none)
    (hnew : ∀ x ∈ s.kernels, x.kid ≠ (windowKernel s die u).kid) :
    ∃ t : State, exec (.kernelAccept die) s = .next t ∧ t.subs = s.subs.erase u ∧ (∃ k ∈ t.kernels, k.kid = (windowKernel s die u).kid ∧ k.state = 3) ∧
      (∃ r ∈ t.frecs, r.cause = 0x45 ∧ r.kind = 4 ∧ r.cid = u.cid ∧ r.subtag = u.words.getD 6 0) ∧ t.cores = s.cores ∧ t.mem = s.mem := by
  obtain ⟨hexec, hdone⟩ := kernelAccept_bad h hread hnew
  exact ⟨_, hexec, badKernel_keeps State.subs .., ⟨_, mem_of_kernelOf hdone, rfl, rfl⟩, ⟨_, badRec_mem .., rfl, rfl, rfl, rfl⟩, badKernel_keeps State.cores ..,
    badKernel_keeps State.mem ..⟩

/-- A KSUB is answered with the kernel, or with why not. -/
theorem ksubArrive_spec {s : State} {die src tok : Nat} {p : Packet} {rest : List Packet} {w : List Word} (h : Requests s src die p rest)
    (hbody : p.body = .ksub w tok) (hchip : agChip p.src = s.chip) (hjob : jobCancelled s die p.cid (fld (w.getD 4 0) 47 16) = false) :
    ∃ t : State, exec (.ksubArrive src die) s = .next t ∧ chanQ t src (schedOf s die) 2 = rest ∧ t.mem = s.mem ∧
      (recBad w = true → Stated.Sent s t (schedOf s die) p.src 4 (.rdata tok 0x66 false) ∧ t.kernels = s.kernels) ∧
      (recBad w = false → credOf s die p.cid = 0 → Stated.Sent s t (schedOf s die) p.src 4 (.rdata tok 1 false) ∧ t.kernels = s.kernels) ∧
      (recBad w = false → credOf s die p.cid ≠ 0 →
        Stated.Sent s t (schedOf s die) p.src 4 (.rdata tok (wd ((s.chip * 2 ^ 22 + s.kidNext) * 2 ^ 32)) false) ∧ t.kernels.length = s.kernels.length + 1 ∧
          ∃ k ∈ t.kernels, k.kid = s.chip * 2 ^ 22 + s.kidNext ∧ k.cid = p.cid) := by
  have hanswer : ∀ (t : State) v, t.chip = s.chip → (∀ a b, chanQ t a b 4 = chanQ s a b 4) →
      Stated.Sent s (answerCore t (schedOf s die) p tok v) (schedOf s die) p.src 4 (.rdata tok v false) :=
    fun t v hc hq => sent_answerCore (hchip.trans hc.symm) (hq ..) v
  have hinbox : ∀ (t : State) v, chanQ t src (schedOf s die) 2 = rest → chanQ (answerCore t (schedOf s die) p tok v) src (schedOf s die) 2 = rest :=
    fun t v hq => (chanQ_answerCore (by decide) ..).trans hq
  have hrefused : ∀ v, Stated.Sent s (answerCore (requestTaken s src die p) (schedOf s die) p tok v) (schedOf s die) p.src 4 (.rdata tok v false) ∧
      (answerCore (requestTaken s src die p) (schedOf s die) p tok v).kernels = s.kernels := fun v =>
    ⟨hanswer _ v (h.keeps State.chip) fun a b => h.chanQ_other (by decide), ((mailed_answerCore ..).keeps State.kernels).trans (h.keeps State.kernels)⟩
  have hrefusedMem : ∀ v, (answerCore (requestTaken s src die p) (schedOf s die) p tok v).mem = s.mem := fun v =>
    ((mailed_answerCore ..).keeps State.mem).trans (h.keeps State.mem)
  refine ⟨_, ksubArrive_eq h hbody hjob, ?_⟩
  by_cases hbad : recBad w = true
  · rw [if_pos hbad]
    exact ⟨hinbox _ _ h.chanQ_own, hrefusedMem _, fun _ => hrefused _, fun hn => absurd hbad (by simp [hn]), fun hn => absurd hbad (by simp [hn])⟩
  by_cases hcred : credOf s die p.cid = 0
  · rw [if_neg hbad, if_pos hcred]
    exact ⟨hinbox _ _ h.chanQ_own, hrefusedMem _, fun hb => absurd hb hbad, fun _ _ => hrefused _, fun _ hc => absurd hcred hc⟩
  obtain ⟨htchip, htmem, htown, htother, hnames⟩ := submissionTaken_spec h w
  rw [if_neg hbad, if_neg hcred]
  have hkernels := (mailed_answerCore (submissionTaken s src die p w) (schedOf s die) tok p (wd ((s.chip * 2 ^ 22 + s.kidNext) * 2 ^ 32))).keeps State.kernels
  refine ⟨hinbox _ _ htown, ((mailed_answerCore ..).keeps State.mem).trans htmem, fun hb => absurd hb hbad, fun _ hc => absurd hc hcred, fun _ _ =>
    ⟨hanswer _ _ htchip fun a b => htother a b 4 (by decide), ?_⟩⟩
  rw [hkernels]
  have hlength := congrArg List.length hnames
  have hmem : (s.chip * 2 ^ 22 + s.kidNext, p.cid) ∈ kernelNames (submissionTaken s src die p w) := hnames ▸ List.mem_append_right _ (List.mem_singleton.mpr rfl)
  obtain ⟨k, hk, hname⟩ := List.mem_map.mp hmem
  refine ⟨?_, k, hk, congrArg Prod.fst hname, congrArg Prod.snd hname⟩
  simpa [kernelNames] using hlength

/-- Settles O23, from what each of the scheduler's steps leaves of the kernels, of the events and of the channels. -/
theorem submissionsAndEvents : Obligations.SubmissionsAndEvents := by
  unfold Obligations.SubmissionsAndEvents
  intro s die src p rest
  refine ⟨kernelAccept_none, fun u hu => ?_, fun w tok hhead hbody hwhole heng hred hknown hchip hjob => ?_,
    fun q mask clr hhead hbody hwhole heng hred hq hknown => ?_, liveCountReport_none, fun r rs k h hk hchip => liveCountReport_spec h hk hchip,
    fun core => ⟨liveCountAck_none, fun a ha => ?_⟩⟩
  · exact fun hjob hnew => ⟨fun k hread => kernelAccept_good_spec hu hread hnew hjob, fun hread => kernelAccept_bad_spec hu hread hnew⟩
  · exact ksubArrive_spec ⟨hhead, hwhole, heng, hred, hknown⟩ hbody hchip hjob
  · have hreq : Requests s src die p rest := ⟨hhead, hwhole, heng, hred, hknown⟩
    refine ⟨fun hholds => ?_, fun hholds hhome => setevApply_other_spec hreq hbody hholds hhome⟩
    obtain ⟨t, hexec, hinbox, hmem, hsame, hother, hready⟩ := setevApply_holder_spec hreq hbody hq hholds
    exact ⟨t, hexec, hinbox, hmem, hsame, fun i _ hi => hother i hi, hready⟩
  · by_cases hid : a / 2048 = (coreOf s core).rptId
    · obtain ⟨t, hexec, hacks, hmem, hcore, hothers⟩ := liveCountAck_heard ha hid
      exact ⟨t, hexec, hacks, hothers, hmem, fun hne => absurd hid hne, fun _ => by rw [hcore]; exact ⟨rfl, rfl⟩⟩
    · exact ⟨_, liveCountAck_late ha hid, rfl, fun _ _ => rfl, rfl, fun _ => rfl, fun he => absurd he hid⟩

end Sys2Proof.Machine
end

section
/-! ### JCAN_APPLY and JCAN_COMPLETE (05 R101; 06 R118; 20 R348) -/

namespace Sys2Proof.Machine

/-! #### Maps and filters -/

theorem mem_mput_self {α : Type} (m : SMap α) (a : Nat) (v : α) : (a, v) ∈ mput m a v := mem_of_mget (mget_mput_same m a v)

/-- What a map lists, it lists after an entry too, unless it is what the key's value was. -/
theorem mem_mput_of_mem {α : Type} {m : SMap α} {p : Nat × α} (a : Nat) (v : α) (h : p ∈ m) : p ∈ mput m a v ∨ p.1 = a ∧ mget m a = some p.2 := by
  induction m with
  | nil => cases h
  | cons q m ih =>
    obtain ⟨b, w⟩ := q
    rw [mput, mget]
    by_cases hlt : a < b
    · rw [if_pos hlt]
      exact .inl (List.mem_cons_of_mem _ h)
    by_cases heq : a = b
    · rw [if_neg hlt, if_pos heq, if_pos heq.symm]
      rcases List.mem_cons.mp h with rfl | h
      · exact .inr ⟨heq.symm, rfl⟩
      · exact .inl (List.mem_cons_of_mem _ h)
    · rw [if_neg hlt, if_neg heq, if_neg (Ne.symm heq)]
      rcases List.mem_cons.mp h with rfl | h
      · exact .inl List.mem_cons_self
      · exact (ih h).imp_left (List.mem_cons_of_mem _)

/-- An update that a test does not see, of a map whose default does not pass it, leaves the test of the whole map as it was. -/
theorem any_mupd {α : Type} (m : SMap α) (a : Nat) {d : α} {f : α → α} {P : Nat × α → Bool} (hf : ∀ x, P (a, f x) = P (a, x)) (hd : P (a, d) = false) :
    (mupd m a d f).any P = m.any P := by
  refine Bool.eq_iff_iff.mpr (List.any_eq_true.trans (Iff.trans ⟨?_, ?_⟩ List.any_eq_true.symm))
  · rintro ⟨p, hp, hpass⟩
    rcases mem_mput hp with rfl | hp
    · rw [hf, mgetD] at hpass
      cases hval : mget m a with
      | none => rw [hval] at hpass; exact absurd hpass (by simp [hd])
      | some v => rw [hval] at hpass; exact ⟨(a, v), mem_of_mget hval, hpass⟩
    · exact ⟨p, hp, hpass⟩
  · rintro ⟨p, hp, hpass⟩
    rcases mem_mput_of_mem a (f (mgetD m a d)) hp with hp | ⟨rfl, hval⟩
    · exact ⟨p, hp, hpass⟩
    · refine ⟨_, mem_mput_self m p.1 _, ?_⟩
      rw [hf, mgetD, hval]
      exact hpass

/-- The partition that a core serves depends on the partitions, on its residents, and on their contexts. -/
theorem corePart_congr {s t : State} (hparts : t.parts = s.parts) (hctxs : t.ctxs = s.ctxs) {c : Nat} (hslots : (coreOf t c).slots = (coreOf s c).slots) :
    corePart t c = corePart s c := by
  simp only [corePart, pairPart, ctxOf, hparts, hctxs, hslots]

/-- What is neither a core's filter nor its residents changes nothing of whether a job finds its places. -/
theorem filtersFull_updCore {s : State} (c : Nat) {f : Core → Core} (hcancel : ∀ k, (f k).cancel = k.cancel) (hslots : ∀ k, (f k).slots = k.slots) (cid : Nat) :
    filtersFull (updCore s c f) cid = filtersFull s cid := by
  have hpart : ∀ x, corePart (updCore s c f) x = corePart s x := by
    refine fun x => corePart_congr (s := s) (t := updCore s c f) rfl rfl ?_
    rw [coreOf_updCore]
    split
    · exact hslots _
    · rfl
  simp only [filtersFull, hpart]
  refine any_mupd s.cores c (fun k => ?_) ?_
  · simp only [hcancel]
  · simp

theorem Requests.filtersFull {s : State} {src die : Nat} {p : Packet} {rest : List Packet} (h : Requests s src die p rest) (cid : Nat) :
    filtersFull (requestTaken s src die p) cid = Machine.filtersFull s cid := by
  obtain ⟨d, f, hm⟩ | ⟨c, hm⟩ | hm := markApplied_cases h.notEng h.notRed (chanPop s src (schedOf s die) 2) src (schedOf s die)
  · rw [requestTaken, hm]
    rfl
  · rw [requestTaken, hm]
    exact filtersFull_updCore (f := effectApplied p.tok (schedOf s die)) c (fun _ => rfl) (fun _ => rfl) cid
  · rw [requestTaken, hm]
    rfl

/-! #### A cancel on this chip -/

/-- What a cancel's work at the cores and at the dispatchers leaves: the kernels, the operations, the memory, and each die's cancelled jobs. -/
structure Withdrawn (s t : State) : Prop where
  kernels : t.kernels = s.kernels
  ops : t.ops = s.ops
  mem : t.mem = s.mem
  jobs : ∀ d, (dieAt t d).cancelJobs = (dieAt s d).cancelJobs

theorem Withdrawn.refl (s : State) : Withdrawn s s := ⟨rfl, rfl, rfl, fun _ => rfl⟩

theorem Withdrawn.trans {s t u : State} (h : Withdrawn s t) (h' : Withdrawn t u) : Withdrawn s u :=
  ⟨h'.kernels.trans h.kernels, h'.ops.trans h.ops, h'.mem.trans h.mem, fun d => (h'.jobs d).trans (h.jobs d)⟩

theorem withdrawn_foldl {α : Type} {f : State → α → State} (hf : ∀ s a, Withdrawn s (f s a)) (as : List α) : ∀ s, Withdrawn s (as.foldl f s) := by
  induction as with
  | nil => exact .refl
  | cons a as ih => exact fun s => (hf s a).trans (ih _)

theorem Mailed.withdrawn {s t : State} (h : Mailed s t) : Withdrawn s t :=
  ⟨h.keeps State.kernels, h.keeps State.ops, h.keeps State.mem, fun d => h.keeps fun t => (dieAt t d).cancelJobs⟩

theorem withdrawn_updDisp (s : State) (die : Nat) (f : Dispatcher → Dispatcher) : Withdrawn s (updDisp s die f) :=
  ⟨rfl, rfl, rfl, fun d => dieAt_updDie_keeps Die.cancelJobs (g := fun x => { x with disp := f x.disp }) (fun _ => rfl) s die d⟩

theorem withdrawn_report (s : State) (kid : Nat) (delta : Int) (ackTo : Option Nat) : Withdrawn s (report s kid delta ackTo) := by
  unfold report
  split
  · exact .refl s
  · exact ⟨rfl, rfl, rfl, fun _ => rfl⟩

theorem mailed_lockSend (s : State) (die : Nat) (t : Task) (at_ : Nat × Nat × Nat) (locks : List (Nat × Bool)) (kind : Nat) (compound : Bool) :
    Mailed s (lockSend s die t at_ locks kind compound) := by
  unfold lockSend
  exact mailed_emit s _

theorem withdrawn_lockSends (s : State) (die : Nat) (t : Task) (kind : Nat) (l : List ((Nat × Nat × Nat) × List (Nat × Bool))) :
    Withdrawn s (l.foldl (fun s x => lockSend s die t x.1 x.2 kind false) s) := by
  have h := mailed_foldl (f := fun s (x : (Nat × Nat × Nat) × List (Nat × Bool)) => lockSend s die t x.1 x.2 kind false) (fun _ _ => by exact mailed_lockSend ..) l s
  exact h.withdrawn

theorem withdrawn_releaseLocks (s : State) (die : Nat) (t : Task) (l : List (Nat × Bool)) : Withdrawn s (releaseLocks s die t l) := by
  unfold releaseLocks
  split
  · exact withdrawn_lockSends ..
  · exact .refl s

theorem withdrawn_liftStakes (s : State) (die : Nat) (t : Task) : Withdrawn s (liftStakes s die t) := by
  unfold liftStakes
  split
  · exact (withdrawn_lockSends ..).trans ((withdrawn_updDisp ..).trans (withdrawn_updDisp ..))
  · exact withdrawn_updDisp ..
  · exact .refl s

/-- A task's locks and stakes withdrawn. -/
def taskWithdrawn (s : State) (die : Nat) (t : Task) : State := liftStakes (releaseLocks s die t t.granted) die t

/-- A task cancelled in the window. -/
def taskCancelled (s : State) (die : Nat) (t : Task) : State :=
  report (dropTask (if t.granted = [] then taskWithdrawn s die t else noteRelease (taskWithdrawn s die t) die t.cid t.inc t.reg) die t.age) t.kernel (-1) none

theorem withdrawn_taskCancelled (s : State) (die : Nat) (t : Task) : Withdrawn s (taskCancelled s die t) := by
  refine .trans ?_ ((withdrawn_updDisp ..).trans (withdrawn_report ..))
  have htask : Withdrawn s (taskWithdrawn s die t) := (withdrawn_releaseLocks ..).trans (withdrawn_liftStakes ..)
  split
  · exact htask
  · exact htask.trans (withdrawn_updDisp ..)

theorem withdrawn_cancelAt (s : State) (die cid job : Nat) : Withdrawn s (cancelAt s die cid job) := by
  unfold cancelAt
  refine ((withdrawn_foldl (withdrawn_taskCancelled · die) _ s).trans (withdrawn_foldl (fun s w => ?_) _ _)).trans (withdrawn_foldl (fun s c => ?_) _ _)
  · exact (withdrawn_updDisp ..).trans (withdrawn_report ..)
  · refine (withdrawn_updDisp s die fun d => { d with cursors := d.cursors.erase c }).trans ?_
    dsimp only
    split
    · exact .refl _
    · exact withdrawn_report ..

/-- A kernel of an identifier is CANCELLED. -/
def KernelCancelled (s : State) (kid : Nat) : Prop := ∃ k ∈ s.kernels, k.kid = kid ∧ k.state = 4

/-- What a cancel keeps where it also takes kernels from the queue: their names, and those that are CANCELLED already. -/
structure Cancels (s t : State) : Prop where
  names : kernelNames t = kernelNames s
  cancelled : ∀ kid, KernelCancelled s kid → KernelCancelled t kid
  ops : t.ops = s.ops
  mem : t.mem = s.mem
  jobs : ∀ d, (dieAt t d).cancelJobs = (dieAt s d).cancelJobs

theorem Cancels.refl (s : State) : Cancels s s := ⟨rfl, fun _ h => h, rfl, rfl, fun _ => rfl⟩

theorem Cancels.trans {s t u : State} (h : Cancels s t) (h' : Cancels t u) : Cancels s u :=
  ⟨h'.names.trans h.names, fun kid hk => h'.cancelled kid (h.cancelled kid hk), h'.ops.trans h.ops, h'.mem.trans h.mem,
    fun d => (h'.jobs d).trans (h.jobs d)⟩

theorem Withdrawn.cancels {s t : State} (h : Withdrawn s t) : Cancels s t := by
  refine ⟨?_, fun kid hk => ?_, h.ops, h.mem, h.jobs⟩
  · rw [kernelNames, h.kernels, kernelNames]
  · rw [KernelCancelled, h.kernels]
    exact hk

/-- A queued kernel that is cancelled. -/
def kernelCancelled (k : Kernel) : Kernel := { k with state := 4, todo := [] }

/-- An update that keeps names and CANCELLED kernels. -/
theorem cancels_updKernel (s : State) (kid : Nat) {f : Kernel → Kernel} (hname : ∀ k, (f k).kid = k.kid ∧ (f k).cid = k.cid)
    (hstate : ∀ k, k.state = 4 → (f k).state = 4) : Cancels s (updKernel s kid f) := by
  refine ⟨kernelNames_updKernel s kid hname, ?_, rfl, rfl, fun _ => rfl⟩
  rintro x ⟨k, hk, hkid, hdone⟩
  refine ⟨_, List.mem_map_of_mem hk, ?_⟩
  split
  · exact ⟨(hname k).1.trans hkid, hstate k hdone⟩
  · exact ⟨hkid, hdone⟩

theorem cancels_freeEntry (s : State) (k : Kernel) : Cancels s (freeEntry s k) := by
  have hjobs := dieAt_freeEntry Die.cancelJobs (fun _ _ => rfl) s k
  unfold freeEntry at hjobs ⊢
  split
  next hq =>
    simp only [hq, if_true] at hjobs
    have h := cancels_updKernel (updDie s k.die fun d => { d with cred := mput d.cred k.cid (min 64 (credOf s k.die k.cid + 1)) }) k.kid
      (f := fun x => { x with qentry := false }) (fun _ => ⟨rfl, rfl⟩) fun _ h => h
    exact ⟨h.names, h.cancelled, rfl, rfl, hjobs⟩
  next => exact .refl s

theorem Signals.cancels {s t : State} {die : Nat} (h : Signals s t die) : Cancels s t := by
  obtain ⟨g, hg, hkernels⟩ := h.kernels
  refine ⟨kernelNames_map hkernels hg.names, ?_, h.keeps State.ops, h.keeps State.mem, fun d => h.keeps fun t => (dieAt t d).cancelJobs⟩
  rintro x ⟨k, hk, hkid, hstate⟩
  refine ⟨k, ?_, hkid, hstate⟩
  rw [hkernels, ← hg.fixes (k := k) (by rw [hstate]; decide)]
  exact List.mem_map_of_mem hk

/-- A queued kernel cancelled: its entry freed, and its SMASK applied where this chip's scheduler has it. -/
def queuedCancelled (s : State) (k : Kernel) : State :=
  if kernelChip k.kid = (updKernel (freeEntry s k) k.kid kernelCancelled).chip then applySmask (updKernel (freeEntry s k) k.kid kernelCancelled) k
  else updKernel (freeEntry s k) k.kid kernelCancelled

theorem cancels_queuedCancelled (s : State) (k : Kernel) : Cancels (updKernel (freeEntry s k) k.kid kernelCancelled) (queuedCancelled s k) := by
  unfold queuedCancelled
  split
  · exact (signals_applySmask ..).cancels
  · exact .refl _

/-- It keeps what a cancel keeps, and the kernel is CANCELLED. -/
theorem queuedCancelled_spec (s : State) (k : Kernel) :
    Cancels s (queuedCancelled s k) ∧ ((k.kid, k.cid) ∈ kernelNames s → KernelCancelled (queuedCancelled s k) k.kid) := by
  have hrest := cancels_queuedCancelled s k
  have hfree := cancels_freeEntry s k
  refine ⟨(hfree.trans (cancels_updKernel (f := kernelCancelled) _ _ (fun _ => ⟨rfl, rfl⟩) fun _ _ => rfl)).trans hrest, fun hname => hrest.cancelled _ ?_⟩
  rw [← hfree.names] at hname
  obtain ⟨x, hx, hxname⟩ := List.mem_map.mp hname
  have hkid : x.kid = k.kid := congrArg Prod.fst hxname
  exact ⟨kernelCancelled x, List.mem_map.mpr ⟨x, hx, if_pos hkid⟩, hkid, rfl⟩

theorem cancels_queued (ks : List Kernel) : ∀ s : State, Cancels s (ks.foldl queuedCancelled s) ∧
    ((∀ k ∈ ks, (k.kid, k.cid) ∈ kernelNames s) → ∀ k ∈ ks, KernelCancelled (ks.foldl queuedCancelled s) k.kid) := by
  induction ks with
  | nil => exact fun s => ⟨.refl s, fun _ _ h => absurd h List.not_mem_nil⟩
  | cons k ks ih =>
    intro s
    obtain ⟨hstep, hdone⟩ := queuedCancelled_spec s k
    obtain ⟨hrest, hothers⟩ := ih (queuedCancelled s k)
    refine ⟨hstep.trans hrest, fun hnames x hx => ?_⟩
    rcases List.mem_cons.mp hx with rfl | hx
    · exact hrest.cancelled _ (hdone (hnames x List.mem_cons_self))
    · exact hothers (fun y hy => hstep.names ▸ hnames y (List.mem_cons_of_mem _ hy)) x hx

/-- A job entered with both dies (05 R101 step 1). -/
def jobEntered (s : State) (cid job : Nat) : State :=
  updDie (updDie s 0 fun d => { d with cancelJobs := addTo (cid, job) d.cancelJobs }) 1 fun d => { d with cancelJobs := addTo (cid, job) d.cancelJobs }

/-- The cancel filters of a context's cores entered. -/
def filtersEntered (s : State) (cid job part : Nat) : State :=
  (jobEntered s cid job).cores.foldl (fun s kv => if corePart s kv.1 = some part then updCore s kv.1 (filterAdd job) else s) (jobEntered s cid job)

/-- The job's queued kernels. -/
def queuedOf (s : State) (cid job : Nat) : List Kernel := s.kernels.filter fun k => decide (k.cid = cid ∧ k.job = job ∧ k.state ≤ 1)

theorem cancelJob_eq (s : State) (cid job : Nat) : cancelJob s cid job =
    cancelAt (cancelAt ((queuedOf (filtersEntered s cid job (ctxPart (ctxOf s cid))) cid job).foldl queuedCancelled
      (filtersEntered s cid job (ctxPart (ctxOf s cid)))) 0 cid job) 1 cid job := rfl

theorem withdrawn_filtersEntered (s : State) (cid job part : Nat) : Withdrawn (jobEntered s cid job) (filtersEntered s cid job part) := by
  refine withdrawn_foldl (fun s kv => ?_) _ _
  split
  · exact ⟨rfl, rfl, rfl, fun _ => rfl⟩
  · exact .refl s

theorem mem_addTo_iff {α : Type} [DecidableEq α] {a x : α} {l : List α} : x ∈ addTo a l ↔ x = a ∨ x ∈ l := by
  unfold addTo
  split
  next h => exact ⟨.inr, fun hx => hx.elim (fun e => e ▸ h) id⟩
  next => simp [or_comm]

theorem jobEntered_both (s : State) (cid job d : Nat) : (cid, job) ∈ (dieAt (jobEntered s cid job) d).cancelJobs := by
  rcases Nat.mod_two_eq_zero_or_one d with h | h
  · rw [dieAt_of_mod _ (e := 0) h, jobEntered, updDie, dieAt_setDie_other _ _ _ _ (by decide), dieAt_updDie_same]
    exact mem_addTo_iff.mpr (.inl rfl)
  · rw [dieAt_of_mod _ (e := 1) h, jobEntered, dieAt_updDie_same]
    exact mem_addTo_iff.mpr (.inl rfl)

/-- A cancel enters the job with both dies, and sends its queued kernels to CANCELLED. -/
theorem cancelJob_spec (s : State) (cid job : Nat) :
    (cancelJob s cid job).ops = s.ops ∧ (cancelJob s cid job).mem = s.mem ∧ (∀ d, (cid, job) ∈ (dieAt (cancelJob s cid job) d).cancelJobs) ∧
      ∀ k ∈ s.kernels, k.cid = cid → k.job = job → k.state ≤ 1 → KernelCancelled (cancelJob s cid job) k.kid := by
  have hfilters := withdrawn_filtersEntered s cid job (ctxPart (ctxOf s cid))
  obtain ⟨hqueued, hdone⟩ := cancels_queued (queuedOf (filtersEntered s cid job (ctxPart (ctxOf s cid))) cid job) (filtersEntered s cid job (ctxPart (ctxOf s cid)))
  have hafter := (withdrawn_cancelAt ((queuedOf (filtersEntered s cid job (ctxPart (ctxOf s cid))) cid job).foldl queuedCancelled
    (filtersEntered s cid job (ctxPart (ctxOf s cid)))) 0 cid job).trans (withdrawn_cancelAt _ 1 cid job)
  have hall := (hfilters.cancels.trans hqueued).trans hafter.cancels
  rw [cancelJob_eq]
  refine ⟨hall.ops, hall.mem, fun d => ?_, fun k hk hcid hjob hstate => hafter.cancels.cancelled _ ?_⟩
  · rw [hall.jobs]
    exact jobEntered_both ..
  · refine hdone (fun x hx => List.mem_map_of_mem (List.mem_filter.mp hx).1) k (List.mem_filter.mpr ⟨?_, decide_eq_true ⟨hcid, hjob, hstate⟩⟩)
    rw [hfilters.kernels]
    exact hk

end Sys2Proof.Machine
end

section
/-! ### Cancelling a job (05 R101; 20 R348) -/

namespace Sys2Proof.Machine

/-! #### JCAN_APPLY -/

section
variable {s : State} {src die job tok : Nat} {p : Packet} {rest : List Packet}

/-- The operation that waits for a cancel's end. -/
def cancelOp (s : State) (p : Packet) (job tok : Nat) : Op :=
  { tok := s.opNext, kind := 4, core := agCore p.src, cid := p.cid, left := spanOthers s p.cid, arg := job, arg2 := tok, sample := p.inc }

/-- A package whose cancel is under way, before it acts. -/
def cancelBegun (s : State) (o : Op) : State := { s with ops := s.ops ++ [o], opNext := s.opNext + 1 }

/-- A cancel that acts here and is passed on to the span's other chips. -/
def cancelPassed (s : State) (die : Nat) (p : Packet) (job tok : Nat) : State :=
  (spanOthers s p.cid).foldl (fun t c =>
    emit t { src := fabOf t die, dst := c * 65536 + fabOf t 0 % 65536, cls := 7, op := 0x21, cid := p.cid, inc := p.inc, len := 1, body := .mgmt 1 job })
    (cancelJob (cancelBegun s (cancelOp s p job tok)) p.cid job)

theorem jcanApply_eq (h : Requests s src die p rest) (hbody : p.body = .jcan job tok) : exec (.jcanApply src die) s = .next (
    if filtersFull s p.cid then answerCore (requestTaken s src die p) (schedOf s die) p tok 1 else cancelPassed (requestTaken s src die p) die p job tok) := by
  have hfull : filtersFull (markApplied (chanPop s src (schedOf s die) 2) src p.tok (schedOf s die)) p.cid = filtersFull s p.cid := h.filtersFull p.cid
  change execJcanApply src die s = _
  simp only [execJcanApply, h.head, hbody, h.known, h.whole, hfull, Bool.not_true, Bool.false_eq_true, if_false]
  split <;> rfl

/-- With every place of a filter in use, BUSY is answered. -/
theorem jcanApply_busy (h : Requests s src die p rest) (hbody : p.body = .jcan job tok) (hchip : agChip p.src = s.chip) (hfull : filtersFull s p.cid = true) :
    ∃ t : State, exec (.jcanApply src die) s = .next t ∧ chanQ t src (schedOf s die) 2 = rest ∧
      Stated.Sent s t (schedOf s die) p.src 4 (.rdata tok 1 false) ∧ t.kernels = s.kernels ∧ t.ops = s.ops ∧ t.mem = s.mem := by
  have hmail := mailed_answerCore (requestTaken s src die p) (schedOf s die) tok p 1
  refine ⟨_, (jcanApply_eq h hbody).trans (congrArg _ (if_pos hfull)), ?_, ?_, ?_, ?_, ?_⟩
  · exact (chanQ_answerCore (by decide) ..).trans h.chanQ_own
  · exact sent_answerCore (hchip.trans (h.keeps State.chip).symm) (h.chanQ_other (by decide)) 1
  · exact (hmail.keeps State.kernels).trans (h.keeps State.kernels)
  · exact (hmail.keeps State.ops).trans (h.keeps State.ops)
  · exact (hmail.keeps State.mem).trans (h.keeps State.mem)

/-- Else the cancel takes effect here, and an operation waits for its end. -/
theorem jcanApply_cancels (h : Requests s src die p rest) (hbody : p.body = .jcan job tok) (hroom : filtersFull s p.cid = false) :
    ∃ (t : State) (o : Op), exec (.jcanApply src die) s = .next t ∧ o ∈ t.ops ∧ o.kind = 4 ∧ o.cid = p.cid ∧ o.arg = job ∧ o.arg2 = tok ∧ o.org = none ∧
      o.left = spanOthers s p.cid ∧ (∀ d, (p.cid, job) ∈ (dieAt t d).cancelJobs) ∧
      (∀ k ∈ s.kernels, k.cid = p.cid → k.job = job → k.state ≤ 1 → ∃ k' ∈ t.kernels, k'.kid = k.kid ∧ k'.state = 4) ∧ t.mem = s.mem := by
  have hmail : Mailed (cancelJob (cancelBegun (requestTaken s src die p) (cancelOp (requestTaken s src die p) p job tok)) p.cid job)
      (cancelPassed (requestTaken s src die p) die p job tok) := mailed_foldl (fun _ _ => mailed_emit ..) _ _
  obtain ⟨hops, hmem, hjobs, hqueued⟩ := cancelJob_spec (cancelBegun (requestTaken s src die p) (cancelOp (requestTaken s src die p) p job tok)) p.cid job
  refine ⟨_, cancelOp (requestTaken s src die p) p job tok, (jcanApply_eq h hbody).trans (congrArg _ (if_neg (by simp [hroom]))), ?_, rfl, rfl, rfl, rfl, rfl,
    h.keeps fun t => spanOthers t p.cid, fun d => ?_, fun k hk hcid hjob hstate => ?_, ?_⟩
  · rw [hmail.keeps State.ops, hops]
    exact List.mem_append_right _ (List.mem_singleton.mpr rfl)
  · rw [hmail.keeps fun t => dieAt t d]
    exact hjobs d
  · rw [hmail.keeps State.kernels]
    exact hqueued k ((h.keeps State.kernels).symm ▸ hk) hcid hjob hstate
  · exact (hmail.keeps State.mem).trans (hmem.trans (h.keeps State.mem))

end

/-! #### JCAN_COMPLETE -/

section
variable {s : State} {op : Nat} {o : Op}

/-- What a cancel still waits for: another chip, a live activation of the job, or a report of one that has not been counted yet. -/
def CancelWaits (s : State) (o : Op) : Prop :=
  o.left ≠ [] ∨ (∃ k ∈ s.kernels, k.cid = o.cid ∧ k.job = o.arg ∧ k.live ≠ 0) ∨
    (∃ r ∈ s.reports, ∃ k, kernelOf s r.kernel = some k ∧ k.cid = o.cid ∧ k.job = o.arg)

/-- A job's entry of a filter is complete. -/
def filterComplete (job : Nat) (k : Core) : Core := { k with cancel := k.cancel.map fun e => if e.1 = job then (e.1, true) else e }

/-- The job's entries of the filters of a partition's cores complete, core by core. -/
def filtersComplete (part job : Nat) (s : State) (kv : Nat × Core) : State := if corePart s kv.1 = some part then updCore s kv.1 (filterComplete job) else s

/-- The answer to the core that asked. -/
def cancelAnswer (s : State) (o : Op) : Packet :=
  { src := schedOf s (dieOf o.core), dst := niOf s o.core, cls := 4, op := 0x10, cid := o.cid, inc := o.sample, len := 1, body := .rdata o.arg2 0 false }

/-- A cancel's operation over, and the filters' entries complete. -/
def cancelOver (s : State) (o : Op) : State := s.cores.foldl (filtersComplete (ctxPart (ctxOf s o.cid)) o.arg) { s with ops := s.ops.erase o }

theorem cancelWaits_iff (s : State) (o : Op) : CancelWaits s o ↔
    (o.left ≠ [] ∨ (s.kernels.any fun k => decide (k.cid = o.cid ∧ k.job = o.arg ∧ k.live ≠ 0)) = true ∨
    (s.reports.any fun r => (kernelOf s r.kernel).any fun k => decide (k.cid = o.cid ∧ k.job = o.arg)) = true) := by
  simp [CancelWaits, Option.any_eq_true]

theorem jcanComplete_waits (hop : s.ops.find? (fun o => decide (o.tok = op ∧ o.kind = 4)) = some o) (h : CancelWaits s o) : exec (.jcanComplete op) s = .next s := by
  change execJcanComplete op s = _
  simp only [execJcanComplete, hop]
  exact if_pos ((cancelWaits_iff s o).mp h)

theorem jcanComplete_ends (hop : s.ops.find? (fun o => decide (o.tok = op ∧ o.kind = 4)) = some o) (h : ¬ CancelWaits s o) (horg : o.org = none) :
    exec (.jcanComplete op) s = .next (emit (cancelOver s o) (cancelAnswer (cancelOver s o) o)) := by
  change execJcanComplete op s = _
  simp only [execJcanComplete, hop, horg]
  exact if_neg fun hw => h ((cancelWaits_iff s o).mpr hw)

theorem corePart_filtersComplete (part job : Nat) (s : State) (kv : Nat × Core) (c : Nat) : corePart (filtersComplete part job s kv) c = corePart s c := by
  unfold filtersComplete
  split
  · refine corePart_congr (s := s) (t := updCore s kv.1 (filterComplete job)) rfl rfl ?_
    rw [coreOf_updCore]
    split <;> rfl
  · rfl

theorem not_mem_filterComplete (job : Nat) (k : Core) : (job, false) ∉ (filterComplete job k).cancel := by
  intro h
  obtain ⟨e, -, he⟩ := List.mem_map.mp h
  split at he
  · cases he
  next hne => exact hne (congrArg Prod.fst he)

/-- No incomplete entry of the job comes back. -/
theorem filtersComplete_keeps (part job : Nat) (s : State) (kv : Nat × Core) {c : Nat} (h : (job, false) ∉ (coreOf s c).cancel) :
    (job, false) ∉ (coreOf (filtersComplete part job s kv) c).cancel := by
  unfold filtersComplete
  split
  · rw [coreOf_updCore]
    split
    · exact not_mem_filterComplete job _
    · exact h
  · exact h

theorem foldl_filtersComplete (part job : Nat) (l : List (Nat × Core)) : ∀ s : State,
    (∃ cores, l.foldl (filtersComplete part job) s = { s with cores := cores }) ∧
    (∀ c, (job, false) ∉ (coreOf s c).cancel → (job, false) ∉ (coreOf (l.foldl (filtersComplete part job) s) c).cancel) ∧
    ∀ kv ∈ l, corePart s kv.1 = some part → (job, false) ∉ (coreOf (l.foldl (filtersComplete part job) s) kv.1).cancel := by
  induction l with
  | nil => exact fun s => ⟨⟨_, rfl⟩, fun _ h => h, fun _ h => absurd h List.not_mem_nil⟩
  | cons x l ih =>
    intro s
    obtain ⟨⟨cores, honly⟩, hkeep, hdone⟩ := ih (filtersComplete part job s x)
    refine ⟨⟨cores, ?_⟩, fun c hc => hkeep c (filtersComplete_keeps part job s x hc), fun kv hkv hpart => ?_⟩
    · rw [List.foldl_cons, honly, filtersComplete]
      split <;> rfl
    · rcases List.mem_cons.mp hkv with rfl | hkv
      · refine hkeep _ ?_
        rw [filtersComplete, if_pos hpart, coreOf_updCore_same]
        exact not_mem_filterComplete job _
      · exact hdone kv hkv ((corePart_filtersComplete ..).trans hpart)

theorem agChip_niOf {c : Nat} (h : dieOf c < 2) (s : State) : agChip (niOf s c) = s.chip := by
  have hagent : agentOf c < 1024 := by unfold agentOf; omega
  rw [agChip, niOf, agentId]
  split
  · omega
  · split <;> omega

/-- With nothing to wait for, the core that asked is answered, and the filters' entries are complete. -/
theorem jcanComplete_spec (hop : s.ops.find? (fun o => decide (o.tok = op ∧ o.kind = 4)) = some o) (h : ¬ CancelWaits s o) (horg : o.org = none)
    (hdie : dieOf o.core < 2) :
    ∃ t : State, exec (.jcanComplete op) s = .next t ∧ t.ops = s.ops.erase o ∧
      Stated.Sent s t (schedOf s (dieOf o.core)) (niOf s o.core) 4 (.rdata o.arg2 0 false) ∧
      (∀ kv ∈ s.cores, corePart s kv.1 = some (ctxPart (ctxOf s o.cid)) → (o.arg, false) ∉ (coreOf t kv.1).cancel) ∧ t.mem = s.mem := by
  obtain ⟨⟨cores, honly⟩, -, hdone⟩ := foldl_filtersComplete (ctxPart (ctxOf s o.cid)) o.arg s.cores { s with ops := s.ops.erase o }
  have hover : cancelOver s o = { s with ops := s.ops.erase o, cores := cores } := honly
  have hmail := mailed_emit (cancelOver s o) (cancelAnswer (cancelOver s o) o)
  refine ⟨_, jcanComplete_ends hop h horg, ?_, ⟨cancelAnswer s o, ?_, rfl, rfl, rfl, rfl⟩, fun kv hkv hpart => ?_, ?_⟩
  · rw [hmail.keeps State.ops, hover]
  · have hsent := chanQ_emit_own (s := cancelOver s o) (p := cancelAnswer (cancelOver s o) o) (agChip_niOf hdie _)
    rw [hover] at hsent ⊢
    exact hsent
  · rw [hmail.keeps fun t => coreOf t kv.1]
    exact hdone kv hkv hpart
  · rw [hmail.keeps State.mem, hover]

end

/-- Settles O29: JCAN_APPLY by what a cancel does to filters, dies and kernels; JCAN_COMPLETE by what it waits for. -/
theorem jobCancel : Obligations.JobCancel := by
  unfold Obligations.JobCancel
  intro s src die p rest job tok
  refine ⟨fun hhead hbody hwhole heng hred hknown hchip => ?_, fun op o hop => ⟨jcanComplete_waits hop, fun hleft hlive hreports horg hdie => ?_⟩⟩
  · have hreq : Requests s src die p rest := ⟨hhead, hwhole, heng, hred, hknown⟩
    exact ⟨jcanApply_busy hreq hbody hchip, jcanApply_cancels hreq hbody⟩
  · refine jcanComplete_spec hop ?_ horg hdie
    rintro (hw | ⟨k, hk, hcid, hjob, hne⟩ | ⟨r, hr, k, hk, hcid, hjob⟩)
    · exact hw hleft
    · exact hne (hlive k hk hcid hjob)
    · exact hreports r hr k hk hcid hjob

end Sys2Proof.Machine
end

section
/-! ### Queues, and what a core is when an activation starts (05 R91; 07 R127, R128) -/

namespace Sys2Proof.Machine

/-! #### Queues -/

theorem queueOf_setQueue_same (t : Slot) (n : Nat) (q : HQueue) : queueOf (setQueue t n q) n = q := by simp [queueOf, setQueue]

theorem slotOf_updSlot_same (k : Core) (n : Nat) (f : Slot → Slot) : slotOf (updSlot k n f) n = f (slotOf k n) := slotOf_setSlot_same ..

/-- A queue whose head is taken. -/
def headTaken (q : HQueue) : HQueue := { q with msgs := q.msgs.tail }

/-- A core with a queue changed. -/
def withQueue (slot qn : Nat) (f : HQueue → HQueue) (k : Core) : Core := updSlot k slot fun t => setQueue t qn (f (queueOf t qn))

theorem queueOf_withQueue (slot qn : Nat) (f : HQueue → HQueue) (k : Core) :
    queueOf (slotOf (withQueue slot qn f k) slot) qn = f (queueOf (slotOf k slot) qn) := by
  rw [withQueue, slotOf_updSlot_same, queueOf_setQueue_same]

/-- Nothing of a slot but its queues changes. -/
theorem slotOf_withQueue {β : Type} (φ : Slot → β) (hφ : ∀ t qs, φ { t with queues := qs } = φ t) (slot qn : Nat) (f : HQueue → HQueue) (k : Core) :
    φ (slotOf (withQueue slot qn f k) slot) = φ (slotOf k slot) := by
  rw [withQueue, slotOf_updSlot_same]
  exact hφ _ _

/-- A core's step takes the head of one of its queues. -/
def headPopped (s : State) (c slot qn : Nat) : State := updCore s c (withQueue slot qn headTaken)

theorem coreOf_headPopped (s : State) (c slot qn : Nat) : coreOf (headPopped s c slot qn) c = withQueue slot qn headTaken (coreOf s c) := coreOf_updCore_same ..

/-! #### An activation's start -/

section
variable {s : State} {c slot qn : Nat} {m : QMsg} {r : Resident} {gang crew : Option Nat} {fromQ : Bool}

/-- The activation of a message that a resident has got. -/
def actFor (slot qn : Nat) (m : QMsg) (r : Resident) (gang : Option Nat) (fromQ : Bool) : Act :=
  { slot := slot, queue := qn, handler := m.hdr.handler, msg := m, cid := r.cid, inc := r.inc, rank := r.rank,
    e6 := if m.hdr.mkind ≤ 2 ∨ m.hdr.mkind = 8 then 0 else wd m.hdr.x6, e7 := if m.hdr.mkind = 5 then wd m.hdr.x7 else 0,
    e8 := if m.hdr.mkind = 5 then wd m.hdr.x8 else 0, gang := gang, fromQ := fromQ }

/-- The scalar registers with which it starts (07 R127). -/
def regsFor (m : QMsg) : Vector Word 32 :=
  entryRegs (wd m.addr) (wd m.len) (if m.hdr.mkind = 4 then 0 else wd m.hdr.tag) (wd m.hdr.msgid)
    (if m.hdr.mkind = 4 ∨ m.hdr.mkind ≥ 6 then 0xFFFF else wd m.hdr.srank) (if m.hdr.mkind ≤ 2 ∨ m.hdr.mkind = 8 then 0 else wd m.hdr.x6)
    (if m.hdr.mkind = 5 then wd m.hdr.x7 else 0) (if m.hdr.mkind = 5 then wd m.hdr.x8 else 0)

/-- A queue that has been served. -/
def queueServed (now : Nat) (q : HQueue) : HQueue := { q with served := now, age := 0, bump := 0 }

/-- A core's running state fresh, and its queue served where one is. -/
def refreshed (now slot qn : Nat) (fromQ : Bool) (k : Core) : Core := if fromQ then withQueue slot qn (queueServed now) (freshRun k 0) else freshRun k 0

/-- A core in which a message's activation starts, at a handler's entry. -/
def started (slot qn budget : Nat) (m : QMsg) (r : Resident) (e : BitVec 32) (paired : Bool) (gang crew : Option Nat) (fromQ : Bool) (k : Core) : Core :=
  { k with
    x := regsFor m, pc := handlerPc e, act := some (actFor slot qn m r gang fromQ), aborts := m.aborts, inh := false, pair := paired, wdog := budget
    gangRec := if gang.isSome then gang else k.gangRec, crewRec := if crew.isSome then crew else k.crewRec
    pend := pendOf { k with act := some (actFor slot qn m r gang fromQ) } }

theorem taint_only (s : State) (c cid inc msgid kid : Nat) : taint s c cid inc msgid kid = { s with dies := (taint s c cid inc msgid kid).dies } := by
  unfold taint
  split <;> rfl

theorem coreOf_rowStart (s : State) (c kid d : Nat) : coreOf (rowStart s c kid) d = coreOf s d := by
  unfold rowStart
  split <;> rfl

theorem rowStart_only (s : State) (c kid : Nat) : rowStart s c kid = { s with dies := (rowStart s c kid).dies } := by
  unfold rowStart
  split <;> rfl

theorem startAct_eq (h : (slotOf (coreOf s c) slot).resident = some r) : startAct s c slot qn m gang crew fromQ =
    updCore (taint s c r.cid r.inc m.hdr.msgid m.hdr.kernel) c fun k =>
      started slot qn (budgetOf (taint s c r.cid r.inc m.hdr.msgid m.hdr.kernel) c m.hdr.kernel) m r (handlerOf (slotOf (coreOf s c) slot) m.hdr.handler)
        ((kernelOf (taint s c r.cid r.inc m.hdr.msgid m.hdr.kernel) m.hdr.kernel).any (·.paired)) gang crew fromQ
        (refreshed (taint s c r.cid r.inc m.hdr.msgid m.hdr.kernel).now slot qn fromQ k) := by
  unfold startAct
  simp only [h]
  rfl

/-- The core starts the activation at its handler's entry; of the rest of the package only its row's taint log changes. -/
theorem startAct_only (h : (slotOf (coreOf s c) slot).resident = some r) : ∃ (dies : Vector Die 2) (now budget : Nat) (paired : Bool),
    startAct s c slot qn m gang crew fromQ = updCore { s with dies := dies } c fun k =>
      started slot qn budget m r (handlerOf (slotOf (coreOf s c) slot) m.hdr.handler) paired gang crew fromQ (refreshed now slot qn fromQ k) := by
  rw [startAct_eq h, taint_only]
  exact ⟨_, _, _, _, rfl⟩

/-- A fresh run keeps the local memory and the slots, and is restartable. -/
theorem freshRun_keeps (k : Core) (tiles : Nat) : (freshRun k tiles).lm = k.lm ∧ (freshRun k tiles).slots = k.slots ∧ (freshRun k tiles).restart = true := by
  unfold freshRun
  exact ⟨rfl, rfl, rfl⟩

theorem slots_freshRun (k : Core) (tiles : Nat) : (freshRun k tiles).slots = k.slots := (freshRun_keeps k tiles).2.1

theorem lm_refreshed (now : Nat) (k : Core) : (refreshed now slot qn fromQ k).lm = k.lm := by
  refine Eq.trans ?_ (freshRun_keeps k 0).1
  unfold refreshed
  split
  · rw [withQueue, updSlot, setSlot]
  · rfl

theorem restart_refreshed (now : Nat) (k : Core) : (refreshed now slot qn fromQ k).restart = true := by
  refine Eq.trans ?_ (freshRun_keeps k 0).2.2
  unfold refreshed
  split
  · rw [withQueue, updSlot, setSlot]
  · rfl

/-- What is taken from a queue stays taken. -/
theorem msgs_refreshed (now : Nat) (k : Core) :
    (queueOf (slotOf (refreshed now slot qn fromQ k) slot) qn).msgs = (queueOf (slotOf k slot) qn).msgs := by
  unfold refreshed
  split
  · rw [queueOf_withQueue, slotOf_of_slots (slots_freshRun k 0)]
    rfl
  · rw [slotOf_of_slots (slots_freshRun k 0)]

/-- A start keeps the local memory, the slots and whether the run is restartable. -/
theorem started_keeps {budget : Nat} {e : BitVec 32} {paired : Bool} (k : Core) :
    (started slot qn budget m r e paired gang crew fromQ k).lm = k.lm ∧ (started slot qn budget m r e paired gang crew fromQ k).slots = k.slots ∧
      (started slot qn budget m r e paired gang crew fromQ k).restart = k.restart := by
  unfold started
  exact ⟨rfl, rfl, rfl⟩

/-- The registers x1 to x8 read as the message's, the others as zero. -/
theorem rx_regsFor {k : Core} (h : k.x = regsFor m) :
    rx k 1 = wd m.addr ∧ rx k 2 = wd m.len ∧ rx k 3 = (if m.hdr.mkind = 4 then 0 else wd m.hdr.tag) ∧ rx k 4 = wd m.hdr.msgid ∧
      ∀ x : Reg, 9 ≤ x.toNat → rx k x = 0 := by
  simp only [rx, h, regsFor, entryRegs, Vector.getElem_ofFn]
  refine ⟨rfl, rfl, rfl, rfl, fun x hx => ?_⟩
  rw [if_neg (by bv_omega), List.getD_eq_default _ _ (by simpa using hx)]

end

end Sys2Proof.Machine
end

section
/-! ### ACTIVATION_START and AGEING_TICK (05 R90, R91, R101) -/

namespace Sys2Proof.Machine

/-! #### ACTIVATION_START -/

section
variable {s : State} {core slot q : Nat} {m : QMsg} {r : Resident}

theorem activationStart_cannot (h : canStart s core = false) : exec (.activationStart core) s = .next s := by
  change execActivationStart core s = _
  simp [execActivationStart, h]

theorem activationStart_idle (h : canStart s core = true) (hsucc : (coreOf s core).succ = none) (hgates : (coreOf s core).gates = [])
    (hidle : (coreOf s core).stopped = true ∨ candidates s core = []) : exec (.activationStart core) s = .next s := by
  change execActivationStart core s = _
  rcases hidle with hidle | hidle
  · simp [execActivationStart, h, hsucc, hgates, hidle]
  · simp [execActivationStart, h, hsucc, hgates, hidle, bestOf]

/-- A core whose head is chosen: it can start, and nothing comes before its queues. -/
structure Chooses (s : State) (core slot q : Nat) (m : QMsg) : Prop where
  can : canStart s core = true
  noSucc : (coreOf s core).succ = none
  noGates : (coreOf s core).gates = []
  runs : (coreOf s core).stopped = false
  best : bestOf (candidates s core) = some (slot, q, m)
  whole : m.poison = false

/-- The head that comes first starts, unless it is the head of a paired kernel or has another fate. -/
theorem activationStart_starts (h : Chooses s core slot q m) (hfate : headFate (headPopped s core slot q) core slot m = none)
    (hpaired : (kernelOf s m.hdr.kernel).any (·.paired) = false) :
    exec (.activationStart core) s = .next (rowStart (startAct (headPopped s core slot q) core slot q m none none) core m.hdr.kernel) := by
  obtain ⟨hcan, hsucc, hgates, hruns, hbest, hwhole⟩ := h
  unfold headPopped withQueue headTaken at hfate
  change execActivationStart core s = _
  simp only [execActivationStart, hcan, hsucc, hgates, hruns, hbest, hwhole, hpaired, Bool.not_true, Bool.false_eq_true, if_false, Option.isSome_none, Bool.false_and, hfate]
  rfl

theorem activationStart_drops {t : State} (h : Chooses s core slot q m) (hfate : headFate (headPopped s core slot q) core slot m = some t) :
    exec (.activationStart core) s = .next t := by
  obtain ⟨hcan, hsucc, hgates, hruns, hbest, hwhole⟩ := h
  unfold headPopped withQueue headTaken at hfate
  change execActivationStart core s = _
  simp only [execActivationStart, hcan, hsucc, hgates, hruns, hbest, hwhole, Bool.not_true, Bool.false_eq_true, if_false, Option.isSome_none, Bool.false_and, hfate]

theorem handlerOf_congr {t t' : Slot} (h : t'.handlers = t.handlers) (n : Nat) : handlerOf t' n = handlerOf t n := by rw [handlerOf, h, handlerOf]

/-- A whole message of a known incarnation has no other fate than to start, where its job is not cancelled and its handler is valid. -/
theorem headFate_starts {s : State} (hknown : incOk s (niOf s core) m.cid m.inc = true) (hwhole : m.poison = false)
    (hjob : ∀ j ∈ (coreOf s core).cancel, ¬ (j.1 = m.hdr.job ∧ m.hdr.kernel ≠ 0)) (hvalid : handlerV (handlerOf (slotOf (coreOf s core) slot) m.hdr.handler) = true) :
    headFate s core slot m = none := by
  have hany : ((coreOf s core).cancel.any fun j => decide (j.1 = m.hdr.job ∧ m.hdr.kernel ≠ 0)) = false := by
    simpa only [List.any_eq_false, decide_eq_true_eq] using hjob
  simp only [headFate, hknown, hwhole, hany, hvalid, Bool.not_true, Bool.false_and, Bool.false_eq_true, if_false]

/-- One of a cancelled job is dropped. -/
theorem headFate_cancelled {s : State} (hknown : incOk s (niOf s core) m.cid m.inc = true) (hwhole : m.poison = false)
    (hjob : ∃ j ∈ (coreOf s core).cancel, j.1 = m.hdr.job) (hkernel : m.hdr.kernel ≠ 0) : headFate s core slot m = some (discard s core m) := by
  have hany : ((coreOf s core).cancel.any fun j => decide (j.1 = m.hdr.job ∧ m.hdr.kernel ≠ 0)) = true := by
    obtain ⟨j, hj, hsame⟩ := hjob
    exact List.any_eq_true.mpr ⟨j, hj, decide_eq_true ⟨hsame, hkernel⟩⟩
  simp only [headFate, hknown, hwhole, hany, Bool.not_true, Bool.false_and, Bool.false_eq_true, if_false, if_true]

/-- A message that no task and no stream's end waits for leaves nothing behind where it is dropped. -/
theorem discard_plain {s : State} (htask : m.task = none) (heos : m.eosEnd = none) (hkernel : m.hdr.kernel ≠ 0) :
    discard s core m = { s with reports := s.reports ++ [⟨m.hdr.kernel, -1, none⟩] } := by
  simp only [discard, msgGone, htask, heos, report, if_neg hkernel]

/-- The head's activation starts on its core; of the other cores nothing changes. -/
theorem activationStart_started (h : Chooses s core slot q m) (hres : (slotOf (coreOf s core) slot).resident = some r)
    (hknown : incOk s (niOf s core) m.cid m.inc = true) (hjob : ∀ j ∈ (coreOf s core).cancel, ¬ (j.1 = m.hdr.job ∧ m.hdr.kernel ≠ 0))
    (hvalid : handlerV (handlerOf (slotOf (coreOf s core) slot) m.hdr.handler) = true) (hpaired : (kernelOf s m.hdr.kernel).any (·.paired) = false) :
    ∃ (t : State) (x : Core) (budget : Nat) (paired : Bool), exec (.activationStart core) s = .next t ∧
      coreOf t core = started slot q budget m r (handlerOf (slotOf (coreOf s core) slot) m.hdr.handler) paired none none true x ∧
      x.lm = (coreOf s core).lm ∧ x.restart = true ∧ (queueOf (slotOf x slot) q).msgs = (queueOf (slotOf (coreOf s core) slot) q).msgs.tail ∧
      (∀ c, c ≠ core → coreOf t c = coreOf s c) ∧ t.mem = s.mem := by
  have hcore := coreOf_headPopped s core slot q
  have hhandler : handlerOf (slotOf (coreOf (headPopped s core slot q) core) slot) m.hdr.handler = handlerOf (slotOf (coreOf s core) slot) m.hdr.handler := by
    rw [hcore]
    exact handlerOf_congr (slotOf_withQueue Slot.handlers (fun _ _ => rfl) slot q headTaken _) _
  have hresident : (slotOf (coreOf (headPopped s core slot q) core) slot).resident = some r := by
    rw [hcore, ← hres]
    exact slotOf_withQueue Slot.resident (fun _ _ => rfl) slot q headTaken _
  have hfate : headFate (headPopped s core slot q) core slot m = none := by
    refine headFate_starts hknown h.whole ?_ (hhandler ▸ hvalid)
    rw [hcore]
    exact hjob
  obtain ⟨dies, now, budget, paired, hstart⟩ := startAct_only (qn := q) (m := m) (gang := none) (crew := none) (fromQ := true) hresident
  rw [hhandler] at hstart
  refine ⟨_, refreshed now slot q true (coreOf (headPopped s core slot q) core), budget, paired, activationStart_starts h hfate hpaired, ?_⟩
  have hstarted := fun c => coreOf_rowStart (startAct (headPopped s core slot q) core slot q m none none) core m.hdr.kernel c
  simp only [hstart] at hstarted ⊢
  refine ⟨(hstarted core).trans (coreOf_updCore_same ..), ?_, restart_refreshed .., ?_, fun c hc => ?_, ?_⟩
  · rw [lm_refreshed, hcore, withQueue, updSlot, setSlot]
  · rw [msgs_refreshed, hcore, queueOf_withQueue]
    rfl
  · exact (hstarted c).trans ((coreOf_updCore_other _ _ _ _ hc).trans (coreOf_updCore_other _ _ _ _ hc))
  · rw [rowStart_only]
    rfl

/-- It starts at its handler, with its entry registers, and its queue has one message less (07 R127, R128). -/
theorem activationStart_start_spec (h : Chooses s core slot q m) (hres : (slotOf (coreOf s core) slot).resident = some r)
    (hknown : incOk s (niOf s core) m.cid m.inc = true) (hjob : ∀ j ∈ (coreOf s core).cancel, ¬ (j.1 = m.hdr.job ∧ m.hdr.kernel ≠ 0))
    (hvalid : handlerV (handlerOf (slotOf (coreOf s core) slot) m.hdr.handler) = true) (hpaired : (kernelOf s m.hdr.kernel).any (·.paired) = false) :
    ∃ (t : State) (a : Act), exec (.activationStart core) s = .next t ∧ (coreOf t core).act = some a ∧ a.slot = slot ∧ a.queue = q ∧ a.handler = m.hdr.handler ∧
      a.msg = m ∧ a.cid = r.cid ∧ a.rank = r.rank ∧ (coreOf t core).pc = handlerPc (handlerOf (slotOf (coreOf s core) slot) m.hdr.handler) ∧
      rx (coreOf t core) 1 = wd m.addr ∧ rx (coreOf t core) 2 = wd m.len ∧ rx (coreOf t core) 3 = (if m.hdr.mkind = 4 then 0 else wd m.hdr.tag) ∧
      rx (coreOf t core) 4 = wd m.hdr.msgid ∧ (∀ x : Reg, 9 ≤ x.toNat → rx (coreOf t core) x = 0) ∧
      (coreOf t core).restart = true ∧ (coreOf t core).aborts = m.aborts ∧
      (queueOf (slotOf (coreOf t core) slot) q).msgs = (queueOf (slotOf (coreOf s core) slot) q).msgs.tail ∧ (coreOf t core).lm = (coreOf s core).lm ∧
      (∀ c, c ≠ core → coreOf t c = coreOf s c) ∧ t.mem = s.mem := by
  obtain ⟨t, x, budget, paired, hexec, hcore, hlm, hrestart, hqueue, hothers, hmem⟩ := activationStart_started h hres hknown hjob hvalid hpaired
  refine ⟨t, actFor slot q m r none true, hexec, ?_⟩
  rw [hcore]
  obtain ⟨h1, h2, h3, h4, hrest⟩ := rx_regsFor (m := m)
    (k := started slot q budget m r (handlerOf (slotOf (coreOf s core) slot) m.hdr.handler) paired none none true x) rfl
  obtain ⟨hslm, hsslots, hsrestart⟩ := started_keeps (slot := slot) (qn := q) (budget := budget) (m := m) (r := r)
    (e := handlerOf (slotOf (coreOf s core) slot) m.hdr.handler) (paired := paired) (gang := none) (crew := none) (fromQ := true) x
  rw [hslm, hsrestart, slotOf_of_slots hsslots]
  exact ⟨rfl, rfl, rfl, rfl, rfl, rfl, rfl, rfl, h1, h2, h3, h4, hrest, hrestart, rfl, hqueue, hlm, hothers, hmem⟩

/-- A message of a cancelled job is dropped, and its live count falls (05 R101). -/
theorem activationStart_cancelled_spec (h : Chooses s core slot q m) (hknown : incOk s (niOf s core) m.cid m.inc = true) (htask : m.task = none)
    (heos : m.eosEnd = none) (hjob : ∃ j ∈ (coreOf s core).cancel, j.1 = m.hdr.job) (hkernel : m.hdr.kernel ≠ 0) :
    ∃ t : State, exec (.activationStart core) s = .next t ∧ (coreOf t core).act = none ∧ t.reports = s.reports ++ [⟨m.hdr.kernel, -1, none⟩] ∧
      (queueOf (slotOf (coreOf t core) slot) q).msgs = (queueOf (slotOf (coreOf s core) slot) q).msgs.tail ∧ t.mem = s.mem := by
  have hcore := coreOf_headPopped s core slot q
  have hidle : (coreOf s core).act = none := by
    have hcan := h.can
    simp only [canStart, Bool.and_eq_true] at hcan
    simpa using hcan.1.1.1.1
  have hfate : headFate (headPopped s core slot q) core slot m = some (discard (headPopped s core slot q) core m) :=
    headFate_cancelled hknown h.whole (by rw [hcore]; exact hjob) hkernel
  refine ⟨_, activationStart_drops h hfate, ?_⟩
  rw [discard_plain htask heos hkernel]
  refine ⟨?_, rfl, ?_, rfl⟩
  · exact (congrArg Core.act hcore).trans hidle
  · refine (congrArg (fun x : Core => (queueOf (slotOf x slot) q).msgs) hcore).trans ?_
    exact congrArg HQueue.msgs (queueOf_withQueue ..)

end

/-! #### AGEING_TICK -/

section
variable {s : State} {core slot q : Nat}

/-- A queue that has aged by a period. -/
def aged (period : Nat) (m : QMsg) (x : HQueue) : HQueue := { x with age := x.age - period, bump := min (x.bump + 1) (7 - min 7 m.hdr.prio) }

theorem ageingTick_stays (h : (queueOf (slotOf (coreOf s core) slot) q).msgs = [] ∨ (queueOf (slotOf (coreOf s core) slot) q).age < agePeriod s (dieOf core)) :
    exec (.ageingTick core slot q) s = .next s := by
  change execAgeingTick core slot q s = _
  unfold execAgeingTick
  dsimp only
  split
  · rfl
  next hms => exact if_pos (h.resolve_left (by simp [hms]))

theorem ageingTick_ages {m : QMsg} {ms : List QMsg} (h : (queueOf (slotOf (coreOf s core) slot) q).msgs = m :: ms)
    (hold : agePeriod s (dieOf core) ≤ (queueOf (slotOf (coreOf s core) slot) q).age) :
    exec (.ageingTick core slot q) s = .next (updCore s core fun k =>
      updSlot k slot fun t => setQueue t q (aged (agePeriod s (dieOf core)) m (queueOf (slotOf (coreOf s core) slot) q))) := by
  change execAgeingTick core slot q s = _
  simp only [execAgeingTick, h]
  rw [if_neg (Nat.not_lt.mpr hold), aged, h]

end

end Sys2Proof.Machine
end

section
/-! ### What disturbs no core's activation and gates, and loses no failure record -/

namespace Sys2Proof.Machine

/-- What a gate is armed by: a core's activation, its gates and PEND. -/
def gateKept (k : Core) : Option Act × List (Nat × Nat × QMsg) × Bool := (k.act, k.gates, k.pend)

/-- The kernels, the gangs, the rank tables, memory and every core's activation, gates and PEND are as they were, and no failure record is lost. -/
structure Undisturbed (s t : State) : Prop where
  kernels : t.kernels = s.kernels
  gangs : t.gangs = s.gangs
  ranks : t.ranks = s.ranks
  chip : t.chip = s.chip
  mem : t.mem = s.mem
  cores : ∀ c, gateKept (coreOf t c) = gateKept (coreOf s c)
  frecs : s.frecs ⊆ t.frecs

theorem Undisturbed.refl (s : State) : Undisturbed s s := ⟨rfl, rfl, rfl, rfl, rfl, fun _ => rfl, List.Subset.refl _⟩

theorem Undisturbed.trans {s t u : State} (h : Undisturbed s t) (h' : Undisturbed t u) : Undisturbed s u :=
  ⟨h'.kernels.trans h.kernels, h'.gangs.trans h.gangs, h'.ranks.trans h.ranks, h'.chip.trans h.chip, h'.mem.trans h.mem,
    fun c => (h'.cores c).trans (h.cores c), List.Subset.trans h.frecs h'.frecs⟩

theorem undisturbed_foldl {α : Type} {f : State → α → State} (hf : ∀ s a, Undisturbed s (f s a)) (as : List α) : ∀ s, Undisturbed s (as.foldl f s) := by
  induction as with
  | nil => exact .refl
  | cons a as ih => exact fun s => (hf s a).trans (ih _)

theorem undisturbed_ite {s t u : State} (p : Prop) [Decidable p] (ht : Undisturbed s t) (hu : Undisturbed s u) : Undisturbed s (if p then t else u) := by
  split
  · exact ht
  · exact hu

theorem Mailed.undisturbed {s t : State} (h : Mailed s t) : Undisturbed s t := by
  obtain ⟨_, _, _, _, rfl⟩ := h
  exact ⟨rfl, rfl, rfl, rfl, rfl, fun _ => rfl, List.Subset.refl _⟩

theorem undisturbed_updDie (s : State) (d : Nat) (g : Die → Die) : Undisturbed s (updDie s d g) :=
  ⟨rfl, rfl, rfl, rfl, rfl, fun _ => rfl, List.Subset.refl _⟩

theorem undisturbed_updCore (s : State) (c : Nat) {f : Core → Core} (hf : ∀ k, gateKept (f k) = gateKept k := by intro k; rfl) :
    Undisturbed s (updCore s c f) := by
  refine ⟨rfl, rfl, rfl, rfl, rfl, fun d => ?_, List.Subset.refl _⟩
  rw [coreOf_updCore]
  split
  · exact hf _
  · rfl

theorem undisturbed_report (s : State) (kid : Nat) (delta : Int) (ackTo : Option Nat) : Undisturbed s (report s kid delta ackTo) :=
  undisturbed_ite _ (.refl s) ⟨rfl, rfl, rfl, rfl, rfl, fun _ => rfl, List.Subset.refl _⟩

theorem undisturbed_failMsg (s : State) (cause cid inc rank aborts : Nat) (h : MsgHdr) : Undisturbed s (failMsg s cause cid inc rank aborts h) := by
  refine Undisturbed.trans ?_ (undisturbed_report ..)
  exact ⟨rfl, rfl, rfl, rfl, rfl, fun _ => rfl, List.subset_append_left _ _⟩

theorem undisturbed_freshMsg (s : State) (cid : Nat) : Undisturbed s (freshMsg s cid).2 := ⟨rfl, rfl, rfl, rfl, rfl, fun _ => rfl, List.Subset.refl _⟩

/-! #### Packets to ranks, and ends that are freed -/

theorem undisturbed_resolve (s : State) (c cid rank : Nat) : Undisturbed s (resolve s c cid rank).2 := by
  unfold resolve
  dsimp only
  split
  · exact .refl s
  · exact undisturbed_updCore s c (f := fun k => { k with rcache := _ })

theorem undisturbed_sendRank' (s : State) (c cid rank : Nat) (p : Packet) : Undisturbed s (sendRank' s c cid rank p) := by
  refine (undisturbed_resolve s c cid rank).trans ?_
  unfold sendRank'
  dsimp only
  split
  · exact (mailed_emit ..).undisturbed
  · exact undisturbed_updCore _ c
  · exact (mailed_emit ..).undisturbed
  · split
    · exact undisturbed_failMsg ..
    · exact undisturbed_failMsg ..
    · exact undisturbed_updDie ..

theorem undisturbed_notice (s : State) (c : Nat) (e : EndRec) (typ seq nrank cause : Nat) : Undisturbed s (notice s c e typ seq nrank cause) :=
  undisturbed_sendRank' ..

theorem undisturbed_freeEnd (s : State) (c : Nat) (key : EndKey) : Undisturbed s (freeEnd s c key) := undisturbed_updCore s c

theorem undisturbed_updEnd (s : State) (c : Nat) (key : EndKey) (f : EndRec → EndRec) : Undisturbed s (updEnd s c key f) := undisturbed_updCore s c

/-- A consumer end whose stream has ended is freed with FINACK, where an end-of-stream message names it (10 R196). -/
def endReleased (s : State) (c : Nat) (eosEnd : Option (Nat × Nat)) : State :=
  match eosEnd with
  | some (scid, sid) =>
    match endRec (coreOf s c) (scid, sid, 1) with
    | some e => if e.state = 4 then freeEnd (notice s c e 5 (match e.eosWord with | some w => fld w 31 0 | none => 0) 0 0) c (keyOf e) else s
    | none => s
  | none => s

theorem undisturbed_endReleased (s : State) (c : Nat) (eosEnd : Option (Nat × Nat)) : Undisturbed s (endReleased s c eosEnd) := by
  unfold endReleased
  split
  · split
    · exact undisturbed_ite _ ((undisturbed_notice ..).trans (undisturbed_freeEnd ..)) (.refl s)
    · exact .refl s
  · exact .refl s

/-- The dispatcher of a message's task knows that it has ended. -/
def taskEnded (s : State) (c : Nat) (task : Option (Nat × Nat)) (again : Bool) (tok : Nat) : State :=
  match task with
  | some (d, age) => updDie s d fun x => { x with disp := { x.disp with ended := x.disp.ended ++ [{ age := age, again := again, core := c, tok := tok }] } }
  | none => s

theorem undisturbed_taskEnded (s : State) (c : Nat) (task : Option (Nat × Nat)) (again : Bool) (tok : Nat) : Undisturbed s (taskEnded s c task again tok) := by
  unfold taskEnded
  split
  · exact undisturbed_updDie ..
  · exact .refl s

theorem msgGone_eq (s : State) (c : Nat) (m : QMsg) : msgGone s c m = endReleased (taskEnded s c m.task false 0) c m.eosEnd := rfl

theorem undisturbed_msgGone (s : State) (c : Nat) (m : QMsg) : Undisturbed s (msgGone s c m) := by
  rw [msgGone_eq]
  exact (undisturbed_taskEnded ..).trans (undisturbed_endReleased ..)

/-! #### Writes of local memory -/

theorem undisturbed_wakeCore (s : State) (c reason : Nat) : Undisturbed s (wakeCore s c reason) := by
  refine Undisturbed.trans (t := { s with monitors := s.monitors.filter fun m => !decide (m.core = c) }) ⟨rfl, rfl, rfl, rfl, rfl, fun _ => rfl, List.Subset.refl _⟩ ?_
  unfold wakeCore
  dsimp only
  split
  · refine undisturbed_foldl (fun t m => ?_) _ _
    split
    · exact (mailed_emit ..).undisturbed
    · exact .refl t
  · split
    · exact undisturbed_updCore _ c (f := fun k => { k with wait := _, out := _ })
    · exact .refl _
    · exact undisturbed_updCore _ c (f := fun k => { k with out := _ })

theorem undisturbed_wakeAll (s : State) (lm : Bool) (home a n reason : Nat) : Undisturbed s (wakeAll s lm home a n reason) :=
  undisturbed_foldl (fun t c => undisturbed_wakeCore t c reason) _ s

theorem undisturbed_lmWrite (s : State) (c a : Nat) (bs : List Byte) : Undisturbed s (lmWrite s c a bs) := by
  refine Undisturbed.trans ?_ (undisturbed_wakeAll ..)
  exact undisturbed_updCore s c (f := fun k => { k with lm := _, poison := _ })

theorem undisturbed_lmPoison (s : State) (c a n : Nat) : Undisturbed s (lmPoison s c a n) := undisturbed_updCore s c

theorem undisturbed_inject (s : State) (die cid target : Nat) : Undisturbed s (inject s die cid target).2 := by
  rw [inject_only_dies]
  exact ⟨rfl, rfl, rfl, rfl, rfl, fun _ => rfl, List.Subset.refl _⟩

/-! #### Launch messages behind gates (07 R126) -/

theorem undisturbed_ovPut {s t : State} {die cid rank : Nat} {p : Packet} {atHead : Bool} (h : ovPut s die cid rank p atHead = some t) : Undisturbed s t := by
  unfold ovPut at h
  dsimp only at h
  split at h
  · cases h
  · rw [← Option.some.inj h]
    exact (undisturbed_updDie ..).trans (undisturbed_updDie ..)

theorem undisturbed_updSlot (s : State) (c slot : Nat) (f : Slot → Slot) : Undisturbed s (updCore s c fun k => updSlot k slot f) :=
  undisturbed_updCore s c

/-- What a recursion on fuel does to a state, by induction on the fuel. -/
theorem brecOn_relates {α : Type} {R : α → α → Prop} {F : (n : Nat) → Nat.below (motive := fun _ => α → α) n → α → α}
    (zero : ∀ b s, R s (F 0 b s)) (succ : ∀ n g b, (∀ s, R s (g s)) → ∀ s, R s (F (n + 1) ⟨g, b⟩ s)) (n : Nat) : ∀ s, R s (Nat.brecOn n F s) := by
  induction n with
  | zero => exact zero _
  | succ n ih => exact succ n _ _ ih

/-- Shown for any way to put a packet into the store: with ovPut itself in its place the kernel, to compare the branches of makeRoom, would count the partition's
share of the store, a multiple of 2^20, in successors. (The id keeps the statement for any way from being instantiated in the proof.) -/
theorem undisturbed_makeRoom (c slot n fuel : Nat) (s : State) : Undisturbed s (makeRoom s c slot n fuel) := by
  have hput := @undisturbed_ovPut
  delta makeRoom makeRoom._f
  generalize ovPut = put at hput ⊢
  revert put
  refine id ?_
  intro put hput
  refine brecOn_relates (R := Undisturbed) (fun _ s => .refl s) (fun _ rest _ ih s => undisturbed_ite _ (.refl s) ?_) fuel s
  dsimp only
  split
  · exact .refl s
  · split
    · exact .refl s
    · split
      · exact ((undisturbed_updSlot ..).trans ((undisturbed_msgGone ..).trans (undisturbed_failMsg ..))).trans (ih _)
      next hspilt => exact ((undisturbed_updSlot ..).trans (hput hspilt)).trans (ih _)

theorem undisturbed_placeLaunch (s : State) (c slot : Nat) (m : QMsg) : Undisturbed s (placeLaunch s c slot m).2 := by
  refine (undisturbed_makeRoom c slot m.pay.length 1024 s).trans ?_
  unfold placeLaunch
  dsimp only
  split
  · exact undisturbed_ite _ (.refl _) (undisturbed_lmWrite ..)
  · exact .refl _

end Sys2Proof.Machine
end

section
/-! ### Failure records are not lost (07 R135) -/

namespace Sys2Proof.Machine

/-- No failure record that waits is lost. -/
def RecsKept (s t : State) : Prop := s.frecs ⊆ t.frecs

theorem RecsKept.refl (s : State) : RecsKept s s := List.Subset.refl _

theorem RecsKept.trans {s t u : State} (h : RecsKept s t) (h' : RecsKept t u) : RecsKept s u := List.Subset.trans h h'

theorem RecsKept.of_eq {s t : State} (h : t.frecs = s.frecs) : RecsKept s t := by
  rw [RecsKept, h]
  exact List.Subset.refl _

theorem Undisturbed.recsKept {s t : State} (h : Undisturbed s t) : RecsKept s t := h.frecs

theorem recsKept_ite {s t u : State} (p : Prop) [Decidable p] (ht : RecsKept s t) (hu : RecsKept s u) : RecsKept s (if p then t else u) := by
  split
  · exact ht
  · exact hu

theorem recsKept_foldl {α : Type} {f : State → α → State} (hf : ∀ s a, RecsKept s (f s a)) (as : List α) : ∀ s, RecsKept s (as.foldl f s) := by
  induction as with
  | nil => exact .refl
  | cons a as ih => exact fun s => (hf s a).trans (ih _)

theorem recsKept_updCore (s : State) (c : Nat) (f : Core → Core) : RecsKept s (updCore s c f) := .of_eq rfl

/-! #### A message that lands -/

theorem recsKept_setPend (s : State) (c : Nat) : RecsKept s (setPend s c) :=
  recsKept_ite _ ((recsKept_updCore ..).trans (undisturbed_wakeCore ..).recsKept) (.refl s)

/-- The payload of a message that lands, in LAND. -/
def payLanded (s : State) (c addr : Nat) (pay : List Byte) (poison : Bool) : State :=
  if poison then lmPoison (if pay = [] then s else lmWrite s c addr pay) c addr pay.length else if pay = [] then s else lmWrite s c addr pay

theorem recsKept_payLanded (s : State) (c addr : Nat) (pay : List Byte) (poison : Bool) : RecsKept s (payLanded s c addr pay poison) := by
  have hwritten : Undisturbed s (if pay = [] then s else lmWrite s c addr pay) := undisturbed_ite _ (.refl s) (undisturbed_lmWrite ..)
  exact (undisturbed_ite _ (hwritten.trans (undisturbed_lmPoison ..)) hwritten).recsKept

/-- Who hears of a message that has landed in a slot: its running activation, and the core where the message's priority is higher. -/
def landingHeard (s : State) (c slot prio : Nat) : State :=
  let k := coreOf s c
  let s := match k.act with
    | some a => if a.slot = slot then wakeCore s c 4 else s
    | none => s
  if decide (k.act.isSome) && decide (runPrio k < prio) then setPend s c else s

theorem recsKept_landingHeard (s : State) (c slot prio : Nat) : RecsKept s (landingHeard s c slot prio) := by
  have hwoken : RecsKept s (match (coreOf s c).act with
      | some a => if a.slot = slot then wakeCore s c 4 else s
      | none => s) := by
    split
    · exact recsKept_ite _ (undisturbed_wakeCore ..).recsKept (.refl s)
    · exact .refl s
  exact recsKept_ite _ (hwoken.trans (recsKept_setPend ..)) hwoken

theorem recsKept_enqueue (s : State) (c slot addr cid inc : Nat) (h : MsgHdr) (pay : List Byte) (poison : Bool) :
    RecsKept s (enqueue s c slot addr cid inc h pay poison) := by
  refine (recsKept_payLanded s c addr pay poison).trans ?_
  refine .trans ?_ (recsKept_landingHeard _ c slot h.prio)
  exact .of_eq rfl

theorem recsKept_landNow (s : State) (c slot a : Nat) (p : Packet) (h : MsgHdr) (pay : List Byte) (poison : Bool) :
    RecsKept s (landNow s c slot a p h pay poison).2 := by
  have hstruck : RecsKept s (if pay = [] then (false, s) else inject s (dieOf c) p.cid 0).2 := by
    split
    · exact .refl s
    · exact (undisturbed_inject ..).recsKept
  exact hstruck.trans (recsKept_enqueue ..)

theorem recsKept_land (s : State) (c slot : Nat) (p : Packet) : RecsKept s (land s c slot p) := by
  unfold land landAt
  dsimp only
  split
  · exact (undisturbed_failMsg ..).recsKept
  · split
    · exact (undisturbed_failMsg ..).recsKept
    · split
      · exact recsKept_landNow ..
      · split
        next hspilt => exact (undisturbed_ovPut hspilt).recsKept
        next => exact (undisturbed_failMsg ..).recsKept

end Sys2Proof.Machine
end

section
/-! ### An abort leaves its record (07 R134, R135, R137) -/

namespace Sys2Proof.Machine

/-! #### Streams that end -/

/-- The standing loop of an ended stream stops, its last group incomplete (18 R325). -/
def loopEnded (s : State) (c : Nat) (e : EndRec) : State :=
  match (coreOf s c).loop with
  | some l =>
    if l.endk = keyOf e ∧ l.phase = 1 then
      updEnd (setCore s c { wv (coreOf s c) 16 (BitVec.ofNat 1024 (((List.range (seqDiff e.wrSeq e.popSeq)).map fun j =>
        rdLE (coreOf s c).lm (ringAt e (e.popSeq + j)) 8).zipIdx.map fun p => p.1 * 2 ^ (64 * p.2)).sum) with loop := some { l with phase := 2 } })
        c (keyOf e) fun x => { x with popSeq := e.wrSeq }
    else s
  | none => s

theorem recsKept_loopEnded (s : State) (c : Nat) (e : EndRec) : RecsKept s (loopEnded s c e) := by
  unfold loopEnded
  split
  · exact recsKept_ite _ (.of_eq rfl) (.refl s)
  · exact .refl s

theorem recsKept_endStream (s : State) (c : Nat) (e : EndRec) (w : Word) : RecsKept s (endStream s c e w) := by
  refine (undisturbed_updEnd s c (keyOf e) fun x => { x with state := 4, cause := fld w 63 60, eosWord := some w, held := [], heldBad := [] }).recsKept.trans ?_
  refine (recsKept_loopEnded _ c e).trans ?_
  refine (undisturbed_freshMsg _ e.ocid).recsKept.trans ?_
  unfold endStream
  dsimp only
  refine recsKept_ite _ ?_ ?_
  · exact (undisturbed_sendRank' ..).recsKept
  · exact recsKept_land ..

theorem recsKept_tryEos (s : State) (c : Nat) (key : EndKey) : RecsKept s (tryEos s c key) := by
  unfold tryEos
  split
  · split
    · exact recsKept_ite _ (recsKept_endStream ..) (.refl s)
    · exact .refl s
  · exact .refl s

/-! #### Activations that end -/

theorem recsKept_credits (s : State) (c : Nat) : RecsKept s (credits s c) := by
  unfold credits
  split
  · exact .refl s
  · exact recsKept_foldl (fun s e => (undisturbed_updEnd ..).recsKept.trans (undisturbed_notice ..).recsKept) _ _

theorem recsKept_leaveGang (s : State) (c : Nat) (g : Option Nat) : RecsKept s (leaveGang s c g) := by
  unfold leaveGang
  split <;> exact .of_eq rfl

theorem recsKept_releaseMsg (s : State) (c : Nat) (a : Act) (aborted : Bool) : RecsKept s (releaseMsg s c a aborted) := by
  refine RecsKept.trans (t := taskEnded (releaseEos s c a) c a.msg.task aborted (coreOf (releaseEos s c a) c).tok) ?_ ?_
  · exact (undisturbed_endReleased s c a.msg.eosEnd).recsKept.trans (undisturbed_taskEnded ..).recsKept
  · exact recsKept_leaveGang ..

theorem recsKept_finishAct (s : State) (c : Nat) (a : Act) (isExit : Bool) : RecsKept s (finishAct s c a isExit) :=
  (recsKept_credits s c).trans ((recsKept_updCore ..).trans ((recsKept_releaseMsg ..).trans (recsKept_updCore ..)))

theorem recsKept_reportSettings (s : State) (c less : Nat) : RecsKept s (reportSettings s c less) := by
  unfold reportSettings
  dsimp only
  split
  · exact .refl s
  · exact recsKept_ite _ (.refl s) (undisturbed_report ..).recsKept

/-! #### Aborts -/

/-- The record of an activation that ends with a cause. -/
def abortRec (s : State) (k : Core) (a : Act) (cause : Nat) (detail : Word) : FailRec :=
  { cause := cause, kind := 0, inc := a.inc, cid := a.cid, aborts := k.aborts, rank := a.rank, msgid := a.msg.hdr.msgid, subtag := subtagOf s a.msg.hdr.kernel,
    detail := detail }

/-- The buffered stream operations of a core's activation discarded, its monitor taken down. -/
def abortBegun (s : State) (c : Nat) : State :=
  ((coreOf s c).ends.filter fun e => decide (e.state = 2)).foldl (fun s e => unpend s c e) (disarm s c)

/-- An activation that has a record ends, its consumer settings and its live count reported. -/
def abortEnded (s : State) (c : Nat) (k : Core) (a : Act) : State :=
  finishAct (if k.exited then reportSettings s c 0 else report (reportSettings s c 0) a.msg.hdr.kernel (-1) none) c a false

theorem recsKept_abortEnded (s : State) (c : Nat) (k : Core) (a : Act) : RecsKept s (abortEnded s c k a) :=
  .trans (recsKept_ite _ (recsKept_reportSettings ..) ((recsKept_reportSettings ..).trans (undisturbed_report ..).recsKept)) (recsKept_finishAct ..)

/-- An unpaired activation that may not restart ends with its record. -/
theorem abortWith_final {s : State} {c : Nat} {a : Act} (hact : (coreOf s c).act = some a) (htwin : (coreOf s c).twin = none)
    (hrestart : (coreOf s c).restart = false) (cause : Nat) (detail : Word) (mis : Option (Nat × Nat)) :
    abortWith s c cause detail mis =
      abortEnded (failRec (abortBegun s c) (abortRec (abortBegun s c) (coreOf s c) a cause detail)) c (coreOf s c) a := by
  have hdisarm : coreOf (disarm s c) c = coreOf s c := rfl
  have halone : unpair (disarm s c) c = (c, disarm s c) := unpair_alone (hdisarm ▸ htwin)
  unfold abortWith
  simp only [htwin, halone, hdisarm, hact, hrestart, Bool.false_and, Bool.false_eq_true, if_false]
  rfl

/-- The record of a final abort is there when the abort is over. -/
theorem abortAct_records {s : State} {c : Nat} {a : Act} (hact : (coreOf s c).act = some a) (htwin : (coreOf s c).twin = none)
    (hrestart : (coreOf s c).restart = false) (cause : Nat) (detail : Word) :
    abortRec (abortBegun s c) (coreOf s c) a cause detail ∈ (abortAct s c cause detail).frecs := by
  have hfinal := abortWith_final hact htwin hrestart cause detail none
  have htried : RecsKept (abortWith s c cause detail none) (abortAct s c cause detail) := recsKept_foldl (fun _ _ => recsKept_tryEos ..) _ _
  refine htried ?_
  rw [hfinal]
  exact recsKept_abortEnded _ _ _ _ (List.mem_append_right _ (List.mem_singleton.mpr rfl))

/-! #### WATCHDOG_EXPIRE -/

section
variable {s : State} {core : Nat}

theorem watchdogExpire_stays (h : (coreOf s core).act = none ∨ (coreOf s core).wdog ≠ 0 ∨ (coreOf s core).hold = true) :
    exec (.watchdogExpire core) s = .next s := by
  change execWatchdogExpire core s = _
  refine if_neg ?_
  rintro ⟨hact, hspent, hhold⟩
  rcases h with h | h | h
  · simp [h] at hact
  · exact h hspent
  · simp [h] at hhold

theorem watchdogExpire_spent {a : Act} (hact : (coreOf s core).act = some a) (hspent : (coreOf s core).wdog = 0) (hhold : (coreOf s core).hold = false) :
    exec (.watchdogExpire core) s = .next (takeTrap s core 0x23 none) := by
  change execWatchdogExpire core s = _
  exact if_pos ⟨by simp [hact], hspent, hhold⟩

/-- WDOG is not a resuming cause. -/
theorem takeTrap_watchdog : takeTrap s core 0x23 none = abortAct s core 0x23 (coreOf s core).pc := by
  simp [takeTrap, resuming]

end

end Sys2Proof.Machine
end

section
/-! ### An ageing queue, and the watchdog (05 R91; 07 R137) -/

namespace Sys2Proof.Machine

/-- A queue that has waited a period rises; nothing else of its core, and no other core, changes (05 R91). -/
theorem ageingTick_spec {s : State} {core slot q : Nat} {m : QMsg} {ms : List QMsg} (h : (queueOf (slotOf (coreOf s core) slot) q).msgs = m :: ms)
    (hold : agePeriod s (dieOf core) ≤ (queueOf (slotOf (coreOf s core) slot) q).age) :
    ∃ t : State, exec (.ageingTick core slot q) s = .next t ∧
      queueOf (slotOf (coreOf t core) slot) q = aged (agePeriod s (dieOf core)) m (queueOf (slotOf (coreOf s core) slot) q) ∧
      (coreOf t core).x = (coreOf s core).x ∧ (coreOf t core).act = (coreOf s core).act ∧ (∀ c, c ≠ core → coreOf t c = coreOf s c) ∧ t.mem = s.mem := by
  refine ⟨_, ageingTick_ages h hold, ?_, ?_, ?_, fun c hc => coreOf_updCore_other _ _ _ _ hc, rfl⟩
  · rw [coreOf_updCore_same, slotOf_updSlot_same, queueOf_setQueue_same]
  · rw [coreOf_updCore_same, updSlot, setSlot]
  · rw [coreOf_updCore_same, updSlot, setSlot]

/-- Settles O25: the start from the message's entry values, the drop from its fate, ageing from its queue, and WDOG from the record that an abort leaves. -/
theorem activations : Obligations.Activations := by
  unfold Obligations.Activations
  intro s core slot q
  refine ⟨activationStart_cannot, activationStart_idle, fun m r hcan hsucc hgates hruns hbest hres hknown hwhole => ?start,
    ⟨ageingTick_stays, fun m ms => ageingTick_spec⟩, watchdogExpire_stays, fun a hact hspent hhold => ?watchdog⟩
  case start =>
    have hchooses : Chooses s core slot q m := ⟨hcan, hsucc, hgates, hruns, hbest, hwhole⟩
    exact ⟨activationStart_start_spec hchooses hres hknown, activationStart_cancelled_spec hchooses hknown⟩
  case watchdog =>
    have hexec := watchdogExpire_spent hact hspent hhold
    refine ⟨hexec, fun htwin hrestart => ⟨_, hexec, _, takeTrap_watchdog ▸ abortAct_records hact htwin hrestart 0x23 _, ?_⟩⟩
    exact ⟨rfl, rfl, rfl, rfl, rfl, rfl⟩

end Sys2Proof.Machine
end

section
/-! ### SCHEDULER_LAUNCH (05 R86, R91, R95; 06 R106) -/

namespace Sys2Proof.Machine

section
variable {s : State} {die kid n rank : Nat} {k : Kernel} {pay : List Byte}

/-- A kernel that runs, with n live activations more. -/
def running (n : Nat) (k : Kernel) : Kernel := { k with state := 2, live := k.live + (n : Int) }

/-- A scheduler that launches a kernel: its queue entry freed. -/
def launching (s : State) (kid : Nat) (k : Kernel) (n : Nat) : State := updKernel (freeEntry s k) kid (running n)

theorem launching_only (s : State) (kid : Nat) (k : Kernel) (n : Nat) :
    launching s kid k n = { s with dies := (launching s kid k n).dies, kernels := (launching s kid k n).kernels } := by
  rw [launching, freeEntry_only]
  rfl

theorem kernelOf_launching (hk : kernelOf s kid = some k) (n : Nat) : kernelOf (launching s kid k n) kid = some (running n { k with qentry := false }) :=
  kernelOf_updKernel (kernelOf_freeEntry hk) fun _ => rfl

/-- What a launch does not concern reads as before. -/
theorem launching_keeps {β : Type} (φ : State → β) (hφ : ∀ s dies kernels, φ { s with dies := dies, kernels := kernels } = φ s := by intros; rfl)
    (s : State) (kid : Nat) (k : Kernel) (n : Nat) : φ (launching s kid k n) = φ s := by
  rw [launching_only]
  exact hφ s _ _

/-- A kernel that its die's scheduler may launch now: READY, of a live context, and the first of the plain and element kernels. -/
structure Launchable (s : State) (die kid : Nat) (k : Kernel) : Prop where
  found : kernelOf s kid = some k
  here : k.die = die
  ready : k.state = 1
  ok : kernelOk s k = true
  first : kernelFirst s k false = true

theorem schedulerLaunch_stays (hk : kernelOf s kid = some k)
    (h : k.die ≠ die ∨ k.state ≠ 1 ∨ k.shape = 1 ∨ k.shape = 2 ∨ kernelOk s k = false ∨ kernelFirst s k false = false) :
    exec (.schedulerLaunch die kid) s = .next s := by
  change execSchedulerLaunch die kid s = _
  simp only [execSchedulerLaunch, hk]
  exact if_pos h

theorem Launchable.goes (h : Launchable s die kid k) (hplain : k.shape ≠ 1) (hcrew : k.shape ≠ 2) :
    ¬ (k.die ≠ die ∨ k.state ≠ 1 ∨ k.shape = 1 ∨ k.shape = 2 ∨ kernelOk s k = false ∨ kernelFirst s k false = false) := by
  simp [h.here, h.ready, h.ok, h.first, hplain, hcrew]

/-! #### Plain kernels -/

/-- A launch whose payload cannot be read ends the kernel. -/
theorem schedulerLaunch_unread (h : Launchable s die kid k) (hshape : k.shape = 0) (hpay : launchPay s k = none) :
    exec (.schedulerLaunch die kid) s = .next (badKernel s k 0x45) := by
  have hgoes := h.goes (by rw [hshape]; decide) (by rw [hshape]; decide)
  change execSchedulerLaunch die kid s = _
  simp only [execSchedulerLaunch, h.found, if_neg hgoes, hpay]
  rw [if_neg (by rw [hshape]; decide)]

/-- The header of the launch message of a kernel's only rank. -/
def soleHdr (s : State) (k : Kernel) (rank : Nat) : MsgHdr := launchHdr k (freshMsg s k.cid).1 rank 0

/-- The package that has idDrawn the identifier of a launch message. -/
def idDrawn (s : State) (kid : Nat) (k : Kernel) : State := (freshMsg (launching s kid k 1) k.cid).2

/-- The launch message of a kernel of one rank, in the channel to its core. -/
def solePkt (s : State) (kid : Nat) (k : Kernel) (rank : Nat) (pay : List Byte) : Packet :=
  agentPkt (idDrawn s kid k) (schedOf (idDrawn s kid k) k.die) k.cid k.inc rank pay.length (soleHdr (launching s kid k 1) k rank) pay

theorem idDrawn_keeps {β : Type} (φ : State → β) (hφ : ∀ s dies kernels ctxs, φ { s with dies := dies, kernels := kernels, ctxs := ctxs } = φ s := by intros; rfl)
    (s : State) (kid : Nat) (k : Kernel) : φ (idDrawn s kid k) = φ s := by
  rw [idDrawn, launching_only]
  exact hφ s _ _ _

theorem foreignCore_idDrawn (s : State) (kid : Nat) (k : Kernel) (cid : Nat) (e : Word) : foreignCore (idDrawn s kid k) cid e = foreignCore s cid e := by
  refine foreignCore_congr (idDrawn_keeps State.chip ..) (idDrawn_keeps State.parts ..) (idDrawn_keeps State.cores ..) (fun c => ?_) cid e
  rw [idDrawn, ctxOf_freshMsg_w0]
  exact launching_keeps (fun t => (ctxOf t c).w0) (fun _ _ _ => rfl) ..

/-- A plain kernel of one rank that is VALID on this chip: its launch message goes, and it runs. -/
theorem schedulerLaunch_sole (h : Launchable s die kid k) (hshape : k.shape = 0) (hranks : k.ranks = [rank]) (hpay : launchPay s k = some pay)
    (hvalid : reState (rankEntry s k.cid rank) = 1) (hchip : reChip (rankEntry s k.cid rank) = s.chip)
    (hown : foreignCore s k.cid (rankEntry s k.cid rank) = false) :
    exec (.schedulerLaunch die kid) s = .next (settleKernel (chanPush (idDrawn s kid k) (solePkt s kid k rank pay)) kid) := by
  have hgoes := h.goes (by rw [hshape]; decide) (by rw [hshape]; decide)
  have hentry : rankEntry (idDrawn s kid k) k.cid rank = rankEntry s k.cid rank := idDrawn_keeps (fun t => rankEntry t k.cid rank) (fun _ _ _ _ => rfl) ..
  have hsend : agentSend (idDrawn s kid k) (schedOf (idDrawn s kid k) k.die) k.cid k.inc rank pay.length (soleHdr (launching s kid k 1) k rank) pay =
      some (chanPush (idDrawn s kid k) (solePkt s kid k rank pay)) := by
    refine agentSend_valid ?_ ?_ ?_
    · rw [hentry, hvalid]
    · rw [hentry, hchip]
      exact (idDrawn_keeps State.chip ..).symm
    · rw [hentry, foreignCore_idDrawn, hown]
  have hlaunch : launchRanks k pay k.ranks 0 (launching s kid k k.ranks.length) = some (chanPush (idDrawn s kid k) (solePkt s kid k rank pay)) := by
    rw [hranks]
    simp only [launchRanks]
    exact (congrArg (fun o : Option State => match o with | some s => some s | none => none) hsend)
  change execSchedulerLaunch die kid s = _
  simp only [execSchedulerLaunch, h.found, if_neg hgoes, hpay]
  rw [if_neg (by rw [hshape]; decide)]
  unfold launching running at hlaunch
  simp only [hlaunch]

/-- Its message is one packet more in the channel to its core, and the kernel runs with one live activation more. -/
theorem schedulerLaunch_sole_spec (h : Launchable s die kid k) (hshape : k.shape = 0) (hranks : k.ranks = [rank]) (hpay : launchPay s k = some pay)
    (hlive : 0 ≤ k.live) (hvalid : reState (rankEntry s k.cid rank) = 1) (hchip : reChip (rankEntry s k.cid rank) = s.chip)
    (hown : foreignCore s k.cid (rankEntry s k.cid rank) = false) :
    ∃ (t : State) (hdr : MsgHdr) (k' : Kernel), exec (.schedulerLaunch die kid) s = .next t ∧
      Stated.Sent s t (schedOf s die) (reAgent s (rankEntry s k.cid rank)) 2 (.msg hdr pay false) ∧
      hdr.kernel = kid ∧ hdr.trank = rank ∧ hdr.mkind = 4 ∧ hdr.x6 = 0 ∧ hdr.handler = k.handler ∧ hdr.queue = k.queue ∧ hdr.prio = k.prio ∧ hdr.job = k.job ∧
      kernelOf t kid = some k' ∧ k'.state = 2 ∧ k'.live = k.live + 1 ∧ k'.qentry = false ∧ t.cores = s.cores ∧ t.mem = s.mem := by
  have hkernel : kernelOf (chanPush (idDrawn s kid k) (solePkt s kid k rank pay)) kid = some (running 1 { k with qentry := false }) :=
    kernelOf_launching h.found 1
  have hruns : ¬ Settles (running 1 { k with qentry := false }) (chanPush (idDrawn s kid k) (solePkt s kid k rank pay)) := by
    rintro ⟨-, hzero, -⟩
    simp only [running] at hzero
    omega
  have hsrc : (solePkt s kid k rank pay).src = schedOf s die := by
    rw [← h.here]
    exact idDrawn_keeps (fun t => schedOf t k.die) (fun _ _ _ _ => rfl) s kid k
  have hdst : (solePkt s kid k rank pay).dst = reAgent s (rankEntry s k.cid rank) :=
    idDrawn_keeps (fun t => reAgent t (rankEntry t k.cid rank)) (fun _ _ _ _ => rfl) s kid k
  refine ⟨_, soleHdr (launching s kid k 1) k rank, _, ?_, ⟨solePkt s kid k rank pay, ?_, rfl, ?_, ?_, rfl⟩, kid_of_kernelOf h.found, rfl, rfl, rfl, rfl, rfl, rfl,
    rfl, hkernel, rfl, rfl, rfl, ?_, ?_⟩
  · rw [schedulerLaunch_sole h hshape hranks hpay hvalid hchip hown, settleKernel_stays hkernel hruns]
  · have hsent := chanQ_chanPush_same (idDrawn s kid k) (solePkt s kid k rank pay)
    rw [hsrc, hdst] at hsent
    refine hsent.trans (congrArg (· ++ [solePkt s kid k rank pay]) ?_)
    exact idDrawn_keeps (fun t => chanQ t (schedOf s die) (reAgent s (rankEntry s k.cid rank)) 2) (fun _ _ _ _ => rfl) s kid k
  · exact hsrc
  · exact hdst
  · exact idDrawn_keeps State.cores (fun _ _ _ _ => rfl) s kid k
  · exact idDrawn_keeps State.mem (fun _ _ _ _ => rfl) s kid k

end

end Sys2Proof.Machine
end

section
/-! ### Element kernels handed to the dispatchers (06 R106) -/

namespace Sys2Proof.Machine

/-! #### Elements by the dies that own them -/

theorem mem_foldl_addTo {α : Type} (f : α → Nat) (x : Nat) (as : List α) : ∀ l : List Nat,
    x ∈ as.foldl (fun l a => addTo (f a) l) l ↔ x ∈ l ∨ ∃ a ∈ as, f a = x := by
  induction as with
  | nil => simp
  | cons a as ih =>
    intro l
    rw [List.foldl_cons, ih, mem_addTo_iff]
    simp only [List.mem_cons, exists_eq_or_imp, eq_comm (a := x)]
    tauto

/-- The share of one owner, where some elements are its own. -/
theorem find_grouped {α : Type} (f : α → Nat) (as : List α) (x : Nat) :
    ((as.foldl (fun l a => addTo (f a) l) []).map fun d => (d, as.filter fun a => decide (f a = d))).find? (fun h => decide (h.1 = x)) =
      if as.filter (fun a => decide (f a = x)) = [] then none else some (x, as.filter fun a => decide (f a = x)) := by
  have hmem := mem_foldl_addTo f x as []
  rw [List.find?_map]
  split
  next hnone =>
    have hno : ∀ d ∈ as.foldl (fun l a => addTo (f a) l) [], d ≠ x := by
      rintro d hd rfl
      obtain ⟨a, ha, hfa⟩ := (hmem.mp hd).resolve_left List.not_mem_nil
      exact List.filter_eq_nil_iff.mp hnone a ha (decide_eq_true hfa)
    rw [Option.map_eq_none_iff, List.find?_eq_none]
    simpa using hno
  next hsome =>
    obtain ⟨a, ha⟩ := List.exists_mem_of_ne_nil _ hsome
    obtain ⟨ha, hfa⟩ := List.mem_filter.mp ha
    have hx : x ∈ as.foldl (fun l a => addTo (f a) l) [] := hmem.mpr (.inr ⟨a, ha, of_decide_eq_true hfa⟩)
    have hfind : (as.foldl (fun l a => addTo (f a) l) []).find? ((fun h => decide (h.1 = x)) ∘ fun d => (d, as.filter fun a => decide (f a = d))) = some x := by
      cases hd : (as.foldl (fun l a => addTo (f a) l) []).find? ((fun h => decide (h.1 = x)) ∘ fun d => (d, as.filter fun a => decide (f a = d))) with
      | none => exact absurd (decide_eq_true rfl) (List.find?_eq_none.mp hd x hx)
      | some d => rw [show d = x by simpa using List.find?_some hd]
    rw [hfind]
    rfl

section
variable {s : State} {die kid d : Nat} {k : Kernel} {a : AdjReg}

/-- The initial elements of a kernel that a die of this chip owns, ascending. -/
def elemsAt (s : State) (k : Kernel) (a : AdjReg) (d : Nat) : List Nat :=
  ((List.range k.count).map (k.first + ·)).filter fun e => decide (2 * (ownerAt s a e).1 + (ownerAt s a e).2 = 2 * s.chip + d)

theorem find_handOver (s : State) (k : Kernel) (a : AdjReg) (d : Nat) : (handOver s k a).find? (fun h => decide (h.1 = 2 * s.chip + d)) =
    if elemsAt s k a d = [] then none else some (2 * s.chip + d, elemsAt s k a d) :=
  find_grouped (fun e => 2 * (ownerAt s a e).1 + (ownerAt s a e).2) ((List.range k.count).map (k.first + ·)) (2 * s.chip + d)

/-! #### Cursors -/

/-- What a die's dispatcher gets of a kernel's elements. -/
def cursorsFor (s : State) (k : Kernel) (d : Nat) : List Cursor :=
  match k.hand.find? fun h => decide (h.1 = 2 * s.chip + d) with
  | some h => [{ kernel := k.kid, elems := h.2 }]
  | none => []

/-- A dispatcher that has got it. -/
def cursorPut (s : State) (k : Kernel) (d : Nat) : State :=
  match k.hand.find? fun h => decide (h.1 = 2 * s.chip + d) with
  | some h => updDie s d fun x => { x with disp := { x.disp with cursors := x.disp.cursors ++ [{ kernel := k.kid, elems := h.2 }] } }
  | none => s

theorem putCursors_eq (s : State) (k : Kernel) : putCursors s k = cursorPut (cursorPut s k 0) k 1 := rfl

theorem cursorPut_only (s : State) (k : Kernel) (d : Nat) : cursorPut s k d = { s with dies := (cursorPut s k d).dies } := by
  unfold cursorPut
  split <;> rfl

theorem cursors_cursorPut_same (s : State) (k : Kernel) (d : Nat) :
    (dieAt (cursorPut s k d) d).disp.cursors = (dieAt s d).disp.cursors ++ cursorsFor s k d := by
  unfold cursorPut cursorsFor
  split
  · rw [dieAt_updDie_same]
  · exact (List.append_nil _).symm

theorem dieAt_cursorPut_other (s : State) (k : Kernel) {d e : Nat} (h : e % 2 ≠ d % 2) : dieAt (cursorPut s k d) e = dieAt s e := by
  unfold cursorPut
  split
  · rw [updDie, dieAt_setDie_other _ _ _ _ h]
  · rfl

/-- Each of the two dispatchers gets its die's share. -/
theorem cursors_putCursors (s : State) (k : Kernel) (hd : d < 2) : (dieAt (putCursors s k) d).disp.cursors = (dieAt s d).disp.cursors ++ cursorsFor s k d := by
  rw [putCursors_eq]
  obtain rfl | rfl : d = 0 ∨ d = 1 := by omega
  · rw [dieAt_cursorPut_other _ _ (by decide), cursors_cursorPut_same]
  · rw [cursors_cursorPut_same, dieAt_cursorPut_other _ _ (by decide), cursorsFor, cursorPut_only]
    rfl

theorem putCursors_only (s : State) (k : Kernel) : putCursors s k = { s with dies := (putCursors s k).dies } := by
  rw [putCursors_eq, cursorPut_only (cursorPut s k 0), cursorPut_only s k 0]

/-! #### The launch -/

/-- A kernel with its elements cut by the dies that own them. -/
def cut (s : State) (k : Kernel) : Kernel := { k with hand := match kernelAdj s k with | some a => handOver s k a | none => [] }

theorem cursorsFor_cut (ha : kernelAdj s k = some a) (d : Nat) :
    cursorsFor s (cut s k) d = if elemsAt s k a d = [] then [] else [{ kernel := k.kid, elems := elemsAt s k a d }] := by
  by_cases hnone : elemsAt s k a d = []
  · simp only [cursorsFor, cut, ha, find_handOver, hnone, if_true]
  · simp only [cursorsFor, cut, ha, find_handOver, hnone, if_false]

/-- An element kernel's hand-over: the cursors of this chip's dispatchers put, and the span's other chips told. -/
def elemsHanded (s : State) (k : Kernel) : State :=
  (spanOthers s k.cid).foldl (fun t c => emit t { mgmtPkt t c k.cid 0x21 (.mgmt 15 0) with kinfo := some (cut s k) }) (putCursors s (cut s k))

theorem mailed_elemsHanded (s : State) (k : Kernel) : Mailed (putCursors s (cut s k)) (elemsHanded s k) := mailed_foldl (fun _ _ => mailed_emit ..) _ _

theorem schedulerLaunch_elements (h : Launchable s die kid k) (hshape : k.shape = 3) (hok : elemOk s k = true) (hcount : k.count ≠ 0) :
    exec (.schedulerLaunch die kid) s = .next (settleKernel (elemsHanded (launching s kid k k.count) k) kid) := by
  have hgoes := h.goes (by rw [hshape]; decide) (by rw [hshape]; decide)
  change execSchedulerLaunch die kid s = _
  simp only [execSchedulerLaunch, h.found, if_neg hgoes, if_pos hshape, hok, Bool.not_true, Bool.false_eq_true, if_false, if_neg hcount]
  rfl

/-- The kernel runs with its elements counted, and each die's dispatcher has its share. -/
theorem schedulerLaunch_elements_spec (h : Launchable s die kid k) (hshape : k.shape = 3) (hok : elemOk s k = true) (hcount : k.count ≠ 0) (hlive : 0 ≤ k.live) :
    ∃ (t : State) (k' : Kernel), exec (.schedulerLaunch die kid) s = .next t ∧ kernelOf t kid = some k' ∧ k'.state = 2 ∧ k'.live = k.live + k.count ∧
      (∀ (d : Nat) (a : AdjReg), d < 2 → kernelAdj s k = some a → (dieAt t d).disp.cursors =
        (dieAt s d).disp.cursors ++ if elemsAt s k a d = [] then [] else [{ kernel := kid, elems := elemsAt s k a d }]) ∧
      t.cores = s.cores ∧ t.mem = s.mem := by
  have hkernel : kernelOf (elemsHanded (launching s kid k k.count) k) kid = some (running k.count { k with qentry := false }) := by
    rw [(mailed_elemsHanded ..).keeps fun t => kernelOf t kid, putCursors_only]
    exact kernelOf_launching h.found k.count
  have hruns : ¬ Settles (running k.count { k with qentry := false }) (elemsHanded (launching s kid k k.count) k) := by
    rintro ⟨-, hzero, -⟩
    simp only [running] at hzero
    omega
  have hframe : ∀ {β : Type} (φ : State → β),
      (∀ s dies kernels chans e2e egress counted,
        φ { s with dies := dies, kernels := kernels, chans := chans, e2e := e2e, egress := egress, counted := counted } = φ s) →
      φ (elemsHanded (launching s kid k k.count) k) = φ s := by
    intro β φ hφ
    rw [(mailed_elemsHanded ..).keeps φ fun s chans e2e egress counted => hφ s s.dies s.kernels chans e2e egress counted, putCursors_only, launching_only]
    exact hφ s _ _ s.chans s.e2e s.egress s.counted
  refine ⟨_, _, ?_, hkernel, rfl, rfl, fun d a hd ha => ?_, hframe State.cores fun _ _ _ _ _ _ _ => rfl, hframe State.mem fun _ _ _ _ _ _ _ => rfl⟩
  · rw [schedulerLaunch_elements h hshape hok hcount, settleKernel_stays hkernel hruns]
  · have ha' : kernelAdj (launching s kid k k.count) k = some a := (launching_keeps (fun t => kernelAdj t k) (fun _ _ _ => rfl) ..).trans ha
    have helems : elemsAt (launching s kid k k.count) k a d = elemsAt s k a d := launching_keeps (fun t => elemsAt t k a d) (fun _ _ _ => rfl) ..
    have hbefore : (dieAt (launching s kid k k.count) d).disp.cursors = (dieAt s d).disp.cursors :=
      dieAt_freeEntry (fun x => x.disp.cursors) (fun _ _ => rfl) s k d
    rw [(mailed_elemsHanded ..).keeps fun t => (dieAt t d).disp.cursors, cursors_putCursors _ _ hd, cursorsFor_cut ha', helems, hbefore, kid_of_kernelOf h.found]

end

end Sys2Proof.Machine
end

section
/-! ### GATE_ARM: the places of a gang, and what stands before its gate (05 R93, R94) -/

namespace Sys2Proof.Machine

section
variable {s : State} {die kid : Nat} {k : Kernel} {g cs : List Nat}

/-- A READY gang or crew kernel of a die and of a live context, not yet placed. -/
structure Unplaced (s : State) (die kid : Nat) (k : Kernel) : Prop where
  found : kernelOf s kid = some k
  here : k.die = die
  ready : k.state = 1
  ok : kernelOk s k = true
  gated : k.shape = 1 ∨ k.shape = 2
  open_ : k.placed = false

theorem gateArm_stays (hk : kernelOf s kid = some k) (h : k.die ≠ die ∨ k.state ≠ 1 ∨ (k.shape ≠ 1 ∧ k.shape ≠ 2) ∨ kernelOk s k = false) :
    exec (.gateArm die kid) s = .next s := by
  change execGateArm die kid s = _
  simp only [execGateArm, hk]
  exact if_pos h

theorem Unplaced.goes (h : Unplaced s die kid k) : ¬ (k.die ≠ die ∨ k.state ≠ 1 ∨ (k.shape ≠ 1 ∧ k.shape ≠ 2) ∨ kernelOk s k = false) := by
  rintro (hdie | hstate | ⟨h1, h2⟩ | hok)
  · exact hdie h.here
  · exact hstate h.ready
  · exact h.gated.elim h1 h2
  · exact absurd h.ok (by simp [hok])

/-- A rank in transit holds the gate back. -/
theorem gateArm_waits (h : Unplaced s die kid k) (htransit : ∃ r ∈ k.ranks, reState (rankEntry s k.cid r) = 2)
    (hothers : ∀ r ∈ k.ranks, reState (rankEntry s k.cid r) ≠ 0 ∧ reState (rankEntry s k.cid r) ≠ 3) : exec (.gateArm die kid) s = .next s := by
  have hin : 2 ∈ k.ranks.map fun r => reState (rankEntry s k.cid r) := List.mem_map.mpr htransit
  have hinvalid : 0 ∉ k.ranks.map fun r => reState (rankEntry s k.cid r) := fun hm => by
    obtain ⟨r, hr, he⟩ := List.mem_map.mp hm
    exact (hothers r hr).1 he
  have habsent : 3 ∉ k.ranks.map fun r => reState (rankEntry s k.cid r) := fun hm => by
    obtain ⟨r, hr, he⟩ := List.mem_map.mp hm
    exact (hothers r hr).2 he
  change execGateArm die kid s = _
  simp only [execGateArm, h.found, if_neg h.goes, h.open_, Bool.false_eq_true, if_false]
  rw [if_neg fun hn => habsent hn.1, if_pos ⟨hin, hinvalid⟩]

/-- With every rank VALID the places are checked, and the next gate is armed. -/
theorem gateArm_places (h : Unplaced s die kid k) (hvalid : ∀ r ∈ k.ranks, reState (rankEntry s k.cid r) = 1) :
    exec (.gateArm die kid) s = .next (armNext (placeGangs s k) kid) := by
  have hone : ∀ n, n ≠ 1 → n ∉ k.ranks.map fun r => reState (rankEntry s k.cid r) := fun n hn hm => by
    obtain ⟨r, hr, he⟩ := List.mem_map.mp hm
    exact hn (he.symm.trans (hvalid r hr))
  change execGateArm die kid s = _
  simp only [execGateArm, h.found, if_neg h.goes, h.open_, Bool.false_eq_true, if_false]
  rw [if_neg fun hn => hone 3 (by decide) hn.1, if_neg fun hn => hone 2 (by decide) hn.1]

/-! #### Ranks placed wrongly -/

theorem armNext_idle (hk : kernelOf s kid = some k) (htodo : k.todo = []) : armNext s kid = s := by
  simp only [armNext, hk, nextGangs, htodo]
  split <;> rfl

theorem placeGangs_wrong (hgroups : gateGroups k = [g]) (hplace : groupPlace s k g = none) : placeGangs s k = badKernel s k 0x46 := by
  simp only [placeGangs, hgroups, List.mapM_cons, hplace]
  rfl

/-- A kernel whose ranks are placed wrongly is DONE with BADPLACE, and no gate is armed. -/
theorem gateArm_wrong_spec (h : Unplaced s die kid k) (htodo : k.todo = []) (hgroups : gateGroups k = [g])
    (hvalid : ∀ r ∈ k.ranks, reState (rankEntry s k.cid r) = 1) (hplace : groupPlace s k g = none) :
    ∃ (t : State) (k' : Kernel), exec (.gateArm die kid) s = .next t ∧ kernelOf t kid = some k' ∧ k'.state = 3 ∧
      (∃ r ∈ t.frecs, r.cause = 0x46 ∧ r.kind = 4 ∧ r.cid = k.cid) ∧ t.gangs = s.gangs ∧ t.cores = s.cores ∧ t.mem = s.mem := by
  have hdone := kernelOf_badKernel h.found 0x46
  refine ⟨badKernel s k 0x46, _, ?_, hdone, rfl, ⟨_, badRec_mem .., rfl, rfl, rfl⟩, badKernel_keeps State.gangs .., badKernel_keeps State.cores ..,
    badKernel_keeps State.mem ..⟩
  rw [gateArm_places h hvalid, placeGangs_wrong hgroups hplace, armNext_idle hdone htodo]

/-! #### Ranks placed rightly -/

/-- A kernel whose only gang is to be armed here. -/
def placedHere (k : Kernel) : Kernel := { k with placed := true, todo := [0] }

/-- The gang of a kernel placed rightly on this chip. -/
def gangPlaced (s : State) (kid : Nat) : State := updKernel s kid placedHere

theorem placeGangs_right (hk : kernelOf s kid = some k) (hshape : k.shape = 1) (hgroups : gateGroups k = [g]) (hplace : groupPlace s k g = some (s.chip, cs)) :
    placeGangs s k = gangPlaced s kid := by
  have hkid := kid_of_kernelOf hk
  subst hkid
  have hps : ([g].mapM fun g => groupPlace s k g) = some [(s.chip, cs)] := by
    simp only [List.mapM_cons, List.mapM_nil, hplace]
    rfl
  simp only [placeGangs, hgroups, hps, hshape]
  rw [if_neg fun hn => absurd hn.1 (by decide), if_neg (List.cons_ne_nil g [])]
  refine (if_pos rfl).trans ?_
  unfold gangPlaced placedHere
  simp

end

end Sys2Proof.Machine
end

section
/-! ### Launch messages behind their gates (05 R93; 07 R126, R129) -/

namespace Sys2Proof.Machine

/-- What arming the gates of some cores for a kernel does: each gets a launch message behind a gate, and PEND where an activation runs on it; the kernels, the
gangs, the rank tables, memory and the activations are as they were. -/
structure Gated (s t : State) (kid : Nat) (cs : List Nat) : Prop where
  kernels : t.kernels = s.kernels
  gangs : t.gangs = s.gangs
  ranks : t.ranks = s.ranks
  chip : t.chip = s.chip
  mem : t.mem = s.mem
  acts : ∀ c, (coreOf t c).act = (coreOf s c).act
  kept : ∀ c, ∀ y ∈ (coreOf s c).gates, y ∈ (coreOf t c).gates
  armed : ∀ c ∈ cs, ∃ y ∈ (coreOf t c).gates, y.1 = kid ∧ y.2.2.hdr.mkind = 4
  pend : ∀ c, (coreOf t c).pend = (decide (c ∈ cs) && (coreOf s c).act.isSome || (coreOf s c).pend)

theorem Undisturbed.gated {s t : State} (h : Undisturbed s t) (kid : Nat) : Gated s t kid [] := by
  have hparts := fun c => Prod.ext_iff.mp (h.cores c)
  have hrest := fun c => Prod.ext_iff.mp (hparts c).2
  refine ⟨h.kernels, h.gangs, h.ranks, h.chip, h.mem, fun c => (hparts c).1, fun c y hy => ?_, fun c hc => absurd hc List.not_mem_nil, fun c => ?_⟩
  · exact (show (coreOf t c).gates = (coreOf s c).gates from (hrest c).1) ▸ hy
  · simpa using (show (coreOf t c).pend = (coreOf s c).pend from (hrest c).2)

theorem Gated.trans {s t u : State} {kid : Nat} {cs cs' : List Nat} (h : Gated s t kid cs) (h' : Gated t u kid cs') : Gated s u kid (cs ++ cs') := by
  refine ⟨h'.kernels.trans h.kernels, h'.gangs.trans h.gangs, h'.ranks.trans h.ranks, h'.chip.trans h.chip, h'.mem.trans h.mem,
    fun c => (h'.acts c).trans (h.acts c), fun c y hy => h'.kept c y (h.kept c y hy), fun c hc => ?_, fun c => ?_⟩
  · rcases List.mem_append.mp hc with hc | hc
    · obtain ⟨y, hy, hkid, hkind⟩ := h.armed c hc
      exact ⟨y, h'.kept c y hy, hkid, hkind⟩
    · exact h'.armed c hc
  · rw [h'.pend, h.acts, h.pend, ← Bool.or_assoc, ← Bool.and_or_distrib_right]
    congr 2
    simp [Bool.or_comm]

/-- A core with one gate more. -/
def withGate (y : Nat × Nat × QMsg) (k : Core) : Core := { k with gates := k.gates ++ [y] }

/-- A core with PEND set. -/
def pending (k : Core) : Core := { k with pend := true }

/-- A gate put before a core's next activation. -/
def gatePut (s : State) (c : Nat) (y : Nat × Nat × QMsg) : State := updCore s c (withGate y)

/-- A core that has got a gate, and PEND where an activation runs on it; the rest of the package is as it was. -/
theorem gated_of_core {s t : State} {c : Nat} {y : Nat × Nat × QMsg} (honly : t = { s with cores := t.cores }) (hothers : ∀ d, d ≠ c → coreOf t d = coreOf s d)
    (hact : (coreOf t c).act = (coreOf s c).act) (hgates : (coreOf t c).gates = (coreOf s c).gates ++ [y])
    (hpend : (coreOf t c).pend = ((coreOf s c).act.isSome || (coreOf s c).pend)) (hkind : y.2.2.hdr.mkind = 4) : Gated s t y.1 [c] := by
  have hframe : t.kernels = s.kernels ∧ t.gangs = s.gangs ∧ t.ranks = s.ranks ∧ t.chip = s.chip ∧ t.mem = s.mem := by
    rw [honly]
    exact ⟨rfl, rfl, rfl, rfl, rfl⟩
  obtain ⟨hkernels, hgangs, hranks, hchip, hmem⟩ := hframe
  refine ⟨hkernels, hgangs, hranks, hchip, hmem, fun d => ?_, fun d z hz => ?_, fun d hd => ?_, fun d => ?_⟩
  · by_cases hd : d = c
    · rw [hd, hact]
    · rw [hothers d hd]
  · by_cases hd : d = c
    · subst hd
      rw [hgates]
      exact List.mem_append_left _ hz
    · exact hothers d hd ▸ hz
  · rw [List.mem_singleton.mp hd, hgates]
    exact ⟨y, List.mem_append_right _ (List.mem_singleton.mpr rfl), rfl, hkind⟩
  · by_cases hd : d = c
    · subst hd
      simp [hpend]
    · simp [hothers d hd, hd]

/-- A gate of a launch message, and PEND. -/
theorem gated_gatePut (s : State) (c : Nat) (y : Nat × Nat × QMsg) (hkind : y.2.2.hdr.mkind = 4) : Gated s (setPend (gatePut s c y) c) y.1 [c] := by
  have hput : coreOf (gatePut s c y) c = withGate y (coreOf s c) := coreOf_updCore_same ..
  have hothers : ∀ d, d ≠ c → coreOf (gatePut s c y) d = coreOf s d := fun d hd => coreOf_updCore_other _ _ _ _ hd
  by_cases hact : (coreOf s c).act.isSome
  · have hset : coreOf (updCore (gatePut s c y) c pending) c = pending (withGate y (coreOf s c)) := by rw [coreOf_updCore_same, hput]
    have hsetOthers : ∀ d, d ≠ c → coreOf (updCore (gatePut s c y) c pending) d = coreOf s d := fun d hd =>
      (coreOf_updCore_other _ _ _ _ hd).trans (hothers d hd)
    have hpend : setPend (gatePut s c y) c = wakeCore (updCore (gatePut s c y) c pending) c 5 := if_pos (by rw [hput]; exact hact)
    have hgated : Gated s (updCore (gatePut s c y) c pending) y.1 [c] :=
      gated_of_core rfl hsetOthers (by rw [hset]; rfl) (by rw [hset]; rfl) (by rw [hset, hact]; rfl) hkind
    rw [hpend]
    exact hgated.trans ((undisturbed_wakeCore ..).gated y.1)
  · have hpend : setPend (gatePut s c y) c = gatePut s c y := if_neg (by rw [hput]; exact hact)
    rw [hpend]
    exact gated_of_core rfl hothers (by rw [hput]; rfl) (by rw [hput]; rfl) (by rw [hput, Bool.eq_false_of_not_eq_true hact]; rfl) hkind

theorem hdr_placeLaunch (s : State) (c slot : Nat) (m : QMsg) : (placeLaunch s c slot m).1.hdr = m.hdr := by
  unfold placeLaunch
  dsimp only
  split <;> rfl

/-- A member's launch message, to stand behind its gate. -/
def gateMsg (s : State) (k : Kernel) (pay : List Byte) (rank n : Nat) : QMsg :=
  { hdr := launchHdr k (freshMsg s k.cid).1 rank n, cid := k.cid, inc := k.inc, addr := 0, len := 0, pay := pay, gate := true }

/-- It with its place in LAND, where there is room. -/
def gateMsgPlaced (s : State) (k : Kernel) (pay : List Byte) (rank n : Nat) : QMsg × State :=
  placeLaunch (freshMsg s k.cid).2 (reCore (rankEntry s k.cid rank)) (reSlot (rankEntry s k.cid rank)) (gateMsg s k pay rank n)

/-- One member's gate. -/
theorem gated_gateTo (s : State) (k : Kernel) (pay : List Byte) (rank n : Nat) :
    Gated s (gateTo s k pay rank n) k.kid [reCore (rankEntry s k.cid rank)] := by
  have hplaced := (undisturbed_freshMsg s k.cid).trans (undisturbed_placeLaunch (freshMsg s k.cid).2 (reCore (rankEntry s k.cid rank)) (reSlot (rankEntry s k.cid rank))
    (gateMsg s k pay rank n))
  have hkind : (gateMsgPlaced s k pay rank n).1.hdr.mkind = 4 := by rw [gateMsgPlaced, hdr_placeLaunch]; rfl
  exact (hplaced.gated k.kid).trans (gated_gatePut _ _ (k.kid, reSlot (rankEntry s k.cid rank), (gateMsgPlaced s k pay rank n).1) hkind)

/-- Every member's. -/
theorem gated_gateTos (k : Kernel) (pay : List Byte) (order : Nat → Nat) (g : List Nat) : ∀ s : State,
    Gated s (g.foldl (fun s r => gateTo s k pay r (order r)) s) k.kid (g.map fun r => reCore (rankEntry s k.cid r)) := by
  induction g with
  | nil => exact fun s => (Undisturbed.refl s).gated k.kid
  | cons r g ih =>
    intro s
    have hstep := gated_gateTo s k pay r (order r)
    have hranks : ∀ r', rankEntry (gateTo s k pay r (order r)) k.cid r' = rankEntry s k.cid r' := fun r' => by rw [rankEntry, hstep.ranks, rankEntry]
    have hrest := hstep.trans (ih (gateTo s k pay r (order r)))
    simp only [hranks] at hrest
    exact hrest

end Sys2Proof.Machine
end

section
/-! ### GATE_ARM: what stands before a gate is as before its kernel was placed (05 R94) -/

namespace Sys2Proof.Machine

section
variable {s : State} {kid c : Nat} {k x : Kernel} {g cs rows : List Nat} {pay : List Byte}

theorem placedHere_cases (kid : Nat) (x : Kernel) (P : Kernel → Prop) (hplaced : x.kid = kid → P (placedHere x)) (hother : x.kid ≠ kid → P x) :
    P (if x.kid = kid then placedHere x else x) := by
  split
  next h => exact hplaced h
  next h => exact hother h

/-- What a test of every kernel finds, where it sees nothing of a kernel's placing. -/
theorem all_gangPlaced (s : State) (kid : Nat) {P : Kernel → Bool} (hP : ∀ x, P (placedHere x) = P x) : (gangPlaced s kid).kernels.all P = s.kernels.all P := by
  refine (List.all_map ..).trans ?_
  congr 1
  funext x
  exact placedHere_cases kid x (P · = P x) (fun _ => hP x) fun _ => rfl

theorem kernelFirst_gangPlaced (s : State) (kid : Nat) (x : Kernel) (gated : Bool) : kernelFirst (gangPlaced s kid) x gated = kernelFirst s x gated :=
  all_gangPlaced s kid fun _ => rfl

theorem armedRows_gangPlaced (s : State) (kid : Nat) : armedRows (gangPlaced s kid) = armedRows s := by
  refine (List.flatMap_map ..).trans ?_
  congr 1
  funext x
  exact placedHere_cases kid x (Kernel.gates · = x.gates) (fun _ => rfl) fun _ => rfl

theorem nextGangs_gangPlaced (s : State) (kid : Nat) (x : Kernel) : nextGangs (gangPlaced s kid) x = nextGangs s x := rfl

/-- Another crew's wait does not depend on the kernel that is placed. -/
theorem crewWaits_gangPlaced (s : State) (k : Kernel) (rows : List Nat) : crewWaits (gangPlaced s k.kid) (placedHere k) rows = crewWaits s k rows := by
  refine (List.any_map ..).trans ?_
  simp only [crewWaits]
  congr 1
  funext x
  by_cases hx : x.kid = k.kid
  · have hx' : (placedHere x).kid = (placedHere k).kid := hx
    simp only [Function.comp_apply, hx, if_true, hx', ne_eq, not_true_eq_false, false_and, decide_false, Bool.false_and]
  · simp only [Function.comp_apply, if_neg hx, kernelFirst_gangPlaced]
    rfl

theorem readVa_gangPlaced (s : State) (kid cid va n : Nat) : readVa (gangPlaced s kid) cid va n = readVa s cid va n := rfl

theorem readBytes_congr {s t : State} {cid : Nat} (h : ∀ va, readVa t cid va 1 = readVa s cid va 1) (n : Nat) : ∀ va, readBytes t cid va n = readBytes s cid va n := by
  induction n with
  | zero => exact fun va => rfl
  | succ n ih => exact fun va => by rw [readBytes, readBytes, h, ih]

theorem launchPay_gangPlaced (s : State) (kid : Nat) (k : Kernel) : launchPay (gangPlaced s kid) (placedHere k) = launchPay s k := by
  have hread := readBytes_congr (fun va => readVa_gangPlaced s kid k.cid va 1) k.plen k.args
  simp only [launchPay, placedHere, hread]

/-! #### The gate is armed -/

/-- What holds of a placed kernel whose gang may be armed on this chip now. -/
structure Armable (s : State) (kid : Nat) (k : Kernel) (g cs : List Nat) (c : Nat) (pay : List Byte) : Prop where
  found : kernelOf s kid = some k
  plain : k.shape = 1
  first : kernelFirst s k true = true
  next : nextGangs s k = some [(g, cs)]
  head : cs.head? = some c
  read : launchPay s k = some pay
  home : kernelChip kid = s.chip
  free : gateable s cs = true
  unarmed : rowOf c ∉ armedRows s
  noCrew : crewWaits s k [rowOf c] = false

/-- A kernel that has a gang less to arm, its launch messages counted by its own chip. -/
def gangTaken (own : Prop) [Decidable own] (n : Nat) (x : Kernel) : Kernel :=
  { x with todo := x.todo.tail, live := if own then x.live + (n : Int) else x.live }

/-- The kernel counts the launch messages of a gang, which it has no longer to arm. -/
def gangCounted (s : State) (kid n : Nat) : State := updKernel s kid (gangTaken (kernelChip kid = s.chip) n)

/-- A kernel with one gate more on a row. -/
def gateCounted (row : Nat) (k : Kernel) : Kernel := { k with gates := k.gates ++ [row], armed := k.armed + 1 }

/-- The gang of some ranks of a kernel that starts together on a row. -/
def newGang (s : State) (k : Kernel) (g cs : List Nat) (row : Nat) : Gang :=
  { gid := nextGid s, kernel := k.kid, members := cs, present := cs, size := k.gang, row := row, crew := none,
    fused := fusedOf s k.gang (g.map fun r => (reCore (rankEntry s k.cid r), reSlot (rankEntry s k.cid r))) }

/-- A gang listed, and its gate counted by its kernel. -/
def gangListed (s : State) (k : Kernel) (g cs : List Nat) (row : Nat) : State :=
  updKernel { s with gangs := s.gangs ++ [newGang s k g cs row] } k.kid (gateCounted row)

theorem armGang_eq (s : State) (k : Kernel) (pay : List Byte) (g : List Nat) (hc : cs.head? = some c) :
    armGang s k pay g cs none = g.foldl (fun s r => gateTo s k pay r (k.ranks.idxOf r)) (gangListed s k g cs (rowOf c)) := by
  obtain ⟨cs', rfl⟩ := List.head?_eq_some_iff.mp hc
  rfl

/-- Every member of the gang has its gate. -/
theorem gated_armGang (s : State) (k : Kernel) (pay : List Byte) (g : List Nat) (hc : cs.head? = some c) :
    Gated (gangListed s k g cs (rowOf c)) (armGang s k pay g cs none) k.kid (g.map fun r => reCore (rankEntry s k.cid r)) := by
  rw [armGang_eq s k pay g hc]
  exact gated_gateTos k pay k.ranks.idxOf g _

theorem armNext_arms (h : Armable s kid k g cs c pay) :
    armNext s kid = gatesDone (armGang (gangCounted s kid g.length) k pay g cs none) kid (gateGroups k).length := by
  have hrows : gangRows [(g, cs)] = [rowOf c] := by simp [gangRows, h.head]
  have hcrew : ¬ k.shape = 2 := by rw [h.plain]; decide
  have hblocked : ¬ ((([rowOf c].any fun r => decide (r ∈ armedRows s)) || (decide (k.shape = 2) &&
      s.kernels.any fun x => decide (x.shape = 2) && x.gates.any fun r => decide (some (r / 64) = [rowOf c].head?.map (· / 64))) || crewWaits s k [rowOf c] ||
      ([(g, cs)].any fun x => !gateable s x.2)) = true) := by
    simp [h.unarmed, h.plain, h.noCrew, h.free]
  have hchip : (armGang (gangCounted s kid g.length) k pay g cs none).chip = s.chip := (gated_armGang _ k pay g h.head).chip
  simp only [armNext, h.found, h.first, h.next, h.read, Bool.not_true, Bool.false_eq_true, if_false, hrows]
  rw [if_neg hblocked]
  simp only [if_neg hcrew, List.foldl_cons, List.foldl_nil]
  exact if_pos (h.home.trans hchip.symm)

end

end Sys2Proof.Machine
end

section
/-! ### Launches (chapter 05) -/

namespace Sys2Proof.Machine

section
variable {s : State} {die kid c : Nat} {k : Kernel} {g cs : List Nat} {pay : List Byte}

theorem groupPlace_cores {ch : Nat} (h : groupPlace s k g = some (ch, cs)) : (g.map fun r => reCore (rankEntry s k.cid r)) = cs := by
  unfold groupPlace at h
  dsimp only at h
  split at h
  · split at h
    · rw [← (Prod.mk.inj (Option.some.inj h)).2, List.map_map]
      rfl
    · cases h
  · cases h

/-- The kernel's only gang is the next to be armed once its places are known. -/
theorem nextGangs_placedHere (hgroups : gateGroups k = [g]) (hshape : k.shape = 1) (hplace : groupPlace s k g = some (s.chip, cs)) :
    nextGangs (gangPlaced s kid) (placedHere k) = some [(g, cs)] := by
  have hgroups' : gateGroups (placedHere k) = [g] := hgroups
  have hplace' : groupPlace s (placedHere k) g = some (s.chip, cs) := hplace
  have hshape' : (placedHere k).shape ≠ 2 := by rw [show (placedHere k).shape = 1 from hshape]; decide
  have htodo : (placedHere k).todo = [0] := rfl
  rw [nextGangs_gangPlaced]
  simp only [nextGangs, htodo, hgroups', if_neg hshape', List.drop_zero, List.take_succ_cons, List.take_zero, List.mapM_cons, List.mapM_nil, hplace', if_true]
  rfl

/-- What a gang kernel fulfils whose gate is armed now: its only gang placed rightly on this chip, nothing before it, and its row free. -/
structure GangReady (s : State) (kid : Nat) (k : Kernel) (g cs : List Nat) (c : Nat) (pay : List Byte) : Prop where
  shape : k.shape = 1
  groups : gateGroups k = [g]
  valid : ∀ r ∈ k.ranks, reState (rankEntry s k.cid r) = 1
  place : groupPlace s k g = some (s.chip, cs)
  head : cs.head? = some c
  first : kernelFirst s k true = true
  read : launchPay s k = some pay
  noneArmed : k.armed = 0
  home : kernelChip kid = s.chip
  free : gateable s cs = true
  unarmed : rowOf c ∉ armedRows s
  noCrew : crewWaits s k [rowOf c] = false

theorem GangReady.armable (h : GangReady s kid k g cs c pay) (hk : kernelOf s kid = some k) : Armable (gangPlaced s kid) kid (placedHere k) g cs c pay := by
  have hcrew := crewWaits_gangPlaced s k [rowOf c]
  rw [kid_of_kernelOf hk] at hcrew
  exact ⟨kernelOf_updKernel hk fun _ => rfl, h.shape, (kernelFirst_gangPlaced ..).trans h.first, nextGangs_placedHere h.groups h.shape h.place, h.head,
    (launchPay_gangPlaced ..).trans h.read, h.home, h.free, armedRows_gangPlaced s kid ▸ h.unarmed, hcrew.trans h.noCrew⟩

/-- A kernel with all of its gates armed, that runs. -/
def gangRunning (n row : Nat) (k : Kernel) : Kernel :=
  { k with placed := true, todo := [], live := k.live + (n : Int), gates := k.gates ++ [row], armed := k.armed + 1, qentry := false, state := 2 }

/-- The kernel before its last gate is noted. -/
def gangArmed (n row : Nat) (k : Kernel) : Kernel :=
  { k with placed := true, todo := [], live := k.live + (n : Int), gates := k.gates ++ [row], armed := k.armed + 1 }

/-- The package with the gang listed. -/
def gangReadied (s : State) (kid : Nat) (k : Kernel) (g cs : List Nat) (row : Nat) : State :=
  gangListed (gangCounted (gangPlaced s kid) kid g.length) (placedHere k) g cs row

theorem kernelOf_gangReadied (hk : kernelOf s kid = some k) (home : kernelChip kid = s.chip) (row : Nat) :
    kernelOf (gangReadied s kid k g cs row) kid = some (gangArmed g.length row k) := by
  have hplaced : kernelOf (gangPlaced s kid) kid = some (placedHere k) := kernelOf_updKernel hk fun _ => rfl
  have hcounted : kernelOf (gangCounted (gangPlaced s kid) kid g.length) kid = some (gangTaken (kernelChip kid = s.chip) g.length (placedHere k)) :=
    kernelOf_updKernel hplaced fun _ => rfl
  have hkid := kid_of_kernelOf hk
  subst hkid
  refine (kernelOf_updKernel (f := gateCounted row) (s := { gangCounted (gangPlaced s k.kid) k.kid g.length with gangs := _ }) hcounted fun _ => rfl).trans ?_
  rw [gangTaken, if_pos home]
  rfl

/-- The gate armed: the gang is listed, the kernel runs, and every member has its launch message. -/
theorem gateArm_gang_spec (h : Unplaced s die kid k) (hready : GangReady s kid k g cs c pay) :
    ∃ (t : State) (x : Gang) (k' : Kernel), exec (.gateArm die kid) s = .next t ∧ t.gangs = s.gangs ++ [x] ∧ x.kernel = kid ∧ x.members = cs ∧ x.present = cs ∧
      x.size = k.gang ∧ x.row = rowOf c ∧ kernelOf t kid = some k' ∧ k'.state = 2 ∧ k'.live = k.live + g.length ∧ k'.gates = k.gates ++ [rowOf c] ∧
      (∀ x ∈ cs, ∃ y ∈ (coreOf t x).gates, y.1 = kid ∧ y.2.2.hdr.mkind = 4 ∧ (coreOf t x).pend = ((coreOf s x).act.isSome || (coreOf s x).pend)) ∧
      t.mem = s.mem := by
  have hkid := kid_of_kernelOf h.found
  have hgated : Gated (gangReadied s kid k g cs (rowOf c)) (armGang (gangCounted (gangPlaced s kid) kid g.length) (placedHere k) pay g cs none) kid cs := by
    have hall := gated_armGang (gangCounted (gangPlaced s kid) kid g.length) (placedHere k) pay g hready.head
    have hcores : (g.map fun r => reCore (rankEntry (gangCounted (gangPlaced s kid) kid g.length) (placedHere k).cid r)) = cs := groupPlace_cores hready.place
    rw [hcores, show (placedHere k).kid = kid from hkid] at hall
    exact hall
  generalize harmed : armGang (gangCounted (gangPlaced s kid) kid g.length) (placedHere k) pay g cs none = u at hgated
  have hkernel : kernelOf u kid = some (gangArmed g.length (rowOf c) k) :=
    (kernelOf_of_kernels hgated.kernels kid).trans (kernelOf_gangReadied h.found hready.home (rowOf c))
  have hgroups : (gateGroups (placedHere k)).length = 1 := congrArg List.length (show gateGroups (placedHere k) = [g] from hready.groups)
  have hdone : gatesDone u kid 1 = updKernel (freeEntry u (gangArmed g.length (rowOf c) k)) kid fun k => { k with state := 2 } := by
    simp only [gatesDone, hkernel]
    exact if_pos ⟨congrArg (· + 1) hready.noneArmed, h.ready⟩
  have hexec : exec (.gateArm die kid) s = .next (updKernel (freeEntry u (gangArmed g.length (rowOf c) k)) kid fun k => { k with state := 2 }) := by
    rw [gateArm_places h hready.valid, placeGangs_right h.found hready.shape hready.groups hready.place, armNext_arms (hready.armable h.found), harmed, hgroups, hdone]
  have hread : ∀ {β : Type} (φ : State → β), (∀ s dies kernels, φ { s with dies := dies, kernels := kernels } = φ s) →
      φ (updKernel (freeEntry u (gangArmed g.length (rowOf c) k)) kid fun k => { k with state := 2 }) = φ u := by
    intro β φ hφ
    rw [freeEntry_only]
    exact hφ u _ _
  refine ⟨_, newGang (gangCounted (gangPlaced s kid) kid g.length) (placedHere k) g cs (rowOf c), gangRunning g.length (rowOf c) k, hexec, ?_, hkid, rfl, rfl, rfl, rfl,
    ?_, rfl, rfl, rfl, fun x hx => ?_, ?_⟩
  · exact (hread State.gangs fun _ _ _ => rfl).trans hgated.gangs
  · exact kernelOf_updKernel (kernelOf_freeEntry hkernel) fun _ => rfl
  · rw [hread (fun t => coreOf t x) fun _ _ _ => rfl]
    obtain ⟨y, hy, hykid, hkind⟩ := hgated.armed x hx
    refine ⟨y, hy, hykid, hkind, (hgated.pend x).trans ?_⟩
    rw [decide_eq_true hx, Bool.true_and]
    rfl
  · exact (hread State.mem fun _ _ _ => rfl).trans hgated.mem

end

/-- Settles O24: what holds a launch back, the launch of a plain kernel of one rank and of an element kernel, and the arming of a gang's gate. -/
theorem launches : Obligations.Launches := by
  unfold Obligations.Launches
  intro s die kid k hk
  refine ⟨fun hidle => ⟨?_, ?_⟩, fun hshape => ?_, fun h1 h2 => gateArm_stays hk (.inr (.inr (.inl ⟨h1, h2⟩))), fun hdie hready hok =>
    ⟨fun rank pay hfirst hshape hranks hpay hlive hvalid hchip hown => ?sole, fun hfirst hshape hpay => ?unread, fun hfirst hshape helem hcount hlive => ?elements,
      fun hshape hopen => ?waits, fun g cs c pay hshape hopen hgroups hvalid hplace hhead hfirst hpay harmed hhome hfree hrow hcrew => ?gang,
      fun g hshape hopen htodo hgroups hvalid hplace => ?wrong⟩⟩
  · refine schedulerLaunch_stays hk ?_
    tauto
  · refine gateArm_stays hk ?_
    tauto
  · refine schedulerLaunch_stays hk ?_
    tauto
  case sole => exact schedulerLaunch_sole_spec ⟨hk, hdie, hready, hok, hfirst⟩ hshape hranks hpay hlive hvalid hchip hown
  case unread =>
    exact ⟨_, _, schedulerLaunch_unread ⟨hk, hdie, hready, hok, hfirst⟩ hshape hpay, kernelOf_badKernel hk 0x45, rfl,
      ⟨_, badRec_mem .., rfl, rfl, rfl, rfl⟩, badKernel_keeps State.cores .., badKernel_keeps State.mem ..⟩
  case elements => exact schedulerLaunch_elements_spec ⟨hk, hdie, hready, hok, hfirst⟩ hshape helem hcount hlive
  case waits => exact gateArm_waits ⟨hk, hdie, hready, hok, hshape, hopen⟩
  case gang =>
    exact gateArm_gang_spec ⟨hk, hdie, hready, hok, .inl hshape, hopen⟩ ⟨hshape, hgroups, hvalid, hplace, hhead, hfirst, hpay, harmed, hhome, hfree, hrow, hcrew⟩
  case wrong => exact gateArm_wrong_spec ⟨hk, hdie, hready, hok, .inl hshape, hopen⟩ htodo hgroups hvalid hplace

end Sys2Proof.Machine
end

section
/-! ### An instruction that completes on the current core: its frame (14 R270) -/

namespace Sys2Proof.Machine
open Stated

variable {s : State} {k : Core}

/-- What the advance changes of a core. -/
theorem advance_eq (k : Core) : advance k = { k with pc := (advance k).pc, loops := (advance k).loops, vgot := [], vpos := 0 } := by
  unfold advance passTo
  split <;> rfl

/-- What a write to x[r] changes of a core. -/
theorem wx_eq (k : Core) (r : Reg) (v : Word) : wx k r v = { k with x := (wx k r v).x, badRegs := (wx k r v).badRegs } := by
  unfold wx
  split <;> rfl

/-- The advance looks at the PC, the loop stack and whether a handler runs, and at nothing else. -/
theorem advance_of_same {k k' : Core} (hpc : k'.pc = k.pc) (hloops : k'.loops = k.loops) (htrapped : k'.trapped = k.trapped) :
    (advance k').pc = (advance k).pc ∧ (advance k').loops = (advance k).loops := by
  simp only [advance, passTo, hpc, hloops, htrapped]
  split <;> exact ⟨rfl, rfl⟩

theorem onlyCore_setCC (s : State) (k : Core) : OnlyCore s (setCC s k) := ⟨rfl, fun c hc => coreOf_setCC_other s c k hc⟩

theorem onlyCore_done (s : State) (f : Core → Core) : OnlyCore s (done s f) := onlyCore_setCC s _

/-- An instruction that completes and leaves the PC to the advance passes on. -/
theorem passes_done {f : Core → Core} (hpc : (f (cc s)).pc = (cc s).pc) (hloops : (f (cc s)).loops = (cc s).loops)
    (htrapped : (f (cc s)).trapped = (cc s).trapped) : Passes s (done s f) := by
  rw [Passes, cc_done]
  exact advance_of_same hpc hloops htrapped

end Sys2Proof.Machine
end

section
/-! ### Queue registers (07 R140; 04 R69) -/

namespace Sys2Proof.Machine
open Stated

variable {s : State} {k : Core}

@[simp] theorem qreg_setQreg_same (k : Core) (n : Nat) (l : List Word) : qreg (setQreg k n l) n = l := by
  simp [qreg, setQreg, List.getD_eq_getElem?_getD, Nat.mod_lt]

@[simp] theorem qreg_popQ_same (k : Core) (n : Nat) : qreg (popQ k n) n = (qreg k n).tail := qreg_setQreg_same k n _

@[simp] theorem qreg_advance (k : Core) (n : Nat) : qreg (advance k) n = qreg k n := by rw [qreg, advance_q, qreg]

@[simp] theorem qreg_wx (k : Core) (r : Reg) (v : Word) (n : Nat) : qreg (wx k r v) n = qreg k n := by rw [qreg, wx_q, qreg]

theorem exec_queuePop (s : State) (rd : Reg) (n : BitVec 2) : exec (.queuePop rd n) s = qPop s rd n.toNat := by
  have hn := n.isLt
  have hknown : csrKnown (0x018 + n.toNat) = true := by simp [csrKnown]; omega
  have hsup : csrSup (0x018 + n.toNat) = false := by simp [csrSup]; omega
  have hq : csrQueue (0x018 + n.toNat) = true := by simp [csrQueue]; omega
  change csrRead s rd (0x018 + n.toNat) = _
  simp [csrRead, hknown, hsup, hq]

theorem exec_queuePush (s : State) (n : BitVec 2) (ra : Reg) : exec (.queuePush n ra) s = qPush s n.toNat (rx (cc s) ra) := by
  have hn := n.isLt
  have hq : csrQueue (0x018 + n.toNat) = true := by simp [csrQueue]; omega
  have hmay : csrRefused s (0x018 + n.toNat) 0 = none := by
    have hknown : csrKnown (0x018 + n.toNat) = true := by simp [csrKnown]; omega
    have hro : csrRO (0x018 + n.toNat) = false := by simp [csrRO]; omega
    have hsup : csrSup (0x018 + n.toNat) = false := by simp [csrSup]; omega
    have hregion : csrRegion (0x018 + n.toNat) = false := by simp [csrRegion]; omega
    have hxb : 0x018 + n.toNat ≠ 0x010 := by omega
    have htrappc : 0x018 + n.toNat ≠ 0x013 := by omega
    simp [csrRefused, hknown, hro, hsup, hregion, hxb, htrappc]
  change csrWrite s (0x018 + n.toNat) (rx (cc s) ra) = _
  simp [csrWrite, hmay, hq]

section
variable {i : Nat}

theorem qPop_empty {rd : Reg} (h : qreg (cc s) i = []) : qPop s rd i = .next s := by
  simp only [qPop, h]

theorem qPop_poisoned {rd : Reg} {v : Word} {l : List Word} (h : qreg (cc s) i = v :: l) (hbad : headBad (cc s) i = true) : qPop s rd i = .next (sealCore s s.cur) := by
  simp only [qPop, h, if_pos hbad]

theorem qPop_item {rd : Reg} {v : Word} {l : List Word} (h : qreg (cc s) i = v :: l) (hbad : headBad (cc s) i = false) :
    qPop s rd i = .next (done s fun k => wx (popQ k i) rd v) := by
  simp only [qPop, h, hbad, Bool.false_eq_true, if_false]

theorem qPush_full {v : Word} (h : 4 ≤ (qreg (cc s) i).length) : qPush s i v = .next s := if_pos h

theorem qPush_room {v : Word} (h : (qreg (cc s) i).length < 4) : qPush s i v = .next (done s fun k => setQreg k i (qreg k i ++ [v])) := if_neg (by omega)

end

/-- Settles O2: a pop takes the head, a push joins the tail, and both wait at the bounds. -/
theorem queueRegisters : Obligations.QueueRegisters := by
  unfold Obligations.QueueRegisters
  intro s rd ra n v l q
  rw [exec_queuePop, exec_queuePush]
  refine ⟨qPop_poisoned, fun hq hbad => ⟨_, qPop_item hq hbad, ?_, ?_, fun r hr => ?_, passes_done ?_ ?_ ?_, onlyCore_done .., ?_⟩, qPop_empty,
    fun hroom => ⟨_, qPush_room hroom, ?_, passes_done rfl rfl rfl, onlyCore_done .., ?_⟩, qPush_full⟩
  · change qreg (cc (done s _)) _ = l
    rw [cc_done, qreg_advance, qreg_wx, qreg_popQ_same]
    exact congrArg List.tail hq
  · rw [cc_done, rx_advance]
    split
    next h0 => rw [h0, rx_zero]
    next h0 => exact rx_wx_same _ _ _ h0
  · rw [cc_done, rx_advance, rx_wx_other _ _ _ _ hr]
    rfl
  · exact wx_pc ..
  · exact wx_loops ..
  · exact wx_trapped ..
  · rw [cc_done, advance_eq, wx_eq]
    rfl
  · change qreg (cc (done s _)) _ = _
    rw [cc_done, qreg_advance, qreg_setQreg_same]
  · rw [cc_done, advance_eq]
    rfl

end Sys2Proof.Machine
end

section
/-! ### The status words, field by field (07 R129; 12 R226) -/

namespace Sys2Proof.Machine

theorem b2n_le_one (b : Bool) : b2n b ≤ 1 := by
  cases b <;> decide

theorem b2n_eq_one_iff (b : Bool) : decide (b2n b = 1) = b := by
  cases b <;> rfl

section
variable {k : Core} {a : Act} (hact : k.act = some a)
include hact

/-- ACTSTAT with every field in its range. -/
theorem actstat_fields (hlen : k.sb.length ≤ 64) (hbytes : sbBytes k ≤ 4096) (hslot : a.slot < 4) (hqueue : a.queue < 4) (hhandler : a.handler < 64)
    (haborts : k.aborts ≤ 3) (hclrby : k.clrby ≤ 5) :
    fld (actstat k) 51 39 = sbBytes k ∧ fld (actstat k) 38 32 = k.sb.length ∧ fld (actstat k) 23 22 = a.slot ∧ fld (actstat k) 21 20 = a.queue ∧
    fld (actstat k) 19 14 = a.handler ∧ fld (actstat k) 13 12 = k.aborts ∧ fld (actstat k) 11 8 = k.clrby ∧ bit (actstat k) 4 = k.pend ∧
    bit (actstat k) 3 = k.pair ∧ bit (actstat k) 2 = k.inh ∧ bit (actstat k) 1 = k.trapped ∧ bit (actstat k) 0 = k.restart ∧
    fld (actstat k) 63 52 = 0 ∧ fld (actstat k) 31 24 = 0 ∧ fld (actstat k) 7 5 = 0 := by
  have hpend := b2n_le_one k.pend
  have hpair := b2n_le_one k.pair
  have hinh := b2n_le_one k.inh
  have htrapped := b2n_le_one k.trapped
  have hrestart := b2n_le_one k.restart
  have hbits : ∀ (b : Bool) (i : Nat), fld (actstat k) i i = b2n b → bit (actstat k) i = b := fun b i h => by
    rw [bit_eq_fld, h, b2n_eq_one_iff]
  refine ⟨?_, ?_, ?_, ?_, ?_, ?_, ?_, hbits _ _ ?_, hbits _ _ ?_, hbits _ _ ?_, hbits _ _ ?_, hbits _ _ ?_, ?_, ?_, ?_⟩ <;>
  · rw [actstat, hact, fld_wd _ _ _ (by omega), fldN]
    simp only [Option.map_some, Option.getD_some]
    omega

/-- COREID of a core of this package. -/
theorem coreid_fields {s : State} (hk : coreOf s s.cur = k) (hcur : s.cur < 2048) (hchip : s.chip < 1024) (hslot : a.slot < 4) :
    fld (coreidWord s s.cur) 23 14 = s.chip ∧ fld (coreidWord s s.cur) 13 13 = s.cur / 1024 ∧ fld (coreidWord s s.cur) 12 3 = s.cur % 1024 ∧
    fld (coreidWord s s.cur) 1 0 = a.slot ∧ fld (coreidWord s s.cur) 63 24 = 0 := by
  have hcs : curSlot (coreOf s s.cur) = a.slot := by rw [hk, curSlot, hact]
  refine ⟨?_, ?_, ?_, ?_, ?_⟩ <;>
  · rw [coreidWord, hcs, dieOf, agentOf, fld_wd _ _ _ (by omega), fldN]
    omega

/-- SELF. -/
theorem self_fields (hcid : a.cid < 4096) (hinc : a.inc < 4096) (hrank : a.rank < 65536) :
    fld (selfWord k) 39 28 = a.cid ∧ fld (selfWord k) 27 16 = a.inc ∧ fld (selfWord k) 15 0 = a.rank ∧ fld (selfWord k) 63 40 = 0 := by
  refine ⟨?_, ?_, ?_, ?_⟩ <;>
  · rw [selfWord, actCtx, hact, fld_wd _ _ _ (by omega), fldN]
    omega

end

/-- Settles O3: a control register read is its status word, and the word's fields do not overlap. -/
theorem statusWords : Obligations.StatusWords := by
  unfold Obligations.StatusWords
  intro s a k st id se hact hcur hchip hlen hbytes hslot hqueue hhandler haborts hclrby hcid hinc hrank
  obtain ⟨h1, h2, h3, h4, h5, h6, h7, h8, h9, h10, h11, h12, h13, h14, h15⟩ := actstat_fields hact hlen hbytes hslot hqueue hhandler haborts hclrby
  obtain ⟨i1, i2, i3, i4, i5⟩ := coreid_fields hact rfl hcur hchip hslot
  obtain ⟨e1, e2, e3, e4⟩ := self_fields hact hcid hinc hrank
  exact ⟨h1, h2, h3, h4, h5, h6, h7, h8, h9, h10, h11, h12, h13, h14, h15, i1, i2, i3, i4, i5, e1, e2, e3, e4, rfl, rfl⟩

/-- Settles O37: no memory and no core is listed. -/
theorem resetIsOk : Obligations.ResetIsOk := rfl

end Sys2Proof.Machine
end

section
/-! ### The step: what the agenda moves, and what a scalar stream does (09 R169; 07 R138; 12 R223) -/

namespace Sys2Proof.Machine

variable {s : State} {ms : List Move}

/-! #### The move at the head of the agenda -/

theorem step_of_agenda_nil (h : s.agenda = []) : step s = coreStep { s with free := s.free + 1 } := by
  simp only [step, h]

theorem step_of_agenda_core {c : Nat} (h : s.agenda = .core c :: ms) : step s = coreStep { s with free := s.free + 1, agenda := ms, cur := c } := by
  simp only [step, h]

theorem step_of_agenda_tick {n : Nat} (h : s.agenda = .tick n :: ms) :
    step s = .next (if s.boot.state = 2 then tick n { s with free := s.free + 1, agenda := ms } else passTime n { s with free := s.free + 1, agenda := ms }) := by
  simp only [step, h]

/-- An agent's move is its step, unless only a scalar stream performs it or the package is halted. -/
theorem step_of_agenda_ev {i : Instr} (h : s.agenda = .ev i :: ms) :
    step s = if selfStep i = true ∧ (s.boot.state ≠ 2 ∨ haltedStep i = true) then exec i { s with free := s.free + 1, agenda := ms }
      else .next { s with free := s.free + 1, agenda := ms } := by
  simp only [step, h]
  congr 1
  simp

/-! #### The scalar stream -/

theorem coreStep_halted (h : s.boot.state = 2) : coreStep s = .fault .packageHalted := if_pos h

theorem coreStep_unconfigured (h : s.boot.state = 3) (hsup : isSup s.cur = true) : coreStep s = .next s := by
  rw [coreStep, if_neg (by omega), if_pos ⟨h, hsup⟩]

theorem coreStep_run {i : Instr} (h : s.boot.state ≠ 2) (h' : ¬ (s.boot.state = 3 ∧ isSup s.cur = true)) (hi : issue s = .run i) : coreStep s = exec i s := by
  rw [coreStep, if_neg h, if_neg h', hi]

theorem coreStep_moved {t : State} (h : s.boot.state ≠ 2) (h' : ¬ (s.boot.state = 3 ∧ isSup s.cur = true)) (hi : issue s = .moved t) : coreStep s = .next t := by
  rw [coreStep, if_neg h, if_neg h', hi]

/-- Past every check of the fetch, the instruction at the PC runs, or its poisoned register seals the core. -/
theorem issue_decoded {a : Act} {i : Instr} {rest : List Byte} (hact : (cc s).act = some a) (htime : (cc s).wdog ≠ 0 ∨ (cc s).hold = true) (howed : (cc s).owed = none)
    (hfetch : fetchFault (cc s) = none) (hdec : decodeBytes (rdBytes (cc s).lm (cc s).pc.toNat 4) = .ok (i, rest)) (hpend : waitsPending (cc s) i = false) :
    issue s = if (cc s).wait = .idle ∧ readsBad (cc s) i = true then .moved (sealCore s s.cur) else .run i := by
  have hwatch : ¬ ((cc s).wdog = 0 ∧ (cc s).hold = false) := by
    rintro ⟨h0, h1⟩
    simp [h0, h1] at htime
  simp only [issue, hact, if_neg hwatch, howed, hfetch, fetchBytes, hdec, hpend]
  simp

/-- Settles O39: each move of the agenda, and the scalar stream past its checks. -/
theorem stepRunsDecoded : Obligations.StepRunsDecoded := by
  unfold Obligations.StepRunsDecoded
  refine ⟨fun s => step_of_agenda_nil, fun s c ms => step_of_agenda_core, fun s a i rest hb hsup hact htime howed hfetch hdec hpend => ?decoded, fun s => coreStep_halted,
    fun s => coreStep_unconfigured, fun s i ms hag hself hb => ?self, fun s i ms hag hno => ?stream, fun s n ms hag => ?tick⟩
  case decoded =>
    have hissue := issue_decoded hact htime howed hfetch hdec hpend
    refine ⟨fun hrun => coreStep_run hb hsup ?_, fun hidle hbad => coreStep_moved hb hsup ?_⟩
    · rw [hissue, if_neg]
      rintro ⟨hidle, hbad⟩
      simp [hidle, hbad] at hrun
    · rw [hissue, if_pos ⟨hidle, hbad⟩]
  case self => rw [step_of_agenda_ev hag, if_pos ⟨hself, hb⟩]
  case stream =>
    rw [step_of_agenda_ev hag, if_neg]
    rintro ⟨hself, hb⟩
    rcases hno with hno | ⟨hhalt, hno⟩
    · simp [hno] at hself
    · simp [hhalt, hno] at hb
  case tick =>
    rw [step_of_agenda_tick hag]
    exact ⟨fun hb => by rw [if_neg hb], fun hb => by rw [if_pos hb]⟩

end Sys2Proof.Machine
end

section
/-! ### Instructions that write one scalar register, and a flush with nothing to send (07 R131; 14 R270) -/

namespace Sys2Proof.Machine
open Stated

variable {s : State} {rd : Reg} {v : Word}

theorem mem_badRegs_wx (k : Core) (rd : Reg) (v : Word) (n : Nat) :
    n ∈ (wx k rd v).badRegs ↔ n ∈ k.badRegs ∧ ¬ (rd ≠ 0 ∧ n = rd.toNat) := by
  by_cases h : rd = 0
  · subst h
    rw [wx_zero]
    simp
  · rw [wx_of_ne _ _ _ h]
    have hnot : ¬ rd = 0#5 := h
    simp [cleanReg, hnot]

theorem rx_wx (k : Core) (rd : Reg) (v : Word) : rx (wx k rd v) rd = if rd = 0 then 0 else v := by
  split
  next h => rw [h, rx_zero]
  next h => exact rx_wx_same k rd v h

/-- The frame of an instruction whose whole effect is one value written. -/
theorem gives_of_writeX {i : Instr} (h : exec i s = writeX s rd v) : Gives i s rd v := by
  refine ⟨_, h, ?_, passes_done (wx_pc ..) (wx_loops ..) (wx_trapped ..), onlyCore_done s _, ?_, ?_, ?_, ?_⟩
  all_goals rw [cc_done]
  · rw [rx_advance, rx_wx]
  · rw [advance_eq, wx_eq]
  · rw [advance_eq]
    exact ⟨.inr rfl, .inr rfl⟩
  · intro r hr
    rw [rx_advance, rx_wx_other _ _ _ _ hr]
  · rw [advance_eq]
    exact mem_badRegs_wx (cc s) rd v

theorem mput_mput {α : Type} (m : SMap α) (a : Nat) (v w : α) : mput (mput m a v) a w = mput m a w := by
  induction m with
  | nil => simp [mput]
  | cons p m ih =>
    by_cases h1 : a < p.1
    · simp [mput, h1]
    · by_cases h2 : a = p.1
      · simp [mput, ← h2]
      · simp [mput, h1, h2, ih]

theorem setCore_setCore (s : State) (c : Nat) (k k' : Core) : setCore (setCore s c k) c k' = setCore s c k' := by
  simp [setCore, mput_mput]

theorem updCore_updCore (s : State) (c : Nat) (f g : Core → Core) : updCore (updCore s c f) c g = updCore s c fun k => g (f k) := by
  simp [updCore, setCore_setCore]

/-- A core after a flush with nothing to send. -/
def flushed (k : Core) : Core := { clearRestart k 1 with settings := [], rptWait := 0, flush := none }

/-- Nothing for a flush to send: no copy to compare with, no entry, no setting to count and no end to credit. -/
def NoFlush (k : Core) : Prop := k.twin = none ∧ k.sb = [] ∧ k.settings = [] ∧ k.ends = []

/-- The live count of an EXIT's kernel goes down with its flush (05 R89). -/
def exitReport (s : State) (c : Nat) (exits : Bool) : State := if exits then report s (actKernel (coreOf s c)) (-1) none else s

theorem credits_of_no_ends {c : Nat} (h : (coreOf s c).ends = []) : credits s c = s := by
  unfold credits
  rw [h]
  split <;> rfl

@[simp] theorem clearRestart_twin (k : Core) (b : Nat) : (clearRestart k b).twin = k.twin := by unfold clearRestart; split <;> rfl
@[simp] theorem clearRestart_sb (k : Core) (b : Nat) : (clearRestart k b).sb = k.sb := by unfold clearRestart; split <;> rfl
@[simp] theorem clearRestart_settings (k : Core) (b : Nat) : (clearRestart k b).settings = k.settings := by unfold clearRestart; split <;> rfl
@[simp] theorem clearRestart_ends (k : Core) (b : Nat) : (clearRestart k b).ends = k.ends := by unfold clearRestart; split <;> rfl
@[simp] theorem clearRestart_exited (k : Core) (b : Nat) : (clearRestart k b).exited = k.exited := by unfold clearRestart; split <;> rfl
@[simp] theorem clearRestart_act (k : Core) (b : Nat) : (clearRestart k b).act = k.act := by unfold clearRestart; split <;> rfl

theorem report_setCore (c : Nat) (k : Core) (kid : Nat) (d : Int) (a : Option Nat) : report (setCore s c k) kid d a = setCore (report s kid d a) c k := by
  unfold report
  split <;> rfl

theorem coreOf_report (kid : Nat) (d : Int) (a : Option Nat) (c : Nat) : coreOf (report s kid d a) c = coreOf s c := by
  unfold report
  split <;> rfl

theorem actKernel_clearRestart (k : Core) (b : Nat) : actKernel (clearRestart k b) = actKernel k := by rw [actKernel, clearRestart_act, actKernel]

theorem flushReports_nothing {c : Nat} (h : NoFlush (coreOf s c)) :
    flushReports s c = updCore (exitReport s c (coreOf s c).exited) c flushed := by
  obtain ⟨-, hsb, hset, hends⟩ := h
  have hcred : credits (setCore s c (clearRestart (coreOf s c) 1)) c = setCore s c (clearRestart (coreOf s c) 1) :=
    credits_of_no_ends (by simp [hends])
  unfold flushReports exitReport
  simp only [hcred, coreOf_setCore_same, clearRestart_sb, clearRestart_settings, clearRestart_exited, hsb, hset, actKernel_clearRestart,
    List.filter_nil, List.map_nil, List.sum_nil, List.foldl_nil, List.length_nil]
  cases (coreOf s c).exited <;>
    simp [updCore, report_setCore, coreOf_report, setCore_setCore, flushed, b2n]

/-- Whether the flush is an EXIT's. -/
def exitMark (exits : Bool) (k : Core) : Core := { k with exited := exits }

/-- The state after the flush of a core with nothing to send; exits: an EXIT's. -/
def flushedAt (s : State) (c : Nat) (exits : Bool) : State := updCore (exitReport s c exits) c fun k => flushed (exitMark exits k)

theorem exitReport_updCore (c : Nat) {f : Core → Core} (hf : ∀ k, actKernel (f k) = actKernel k) (exits : Bool) :
    exitReport (updCore s c f) c exits = updCore (exitReport s c exits) c f := by
  cases exits
  · rfl
  · simp only [exitReport, if_true, updCore, report_setCore, coreOf_setCore_same, coreOf_report, hf]

theorem beginFlush_of_single {c : Nat} {extra : Int} (htwin : (coreOf s c).twin = none) :
    beginFlush s c extra = flushReports (updCore s c (exitMark (decide (extra < 0)))) c := by
  change (if (coreOf (updCore s c (exitMark _)) c).twin.isSome then _ else _) = _
  have hmark : (coreOf (updCore s c (exitMark (decide (extra < 0)))) c).twin = none := by
    rw [coreOf_updCore_same]
    exact htwin
  rw [if_neg (by rw [hmark]; decide)]
  rfl

theorem beginFlush_nothing {c : Nat} {extra : Int} (h : NoFlush (coreOf s c)) : beginFlush s c extra = flushedAt s c (decide (extra < 0)) := by
  have hmark : NoFlush (coreOf (updCore s c (exitMark (decide (extra < 0)))) c) := by
    rw [coreOf_updCore_same]
    exact h
  rw [beginFlush_of_single h.1, flushReports_nothing hmark, coreOf_updCore_same, exitReport_updCore (f := exitMark _) _ fun _ => rfl, updCore_updCore]
  rfl

@[simp] theorem cc_flushedAt (exits : Bool) : cc (flushedAt s s.cur exits) = flushed (exitMark exits (cc s)) := by
  have hcur : (flushedAt s s.cur exits).cur = s.cur := by
    unfold flushedAt exitReport report
    split <;> [split; skip] <;> rfl
  rw [cc, hcur, flushedAt, coreOf_updCore_same, exitReport]
  split
  · rw [coreOf_report, cc]
  · rfl

theorem afterFlush_nothing {extra : Int} {cont : State → Out} (hwait : (cc s).wait = .idle) (h : NoFlush (cc s)) :
    afterFlush s extra cont = cont (flushedAt s s.cur (decide (extra < 0))) := by
  unfold afterFlush
  rw [hwait]
  simp only [beginFlush_nothing h, cc_flushedAt]
  rfl

theorem clearRestart_eq (k : Core) (b : Nat) :
    clearRestart k b = { k with restart := (clearRestart k b).restart, clrby := (clearRestart k b).clrby } := by
  unfold clearRestart
  split <;> rfl

/-- What a flush with nothing to send changes of a core. -/
theorem flushed_eq (k : Core) :
    flushed k = { k with restart := (flushed k).restart, clrby := (flushed k).clrby, settings := [], rptWait := 0, flush := none } := by
  rw [flushed, clearRestart_eq]

end Sys2Proof.Machine
end

section
/-! ### Barriers (07 R142 to R144; 20 R340, R341) -/

namespace Sys2Proof.Machine
open Stated

variable {s t : State} {rd : Reg} {crew : Bool} {g : Gang}

theorem exitReport_only (s : State) (c : Nat) (exits : Bool) : exitReport s c exits = { s with reports := (exitReport s c exits).reports } := by
  unfold exitReport report
  split <;> [split; skip] <;> rfl

/-- A flush with nothing to send changes its core and the reports, and nothing else. -/
theorem flushedAt_only (s : State) (c : Nat) (exits : Bool) :
    flushedAt s c exits = { s with reports := (flushedAt s c exits).reports, cores := (flushedAt s c exits).cores } := by
  rw [flushedAt, exitReport_only]
  rfl

theorem presentIn_congr (hact : (cc t).act = (cc s).act) (hcur : t.cur = s.cur) (hgangs : t.gangs = s.gangs) : presentIn t crew = presentIn s crew := by
  have hof : gangOf t = gangOf s := funext fun gid => by rw [gangOf, gangOf, hgangs]
  rw [presentIn, presentIn, hact, hcur, hof]

/-- A present member's gang or crew is one of the package's. -/
theorem mem_gangs_of_presentIn (h : presentIn s crew = some g) : g ∈ s.gangs := by
  have hof : ∀ {gid : Nat} {x : Gang}, gangOf s gid = some x → x ∈ s.gangs := fun h => List.mem_of_find?_eq_some h
  unfold presentIn at h
  split at h
  · exact nomatch h
  next g0 hg0 =>
    obtain ⟨gid, -, hgid⟩ := Option.bind_eq_some_iff.mp hg0
    obtain ⟨x, hx, hxg⟩ := Option.bind_eq_some_iff.mp h
    split at hxg <;> [skip; exact nomatch hxg]
    obtain rfl := Option.some.inj hxg
    split at hx
    · obtain ⟨gid', -, hgid'⟩ := Option.bind_eq_some_iff.mp hx
      exact hof hgid'
    · exact Option.some.inj hx ▸ hof hgid

/-- The arrival of the current core at its gang's or crew's barrier, after a flush with nothing to send. -/
def arrived (s : State) (g : Gang) : State := arrive (flushedAt s s.cur false) g.gid s.cur

theorem cc_arrived (s : State) (g : Gang) : cc (arrived s g) = flushed (exitMark false (cc s)) := cc_flushedAt false

theorem mem_arrived (h : g ∈ s.gangs) : ∃ x ∈ (arrived s g).gangs, x.gid = g.gid ∧ s.cur ∈ x.again :=
  ⟨{ g with again := g.again ++ [s.cur] }, List.mem_map.mpr ⟨g, h, if_pos rfl⟩, rfl, List.mem_append_right _ (List.mem_singleton.mpr rfl)⟩

/-- What BAR and its like do once the flush is over. -/
theorem barrier_present {wait : Bool} (h : presentIn s crew = some g) (hwait : (cc s).wait = .idle) (hno : NoFlush (cc s)) :
    barrier s rd crew wait = if wait then .next (setCC (arrived s g) { cc (arrived s g) with wait := .barrier (arrivalPhase g s.cur) })
      else writeX (arrived s g) rd (wd (arrivalPhase g s.cur)) := by
  have hpres : presentIn (flushedAt s s.cur false) crew = some g := by
    rw [presentIn_congr _ _ _, h]
    · rw [cc_flushedAt, flushed_eq]
      rfl
    · rw [flushedAt_only]
    · rw [flushedAt_only]
  unfold barrier
  simp only [hwait, h, afterFlush_nothing hwait hno]
  change (match presentIn (flushedAt s s.cur false) crew with | none => _ | some g => _) = _
  simp only [hpres]
  rfl

/-- Once the phase has left the one at which the member arrived, the waiting form completes. -/
theorem barrier_over {p : Nat} {wait : Bool} (hwait : (cc s).wait = .barrier p) (h : presentIn s crew = some g) (h1 : s.cur ∉ g.arrived) (h2 : s.cur ∉ g.again) :
    barrier s rd crew wait = .next (done s fun k => wx { k with wait := .idle } rd (wd p)) := by
  unfold barrier
  simp only [hwait, h, if_neg (not_or.mpr ⟨h1, h2⟩)]
  rfl

theorem barrier_waits {p : Nat} {wait : Bool} (hwait : (cc s).wait = .barrier p) (h : presentIn s crew = some g) (hin : s.cur ∈ g.arrived ∨ s.cur ∈ g.again) :
    barrier s rd crew wait = .next s := by
  unfold barrier
  simp only [hwait, h, if_pos hin]

theorem barrier_absent {wait : Bool} (hwait : (cc s).wait = .idle) (h : presentIn s crew = none) : barrier s rd crew wait = ill s := by
  unfold barrier
  simp only [hwait, h]

/-- A flush's core and an arrival leave what an instruction reads of a core. -/
theorem cc_arrived_eq (s : State) (g : Gang) :
    cc (arrived s g) = { cc s with exited := false, restart := (cc (arrived s g)).restart, clrby := (cc (arrived s g)).clrby, settings := [],
                                   rptWait := 0, flush := none } := by
  rw [cc_arrived, flushed_eq]
  rfl

theorem rx_arrived (s : State) (g : Gang) (r : Reg) : rx (cc (arrived s g)) r = rx (cc s) r := by
  rw [cc_arrived_eq]
  rfl

theorem mem_arrived_mem (s : State) (g : Gang) : (arrived s g).mem = s.mem := by
  rw [arrived, flushedAt_only]
  rfl

/-- The form that returns the phase, at a member's arrival. -/
theorem barrier_arrives (h : presentIn s crew = some g) (hwait : (cc s).wait = .idle) (hno : NoFlush (cc s)) :
    ∃ t : State, barrier s rd crew false = .next t ∧ rx (cc t) rd = (if rd = 0 then 0 else wd (arrivalPhase g s.cur)) ∧
      (∀ r, r ≠ rd → rx (cc t) r = rx (cc s) r) ∧ (∃ x ∈ t.gangs, x.gid = g.gid ∧ s.cur ∈ x.again) ∧ Passes s t := by
  refine ⟨done (arrived s g) fun k => wx k rd (wd (arrivalPhase g s.cur)), barrier_present h hwait hno, ?_, fun r hr => ?_, mem_arrived (mem_gangs_of_presentIn h), ?_⟩
  · rw [cc_done, rx_advance, rx_wx]
  · rw [cc_done, rx_advance, rx_wx_other _ _ _ _ hr, rx_arrived]
  · rw [Passes, cc_done]
    refine advance_of_same ?_ ?_ ?_
    · rw [wx_pc, cc_arrived_eq]
    · rw [wx_loops, cc_arrived_eq]
    · rw [wx_trapped, cc_arrived_eq]

/-- The waiting form, at a member's arrival. -/
theorem barrier_holds (h : presentIn s crew = some g) (hwait : (cc s).wait = .idle) (hno : NoFlush (cc s)) :
    ∃ t : State, barrier s rd crew true = .next t ∧ (cc t).wait = .barrier (arrivalPhase g s.cur) ∧ (∃ x ∈ t.gangs, x.gid = g.gid ∧ s.cur ∈ x.again) ∧
      (cc t).pc = (cc s).pc ∧ Untouched s t := by
  refine ⟨_, barrier_present h hwait hno, by rw [cc_setCC], mem_arrived (mem_gangs_of_presentIn h), ?_, fun r => ?_, ?_, ?_, mem_arrived_mem s g⟩
  all_goals rw [cc_setCC]
  · rw [cc_arrived_eq]
  · exact rx_arrived s g r
  · rw [cc_arrived_eq]
  · rw [cc_arrived_eq]

/-- The waiting form completes. -/
theorem barrier_passes {p : Nat} (hwait : (cc s).wait = .barrier p) (h : presentIn s crew = some g) (h1 : s.cur ∉ g.arrived) (h2 : s.cur ∉ g.again) :
    ∃ t : State, barrier s rd crew true = .next t ∧ rx (cc t) rd = (if rd = 0 then 0 else wd p) ∧ (∀ r, r ≠ rd → rx (cc t) r = rx (cc s) r) ∧
      (cc t).wait = .idle ∧ Passes s t := by
  refine ⟨_, barrier_over hwait h h1 h2, ?_, fun r hr => ?_, ?_, passes_done (wx_pc ..) (wx_loops ..) (wx_trapped ..)⟩
  all_goals rw [cc_done]
  · rw [rx_advance, rx_wx]
  · rw [rx_advance, rx_wx_other _ _ _ _ hr]
    rfl
  · rw [advance_eq, wx_eq]

theorem wd_and_ffff (n : Nat) : wd n &&& 0xFFFF = wd (n % 2 ^ 16) := by
  apply BitVec.eq_of_toNat_eq
  rw [BitVec.toNat_and, show (0xFFFF : Word).toNat = 2 ^ 16 - 1 from rfl, Nat.and_two_pow_sub_one_eq_mod]
  simp only [wd, BitVec.toNat_ofNat]
  omega

theorem phaseDist_recorded {xp : Reg} {gid : Nat} (hrec : (if crew then (cc s).crewRec else (cc s).gangRec) = some gid) (h : gangOf s gid = some g) :
    phaseDist s rd xp crew = writeX s rd (wd (g.ph + 2 ^ 16 - fld (rx (cc s) xp) 15 0) &&& 0xFFFF) := by
  rw [wd_and_ffff]
  simp [phaseDist, recordedPhase, hrec, h]

theorem phaseDist_unrecorded {xp : Reg} (hrec : (if crew then (cc s).crewRec else (cc s).gangRec) = none) : phaseDist s rd xp crew = writeX s rd 0 := by
  simp [phaseDist, recordedPhase, hrec]

theorem exec_barTP {xp : Reg} {gid : Nat} (hrec : (cc s).gangRec = some gid) (h : gangOf s gid = some g) :
    exec (.barTP rd xp) s = writeX s rd (if g.ph % 2 = fld (rx (cc s) xp) 0 0 then 0 else 1) := by
  change execBarTP rd xp s = _
  have hph : recordedPhase s false = some g.ph := by simp [recordedPhase, hrec, h]
  unfold execBarTP
  simp only [hph]
  by_cases hp : g.ph % 2 = fld (rx (cc s) xp) 0 0
  · rw [if_pos hp, decide_eq_false (not_not.mpr hp)]
    rfl
  · rw [if_neg hp, decide_eq_true hp]
    rfl

/-- Settles O7: BAR and CREWBAR are one operation on the gang or on its crew; a flush with nothing to send leaves what it reads. -/
theorem barriers : Obligations.Barriers := by
  intro s rd xp g crew p arr bar tst
  have harr : exec arr s = barrier s rd crew false := by cases crew <;> rfl
  have hbar : exec bar s = barrier s rd crew true := by cases crew <;> rfl
  have htst : exec tst s = phaseDist s rd xp crew := by cases crew <;> rfl
  rw [harr, hbar]
  refine ⟨fun h hwait htwin hsb hset hends => ?_, fun hwait h h1 h2 => barrier_passes hwait h h1 h2, fun hwait h hin => barrier_waits hwait h hin,
    fun hwait h => ⟨barrier_absent hwait h, barrier_absent hwait h⟩, fun gid hrec h hph => ⟨?_, fun hcrew => ?_⟩, fun hrec => ?_⟩
  · exact ⟨barrier_arrives h hwait ⟨htwin, hsb, hset, hends⟩, barrier_holds h hwait ⟨htwin, hsb, hset, hends⟩⟩
  · exact gives_of_writeX (htst.trans (phaseDist_recorded hrec h))
  · subst hcrew
    exact gives_of_writeX (exec_barTP hrec h)
  · exact gives_of_writeX (htst.trans (phaseDist_unrecorded hrec))

end Sys2Proof.Machine
end

section
/-! ### EXIT and EXIT.S (07 R133; 20 R338, R339) -/

namespace Sys2Proof.Machine
open Stated

variable {s : State} {c : Nat} {a : Act}

theorem releaseEos_of_no_ends (h : (coreOf s c).ends = []) : releaseEos s c a = s := by
  unfold releaseEos endRec
  rw [h]
  split <;> rfl

theorem leaveGang_only (s : State) (c : Nat) (g : Option Nat) : leaveGang s c g = { s with gangs := (leaveGang s c g).gangs } := by
  unfold leaveGang
  split <;> rfl

/-- What a message's end releases of a core without stream ends lies in the dispatchers and the gangs. -/
theorem releaseMsg_only (h : (coreOf s c).ends = []) (aborted : Bool) :
    releaseMsg s c a aborted = { s with dies := (releaseMsg s c a aborted).dies, gangs := (releaseMsg s c a aborted).gangs } := by
  unfold releaseMsg
  rw [releaseEos_of_no_ends h]
  dsimp only
  rw [leaveGang_only]
  split <;> rfl

theorem settleLoop_eq (k : Core) (a : Act) (isExit : Bool) :
    settleLoop k a isExit = { k with loop := (settleLoop k a isExit).loop, v := (settleLoop k a isExit).v, k := (settleLoop k a isExit).k } := by
  unfold settleLoop
  split
  · rfl
  · split
    · split <;> rfl
    · split <;> rfl

/-- No stream end of the core is fresh any more. -/
abbrev unfresh (k : Core) : Core := { k with ends := k.ends.map fun e => { e with fresh := false } }

theorem finishAct_eq (h : (coreOf s c).ends = []) (isExit : Bool) :
    finishAct s c a isExit = updCore (releaseMsg (updCore s c unfresh) c a false) c fun k => clearRun (settleLoop k a isExit) := by
  unfold finishAct
  rw [credits_of_no_ends h]

theorem ends_unfresh (h : (coreOf s c).ends = []) : (coreOf (updCore s c unfresh) c).ends = [] := by
  rw [coreOf_updCore_same, unfresh, h, List.map_nil]

/-- What an end of an activation that holds no stream end leaves of its core. -/
theorem coreOf_finishAct (h : (coreOf s c).ends = []) (isExit : Bool) :
    coreOf (finishAct s c a isExit) c = clearRun (settleLoop (unfresh (coreOf s c)) a isExit) := by
  rw [finishAct_eq h, coreOf_updCore_same, releaseMsg_only (ends_unfresh h)]
  change clearRun (settleLoop (coreOf (updCore s c unfresh) c) a isExit) = _
  rw [coreOf_updCore_same]

theorem finishAct_only (h : (coreOf s c).ends = []) (isExit : Bool) :
    finishAct s c a isExit = { s with cores := (finishAct s c a isExit).cores, dies := (finishAct s c a isExit).dies, gangs := (finishAct s c a isExit).gangs } := by
  rw [finishAct_eq h, releaseMsg_only (ends_unfresh h)]
  rfl

theorem cur_flushedAt (s : State) (c : Nat) (exits : Bool) : (flushedAt s c exits).cur = s.cur := by rw [flushedAt_only]

/-- EXIT where nothing is to be flushed. -/
theorem exec_exit (hact : (cc s).act = some a) (hwait : (cc s).wait = .idle) (hhead : headWaits (cc s) = false) (hno : NoFlush (cc s)) :
    exec .exit s = .next (finishAct (flushedAt s s.cur true) s.cur a true) := by
  have hact' : (cc (flushedAt s s.cur true)).act = some a := by rw [cc_flushedAt, flushed_eq, ← hact]; rfl
  have htwin : (cc (flushedAt s s.cur true)).twin = none := by rw [cc_flushedAt, flushed_eq, ← hno.1]; rfl
  change execExit s = _
  unfold execExit
  simp only [hact, hhead, afterFlush_nothing hwait hno, Bool.false_eq_true, and_false, if_false]
  change Host.Outcome.next (match (cc (flushedAt s s.cur true)).act, (cc (flushedAt s s.cur true)).twin with
    | some a, some t => _ | some a, none => _ | none, _ => _) = _
  simp only [hact', htwin, cur_flushedAt]
  rfl

theorem exit_spec (hact : (cc s).act = some a) (hwait : (cc s).wait = .idle) (hhead : headWaits (cc s) = false) (hno : NoFlush (cc s)) :
    ∃ t : State, exec .exit s = .next t ∧ (cc t).act = none ∧ (cc t).sb = [] ∧ (cc t).fifo = [] ∧ (cc t).loops = [] ∧ (cc t).lm = (cc s).lm ∧
      t.mem = s.mem ∧ (a.msg.hdr.kernel ≠ 0 → ⟨a.msg.hdr.kernel, -1, none⟩ ∈ t.reports) := by
  have hends : (coreOf (flushedAt s s.cur true) s.cur).ends = [] := by
    have h := cc_flushedAt (s := s) true
    rw [cc, cur_flushedAt] at h
    rw [h, flushed_eq]
    exact hno.2.2.2
  have hcc : cc (finishAct (flushedAt s s.cur true) s.cur a true) = clearRun (settleLoop (unfresh (flushed (exitMark true (cc s)))) a true) := by
    have hcur : (finishAct (flushedAt s s.cur true) s.cur a true).cur = s.cur := by rw [finishAct_only hends, flushedAt_only]
    have h := cc_flushedAt (s := s) true
    rw [cc, cur_flushedAt] at h
    rw [cc, hcur, coreOf_finishAct hends, h]
  refine ⟨_, exec_exit hact hwait hhead hno, ?_, ?_, ?_, ?_, ?_, ?_, fun hkid => ?_⟩
  · rw [hcc]; rfl
  · rw [hcc]; rfl
  · rw [hcc]; rfl
  · rw [hcc]; rfl
  · rw [hcc, settleLoop_eq, flushed_eq]; rfl
  · rw [finishAct_only hends, flushedAt_only]
  · rw [finishAct_only hends]
    change _ ∈ (exitReport s s.cur true).reports
    have hkid' : actKernel (cc s) = a.msg.hdr.kernel := by rw [actKernel, hact]
    rw [exitReport, if_pos rfl, ← cc, hkid', report, if_neg hkid]
    exact List.mem_append_right _ (List.mem_singleton.mpr rfl)

/-- The activation that EXIT.S starts, after the message identifier that it draws. -/
def succOf (s : State) (a : Act) (w p : Word) : Act := (successor s a w p).1

/-- The core of an activation that has ended, with its successor waiting. -/
def endedWith (k : Core) (a b : Act) : Core := { clearRun (settleLoop (unfresh k) a true) with succ := some b }

/-- The package when the successor of the current core's activation may start. -/
def handedOn (s : State) (a : Act) (w p : Word) : State :=
  let u := successor (setCC s (unfresh (cc s))) a w p
  setCC u.2 { clearRun (settleLoop (cc u.2) a true) with succ := some u.1 }

theorem successor_only (s : State) (a : Act) (w p : Word) : (successor s a w p).2 = { s with ctxs := (successor s a w p).2.ctxs } := rfl

theorem ends_unfreshed (h : (coreOf s c).ends = []) : (coreOf (setCore s c (unfresh (coreOf s c))) c).ends = [] := ends_unfresh h

theorem exec_exitS {xw xp : Reg} (hact : (cc s).act = some a) (hwait : (cc s).wait = .idle) (hhead : headWaits (cc s) = false) (hno : NoFlush (cc s))
    (hform : fld (rx (cc s) xw) 33 12 = 0 ∧ fld (rx (cc s) xw) 11 0 ≤ 2048 ∧ (fld (rx (cc s) xw) 41 34 ≠ 0 → isCompute s.cur = true))
    (hframe : frameFault (cc s) (rx (cc s) xp) (fld (rx (cc s) xw) 11 0) = none) :
    exec (.exitS xw xp) s = .next (if canStart (handedOn (flushedAt s s.cur false) a (rx (cc s) xw) (rx (cc s) xp)) s.cur then
      startSucc (handedOn (flushedAt s s.cur false) a (rx (cc s) xw) (rx (cc s) xp)) s.cur
      else handedOn (flushedAt s s.cur false) a (rx (cc s) xw) (rx (cc s) xp)) := by
  obtain ⟨hres, hlen, htiles⟩ := hform
  have hill : ¬ (fld (rx (cc s) xw) 33 12 ≠ 0 ∨ fld (rx (cc s) xw) 11 0 > 2048 ∨ (fld (rx (cc s) xw) 41 34 ≠ 0 ∧ isCompute s.cur = false)) := by
    rintro (h | h | ⟨h, hc⟩)
    · exact h hres
    · omega
    · rw [htiles h] at hc
      exact absurd hc (by decide)
  have hcc := cc_flushedAt (s := s) false
  have hact' : (cc (flushedAt s s.cur false)).act = some a := by rw [hcc, flushed_eq, ← hact]; rfl
  have htwin : (cc (flushedAt s s.cur false)).twin = none := by rw [hcc, flushed_eq, ← hno.1]; rfl
  have hends : (cc (flushedAt s s.cur false)).ends = [] := by rw [hcc, flushed_eq, ← hno.2.2.2]; rfl
  change execExitS xw xp s = _
  unfold execExitS
  simp only [hact, hhead, guardTrap, hframe, if_neg hill, Bool.false_eq_true, and_false, if_false]
  refine (afterFlush_nothing hwait hno).trans (congrArg Host.Outcome.next ?_)
  rw [show decide ((0 : Int) < 0) = false from rfl]
  split
  next hnone => exact absurd (hact'.symm.trans hnone) nofun
  next htwin' => exact absurd (htwin.symm.trans htwin') nofun
  next hb _ =>
    obtain rfl : a = _ := Option.some.inj (hact'.symm.trans hb)
    rw [credits_of_no_ends hends]
    have hend : (coreOf (setCC (flushedAt s s.cur false) (unfresh (cc (flushedAt s s.cur false)))) (setCC (flushedAt s s.cur false) (unfresh (cc (flushedAt s s.cur false)))).cur).ends = [] :=
      ends_unfresh hends
    simp only [releaseEos_of_no_ends hend]
    rfl

/-- The core on which a successor starts, at the handler entry e. -/
def succRun (b : Act) (e : BitVec 32) (k0 : Core) : Core :=
  let p := b.succ.getD (0, 0, 0)
  let k := freshRun k0 b.tiles
  { k with x := entryRegs (wd p.1) (wd p.2.1) (wd p.2.2) (wd b.msg.hdr.msgid) (wd b.rank) b.e6 b.e7 b.e8, pc := handlerPc e, act := some b
           aborts := b.msg.aborts, inh := true, pair := k.pair, pend := pendOf { k with act := some b } }

theorem startSucc_starts {b : Act} (hsucc : (coreOf s c).succ = some b) (hinc : incAt s (niOf s c) b.cid = some b.inc)
    (hcancel : ∀ j ∈ (coreOf s c).cancel, j.1 ≠ b.msg.hdr.job) (hvalid : handlerV (handlerOf (slotOf (coreOf s c) b.slot) b.handler) = true) :
    startSucc s c = updCore (taint (setCore s c { coreOf s c with succ := none }) c b.cid b.inc b.msg.hdr.msgid b.msg.hdr.kernel) c
      (succRun b (handlerOf (slotOf (coreOf s c) b.slot) b.handler)) := by
  have hinc' : ¬ decide (incAt (setCore s c { coreOf s c with succ := none }) (niOf (setCore s c { coreOf s c with succ := none }) c) b.cid ≠ some b.inc) = true := by
    rw [decide_eq_true_eq]
    exact not_not.mpr hinc
  have hcancel' : ¬ ((coreOf s c).cancel.any fun j => decide (j.1 = b.msg.hdr.job)) = true := by
    intro h
    obtain ⟨j, hj, he⟩ := List.any_eq_true.mp h
    exact hcancel j hj (of_decide_eq_true he)
  unfold startSucc
  simp only [hsucc]
  rw [if_neg hinc', if_neg hcancel', if_neg (by rw [hvalid]; decide)]
  rfl

/-- The successor as EXIT.S makes it of the running activation and of its two operands. -/
theorem successor_spec (s : State) (a : Act) (w p : Word) :
    ∃ b : Act, (successor s a w p).1 = b ∧ b.handler = fld w 47 42 ∧ b.slot = a.slot ∧ b.cid = a.cid ∧ b.inc = a.inc ∧ b.rank = a.rank ∧
      b.tiles = fld w 41 34 ∧ b.succ = some (p.toNat, fld w 11 0, fld w 63 48) ∧ b.msg.hdr.job = a.msg.hdr.job :=
  ⟨_, rfl, rfl, rfl, rfl, rfl, rfl, rfl, rfl, rfl⟩

theorem startSucc_only {b : Act} (hsucc : (coreOf s c).succ = some b) (hinc : incAt s (niOf s c) b.cid = some b.inc)
    (hcancel : ∀ j ∈ (coreOf s c).cancel, j.1 ≠ b.msg.hdr.job) (hvalid : handlerV (handlerOf (slotOf (coreOf s c) b.slot) b.handler) = true) :
    coreOf (startSucc s c) c = succRun b (handlerOf (slotOf (coreOf s c) b.slot) b.handler) { coreOf s c with succ := none } ∧
      (startSucc s c).cur = s.cur := by
  rw [startSucc_starts hsucc hinc hcancel hvalid, coreOf_updCore_same, taint_only]
  exact ⟨congrArg _ (coreOf_setCore_same ..), rfl⟩

/-- A core that EXIT.S leaves free may start an activation where its row may. -/
theorem canStart_ended {k : Core} (hk : coreOf s c = k) (hact : k.act = none) (hrun : k.run = []) (hsealed : k.sealed_ = false)
    (hrow : isCompute c = true → (rowState s (rowOf c)).powered = true ∧ (rowState s (rowOf c)).fenced = false ∧ (rowState s (rowOf c)).testing = false)
    (hboot2 : s.boot.state ≠ 2) (hboot3 : s.boot.state ≠ 3) : canStart s c = true := by
  have hboot : decide (s.boot.state = 2 ∨ s.boot.state = 3) = false := decide_eq_false (not_or.mpr ⟨hboot2, hboot3⟩)
  unfold canStart
  simp only [hk, hact, hrun, hsealed, hboot]
  cases hc : isCompute c with
  | false => rfl
  | true =>
    obtain ⟨hp, hf, ht⟩ := hrow hc
    simp [hp, hf, ht]

theorem tileOf_freshRun (k : Core) (tiles i : Nat) (hi : i < 8) : tileOf (freshRun k tiles) i = if tiles / 2 ^ i % 2 = 1 then tileOf k i else {} := by
  simp only [tileOf, freshRun, Vector.getElem_ofFn, Nat.mod_eq_of_lt hi]

/-- The package that EXIT.S hands to the successor: beside the current core only a message identifier has been drawn. -/
theorem handedOn_only (s : State) (a : Act) (w p : Word) :
    handedOn (flushedAt s s.cur false) a w p =
      { s with cores := (handedOn (flushedAt s s.cur false) a w p).cores, ctxs := (handedOn (flushedAt s s.cur false) a w p).ctxs } := by
  rfl

/-- The core that EXIT.S leaves to the successor b. -/
def handedCore (k : Core) (a b : Act) : Core := { clearRun (settleLoop (unfresh (flushed (exitMark false k))) a true) with succ := some b }

theorem coreOf_handedOn (s : State) (a : Act) (w p : Word) :
    coreOf (handedOn (flushedAt s s.cur false) a w p) s.cur =
      handedCore (cc s) a (successor (setCC (flushedAt s s.cur false) (unfresh (cc (flushedAt s s.cur false)))) a w p).1 := by
  have hcc : ∀ k : Core, cc (successor (setCC (flushedAt s s.cur false) k) a w p).2 = k := fun k => cc_setCC _ k
  change cc (handedOn (flushedAt s s.cur false) a w p) = _
  unfold handedOn
  rw [cc_setCC, hcc, cc_flushedAt]
  rfl

theorem handedCore_eq (k : Core) (a b : Act) : handedCore k a b =
    { clearRun k with succ := some b, loop := (handedCore k a b).loop, v := (handedCore k a b).v, k := (handedCore k a b).k,
                      restart := (handedCore k a b).restart, clrby := (handedCore k a b).clrby, ends := (handedCore k a b).ends } := by
  rw [handedCore, settleLoop_eq, flushed_eq]
  rfl

/-- The successor runs at the entry e, with the operands of EXIT.S in its registers, the frame as it is and the tiles that its mask names. -/
theorem succRun_spec {k : Core} {b : Act} {e : BitVec 32} {p : Word} {n tag : Nat} (hsucc : b.succ = some (p.toNat, n, tag)) :
    (succRun b e k).act = some b ∧ (succRun b e k).pc = handlerPc e ∧ (succRun b e k).inh = true ∧ (succRun b e k).restart = true ∧
      rx (succRun b e k) 1 = p ∧ rx (succRun b e k) 2 = wd n ∧ rx (succRun b e k) 3 = wd tag ∧ rx (succRun b e k) 5 = wd b.rank ∧
      (succRun b e k).wdog = k.wdog ∧ (succRun b e k).lm = k.lm ∧
      ∀ i, i < 8 → tileOf (succRun b e k) i = if b.tiles / 2 ^ i % 2 = 1 then tileOf k i else {} := by
  have hp : wd p.toNat = p := by simp [wd]
  have hx : (succRun b e k).x = entryRegs p (wd n) (wd tag) (wd b.msg.hdr.msgid) (wd b.rank) b.e6 b.e7 b.e8 := by
    simp only [succRun, hsucc, Option.getD_some, hp]
  have hwdog : (succRun b e k).wdog = k.wdog := by simp only [succRun, freshRun]
  have hlm : (succRun b e k).lm = k.lm := by simp only [succRun, freshRun]
  have hz : (succRun b e k).z = (freshRun k b.tiles).z := by simp only [succRun]
  refine ⟨rfl, rfl, rfl, rfl, ?_, ?_, ?_, ?_, hwdog, hlm, fun i hi => ?_⟩
  case refine_5 => rw [tileOf, hz, ← tileOf, tileOf_freshRun _ _ _ hi]
  all_goals
    simp only [rx, hx, entryRegs, Vector.getElem_ofFn]
    rfl

theorem handedCore_frame (k : Core) (a b : Act) : (handedCore k a b).wdog = k.wdog ∧ (handedCore k a b).lm = k.lm ∧ (handedCore k a b).z = k.z := by
  rw [handedCore_eq]
  exact ⟨rfl, rfl, rfl⟩

theorem exitS_spec {xw xp : Reg} (hact : (cc s).act = some a) (hwait : (cc s).wait = .idle) (hhead : headWaits (cc s) = false) (hno : NoFlush (cc s))
    (hform : fld (rx (cc s) xw) 33 12 = 0 ∧ fld (rx (cc s) xw) 11 0 ≤ 2048 ∧ (fld (rx (cc s) xw) 41 34 ≠ 0 → isCompute s.cur = true))
    (hframe : frameFault (cc s) (rx (cc s) xp) (fld (rx (cc s) xw) 11 0) = none) (hrun : (cc s).run = []) (hsealed : (cc s).sealed_ = false)
    (hrow : isCompute s.cur = true → (rowState s (rowOf s.cur)).powered = true ∧ (rowState s (rowOf s.cur)).fenced = false ∧
      (rowState s (rowOf s.cur)).testing = false)
    (hboot2 : s.boot.state ≠ 2) (hboot3 : s.boot.state ≠ 3)
    (hvalid : handlerV (handlerOf (slotOf (cc s) a.slot) (fld (rx (cc s) xw) 47 42)) = true)
    (hinc : incAt s (niOf s s.cur) a.cid = some a.inc) (hcancel : ∀ j ∈ (cc s).cancel, j.1 ≠ a.msg.hdr.job) :
    ∃ (t : State) (b : Act), exec (.exitS xw xp) s = .next t ∧ b.handler = fld (rx (cc s) xw) 47 42 ∧ b.slot = a.slot ∧ b.cid = a.cid ∧ b.inc = a.inc ∧
      b.rank = a.rank ∧ b.tiles = fld (rx (cc s) xw) 41 34 ∧ b.succ = some ((rx (cc s) xp).toNat, fld (rx (cc s) xw) 11 0, fld (rx (cc s) xw) 63 48) ∧
      cc t = succRun b (handlerOf (slotOf (cc s) a.slot) (fld (rx (cc s) xw) 47 42)) { handedCore (cc s) a b with succ := none } := by
  set w := rx (cc s) xw
  set p := rx (cc s) xp
  obtain ⟨b, hb, hhandler, hslot, hcid, hbinc, hrank, hbtiles, hsucc, hjob⟩ :=
    successor_spec (setCC (flushedAt s s.cur false) (unfresh (cc (flushedAt s s.cur false)))) a w p
  have hcore := coreOf_handedOn s a w p
  rw [hb] at hcore
  have hstart := exec_exitS hact hwait hhead hno hform hframe
  have honly := handedOn_only s a w p
  generalize handedOn (flushedAt s s.cur false) a w p = v at hstart hcore honly
  have hslots : (coreOf v s.cur).slots = (cc s).slots := by rw [hcore, handedCore_eq]; rfl
  have hslotOf : slotOf (coreOf v s.cur) b.slot = slotOf (cc s) a.slot := by rw [slotOf, slotOf, hslots, hslot]
  have hcan : canStart v s.cur = true := by
    refine canStart_ended hcore ?_ ?_ ?_ ?_ ?_ ?_
    · rw [handedCore_eq]; rfl
    · rw [handedCore_eq]; change (cc s).run.map _ = []; rw [hrun, List.map_nil]
    · rw [handedCore_eq]; exact hsealed
    · rw [honly]; exact hrow
    · rw [honly]; exact hboot2
    · rw [honly]; exact hboot3
  obtain ⟨hcc, hcur⟩ := startSucc_only (s := v) (c := s.cur) (b := b) (by rw [hcore, handedCore_eq])
    (by rw [hcid, hbinc, honly]; exact hinc) (by rw [hjob, hcore, handedCore_eq]; exact hcancel)
    (by rw [hslotOf, hhandler]; exact hvalid)
  refine ⟨startSucc v s.cur, b, by rw [hstart, if_pos hcan], hhandler, hslot, hcid, hbinc, hrank, hbtiles, hsucc, ?_⟩
  have hvcur : v.cur = s.cur := by rw [honly]
  rw [cc, hcur, hvcur, hcc, hslotOf, hhandler, hcore]

/-- Settles O6: with nothing to flush both are one step; what either leaves of its core is written out by `finishAct_eq` and `startSucc_starts`. -/
theorem exits : Obligations.Exits := by
  intro s xw xp a w p h hact hwait htwin hhead hsb hset hends
  have hno : NoFlush (cc s) := ⟨htwin, hsb, hset, hends⟩
  refine ⟨exit_spec hact hwait hhead hno, fun hres hlen htiles hframe hrun hsealed hrow hboot2 hboot3 hvalid hinc hcancel => ?_⟩
  obtain ⟨t, b, hexec, hhandler, hslot, hcid, hbinc, hrank, hbtiles, hsucc, hcc⟩ :=
    exitS_spec hact hwait hhead hno ⟨hres, hlen, htiles⟩ hframe hrun hsealed hrow hboot2 hboot3 hvalid hinc hcancel
  obtain ⟨h1, hpc, hinh, hrestart, hx1, hx2, hx3, hx5, hwdog, hlm, hz⟩ :=
    succRun_spec (k := { handedCore (cc s) a b with succ := none }) (e := handlerOf (slotOf (cc s) a.slot) (fld (rx (cc s) xw) 47 42)) hsucc
  obtain ⟨hkwdog, hklm, hkz⟩ := handedCore_frame (cc s) a b
  rw [← hcc] at h1 hpc hinh hrestart hx1 hx2 hx3 hx5 hwdog hlm hz
  rw [hrank] at hx5
  refine ⟨t, b, hexec, h1, hhandler, hslot, hcid, hbinc, hpc, hinh, hrestart, hx1, hx2, hx3, hx5, hwdog.trans hkwdog, hlm.trans hklm, fun i hi => ?_⟩
  rw [hz i hi, hbtiles, tileOf, tileOf, hkz]

end Sys2Proof.Machine
end

section
/-! ### What a send changes of the package's cores, and a flush with something to send (07 R131; 10 R194) -/

namespace Sys2Proof.Machine
open Stated

variable {s t u : State}

/-- A core but for what a send changes of it: its stream ends, its cache of rank entries and its packets in transit. -/
def unsent (k : Core) : Core := { k with ends := [], rcache := [], transit := [] }

/-- Packets and reports have left, and no core has changed but for what a send changes of it. -/
structure Sends (s t : State) : Prop where
  mem : t.mem = s.mem
  cur : t.cur = s.cur
  cores : ∀ c, unsent (coreOf t c) = unsent (coreOf s c)

theorem Sends.refl (s : State) : Sends s s := ⟨rfl, rfl, fun _ => rfl⟩

theorem Sends.trans (h : Sends s t) (h' : Sends t u) : Sends s u :=
  ⟨h'.mem.trans h.mem, h'.cur.trans h.cur, fun c => (h'.cores c).trans (h.cores c)⟩

theorem Sends.of_cores (hcores : t.cores = s.cores) (hmem : t.mem = s.mem) (hcur : t.cur = s.cur) : Sends s t :=
  ⟨hmem, hcur, fun c => by rw [coreOf, coreOf, hcores]⟩

theorem sends_updCore (s : State) (c : Nat) {f : Core → Core} (hf : ∀ k, unsent (f k) = unsent k) : Sends s (updCore s c f) := by
  refine ⟨rfl, rfl, fun d => ?_⟩
  rw [coreOf_updCore]
  split
  · exact hf _
  · rfl

theorem sends_ite (p : Prop) [Decidable p] (ht : Sends s t) (hu : Sends s u) : Sends s (if p then t else u) := by
  split
  · exact ht
  · exact hu

theorem sends_foldl {α : Type} {f : State → α → State} (hf : ∀ s a, Sends s (f s a)) (as : List α) : ∀ s, Sends s (as.foldl f s) := by
  induction as with
  | nil => exact .refl
  | cons a as ih => exact fun s => (hf s a).trans (ih _)

theorem sends_emit (s : State) (p : Packet) : Sends s (emit s p) := by
  rw [emit_only]
  exact .of_cores rfl rfl rfl

theorem sends_report (s : State) (kid : Nat) (delta : Int) (ackTo : Option Nat) : Sends s (report s kid delta ackTo) :=
  sends_ite _ (.refl s) (.of_cores rfl rfl rfl)

theorem sends_failMsg (s : State) (cause cid inc rank aborts : Nat) (h : MsgHdr) : Sends s (failMsg s cause cid inc rank aborts h) := by
  refine Sends.trans ?_ (sends_report ..)
  exact .of_cores rfl rfl rfl

theorem sends_resolve (s : State) (c cid rank : Nat) : Sends s (resolve s c cid rank).2 := by
  unfold resolve
  dsimp only
  split
  · exact .refl s
  · exact sends_updCore s c (f := fun k => { k with rcache := _ }) fun _ => rfl

theorem sends_sendRank' (s : State) (c cid rank : Nat) (p : Packet) : Sends s (sendRank' s c cid rank p) := by
  refine (sends_resolve s c cid rank).trans ?_
  unfold sendRank'
  dsimp only
  split
  · exact sends_emit ..
  · exact sends_updCore _ c fun _ => rfl
  · exact sends_emit ..
  · split
    · exact sends_failMsg ..
    · exact sends_failMsg ..
    · exact .of_cores rfl rfl rfl

theorem sends_updEnd (s : State) (c : Nat) (key : EndKey) (f : EndRec → EndRec) : Sends s (updEnd s c key f) := sends_updCore s c fun _ => rfl

theorem sends_credit (s : State) (c : Nat) (e : EndRec) : Sends s (credit s c e) := by
  unfold credit notice
  exact (sends_updEnd ..).trans (sends_sendRank' ..)

theorem sends_credits (s : State) (c : Nat) : Sends s (credits s c) := by
  unfold credits
  split
  · exact .refl s
  · exact sends_foldl (fun s e => sends_credit s c e) _ s

/-- A core while its flush goes on: nothing of it has changed but RESTART, and what the flush keeps of itself. -/
structure Flushing (k k' : Core) : Prop where
  x : k'.x = k.x
  lm : k'.lm = k.lm
  fe : k'.fe = k.fe
  pc : k'.pc = k.pc
  sb : k'.sb = k.sb
  restart : k'.restart = false
  flush : k'.flush = some k.sb.length

theorem clearRestart_restart (k : Core) (b : Nat) : (clearRestart k b).restart = false := by
  unfold clearRestart
  split
  next => rfl
  next h => simpa using h

theorem Sends.fields (h : Sends s t) (c : Nat) :
    (coreOf t c).x = (coreOf s c).x ∧ (coreOf t c).lm = (coreOf s c).lm ∧ (coreOf t c).fe = (coreOf s c).fe ∧ (coreOf t c).pc = (coreOf s c).pc ∧
      (coreOf t c).sb = (coreOf s c).sb ∧ (coreOf t c).restart = (coreOf s c).restart :=
  have hc := h.cores c
  ⟨(congrArg Core.x hc :), (congrArg Core.lm hc :), (congrArg Core.fe hc :), (congrArg Core.pc hc :), (congrArg Core.sb hc :), (congrArg Core.restart hc :)⟩

theorem flushReports_flushing {c : Nat} (hsb : (coreOf s c).sb ≠ []) :
    Flushing (coreOf s c) (coreOf (flushReports s c) c) ∧ (flushReports s c).mem = s.mem ∧ (flushReports s c).cur = s.cur := by
  unfold flushReports
  extract_lets k s1 k1 extra kid mine n m waits s2 others s3 len w
  have h1 : Sends (setCore s c (clearRestart k 1)) s1 := sends_credits ..
  have h2 : Sends s1 s2 := sends_ite _ (.refl s1) (sends_report ..)
  have h3 : Sends s2 s3 := sends_foldl (fun s e => sends_report ..) _ s2
  have h13 := h2.trans h3
  have h := h1.trans h13
  obtain ⟨hx, hlm, hfe, hpc, hsb', hrestart⟩ := h.fields c
  simp only [coreOf_setCore_same] at hx hlm hfe hpc hsb' hrestart
  have hlen : len = (coreOf s c).sb.length := by
    change (coreOf s1 c).sb.length = _
    rw [(h1.fields c).2.2.2.2.1, coreOf_setCore_same, clearRestart_sb]
  have hlen0 : ¬ (len = 0 ∧ w = 0) := fun h0 => hsb (List.eq_nil_of_length_eq_zero (hlen ▸ h0.1))
  refine ⟨?_, h.mem, h.cur⟩
  rw [coreOf_updCore_same, if_neg hlen0]
  rw [clearRestart_eq] at hx hlm hfe hpc hsb'
  exact ⟨hx, hlm, hfe, hpc, hsb', hrestart.trans (clearRestart_restart k 1), congrArg some hlen⟩

theorem beginFlush_flushing {c : Nat} {extra : Int} (htwin : (coreOf s c).twin = none) (hsb : (coreOf s c).sb ≠ []) :
    Flushing (coreOf s c) (coreOf (beginFlush s c extra) c) ∧ (beginFlush s c extra).mem = s.mem ∧ (beginFlush s c extra).cur = s.cur := by
  obtain ⟨hf, hmem, hcur⟩ := flushReports_flushing (s := updCore s c (exitMark (decide (extra < 0)))) (c := c) (by rwa [coreOf_updCore_same])
  rw [coreOf_updCore_same] at hf
  rw [beginFlush_of_single htwin]
  exact ⟨⟨hf.x, hf.lm, hf.fe, hf.pc, hf.sb, hf.restart, hf.flush⟩, hmem, hcur⟩

/-- An instruction that flushes first holds its issue point while the buffer holds something. -/
theorem afterFlush_begins {extra : Int} {cont : State → Out} (hwait : (cc s).wait = .idle) (htwin : (cc s).twin = none) (hsb : (cc s).sb ≠ []) :
    ∃ t : State, afterFlush s extra cont = .next t ∧ (cc t).restart = false ∧ (cc t).wait = .flush ∧ (cc t).flush = some (cc s).sb.length ∧
      (cc t).sb = (cc s).sb ∧ (cc t).pc = (cc s).pc ∧ Untouched s t := by
  obtain ⟨hf, hmem, hcur⟩ := beginFlush_flushing (s := s) (c := s.cur) (extra := extra) htwin hsb
  have hcc : coreOf (beginFlush s s.cur extra) s.cur = cc (beginFlush s s.cur extra) := by rw [cc, hcur]
  rw [hcc] at hf
  have hgo : ¬ (cc (beginFlush s s.cur extra)).flush.isNone = true := by rw [hf.flush]; exact nofun
  refine ⟨setCC (beginFlush s s.cur extra) { cc (beginFlush s s.cur extra) with wait := .flush }, ?_, ?_⟩
  · unfold afterFlush
    simp only [hwait, if_neg hgo]
  · rw [cc_setCC]
    exact ⟨hf.restart, rfl, hf.flush, hf.sb, hf.pc, fun r => by rw [cc_setCC, rx, rx]; simp only [hf.x]; rfl, by rw [cc_setCC]; exact hf.lm, by rw [cc_setCC]; exact hf.fe, hmem⟩

end Sys2Proof.Machine
end

section
/-! ### FLUSH, the fences and WAITM (07 R131; 09 R174, R175, R182; 16 R302 to R304) -/

namespace Sys2Proof.Machine
open Stated

variable {s : State}

/-- An instruction of no operands completes, whatever it waited for. -/
theorem passes_idle (s : State) :
    (cc (setCC s (advance { cc s with wait := .idle }))).wait = .idle ∧ Passes s (setCC s (advance { cc s with wait := .idle })) ∧
      Untouched s (setCC s (advance { cc s with wait := .idle })) := by
  have hpasses : Passes s (setCC s (advance { cc s with wait := .idle })) := by
    rw [Passes, cc_setCC]
    exact advance_of_same rfl rfl rfl
  refine ⟨by rw [cc_setCC, advance_eq], hpasses, fun r => ?_, ?_, ?_, rfl⟩
  all_goals rw [cc_setCC]
  · rw [rx_advance]
    rfl
  · rw [advance_eq]
  · rw [advance_eq]

theorem flush_over (hwait : (cc s).wait = .flush) (hf : (cc s).flush = none) :
    exec .flush s = .next (setCC s (advance { cc s with wait := .idle })) := by
  change afterFlush s 0 (fun s => .next (done s id)) = _
  rw [afterFlush_over s 0 _ hwait hf]
  simp only [done, cc_setCC, id]
  exact congrArg Host.Outcome.next (setCore_setCore ..)

/-- What a fence waits for once its markers are out. -/
def fenceMet (s : State) (scope : Nat) : Bool := (cc s).out.isEmpty && !((cc s).unack.any fun u => inScope s s.cur scope u.target)

theorem fence_marked {scope : Nat} (hwait : (cc s).wait = .fence true) :
    fence s scope = if fenceMet s scope then .next (setCC s (advance { cc s with wait := .idle })) else .next s := by
  unfold fence
  simp only [hwait]
  rfl

theorem fenceMet_iff {scope : Nat} : fenceMet s scope = true ↔ (cc s).out = [] ∧ ∀ u ∈ (cc s).unack, inScope s s.cur scope u.target = false := by
  simp [fenceMet]

/-- A fabric fence while the home of a store is not known. -/
theorem fence_unmarked (hwait : (cc s).wait = .fence false) (h : ∃ u ∈ (cc s).unack, u.target = 0) :
    fence s 3 = .next (setCC s { cc s with wait := .fence false }) := by
  have hany : ((cc s).unack.any fun u => decide (u.target = 0)) = true := by simpa using h
  unfold fence
  simp only [hwait, hany]
  rfl

/-- And once every home is known: the markers leave, and the fence waits for what is outstanding then. -/
theorem fence_marks (hwait : (cc s).wait = .fence false) (h : ∀ u ∈ (cc s).unack, u.target ≠ 0) :
    fence s 3 = let t := sendMarkers (setCC s { cc s with wait := .fence true }) s.cur
      if fenceMet t 3 then .next (setCC t (advance { cc t with wait := .idle })) else .next t := by
  have hany : ((cc s).unack.any fun u => decide (u.target = 0)) = false := by simpa using h
  unfold fence
  simp only [hwait, hany]
  rfl

/-- A core after n more markers have left it. -/
structure Marked (n : Nat) (k k' : Core) : Prop where
  same : k' = { k with out := k'.out, tok := k'.tok }
  count : k'.out.length = k.out.length + n

theorem Marked.trans {m n : Nat} {k k' k'' : Core} (h : Marked m k k') (h' : Marked n k' k'') : Marked (m + n) k k'' := by
  refine ⟨?_, by rw [h'.count, h.count, Nat.add_assoc]⟩
  rw [h'.same, h.same]

theorem e2eSend_only (s : State) (p : Packet) :
    e2eSend s p = { s with e2e := (e2eSend s p).e2e, egress := (e2eSend s p).egress, counted := (e2eSend s p).counted } := by
  unfold e2eSend e2eNumber
  split
  · dsimp only
    split <;> rfl
  · rfl

/-- One marker to a die of another chip, with its entry in the outstanding table (09 R168). -/
def markDie (c cid inc : Nat) (s : State) (d : Nat) : State :=
  e2eSend (setCore s c (outstanding (freshTok (coreOf s c)).2 (freshTok (coreOf s c)).1 0 .marker d))
    { src := niOf s c, dst := d / 2 * 65536 + d % 2 * 32768 + 7 * 4096, cls := 1, op := 0x18, cid := cid, inc := inc, len := 1,
      body := .marker 0 (freshTok (coreOf s c)).1 }

theorem markDie_marked (c cid inc : Nat) (s : State) (d : Nat) :
    Marked 1 (coreOf s c) (coreOf (markDie c cid inc s d) c) ∧ (markDie c cid inc s d).cur = s.cur ∧ (markDie c cid inc s d).mem = s.mem := by
  have hcore : coreOf (markDie c cid inc s d) c = outstanding (freshTok (coreOf s c)).2 (freshTok (coreOf s c)).1 0 .marker d := by
    rw [markDie, e2eSend_only]
    exact coreOf_setCore_same ..
  rw [hcore, markDie, e2eSend_only]
  exact ⟨⟨rfl, by simp [outstanding, freshTok]⟩, rfl, rfl⟩

theorem foldl_markDie_marked (c cid inc : Nat) (ds : List Nat) (s : State) :
    Marked ds.length (coreOf s c) (coreOf (ds.foldl (markDie c cid inc) s) c) ∧ (ds.foldl (markDie c cid inc) s).cur = s.cur ∧
      (ds.foldl (markDie c cid inc) s).mem = s.mem := by
  induction ds generalizing s with
  | nil => exact ⟨⟨rfl, rfl⟩, rfl, rfl⟩
  | cons d ds ih =>
    obtain ⟨hm, hcur, hmem⟩ := markDie_marked c cid inc s d
    obtain ⟨hm', hcur', hmem'⟩ := ih (markDie c cid inc s d)
    rw [List.length_cons, Nat.add_comm]
    exact ⟨hm.trans hm', hcur'.trans hcur, hmem'.trans hmem⟩

/-- The markers of a fabric fence: one for each die stored to, and the core remembers none of them. -/
theorem sendMarkers_marked (s : State) (c : Nat) :
    Marked (coreOf s c).storedTo.length { coreOf s c with storedTo := [] } (coreOf (sendMarkers s c) c) ∧ (sendMarkers s c).cur = s.cur ∧
      (sendMarkers s c).mem = s.mem := by
  have h := foldl_markDie_marked c (actCtx (coreOf s c)).1 (actCtx (coreOf s c)).2.1 (coreOf s c).storedTo (setCore s c { coreOf s c with storedTo := [] })
  rw [coreOf_setCore_same] at h
  exact h

theorem fence_markers (hwait : (cc s).wait = .fence false) (h : ∀ u ∈ (cc s).unack, u.target ≠ 0) (hto : (cc s).storedTo ≠ []) :
    ∃ t : State, fence s 3 = .next t ∧ (cc t).wait = .fence true ∧ (cc t).storedTo = [] ∧
      (cc t).out.length = (cc s).out.length + (cc s).storedTo.length ∧ (cc t).pc = (cc s).pc ∧ Untouched s t := by
  obtain ⟨⟨hsame, hcount⟩, hcur, hmem⟩ := sendMarkers_marked (setCC s { cc s with wait := .fence true }) s.cur
  have hk : coreOf (setCC s { cc s with wait := .fence true }) s.cur = { cc s with wait := .fence true } := coreOf_setCore_same ..
  rw [hk] at hsame hcount
  have hcc : cc (sendMarkers (setCC s { cc s with wait := .fence true }) s.cur) = coreOf (sendMarkers (setCC s { cc s with wait := .fence true }) s.cur) s.cur := by
    rw [cc, hcur]
    rfl
  rw [fence_marks hwait h]
  generalize sendMarkers (setCC s { cc s with wait := .fence true }) s.cur = t at *
  rw [← hcc] at hsame hcount
  have hout : (cc t).out ≠ [] := by
    intro h0
    rw [h0] at hcount
    have := List.length_pos_of_ne_nil hto
    simp only [List.length_nil] at hcount
    omega
  have hmet : ¬ fenceMet t 3 = true := fun hm => hout (fenceMet_iff.mp hm).1
  refine ⟨t, if_neg hmet, ?_, ?_, hcount, ?_, fun r => ?_, ?_, ?_, hmem⟩
  all_goals rw [hsame]
  rfl

/-- FLUSH and the fences, clause by clause. -/
theorem flushAndFences : Clauses.FlushAndFences := by
  intro s
  refine ⟨fun hwait htwin hsb i hi => ?_, fun hwait hf => ⟨_, flush_over hwait hf, passes_idle s⟩, fun hwait hf => afterFlush_waits s 0 (fun s => .next (done s id)) hwait hf, ?_, ?_, ?_⟩
  · have hfence : ∀ σ, ∃ cont, fence s σ = afterFlush s 0 cont := fun σ => by
      unfold fence
      simp only [hwait]
      exact ⟨_, rfl⟩
    have hexec : ∃ cont, exec i s = afterFlush s 0 cont := by
      simp only [List.mem_cons, List.not_mem_nil, or_false] at hi
      rcases hi with rfl | rfl | rfl | rfl | rfl
      · exact ⟨fun s => .next (done s id), rfl⟩
      · exact hfence 0
      · exact hfence 1
      · exact hfence 2
      · exact hfence 3
    obtain ⟨cont, hexec⟩ := hexec
    rw [hexec]
    exact afterFlush_begins hwait htwin hsb
  · intro i σ hi hwait
    have hexec : exec i s = fence s σ := by
      simp only [List.mem_cons, Prod.mk.injEq, List.not_mem_nil, or_false] at hi
      rcases hi with ⟨rfl, rfl⟩ | ⟨rfl, rfl⟩ | ⟨rfl, rfl⟩ | ⟨rfl, rfl⟩ <;> rfl
    rw [hexec, fence_marked hwait]
    refine ⟨fun hout hun => ⟨_, if_pos (fenceMet_iff.mpr ⟨hout, hun⟩), passes_idle s⟩, fun h => if_neg fun hmet => ?_⟩
    obtain ⟨hout, hun⟩ := fenceMet_iff.mp hmet
    rcases h with h | ⟨u, hu, hin⟩
    · exact h hout
    · exact absurd (hun u hu) (by rw [hin]; decide)
  · intro hwait h
    refine ⟨_, fence_unmarked hwait h, ?_, ?_, ?_, fun r => ?_, ?_, ?_, rfl⟩
    all_goals rw [cc_setCC]
    rfl
  · exact fun hwait h hto => fence_markers hwait h hto

/-- A waiter that is woken: its wait holds the reason, and only the monitors change beside it. -/
theorem wakeCore_armed {c n reason : Nat} (hc : c < 2 ^ 40) (h : (coreOf s c).wait = .armed n) :
    ∃ out, wakeCore s c reason =
      setCore { s with monitors := s.monitors.filter fun m => !decide (m.core = c) } c { coreOf s c with wait := .woke reason, out := out } := by
  have hcore : ∀ ms, coreOf { s with monitors := ms } c = coreOf s c := fun _ => rfl
  unfold wakeCore
  dsimp only
  rw [if_neg (Nat.not_le.mpr hc)]
  simp only [hcore, h]
  exact ⟨_, rfl⟩

/-- The core of a WAITM whose monitor is being armed. -/
def arming (k : Core) (g : Word) : Core := outstanding { k with tok := k.tok + 1, wait := .armed k.tok } k.tok 0 .arm g.toNat

/-- WAITM of the core's own LM (16 R304 step 2). -/
theorem waitmOp_own {rd : Reg} {g e : Word} {a : Act} {off : Nat} (hwait : (cc s).wait = .idle) (hg : g.toNat % 64 = 0) (hact : (cc s).act = some a)
    (hform : gform g = .peer a.rank off) (hfault : rangeFault (slotOf (cc s) (curSlot (cc s))) off 64 false = none) :
    waitmOp s rd g e =
      match (cc (armAt (setCC s (arming (cc s) g)) true s.cur off s.cur (cc s).tok e)).wait with
      | .woke r => .next (setCC (armAt (setCC s (arming (cc s) g)) true s.cur off s.cur (cc s).tok e)
          (advance (wx { cc (armAt (setCC s (arming (cc s) g)) true s.cur off s.cur (cc s).tok e) with wait := .idle } rd (wd r))))
      | _ => .next (armAt (setCC s (arming (cc s) g)) true s.cur off s.cur (cc s).tok e) := by
  unfold waitmOp
  simp only [hwait, hg, hform, hact, hfault, ne_eq, not_true_eq_false, if_false, if_true]
  rfl

/-- Arming where the word is another than the waiter's: it is woken at once. -/
theorem armAt_differs {c a tok : Nat} {e : Word} (hc : c < 2 ^ 40) (hwait : (coreOf s c).wait = .armed tok) (hout : ∃ o ∈ (coreOf s c).out, o.tok = tok)
    (hne : rdLE (coreOf s c).lm a 8 ≠ e.toNat) :
    ∃ out, armAt s true c a c tok e =
      setCore { s with monitors := s.monitors.filter fun m => !decide (m.core = c) } c { coreOf s c with wait := .woke 0, out := out } := by
  have hany : ((coreOf s c).out.any fun o => decide (o.tok = tok)) = true := by simpa using hout
  obtain ⟨out, hwake⟩ := wakeCore_armed (reason := 0) hc hwait
  refine ⟨out, ?_⟩
  unfold armAt
  simp only [hany, if_true, if_pos hne]
  exact hwake

/-- And where it is the same: the monitor stands. -/
theorem armAt_same {c a tok : Nat} {e : Word} (hout : ∃ o ∈ (coreOf s c).out, o.tok = tok) (heq : rdLE (coreOf s c).lm a 8 = e.toNat) :
    armAt s true c a c tok e =
      { s with monitors := (s.monitors.filter fun m => !decide (m.core = c)) ++ [{ lm := true, home := c, block := a, core := c, tok := tok, far := none }] } := by
  have hany : ((coreOf s c).out.any fun o => decide (o.tok = tok)) = true := by simpa using hout
  unfold armAt
  simp only [hany, if_true, if_neg (not_not.mpr heq)]
  rfl

theorem mem_out_arming (k : Core) (g : Word) : ∃ o ∈ (arming k g).out, o.tok = k.tok :=
  ⟨_, List.mem_append_right _ (List.mem_singleton.mpr rfl), rfl⟩

/-- WAITM returns 0 at once where the first word is another than x[rb]. -/
theorem waitmOp_returns {rd : Reg} {g e : Word} {a : Act} {off : Nat} (hwait : (cc s).wait = .idle) (hg : g.toNat % 64 = 0) (hact : (cc s).act = some a)
    (hform : gform g = .peer a.rank off) (hfault : rangeFault (slotOf (cc s) (curSlot (cc s))) off 64 false = none) (hcur : s.cur < 2 ^ 40)
    (hne : rdLE (cc s).lm off 8 ≠ e.toNat) :
    ∃ t : State, waitmOp s rd g e = .next t ∧ rx (cc t) rd = 0 ∧ (∀ q, q ≠ rd → rx (cc t) q = rx (cc s) q) ∧ Passes s t ∧ (cc t).lm = (cc s).lm := by
  have hk : coreOf (setCC s (arming (cc s) g)) s.cur = arming (cc s) g := coreOf_setCore_same ..
  obtain ⟨out, harm⟩ := armAt_differs (s := setCC s (arming (cc s) g)) (tok := (cc s).tok) (a := off) (e := e) hcur (by rw [hk]; rfl)
    (by rw [hk]; exact mem_out_arming ..) (by rw [hk]; exact hne)
  rw [hk] at harm
  rw [waitmOp_own hwait hg hact hform hfault, harm]
  generalize hu : setCore _ s.cur { arming (cc s) g with wait := Wait.woke 0, out := out } = u
  have hcc : cc u = { arming (cc s) g with wait := Wait.woke 0, out := out } := by
    rw [← hu]
    exact coreOf_setCore_same ..
  simp only [hcc]
  refine ⟨_, rfl, ?_, fun q hq => ?_, ?_, ?_⟩
  · rw [cc_setCC, rx_advance, rx_wx]
    exact ite_self _
  · rw [cc_setCC, rx_advance, rx_wx_other _ _ _ _ hq]
    rfl
  · rw [Passes, cc_setCC]
    exact advance_of_same (wx_pc ..) (wx_loops ..) (wx_trapped ..)
  · rw [cc_setCC, advance_eq, wx_eq]
    rfl

/-- And sleeps, with its monitor armed, where it is the same. -/
theorem waitmOp_sleeps {rd : Reg} {g e : Word} {a : Act} {off : Nat} (hwait : (cc s).wait = .idle) (hg : g.toNat % 64 = 0) (hact : (cc s).act = some a)
    (hform : gform g = .peer a.rank off) (hfault : rangeFault (slotOf (cc s) (curSlot (cc s))) off 64 false = none) (heq : rdLE (cc s).lm off 8 = e.toNat) :
    ∃ t : State, waitmOp s rd g e = .next t ∧ (cc t).wait = .armed (cc s).tok ∧ (cc t).pc = (cc s).pc ∧ Untouched s t ∧
      ⟨true, s.cur, off, s.cur, (cc s).tok, none⟩ ∈ t.monitors := by
  have hk : coreOf (setCC s (arming (cc s) g)) s.cur = arming (cc s) g := coreOf_setCore_same ..
  have harm := armAt_same (s := setCC s (arming (cc s) g)) (tok := (cc s).tok) (a := off) (e := e) (by rw [hk]; exact mem_out_arming ..) (by rw [hk]; exact heq)
  rw [waitmOp_own hwait hg hact hform hfault, harm]
  generalize hu : ({ setCC s (arming (cc s) g) with monitors := _ } : State) = u
  have hcc : cc u = arming (cc s) g := by
    rw [← hu]
    exact hk
  have hmem : u.mem = s.mem := by rw [← hu]; rfl
  have hmon : ⟨true, s.cur, off, s.cur, (cc s).tok, none⟩ ∈ u.monitors := by
    rw [← hu]
    exact List.mem_append_right _ (List.mem_singleton.mpr rfl)
  simp only [hcc]
  exact ⟨u, rfl, by rw [hcc]; rfl, by rw [hcc]; rfl, ⟨fun r => by rw [hcc]; rfl, by rw [hcc]; rfl, by rw [hcc]; rfl, hmem⟩, hmon⟩

/-- WAITM on a block of the core's own LM, clause by clause. -/
theorem waitForMemory : Clauses.WaitForMemory := by
  intro s rd ra rb a off g i
  refine ⟨fun r hwait => ?_, fun tok hwait => ?_, fun hwait hg => ?_, fun hwait hg hact hform hfault hcur => ⟨fun hne => ?_, fun heq => ?_⟩⟩
  · have hexec : exec i s = .next (setCC s (advance (wx { cc s with wait := .idle } rd (wd r)))) := by
      change waitmOp s rd g _ = _
      unfold waitmOp
      simp only [hwait]
    refine ⟨_, hexec, ?_, fun q hq => ?_, ?_, ?_⟩
    · rw [cc_setCC, rx_advance, rx_wx]
    · rw [cc_setCC, rx_advance, rx_wx_other _ _ _ _ hq]
      rfl
    · rw [cc_setCC, advance_eq, wx_eq]
    · rw [Passes, cc_setCC]
      exact advance_of_same (wx_pc ..) (wx_loops ..) (wx_trapped ..)
  · change waitmOp s rd g _ = _
    unfold waitmOp
    simp only [hwait]
  · change waitmOp s rd g _ = _
    unfold waitmOp
    simp only [hwait, if_pos hg]
    rfl
  · exact waitmOp_returns hwait hg hact hform hfault hcur hne
  · exact waitmOp_sleeps hwait hg hact hform hfault heq

/-- Settles O48: the flush's own lemmas say how FLUSH and the fences begin; the rest follows the waits of `fence` and `waitmOp`. -/
theorem fencesAndWaits : Obligations.FencesAndWaits := ⟨flushAndFences, waitForMemory⟩

end Sys2Proof.Machine
end

section
/-! ### Effects that enter the send buffer, and requests of messages (07 R130, R139; 20 R329, R330, R342 to R348; 16 R290, R296) -/

namespace Sys2Proof.Machine
open Stated

variable {s : State} {i : Instr}

/-- Without room the effect waits for a flush, which begins first. -/
theorem bufferT_full {eff : Nat → Effect} {n m : Nat} {f : Nat → Core → Core} {bad : Bool} (hroom : sbRoom (cc s) n = false) :
    ∃ cont, bufferT s eff n m f bad = afterFlush s 0 cont := by
  unfold bufferT
  exact ⟨_, if_neg (by rw [hroom]; exact fun h => Bool.noConfusion h.2)⟩

theorem buffers_of_buffer {eff : Effect} {n m : Nat} {bad : Bool} (h : exec i s = buffer s eff n m id bad) : Buffers i s (fun _ => eff) n m bad := by
  intro hwait htwin
  rw [h]
  refine ⟨fun hroom => bufferT_room s _ n m _ bad hwait htwin hroom, fun hroom hsb => ?_⟩
  obtain ⟨cont, hcont⟩ := bufferT_full (s := s) (eff := fun _ => eff) (m := m) (f := fun _ => id) (bad := bad) hroom
  obtain ⟨t, hnext, hrestart, hw, hflush, -, hpc, hun⟩ := afterFlush_begins (extra := 0) (cont := cont) hwait htwin hsb
  exact ⟨t, hcont.trans hnext, hw, hflush, hrestart, hpc, hun⟩

theorem pendReg_eq (k : Core) (rd : Reg) (tok : Nat) : pendReg k rd tok = { k with pendx := (pendReg k rd tok).pendx } := by
  unfold pendReg
  split <;> rfl

theorem mem_pendReg (k : Core) {rd : Reg} (h : rd ≠ 0) (tok : Nat) : (rd.toNat, tok) ∈ (pendReg k rd tok).pendx := by
  rw [pendReg, if_neg h]
  exact List.mem_append_right _ (List.mem_singleton.mpr rfl)

/-- An effect whose answer a register awaits. -/
theorem bufferT_pends {eff : Nat → Effect} {n : Nat} {rd : Reg} {bad : Bool} (h : exec i s = bufferT s eff n 0 (fun t k => pendReg k rd t) bad)
    (hwait : (cc s).wait = .idle) (htwin : (cc s).twin = none) (hroom : sbRoom (cc s) n = true) :
    ∃ t : State, exec i s = .next t ∧ (rd ≠ 0 → (rd.toNat, (cc s).tok) ∈ (cc t).pendx) ∧ Passes s t ∧ Untouched s t ∧ OnlyCore s t ∧
      (cc t).sb = (cc s).sb ++ [{ eff := eff (cc s).tok, bytes := n, counted := 0, tok := (cc s).tok, poison := bad }] := by
  rw [h, bufferT_room s eff n 0 _ bad hwait htwin hroom]
  refine ⟨_, rfl, fun hrd => ?_, ?_, ⟨fun r => ?_, ?_, ?_, rfl⟩, onlyCore_setCC s _, ?_⟩
  case refine_2 =>
    rw [Passes, cc_setCC, pendReg_eq]
    exact advance_of_same rfl rfl rfl
  all_goals rw [cc_setCC]
  · rw [advance_eq]
    exact mem_pendReg _ hrd _
  · rw [rx_advance, pendReg_eq]
    rfl
  · rw [advance_eq, pendReg_eq]
  · rw [advance_eq, pendReg_eq]
  · rw [advance_eq, pendReg_eq]

/-! #### LM operands (07 R139; 09 R173) -/

/-- The words of an operand that other members hold. -/
def farWords (s : State) (a n : Nat) : List Nat :=
  if (fusedWins s s.cur).isEmpty then [] else (wordsOf a n).filter fun w => decide ((lmHome s (8 * w)).1 ≠ s.cur)

theorem lmHome_of_no_windows (h : (fusedWins s s.cur).isEmpty = true) (a : Nat) : (lmHome s a).1 = s.cur := by
  rw [List.isEmpty_iff] at h
  simp [lmHome, fusedAt, h]

theorem mem_farWords {a n w : Nat} : w ∈ farWords s a n ↔ w ∈ wordsOf a n ∧ (lmHome s (8 * w)).1 ≠ s.cur := by
  unfold farWords
  split
  next h => simp [lmHome_of_no_windows h]
  next => simp

theorem near_iff {a n : Nat} : Near s a n ↔ (farWords s a n).all (fun w => (mget (cc s).vgot w).isSome) = true := by
  rw [List.all_eq_true]
  refine ⟨fun h w hw => ?_, fun h w hw => ?_⟩
  · obtain ⟨hw, hfar⟩ := mem_farWords.mp hw
    exact (h w hw).resolve_left hfar
  · by_cases hfar : (lmHome s (8 * w)).1 = s.cur
    · exact .inl hfar
    · exact .inr (h w (mem_farWords.mpr ⟨hw, hfar⟩))

theorem rowFirst_near {a n : Nat} {cont : Out} (h : Near s a n) : rowFirst s a n cont = cont := if_pos (near_iff.mp h)

/-- A word asked for over the row channel. -/
theorem askRow_waits (owner at_ w : Nat) :
    (cc (askRow s owner at_ w)).sb = (cc s).sb ∧ (cc (askRow s owner at_ w)).pc = (cc s).pc ∧ (cc (askRow s owner at_ w)).wait = (cc s).wait ∧
      Untouched s (askRow s owner at_ w) := by
  have hcc : cc (askRow s owner at_ w) = outstanding (freshTok (cc s)).2 (freshTok (cc s)).1 0 (.rowWord w) 0 := by
    unfold askRow
    dsimp only
    rw [emit_only]
    exact cc_setCC s _
  refine ⟨by rw [hcc]; rfl, by rw [hcc]; rfl, by rw [hcc]; rfl, fun r => by rw [hcc]; rfl, by rw [hcc]; rfl, by rw [hcc]; rfl, ?_⟩
  unfold askRow
  dsimp only
  rw [emit_only]
  rfl

/-- An instruction with an operand that is not all at hand stays where it is. -/
theorem rowFirst_far {a n : Nat} {cont : Out} (h : ¬ Near s a n) :
    ∃ t : State, rowFirst s a n cont = .next t ∧ (cc t).sb = (cc s).sb ∧ (cc t).pc = (cc s).pc ∧ (cc t).wait = (cc s).wait ∧ Untouched s t := by
  have hall : ¬ (farWords s a n).all (fun w => (mget (cc s).vgot w).isSome) = true := mt near_iff.mpr h
  change ∃ t : State, (if (farWords s a n).all (fun w => (mget (cc s).vgot w).isSome) = true then cont else
    match (farWords s a n).find? fun w => (mget (cc s).vgot w).isNone && !rowAsked (cc s) w with
    | some w => .next (askRow s (lmHome s (8 * w)).1 (lmHome s (8 * w)).2 w)
    | none => .next s) = .next t ∧ _
  rw [if_neg hall]
  split
  next w _ => exact ⟨_, rfl, askRow_waits _ _ w⟩
  next => exact ⟨s, rfl, rfl, rfl, rfl, fun _ => rfl, rfl, rfl, rfl⟩

/-! #### The instructions at issue -/

theorem headerOf_sendHdr (s : State) (w : Word) (mkind : Nat) : HeaderOf s w (sendHdr (cc s) w mkind) mkind := by
  refine ⟨rfl, rfl, rfl, rfl, rfl, fun a hact => ?_⟩
  unfold sendHdr actCtx
  rw [hact]
  exact ⟨rfl, rfl, rfl, rfl⟩

section
variable {xw xa xb : Reg}

/-- SEND, its checks passed. -/
theorem exec_send (hword : sendWordOk (rx (cc s) xw) = true) (hlen : (rx (cc s) xb).toNat ≤ 2048)
    (hspan : spanFault s (rx (cc s) xa) (rx (cc s) xb).toNat false = none) :
    exec (.send xw xa xb) s = rowFirst s (rx (cc s) xa).toNat (rx (cc s) xb).toNat
      (buffer s (.msg (sendHdr (cc s) (rx (cc s) xw) 0) (spanRead s (rx (cc s) xa).toNat (rx (cc s) xb).toNat).1) (rx (cc s) xb).toNat 1 id
        (spanRead s (rx (cc s) xa).toNat (rx (cc s) xb).toNat).2) := by
  have hok : ¬ ((rx (cc s) xb).toNat > 2048 ∨ sendWordOk (rx (cc s) xw) = false) := by
    rw [hword]
    exact not_or.mpr ⟨Nat.not_lt.mpr hlen, nofun⟩
  change execSend xw xa xb s = _
  unfold execSend
  dsimp only
  rw [if_neg hok, hspan]
  rfl

theorem exec_send_ill (h : sendWordOk (rx (cc s) xw) = false ∨ 2048 < (rx (cc s) xb).toNat) :
    exec (.send xw xa xb) s = .next (takeTrap s s.cur 0x20 none) := by
  change execSend xw xa xb s = _
  unfold execSend
  exact if_pos h.symm

/-- LAUNCH counts the ranks of its mask. -/
theorem popN_eq_length (n x : Nat) : popN n x = ((List.range n).filter fun i => x.testBit i).length := by
  induction n generalizing x with
  | zero => rfl
  | succ n ih =>
    have htail : ((List.range n).filter fun i => x.testBit (i + 1)).length = popN n (x / 2) := by
      rw [ih]
      simp only [Nat.testBit_succ]
    rw [popN, List.range_succ_eq_map, List.filter_cons, List.filter_map]
    simp only [Nat.testBit_zero, Function.comp_def]
    rcases Nat.mod_two_eq_zero_or_one x with h | h
    · simp [h, htail]
    · simp [h, htail, Nat.add_comm]

theorem exec_launch {n : BitVec 9} (hword : sendWordOk (rx (cc s) xw) = true) (hlen : n.toNat ≤ 256)
    (hspan : spanFault s (rx (cc s) xa) (8 * n.toNat) false = none) (hnear : Near s (rx (cc s) xa).toNat (8 * n.toNat)) :
    exec (.launch xw xb xa n) s =
      buffer s (.launch { sendHdr (cc s) (rx (cc s) xw) 3 with x6 := (rx (cc s) xb).toNat } (rx (cc s) xb).toNat
        (spanRead s (rx (cc s) xa).toNat (8 * n.toNat)).1) (8 * n.toNat) (popN 64 (rx (cc s) xb).toNat) id
        (spanRead s (rx (cc s) xa).toNat (8 * n.toNat)).2 := by
  have hok : ¬ (n.toNat > 256 ∨ sendWordOk (rx (cc s) xw) = false) := by
    rw [hword]
    exact not_or.mpr ⟨Nat.not_lt.mpr hlen, nofun⟩
  change execLaunch xw xb xa n s = _
  unfold execLaunch
  dsimp only
  rw [if_neg hok, hspan]
  exact rowFirst_near hnear

/-- The header of a spawned element's message: that of the chain, or of the kernel that the word names (20 R345). -/
def spawnHdr (k : Core) (w : Word) : MsgHdr :=
  { sendHdr k 0 5 with tag := fld w 63 48, kernel := if fld w 31 0 = 0 then (sendHdr k 0 5).kernel else fld w 31 0 }

theorem exec_dspn {m : BitVec 6} (hlen : m.toNat ≤ 32) (hword : fld (rx (cc s) xw) 47 32 = 0) (helem : fld (rx (cc s) xb) 63 32 = 0)
    (hspan : spanFault s (rx (cc s) xa) (8 * m.toNat) false = none) (hnear : Near s (rx (cc s) xa).toNat (8 * m.toNat)) :
    exec (.dspn xw xb xa m) s =
      buffer s (.dspn (spawnHdr (cc s) (rx (cc s) xw)) (fld (rx (cc s) xb) 31 0) (spanRead s (rx (cc s) xa).toNat (8 * m.toNat)).1) (8 + 8 * m.toNat) 1 id
        (spanRead s (rx (cc s) xa).toNat (8 * m.toNat)).2 := by
  have hok : ¬ (m.toNat > 32 ∨ fld (rx (cc s) xw) 47 32 ≠ 0 ∨ fld (rx (cc s) xb) 63 32 ≠ 0) :=
    not_or.mpr ⟨Nat.not_lt.mpr hlen, not_or.mpr ⟨not_not.mpr hword, not_not.mpr helem⟩⟩
  change execDspn xw xb xa m s = _
  unfold execDspn
  dsimp only
  rw [if_neg hok, hspan]
  exact rowFirst_near hnear

theorem exec_rst {w : BitVec 2} (halign : (rx (cc s) xa).toNat % wbytes w = 0) (hform : gform (rx (cc s) xa) ≠ .bad) :
    exec (.rst xa xb w) s = buffer s (.store (rx (cc s) xa).toNat (wbytes w) (rx (cc s) xb) false) 8 0 id (xbad (cc s) xb) := by
  change execRst xa xb w s = _
  unfold execRst
  dsimp only
  rw [if_neg (not_not.mpr halign), if_neg hform]

theorem exec_rstn {off : BitVec 3} {z : BitVec 2} (hform : gform (rx (cc s) xa) ≠ .bad) :
    exec (.rstn xa xb off z) s = buffer s (.subStore (rx (cc s) xa).toNat off.toNat (2 ^ z.toNat) (rx (cc s) xb)) 8 0 id (xbad (cc s) xb) := by
  change execRstn xa xb off z s = _
  unfold execRstn
  dsimp only
  rw [if_neg hform]

/-- ST.F to a peer's LM (16 R290). -/
theorem exec_stF_peer {o : BitVec 13} (hpeer : bit (rx (cc s) xa + sext o) 63 = true) (halign : (rx (cc s) xa + sext o).toNat % 8 = 0)
    (hform : gform (rx (cc s) xa + sext o) ≠ .bad) :
    exec (.stF xa xb o) s = buffer s (.store (rx (cc s) xa + sext o).toNat 8 (rx (cc s) xb) true) 8 0 id (xbad (cc s) xb) := by
  change execStF xa xb o s = _
  unfold execStF eaddr
  dsimp only
  rw [if_pos hpeer, if_neg (not_not.mpr halign), if_neg hform]

end

/-- The buffered effects, clause by clause. -/
theorem bufferedEffects : Clauses.BufferedEffects := by
  intro s xw xa xb n m q w off z o13 a sw b rd_
  refine ⟨fun hword hlen hspan hfar => ?_, fun hword hlen hspan hnear => ?_, fun h => exec_send_ill h, fun hword hlen hspan hnear => ?_,
    fun hlen hword helem hspan hnear => ?_, buffers_of_buffer rfl, buffers_of_buffer rfl, fun halign hform => buffers_of_buffer (exec_rst halign hform),
    fun hform => buffers_of_buffer (exec_rstn hform), fun hpeer halign hform => buffers_of_buffer (exec_stF_peer hpeer halign hform)⟩
  · rw [exec_send hword hlen hspan]
    exact rowFirst_far hfar
  · exact ⟨_, headerOf_sendHdr s sw 0, buffers_of_buffer ((exec_send hword hlen hspan).trans (rowFirst_near hnear))⟩
  · have hcount : popN 64 b.toNat = ((List.range 64).filter fun i => bit b i).length := popN_eq_length 64 b.toNat
    refine ⟨{ sendHdr (cc s) sw 3 with x6 := b.toNat }, headerOf_sendHdr s sw 3, ?_⟩
    rw [← hcount]
    exact buffers_of_buffer (exec_launch hword hlen hspan hnear)
  · refine ⟨spawnHdr (cc s) sw, rfl, fun h => if_neg h, fun h => (if_pos h).trans ?_, rfl, buffers_of_buffer (exec_dspn hlen hword helem hspan hnear)⟩
    unfold sendHdr actKernel
    cases (cc s).act <;> rfl

section
variable {rd xa xb : Reg}

theorem exec_ksub (hword : fld (rx (cc s) xb) 63 1 = 0) (halign : (rx (cc s) xa).toNat % 64 = 0) (hspan : spanFault s (rx (cc s) xa) 64 false = none)
    (hnear : Near s (rx (cc s) xa).toNat 64) :
    exec (.ksub rd xa xb) s =
      bufferT s (fun t => .ksub (leWords 8 (spanRead s (rx (cc s) xa).toNat 64).1) (fld (rx (cc s) xb) 0 0) t) 64 0 (fun t k => pendReg k rd t)
        (spanRead s (rx (cc s) xa).toNat 64).2 := by
  change execKsub rd xa xb s = _
  unfold execKsub
  dsimp only
  rw [if_neg (not_not.mpr hword), if_neg (not_not.mpr halign), hspan]
  exact rowFirst_near hnear

theorem exec_jcan (hword : fld (rx (cc s) xa) 63 32 = 0) :
    exec (.jcan rd xa) s = bufferT s (fun t => .jcan (fld (rx (cc s) xa) 31 0) t) 0 0 fun t k => pendReg k rd t :=
  if_neg (not_not.mpr hword)

/-- The request of ADJREG, as it leaves for the dispatcher of the issuing die. -/
def adjregReq (s : State) (n r : Nat) : Packet :=
  { src := niOf s s.cur, dst := dispOf s (dieOf s.cur), cls := 0, op := 0x21, cid := (actOwn (cc s)).1, inc := (actOwn (cc s)).2, len := 2,
    body := .adjreg n r (cc s).tok }

/-- The core of an ADJREG that has been asked. -/
def adjregCore (k : Core) (rd : Reg) : Core := advance (pendReg { k with tok := k.tok + 1 } rd k.tok)

theorem exec_adjreg (h : (rx (cc s) xa).toNat ≤ 15) :
    exec (.adjreg rd xa xb) s = .next (emit (setCC s (adjregCore (cc s) rd)) (adjregReq s (rx (cc s) xa).toNat (rx (cc s) xb).toNat)) := by
  have hown : actOwn (cc s) = ((actCtx (cc s)).1, (actCtx (cc s)).2.1) := by
    unfold actOwn actCtx
    cases (cc s).act <;> rfl
  change execAdjreg rd xa xb s = _
  unfold execAdjreg adjregReq
  dsimp only
  rw [if_neg (Nat.not_lt.mpr h), hown]
  rfl

theorem adjreg_asks (h : (rx (cc s) xa).toNat ≤ 15) (hcur : s.cur < 2048) :
    ∃ t : State, exec (.adjreg rd xa xb) s = .next t ∧ (rd ≠ 0 → (rd.toNat, (cc s).tok) ∈ (cc t).pendx) ∧ Passes s t ∧ Untouched s t ∧
      (cc t).sb = (cc s).sb ∧
      chanQ t (niOf s s.cur) (dispOf s (dieOf s.cur)) 0 =
        chanQ s (niOf s s.cur) (dispOf s (dieOf s.cur)) 0 ++ [adjregReq s (rx (cc s) xa).toNat (rx (cc s) xb).toNat] := by
  refine ⟨_, exec_adjreg h, ?_⟩
  generalize hp : adjregReq s (rx (cc s) xa).toNat (rx (cc s) xb).toNat = p
  have hcc : cc (emit (setCC s (adjregCore (cc s) rd)) p) = adjregCore (cc s) rd := by
    rw [emit_only]
    exact cc_setCC s _
  have hmem : (emit (setCC s (adjregCore (cc s) rd)) p).mem = s.mem := by rw [emit_only]; rfl
  have hchip : agChip p.dst = (setCC s (adjregCore (cc s) rd)).chip := by
    have hdie : dieOf s.cur < 2 := by unfold dieOf; omega
    rw [← hp]
    simp only [adjregReq, dispOf, agentId, agChip, setCC_chip]
    omega
  have hq : chanQ (emit (setCC s (adjregCore (cc s) rd)) p) (niOf s s.cur) (dispOf s (dieOf s.cur)) 0 =
      chanQ s (niOf s s.cur) (dispOf s (dieOf s.cur)) 0 ++ [p] := by
    have h := chanQ_emit_own hchip
    rw [← hp] at h ⊢
    exact h
  have hk : adjregCore (cc s) rd =
      { cc s with pendx := (adjregCore (cc s) rd).pendx, tok := (cc s).tok + 1, pc := (adjregCore (cc s) rd).pc, loops := (adjregCore (cc s) rd).loops,
                  vgot := [], vpos := 0 } := by
    rw [adjregCore, advance_eq, pendReg_eq]
  refine ⟨fun hrd => ?_, ?_, ⟨fun r => ?_, ?_, ?_, hmem⟩, ?_, hq⟩
  case refine_2 =>
    rw [Passes, hcc, adjregCore, pendReg_eq]
    exact advance_of_same rfl rfl rfl
  all_goals rw [hcc]
  · rw [adjregCore, advance_eq]
    exact mem_pendReg _ hrd _
  · rw [hk]
    rfl
  · rw [hk]
  · rw [hk]
  · rw [hk]

theorem exec_adjreg_high (h : 15 < (rx (cc s) xa).toNat) : exec (.adjreg rd xa xb) s = writeX s rd 0x66 := if_pos h

end

/-- KSUB, JCAN and ADJREG, clause by clause. -/
theorem answeredRequests : Clauses.AnsweredRequests := by
  intro s rd xa xb a b k entry
  refine ⟨fun hwait htwin => ⟨fun hword halign hspan hnear hroom => ?_, fun hword hroom => ?_⟩, adjreg_asks, fun h => gives_of_writeX (exec_adjreg_high h)⟩
  · exact bufferT_pends (exec_ksub hword halign hspan hnear) hwait htwin hroom
  · exact bufferT_pends (exec_jcan hword) hwait htwin hroom

/-- Settles O52: each instruction is its buffered effect once its checks pass and its operand is at hand. -/
theorem effectsAndRequestsOfMessages : Obligations.EffectsAndRequestsOfMessages := ⟨bufferedEffects, answeredRequests⟩

end Sys2Proof.Machine
end

section
/-! ### O32: a row packet in a store channel -/

namespace Sys2Proof.Machine

/-- A store of core 1 whose header says that it is of the row channel. -/
def rowHeaded : Packet := { src := 1, cls := rowCls, body := .store 0 8 1 false 0 }

/-- A package in which it waits at the head of a channel of class REQ to core 0, which holds no resident. -/
def rowInReq : State := { State.reset with incLag := [(0, 0)], chans := [{ src := 1, dst := 0, cls := 0, q := [rowHeaded] }] }

theorem niRefusal_rowInReq : niRefusal rowInReq 0 rowHeaded.slot rowHeaded.src 0 8 true = some 0x26 := rfl

/-- The NI takes it as an access of the row channel, which it does not check against a resident, and applies it: nothing is sent back. -/
theorem applyStep_rowInReq : ∃ t, exec (.applyStep 1 0 0) rowInReq = .next t ∧ chanQ t 0 1 4 = [] := ⟨_, rfl, rfl⟩

/-- Refutes O32: its clause on a store that an NI refuses leaves the class in the packet's own header open, and a packet whose header names the row channel
is applied unchecked, whatever channel it stands in. -/
theorem not_effectsAndAnswers : ¬ Obligations.EffectsAndAnswers := by
  unfold Obligations.EffectsAndAnswers
  intro h
  obtain ⟨-, -, -, -, -, hni, -⟩ := h rowInReq 1 0 0 0 rowHeaded []
  obtain ⟨-, hrefused⟩ := hni 0 8 1 0 rfl rfl (by decide) rfl rfl rfl rfl (by decide) rfl rfl rfl rfl
  obtain ⟨t, ht, ⟨q, hq, -⟩, -⟩ := hrefused 0x26 niRefusal_rowInReq rfl
  obtain ⟨t', ht', hempty⟩ := applyStep_rowInReq
  obtain rfl : t' = t := by simpa using ht'.symm.trans ht
  rw [show chanQ t' (niOf rowInReq 0) rowHeaded.src 4 = [] from hempty] at hq
  simp at hq

end Sys2Proof.Machine
end

section
/-! ### O30: messages that land, park and drain, and ranks that an NI forgets -/

namespace Sys2Proof.Machine

open Stated

/-! #### Who wakes -/

/-- What changes where cores and other chips hear of a write or a message: waits, what waits for an answer, answers that go out, and PEND, which is not lost. -/
structure Roused (s t : State) : Prop where
  mem : t.mem = s.mem
  dies : t.dies = s.dies
  chans : ∀ {src dst cls : Nat}, cls ≠ 4 → chanQ t src dst cls = chanQ s src dst cls
  cores : ∀ {β : Type} (φ : Core → β), (∀ k w o b, φ { k with wait := w, out := o, pend := b } = φ k) → ∀ c, φ (coreOf t c) = φ (coreOf s c)
  pend : ∀ c, (coreOf s c).pend = true → (coreOf t c).pend = true

theorem Roused.refl (s : State) : Roused s s := ⟨rfl, rfl, fun _ => rfl, fun _ _ _ => rfl, fun _ => id⟩

theorem Roused.trans {s t u : State} (h : Roused s t) (h' : Roused t u) : Roused s u :=
  ⟨h'.mem.trans h.mem, h'.dies.trans h.dies, fun hcls => (h'.chans hcls).trans (h.chans hcls), fun φ hφ c => (h'.cores φ hφ c).trans (h.cores φ hφ c),
    fun c hc => h'.pend c (h.pend c hc)⟩

theorem roused_foldl {α : Type} {f : State → α → State} (hf : ∀ s a, Roused s (f s a)) (as : List α) : ∀ s, Roused s (as.foldl f s) := by
  induction as with
  | nil => exact .refl
  | cons a as ih => exact fun s => (hf s a).trans (ih _)

theorem roused_ite {s t u : State} (p : Prop) [Decidable p] (ht : Roused s t) (hu : Roused s u) : Roused s (if p then t else u) := by
  split
  · exact ht
  · exact hu

theorem roused_updCore (s : State) (c : Nat) {f : Core → Core} (hf : ∀ k, ∃ w o b, f k = { k with wait := w, out := o, pend := b } ∧ (k.pend = true → b = true)) :
    Roused s (updCore s c f) := by
  have hcore : ∀ d, coreOf (updCore s c f) d = coreOf s d ∨
      ∃ w o b, coreOf (updCore s c f) d = { coreOf s d with wait := w, out := o, pend := b } ∧ ((coreOf s d).pend = true → b = true) := by
    intro d
    rw [coreOf_updCore]
    split
    · exact .inr (hf _)
    · exact .inl rfl
  refine ⟨rfl, rfl, fun _ => rfl, fun φ hφ d => ?_, fun d hd => ?_⟩
  · obtain h | ⟨w, o, b, h, -⟩ := hcore d
    · rw [h]
    · rw [h]
      exact hφ ..
  · obtain h | ⟨w, o, b, h, hb⟩ := hcore d
    · rw [h]
      exact hd
    · rw [h]
      exact hb hd

theorem roused_farWake (s : State) (p : Packet) (tok reason : Nat) : Roused s (farWake s p tok reason) := by
  have hchans : ∀ {src dst cls : Nat}, cls ≠ 4 → chanQ (farWake s p tok reason) src dst cls = chanQ s src dst cls := fun hcls => chanQ_emit_other fun h => hcls h.2.2
  have hcores : ∀ c, coreOf (farWake s p tok reason) c = coreOf s c := by
    intro c
    rw [farWake, emit_only]
    rfl
  refine ⟨?_, ?_, hchans, fun φ _ c => by rw [hcores], fun c hc => by rw [hcores, hc]⟩
  · rw [farWake, emit_only]
  · rw [farWake, emit_only]

theorem roused_wakeCore (s : State) (c reason : Nat) : Roused s (wakeCore s c reason) := by
  refine Roused.trans (t := { s with monitors := s.monitors.filter fun m => !decide (m.core = c) }) ⟨rfl, rfl, fun _ => rfl, fun _ _ _ => rfl, fun _ => id⟩ ?_
  unfold wakeCore
  dsimp only
  split
  · refine roused_foldl (fun t m => ?_) _ _
    split
    · exact roused_farWake ..
    · exact .refl t
  · split
    · exact roused_updCore _ c (f := fun k => { k with wait := _, out := _ }) fun k => ⟨_, _, k.pend, rfl, id⟩
    · exact .refl _
    · exact roused_updCore _ c (f := fun k => { k with out := _ }) fun k => ⟨k.wait, _, k.pend, rfl, id⟩

theorem roused_wakeAll (s : State) (lm : Bool) (home a n reason : Nat) : Roused s (wakeAll s lm home a n reason) :=
  roused_foldl (fun t c => roused_wakeCore t c reason) _ s

theorem roused_setPend (s : State) (c : Nat) : Roused s (setPend s c) :=
  roused_ite _ ((roused_updCore s c fun k => ⟨k.wait, k.out, true, rfl, fun _ => rfl⟩).trans (roused_wakeCore ..)) (.refl s)

/-- Those who hear of a landing. -/
theorem roused_landingHeard (s : State) (c slot prio : Nat) : Roused s (landingHeard s c slot prio) := by
  have hwoken : Roused s (match (coreOf s c).act with
      | some a => if a.slot = slot then wakeCore s c 4 else s
      | none => s) := by
    split
    · exact roused_ite _ (roused_wakeCore ..) (.refl s)
    · exact .refl s
  exact roused_ite _ (hwoken.trans (roused_setPend ..)) hwoken

/-- A core learns of a message above what it runs. -/
theorem pend_landingHeard {s : State} {c slot prio : Nat} {x : Act} (hact : (coreOf s c).act = some x) (hprio : runPrio (coreOf s c) < prio) :
    (coreOf (landingHeard s c slot prio) c).pend = true := by
  have hset : ∀ t, Roused s t → (coreOf (setPend t c) c).pend = true := by
    intro t ht
    have hact' : (coreOf t c).act = some x := (ht.cores Core.act (fun _ _ _ _ => rfl) c).trans hact
    rw [setPend, if_pos (by rw [hact']; rfl)]
    exact (roused_wakeCore ..).pend c (by rw [coreOf_updCore_same])
  unfold landingHeard
  dsimp only
  rw [if_pos (by simp [hact, hprio]), hact]
  exact hset _ (roused_ite _ (roused_wakeCore ..) (.refl s))

/-! #### A message that lands -/

/-- The entry of a message that lands without poison. -/
def landedMsg (s : State) (addr cid inc : Nat) (h : MsgHdr) (pay : List Byte) : QMsg :=
  let task := if h.mkind = 5 then taskOf s cid h.msgid else none
  { task := task.map fun t => (t.1, t.2.age), aborts := (task.map (·.2.aborts)).getD h.aborts, hdr := { h with aborts := 0 }, cid := cid, inc := inc, addr := addr,
    len := pay.length, poison := false, seq := s.landNext, eosEnd := if h.mkind = 6 then some (h.x7, h.x6) else none }

/-- A message at the tail of a queue. -/
def atTail (s : State) (c slot q : Nat) (m : QMsg) : State :=
  updCore { s with landNext := s.landNext + 1 } c fun k => updSlot k slot fun t => setQueue t q { queueOf t q with msgs := (queueOf t q).msgs ++ [m] }

theorem enqueue_eq (s : State) (c slot addr cid inc : Nat) (h : MsgHdr) (pay : List Byte) :
    enqueue s c slot addr cid inc h pay false =
      landingHeard (atTail (payLanded s c addr pay false) c slot h.queue (landedMsg (payLanded s c addr pay false) addr cid inc h pay)) c slot h.prio := rfl

/-- What a landing writes: bytes of LAND, and nothing else of what a core holds but its poison; those who watch them hear of it. -/
theorem payLanded_keeps {β : Type} (φ : Core → β) (hφ : ∀ k w o b lm poison, φ { k with wait := w, out := o, pend := b, lm := lm, poison := poison } = φ k)
    (s : State) (c a : Nat) (pay : List Byte) : φ (coreOf (payLanded s c a pay false) c) = φ (coreOf s c) := by
  unfold payLanded
  rw [if_neg Bool.false_ne_true]
  split
  · rfl
  · refine ((roused_wakeAll ..).cores φ (fun k w o b => hφ k w o b k.lm k.poison) c).trans ?_
    rw [coreOf_setCore_same]
    exact hφ _ _ _ _ _ _

theorem lm_payLanded (s : State) (c a : Nat) (pay : List Byte) : (coreOf (payLanded s c a pay false) c).lm = wrBytes (coreOf s c).lm a pay := by
  unfold payLanded
  rw [if_neg Bool.false_ne_true]
  split
  next hpay => rw [hpay]; rfl
  · refine ((roused_wakeAll ..).cores Core.lm (fun _ _ _ _ => rfl) c).trans ?_
    rw [coreOf_setCore_same]

theorem payLanded_beside (s : State) (c a : Nat) (pay : List Byte) :
    (payLanded s c a pay false).mem = s.mem ∧ (payLanded s c a pay false).dies = s.dies ∧
      ∀ {src dst cls : Nat}, cls ≠ 4 → chanQ (payLanded s c a pay false) src dst cls = chanQ s src dst cls := by
  unfold payLanded
  rw [if_neg Bool.false_ne_true]
  split
  · exact ⟨rfl, rfl, fun _ => rfl⟩
  · exact ⟨(roused_wakeAll ..).mem, (roused_wakeAll ..).dies, (roused_wakeAll ..).chans⟩

/-- A message that has landed: its entry and its payload stand, the core has heard of it, and nothing happens beside it but answers to who watched. -/
structure Lands (s t : State) (c slot a : Nat) (h : MsgHdr) (pay : List Byte) : Prop where
  landed : Landed s t c slot h.queue a h pay
  pend : ∀ x : Act, (coreOf s c).act = some x → runPrio (coreOf s c) < h.prio → (coreOf t c).pend = true
  mem : t.mem = s.mem
  ovs : ∀ d, (dieAt t d).ov = (dieAt s d).ov
  chans : ∀ {src dst cls : Nat}, cls ≠ 4 → chanQ t src dst cls = chanQ s src dst cls

theorem lands_enqueue (s : State) (c slot a cid inc : Nat) (h : MsgHdr) (pay : List Byte) : Lands s (enqueue s c slot a cid inc h pay false) c slot a h pay := by
  obtain ⟨hmem, hdies, hchans⟩ := payLanded_beside s c a pay
  have hkeeps := fun {β : Type} φ hφ => payLanded_keeps (β := β) φ hφ s c a pay
  have hlm := lm_payLanded s c a pay
  rw [enqueue_eq]
  generalize payLanded s c a pay false = u at *
  generalize hm : landedMsg u a cid inc h pay = m
  have hheard := roused_landingHeard (atTail u c slot h.queue m) c slot h.prio
  have hcore : coreOf (atTail u c slot h.queue m) c = updSlot (coreOf u c) slot fun t => setQueue t h.queue { queueOf t h.queue with msgs := (queueOf t h.queue).msgs ++ [m] } :=
    coreOf_updCore_same ..
  refine ⟨⟨⟨m, ?_, by rw [← hm]; rfl, by rw [← hm]; rfl, by rw [← hm]; rfl⟩, fun hwf => ?_⟩, fun x hact hprio => ?_, hheard.mem.trans hmem,
    fun d => congrArg (fun ds : Vector Die 2 => (ds[d % 2]'(by omega)).ov) (hheard.dies.trans hdies), fun hcls => (hheard.chans hcls).trans (hchans hcls)⟩
  · rw [hheard.cores (fun k => (queueOf (slotOf k slot) h.queue).msgs) (fun _ _ _ _ => rfl) c, hcore, slotOf_updSlot_same, queueOf_setQueue_same]
    exact congrArg (· ++ [m]) (hkeeps (fun k => (queueOf (slotOf k slot) h.queue).msgs) fun _ _ _ _ _ _ => rfl)
  · have hlm' : (coreOf (landingHeard (atTail u c slot h.queue m) c slot h.prio) c).lm = wrBytes (coreOf s c).lm a pay := by
      rw [hheard.cores Core.lm (fun _ _ _ _ => rfl) c, hcore]
      exact hlm
    rw [hlm']
    refine ⟨rdBytes_wrBytes pay _ a hwf, fun x hx => ?_⟩
    rw [rdByte_wrBytes pay _ a x hwf, if_neg (by omega)]
  · refine pend_landingHeard (x := x) ?_ ?_
    · rw [hcore]
      exact (hkeeps Core.act fun _ _ _ _ _ _ => rfl).trans hact
    · have hrun : runPrio (coreOf u c) = runPrio (coreOf s c) := hkeeps runPrio fun _ _ _ _ _ _ => rfl
      rw [hcore]
      exact hrun ▸ hprio

/-- That an effect is noted as applied changes nothing of a landing. -/
theorem Lands.noted {s t u : State} {c slot a : Nat} {h : MsgHdr} {pay : List Byte} (hl : Lands s t c slot a h pay) (hn : Noted t u) : Lands s u c slot a h pay := by
  obtain ⟨⟨⟨m, hmsgs, hm⟩, hlm⟩, hpend, hmem, hovs, hchans⟩ := hl
  refine ⟨⟨⟨m, ?_, hm⟩, fun hwf => ?_⟩, fun x hact hprio => ?_, ?_, fun d => (hn.dies Die.ov (fun _ _ => rfl) d).trans (hovs d), fun hcls => ?_⟩
  · exact (hn.cores (fun k => (queueOf (slotOf k slot) h.queue).msgs) (fun _ _ => rfl) c).trans hmsgs
  · rw [hn.cores Core.lm (fun _ _ => rfl) c]
    exact hlm hwf
  · exact (hn.cores Core.pend (fun _ _ => rfl) c).trans (hpend x hact hprio)
  · exact (congrArg State.mem hn.only).trans hmem
  · exact (chanQ_of_chans (congrArg State.chans hn.only) ..).trans (hchans hcls)

/-- Only the core matters of what was before. -/
theorem landed_congr {s s' t : State} {c slot q a : Nat} {h : MsgHdr} {pay : List Byte} (hcore : coreOf s' c = coreOf s c) (hl : Landed s' t c slot q a h pay) :
    Landed s t c slot q a h pay := by
  unfold Landed at hl ⊢
  rw [← hcore]
  exact hl

/-! #### The error injector and a payload that lands (04 R74) -/

/-- Whether an access is poisoned hangs on its die's injector, the context and the partitions alone. -/
theorem inject_fst_congr {s t : State} {die : Nat} (cid target : Nat) (hctxs : t.ctxs = s.ctxs) (hparts : t.parts = s.parts)
    (hctl : (dieAt t die).einjctl = (dieAt s die).einjctl) (hseed : (dieAt t die).einjseed = (dieAt s die).einjseed) :
    (inject t die cid target).1 = (inject s die cid target).1 := by
  have hctx : ctxOf t cid = ctxOf s cid := by rw [ctxOf, ctxOf, hctxs]
  unfold inject
  dsimp only
  rw [hctl, hseed, hctx, hparts]
  split <;> rfl

theorem dieAt_inject {β : Type} (φ : Die → β) (hφ : ∀ x n, φ { x with einjseed := n } = φ x) (s : State) (die cid target d : Nat) :
    φ (dieAt (inject s die cid target).2 d) = φ (dieAt s d) := by
  unfold inject
  dsimp only
  split
  · exact dieAt_updDie_keeps φ (g := fun x => { x with einjseed := _ }) (fun x => hφ x _) s die d
  · rfl

/-- The state in which a payload lands: the injector has been asked, where there is a payload. -/
def payAsked (s : State) (c cid : Nat) (pay : List Byte) : State := if pay = [] then s else (inject s (dieOf c) cid 0).2

theorem payAsked_only (s : State) (c cid : Nat) (pay : List Byte) : payAsked s c cid pay = { s with dies := (payAsked s c cid pay).dies } := by
  unfold payAsked
  split
  · rfl
  · exact inject_only_dies ..

theorem ov_payAsked (s : State) (c cid : Nat) (pay : List Byte) (d : Nat) : (dieAt (payAsked s c cid pay) d).ov = (dieAt s d).ov := by
  unfold payAsked
  split
  · rfl
  · exact dieAt_inject Die.ov (fun _ _ => rfl) ..

theorem landNow_unstruck {s : State} {c : Nat} {p : Packet} (slot a : Nat) (h : MsgHdr) (pay : List Byte) (hhit : (inject s (dieOf c) p.cid 0).1 = false) :
    landNow s c slot a p h pay false = (false, enqueue (payAsked s c p.cid pay) c slot a p.cid p.inc h pay false) := by
  have hpair : (if pay = [] then (false, s) else inject s (dieOf c) p.cid 0) = (false, payAsked s c p.cid pay) := by
    unfold payAsked
    split
    · rfl
    · exact Prod.ext hhit rfl
  simp only [landNow, hpair, Bool.or_false]

/-- A payload lands without poison. -/
theorem lands_landNow {s : State} {c : Nat} {p : Packet} (slot a : Nat) (h : MsgHdr) (pay : List Byte) (hhit : (inject s (dieOf c) p.cid 0).1 = false) :
    ∃ t, landNow s c slot a p h pay false = (false, t) ∧ Lands s t c slot a h pay := by
  refine ⟨_, landNow_unstruck slot a h pay hhit, ?_⟩
  have hlands := lands_enqueue (payAsked s c p.cid pay) c slot a p.cid p.inc h pay
  have honly := payAsked_only s c p.cid pay
  have hcore : coreOf (payAsked s c p.cid pay) c = coreOf s c := by
    rw [honly]
    rfl
  have hmem : (payAsked s c p.cid pay).mem = s.mem := by rw [honly]
  have hchans : (payAsked s c p.cid pay).chans = s.chans := by rw [honly]
  exact ⟨landed_congr hcore hlands.landed, hcore ▸ hlands.pend, hlands.mem.trans hmem, fun d => (hlands.ovs d).trans (ov_payAsked ..),
    fun hcls => (hlands.chans hcls).trans (chanQ_of_chans hchans ..)⟩

/-! #### A message reported -/

theorem coreOf_failMsg (s : State) (cause cid inc rank aborts : Nat) (h : MsgHdr) (c : Nat) : coreOf (failMsg s cause cid inc rank aborts h) c = coreOf s c := by
  unfold failMsg report
  dsimp only
  split <;> rfl

theorem dieAt_failMsg (s : State) (cause cid inc rank aborts : Nat) (h : MsgHdr) (d : Nat) : dieAt (failMsg s cause cid inc rank aborts h) d = dieAt s d := by
  unfold failMsg report
  dsimp only
  split <;> rfl

theorem mem_failMsg (s : State) (cause cid inc rank aborts : Nat) (h : MsgHdr) : (failMsg s cause cid inc rank aborts h).mem = s.mem := by
  unfold failMsg report
  dsimp only
  split <;> rfl

/-- Its record. -/
theorem failMsg_record (s : State) (cause cid inc rank aborts : Nat) (h : MsgHdr) :
    ∃ r ∈ (failMsg s cause cid inc rank aborts h).frecs, r.cause = cause ∧ r.kind = 1 ∧ r.cid = cid ∧ r.rank = rank ∧ r.msgid = h.msgid := by
  refine ⟨{ cause := cause, kind := 1, inc := inc, cid := cid, aborts := aborts, rank := rank, msgid := h.msgid, subtag := subtagOf s h.kernel,
            detail := Config.freeWord s.free }, ?_, rfl, rfl, rfl, rfl, rfl⟩
  unfold failMsg report
  dsimp only
  split <;> exact mem_failRec (drawFree s).2 _

/-! #### MESSAGE_LAND -/

section
variable {s : State} {src core : Nat} {p : Packet} {rest : List Packet} {h : MsgHdr} {pay : List Byte}

theorem landAt_empty_slot {c slot : Nat} (hbody : p.body = .msg h pay false) (hslot : (slotOf (coreOf s c) slot).resident = none) :
    landAt s c slot p = (false, failMsg s 0x42 p.cid p.inc h.trank 0 h) := by
  unfold landAt
  rw [hbody]
  dsimp only
  rw [hslot]
  rfl

theorem landAt_room {c slot a : Nat} (hbody : p.body = .msg h pay false) (hbad : p.bad = false) (hroom : Room s c slot h.queue pay.length a) :
    landAt s c slot p = landNow s c slot a p h pay false := by
  obtain ⟨r, hres, hsize, hlen, hplace, hspill⟩ := hroom
  have hsize' : ¬ rgSize (rgOf (slotOf (coreOf s c) slot) 2) < roundUp pay.length 64 := by omega
  simp only [landAt, hbody, hdrOf, payOf, hres, gt_iff_lt, if_neg hsize', hplace, hlen, hspill, decide_true, Bool.not_false, Bool.and_true, hbad, Bool.or_self]

theorem messageLand_head (hq : chanQ s src (niOf s core) 2 = p :: rest) (hinc : incOk s (niOf s core) p.cid p.inc = true) :
    exec (.messageLand src core) s = .next (markApplied (msgAt (chanPop s src (niOf s core) 2) core p) src p.tok (niOf s core)) := by
  show execMessageLand src core s = _
  simp only [execMessageLand, hq, hinc, Bool.not_true, Bool.false_eq_true, if_false]

theorem msgAt_good {c : Nat} {u : State} (hbody : p.body = .msg h pay false) (hgood : badHdr h pay.length = false) (hland : landAt s c p.slot p = (false, u)) :
    msgAt s c p = u := by
  simp only [msgAt, hbody, hdrOf, payOf, hgood, hland, sealLanded, Bool.false_and, Bool.false_eq_true, if_false]

/-- A malformed message is dropped and counted. -/
theorem messageLand_bad (hq : chanQ s src (niOf s core) 2 = p :: rest) (hbody : p.body = .msg h pay false) (hplain : Plain p)
    (hinc : incOk s (niOf s core) p.cid p.inc = true) (hmal : badHdr h pay.length = true) :
    ∃ t : State, exec (.messageLand src core) s = .next t ∧ (dieAt t (dieOf core)).counters[2] = ((dieAt s (dieOf core)).counters[2] + 1) % 2 ^ 32 ∧
      (coreOf t core).slots = (coreOf s core).slots ∧ t.mem = s.mem := by
  refine ⟨_, messageLand_head hq hinc, ?_⟩
  have hmsg : msgAt (chanPop s src (niOf s core) 2) core p = count (chanPop s src (niOf s core) 2) (dieOf core) 2 := by
    simp only [msgAt, hbody, hdrOf, payOf, hmal, if_true]
  rw [hmsg]
  have hn := noted_markApplied hplain.1 hplain.2 (count (chanPop s src (niOf s core) 2) (dieOf core) 2) src (niOf s core)
  refine ⟨?_, hn.cores Core.slots (fun _ _ => rfl) core, by rw [hn.only]; rfl⟩
  rw [hn.dies (fun d => d.counters[2]) (fun _ _ => rfl), counters_count _ _ _ (by decide)]
  rfl

/-- A message for a slot without a resident is reported. -/
theorem messageLand_empty (hq : chanQ s src (niOf s core) 2 = p :: rest) (hbody : p.body = .msg h pay false) (hplain : Plain p)
    (hinc : incOk s (niOf s core) p.cid p.inc = true) (hgood : badHdr h pay.length = false) (hslot : (slotOf (coreOf s core) p.slot).resident = none) :
    ∃ t : State, exec (.messageLand src core) s = .next t ∧ (∃ r ∈ t.frecs, r.cause = 0x42 ∧ r.kind = 1 ∧ r.cid = p.cid ∧ r.msgid = h.msgid) ∧
      (coreOf t core).slots = (coreOf s core).slots ∧ t.mem = s.mem := by
  refine ⟨_, messageLand_head hq hinc, ?_⟩
  rw [msgAt_good hbody hgood (landAt_empty_slot (s := chanPop s src (niOf s core) 2) hbody hslot)]
  have hn := noted_markApplied hplain.1 hplain.2 (failMsg (chanPop s src (niOf s core) 2) 0x42 p.cid p.inc h.trank 0 h) src (niOf s core)
  obtain ⟨r, hr, hrec⟩ := failMsg_record (chanPop s src (niOf s core) 2) 0x42 p.cid p.inc h.trank 0 h
  refine ⟨⟨r, by rw [hn.only]; exact hr, hrec.1, hrec.2.1, hrec.2.2.1, hrec.2.2.2.2⟩, ?_, ?_⟩
  · rw [hn.cores Core.slots (fun _ _ => rfl)]
    exact congrArg Core.slots (coreOf_failMsg ..)
  · rw [hn.only]
    exact mem_failMsg ..

/-- One that finds its place lands. -/
theorem messageLand_room {a : Nat} (hq : chanQ s src (niOf s core) 2 = p :: rest) (hbody : p.body = .msg h pay false) (hbad : p.bad = false) (hplain : Plain p)
    (hinc : incOk s (niOf s core) p.cid p.inc = true) (hhit : (inject s (dieOf core) p.cid 0).1 = false) (hgood : badHdr h pay.length = false)
    (hroom : Room s core p.slot h.queue pay.length a) :
    ∃ t : State, exec (.messageLand src core) s = .next t ∧ chanQ t src (niOf s core) 2 = rest ∧ Landed s t core p.slot h.queue a h pay ∧
      (∀ x : Act, (coreOf s core).act = some x → runPrio (coreOf s core) < h.prio → (coreOf t core).pend = true) ∧ t.mem = s.mem := by
  have hhit' : (inject (chanPop s src (niOf s core) 2) (dieOf core) p.cid 0).1 = false := 
    (inject_fst_congr (s := s) (t := chanPop s src (niOf s core) 2) p.cid 0 rfl rfl rfl rfl).trans hhit
  obtain ⟨u, hland, hlands⟩ := lands_landNow p.slot a h pay hhit'
  refine ⟨_, messageLand_head hq hinc, ?_⟩
  rw [msgAt_good hbody hgood ((landAt_room (s := chanPop s src (niOf s core) 2) hbody hbad hroom).trans hland)]
  have hl := hlands.noted (noted_markApplied hplain.1 hplain.2 u src (niOf s core))
  exact ⟨(hl.chans (by decide)).trans (by rw [chanQ_chanPop_same, hq]; rfl), hl.landed, hl.pend, hl.mem⟩

end

/-! #### OVERFLOW_PARK (05 R99) -/

/-- A resident's list in a die's store, empty where there is none. -/
def ovList (s : State) (die cid rank : Nat) : OvList := (ovOf s die cid rank).getD { cid := cid, rank := rank }

theorem ovList_key (s : State) (die cid rank : Nat) : (ovList s die cid rank).cid = cid ∧ (ovList s die cid rank).rank = rank := by
  unfold ovList
  cases ho : ovOf s die cid rank with
  | none => exact ⟨rfl, rfl⟩
  | some o => simpa using List.find?_some ho

/-- A list that holds something stands in the store once it is put there. -/
theorem ovOf_setOv {s : State} {die cid rank : Nat} {o : OvList} (hkey : o.cid = cid ∧ o.rank = rank) (hitems : o.items ≠ []) :
    ovOf (setOv s die o) die cid rank = some o := by
  obtain ⟨rfl, rfl⟩ := hkey
  have hrest : ((dieAt s die).ov.filter fun x => !decide (x.cid = o.cid ∧ x.rank = o.rank)).find? (fun x => decide (x.cid = o.cid ∧ x.rank = o.rank)) = none := by
    rw [List.find?_filter, List.find?_eq_none]
    intro x _
    by_cases hx : x.cid = o.cid ∧ x.rank = o.rank <;> simp [hx]
  simp only [ovOf, setOv, dieAt_updDie_same, hitems, false_and, if_false, List.find?_append, hrest, List.find?_cons, and_self, decide_true, Option.none_or]

/-- What a die's store holds for a resident hangs on its lists alone. -/
theorem ovOf_congr {s t : State} {die : Nat} (h : (dieAt t die).ov = (dieAt s die).ov) (cid rank : Nat) : ovOf t die cid rank = ovOf s die cid rank := by
  rw [ovOf, ovOf, h]

/-- The store after a packet has joined its resident's list. -/
def parked (s : State) (die cid rank : Nat) (p : Packet) : State :=
  updDie (setOv s die { ovList s die cid rank with items := (ovList s die cid rank).items ++ [(p, s.now)] }) die
    fun d => { d with ovUsed := mupd d.ovUsed (ctxPart (ctxOf s cid)) 0 (· + parkSize (payOf p.body).length) }

theorem ovPut_fits {s : State} {die cid : Nat} {p : Packet} (rank : Nat) (hfit : ovUsed s die cid + parkSize (payOf p.body).length ≤ ovShare s cid) :
    ovPut s die cid rank p false = some (parked s die cid rank p) := by
  unfold ovPut
  dsimp only
  rw [if_neg (Nat.not_lt.mpr hfit)]
  rfl

theorem ovPut_full {s : State} {die cid : Nat} {p : Packet} (rank : Nat) (hfull : ovShare s cid < ovUsed s die cid + parkSize (payOf p.body).length) :
    ovPut s die cid rank p false = none := if_pos hfull

theorem ovOf_parked (s : State) (die cid rank : Nat) (p : Packet) :
    ovOf (parked s die cid rank p) die cid rank = some { ovList s die cid rank with items := (ovList s die cid rank).items ++ [(p, s.now)] } := by
  refine (ovOf_congr ?_ cid rank).trans (ovOf_setOv (s := s) (die := die) (ovList_key s die cid rank) (by simp))
  exact dieAt_updDie_keeps Die.ov (g := fun d => { d with ovUsed := mupd d.ovUsed (ctxPart (ctxOf s cid)) 0 (· + parkSize (payOf p.body).length) }) (fun _ => rfl) ..

/-- The scheduler of a die hears of a resident's first message, once (05 R99). -/
def parkHeard (s : State) (die dst rank : Nat) (p : Packet) : State :=
  if (ovList s die p.cid rank).trapped || decide (p.cls = 3) then s
  else schedTrap (setOv s die { ovList s die p.cid rank with trapped := true }) die dst p.cid p.inc [wd p.cid, wd p.inc, wd rank, 3]

theorem mem_schedTrap (s : State) (die src cid inc : Nat) (pay : List Word) : (schedTrap s die src cid inc pay).mem = s.mem := by
  unfold schedTrap
  dsimp only
  rw [emit_only]
  rfl

theorem dies_schedTrap (s : State) (die src cid inc : Nat) (pay : List Word) : (schedTrap s die src cid inc pay).dies = s.dies := by
  unfold schedTrap
  dsimp only
  rw [emit_only]
  rfl

theorem mem_parkHeard (s : State) (die dst rank : Nat) (p : Packet) : (parkHeard s die dst rank p).mem = s.mem := by
  unfold parkHeard
  split
  · rfl
  · exact mem_schedTrap ..

theorem ovOf_parkHeard {s : State} {die rank : Nat} {p : Packet} {o : OvList} (dst : Nat) (hcls : p.cls = 2) (ho : ovOf s die p.cid rank = some o) (hitems : o.items ≠ []) :
    ovOf (parkHeard s die dst rank p) die p.cid rank = some { o with trapped := true } := by
  have hlist : ovList s die p.cid rank = o := by rw [ovList, ho]; rfl
  have hkey := ovList_key s die p.cid rank
  rw [hlist] at hkey
  unfold parkHeard
  rw [hlist, hcls]
  split
  next ht =>
    have ht' : o.trapped = true := by simpa using ht
    rw [ho, ← ht']
  · refine (ovOf_congr ?_ ..).trans (ovOf_setOv (s := s) (die := die) (o := { o with trapped := true }) hkey hitems)
    exact congrArg (fun ds : Vector Die 2 => (ds[die % 2]'(by omega)).ov) (dies_schedTrap ..)

theorem ovflSender_only (s : State) (p : Packet) : ovflSender s p = { s with cores := (ovflSender s p).cores } := by
  unfold ovflSender
  dsimp only
  split
  · split
    · exact oweTrap_only_cores ..
    · rfl
  · rfl

section
variable {s : State} {src die : Nat} {p : Packet} {rest : List Packet} {h : MsgHdr} {pay : List Byte} {bad : Bool}

theorem overflowPark_head (hq : chanQ s src (storeOf s die) 2 = p :: rest) (hcls : p.cls = 2) (hbody : p.body = .msg h pay bad)
    (hinc : incOk s (storeOf s die) p.cid p.inc = true) :
    (∀ u, ovPut (chanPop s src (storeOf s die) 2) die p.cid h.trank p false = some u →
      exec (.overflowPark src die) s = .next (markApplied (parkHeard u die (storeOf s die) h.trank p) src p.tok (storeOf s die))) ∧
    (ovPut (chanPop s src (storeOf s die) 2) die p.cid h.trank p false = none →
      exec (.overflowPark src die) s =
        .next (markApplied (ovflSender (failMsg (chanPop s src (storeOf s die) 2) 0x29 p.cid p.inc h.trank 0 h) p) src p.tok (storeOf s die))) := by
  have hexempt : incExempt p = false := by simp [incExempt, hcls]
  have hrank : packetRank p = h.trank := by simp [packetRank, hcls, hbody, hdrOf]
  have hhdr : hdrOf p.body = h := by rw [hbody]; rfl
  constructor
  · intro u hput
    show execOverflowPark src die s = _
    simp only [execOverflowPark, hq, List.isEmpty_cons, Bool.false_eq_true, if_false, hexempt, hinc, Bool.not_false, Bool.not_true, Bool.and_false, hrank, hput]
    rfl
  · intro hput
    show execOverflowPark src die s = _
    simp only [execOverflowPark, hq, List.isEmpty_cons, Bool.false_eq_true, if_false, hexempt, hinc, Bool.not_false, Bool.not_true, Bool.and_false, hrank, hput, hcls, hhdr,
      show ¬ (2 = 3) by decide]

/-- A message that fits parks behind what is there, and its resident's trap is raised. -/
theorem overflowPark_fits (hq : chanQ s src (storeOf s die) 2 = p :: rest) (hcls : p.cls = 2) (hplain : Plain p) (hbody : p.body = .msg h pay bad)
    (hinc : incOk s (storeOf s die) p.cid p.inc = true) (hfit : ovUsed s die p.cid + parkSize pay.length ≤ ovShare s p.cid) :
    ∃ (t : State) (o : OvList), exec (.overflowPark src die) s = .next t ∧ ovOf t die p.cid h.trank = some o ∧
      o.items = (ovList s die p.cid h.trank).items ++ [(p, s.now)] ∧ o.trapped = true ∧ t.mem = s.mem := by
  have hpay : payOf p.body = pay := by rw [hbody]; rfl
  have hput := ovPut_fits (s := chanPop s src (storeOf s die) 2) (p := p) h.trank (hpay ▸ hfit)
  generalize hu : parked (chanPop s src (storeOf s die) 2) die p.cid h.trank p = u at hput
  have hmem : u.mem = s.mem := by rw [← hu]; rfl
  have ho : ovOf u die p.cid h.trank = _ := hu ▸ ovOf_parked ..
  have hn := noted_markApplied hplain.1 hplain.2 (parkHeard u die (storeOf s die) h.trank p) src (storeOf s die)
  refine ⟨_, _, (overflowPark_head hq hcls hbody hinc).1 u hput, (ovOf_congr (hn.dies Die.ov (fun _ _ => rfl) die) ..).trans (ovOf_parkHeard _ hcls ho (by simp)), rfl, rfl, ?_⟩
  exact (congrArg State.mem hn.only).trans ((mem_parkHeard ..).trans hmem)

/-- One that does not fit is reported. -/
theorem overflowPark_full (hq : chanQ s src (storeOf s die) 2 = p :: rest) (hcls : p.cls = 2) (hplain : Plain p) (hbody : p.body = .msg h pay bad)
    (hinc : incOk s (storeOf s die) p.cid p.inc = true) (hfull : ovShare s p.cid < ovUsed s die p.cid + parkSize pay.length) :
    ∃ t : State, exec (.overflowPark src die) s = .next t ∧ (∃ r ∈ t.frecs, r.cause = 0x29 ∧ r.kind = 1 ∧ r.cid = p.cid ∧ r.rank = h.trank) ∧
      (dieAt t die).ov = (dieAt s die).ov ∧ t.mem = s.mem := by
  have hpay : payOf p.body = pay := by rw [hbody]; rfl
  have hput := ovPut_full (s := chanPop s src (storeOf s die) 2) (p := p) h.trank (hpay ▸ hfull)
  obtain ⟨r, hr, hcause, hkind, hcid, hrank, -⟩ := failMsg_record (chanPop s src (storeOf s die) 2) 0x29 p.cid p.inc h.trank 0 h
  have hmem := mem_failMsg (chanPop s src (storeOf s die) 2) 0x29 p.cid p.inc h.trank 0 h
  have hov := congrArg Die.ov (dieAt_failMsg (chanPop s src (storeOf s die) 2) 0x29 p.cid p.inc h.trank 0 h die)
  generalize hu : failMsg (chanPop s src (storeOf s die) 2) 0x29 p.cid p.inc h.trank 0 h = u at *
  have hn := noted_markApplied hplain.1 hplain.2 (ovflSender u p) src (storeOf s die)
  have honly := ovflSender_only u p
  refine ⟨_, hu ▸ (overflowPark_head hq hcls hbody hinc).2 hput, ⟨r, ?_, hcause, hkind, hcid, hrank⟩, ?_, ?_⟩
  · rw [hn.only, honly]
    exact hr
  · rw [hn.dies Die.ov (fun _ _ => rfl), honly]
    exact hov
  · rw [hn.only, honly]
    exact hmem

end

/-! #### OVERFLOW_DRAIN (05 R99, 07 R126) -/

/-- No list of a resident holds anything once an empty one is put there. -/
theorem items_ovOf_setOv {s : State} {die cid rank : Nat} {o x : OvList} (hkey : o.cid = cid ∧ o.rank = rank) (hitems : o.items = [])
    (hx : ovOf (setOv s die o) die cid rank = some x) : x.items = [] := by
  obtain ⟨rfl, rfl⟩ := hkey
  have hmem := List.mem_of_find?_eq_some hx
  have hfound := List.find?_some hx
  simp only [setOv, dieAt_updDie_same, hitems, true_and] at hmem
  have hrest : x ∉ (dieAt s die).ov.filter fun x => !decide (x.cid = o.cid ∧ x.rank = o.rank) := by
    intro hmem
    have hne := (List.mem_filter.mp hmem).2
    rw [hfound] at hne
    exact Bool.false_ne_true hne
  split at hmem
  · exact absurd hmem hrest
  · rcases List.mem_append.mp hmem with hmem | hmem
    · exact absurd hmem hrest
    · rw [List.mem_singleton.mp hmem, hitems]

/-- The package after a resident's only item has left its list. -/
def unparked (s : State) (die cid : Nat) (o : OvList) (p : Packet) : State := ovFree (setOv s die { o with items := [] }) die cid p

theorem inject_unparked (s : State) (die cid : Nat) (o : OvList) (p : Packet) (d c target : Nat) :
    (inject (unparked s die cid o p) d c target).1 = (inject s d c target).1 := by
  have hkeeps : ∀ {β : Type} (φ : Die → β), (∀ x l u, φ { x with ov := l, ovUsed := u } = φ x) → φ (dieAt (unparked s die cid o p) d) = φ (dieAt s d) := by
    intro β φ hφ
    refine (dieAt_updDie_keeps φ (fun x => hφ x x.ov _) ..).trans ?_
    exact dieAt_updDie_keeps φ (fun x => hφ x _ x.ovUsed) ..
  exact inject_fst_congr (s := s) (t := unparked s die cid o p) c target rfl rfl (hkeeps Die.einjctl fun _ _ _ => rfl) (hkeeps Die.einjseed fun _ _ _ => rfl)

theorem items_unparked {s : State} {die cid rank : Nat} {o x : OvList} {p : Packet} (ho : ovOf s die cid rank = some o)
    (hx : ovOf (unparked s die cid o p) die cid rank = some x) : x.items = [] := by
  have hkey : o.cid = cid ∧ o.rank = rank := by simpa using List.find?_some ho
  have hov : (dieAt (unparked s die cid o p) die).ov = (dieAt (setOv s die { o with items := [] }) die).ov :=
    dieAt_updDie_keeps Die.ov (g := fun d => { d with ovUsed := mupd d.ovUsed (ctxPart (ctxOf s cid)) 0 (· - parkSize (payOf p.body).length) }) (fun _ => rfl) ..
  exact items_ovOf_setOv (o := { o with items := [] }) hkey rfl ((ovOf_congr hov cid rank).symm.trans hx)

theorem nextDrain_msg {k : Core} {slot a w : Nat} {p : Packet} {h : MsgHdr} {pay : List Byte} {bad : Bool} (hcls : p.cls = 2) (hbody : p.body = .msg h pay bad)
    (hlen : (queueOf (slotOf k slot) h.queue).msgs.length < 256) (hplace : landPlace k slot pay.length = some a) :
    nextDrain k slot [(p, w)] = some ((p, w), []) := by
  simp only [nextDrain, hcls, if_true, hbody, hdrOf, payOf, hlen, hplace, decide_true, Option.isSome_some, Bool.and_self]

/-- The only message of a list lands where its resident is. -/
theorem overflowDrain_msg {s : State} {core die cid rank slot w a : Nat} {p : Packet} {o : OvList} {h : MsgHdr} {pay : List Byte} {r : Resident}
    (ho : ovOf s die cid rank = some o) (hwhere : whereIs s cid rank = some (core, slot)) (hres : (slotOf (coreOf s core) slot).resident = some r)
    (hitems : o.items = [(p, w)]) (hcls : p.cls = 2) (hbody : p.body = .msg h pay false) (hbad : p.bad = false)
    (hinc : incOk s (storeOf s die) p.cid p.inc = true) (hhit : (inject s (dieOf core) p.cid 0).1 = false)
    (hlen : (queueOf (slotOf (coreOf s core) slot) h.queue).msgs.length < 256) (hplace : landPlace (coreOf s core) slot pay.length = some a) :
    ∃ t : State, exec (.overflowDrain die cid rank) s = .next t ∧ Landed s t core slot h.queue a h pay ∧
      (∀ x : OvList, ovOf t die cid rank = some x → x.items = []) ∧ t.mem = s.mem := by
  obtain ⟨t, hland, hlands⟩ := lands_landNow slot a h pay ((inject_unparked s die cid o p (dieOf core) p.cid 0).trans hhit)
  have hexempt : incExempt p = false := by simp [incExempt, hcls]
  have hafter : afterDrained s.now p [(p, w)] [] = [] := by simp [afterDrained, hbody]
  have hmsg : drainMsg (unparked s die cid o p) core slot r p = t := by
    have hplace' : landPlace (coreOf (unparked s die cid o p) core) slot pay.length = some a := hplace
    simp only [drainMsg, hbody, hdrOf, hplace', hbad, Bool.or_self, hland, sealLanded, Bool.false_and, Bool.false_eq_true, if_false]
  refine ⟨t, ?_, landed_congr (s' := unparked s die cid o p) rfl hlands.landed, fun x hx => items_unparked ho ((ovOf_congr (hlands.ovs die) cid rank).symm.trans hx), hlands.mem⟩
  show execOverflowDrain die cid rank s = _
  simp only [execOverflowDrain, ho, hwhere, hitems, nextDrain_msg hcls hbody hlen hplace, hres, hafter, hexempt, hinc, Bool.not_false, Bool.not_true, Bool.and_false,
    Bool.false_eq_true, if_false, hcls, show ¬ (2 = 3) by decide]
  exact congrArg Host.Outcome.next hmsg

theorem overflowDrain_none {s : State} {die cid rank : Nat} (ho : ovOf s die cid rank = none) : exec (.overflowDrain die cid rank) s = .next s := by
  show execOverflowDrain die cid rank s = _
  simp only [execOverflowDrain, ho]

/-! #### Ranks that an NI forgets (05 R96 to R98) -/

section
variable {s : State} {core cid rank : Nat}

theorem rankInvalidate_found {o : Op} (ho : s.ops.find? (fun o => decide (o.kind = 3 ∧ o.cid = cid ∧ o.arg = rank ∧ core ∈ o.todo)) = some o)
    (htransit : (coreOf s core).transit = []) :
    ∃ t : State, exec (.rankInvalidate core cid rank) s = .next t ∧ { o with todo := o.todo.erase core } ∈ t.ops ∧
      (coreOf t core).invq = (coreOf s core).invq ++ [(cid, rank)] ∧
      (∀ x, x ∈ (coreOf t core).rcache ↔ x ∈ (coreOf s core).rcache ∧ ¬ (x.cid = cid ∧ x.rank = rank)) ∧ (∀ c, c ≠ core → coreOf t c = coreOf s c) ∧ t.mem = s.mem := by
  have hexec : exec (.rankInvalidate core cid rank) s = .next (updCore (updOp s o.tok fun x => { x with todo := x.todo.erase core }) core fun k =>
      { k with rcache := k.rcache.filter fun e => !decide (e.cid = cid ∧ e.rank = rank), transit := [], invq := k.invq ++ [(cid, rank)] }) := by
    show execRankInvalidate core cid rank s = _
    unfold execRankInvalidate
    rw [ho]
    dsimp only
    rw [show (coreOf { s with ops := s.ops.map fun x => if x.tok = o.tok then { x with todo := x.todo.erase core } else x } core).transit = [] from htransit]
    rfl
  refine ⟨_, hexec, mem_updOp (List.mem_of_find?_eq_some ho) fun x => { x with todo := x.todo.erase core }, ?_, fun x => ?_, fun c hc => ?_, rfl⟩
  · rw [coreOf_updCore_same]
    rfl
  · rw [coreOf_updCore_same, List.mem_filter, coreOf_updOp, Bool.not_eq_true', decide_eq_false_iff_not]
  · rw [coreOf_updCore_other _ _ _ _ hc]
    rfl

/-- The acknowledgement waits for what the NI does not owe, for messages of agents, and for an older effect that is on its way elsewhere. -/
theorem rankInvalidateAck_waits (h : (cid, rank) ∉ (coreOf s core).invq ∨ agentMsg s cid rank = true ∨
      ∃ u ∈ (coreOf s core).unack, (u.rank = some (cid, rank) ∨ (u.own.1 = cid ∧ rank ∈ u.ranks)) ∧ u.applied = false ∧ u.target ≠ 0 ∧
        ¬ (reState (rankEntry s cid rank) = 1 ∧ u.target = reAgent s (rankEntry s cid rank))) :
    exec (.rankInvalidateAck core cid rank) s = .next s := by
  show execRankInvalidateAck core cid rank s = _
  unfold execRankInvalidateAck
  dsimp only
  rw [if_pos]
  rw [Bool.or_eq_true, Bool.or_eq_true]
  obtain h | h | ⟨u, hu, hrank, happlied, htarget, hother⟩ := h
  · exact .inl (.inl (by simp [h]))
  · exact .inr h
  · refine .inl (.inr (List.any_eq_true.mpr ⟨u, hu, ?_⟩))
    rw [Bool.and_eq_true]
    exact ⟨decide_eq_true ⟨hrank, happlied, htarget⟩, by rw [decide_eq_false hother]; rfl⟩

/-- The state in which a rank's operation has the acknowledgement of an NI. -/
def rankAcked (s : State) (core cid rank : Nat) (o : Op) : State :=
  updOp (setCore s core { coreOf s core with invq := (coreOf s core).invq.erase (cid, rank) }) o.tok fun x => { x with left := x.left.erase core }

theorem rankInvalidateAck_acks {o : Op} (howed : (cid, rank) ∈ (coreOf s core).invq) (hagents : agentMsg s cid rank = false)
    (hold : ∀ u ∈ (coreOf s core).unack, u.rank ≠ some (cid, rank) ∧ ¬ (u.own.1 = cid ∧ rank ∈ u.ranks))
    (ho : s.ops.find? (fun o => decide (o.kind = 3 ∧ o.cid = cid ∧ o.arg = rank)) = some o) :
    exec (.rankInvalidateAck core cid rank) s = .next (opSettle (rankAcked s core cid rank o) o.tok) := by
  have hnone : ((coreOf s core).unack.any fun u => decide ((u.rank = some (cid, rank) ∨ (u.own.1 = cid ∧ rank ∈ u.ranks)) ∧ u.applied = false ∧ u.target ≠ 0) &&
      !decide (reState (rankEntry s cid rank) = 1 ∧ u.target = reAgent s (rankEntry s cid rank))) = false := by
    refine List.any_eq_false.mpr fun u hu hwaits => ?_
    obtain ⟨hrank, hranks⟩ := hold u hu
    obtain ⟨hr | hr, -⟩ := of_decide_eq_true (Bool.and_eq_true_iff.mp hwaits).1
    · exact hrank hr
    · exact hranks hr
  show execRankInvalidateAck core cid rank s = _
  unfold execRankInvalidateAck
  dsimp only
  rw [hnone, hagents, if_neg (by simp [howed]), show (setCore s core { coreOf s core with invq := (coreOf s core).invq.erase (cid, rank) }).ops = s.ops from rfl, ho]
  rfl

/-- With its last acknowledgement a rank's operation ends. -/
theorem opSettle_rank {o : Op} {tok : Nat} (h : opOf s tok = some o) (hleft : o.left = []) (hkind : o.kind = 3) : opSettle s tok = opDone s o 0 := by
  simp [opSettle, h, hleft, hkind]

/-- The end of an operation changes nothing of a core but what it waits for. -/
theorem opDone_keeps (s : State) (o : Op) (status : Nat) :
    (opDone s o status).mem = s.mem ∧ ∀ {β : Type} (φ : Core → β), (∀ k w, φ { k with wait := w } = φ k) → ∀ c, φ (coreOf (opDone s o status) c) = φ (coreOf s c) := by
  unfold opDone
  split
  · rw [askedBack, emit_only]
    exact ⟨rfl, fun _ _ _ => rfl⟩
  · refine ⟨rfl, fun φ hφ c => ?_⟩
    rw [coreOf_updCore]
    split
    · split
      · exact hφ ..
      · rfl
    · rfl
  · rw [emit_only]
    exact ⟨rfl, fun _ _ _ => rfl⟩

/-- What its last acknowledgement ends, and what stands with others missing. -/
theorem rankInvalidateAck_settles {o : Op} (howed : (cid, rank) ∈ (coreOf s core).invq) (hagents : agentMsg s cid rank = false)
    (hold : ∀ u ∈ (coreOf s core).unack, u.rank ≠ some (cid, rank) ∧ ¬ (u.own.1 = cid ∧ rank ∈ u.ranks))
    (ho : s.ops.find? (fun o => decide (o.kind = 3 ∧ o.cid = cid ∧ o.arg = rank)) = some o) (htok : opOf s o.tok = some o) :
    ∃ t : State, exec (.rankInvalidateAck core cid rank) s = .next t ∧ (coreOf t core).invq = (coreOf s core).invq.erase (cid, rank) ∧ t.mem = s.mem ∧
      (o.left.erase core ≠ [] → { o with left := o.left.erase core } ∈ t.ops) ∧
      (o.left = [core] → o.org = none → o.asked = none → (coreOf s o.core).wait = .sup o.tok →
        (coreOf t o.core).wait = .supDone 0 ∧ ∀ x ∈ t.ops, x.tok ≠ o.tok) := by
  obtain ⟨hkind, -, -⟩ : o.kind = 3 ∧ o.cid = cid ∧ o.arg = rank := by simpa using List.find?_some ho
  have hop : opOf (rankAcked s core cid rank o) o.tok = some { o with left := o.left.erase core } :=
    opOf_updOp (s := setCore s core _) (f := fun x => { x with left := x.left.erase core }) htok fun _ => rfl
  have hinvq : (coreOf (rankAcked s core cid rank o) core).invq = (coreOf s core).invq.erase (cid, rank) := by
    rw [rankAcked, coreOf_updOp, coreOf_setCore_same]
  have hwait : ∀ c, (coreOf (rankAcked s core cid rank o) c).wait = (coreOf s c).wait := by
    intro c
    rw [rankAcked, coreOf_updOp]
    by_cases hc : c = core
    · rw [hc, coreOf_setCore_same]
    · rw [coreOf_setCore_other _ _ _ _ hc]
  refine ⟨_, rankInvalidateAck_acks howed hagents hold ho, ?_⟩
  by_cases hleft : o.left.erase core = []
  · rw [opSettle_rank hop hleft hkind]
    obtain ⟨hmem, hkeeps⟩ := opDone_keeps (rankAcked s core cid rank o) { o with left := o.left.erase core } 0
    refine ⟨(hkeeps Core.invq (fun _ _ => rfl) core).trans hinvq, hmem, fun hne => absurd hleft hne, fun _ horg hasked hsup => ⟨?_, ?_⟩⟩
    · exact opDone_status (o := { o with left := o.left.erase core }) 0 horg hasked ((hwait o.core).trans hsup)
    · exact opDone_ops (o := { o with left := o.left.erase core }) 0 horg hasked
  · rw [opSettle_waits hop hleft]
    refine ⟨hinvq, rfl, fun _ => List.mem_of_find?_eq_some hop, fun hone => absurd (by simp [hone]) hleft⟩

end

/-- Settles O30: what the steps of a message that lands, parks and drains, and of a rank's invalidation, keep beside what they do. -/
theorem messageArrivals : Obligations.MessageArrivals := by
  unfold Obligations.MessageArrivals
  intro s src core die cid rank p rest
  refine ⟨fun h pay a hq hbody hbad hplain hinc hhit => ⟨?_, ?_, ?_⟩, fun h pay bad hq hcls hplain hbody hinc => ⟨?_, ?_⟩, ?_, ?_, ?_, ?_, ?_, ?_⟩
  · exact fun hmal => messageLand_bad hq hbody hplain hinc hmal
  · exact fun hgood hslot => messageLand_empty hq hbody hplain hinc hgood hslot
  · exact fun hgood hroom => messageLand_room hq hbody hbad hplain hinc hhit hgood hroom
  · exact fun hfit => overflowPark_fits hq hcls hplain hbody hinc hfit
  · exact fun hfull => overflowPark_full hq hcls hplain hbody hinc hfull
  · exact fun o slot w a h pay r ho hwhere hres hitems hcls hbody hbad hinc hhit hlen hplace =>
      overflowDrain_msg ho hwhere hres hitems hcls hbody hbad hinc hhit hlen hplace
  · exact overflowDrain_none
  · exact fun o ho htransit => rankInvalidate_found ho htransit
  · exact fun h => rankInvalidateAck_waits (h.imp_right .inl)
  · exact fun u hu hrank happlied htarget hother => rankInvalidateAck_waits (.inr (.inr ⟨u, hu, hrank, happlied, htarget, hother⟩))
  · exact fun o howed hagents hold ho htok => rankInvalidateAck_settles howed hagents hold ho htok

end Sys2Proof.Machine
end

section
/-! ### What a step must keep: canonical byte memories, and x0 stored as zero (07 R122, 12 R221) -/

namespace Sys2Proof.Machine

/-! #### Results of the model's functions that hold a safe state -/

/-- The next state of an outcome, where it has one, is safe. -/
def NextOk : Out → Prop
  | .next t => t.ok
  | _ => True

/-- The state of an answer, where there is one, is safe. -/
def SomeOk : Option State → Prop
  | some t => t.ok
  | none => True

/-- So is the one beside a value. -/
def SomeSndOk {α : Type} : Option (α × State) → Prop
  | some x => x.2.ok
  | none => True

/-- So is the one before a value. -/
def SomeFstOk {α : Type} : Option (State × α) → Prop
  | some x => x.1.ok
  | none => True

theorem NextOk.get {o : Out} {t : State} (h : NextOk o) (e : o = .next t) : t.ok := by
  subst e
  exact h

theorem SomeOk.get {o : Option State} {t : State} (h : SomeOk o) (e : o = some t) : t.ok := by
  subst e
  exact h

theorem SomeSndOk.get {α : Type} {o : Option (α × State)} {a : α} {t : State} (h : SomeSndOk o) (e : o = some (a, t)) : t.ok := by
  subst e
  exact h

theorem SomeFstOk.get {α : Type} {o : Option (State × α)} {a : α} {t : State} (h : SomeFstOk o) (e : o = some (t, a)) : t.ok := by
  subst e
  exact h

theorem ok_snd {α : Type} {p : α × State} {a : α} {t : State} (h : p.2.ok) (e : p = (a, t)) : t.ok := by
  subst e
  exact h

theorem ok_fst {α : Type} {p : State × α} {a : α} {t : State} (h : p.1.ok) (e : p = (t, a)) : t.ok := by
  subst e
  exact h

theorem core_snd {α : Type} {p : α × Core} {a : α} {k : Core} (h : p.2.ok) (e : p = (a, k)) : k.ok := by
  subst e
  exact h

theorem core_fst {α : Type} {p : Core × α} {a : α} {k : Core} (h : p.1.ok) (e : p = (k, a)) : k.ok := by
  subst e
  exact h

/-! What the model's steps come to where a state is only one of the outcomes: the state of each, where there is one, is safe. -/

structure EngX.Ok (r : EngX) : Prop where
  stall : ∀ {s : State}, r = .stall s → s.ok

theorem EngX.stall_ok {s : State} (h : s.ok) : (EngX.stall s).Ok := ⟨fun e => by cases e; exact h⟩

theorem EngX.ok_ok {pa : Nat} {unc : Bool} : (EngX.ok pa unc).Ok := ⟨nofun⟩

structure PairR.Ok (r : PairR) : Prop where
  go : ∀ {s : State}, r = .go s → s.ok
  ended : ∀ {s : State}, r = .ended s → s.ok

theorem PairR.go_ok {s : State} (h : s.ok) : (PairR.go s).Ok := ⟨fun e => by cases e; exact h, nofun⟩

theorem PairR.ended_ok {s : State} (h : s.ok) : (PairR.ended s).Ok := ⟨nofun, fun e => by cases e; exact h⟩

theorem PairR.waits_ok : (PairR.waits).Ok := ⟨nofun, nofun⟩

structure SupR.Ok (r : SupR) : Prop where
  now : ∀ {s : State} {n : Nat}, r = .now s n → s.ok
  later : ∀ {s : State} {n : Nat}, r = .later s n → s.ok
  again : ∀ {s : State}, r = .again s → s.ok

theorem SupR.now_ok {s : State} {n : Nat} (h : s.ok) : (SupR.now s n).Ok := ⟨fun e => by cases e; exact h, nofun, nofun⟩

theorem SupR.later_ok {s : State} {n : Nat} (h : s.ok) : (SupR.later s n).Ok := ⟨nofun, fun e => by cases e; exact h, nofun⟩

theorem SupR.again_ok {s : State} (h : s.ok) : (SupR.again s).Ok := ⟨nofun, nofun, fun e => by cases e; exact h⟩

structure AskR.Ok (r : AskR) : Prop where
  asked : ∀ {s : State}, r = .asked s → s.ok
  stall : ∀ {s : State}, r = .stall s → s.ok

theorem AskR.asked_ok {s : State} (h : s.ok) : (AskR.asked s).Ok := ⟨fun e => by cases e; exact h, nofun⟩

theorem AskR.stall_ok {s : State} (h : s.ok) : (AskR.stall s).Ok := ⟨nofun, fun e => by cases e; exact h⟩

theorem AskR.refused_ok : (AskR.refused).Ok := ⟨nofun, nofun⟩

theorem AskR.waits_ok : (AskR.waits).Ok := ⟨nofun, nofun⟩

theorem AskR.fail_ok : (AskR.fail).Ok := ⟨nofun, nofun⟩

structure Got.Ok (r : Got) : Prop where
  all : ∀ {s : State} {ws : List (Word × Bool)}, r = .all s ws → s.ok
  some_ : ∀ {s : State}, r = .some_ s → s.ok

theorem Got.all_ok {s : State} {ws : List (Word × Bool)} (h : s.ok) : (Got.all s ws).Ok := ⟨fun e => by cases e; exact h, nofun⟩

theorem Got.some_ok {s : State} (h : s.ok) : (Got.some_ s).Ok := ⟨nofun, fun e => by cases e; exact h⟩

theorem Got.refused_ok : (Got.refused).Ok := ⟨nofun, nofun⟩

theorem Got.fail_ok : (Got.fail).Ok := ⟨nofun, nofun⟩

structure Fetch.Ok (r : Fetch) : Prop where
  ok : ∀ {s : State} {x : BlockOps} {b : Bool}, r = .ok s x b → s.ok
  more : ∀ {s : State}, r = .more s → s.ok

theorem Fetch.ok_ok {s : State} {x : BlockOps} {b : Bool} (h : s.ok) : (Fetch.ok s x b).Ok := ⟨fun e => by cases e; exact h, nofun⟩

theorem Fetch.more_ok {s : State} (h : s.ok) : (Fetch.more s).Ok := ⟨nofun, fun e => by cases e; exact h⟩

theorem Fetch.fail_ok : (Fetch.fail).Ok := ⟨nofun, nofun⟩

structure Issue.Ok (r : Issue) : Prop where
  moved : ∀ {s : State}, r = .moved s → s.ok

theorem Issue.moved_ok {s : State} (h : s.ok) : (Issue.moved s).Ok := ⟨fun e => by cases e; exact h⟩

/-- Every other outcome of the issue point holds no state. -/
theorem Issue.ok_of_ne {r : Issue} (h : ∀ s, r ≠ .moved s) : r.Ok := ⟨fun e => absurd e (h _)⟩

/-- A property of both branches is one of a choice. -/
theorem ite_pred {α : Sort _} {φ : α → Prop} {c : Prop} [Decidable c] {a b : α} (ha : φ a) (hb : φ b) : φ (if c then a else b) := by
  split
  · exact ha
  · exact hb

/-- What every turn keeps, a loop keeps. -/
theorem foldl_pred {σ α : Type} {φ : σ → Prop} {f : σ → α → σ} (hf : ∀ {s a}, φ s → φ (f s a)) {s : σ} (h : φ s) (l : List α) : φ (l.foldl f s) := by
  induction l generalizing s with
  | nil => exact h
  | cons a l ih => exact ih (hf h)

section
variable {c : Prop} [Decidable c]

theorem ok_ite {a b : State} (ha : a.ok) (hb : b.ok) : (if c then a else b).ok := ite_pred (φ := fun t : State => t.ok) ha hb

theorem core_ite {a b : Core} (ha : a.ok) (hb : b.ok) : (if c then a else b).ok := ite_pred (φ := fun t : Core => t.ok) ha hb

theorem next_ite {a b : Out} (ha : NextOk a) (hb : NextOk b) : NextOk (if c then a else b) := ite_pred ha hb

theorem some_ite {a b : Option State} (ha : SomeOk a) (hb : SomeOk b) : SomeOk (if c then a else b) := ite_pred ha hb

theorem snd_ite {α : Type} {a b : α × State} (ha : a.2.ok) (hb : b.2.ok) : (if c then a else b).2.ok := ite_pred (φ := fun p : α × State => p.2.ok) ha hb

theorem someSnd_ite {α : Type} {a b : Option (α × State)} (ha : SomeSndOk a) (hb : SomeSndOk b) : SomeSndOk (if c then a else b) := ite_pred ha hb

theorem PairR.ite {a b : PairR} (ha : a.Ok) (hb : b.Ok) : (if c then a else b).Ok := ite_pred ha hb

theorem SupR.ite {a b : SupR} (ha : a.Ok) (hb : b.Ok) : (if c then a else b).Ok := ite_pred ha hb

theorem AskR.ite {a b : AskR} (ha : a.Ok) (hb : b.Ok) : (if c then a else b).Ok := ite_pred ha hb

theorem Got.ite {a b : Got} (ha : a.Ok) (hb : b.Ok) : (if c then a else b).Ok := ite_pred ha hb

theorem Fetch.ite {a b : Fetch} (ha : a.Ok) (hb : b.Ok) : (if c then a else b).Ok := ite_pred ha hb

theorem Issue.ite {a b : Issue} (ha : a.Ok) (hb : b.Ok) : (if c then a else b).Ok := ite_pred ha hb

theorem SomeOk.map {o : Option State} {f : State → State} (h : SomeOk o) (hf : ∀ {t : State}, t.ok → (f t).ok) : SomeOk (o.map f) := by
  cases o with
  | none => trivial
  | some t => exact hf h

theorem SomeOk.mapSnd {α : Type} {o : Option State} {f : State → α × State} (h : SomeOk o) (hf : ∀ {t : State}, t.ok → (f t).2.ok) : SomeSndOk (o.map f) := by
  cases o with
  | none => trivial
  | some t => exact hf h

end

theorem foldl_ok {α : Type} {f : State → α → State} {s : State} {l : List α} (hf : ∀ {s : State} {a : α}, s.ok → (f s a).ok) (h : s.ok) : (l.foldl f s).ok :=
  foldl_pred (φ := fun s : State => s.ok) hf h l

/-! #### Byte memories, registers and the list of cores -/

theorem core_ok_iff (k : Core) : k.ok ↔ Memory.wf k.lm = true ∧ k.x[0] = 0 := by
  simp [Core.ok]

theorem ok_iff (s : State) : s.ok ↔ Memory.wf s.mem = true ∧ ∀ p ∈ s.cores, p.2.ok := by
  simp [State.ok]

theorem emptyCore_ok : ({} : Core).ok := rfl

theorem coreOf_ok {s : State} {c : Nat} (h : s.ok) : (coreOf s c).ok := by
  unfold coreOf mgetD
  cases hc : mget s.cores c with
  | none => exact emptyCore_ok
  | some k => exact ((ok_iff s).mp h).2 _ (mem_of_mget hc)

theorem setCore_ok {s : State} {c : Nat} {k : Core} (h : s.ok) (hk : k.ok) : (setCore s c k).ok := by
  obtain ⟨hmem, hcores⟩ := (ok_iff s).mp h
  refine (ok_iff _).mpr ⟨hmem, fun p hp => ?_⟩
  rcases mem_mput hp with rfl | hp
  · exact hk
  · exact hcores p hp

/-- Every core changed in a way that keeps it safe. -/
theorem mapCores_ok {s : State} {f : Nat → Core → Core} (h : s.ok) (hf : ∀ {c} {k : Core}, k.ok → (f c k).ok) :
    ({ s with cores := s.cores.map fun p => (p.1, f p.1 p.2) } : State).ok := by
  obtain ⟨hmem, hcores⟩ := (ok_iff s).mp h
  refine (ok_iff _).mpr ⟨hmem, fun p hp => ?_⟩
  obtain ⟨q, hq, rfl⟩ := List.mem_map.mp hp
  exact hf (hcores q hq)

theorem setMem_ok {s : State} {m : Memory} (h : s.ok) (hm : Memory.wf m = true) : ({ s with mem := m } : State).ok :=
  (ok_iff _).mpr ⟨hm, ((ok_iff s).mp h).2⟩

theorem setLm_ok {k : Core} {m : Memory} (hk : k.ok) (hm : Memory.wf m = true) : ({ k with lm := m } : Core).ok :=
  (core_ok_iff _).mpr ⟨hm, ((core_ok_iff k).mp hk).2⟩

theorem setX_ok {k : Core} {x : Vector Word 32} (hk : k.ok) (hx : x[0] = 0) : ({ k with x := x } : Core).ok :=
  (core_ok_iff _).mpr ⟨((core_ok_iff k).mp hk).1, hx⟩

theorem mem_wf {s : State} (h : s.ok) : Memory.wf s.mem = true := ((ok_iff s).mp h).1

theorem lm_wf {k : Core} (hk : k.ok) : Memory.wf k.lm = true := ((core_ok_iff k).mp hk).1

theorem cleanReg_ok {k : Core} {n : Nat} (hk : k.ok) : (cleanReg k n).ok := hk

/-- x0 takes no write. -/
theorem wx_ok {k : Core} {r : Reg} {v : Word} (hk : k.ok) : (wx k r v).ok := by
  by_cases hr : r = 0
  · rw [hr, wx_zero]
    exact hk
  · have hn : r.toNat ≠ 0 := fun h => hr (BitVec.eq_of_toNat_eq h)
    rw [wx_of_ne _ _ _ hr]
    refine cleanReg_ok (setX_ok hk ?_)
    rw [Vector.getElem_set_ne _ _ hn]
    exact ((core_ok_iff k).mp hk).2

theorem entryRegs_zero (x1 x2 x3 x4 x5 x6 x7 x8 : Word) : (entryRegs x1 x2 x3 x4 x5 x6 x7 x8)[0] = 0 := by
  simp [entryRegs]

/-! Other parts of the package, at any value: so no proof compares the values. -/

theorem setLag_ok {s : State} {m : SMap Nat} (h : s.ok) : ({ s with incLag := m } : State).ok := h

theorem setOps_ok {s : State} {l : List Op} {n : Nat} (h : s.ok) : ({ s with ops := l, opNext := n } : State).ok := h

theorem updCore_ok {s : State} {c : Nat} {f : Core → Core} (h : s.ok) (hf : ∀ {x0 : Core}, x0.ok → (f x0).ok) : (updCore s c f).ok :=
  setCore_ok h (hf (coreOf_ok h))

theorem cc_ok {s : State} (h : s.ok) : (cc s).ok :=
  coreOf_ok h

theorem setCC_ok {s : State} {k : Core} (h : s.ok) (hk : k.ok) : (setCC s k).ok :=
  setCore_ok h hk

theorem wv_ok {k : Core} {r : Reg} {v : VWord} (hk : k.ok) : (wv k r v).ok :=
  cleanReg_ok hk

theorem wk_ok {k : Core} {r : BitVec 3} {v : KWord} (hk : k.ok) : (wk k r v).ok :=
  cleanReg_ok hk

theorem setQreg_ok {k : Core} {n : Nat} {l : List Word} (hk : k.ok) : (setQreg k n l).ok :=
  hk

theorem popQ_ok {k : Core} {n : Nat} (hk : k.ok) : (popQ k n).ok :=
  hk

theorem setSlot_ok {k : Core} {n : Nat} {t : Slot} (hk : k.ok) : (setSlot k n t).ok :=
  hk

theorem updSlot_ok {k : Core} {n : Nat} {f : Slot → Slot} (hk : k.ok) : (updSlot k n f).ok :=
  setSlot_ok hk

theorem setTile_ok {k : Core} {n : Nat} {z : Tile} (hk : k.ok) : (setTile k n z).ok :=
  hk

theorem freshTok_ok {k : Core} (hk : k.ok) : (freshTok k).2.ok :=
  hk

theorem setDie_ok {s : State} {d : Nat} {x : Die} (h : s.ok) : (setDie s d x).ok :=
  h

theorem updDie_ok {s : State} {d : Nat} {f : Die → Die} (h : s.ok) : (updDie s d f).ok :=
  setDie_ok h

theorem count_ok {s : State} {d n : Nat} (h : s.ok) : (count s d n).ok :=
  updDie_ok h

theorem drawFree_ok {s : State} (h : s.ok) : (drawFree s).2.ok :=
  h

theorem updCtx_ok {s : State} {cid : Nat} {f : Ctx → Ctx} (h : s.ok) : (updCtx s cid f).ok :=
  h

theorem updPort_ok {s : State} {k : Nat} {f : Port → Port} (h : s.ok) : (updPort s k f).ok :=
  h

theorem setChan_ok {s : State} {src dst cls : Nat} {q : List Packet} (h : s.ok) : (setChan s src dst cls q).ok :=
  h

theorem chanPush_ok {s : State} {p : Packet} (h : s.ok) : (chanPush s p).ok :=
  setChan_ok h

theorem chanPop_ok {s : State} {src dst cls : Nat} (h : s.ok) : (chanPop s src dst cls).ok :=
  setChan_ok h

theorem e2eNumber_ok {s : State} {p : Packet} (h : s.ok) : (e2eNumber s p).ok :=
  ok_ite h h

theorem e2eSend_ok {s : State} {p : Packet} (h : s.ok) : (e2eSend s p).ok :=
  ok_ite (e2eNumber_ok h) h

theorem e2eDrain_ok {key n : Nat} {s : State} (h : s.ok) : (e2eDrain key n s).ok := by
  induction n generalizing s with
  | zero => exact h
  | succ n ih =>
    unfold e2eDrain
    extract_lets e
    split
    · exact ok_ite (ih (e2eNumber_ok h)) h
    · exact h

theorem emit_ok {s : State} {p : Packet} (h : s.ok) : (emit s p).ok :=
  ok_ite (chanPush_ok h) (e2eSend_ok h)

theorem resolve_ok {s : State} {c cid rank : Nat} (h : s.ok) : (resolve s c cid rank).2.ok := by
  unfold resolve
  extract_lets -underBinder -merge
  split
  · exact h
  · exact setCore_ok h (coreOf_ok h)

theorem mgmtTo_ok {s : State} {chip cid op : Nat} {body : Body} (h : s.ok) : (mgmtTo s chip cid op body).ok :=
  emit_ok h

theorem updKernel_ok {s : State} {kid : Nat} {f : Kernel → Kernel} (h : s.ok) : (updKernel s kid f).ok :=
  h

theorem report_ok {s : State} {kid : Nat} {delta : Int} {ackTo : Option Nat} (h : s.ok) : (report s kid delta ackTo).ok :=
  ok_ite h h

theorem failRec_ok {s : State} {r : FailRec} (h : s.ok) : (failRec s r).ok :=
  h

theorem freshMsg_ok {s : State} {cid : Nat} (h : s.ok) : (freshMsg s cid).2.ok :=
  updCtx_ok h

theorem farWake_ok {s : State} {p : Packet} {tok reason : Nat} (h : s.ok) : (farWake s p tok reason).ok :=
  emit_ok h

theorem wakeCore_ok {s : State} {c reason : Nat} (h : s.ok) : (wakeCore s c reason).ok := by
  unfold wakeCore
  extract_lets -underBinder -merge mine1
  split
  · exact foldl_ok (fun h1 => by
      split
      · exact farWake_ok h1
      · exact h1) h
  · unfold mine1
    split
    · exact setCore_ok h (coreOf_ok h)
    · exact h
    · exact setCore_ok h (coreOf_ok h)

theorem wakeAll_ok {s : State} {lm : Bool} {home a n reason : Nat} (h : s.ok) : (wakeAll s lm home a n reason).ok :=
  foldl_ok (fun h1 => wakeCore_ok h1) h

theorem lmWrite_ok {s : State} {c a : Nat} {bs : List Byte} (h : s.ok) : (lmWrite s c a bs).ok :=
  wakeAll_ok (setCore_ok h (setLm_ok (coreOf_ok h) (wrBytes_wf _ _ _ (lm_wf (coreOf_ok h)))))

theorem feSet_ok {s : State} {c a : Nat} {full : Bool} (h : s.ok) : (feSet s c a full).ok :=
  ok_ite (setCore_ok h (coreOf_ok h)) (wakeAll_ok (setCore_ok h (coreOf_ok h)))

theorem feFill_ok {s : State} {c a : Nat} (h : s.ok) : (feFill s c a).ok :=
  ok_ite (setCore_ok h (coreOf_ok h)) (wakeAll_ok (setCore_ok h (coreOf_ok h)))

theorem lmWriteFull_ok {s : State} {c a : Nat} {bs : List Byte} {full : Bool} (h : s.ok) : (lmWriteFull s c a bs full).ok :=
  lmWrite_ok (ok_ite (foldl_ok (fun h1 => feFill_ok h1) h) h)

theorem lmPoison_ok {s : State} {c a n : Nat} (h : s.ok) : (lmPoison s c a n).ok :=
  updCore_ok h (fun h1 => h1)

theorem inject_ok {s : State} {die cid target : Nat} (h : s.ok) : (inject s die cid target).2.ok :=
  snd_ite (setDie_ok h) h

theorem memWrite_ok {s : State} {pa : Nat} {bs : List Byte} (h : s.ok) : (memWrite s pa bs).ok :=
  wakeAll_ok (setMem_ok h (wrBytes_wf _ _ _ (mem_wf h)))

theorem memPoisonAdd_ok {s : State} {pa n : Nat} (h : s.ok) : (memPoisonAdd s pa n).ok :=
  h

theorem evict_ok {s : State} {pa : Nat} (h : s.ok) : (evict s pa).ok :=
  ok_ite (wakeAll_ok h) h

theorem fillLine_ok {s : State} {pa : Nat} (h : s.ok) : (fillLine s pa).ok := by
  unfold fillLine
  split
  · exact h
  · extract_lets -underBinder -merge _ s1
    have hs1 : s1.ok := by
      unfold s1
      split
      · exact h
      · split
        · exact evict_ok h
        · exact h
    exact ok_ite (memPoisonAdd_ok hs1) hs1

theorem touchLines_ok {s : State} {pa n : Nat} {unc : Bool} (h : s.ok) : (touchLines s pa n unc).ok :=
  ok_ite h (foldl_ok (fun h1 => ok_ite (evict_ok h1) (fillLine_ok h1)) h)

theorem updRun_ok {s : State} {core cmd : Nat} {f : RunCmd → RunCmd} (h : s.ok) : (updRun s core cmd f).ok :=
  updCore_ok h (fun h1 => h1)

theorem engDone_ok {s : State} {tok : Nat} {refused : Bool} (h : s.ok) : (engDone s tok refused).ok :=
  updRun_ok h

theorem engGot_ok {s : State} {tok : Nat} {v : Word} {bad : Bool} (h : s.ok) : (engGot s tok v bad).ok :=
  updRun_ok h

theorem engLost_ok {s : State} {tok : Nat} (h : s.ok) : (engLost s tok).ok :=
  ok_ite (engDone_ok h) (engGot_ok h)

theorem endRun_ok {s : State} {core cmd st aux : Nat} (h : s.ok) : (endRun s core cmd st aux).ok :=
  updRun_ok h

theorem redEnd_ok {s : State} {cid who tok status : Nat} (h : s.ok) : (redEnd s cid who tok status).ok :=
  ok_ite (endRun_ok h) (mgmtTo_ok h)

theorem redWordDone_ok {s : State} {die tok : Nat} {refused : Bool} (h : s.ok) : (redWordDone s die tok refused).ok := by
  unfold redWordDone
  split
  · exact h
  · exact ok_ite (foldl_ok (fun h1 => redEnd_ok h1) (updDie_ok h)) (updDie_ok h)

theorem markApplied_ok {s : State} {src tok dst : Nat} (h : s.ok) : (markApplied s src tok dst).ok :=
  ok_ite (engDone_ok h) (ok_ite (redWordDone_ok h) (ok_ite (updDie_ok h) (ok_ite (updCore_ok h (fun h1 => h1)) h)))

theorem failMsg_ok {s : State} {cause cid inc rank aborts : Nat} {hd : MsgHdr} (h : s.ok) : (failMsg s cause cid inc rank aborts hd).ok :=
  report_ok (failRec_ok (drawFree_ok h))

theorem staleAt_ok {s : State} {c : Nat} (h : s.ok) : (staleAt s c).ok :=
  count_ok (updCore_ok h (fun h1 => h1))

theorem setOv_ok {s : State} {die : Nat} {o : OvList} (h : s.ok) : (setOv s die o).ok :=
  updDie_ok h

theorem ovPut_ok {s : State} {die cid rank : Nat} {p : Packet} {atHead : Bool} (h : s.ok) : SomeOk (ovPut s die cid rank p atHead) :=
  some_ite trivial (updDie_ok (setOv_ok h))

theorem ovFree_ok {s : State} {die cid : Nat} {p : Packet} (h : s.ok) : (ovFree s die cid p).ok :=
  updDie_ok h

theorem setPend_ok {s : State} {c : Nat} (h : s.ok) : (setPend s c).ok :=
  ok_ite (wakeCore_ok (updCore_ok h (fun h1 => h1))) h

theorem pendNow_ok {s : State} {c : Nat} (h : s.ok) : (pendNow s c).ok :=
  updCore_ok h (fun h1 => h1)

theorem enqueue_ok {s : State} {c slot addr cid inc : Nat} {hd : MsgHdr} {pay : List Byte} {poison : Bool} (h : s.ok) : (enqueue s c slot addr cid inc hd pay poison).ok := by
  unfold enqueue
  extract_lets -underBinder -merge _ s1 _ _ s2 _ s3
  have hs1 : s1.ok := ok_ite (lmPoison_ok (ok_ite h (lmWrite_ok h))) (ok_ite h (lmWrite_ok h))
  have hs2 : s2.ok := updCore_ok hs1 (fun h1 => updSlot_ok h1)
  have hs3 : s3.ok := by
    unfold s3
    split
    · exact ok_ite (wakeCore_ok hs2) hs2
    · exact hs2
  exact ok_ite (setPend_ok hs3) hs3

theorem landNow_ok {s : State} {c slot a : Nat} {p : Packet} {hd : MsgHdr} {pay : List Byte} {poison : Bool} (h : s.ok) : (landNow s c slot a p hd pay poison).2.ok :=
  enqueue_ok (snd_ite h (inject_ok h))

theorem landAt_ok {s : State} {c slot : Nat} {p : Packet} (h : s.ok) : (landAt s c slot p).2.ok := by
  unfold landAt
  extract_lets -underBinder -merge
  split
  · exact failMsg_ok h
  · split
    · exact failMsg_ok h
    · extract_lets -underBinder -merge
      split
      · exact landNow_ok h
      · split
        · exact (ovPut_ok h).get ‹_›
        · exact failMsg_ok h

theorem land_ok {s : State} {c slot : Nat} {p : Packet} (h : s.ok) : (land s c slot p).ok :=
  landAt_ok h

theorem sendRank'_ok {s : State} {c cid rank : Nat} {p : Packet} (h : s.ok) : (sendRank' s c cid rank p).ok := by
  unfold sendRank'
  split
  have h1 := ok_snd (resolve_ok h) ‹_›
  extract_lets -underBinder -merge
  split
  · exact emit_ok h1
  · exact updCore_ok h1 (fun h2 => h2)
  · exact emit_ok h1
  · split
    · exact failMsg_ok h1
    · exact failMsg_ok h1
    · exact count_ok h1

theorem sendRank_ok {s : State} {c cid rank : Nat} {p : Packet} (h : s.ok) : SomeOk (sendRank s c cid rank p) :=
  some_ite trivial (sendRank'_ok h)

theorem putEnd_ok {k : Core} {e : EndRec} {fwd : Bool} (hk : k.ok) : (putEnd k e fwd).ok :=
  hk

theorem updEnd_ok {s : State} {c : Nat} {key : EndKey} {f : EndRec → EndRec} (h : s.ok) : (updEnd s c key f).ok :=
  updCore_ok h (fun h1 => h1)

theorem unbind_ok {k : Core} {key : EndKey} (hk : k.ok) : (unbind k key).ok :=
  hk

theorem freeEnd_ok {s : State} {c : Nat} {key : EndKey} (h : s.ok) : (freeEnd s c key).ok :=
  updCore_ok h (fun h1 => unbind_ok h1)

theorem freeFwd_ok {s : State} {c : Nat} {key : EndKey} {gen : Nat} (h : s.ok) : (freeFwd s c key gen).ok :=
  updCore_ok h (fun h1 => h1)

theorem notice_ok {s : State} {c : Nat} {e : EndRec} {typ seq nrank cause : Nat} (h : s.ok) : (notice s c e typ seq nrank cause).ok :=
  sendRank'_ok h

theorem credit_ok {s : State} {c : Nat} {e : EndRec} (h : s.ok) : (credit s c e).ok :=
  notice_ok (updEnd_ok h)

theorem credits_ok {s : State} {c : Nat} (h : s.ok) : (credits s c).ok := by
  unfold credits
  split
  · exact h
  · exact foldl_ok (fun h1 => credit_ok h1) h

theorem endStream_ok {s : State} {c : Nat} {e : EndRec} {w : Word} (h : s.ok) : (endStream s c e w).ok := by
  unfold endStream
  extract_lets -underBinder -merge _ _ s1
  have hs1 : s1.ok := by
    unfold s1
    split
    · split
      · extract_lets -underBinder -merge _ _ _ src1 s2
        have hsrc1 : src1.ok := wv_ok (coreOf_ok (updEnd_ok h))
        have hs2 : s2.ok := setCore_ok (updEnd_ok h) hsrc1
        exact updEnd_ok hs2
      · exact (updEnd_ok h)
    · exact (updEnd_ok h)
  exact ok_ite (sendRank'_ok (freshMsg_ok hs1)) (land_ok (freshMsg_ok hs1))

theorem tryEos_ok {s : State} {c : Nat} {key : EndKey} (h : s.ok) : (tryEos s c key).ok := by
  unfold tryEos
  split
  · split
    · exact ok_ite (endStream_ok h) h
    · exact h
  · exact h

theorem drainItems_ok {n : Nat} {s : State} {c : Nat} {key : EndKey} (h : s.ok) : (drainItems n s c key).ok := by
  induction n generalizing s with
  | zero => exact h
  | succ n ih =>
    unfold drainItems
    split
    · split
      · exact ih (updEnd_ok (ok_ite (lmPoison_ok (lmWrite_ok h)) (lmWrite_ok h)))
      · exact h
    · exact h

theorem putItems_ok {s : State} {c : Nat} {key : EndKey} {seq : Nat} {items : List Word} {poison : Bool} (h : s.ok) : (putItems s c key seq items poison).ok := by
  unfold putItems
  split
  · exact tryEos_ok (drainItems_ok (updEnd_ok h))
  · exact h

theorem orphanAt_ok {s : State} {c : Nat} {e : EndRec} {cause : Nat} (h : s.ok) : (orphanAt s c e cause).ok :=
  ok_ite (ok_ite h (tryEos_ok (updEnd_ok h))) (ok_ite (freeEnd_ok h) (updEnd_ok h))

theorem rerouteAt_ok {s : State} {c : Nat} {e : EndRec} {hd : StrmHdr} (h : s.ok) : (rerouteAt s c e hd).ok :=
  ok_ite (ok_ite (notice_ok (sendRank'_ok (updEnd_ok h))) (sendRank'_ok (updEnd_ok h))) (sendRank'_ok h)

theorem retire_ok {s : State} {c : Nat} {e : EndRec} (h : s.ok) : (retire s c e).ok :=
  sendRank'_ok (freeFwd_ok h)

theorem passOn_ok {s : State} {c : Nat} {e : EndRec} {p : Packet} (h : s.ok) : (passOn s c e p).ok := by
  unfold passOn
  extract_lets -underBinder -merge _ _ _ _ _ s1
  have hs1 : s1.ok := updCore_ok (sendRank'_ok h) (fun h1 => putEnd_ok h1)
  split
  · exact retire_ok hs1
  · split
    · exact ok_ite (retire_ok hs1) hs1
    · exact hs1

theorem reackAt_ok {s : State} {c : Nat} {e : EndRec} {seq : Nat} (h : s.ok) : (reackAt s c e seq).ok :=
  ok_ite (retire_ok h) (updCore_ok h (fun h1 => putEnd_ok h1))

theorem noRecord_ok {s : State} {c : Nat} {p : Packet} (h : s.ok) : (noRecord s c p).ok :=
  ok_ite (sendRank'_ok h) (count_ok (updCore_ok h (fun h1 => h1)))

theorem markLost_ok {s : State} {p : Packet} (h : s.ok) : (markLost s p).ok := by
  unfold markLost
  extract_lets -underBinder -merge
  split
  · exact h
  · split
    · exact tryEos_ok (updEnd_ok h)
    · exact h

/-- Unfolded as a function: in its place here the kernel would compare the two sides by running ovPut, and count the partition's bytes. -/
theorem holdFor_ok {s : State} {c cid rank : Nat} {p : Packet} (h : s.ok) : (holdFor s c cid rank p).ok := by
  have hfun := Eq.refl @holdFor
  conv at hfun => rhs; delta holdFor
  rw [hfun]
  beta_reduce
  split
  · exact (ovPut_ok h).get ‹_›
  · exact markLost_ok (failRec_ok (drawFree_ok h))

theorem holdPacket_ok {s : State} {c : Nat} {p : Packet} (h : s.ok) : (holdPacket s c p).ok := by
  unfold holdPacket
  split
  · exact noRecord_ok h
  · exact holdFor_ok h

theorem strmAt_ok {s : State} {c : Nat} {p : Packet} (h : s.ok) : (strmAt s c p).ok := by
  unfold strmAt
  extract_lets -underBinder -merge
  split
  · exact count_ok h
  · split
    · exact reackAt_ok h
    · dsimp only
      split
      · exact ok_ite (noRecord_ok h) (holdPacket_ok h)
      · split
        · exact ok_ite (notice_ok h) (passOn_ok h)
        · split
          · exact holdFor_ok h
          · split
            · exact holdPacket_ok h
            · split
              · split
                · exact rerouteAt_ok h
                · exact h
                · exact ok_ite (updEnd_ok h) h
                · exact ok_ite (updEnd_ok h) (orphanAt_ok h)
                · exact ok_ite (freeEnd_ok h) h
                · exact updEnd_ok h
                · exact h
              · split
                · exact putItems_ok h
                · exact ok_ite (updEnd_ok h) (tryEos_ok (updEnd_ok h))
                · exact h

theorem replayEnd_ok {s : State} {c : Nat} {e : EndRec} (h : s.ok) : (replayEnd s c e).ok := by
  unfold replayEnd
  extract_lets -underBinder -merge
  split
  · exact h
  · exact foldl_ok (fun h1 => by
      split
      · exact h1
      · exact strmAt_ok (ovFree_ok (setOv_ok h1))) h

theorem unpend_ok {s : State} {c : Nat} {e : EndRec} (h : s.ok) : (unpend s c e).ok := by
  unfold unpend
  extract_lets -underBinder -merge _ s1
  have hs1 : s1.ok := foldl_ok (fun h1 => strmAt_ok h1) (updEnd_ok h)
  exact tryEos_ok hs1

theorem unset_ok {s : State} {e : EndRec} (h : s.ok) : (unset s e).ok := by
  unfold unset
  split
  · exact report_ok h
  · exact h

theorem killEnd_ok {s : State} {c : Nat} {e : EndRec} {cause : Nat} (h : s.ok) : (killEnd s c e cause).ok := by
  unfold killEnd
  extract_lets -underBinder -merge _ s1
  have hs1 : s1.ok := notice_ok (ok_ite (unset_ok h) h)
  exact freeEnd_ok hs1

theorem addEnd_ok {s : State} {c : Nat} {e : EndRec} (h : s.ok) : (addEnd s c e).ok :=
  updCore_ok h (fun h1 => h1)

theorem landHandle_ok {s : State} {c slot : Nat} {p : Packet} (h : s.ok) : (landHandle s c slot p).2.ok := by
  unfold landHandle
  split
  · split
    · exact failMsg_ok h
    · split
      · split
        · exact (ovPut_ok h).get ‹_›
        · exact failMsg_ok h
      · exact ok_ite (replayEnd_ok (landAt_ok (addEnd_ok h))) (landAt_ok (addEnd_ok h))
  · exact h

end Sys2Proof.Machine
end

section
/-! ### Kept by every step: instruction boundaries, traps, activations, effects, and operations on ranks and contexts (03, 07) -/

namespace Sys2Proof.Machine

theorem passTo_ok {k : Core} {p : Word} (hk : k.ok) : (passTo k p).ok :=
  core_ite hk hk

theorem advance_ok {k : Core} (hk : k.ok) : (advance k).ok :=
  passTo_ok hk

theorem done_ok {s : State} {f : Core → Core} (h : s.ok) (hf : ∀ {x0 : Core}, x0.ok → (f x0).ok) : (done s f).ok :=
  setCC_ok h (advance_ok (hf (cc_ok h)))

theorem writeX_ok {s : State} {rd : Reg} {v : Word} (h : s.ok) : NextOk (writeX s rd v) :=
  done_ok h (fun h1 => wx_ok h1)

theorem leaveGang_ok {s : State} {c : Nat} {g : Option Nat} (h : s.ok) : (leaveGang s c g).ok := by
  unfold leaveGang
  split <;> exact h

theorem clearRun_ok {k : Core} (hk : k.ok) : (clearRun k).ok :=
  hk

theorem clearBank_ok {k : Core} (hk : k.ok) : (clearBank k).ok := by
  unfold clearBank
  exact (core_ok_iff _).mpr ((core_ok_iff k).mp hk)

theorem releaseEos_ok {s : State} {c : Nat} {a : Act} (h : s.ok) : (releaseEos s c a).ok := by
  unfold releaseEos
  split
  · split
    · exact ok_ite (freeEnd_ok (notice_ok h)) h
    · exact h
  · exact h

theorem releaseMsg_ok {s : State} {c : Nat} {a : Act} {aborted : Bool} (h : s.ok) : (releaseMsg s c a aborted).ok := by
  unfold releaseMsg
  extract_lets -underBinder -merge _ s1
  have hs1 : s1.ok := by
    unfold s1
    split
    · exact updDie_ok (releaseEos_ok h)
    · exact (releaseEos_ok h)
  exact leaveGang_ok hs1

theorem msgGone_ok {s : State} {c : Nat} {m : QMsg} (h : s.ok) : (msgGone s c m).ok := by
  unfold msgGone
  extract_lets -underBinder -merge s1
  have hs1 : s1.ok := by
    unfold s1
    split
    · exact updDie_ok h
    · exact h
  split
  · split
    · exact ok_ite (freeEnd_ok (notice_ok hs1)) hs1
    · exact hs1
  · exact hs1

theorem settleLoop_ok {k : Core} {a : Act} {isExit : Bool} (hk : k.ok) : (settleLoop k a isExit).ok := by
  unfold settleLoop
  split
  · exact hk
  · exact core_ite (core_ite hk hk) (core_ite (clearBank_ok hk) hk)

theorem reportSettings_ok {s : State} {c less : Nat} (h : s.ok) : (reportSettings s c less).ok := by
  unfold reportSettings
  extract_lets -underBinder -merge
  split
  · exact h
  · exact ok_ite h (report_ok h)

theorem finishAct_ok {s : State} {c : Nat} {a : Act} {isExit : Bool} (h : s.ok) : (finishAct s c a isExit).ok := by
  unfold finishAct
  extract_lets -underBinder -merge _ s1
  have hs1 : s1.ok := updCore_ok (credits_ok h) (fun h1 => h1)
  exact updCore_ok (releaseMsg_ok hs1) (fun h2 => clearRun_ok (settleLoop_ok h2))

theorem freshRun_ok {k : Core} {tiles : Nat} (hk : k.ok) : (freshRun k tiles).ok := by
  unfold freshRun
  exact (core_ok_iff _).mpr ((core_ok_iff k).mp hk)

theorem taint_ok {s : State} {c cid inc msgid kid : Nat} (h : s.ok) : (taint s c cid inc msgid kid).ok :=
  ok_ite (updDie_ok h) h

theorem startAct_ok {s : State} {c slot qn : Nat} {m : QMsg} {gang crew : Option Nat} {fromQ : Bool} (h : s.ok) :
    (startAct s c slot qn m gang crew fromQ).ok := by
  unfold startAct
  extract_lets -underBinder -merge
  split
  · exact h
  · exact updCore_ok (taint_ok h) fun hk => setX_ok (core_ite (updSlot_ok (freshRun_ok hk)) (freshRun_ok hk)) (entryRegs_zero ..)

theorem startSucc_ok {s : State} {c : Nat} (h : s.ok) : (startSucc s c).ok := by
  unfold startSucc
  extract_lets -underBinder -merge
  split
  · exact h
  · extract_lets -underBinder -merge _ s1
    have hs1 : s1.ok := setCore_ok h (coreOf_ok h)
    split
    · exact releaseMsg_ok hs1
    · split
      · exact report_ok (releaseMsg_ok hs1)
      · split
        · exact failMsg_ok (releaseMsg_ok hs1)
        · exact updCore_ok (taint_ok hs1) fun hk => setX_ok (freshRun_ok hk) (entryRegs_zero ..)

theorem linkPair_ok {s : State} {c d : Nat} (h : s.ok) : (linkPair s c d).ok :=
  ok_ite (updCore_ok (updCore_ok h (fun h1 => h1)) (fun h2 => h2)) h

theorem unpair_ok {s : State} {c : Nat} (h : s.ok) : (unpair s c).2.ok := by
  unfold unpair
  extract_lets -underBinder -merge
  split
  · exact h
  · extract_lets -underBinder -merge
    split
    extract_lets -underBinder -merge s1
    have hs1 : s1.ok := updCore_ok h (fun h1 => clearRun_ok h1)
    exact updCore_ok hs1 (fun h2 => h2)

theorem requeue_ok {s : State} {c : Nat} {a : Act} {mis : Option (Nat × Nat)} (h : s.ok) : (requeue s c a mis).ok := by
  unfold requeue
  extract_lets -underBinder -merge _ _ s1
  have hs1 : s1.ok := updCore_ok h (fun h1 => clearRun_ok (settleLoop_ok h1))
  split
  · exact updCore_ok hs1 (fun h2 => updSlot_ok h2)
  · extract_lets -underBinder -merge
    split
    · exact updCore_ok hs1 (fun h3 => updSlot_ok h3)
    · exact updCore_ok (lmWrite_ok hs1) (fun h4 => updSlot_ok h4)

theorem disarm_ok {s : State} {c : Nat} (h : s.ok) : (disarm s c).ok :=
  h

theorem abortWith_ok {s : State} {c cause : Nat} {detail : Word} {mis : Option (Nat × Nat)} (h : s.ok) : (abortWith s c cause detail mis).ok := by
  unfold abortWith
  extract_lets -underBinder -merge s1
  have hs1 : s1.ok := by
    unfold s1
    split
    · exact disarm_ok (disarm_ok h)
    · exact disarm_ok h
  split
  have h1 := ok_snd (unpair_ok hs1) ‹_›
  extract_lets -underBinder -merge
  split
  · exact h1
  · extract_lets -underBinder -merge _ s2 _ _ s3 _ _ s4 _ _ s5
    have hs2 : s2.ok := foldl_ok (fun h2 => unpend_ok h2) h1
    have hs3 : s3.ok := updCore_ok (reportSettings_ok hs2) (fun h3 => h3)
    have hs4 : s4.ok := updCore_ok hs3 (fun h4 => by
      extract_lets -underBinder -merge src1
      have hsrc1 : src1.ok := clearRun_ok (settleLoop_ok h4)
      exact hsrc1)
    have hs5 : s5.ok := reportSettings_ok (failRec_ok hs2)
    exact ok_ite (ok_ite (ok_ite (startSucc_ok hs4) hs4) (ok_ite (updCore_ok (releaseMsg_ok hs3) (fun h5 => clearRun_ok (settleLoop_ok h5))) (requeue_ok hs3))) (finishAct_ok (ok_ite hs5 (report_ok hs5)))

theorem abortAct_ok {s : State} {c cause : Nat} {detail : Word} (h : s.ok) : (abortAct s c cause detail).ok :=
  foldl_ok (fun h1 => tryEos_ok h1) (abortWith_ok h)

theorem takeTrap_ok {s : State} {c cause : Nat} {addr : Option Word} (h : s.ok) : (takeTrap s c cause addr).ok := by
  unfold takeTrap
  extract_lets -underBinder -merge
  split
  · split
    · exact ok_ite (updCore_ok (setCore_ok h (coreOf_ok h)) (fun h1 => h1)) (setCore_ok h (coreOf_ok h))
    · exact (setCore_ok h (coreOf_ok h))
  · exact abortAct_ok h

theorem trap_ok {s : State} {cause : Nat} {addr : Option Word} (h : s.ok) : NextOk (trap s cause addr) :=
  takeTrap_ok h

theorem ill_ok {s : State} (h : s.ok) : NextOk (ill s) :=
  trap_ok h

theorem returnTrap_ok {k : Core} (hk : k.ok) : (returnTrap k).ok :=
  core_ite (passTo_ok hk) hk

theorem transfer_ok {s : State} {link : Option Reg} {t : Int} (h : s.ok) : NextOk (transfer s link t) := by
  unfold transfer
  split
  · exact trap_ok h
  · extract_lets -underBinder -merge _ k1
    have hk1 : k1.ok := by
      unfold k1
      split
      · exact wx_ok (cc_ok h)
      · exact (cc_ok h)
    exact setCC_ok h hk1

theorem clearRestart_ok {k : Core} {by_ : Nat} (hk : k.ok) : (clearRestart k by_).ok :=
  core_ite hk hk

theorem flushReports_ok {s : State} {c : Nat} (h : s.ok) : (flushReports s c).ok := by
  unfold flushReports
  extract_lets -underBinder -merge _ s1 _ _ _ _ _ _ _ _ _ s2
  have hs1 : s1.ok := credits_ok (setCore_ok h (clearRestart_ok (coreOf_ok h)))
  have hs2 : s2.ok := foldl_ok (fun h1 => report_ok h1) (ok_ite hs1 (report_ok hs1))
  exact updCore_ok hs2 (fun h2 => h2)

theorem beginFlush_ok {s : State} {c : Nat} {extra : Int} (h : s.ok) : (beginFlush s c extra).ok :=
  ok_ite (updCore_ok (updCore_ok h (fun h1 => h1)) (fun h2 => h2)) (flushReports_ok (updCore_ok h (fun h1 => h1)))

theorem afterFlush_ok {s : State} {extra : Int} {cont : State → Out} (h : s.ok) (hcont : ∀ {x0 : State}, x0.ok → NextOk (cont x0)) : NextOk (afterFlush s extra cont) := by
  unfold afterFlush
  split
  · exact next_ite (hcont (beginFlush_ok h)) (setCC_ok (beginFlush_ok h) (cc_ok (beginFlush_ok h)))
  · exact next_ite (hcont (setCC_ok h (cc_ok h))) h
  · exact hcont h

theorem bufferT_ok {s : State} {eff : Nat → Effect} {bytes counted : Nat} {f : Nat → Core → Core} {bad : Bool} (h : s.ok) (hf : ∀ {x0 : Nat} {x1 : Core}, x1.ok → (f x0 x1).ok) : NextOk (bufferT s eff bytes counted f bad) :=
  next_ite (setCC_ok h (advance_ok (hf (freshTok_ok (cc_ok h))))) (afterFlush_ok h (fun h1 => setCC_ok h1 (advance_ok (hf (freshTok_ok (cc_ok h1))))))

theorem buffer_ok {s : State} {eff : Effect} {bytes counted : Nat} {f : Core → Core} {bad : Bool} (h : s.ok) (hf : ∀ {x0 : Core}, x0.ok → (f x0).ok) : NextOk (buffer s eff bytes counted f bad) :=
  bufferT_ok h (fun h1 => hf h1)

theorem pendReg_ok {k : Core} {rd : Reg} {tok : Nat} (hk : k.ok) : (pendReg k rd tok).ok :=
  core_ite hk hk

theorem outstanding_ok {k : Core} {tok : Nat} {rd : Reg} {kind : RetKind} {g : Nat} (hk : k.ok) : (outstanding k tok rd kind g).ok :=
  hk

theorem putRank_ok {s : State} {cid rank : Nat} {e : Word} (h : s.ok) : (putRank s cid rank e).ok := by
  have hclear : ∀ s : State, s.ok → ∀ d, (match ovOf s d cid rank with | some o => setOv s d { o with trapped := false } | none => s).ok := by
    intro s h d
    split
    · exact setOv_ok h
    · exact h
  unfold putRank
  extract_lets -underBinder -merge s1
  have hs1 : s1.ok := mapCores_ok (f := fun _ k => { k with rcache := k.rcache.filter fun x => !decide (x.cid = cid ∧ x.rank = rank) }) h fun hk => hk
  exact foldl_ok (fun h => mgmtTo_ok h) (ok_ite (hclear _ (hclear _ hs1 0) 1) hs1)

theorem transitRanks_ok {s : State} {c : Nat} (h : s.ok) : (transitRanks s c).ok :=
  foldl_ok (fun h1 => by
    split
    · exact h1
    · exact ok_ite (putRank_ok h1) h1) h

theorem sealedTo_ok {s : State} {c : Nat} {m : Monitor} (h : s.ok) : (sealedTo s c m).ok := by
  unfold sealedTo
  split <;> exact emit_ok h

theorem sealMonitors_ok {s : State} {c : Nat} (h : s.ok) : (sealMonitors s c).ok :=
  foldl_ok (fun h1 => sealedTo_ok h1) h

theorem sealCore_ok {s : State} {c : Nat} (h : s.ok) : (sealCore s c).ok := by
  unfold sealCore
  extract_lets -underBinder -merge _ _ s1 s2 _ s3
  have hs1 : s1.ok := takeTrap_ok (setCore_ok h (coreOf_ok h))
  have hs2 : s2.ok := ok_ite (updCore_ok hs1 (fun h1 => clearBank_ok h1)) hs1
  have hs3 : s3.ok := foldl_ok (fun h2 => killEnd_ok h2) (sealMonitors_ok hs2)
  exact ok_ite (takeTrap_ok h) (transitRanks_ok hs3)

theorem oweTrap_ok {s : State} {c cause : Nat} {detail : Option Word} (h : s.ok) : (oweTrap s c cause detail).ok :=
  ok_ite h (setCore_ok h (coreOf_ok h))

theorem refused_ok {s : State} {c cause msgid cid inc rank kid : Nat} {detail : Word} {own : Option Word} {aborts : Nat} (h : s.ok) : (refused s c cause msgid cid inc rank kid detail own aborts).ok := by
  unfold refused
  split
  · exact ok_ite (oweTrap_ok h) (failRec_ok h)
  · exact failRec_ok h

theorem updOp_ok {s : State} {tok : Nat} {f : Op → Op} (h : s.ok) : (updOp s tok f).ok :=
  h

theorem broadcast_ok {s : State} {cid old new : Nat} (h : s.ok) : (broadcast s cid old new).ok :=
  updDie_ok (updDie_ok (setLag_ok h))

theorem startKill_ok {s : State} {core cid status : Nat} {restore : Bool} {asked : Option (Nat × Nat)} (h : s.ok) :
    (startKill s core cid status restore asked).2.ok := by
  unfold startKill
  extract_lets -underBinder -merge
  exact foldl_ok (fun h => mgmtTo_ok h) (setOps_ok (broadcast_ok (updCtx_ok h)))

theorem startRecl_ok {s : State} {core cid : Nat} {asked : Option (Nat × Nat)} (h : s.ok) : (startRecl s core cid asked).2.ok :=
  foldl_ok (fun h => mgmtTo_ok h) (setOps_ok h)

theorem askedBack_ok {s : State} {cid : Nat} {asked : Nat × Nat} {status : Nat} (h : s.ok) : (askedBack s cid asked status).ok :=
  emit_ok h

theorem homeKill_ok {s : State} {cid : Nat} {restore : Bool} {asked : Nat × Nat} (h : s.ok) : (homeKill s cid restore asked).ok :=
  ok_ite (askedBack_ok h) (ok_ite h (ok_ite (askedBack_ok h) (startKill_ok h)))

theorem homeRecl_ok {s : State} {cid : Nat} {asked : Nat × Nat} (h : s.ok) : (homeRecl s cid asked).ok :=
  ok_ite (askedBack_ok h) (ok_ite (askedBack_ok h) (startRecl_ok h))

theorem nextKill_ok {s : State} {cid : Nat} (h : s.ok) : (nextKill s cid).ok := by
  unfold nextKill
  split
  · exact h
  · exact homeKill_ok h

theorem opDone_ok {s : State} {o : Op} {status : Nat} (h : s.ok) : (opDone s o status).ok := by
  unfold opDone
  extract_lets -underBinder -merge
  split
  · exact askedBack_ok h
  · exact updCore_ok h (fun h1 => core_ite h1 h1)
  · exact emit_ok h

theorem killedRecords_ok {s : State} {cid old : Nat} (h : s.ok) : (killedRecords s cid old).ok :=
  foldl_ok (fun h1 => failRec_ok h1) h

theorem reclaimed_ok {s : State} {cid sample : Nat} (h : s.ok) : (reclaimed s cid sample).ok :=
  updCtx_ok h

theorem opSettle_ok {s : State} {tok : Nat} (h : s.ok) : (opSettle s tok).ok := by
  unfold opSettle
  split
  · exact h
  · split
    · exact h
    · extract_lets -underBinder -merge s1
      have hs1 : s1.ok := ok_ite (killedRecords_ok h) (ok_ite (reclaimed_ok h) h)
      exact ok_ite (nextKill_ok (opDone_ok hs1)) (opDone_ok hs1)

end Sys2Proof.Machine
end

section
/-! ### Kept by every step: arithmetic, branches, local and remote memory forms, fences and waits at issue (13 to 16) -/

namespace Sys2Proof.Machine

theorem branch_ok {s : State} {ra rb : Reg} {off : BitVec 15} {p : Word → Word → Bool} (h : s.ok) : NextOk (branch s ra rb off p) :=
  next_ite (transfer_ok h) (done_ok h (fun h1 => h1))

theorem protect_ok {s : State} {a : Nat} (h : s.ok) : (protect s a).ok :=
  ok_ite (setCC_ok h (clearRestart_ok (cc_ok h))) h

theorem struck_ok {s : State} {c a n : Nat} (h : s.ok) : (struck s c a n).ok :=
  ok_ite (lmPoison_ok (inject_ok h)) (inject_ok h)

theorem localWrite_ok {s : State} {a : Nat} {bs : List Byte} (h : s.ok) : (localWrite s a bs).ok :=
  struck_ok (lmWrite_ok (protect_ok h))

theorem sampleStep_ok {k : Core} (hk : k.ok) : (sampleStep k).ok :=
  core_ite hk hk

theorem afterDrain_ok {s : State} {g n : Nat} {cont : State → Out} (h : s.ok) (hcont : ∀ {x0 : State}, x0.ok → NextOk (cont x0)) : NextOk (afterDrain s g n cont) := by
  unfold afterDrain
  extract_lets -underBinder -merge
  split
  · exact next_ite (afterFlush_ok h (fun h1 => setCC_ok h1 (cc_ok h1))) (hcont h)
  · exact afterFlush_ok h (fun h1 => setCC_ok h1 (cc_ok h1))
  · exact next_ite h (hcont (setCC_ok h (cc_ok h)))
  · exact hcont h

theorem updRtu_ok {s : State} {d n : Nat} {f : Rtu → Rtu} (h : s.ok) : (updRtu s d n f).ok :=
  updDie_ok h

theorem askRtu_ok {s : State} {c cid inc cls acc va tok : Nat} {pkt : Option Packet} (h : s.ok) : (askRtu s c cid inc cls acc va tok pkt).ok :=
  updRtu_ok h

theorem peerAt_ok {s : State} {c cid rank : Nat} (h : s.ok) : (peerAt s c cid rank).2.ok := by
  unfold peerAt
  split
  have h1 := ok_snd (resolve_ok h) ‹_›
  split
  · exact snd_ite h1 (snd_ite h1 h1)
  · exact h1
  · exact h1

theorem takeTok_ok {k : Core} (hk : k.ok) : (takeTok k).2.ok := by
  unfold takeTok
  split
  · exact hk
  · exact freshTok_ok hk

theorem issueReq_ok {s : State} {dst op slot : Nat} {body : Nat → Body} {rd : Reg} {kind : RetKind} {g : Nat} {acq unc : Bool} {f : Core → Core} {cls : Nat} (h : s.ok) (hf : ∀ {x0 : Core}, x0.ok → (f x0).ok) : NextOk (issueReq s dst op slot body rd kind g acq unc f cls) := by
  unfold issueReq
  extract_lets -underBinder -merge
  split
  · split
    split
    have h1 := core_snd (takeTok_ok (cc_ok h)) ‹_›
    extract_lets -underBinder -merge _ k'1 s1
    have hk'1 : k'1.ok := core_ite (hf (outstanding_ok h1)) (advance_ok (hf (outstanding_ok h1)))
    have hs1 : s1.ok := by
      unfold s1
      split
      · exact updCore_ok h (fun h2 => hf (advance_ok (pendReg_ok h2)))
      · exact updCore_ok h (fun h3 => hf (advance_ok (pendReg_ok h3)))
      · exact h
    exact emit_ok (setCC_ok hs1 hk'1)
  · exact h

theorem returning_ok {s : State} {g : Word} {acc : Nat} {allowed : Nat → Bool} {go : State → Nat → Nat → Nat → Bool → Out} (h : s.ok) (hgo : ∀ {x0 : State} {x1 : Nat} {x2 : Nat} {x3 : Nat} {x4 : Bool}, x0.ok → NextOk (go x0 x1 x2 x3 x4)) : NextOk (returning s g acc allowed go) := by
  unfold returning
  extract_lets -underBinder -merge
  split
  split
  · exact h
  · exact trap_ok (setCC_ok h (cc_ok h))
  · exact next_ite (hgo (setCC_ok h (cc_ok h))) (trap_ok (setCC_ok h (cc_ok h)))
  · split
    · exact trap_ok h
    · split
      · have h1 := ok_snd (peerAt_ok h) ‹_›
        exact next_ite (hgo h1) (trap_ok h1)
      · have h2 := ok_snd (peerAt_ok h) ‹_›
        exact trap_ok h2
      · exact ok_snd (peerAt_ok h) ‹_›
    · exact askRtu_ok (setCC_ok h (freshTok_ok (cc_ok h)))

theorem remoteLoad_ok {s : State} {rd : Reg} {g : Word} {n : Nat} {sx acq : Bool} (h : s.ok) : NextOk (remoteLoad s rd g n sx acq) := by
  unfold remoteLoad
  extract_lets -underBinder -merge
  split
  · exact next_ite h (setCC_ok h (advance_ok (cc_ok h)))
  · split
    · exact trap_ok h
    · split
      · exact trap_ok h
      · split
        · exact writeX_ok h
        · exact afterDrain_ok h (fun h1 => returning_ok h1 (fun h2 => issueReq_ok h2 (fun h3 => h3)))

theorem pairFirst_ok {s : State} {words : List Word} {cont : State → Out} (h : s.ok) (hcont : ∀ {x0 : State}, x0.ok → NextOk (cont x0)) : NextOk (pairFirst s words cont) := by
  unfold pairFirst
  extract_lets -underBinder -merge
  split
  · exact hcont h
  · split
    · extract_lets -underBinder -merge s1
      have hs1 : s1.ok := beginFlush_ok (setCC_ok h (cc_ok h))
      exact setCC_ok hs1 (cc_ok hs1)
    · have hidle := hcont (setCC_ok h (k := { cc s with wait := .idle }) (cc_ok h))
      split
      · exact h
      · split
        · have h1 := hidle.get ‹_›
          exact next_ite (setCC_ok h1 (cc_ok h1)) h1
        · exact hidle
    · exact hcont h

theorem remoteAmo_ok {s : State} {rd : Reg} {g : Word} {op n : Nat} {b c : Word} (h : s.ok) : NextOk (remoteAmo s rd g op n b c) :=
  next_ite (trap_ok h) (next_ite (trap_ok h) (pairFirst_ok h (fun h1 => afterDrain_ok h1 (fun h2 => returning_ok h2 (fun h3 => issueReq_ok h3 (fun h4 => core_ite (sampleStep_ok (clearRestart_ok h4)) (clearRestart_ok h4)))))))

theorem remoteHins_ok {s : State} {rd : Reg} {g : Word} {newer : Bool} {key data : Word} (h : s.ok) : NextOk (remoteHins s rd g newer key data) :=
  next_ite (trap_ok h) (next_ite (trap_ok h) (pairFirst_ok h (fun h1 => afterDrain_ok h1 (fun h2 => returning_ok h2 (fun h3 => issueReq_ok h3 (fun h4 => clearRestart_ok h4))))))

theorem unacked_ok {k : Core} {tok target g w msgid : Nat} (hk : k.ok) : (unacked k tok target g w msgid).ok :=
  hk

theorem noteStore_ok {s : State} {k : Core} {dst : Nat} (hk : k.ok) : (noteStore s k dst).ok :=
  core_ite hk hk

theorem refuseStore_ok {s : State} {c cause msgid cid inc rank kid : Nat} {g : Word} {aborts : Nat} (h : s.ok) : (refuseStore s c cause msgid cid inc rank kid g aborts).ok :=
  refused_ok h

theorem storeOut_ok {s : State} {c g w : Nat} {body : Nat → Body} {op tok : Nat} {bad : Bool} (h : s.ok) : SomeOk (storeOut s c g w body op tok bad) := by
  unfold storeOut
  extract_lets -underBinder -merge
  split
  extract_lets -underBinder -merge
  split
  · exact refuseStore_ok h
  · split
    · exact trivial
    · have h1 := ok_snd (peerAt_ok h) ‹_›
      exact refuseStore_ok h1
    · have h2 := ok_snd (peerAt_ok h) ‹_›
      split
      · extract_lets -underBinder -merge s1
        have hs1 : s1.ok := updCore_ok h2 (fun h3 => noteStore_ok (unacked_ok h3))
        exact emit_ok hs1
      · exact trivial
  · extract_lets -underBinder -merge s2
    have hs2 : s2.ok := updCore_ok h (fun h4 => unacked_ok h4)
    exact askRtu_ok hs2

theorem askRow_ok {s : State} {owner at_ w : Nat} (h : s.ok) : (askRow s owner at_ w).ok :=
  emit_ok (setCC_ok h (outstanding_ok (freshTok_ok (cc_ok h))))

theorem rowStore_ok {s : State} {owner at_ n : Nat} {v : Word} {full bad : Bool} (h : s.ok) : (rowStore s owner at_ n v full bad).ok := by
  unfold rowStore
  split
  have h1 := core_snd (freshTok_ok (cc_ok h)) ‹_›
  exact emit_ok (setCC_ok h (unacked_ok h1))

theorem rowFirst_ok {s : State} {a n : Nat} {cont : Out} (h : s.ok) (hcont : NextOk cont) : NextOk (rowFirst s a n cont) := by
  unfold rowFirst
  extract_lets -underBinder -merge
  split
  · exact hcont
  · split
    · exact askRow_ok h
    · exact h

theorem sendMarkers_ok {s : State} {c : Nat} (h : s.ok) : (sendMarkers s c).ok :=
  foldl_ok (fun h1 => by
    split
    have h2 := core_snd (freshTok_ok (coreOf_ok h1)) ‹_›
    extract_lets -underBinder -merge s1
    have hs1 : s1.ok := setCore_ok h1 (outstanding_ok h2)
    exact e2eSend_ok hs1) (setCore_ok h (coreOf_ok h))

theorem fence_ok {s : State} {scope : Nat} (h : s.ok) : NextOk (fence s scope) := by
  unfold fence
  extract_lets -underBinder -merge wait1 mark1
  split
  · exact next_ite (setCC_ok h (advance_ok (cc_ok h))) h
  · unfold mark1
    split
    · exact next_ite (setCC_ok (setCC_ok h (cc_ok h)) (advance_ok (cc_ok (setCC_ok h (cc_ok h))))) (setCC_ok h (cc_ok h))
    · split
      · exact setCC_ok h (cc_ok h)
      · unfold wait1
        extract_lets -underBinder -merge _ k1
        have hk1 : k1.ok := cc_ok (sendMarkers_ok (setCC_ok h (cc_ok h)))
        exact next_ite (setCC_ok (sendMarkers_ok (setCC_ok h (cc_ok h))) (advance_ok hk1)) (sendMarkers_ok (setCC_ok h (cc_ok h)))
  · exact afterFlush_ok h (fun h1 => by
      unfold mark1
      split
      · unfold wait1
        extract_lets -underBinder -merge _ k2
        have hk2 : k2.ok := cc_ok (setCC_ok h1 (cc_ok h1))
        exact next_ite (setCC_ok (setCC_ok h1 (cc_ok h1)) (advance_ok hk2)) (setCC_ok h1 (cc_ok h1))
      · split
        · exact setCC_ok h1 (cc_ok h1)
        · unfold wait1
          extract_lets -underBinder -merge _ k3
          have hk3 : k3.ok := cc_ok (sendMarkers_ok (setCC_ok h1 (cc_ok h1)))
          exact next_ite (setCC_ok (sendMarkers_ok (setCC_ok h1 (cc_ok h1))) (advance_ok hk3)) (sendMarkers_ok (setCC_ok h1 (cc_ok h1))))

theorem armAt_ok {s : State} {lm : Bool} {home addr core tok : Nat} {expect : Word} {far : Option Packet} (h : s.ok) : (armAt s lm home addr core tok expect far).ok := by
  unfold armAt
  split
  · exact h
  · extract_lets -underBinder -merge
    split
    · split
      · exact farWake_ok h
      · exact wakeCore_ok h
    · exact h

theorem waitmOp_ok {s : State} {rd : Reg} {g expect : Word} (h : s.ok) : NextOk (waitmOp s rd g expect) := by
  unfold waitmOp
  extract_lets -underBinder -merge
  split
  · exact h
  · exact setCC_ok h (advance_ok (wx_ok (cc_ok h)))
  · split
    · exact trap_ok h
    · extract_lets -underBinder -merge own1
      unfold own1
      split
      · split
        · exact trap_ok h
        · split
          have h1 := core_snd (freshTok_ok (cc_ok h)) ‹_›
          extract_lets -underBinder -merge _ s1
          have hs1 : s1.ok := armAt_ok (setCC_ok h (outstanding_ok h1))
          split
          · exact setCC_ok hs1 (advance_ok (wx_ok (cc_ok hs1)))
          · exact hs1
      · exact returning_ok h (fun h2 => by
          split
          · exact setCC_ok h2 (advance_ok (wx_ok (cc_ok h2)))
          · split
            · extract_lets -underBinder -merge
              split
              split
              have h3 := core_snd (takeTok_ok (cc_ok h2)) ‹_›
              exact emit_ok (setCC_ok h2 (outstanding_ok h3))
            · exact h2)

end Sys2Proof.Machine
end

section
/-! ### Kept by every step: translation, the walker, and residents read and written by a home (08) -/

namespace Sys2Proof.Machine

theorem paWrite_ok {s : State} {src cid inc pa : Nat} {ws : List Word} (h : s.ok) : (paWrite s src cid inc pa ws).ok :=
  ok_ite (memWrite_ok h) (foldl_ok (fun h1 => emit_ok h1) h)

theorem ringAdd_ok {s : State} {src cid inc : Nat} {base size : Word} {rec : List Word} {rp : Option Nat} (h : s.ok) : (ringAdd s src cid inc base size rec rp).1.ok := by
  unfold ringAdd
  extract_lets -underBinder -merge
  split
  · exact count_ok h
  · split
    · exact count_ok h
    · extract_lets -underBinder -merge
      split
      · split
        · exact count_ok h
        · exact paWrite_ok (paWrite_ok h)
      · exact count_ok (paWrite_ok h)

theorem schedTrap_ok {s : State} {die src cid inc : Nat} {pay : List Word} (h : s.ok) : (schedTrap s die src cid inc pay).ok :=
  emit_ok (freshMsg_ok (drawFree_ok h))

theorem syncHold_ok {s : State} {c : Nat} (h : s.ok) : (syncHold s c).ok :=
  ok_ite h (updCore_ok h (fun h1 => h1))

theorem syncHolds_ok {s : State} {qs : List XReq} (h : s.ok) : (syncHolds s qs).ok :=
  foldl_ok (fun h1 => foldl_ok (fun h2 => syncHold_ok h2) h1) h

theorem unstall_ok {s : State} {q : XReq} {fail : Bool} (h : s.ok) : (unstall s q fail).ok :=
  updCore_ok h (fun h1 => h1)

theorem failReq_ok {s : State} {q : XReq} (h : s.ok) : (failReq s q).ok := by
  unfold failReq
  split
  · exact unstall_ok h
  · split
    · exact updCore_ok h (fun h1 => core_ite h1 h1)
    · exact refuseStore_ok (setCore_ok h (coreOf_ok h))

theorem grantReq_ok {s : State} {q : XReq} {pa : Nat} {unc : Bool} (h : s.ok) : (grantReq s q pa unc).ok := by
  unfold grantReq
  split
  · exact unstall_ok h
  · split
    · exact updCore_ok h (fun h1 => core_ite h1 h1)
    · extract_lets -underBinder -merge _ _ s1
      have hs1 : s1.ok := updCore_ok h (fun h2 => noteStore_ok h2)
      exact emit_ok hs1

theorem holdFault_ok {s : State} {die rtu kind lvl why paddr acc : Nat} {qs : List XReq} (h : s.ok) : (holdFault s die rtu kind lvl why paddr acc qs).ok := by
  unfold holdFault
  split
  · exact h
  · extract_lets -underBinder -merge
    split
    · exact updRtu_ok h
    · extract_lets -underBinder -merge
      split
      · split
        have h1 := ok_fst (ringAdd_ok (updRtu_ok h)) ‹_›
        exact ok_ite (syncHolds_ok h1) (foldl_ok (fun h2 => failReq_ok h2) (updRtu_ok h1))
      · exact syncHolds_ok (schedTrap_ok (updDie_ok (updRtu_ok h)))

theorem joinHeld_ok {s : State} {die rtu : Nat} {f : FSlot} {q : XReq} (h : s.ok) : (joinHeld s die rtu f q).ok :=
  syncHolds_ok (updRtu_ok h)

theorem serveReq_ok {s : State} {die rtu : Nat} {q : XReq} (h : s.ok) : SomeOk (serveReq s die rtu q) := by
  unfold serveReq
  extract_lets -underBinder -merge
  split
  · exact count_ok (updCore_ok h (fun h1 => h1))
  · split
    · exact some_ite (grantReq_ok h) (failReq_ok h)
    · split
      · exact grantReq_ok h
      · split
        · exact joinHeld_ok h
        · exact some_ite (updRtu_ok h) (some_ite trivial (updRtu_ok h))

theorem endWalk_ok {s : State} {die rtu : Nat} {w : Walker} {f : State → XReq → State} (h : s.ok) (hf : ∀ {x0 : State} {x1 : XReq}, x0.ok → (f x0 x1).ok) : (endWalk s die rtu w f).ok := by
  unfold endWalk
  split
  · exact h
  · exact hf (updRtu_ok h)

theorem walkerStep_ok {s : State} {die rtu i : Nat} (h : s.ok) : (walkerStep s die rtu i).ok := by
  unfold walkerStep
  extract_lets -underBinder -merge
  split
  · exact h
  · split
    · exact updRtu_ok h
    · extract_lets -underBinder -merge _ _ at1 _ s1 s2 s3
      have hs2 : s2.ok := foldl_ok (fun h1 => touchLines_ok h1) h
      have hs3 : s3.ok := by
        unfold s3
        unfold s1
        split
        · exact updRtu_ok hs2
        · exact hs2
      split
      · exact updRtu_ok h
      · unfold at1
        split
        · exact updRtu_ok hs3
        · exact endWalk_ok (updRtu_ok (updRtu_ok hs3)) (fun h2 => grantReq_ok h2)
        · exact endWalk_ok (updRtu_ok hs3) (fun h3 => failReq_ok h3)
        · exact endWalk_ok (updRtu_ok hs3) (fun h4 => syncHolds_ok (updRtu_ok h4))
        · exact holdFault_ok (updRtu_ok (updRtu_ok hs3))

theorem resolveSlot_ok {s : State} {die rtu : Nat} {f : FSlot} {fail : Bool} (h : s.ok) : (resolveSlot s die rtu f fail).ok := by
  unfold resolveSlot
  extract_lets -underBinder -merge _ s1 s2
  have hs1 : s1.ok := foldl_ok (fun h1 => unstall_ok h1) (updRtu_ok h)
  have hs2 : s2.ok := ok_ite (foldl_ok (fun h2 => failReq_ok h2) (updRtu_ok h)) (updRtu_ok hs1)
  exact syncHolds_ok hs2

theorem resWrite_ok {s : State} {die : Nat} {cid : Option Nat} {v : Word} (h : s.ok) : (resWrite s die cid v).ok := by
  unfold resWrite
  extract_lets -underBinder -merge
  split
  · exact count_ok h
  · exact ok_ite (count_ok h) (ok_ite (resolveSlot_ok h) (ok_ite (resolveSlot_ok h) h))

theorem engXlate_ok {s : State} {c rtu cid inc va acc tok agent : Nat} {rp : Option Nat} {blk : Nat} (h : s.ok) : (engXlate s c rtu cid inc va acc tok agent rp blk).Ok := by
  unfold engXlate
  extract_lets -underBinder -merge
  split
  · exact EngX.ok_ok
  · exact EngX.stall_ok (updRtu_ok (updCore_ok h (fun h1 => h1)))

end Sys2Proof.Machine
end

section
/-! ### Kept by every step: time passing, thresholds, and registers read and written from outside -/

namespace Sys2Proof.Machine

theorem coreTick_ok {n : Nat} {k : Core} (hk : k.ok) : (coreTick n k).ok :=
  hk

theorem tick_ok {n : Nat} {s : State} (h : s.ok) : (tick n s).ok :=
  mapCores_ok (s := { s with now := s.now + n }) (f := fun _ k => coreTick n k) h fun hk => coreTick_ok hk

theorem rampDown_ok {s : State} {kid : Nat} (h : s.ok) : (rampDown s kid).ok :=
  updDie_ok (updDie_ok h)

theorem execAgeingTick_ok {core slot queue : Nat} {s : State} (h : s.ok) : NextOk (execAgeingTick core slot queue s) := by
  unfold execAgeingTick
  extract_lets -underBinder -merge
  split
  · exact h
  · exact next_ite h (updCore_ok h (fun h1 => updSlot_ok h1))

theorem execWatchdogExpire_ok {core : Nat} {s : State} (h : s.ok) : NextOk (execWatchdogExpire core s) :=
  next_ite (takeTrap_ok h) h

theorem setThr_ok {s : State} {die u : Nat} {t : Thr} (h : s.ok) : (setThr s die u t).ok :=
  updDie_ok h

theorem thrCtl_ok {s : State} {die u : Nat} {v : Word} (h : s.ok) : (thrCtl s die u v).ok :=
  ok_ite (count_ok (setThr_ok h)) (setThr_ok h)

theorem thrWrite_ok {s : State} {die u w : Nat} {v : Word} (h : s.ok) : (thrWrite s die u w v).ok := by
  unfold thrWrite
  extract_lets -underBinder -merge
  split
  · exact thrCtl_ok h
  · exact setThr_ok h
  · exact setThr_ok h
  · exact h

theorem reject_ok {s : State} {die cid : Nat} (h : s.ok) : (reject s die cid).ok :=
  updDie_ok h

theorem submit_ok {s : State} {die cid off : Nat} {data : List Byte} (h : s.ok) : (submit s die cid off data).ok := by
  unfold submit
  extract_lets -underBinder -merge _ s1
  have hs1 : s1.ok := updDie_ok h
  split
  · exact reject_ok h
  · exact hs1

theorem qregWrite_ok {s : State} {die cid i : Nat} {v : Word} (h : s.ok) : (qregWrite s die cid i v).ok :=
  updDie_ok h

theorem peerWrite_ok {s : State} {die cid i w : Nat} {v : Word} (h : s.ok) : (peerWrite s die cid i w v).ok :=
  updDie_ok h

theorem regRead_ok {s : State} {die off n : Nat} (h : s.ok) : (regRead s die off n).2.ok := by
  unfold regRead
  split
  · exact snd_ite h (snd_ite (count_ok h) (snd_ite (updDie_ok h) h))
  · split
    · exact count_ok h
    · split
      · exact h
      · exact h
      · exact h
      · exact h
      · exact h
      · exact h
      · exact h
      · exact count_ok h

theorem regWrite_ok {s : State} {die off n : Nat} {v : Word} (h : s.ok) : (regWrite s die off n v).ok := by
  unfold regWrite
  split
  · exact ok_ite (submit_ok h) (ok_ite (count_ok h) h)
  · split
    · exact count_ok h
    · split
      · exact h
      · exact h
      · exact h
      · exact thrWrite_ok h
      · exact ok_ite (resWrite_ok h) h
      · exact qregWrite_ok h
      · exact peerWrite_ok h
      · exact count_ok h

theorem setMig_ok {s : State} {die n : Nat} {w : MigWin} (h : s.ok) : (setMig s die n w).ok :=
  updDie_ok h

theorem migRelease_ok {s : State} {die n : Nat} (h : s.ok) : (migRelease s die n).ok := by
  unfold migRelease
  extract_lets -underBinder -merge
  split
  extract_lets -underBinder -merge _ _ _ _ _ s1
  have hs1 : s1.ok := updDie_ok (updDie_ok (setMig_ok h))
  exact foldl_ok (fun h1 => emit_ok h1) hs1

theorem migWrite0_ok {s : State} {die n : Nat} {v : Word} (h : s.ok) : (migWrite0 s die n v).ok := by
  unfold migWrite0
  extract_lets -underBinder -merge _ st1
  split
  unfold st1
  split
  · exact ok_ite h (ok_ite (setMig_ok h) (setMig_ok h))
  · exact h
  · exact setMig_ok (migRelease_ok h)

theorem migWrite1_ok {s : State} {die n : Nat} {v : Word} (h : s.ok) : (migWrite1 s die n v).ok :=
  setMig_ok h

theorem mbBump_ok {s : State} {c slot n : Nat} {err : Bool} (h : s.ok) : (mbBump s c slot n err).ok :=
  ok_ite h (updCore_ok h (fun h1 => updSlot_ok h1))

end Sys2Proof.Machine
end

section
/-! ### Kept by every step: CSR, queue, stream and message forms, EXIT, the barriers and the launches at issue (12, 20) -/

namespace Sys2Proof.Machine

theorem onSlot_ok {s : State} {f : Slot → Slot} (h : s.ok) : (onSlot s f).ok :=
  setCC_ok h (updSlot_ok (cc_ok h))

theorem onDie_ok {s : State} {f : Die → Die} (h : s.ok) : (onDie s f).ok :=
  updDie_ok h

theorem csrSet_ok {s : State} {n : Nat} {v : Word} {w1c : Bool} (h : s.ok) : NextOk (csrSet s n v w1c) := by
  unfold csrSet
  extract_lets -underBinder -merge
  split
  · exact next_ite (ill_ok h) (done_ok (setCC_ok h (cc_ok h)) (fun h1 => h1))
  · exact next_ite (done_ok (setCC_ok h (cc_ok h)) (fun h2 => h2)) (ill_ok h)
  · exact next_ite (done_ok (setCC_ok h (cc_ok h)) (fun h3 => h3)) (ill_ok h)
  · exact next_ite (done_ok (setCC_ok h (cc_ok h)) (fun h4 => h4)) (ill_ok h)
  · exact next_ite (ill_ok h) (done_ok (setCC_ok h (cc_ok h)) (fun h5 => h5))
  · exact next_ite (done_ok (onSlot_ok h) (fun h6 => h6)) (ill_ok h)
  · exact done_ok (onSlot_ok h) (fun h7 => h7)
  · exact done_ok (setCC_ok h (cc_ok h)) (fun h8 => h8)
  · exact done_ok (onDie_ok h) (fun h9 => h9)
  · exact done_ok (onDie_ok h) (fun h10 => h10)
  · exact next_ite (done_ok h (fun h11 => h11)) (done_ok h (fun h12 => h12))
  · exact done_ok (resWrite_ok h) (fun h13 => h13)
  · exact done_ok (onDie_ok h) (fun h14 => h14)
  · exact done_ok (onDie_ok h) (fun h15 => h15)
  · exact done_ok (onDie_ok h) (fun h16 => h16)
  · exact next_ite (done_ok (onSlot_ok h) (fun h17 => h17)) (next_ite (done_ok (onSlot_ok h) (fun h18 => h18)) (next_ite (done_ok (migWrite0_ok h) (fun h19 => h19)) (next_ite (done_ok (migWrite1_ok h) (fun h20 => h20)) (ill_ok h))))

theorem qPop_ok {s : State} {rd : Reg} {i : Nat} (h : s.ok) : NextOk (qPop s rd i) := by
  unfold qPop
  split
  · exact h
  · exact next_ite (sealCore_ok h) (done_ok h (fun h1 => wx_ok (popQ_ok h1)))

theorem qPush_ok {s : State} {i : Nat} {v : Word} (h : s.ok) : NextOk (qPush s i v) :=
  next_ite h (done_ok h (fun h1 => setQreg_ok h1))

theorem notHeld_ok {s : State} (h : s.ok) : NextOk (notHeld s) :=
  trap_ok h

theorem streamPop_ok {s : State} {rd : Reg} {i : Nat} (h : s.ok) : NextOk (streamPop s rd i) := by
  unfold streamPop
  extract_lets -underBinder -merge
  split
  · exact trap_ok h
  · split
    · exact notHeld_ok h
    · exact next_ite (next_ite (sealCore_ok h) (writeX_ok (updEnd_ok h))) (next_ite (writeX_ok h) h)

theorem coalesce_ok {k k' : Core} {key : EndKey} {v : Word} {bad : Bool} (hk : k.ok) (h : coalesce k key v bad = some k') : k'.ok := by
  unfold coalesce at h
  split at h
  · split at h
    · dsimp only at h
      split at h
      · rw [← Option.some.inj h]
        exact hk
      · cases h
    · cases h
  · cases h

theorem pushItem_ok {s : State} {key : EndKey} {v : Word} {bad : Bool} (h : s.ok) : NextOk (pushItem s key v bad) := by
  unfold pushItem
  split
  · exact setCC_ok h (advance_ok (coalesce_ok (cc_ok h) ‹_›))
  · exact buffer_ok h (fun h1 => h1)

theorem streamPush_ok {s : State} {i : Nat} {v : Word} {bad : Bool} (h : s.ok) : NextOk (streamPush s i v bad) := by
  unfold streamPush
  extract_lets -underBinder -merge
  split
  · exact trap_ok h
  · split
    · exact notHeld_ok h
    · exact pushItem_ok h

theorem csrRead_ok {s : State} {rd : Reg} {n : Nat} (h : s.ok) : NextOk (csrRead s rd n) :=
  next_ite (ill_ok h) (next_ite (trap_ok h) (next_ite (qPop_ok h) (next_ite (streamPop_ok h) (writeX_ok (ok_ite h h)))))

theorem csrWrite_ok {s : State} {n : Nat} {v : Word} {bad : Bool} (h : s.ok) : NextOk (csrWrite s n v bad) := by
  unfold csrWrite
  split
  · exact trap_ok h
  · exact next_ite (qPush_ok h) (next_ite (streamPush_ok h) (csrSet_ok h))

theorem csrBits_ok {s : State} {n : Nat} {v : Word} {set : Bool} (h : s.ok) : NextOk (csrBits s n v set) := by
  unfold csrBits
  split
  · exact trap_ok h
  · exact csrSet_ok h

theorem execRta_ok {s : State} (h : s.ok) : NextOk (execRta s) :=
  next_ite (setCC_ok h (returnTrap_ok (cc_ok h))) (ill_ok h)

theorem guardTrap_ok {s : State} {f : Option (Nat × Word)} {cont : Out} (h : s.ok) (hcont : NextOk cont) : NextOk (guardTrap s f cont) := by
  unfold guardTrap
  split
  · exact trap_ok h
  · exact hcont

theorem noPair_ok {s : State} {cont : Out} (h : s.ok) (hcont : NextOk cont) : NextOk (noPair s cont) :=
  next_ite (trap_ok h) hcont

theorem execSend_ok {xw xa xl : Reg} {s : State} (h : s.ok) : NextOk (execSend xw xa xl s) :=
  next_ite (ill_ok h) (guardTrap_ok h (rowFirst_ok h (buffer_ok h (fun h1 => h1))))

theorem execSendnz_ok {xw xa xn : Reg} {es : BitVec 2} {flt : BitVec 1} {s : State} (h : s.ok) : NextOk (execSendnz xw xa xn es flt s) :=
  next_ite (ill_ok h) (next_ite (trap_ok h) (guardTrap_ok h (rowFirst_ok h (buffer_ok h (fun h1 => h1)))))

theorem pushMany_ok {key : EndKey} {bad : Bool} {k : Core} {l : List (Nat × Word)} (hk : k.ok) : (pushMany key bad k l).1.ok := by
  induction l generalizing k with
  | nil => exact hk
  | cons x l ih =>
    unfold pushMany
    split
    · exact ih (coalesce_ok hk ‹_›)
    · split
      · exact ih hk
      · exact hk

theorem execSendnzStream_ok {sn : BitVec 4} {xa xn : Reg} {es : BitVec 2} {flt : BitVec 1} {s : State} (h : s.ok) : NextOk (execSendnzStream sn xa xn es flt s) :=
  next_ite (ill_ok h) (noPair_ok h (next_ite (trap_ok h) (guardTrap_ok h (rowFirst_ok h (by
    split
    · exact notHeld_ok h
    · split
      · exact h
      · split
        extract_lets -underBinder -merge
        split
        have h1 := core_fst (pushMany_ok (k := { cc s with wait := .idle }) (cc_ok h)) ‹_›
        split
        · exact setCC_ok h (advance_ok h1)
        · extract_lets -underBinder -merge s1
          have hs1 : s1.ok := beginFlush_ok (setCC_ok h h1)
          exact setCC_ok hs1 (cc_ok hs1))))))

theorem withHandle_ok {s : State} {xh : Reg} {states : Nat → List Nat} {cont : Word → Word → EndRec → Out} (h : s.ok) (hcont : ∀ {x0 : Word} {x1 : Word} {x2 : EndRec}, NextOk (cont x0 x1 x2)) : NextOk (withHandle s xh states cont) :=
  next_ite (trap_ok h) (guardTrap_ok h (rowFirst_ok h (by
    split
    split
    · exact sealCore_ok h
    · extract_lets -underBinder -merge
      split
      split
      · exact trap_ok h
      · exact next_ite hcont (trap_ok h))))

theorem pendEnd_ok {key : EndKey} {k : Core} (hk : k.ok) : (pendEnd key k).ok :=
  hk

theorem execSendh_ok {rd xw xh : Reg} {s : State} (h : s.ok) : NextOk (execSendh rd xw xh s) :=
  next_ite (ill_ok h) (noPair_ok h (withHandle_ok h (next_ite (writeX_ok h) (buffer_ok h (fun h1 => wx_ok (unbind_ok (pendEnd_ok h1)))))))

theorem countSetting_ok {k : Core} (hk : k.ok) : (countSetting k).ok :=
  core_ite hk hk

theorem execStrnew_ok {rd xs xb : Reg} {s : State} (h : s.ok) : NextOk (execStrnew rd xs xb s) :=
  noPair_ok h (next_ite (trap_ok h) (guardTrap_ok h (next_ite (writeX_ok h) (next_ite (writeX_ok h) (next_ite (writeX_ok h) (done_ok (lmWrite_ok (updCtx_ok h)) (fun h1 => wx_ok (countSetting_ok h1))))))))

theorem bindEnd_ok {k : Core} {target : Nat} {key : EndKey} (hk : k.ok) : (bindEnd k target key).ok := by
  have hfree := unbind_ok (key := key) hk
  unfold bindEnd
  generalize unbind k key = free at hfree ⊢
  dsimp only
  split
  · exact hfree
  · exact (core_ok_iff _).mpr ((core_ok_iff free).mp hfree)

theorem execStrbind_ok {rd xh xw : Reg} {s : State} (h : s.ok) : NextOk (execStrbind rd xh xw s) :=
  noPair_ok h (withHandle_ok h (@fun _ _ _ => by
    extract_lets -underBinder -merge _ _ _ _ s1 _ _ s2 s3
    have hs1 : s1.ok := setCC_ok h (bindEnd_ok (cc_ok h))
    have hs2 : s2.ok := setCC_ok (updEnd_ok hs1) (countSetting_ok (cc_ok (updEnd_ok hs1)))
    have hs3 : s3.ok := by
      unfold s3
      split
      · exact replayEnd_ok hs2
      · exact hs2
    exact next_ite (writeX_ok h) (next_ite (writeX_ok h) (next_ite (writeX_ok (tryEos_ok hs3)) (writeX_ok hs1)))))

theorem execStrunb_ok {rd xh : Reg} {s : State} (h : s.ok) : NextOk (execStrunb rd xh s) :=
  noPair_ok h (withHandle_ok h (done_ok h (fun h1 => wx_ok (unbind_ok h1))))

theorem execStreos_ok {rd xh xv : Reg} {s : State} (h : s.ok) : NextOk (execStreos rd xh xv s) :=
  noPair_ok h (withHandle_ok h (next_ite (writeX_ok h) (next_ite (writeX_ok (freeEnd_ok h)) (buffer_ok h (fun h1 => wx_ok (pendEnd_ok h1))))))

theorem execStrstat_ok {rd xh : Reg} {s : State} (h : s.ok) : NextOk (execStrstat rd xh s) :=
  noPair_ok h (withHandle_ok h (writeX_ok h))

theorem execExit_ok {s : State} (h : s.ok) : NextOk (execExit s) := by
  unfold execExit
  extract_lets -underBinder -merge
  split
  · exact h
  · exact next_ite h (afterFlush_ok h (fun h1 => by
      split
      · exact ok_ite h1 (updCore_ok (finishAct_ok h1) (fun h2 => clearRun_ok h2))
      · exact finishAct_ok h1
      · exact h1))

theorem successor_ok {s : State} {a : Act} {w p : Word} (h : s.ok) : (successor s a w p).2.ok :=
  freshMsg_ok h

theorem execExitS_ok {xw xp : Reg} {s : State} (h : s.ok) : NextOk (execExitS xw xp s) := by
  unfold execExitS
  extract_lets -underBinder -merge
  split
  · exact h
  · exact next_ite (ill_ok h) (guardTrap_ok h (next_ite h (afterFlush_ok h (fun h1 => by
      split
      · exact h1
      · split
        · exact h1
        · split
          have h2 := ok_snd (successor_ok h1) ‹_›
          extract_lets -underBinder -merge _ s1 s2
          have hs1 : s1.ok := setCC_ok h2 (clearRun_ok (cc_ok h2))
          have hs2 : s2.ok := updCore_ok hs1 (fun h3 => (clearRun_ok h3))
          exact ok_ite (linkPair_ok (startSucc_ok (startSucc_ok hs2))) hs2
      · extract_lets -underBinder -merge _ _ s3
        have hs3 : s3.ok := setCC_ok (credits_ok h1) (cc_ok (credits_ok h1))
        split
        have h4 := ok_snd (successor_ok (releaseEos_ok hs3)) ‹_›
        extract_lets -underBinder -merge src1
        have hsrc1 : src1.ok := clearRun_ok (settleLoop_ok (cc_ok h4))
        exact ok_ite (startSucc_ok (setCC_ok h4 hsrc1)) (setCC_ok h4 hsrc1)))))

theorem arrive_ok {s : State} {gid c : Nat} (h : s.ok) : (arrive s gid c).ok :=
  h

theorem barrier_ok {s : State} {rd : Reg} {crew wait : Bool} (h : s.ok) : NextOk (barrier s rd crew wait) := by
  unfold barrier
  split
  · split
    · exact setCC_ok h (advance_ok (wx_ok (cc_ok h)))
    · exact next_ite h (setCC_ok h (advance_ok (wx_ok (cc_ok h))))
  · split
    · exact ill_ok h
    · exact afterFlush_ok h (fun h1 => by
        split
        · exact ill_ok h1
        · exact next_ite (setCC_ok (arrive_ok h1) (cc_ok (arrive_ok h1))) (writeX_ok (arrive_ok h1)))

theorem phaseDist_ok {s : State} {rd xp : Reg} {crew : Bool} (h : s.ok) : NextOk (phaseDist s rd xp crew) := by
  unfold phaseDist
  split <;> exact writeX_ok h

theorem execBarTP_ok {rd xp : Reg} {s : State} (h : s.ok) : NextOk (execBarTP rd xp s) := by
  unfold execBarTP
  split <;> exact writeX_ok h

theorem execLaunch_ok {xw xm xa : Reg} {n : BitVec 9} {s : State} (h : s.ok) : NextOk (execLaunch xw xm xa n s) :=
  next_ite (ill_ok h) (guardTrap_ok h (rowFirst_ok h (buffer_ok h (fun h1 => h1))))

theorem execKsub_ok {rd xa xd : Reg} {s : State} (h : s.ok) : NextOk (execKsub rd xa xd s) :=
  next_ite (ill_ok h) (next_ite (trap_ok h) (guardTrap_ok h (rowFirst_ok h (bufferT_ok h (fun h1 => pendReg_ok h1)))))

theorem execDspn_ok {xw xe xa : Reg} {n : BitVec 6} {s : State} (h : s.ok) : NextOk (execDspn xw xe xa n s) :=
  next_ite (ill_ok h) (guardTrap_ok h (rowFirst_ok h (buffer_ok h (fun h1 => h1))))

theorem execAdjreg_ok {rd xn xr : Reg} {s : State} (h : s.ok) : NextOk (execAdjreg rd xn xr s) :=
  next_ite (writeX_ok h) (emit_ok (setCC_ok h (advance_ok (pendReg_ok (freshTok_ok (cc_ok h))))))

theorem execJcan_ok {rd xj : Reg} {s : State} (h : s.ok) : NextOk (execJcan rd xj s) :=
  next_ite (ill_ok h) (bufferT_ok h (fun h1 => pendReg_ok h1))

end Sys2Proof.Machine
end

section
/-! ### Kept by every step: what leaves a core: items, messages, the flush and its acknowledgements (09, 10) -/

namespace Sys2Proof.Machine

theorem shareAns_ok {s : State} {t own other : Nat} (h : s.ok) : (shareAns s t own other).ok :=
  updCore_ok h (fun h1 => h1)

theorem pairCheck_ok {s : State} {c : Nat} (h : s.ok) : (pairCheck s c).Ok := by
  unfold pairCheck
  extract_lets -underBinder -merge
  split
  · exact PairR.go_ok h
  · split
    · exact PairR.waits_ok
    · split
      · exact PairR.go_ok h
      · extract_lets -underBinder -merge _ s1 s2
        have hs1 : s1.ok := foldl_ok (fun h1 => by
          split
          · exact shareAns_ok h1
          · exact h1) h
        have hs2 : s2.ok := updCore_ok hs1 (fun h2 => (clearRestart_ok h2))
        exact PairR.ite PairR.waits_ok (PairR.ite (PairR.ended_ok (abortWith_ok h)) (PairR.go_ok (flushReports_ok (updCore_ok hs2 (fun h3 => h3)))))

theorem sendTracked_ok {s : State} {c cid rank : Nat} {p : Packet} {msgid : Nat} (h : s.ok) : SomeOk (sendTracked s c cid rank p msgid) := by
  unfold sendTracked
  extract_lets -underBinder -merge
  split
  · exact trivial
  · have h1 := (sendRank_ok h).get ‹_›
    exact some_ite h1 (updCore_ok h1 (fun h2 => h2))

theorem sendAgent_ok {s : State} {c : Nat} {p : Packet} {msgid : Nat} (h : s.ok) : SomeOk (sendAgent s c p msgid) :=
  some_ite (updCore_ok (emit_ok h) (fun h1 => unacked_ok h1)) trivial

theorem dropForeign_ok {s : State} {c cid inc own kid mine dropped : Nat} (h : s.ok) : (dropForeign s c cid inc own kid mine dropped).ok :=
  report_ok (refused_ok h)

theorem leaveMsg_ok {s : State} {c : Nat} {hd : MsgHdr} {body : MsgHdr → Body} {op n tok : Nat} {bad : Bool} (h : s.ok) : SomeOk (leaveMsg s c hd body op n tok bad) :=
  some_ite (dropForeign_ok (freshMsg_ok h)) (sendTracked_ok (freshMsg_ok h))

theorem leaveCopies_ok {hd : MsgHdr} {all : Nat} {pay : List Byte} {poison : Bool} {tok c : Nat} {l : List Nat} {s : State} (h : s.ok) :
    (leaveCopies hd all pay poison tok c l s).2.ok := by
  induction l generalizing s with
  | nil => exact h
  | cons i l ih =>
    unfold leaveCopies
    split
    extract_lets -underBinder -merge
    split
    · exact ih h
    · split
      · exact ih ((leaveMsg_ok h).get ‹_›)
      · exact h

theorem leaveChips_ok {hd : MsgHdr} {pay : List Byte} {poison : Bool} {tok c : Nat} {l : List (Nat × List Nat)} {s : State} (h : s.ok) :
    SomeOk (leaveChips hd pay poison tok c l s) := by
  induction l generalizing s with
  | nil => exact h
  | cons x l ih =>
    unfold leaveChips
    extract_lets -underBinder -merge
    exact some_ite (ih (updCore_ok (emit_ok h) fun hk => hk)) trivial

theorem forwardItems_ok {s : State} {c : Nat} {e : EndRec} {rank n seq : Nat} (h : s.ok) : (forwardItems s c e rank n seq).ok := by
  induction n generalizing s seq with
  | zero => exact h
  | succ n ih => exact ok_ite h (ih (sendRank'_ok h))

theorem forwardHeld_ok {s : State} {c : Nat} {e : EndRec} {rank : Nat} (h : s.ok) : (forwardHeld s c e rank).ok := by
  unfold forwardHeld
  extract_lets -underBinder -merge _ _ s1 s2
  have hs1 : s1.ok := foldl_ok (fun h1 => sendRank'_ok h1) h
  have hs2 : s2.ok := by
    unfold s2
    split
    · exact sendRank'_ok hs1
    · exact hs1
  exact foldl_ok (fun h2 => sendRank'_ok h2) hs2

theorem leaveHandle_ok {s : State} {c : Nat} {hd : MsgHdr} {h1 h2 : Word} {key : EndKey} {tok : Nat} {bad : Bool} (h : s.ok) : SomeOk (leaveHandle s c hd h1 h2 key tok bad) := by
  unfold leaveHandle
  extract_lets -underBinder -merge
  split
  · exact h
  · split
    extract_lets -underBinder -merge
    split
    split
    · exact (leaveMsg_ok h).map fun h3 => unpend_ok h3
    · split
      split
      · exact trivial
      · have h3 := (leaveMsg_ok h).get ‹_›
        extract_lets -underBinder -merge _ s1 _ s2 s3
        have hs1 : s1.ok := updCore_ok h3 (fun h4 => putEnd_ok h4)
        have hs2 : s2.ok := ok_ite (forwardItems_ok (ok_ite (unset_ok hs1) hs1)) (ok_ite (unset_ok hs1) hs1)
        have hs3 : s3.ok := replayEnd_ok (forwardHeld_ok hs2)
        exact sendRank'_ok hs3

theorem dropStream_ok {s : State} {c sid : Nat} (h : s.ok) : (dropStream s c sid).ok :=
  refused_ok h

theorem leaveEos_ok {s : State} {c : Nat} {key : EndKey} {value tok : Nat} {bad : Bool} (h : s.ok) : SomeOk (leaveEos s c key value tok bad) := by
  unfold leaveEos
  split
  · exact h
  · split
    · exact killEnd_ok h
    · split
      · exact freeEnd_ok h
      · split
        · exact unpend_ok (dropStream_ok h)
        · extract_lets -underBinder -merge
          split
          · exact trivial
          · have h1 := (sendTracked_ok h).get ‹_›
            exact foldl_ok (fun h2 => strmAt_ok h2) (updEnd_ok h1)

theorem leavePush_ok {s : State} {c : Nat} {key : EndKey} {items : List Word} {poison : Bool} {tok : Nat} (h : s.ok) : SomeSndOk (leavePush s c key items poison tok) := by
  unfold leavePush
  split
  · exact h
  · split
    · exact h
    · extract_lets -underBinder -merge
      split
      · exact someSnd_ite h trivial
      · split
        · exact dropStream_ok h
        · split
          · exact trivial
          · have h1 := (sendTracked_ok h).get ‹_›
            exact updEnd_ok h1

theorem sbHead_ok {s : State} {c : Nat} {rest : Option SbEntry} (h : s.ok) : (sbHead s c rest).ok :=
  updCore_ok h (fun h1 => h1)

theorem endFlush_ok {s : State} {c : Nat} (h : s.ok) : (endFlush s c).ok :=
  updCore_ok h (fun h1 => core_ite h1 h1)

theorem leaveEntry_ok {s : State} {c : Nat} {e : SbEntry} (h : s.ok) : SomeSndOk (leaveEntry s c e) := by
  unfold leaveEntry
  extract_lets -underBinder -merge
  split
  extract_lets -underBinder -merge
  split
  · exact (leaveMsg_ok h).mapSnd fun h1 => h1
  · exact (leaveHandle_ok h).mapSnd fun h1 => h1
  · extract_lets -underBinder -merge
    split
    · exact trivial
    · have h1 := (leaveChips_ok h).get ‹_›
      extract_lets -underBinder -merge
      split <;> exact ok_snd (leaveCopies_ok h1) ‹_›
  · exact (sendAgent_ok h).mapSnd fun h1 => h1
  · exact (sendAgent_ok h).mapSnd fun h1 => h1
  · split
    have h1 := ok_snd (freshMsg_ok h) ‹_›
    extract_lets -underBinder -merge
    refine someSnd_ite trivial ((sendAgent_ok h1).mapSnd fun h2 => ?_)
    split
    · exact updCore_ok h2 fun hk => hk
    · exact h2
  · exact (sendAgent_ok h).mapSnd fun h1 => h1
  · exact (storeOut_ok h).mapSnd fun h1 => h1
  · exact (storeOut_ok h).mapSnd fun h1 => h1
  · exact (leaveEos_ok h).mapSnd fun h1 => h1
  · split
    · exact trivial
    · exact (leavePush_ok h).get ‹_›
    · exact (leavePush_ok h).get ‹_›
  · exact h

theorem execLeave_ok {core : Nat} {s : State} (h : s.ok) : NextOk (execLeave core s) := by
  unfold execLeave
  extract_lets -underBinder -merge
  split
  · exact h
  · split
    · exact h
    · exact (pairCheck_ok h).ended ‹_›
    · have hgo := (pairCheck_ok h).go ‹_›
      extract_lets -underBinder -merge
      split
      · exact hgo
      · split
        · exact endFlush_ok (updCore_ok hgo (fun h1 => h1))
        · split
          split
          · exact endFlush_ok (staleAt_ok (sbHead_ok hgo))
          · split
            · exact hgo
            · split
              · exact endFlush_ok (sbHead_ok (updCore_ok hgo (fun h2 => h2)))
              · split
                have h3 := ok_snd (inject_ok hgo) ‹_›
                split
                · exact hgo
                · have h4 := (leaveEntry_ok h3).get ‹_›
                  exact endFlush_ok (sbHead_ok h4)

theorem execAck_ok {core tok : Nat} {s : State} (h : s.ok) : NextOk (execAck core tok s) := by
  unfold execAck
  extract_lets -underBinder -merge
  split
  · exact h
  · exact setCore_ok h (coreOf_ok h)

end Sys2Proof.Machine
end

section
/-! ### Kept by every step: what a home applies and what returns to its core (09) -/

namespace Sys2Proof.Machine

theorem engAnswer_ok {s : State} {a1 : Body} (h : s.ok) : (engAnswer s a1).ok := by
  unfold engAnswer
  split
  · exact ok_ite (engGot_ok h) h
  · exact ok_ite (engLost_ok h) h
  · exact h

theorem respond_ok {s : State} {p : Packet} {op : Nat} {body : Body} (h : s.ok) : (respond s p op body).ok :=
  ok_ite (engAnswer_ok h) (emit_ok h)

theorem statusTo_ok {s : State} {p : Packet} {tok cause : Nat} (h : s.ok) : (statusTo s p tok cause).ok :=
  respond_ok h

theorem redWordAt_ok {s : State} {c a op typ : Nat} {rmode : Word} {vals : List Nat} {full : Bool} (h : s.ok) : (redWordAt s c a op typ rmode vals full).ok :=
  ok_ite (ok_ite h (sealCore_ok h)) (lmWriteFull_ok h)

theorem niDo_ok {s : State} {c : Nat} {p : Packet} {bad : Bool} (h : s.ok) : (niDo s c p bad).ok := by
  unfold niDo
  extract_lets -underBinder -merge
  split
  · exact respond_ok (ok_ite (lmPoison_ok h) h)
  · exact respond_ok (ok_ite (lmPoison_ok h) h)
  · exact ok_ite (lmPoison_ok (lmWriteFull_ok h)) (lmWriteFull_ok h)
  · exact ok_ite (respond_ok (feSet_ok h)) (ok_ite (statusTo_ok h) (ok_ite (respond_ok (ok_ite (lmPoison_ok h) h)) (respond_ok (ok_ite (feSet_ok (ok_ite (lmPoison_ok h) h)) (ok_ite (lmPoison_ok h) h)))))
  · exact ok_ite (lmPoison_ok (lmWriteFull_ok h)) (lmWriteFull_ok h)
  · exact ok_ite (lmPoison_ok (lmWrite_ok h)) (lmWrite_ok h)
  · exact ok_ite (lmPoison_ok (lmWriteFull_ok h)) (lmWriteFull_ok h)
  · exact respond_ok (ok_ite (lmPoison_ok h) h)
  · exact redWordAt_ok (ok_ite (lmPoison_ok h) h)
  · extract_lets -underBinder -merge _ _ s1
    have hs1 : s1.ok := lmWrite_ok (ok_ite (lmPoison_ok h) h)
    exact ok_ite (respond_ok (ok_ite (lmPoison_ok h) h)) (respond_ok hs1)
  · exact statusTo_ok h
  · exact ok_ite (armAt_ok h) (armAt_ok h)
  · exact h

theorem refuse_ok {s : State} {p : Packet} {cause : Nat} (h : s.ok) : (refuse s p cause).ok := by
  unfold refuse
  extract_lets -underBinder -merge
  split
  · exact redWordDone_ok h
  · split
    · split
      · exact engLost_ok h
      · exact engDone_ok h
    · exact ok_ite (markApplied_ok h) (statusTo_ok h)

theorem niApply_ok {s : State} {c : Nat} {p : Packet} (h : s.ok) : (niApply s c p).ok := by
  unfold niApply
  split
  have h1 := ok_snd (inject_ok h) ‹_›
  extract_lets -underBinder -merge
  split
  · exact ok_ite (refuse_ok h1) (ok_ite (markApplied_ok (niDo_ok h1)) (niDo_ok h1))
  · split
    extract_lets -underBinder -merge
    split
    · exact refuse_ok h1
    · exact ok_ite (markApplied_ok (niDo_ok h1)) (niDo_ok h1)

theorem hinsGo_wf {m : Memory} {base : Nat} {newer : Bool} {key data : Word} {n i : Nat} (hm : Memory.wf m = true) :
    Memory.wf (hinsGo m base newer key data n i).1 = true := by
  induction n generalizing i with
  | zero => exact hm
  | succ n ih =>
    unfold hinsGo
    extract_lets -underBinder -merge
    split
    · exact wrLE_wf _ _ _ _ (wrLE_wf _ _ _ _ hm)
    · split
      · split
        · exact wrLE_wf _ _ _ _ hm
        · exact hm
      · exact ih

theorem memDo_ok {s : State} {p : Packet} {bad : Bool} (h : s.ok) : (memDo s p bad).ok := by
  have hbad : ∀ {a n : Nat}, (if bad then memPoisonAdd s a n else s).ok := ok_ite (memPoisonAdd_ok h) h
  unfold memDo
  split
  · exact respond_ok hbad
  · exact ok_ite (memPoisonAdd_ok (memWrite_ok h)) (memWrite_ok h)
  · exact ok_ite (memPoisonAdd_ok (memWrite_ok h)) (memWrite_ok h)
  · exact ok_ite (memPoisonAdd_ok (memWrite_ok h)) (memWrite_ok h)
  · exact respond_ok hbad
  · exact ok_ite (respond_ok hbad) (respond_ok (memWrite_ok hbad))
  · extract_lets -underBinder -merge s1
    have hs1 : s1.ok := hbad
    split
    · exact respond_ok hs1
    · split
      next m r heq =>
        have hm : Memory.wf (m, r).1 = true := heq ▸ hinsGo_wf (mem_wf hs1)
        exact respond_ok (wakeAll_ok (setMem_ok hs1 hm))
  · exact ok_ite (armAt_ok h) (armAt_ok h)
  · exact h

theorem sliceApply_ok {s : State} {p : Packet} (h : s.ok) : SomeOk (sliceApply s p) := by
  unfold sliceApply
  split
  extract_lets -underBinder -merge _ hold1
  unfold hold1
  split
  · exact some_ite trivial (setMig_ok h)
  · extract_lets -underBinder -merge
    split
    have h1 := ok_snd (inject_ok (touchLines_ok h)) ‹_›
    split
    have h2 := ok_snd (snd_ite (inject_ok h1) h1) ‹_›
    extract_lets -underBinder -merge s1
    have hs1 : s1.ok := ok_ite (memPoisonAdd_ok h2) h2
    exact ok_ite (markApplied_ok (memDo_ok hs1)) (memDo_ok hs1)

theorem regApply_ok {s : State} {p : Packet} (h : s.ok) : (regApply s p).ok := by
  unfold regApply
  extract_lets -underBinder -merge
  split
  · exact respond_ok (regRead_ok h)
  · exact markApplied_ok (regWrite_ok h)
  · exact markApplied_ok (count_ok h)
  · exact markApplied_ok (regWrite_ok h)
  · exact respond_ok (regRead_ok h)
  · exact statusTo_ok h
  · exact statusTo_ok h
  · exact respond_ok h
  · exact h

theorem hostApply_ok {s : State} {p : Packet} (h : s.ok) : (hostApply s p).ok := by
  unfold hostApply
  split
  · exact ok_ite (memDo_ok h) (statusTo_ok h)
  · exact statusTo_ok h
  · exact respond_ok h
  · exact ok_ite (markApplied_ok (memDo_ok h)) (memDo_ok h)

theorem forwardTo_ok {s : State} {src cid rank : Nat} {p : Packet} (h : s.ok) : (forwardTo s src cid rank p).ok := by
  unfold forwardTo
  extract_lets -underBinder -merge
  split
  · exact emit_ok h
  · exact ok_ite (failMsg_ok h) (count_ok h)
  · exact emit_ok h

theorem handleDead_ok {s : State} {at_ : Nat} {p : Packet} {cause : Nat} (h : s.ok) : (handleDead s at_ p cause).ok := by
  unfold handleDead
  split
  · exact forwardTo_ok h
  · exact h

theorem staleDrop_ok {s : State} {p : Packet} (h : s.ok) : (staleDrop s p).ok := by
  unfold staleDrop
  extract_lets -underBinder -merge _ s1
  have hs1 : s1.ok := ok_ite (staleAt_ok (handleDead_ok h)) (count_ok (handleDead_ok h))
  exact ok_ite hs1 (ok_ite (ok_ite (engLost_ok hs1) (ok_ite (updCore_ok hs1 (fun h1 => h1)) hs1)) (markApplied_ok hs1))

theorem execApplyStep_ok {src dst cls : Nat} {s : State} (h : s.ok) : NextOk (execApplyStep src dst cls s) := by
  unfold execApplyStep
  split
  · exact h
  · split
    · exact h
    · split
      · exact h
      · exact h
      · exact h
      · extract_lets -underBinder -merge
        split
        · exact staleDrop_ok (chanPop_ok h)
        · split
          · exact niApply_ok (chanPop_ok h)
          · split
            · split
              · exact (sliceApply_ok (chanPop_ok h)).get ‹_›
              · exact h
            · exact next_ite (hostApply_ok (chanPop_ok h)) (next_ite (regApply_ok (chanPop_ok h)) h)

theorem deliver_ok {s : State} {c tok : Nat} {v : Word} (h : s.ok) : (deliver s c tok v).ok := by
  unfold deliver
  extract_lets -underBinder -merge _ t1 s1
  have hs1 : s1.ok := updCore_ok h (fun h1 => by
    split
    · exact wx_ok h1
    · exact h1)
  unfold t1
  split
  · exact updCore_ok hs1 (fun h2 => by
      split
      · exact wx_ok h2
      · exact h2)
  · exact hs1

theorem answerTo_ok {s : State} {c tok : Nat} {v : Word} {poison : Bool} (h : s.ok) : (answerTo s c tok v poison).ok := by
  unfold answerTo
  extract_lets -underBinder -merge
  split
  · exact deliver_ok h
  · extract_lets -underBinder -merge
    split
    · exact (setCore_ok h (coreOf_ok h))
    · split
      · exact updCore_ok (setCore_ok h (coreOf_ok h)) (fun h1 => core_ite h1 h1)
      · exact updCore_ok (setCore_ok h (coreOf_ok h)) (fun h2 => h2)
      · exact ok_ite (sealCore_ok (setCore_ok h (coreOf_ok h))) (deliver_ok (setCore_ok h (coreOf_ok h)))
      · exact ok_ite (sealCore_ok (setCore_ok h (coreOf_ok h))) (deliver_ok (setCore_ok h (coreOf_ok h)))
      · exact ok_ite (sealCore_ok (setCore_ok h (coreOf_ok h))) (deliver_ok (setCore_ok h (coreOf_ok h)))

theorem statusAt_ok {s : State} {c : Nat} {p : Packet} {tok cause0 : Nat} (h : s.ok) : (statusAt s c p tok cause0).ok := by
  unfold statusAt
  extract_lets -underBinder -merge
  split
  · exact refuseStore_ok (setCore_ok h (coreOf_ok h))
  · split
    · exact h
    · exact ok_ite (updCore_ok (setCore_ok h (coreOf_ok h)) (fun h1 => h1)) (ok_ite (oweTrap_ok (setCore_ok h (coreOf_ok h))) (setCore_ok h (coreOf_ok h)))

theorem fenceackAt_ok {s : State} {c tok cause : Nat} (h : s.ok) : (fenceackAt s c tok cause).ok := by
  unfold fenceackAt
  extract_lets -underBinder -merge
  split
  · exact h
  · exact ok_ite (oweTrap_ok (setCore_ok h (coreOf_ok h))) (setCore_ok h (coreOf_ok h))

theorem execReturnStep_ok {src core : Nat} {s : State} (h : s.ok) : NextOk (execReturnStep src core s) := by
  unfold execReturnStep
  extract_lets -underBinder -merge
  split
  · exact h
  · extract_lets -underBinder -merge
    split
    · exact updCore_ok (staleAt_ok (chanPop_ok h)) (fun h1 => h1)
    · split
      · exact answerTo_ok (chanPop_ok h)
      · exact answerTo_ok (chanPop_ok h)
      · exact statusAt_ok (chanPop_ok h)
      · exact h
      · exact (chanPop_ok h)

theorem execFenceackReceive_ok {src core : Nat} {s : State} (h : s.ok) : NextOk (execFenceackReceive src core s) := by
  unfold execFenceackReceive
  extract_lets -underBinder -merge
  split
  · exact h
  · split
    · exact ok_ite (fenceackAt_ok (chanPop_ok h)) (updCore_ok (staleAt_ok (chanPop_ok h)) (fun h1 => h1))
    · exact h

theorem execPatrolScrub_ok {addr : Nat} {s : State} (h : s.ok) : NextOk (execPatrolScrub addr s) := by
  unfold execPatrolScrub
  split
  · exact h
  · split
    have h1 := ok_snd (drawFree_ok h) ‹_›
    split
    · exact count_ok h1
    · exact count_ok (memPoisonAdd_ok h1)
    · exact h1

end Sys2Proof.Machine
end

section
/-! ### Kept by every step: messages landing, parking and draining, streams, ranks and barriers (05, 07) -/

namespace Sys2Proof.Machine

theorem sealLanded_ok {c : Nat} {r : Bool × State} (h : r.2.ok) : (sealLanded c r).ok :=
  ok_ite (sealCore_ok h) h

theorem msgAt_ok {s : State} {c : Nat} {p : Packet} (h : s.ok) : (msgAt s c p).ok := by
  unfold msgAt
  extract_lets -underBinder -merge
  split
  · exact count_ok h
  · split
    · exact sealLanded_ok (landHandle_ok h)
    · exact sealLanded_ok (landAt_ok h)

theorem execMessageLand_ok {src core : Nat} {s : State} (h : s.ok) : NextOk (execMessageLand src core s) := by
  unfold execMessageLand
  extract_lets -underBinder -merge
  split
  · exact h
  · exact next_ite (staleDrop_ok (chanPop_ok h)) (markApplied_ok (msgAt_ok (chanPop_ok h)))

theorem strmArrive_ok {s : State} {src core : Nat} {want : Packet → Bool} (h : s.ok) : NextOk (strmArrive s src core want) := by
  unfold strmArrive
  extract_lets -underBinder -merge
  split
  · exact h
  · exact next_ite h (next_ite (staleDrop_ok (chanPop_ok h)) (markApplied_ok (strmAt_ok (chanPop_ok h))))

theorem peerDead_ok {s : State} {c : Nat} {e : EndRec} (h : s.ok) : (peerDead s c e).ok :=
  strmAt_ok h

theorem peersDead_ok {s : State} {chip : Nat} (h : s.ok) : (peersDead s chip).ok :=
  foldl_ok (fun h1 => foldl_ok (fun h2 => peerDead_ok h2) h1) h

theorem ovflSender_ok {s : State} {p : Packet} (h : s.ok) : (ovflSender s p).ok :=
  ok_ite (ok_ite (oweTrap_ok h) h) h

theorem lostItems_ok {s : State} {p : Packet} (h : s.ok) : (lostItems s p).ok :=
  markLost_ok (failRec_ok (drawFree_ok h))

theorem execOverflowPark_ok {src die : Nat} {s : State} (h : s.ok) : NextOk (execOverflowPark src die s) := by
  unfold execOverflowPark
  extract_lets -underBinder -merge
  split
  · exact h
  · extract_lets -underBinder -merge
    split
    · exact staleDrop_ok (chanPop_ok h)
    · split
      · extract_lets -underBinder -merge s'1
        have hs'1 : s'1.ok := ok_ite (lostItems_ok (chanPop_ok h)) (ovflSender_ok (failMsg_ok (chanPop_ok h)))
        exact markApplied_ok hs'1
      · have h1 := (ovPut_ok (chanPop_ok h)).get ‹_›
        extract_lets -underBinder -merge _ s'2
        have hs'2 : s'2.ok := ok_ite h1 (schedTrap_ok (setOv_ok h1))
        exact markApplied_ok hs'2

theorem drainMsg_ok {s : State} {c slot : Nat} {r : Resident} {p : Packet} (h : s.ok) : (drainMsg s c slot r p).ok := by
  unfold drainMsg
  extract_lets -underBinder -merge _ put1
  split
  · extract_lets -underBinder -merge
    split
    extract_lets -underBinder -merge s1
    have hs1 : s1.ok := by
      unfold s1
      unfold put1
      split
      · exact sealLanded_ok (landNow_ok (addEnd_ok h))
      · exact (addEnd_ok h)
    exact ok_ite (replayEnd_ok hs1) hs1
  · unfold put1
    split
    · exact sealLanded_ok (landNow_ok h)
    · exact h
  · unfold put1
    split
    · exact sealLanded_ok (landNow_ok h)
    · exact h

theorem execOverflowDrain_ok {die cid rank : Nat} {s : State} (h : s.ok) : NextOk (execOverflowDrain die cid rank s) := by
  unfold execOverflowDrain
  split
  · split
    · exact next_ite (handleDead_ok (count_ok (ovFree_ok (setOv_ok h)))) (next_ite (strmAt_ok (ovFree_ok (setOv_ok h))) (drainMsg_ok (ovFree_ok (setOv_ok h))))
    · exact h
  · exact h

theorem execStrmwaitExpire_ok {die cid rank : Nat} {s : State} (h : s.ok) : NextOk (execStrmwaitExpire die cid rank s) := by
  unfold execStrmwaitExpire
  split
  · extract_lets -underBinder -merge
    split
    · exact noRecord_ok (ovFree_ok (setOv_ok h))
    · exact h
  · exact h

theorem resend_ok {c cid rank : Nat} {l : List Packet} {s : State} (h : s.ok) : (resend c cid rank l s).ok := by
  induction l generalizing s with
  | nil => exact h
  | cons p l ih =>
    unfold resend
    extract_lets -underBinder -merge keep
    have hkeep : keep.ok := updCore_ok h fun hk => hk
    split
    · split
      · exact ih hkeep
      · exact ih (updCore_ok (sendRank'_ok h) fun hk => hk)
    · exact ih hkeep

theorem execRankInvalidate_ok {core cid rank : Nat} {s : State} (h : s.ok) : NextOk (execRankInvalidate core cid rank s) := by
  unfold execRankInvalidate
  split
  · exact h
  · exact resend_ok (setCore_ok h (coreOf_ok h))

theorem execRankInvalidateAck_ok {core cid rank : Nat} {s : State} (h : s.ok) : NextOk (execRankInvalidateAck core cid rank s) := by
  unfold execRankInvalidateAck
  extract_lets -underBinder -merge
  split
  · exact h
  · split
    · exact (setCore_ok h (coreOf_ok h))
    · exact opSettle_ok (updOp_ok (setCore_ok h (coreOf_ok h)))

theorem execBarrierArrive_ok {core gid : Nat} {s : State} (h : s.ok) : NextOk (execBarrierArrive core gid s) :=
  h

theorem execBarrierAdvance_ok {gid : Nat} {s : State} (h : s.ok) : NextOk (execBarrierAdvance gid s) :=
  h

end Sys2Proof.Machine
end

section
/-! ### Kept by every step: the supervisor's forms and residents saved, loaded and moved (15) -/

namespace Sys2Proof.Machine

theorem supervise_ok {s : State} {rd : Reg} {act : State → SupR} (h : s.ok) (hact : ∀ {x0 : State}, x0.ok → (act x0).Ok) : NextOk (supervise s rd act) := by
  unfold supervise
  extract_lets -underBinder -merge
  split
  · exact trap_ok h
  · split
    · exact h
    · exact setCC_ok h (advance_ok (wx_ok (cc_ok h)))
    · extract_lets -underBinder -merge s1
      have hs1 : s1.ok := setCC_ok h (clearRestart_ok (cc_ok h))
      split
      · exact hs1
      · split
        · have h1 := (hact hs1).now ‹_›
          exact writeX_ok h1
        · have h2 := (hact hs1).later ‹_›
          exact setCC_ok h2 (cc_ok h2)
        · exact (hact hs1).again ‹_›

theorem askHome_ok {s : State} {cid code : Nat} (h : s.ok) : (askHome s cid code).Ok :=
  SupR.later_ok (mgmtTo_ok h)

theorem execCtxKill_ok {rd ra : Reg} {s : State} (h : s.ok) : NextOk (execCtxKill rd ra s) :=
  supervise_ok h (fun h1 => SupR.ite (SupR.now_ok h1) (SupR.ite (SupR.now_ok h1) (SupR.ite (askHome_ok h1) (SupR.ite (SupR.again_ok h1) (SupR.ite (SupR.now_ok h1) (SupR.later_ok (startKill_ok h1)))))))

theorem execCtxRecl_ok {rd ra : Reg} {s : State} (h : s.ok) : NextOk (execCtxRecl rd ra s) :=
  supervise_ok h (fun h1 => SupR.ite (SupR.now_ok h1) (SupR.ite (SupR.now_ok h1) (SupR.ite (askHome_ok h1) (SupR.ite (SupR.now_ok h1) (SupR.later_ok (startRecl_ok h1))))))

theorem execTlbinv_ok {rd ra rb : Reg} {s : State} (h : s.ok) : NextOk (execTlbinv rd ra rb s) :=
  supervise_ok h (fun h1 => SupR.ite (SupR.now_ok h1) (SupR.ite (SupR.now_ok h1) (SupR.later_ok (foldl_ok (fun h2 => mgmtTo_ok h2) h1))))

theorem setRank_ok {s : State} {cid rank : Nat} {e : Word} (h : s.ok) : (setRank s cid rank e).ok := by
  have hclear : ∀ {s : State} {d : Nat}, s.ok → (match ovOf s d cid rank with | some o => setOv s d { o with trapped := false } | none => s).ok := by
    intro s d h
    split
    · exact setOv_ok h
    · exact h
  exact ok_ite (hclear (hclear h)) h

theorem execRankset_ok {rd ra rb : Reg} {s : State} (h : s.ok) : NextOk (execRankset rd ra rb s) :=
  supervise_ok h (fun h1 => SupR.ite (SupR.now_ok h1) (SupR.ite (SupR.now_ok h1) (SupR.ite (SupR.now_ok h1) (SupR.later_ok (foldl_ok (fun h2 => mgmtTo_ok h2) (setRank_ok h1))))))

theorem putPieces_ok {pa : Nat} {l : List Piece} {k : Core} {s : State} (h : s.ok) : (putPieces pa l k s).ok := by
  induction l generalizing s pa with
  | nil => exact h
  | cons p l ih =>
    unfold putPieces
    extract_lets -underBinder -merge s1 s2
    have hs1 : s1.ok := memWrite_ok h
    have hs2 : s2.ok := by
      unfold s2
      split
      · exact foldl_ok (fun h1 => ok_ite (memPoisonAdd_ok h1) h1) hs1
      · exact hs1
    exact ih hs2

theorem saveArea_ok {s : State} {c slot pa : Nat} {r : Resident} (h : s.ok) : (saveArea s c slot pa r).ok :=
  putPieces_ok (memWrite_ok h)

theorem execSlotsave_ok {rd ra rb : Reg} {s : State} (h : s.ok) : NextOk (execSlotsave rd ra rb s) :=
  supervise_ok h (fun h1 => by
    extract_lets -underBinder -merge
    split
    · exact SupR.now_ok h1
    · exact SupR.ite (SupR.now_ok h1) (SupR.now_ok (updCore_ok (saveArea_ok h1) (fun h2 => updSlot_ok h2))))

theorem dropEnds_ok {k : Core} {cid rank : Nat} (hk : k.ok) : (dropEnds k cid rank).ok :=
  hk

theorem moveEnds_ok {s : State} {c cid rank d dslot : Nat} (h : s.ok) : (moveEnds s c cid rank d dslot).ok :=
  updCore_ok (updCore_ok h (fun h1 => dropEnds_ok h1)) (fun h2 => h2)

theorem loadMsg_ok {s : State} {c slot pa off cid inc rank q : Nat} (h : s.ok) : (loadMsg s c slot pa off cid inc rank q).1.ok := by
  unfold loadMsg
  split
  extract_lets -underBinder -merge _ _ _ _ _ _ _ _ s1
  have hs1 : s1.ok := ok_ite (lmPoison_ok (ok_ite h (lmWrite_ok h))) (ok_ite h (lmWrite_ok h))
  exact updCore_ok hs1 (fun h1 => updSlot_ok h1)

theorem loadMsgs_ok {c slot pa cid inc rank q n : Nat} {x : State × Nat} (h : x.1.ok) : (loadMsgs c slot pa cid inc rank q n x).1.ok := by
  induction n generalizing x with
  | zero => exact h
  | succ n ih => exact ih (loadMsg_ok h)

theorem loadQueues_ok {s : State} {c slot pa cid inc rank : Nat} {l : List Nat} {off : Nat} (h : s.ok) : (loadQueues s c slot pa cid inc rank l off).1.ok := by
  induction l generalizing s off with
  | nil => exact h
  | cons q l ih =>
    unfold loadQueues
    extract_lets -underBinder -merge
    split
    exact ih (ok_fst (loadMsgs_ok h) ‹_›)

theorem loadSpan_ok {s : State} {c pa off b n : Nat} (h : s.ok) : (loadSpan s c pa off b n).ok :=
  foldl_ok (fun h1 => ok_ite (lmPoison_ok h1) h1) (lmWrite_ok h)

theorem loadSpans_ok {c pa : Nat} {l : List Word} {x : State × Nat} (h : x.1.ok) : (loadSpans c pa l x).1.ok := by
  induction l generalizing x with
  | nil => exact h
  | cons r l ih => exact ih (loadSpan_ok h)

theorem loadFe_ok {s : State} {c pa off : Nat} {l : List Word} {n : Nat} (h : s.ok) : (loadFe s c pa off l n).ok := by
  induction l generalizing s n with
  | nil => exact h
  | cons r l ih => exact ih (updCore_ok h fun hk => hk)

theorem loadArea_ok {s : State} {c slot pa : Nat} {r : Resident} (h : s.ok) : (loadArea s c slot pa r).ok := by
  unfold loadArea
  extract_lets -underBinder -merge _ _ _ _ s1
  have hs1 : s1.ok := updCore_ok h (fun h1 => setSlot_ok h1)
  split
  have h2 := ok_fst (loadQueues_ok hs1) ‹_›
  exact loadSpan_ok (loadFe_ok (loadSpans_ok h2))

theorem keepImage_ok {s : State} {c slot : Nat} {r : Resident} (h : s.ok) : (keepImage s c slot r).ok :=
  ok_ite h h

theorem restoreKill_ok {s : State} {cid : Nat} (h : s.ok) : (restoreKill s cid).ok :=
  mgmtTo_ok h

theorem loadEnd_ok {s : State} {w area : Word} (h : s.ok) : (loadEnd s w area).Ok := by
  unfold loadEnd
  extract_lets -underBinder -merge _ _ _ _ s1
  have hs1 : s1.ok := by
    unfold s1
    split
    · exact moveEnds_ok h
    · exact h
  exact SupR.ite (SupR.ite (SupR.now_ok (restoreKill_ok h)) (SupR.ite (SupR.again_ok h) (SupR.now_ok (startKill_ok h)))) (SupR.now_ok (keepImage_ok (loadArea_ok hs1)))

theorem supEnd_ok {s : State} {rd : Reg} {st : Nat} (h : s.ok) : NextOk (supEnd s rd st) :=
  setCC_ok h (advance_ok (wx_ok (cc_ok h)))

theorem execSlotload_ok {rd ra rb : Reg} {s : State} (h : s.ok) : NextOk (execSlotload rd ra rb s) := by
  unfold execSlotload
  extract_lets -underBinder -merge
  split
  · extract_lets -underBinder -merge s1
    have hs1 : s1.ok := h
    split
    · exact supEnd_ok hs1
    · split
      · exact supEnd_ok hs1
      · split
        next hend => exact supEnd_ok ((loadEnd_ok hs1).now hend)
        · exact h
  · refine supervise_ok h fun h2 => ?_
    split
    · exact SupR.now_ok h2
    · exact SupR.later_ok h2

theorem moveSlot_ok {s : State} {c slot d dslot : Nat} {r : Resident} (h : s.ok) : (moveSlot s c slot d dslot r).ok := by
  unfold moveSlot
  extract_lets -underBinder -merge _ _ _ _ s1 _ s2 s3 s4
  have hs1 : s1.ok := foldl_ok (fun h1 => foldl_ok (fun h2 => ok_ite (lmPoison_ok h2) h2) (lmWrite_ok h1)) h
  have hs2 : s2.ok := updCore_ok hs1 (fun h3 => h3)
  have hs3 : s3.ok := updCore_ok hs2 (fun h4 => updSlot_ok h4)
  have hs4 : s4.ok := updCore_ok hs3 (fun h5 => setSlot_ok h5)
  exact moveEnds_ok hs4

theorem execResmove_ok {rd ra rb : Reg} {s : State} (h : s.ok) : NextOk (execResmove rd ra rb s) :=
  supervise_ok h (fun h1 => by
    extract_lets -underBinder -merge
    split
    · exact SupR.now_ok h1
    · split
      · exact SupR.now_ok h1
      · split
        · exact SupR.now_ok h1
        · exact SupR.now_ok (moveSlot_ok h1))

theorem dropSlot_ok {s : State} {c slot : Nat} {r : Resident} {current : Bool} (h : s.ok) : (dropSlot s c slot r current).ok := by
  unfold dropSlot
  extract_lets -underBinder -merge _ _ s1 _ s2
  have hs1 : s1.ok := foldl_ok (fun h1 => ok_ite (failMsg_ok (msgGone_ok h1)) (staleAt_ok h1)) h
  have hs2 : s2.ok := ok_ite (foldl_ok (fun h2 => killEnd_ok h2) hs1) hs1
  exact updCore_ok hs2 (fun h3 => updSlot_ok (dropEnds_ok h3))

theorem execSlotdrop_ok {rd ra : Reg} {s : State} (h : s.ok) : NextOk (execSlotdrop rd ra s) :=
  supervise_ok h (fun h1 => by
    extract_lets -underBinder -merge
    split
    · exact SupR.now_ok h1
    · split
      · exact SupR.now_ok h1
      · split
        · exact SupR.now_ok h1
        · exact SupR.ite (SupR.now_ok h1) (SupR.ite (SupR.now_ok h1) (SupR.now_ok (dropSlot_ok h1))))

theorem execHalt_ok {rd ra rb : Reg} {s : State} (h : s.ok) : NextOk (execHalt rd ra rb s) :=
  supervise_ok h (fun h1 => by
    extract_lets -underBinder -merge _ _ _ s1
    have hs1 : s1.ok := ok_ite h1 (setPend_ok (updCore_ok h1 (fun h2 => h2)))
    exact SupR.ite (SupR.now_ok h1) (SupR.ite (SupR.now_ok h1) (SupR.ite (SupR.now_ok (pendNow_ok (updCore_ok h1 (fun h3 => h3)))) (SupR.ite (SupR.now_ok hs1) (SupR.again_ok hs1)))))

end Sys2Proof.Machine
end

section
/-! ### Kept by every step: the scheduler: kernels, events, placement, gates and activation starts (05) -/

namespace Sys2Proof.Machine

theorem eventTest_ok {s : State} {cid : Nat} (h : s.ok) : (eventTest s cid).ok :=
  h

theorem putEvents_ok {s : State} {cid q : Nat} {w : Word} (h : s.ok) : (putEvents s cid q w).ok :=
  ok_ite h (eventTest_ok (updCtx_ok h))

theorem tellSched_ok {s : State} {a b cid q : Nat} {w : Word} (h : s.ok) : (tellSched s a b cid q w).ok :=
  emit_ok h

theorem setEvents_ok {s : State} {cid q : Nat} {f : Word → Word} (h : s.ok) : (setEvents s cid q f).ok :=
  ok_ite h (foldl_ok (fun h1 => mgmtTo_ok h1) (tellSched_ok (putEvents_ok h)))

theorem applySmask_ok {s : State} {k : Kernel} (h : s.ok) : (applySmask s k).ok :=
  ok_ite (ok_ite h (mgmtTo_ok h)) (ok_ite (setEvents_ok h) (ok_ite h (tellSched_ok h)))

theorem freeEntry_ok {s : State} {k : Kernel} (h : s.ok) : (freeEntry s k).ok :=
  ok_ite (updKernel_ok (updDie_ok h)) h

theorem badKernel_ok {s : State} {k : Kernel} {cause : Nat} (h : s.ok) : (badKernel s k cause).ok := by
  unfold badKernel
  split
  have h1 := ok_snd (drawFree_ok h) ‹_›
  extract_lets -underBinder -merge _ s1
  have hs1 : s1.ok := updKernel_ok (freeEntry_ok (failRec_ok h1))
  exact applySmask_ok hs1

theorem settleKernel_ok {s : State} {kid : Nat} (h : s.ok) : (settleKernel s kid).ok := by
  unfold settleKernel
  split
  · exact ok_ite (applySmask_ok (rampDown_ok (updKernel_ok h))) h
  · exact h

theorem acceptKernel_ok {s : State} {die cid inc : Nat} {w : List Word} (h : s.ok) : (acceptKernel s die cid inc w).2.ok := by
  unfold acceptKernel
  extract_lets -underBinder -merge
  split
  · exact badKernel_ok h
  · exact eventTest_ok h

theorem cancelLate_ok {s : State} {die kid : Nat} (h : s.ok) : (cancelLate s die kid).ok := by
  unfold cancelLate
  split
  · exact ok_ite (applySmask_ok (updKernel_ok (freeEntry_ok h))) h
  · exact h

theorem execKernelAccept_ok {die : Nat} {s : State} (h : s.ok) : NextOk (execKernelAccept die s) := by
  unfold execKernelAccept
  split
  · exact h
  · exact cancelLate_ok (acceptKernel_ok h)

theorem answerCore_ok {s : State} {src : Nat} {p : Packet} {tok : Nat} {v : Word} (h : s.ok) : (answerCore s src p tok v).ok :=
  emit_ok h

theorem execKsubArrive_ok {src die : Nat} {s : State} (h : s.ok) : NextOk (execKsubArrive src die s) := by
  unfold execKsubArrive
  extract_lets -underBinder -merge
  split
  · exact h
  · split
    · extract_lets -underBinder -merge _ s'1
      have hs'1 : s'1.ok := markApplied_ok (chanPop_ok h)
      exact next_ite (staleDrop_ok (chanPop_ok h)) (next_ite (answerCore_ok (count_ok hs'1)) (next_ite (answerCore_ok hs'1) (next_ite hs'1 (next_ite (answerCore_ok hs'1) (answerCore_ok (acceptKernel_ok (updDie_ok hs'1)))))))
    · exact h

theorem execSetevApply_ok {src die : Nat} {s : State} (h : s.ok) : NextOk (execSetevApply src die s) := by
  unfold execSetevApply
  extract_lets -underBinder -merge
  split
  · exact h
  · split
    · exact next_ite (staleDrop_ok (chanPop_ok h)) (next_ite (markApplied_ok (count_ok (chanPop_ok h))) (next_ite (markApplied_ok (setEvents_ok (chanPop_ok h))) (eventTest_ok (updDie_ok (chanPop_ok h)))))
    · exact h

theorem ackReport_ok {s : State} {cid : Nat} {a2 : Option Nat} (h : s.ok) : (ackReport s cid a2).ok := by
  unfold ackReport
  split
  · exact h
  · exact ok_ite h (mgmtTo_ok h)

theorem execLiveCountReport_ok {s : State} (h : s.ok) : NextOk (execLiveCountReport s) := by
  unfold execLiveCountReport
  split
  · exact h
  · extract_lets -underBinder -merge
    split
    · exact ackReport_ok h
    · exact next_ite (settleKernel_ok (updKernel_ok (ackReport_ok h))) (next_ite (mgmtTo_ok h) h)

theorem execLiveCountAck_ok {core : Nat} {s : State} (h : s.ok) : NextOk (execLiveCountAck core s) := by
  unfold execLiveCountAck
  split
  · exact h
  · exact next_ite (endFlush_ok (updCore_ok h (fun h1 => h1))) h

theorem agentSend_ok {s : State} {src cid inc rank n : Nat} {hd : MsgHdr} {pay : List Byte} {bad : Bool} (h : s.ok) : SomeOk (agentSend s src cid inc rank n hd pay bad) := by
  unfold agentSend
  extract_lets -underBinder -merge
  split
  · exact some_ite (failMsg_ok h) (some_ite (emit_ok h) trivial)
  · exact trivial
  · exact some_ite (emit_ok h) trivial
  · exact failMsg_ok h

theorem launchRanks_ok {k : Kernel} {pay : List Byte} {l : List Nat} {n : Nat} {s : State} (h : s.ok) : SomeOk (launchRanks k pay l n s) := by
  induction l generalizing s n with
  | nil => exact h
  | cons r l ih =>
    unfold launchRanks
    split
    have h1 := ok_snd (freshMsg_ok h) ‹_›
    split
    · exact ih ((agentSend_ok h1).get ‹_›)
    · trivial

theorem putCursors_ok {s : State} {k : Kernel} (h : s.ok) : (putCursors s k).ok := by
  unfold putCursors
  extract_lets -underBinder -merge put1
  have hput : ∀ {s : State} {d : Nat}, s.ok → (put1 s d).ok := by
    intro s d h
    unfold put1
    split
    · exact updDie_ok h
    · exact h
  exact hput (hput h)

theorem execSchedulerLaunch_ok {die kid : Nat} {s : State} (h : s.ok) : NextOk (execSchedulerLaunch die kid s) := by
  unfold execSchedulerLaunch
  split
  · exact h
  · split
    · exact h
    · extract_lets -underBinder -merge _ s1
      have hs1 : s1.ok := updKernel_ok (freeEntry_ok h)
      split
      · exact next_ite (badKernel_ok h) (settleKernel_ok (ok_ite hs1 (foldl_ok (fun h1 => emit_ok h1) (putCursors_ok hs1))))
      · split
        · exact badKernel_ok h
        · split
          · have h2 := (launchRanks_ok (updKernel_ok (freeEntry_ok h))).get ‹_›
            exact settleKernel_ok h2
          · exact h

/-- Shown for any way to put a packet into the store, as `undisturbed_makeRoom` is. -/
theorem makeRoom_ok {s : State} {c slot n fuel : Nat} (h : s.ok) : (makeRoom s c slot n fuel).ok := by
  have hput := @ovPut_ok
  revert h
  delta makeRoom makeRoom._f
  generalize ovPut = put at hput ⊢
  revert put
  refine id ?_
  intro put hput
  refine brecOn_relates (R := fun s t : State => s.ok → t.ok) (fun _ s h => h) (fun _ rest _ ih s h => ok_ite h ?_) fuel s
  dsimp only
  split
  · exact h
  · split
    · exact h
    · split
      · exact ih _ (failMsg_ok (msgGone_ok (updCore_ok h fun hk => updSlot_ok hk)))
      · exact ih _ ((hput (updCore_ok h fun hk => updSlot_ok hk)).get ‹_›)

theorem placeLaunch_ok {s : State} {c slot : Nat} {m : QMsg} (h : s.ok) : (placeLaunch s c slot m).2.ok := by
  unfold placeLaunch
  extract_lets -underBinder -merge
  split
  · exact ok_ite (makeRoom_ok h) (lmWrite_ok (makeRoom_ok h))
  · exact (makeRoom_ok h)

theorem gateTo_ok {s : State} {k : Kernel} {pay : List Byte} {rank n : Nat} (h : s.ok) : (gateTo s k pay rank n).ok :=
  setPend_ok (updCore_ok (placeLaunch_ok (freshMsg_ok h)) (fun h1 => h1))

theorem armGang_ok {s : State} {k : Kernel} {pay : List Byte} {g cs : List Nat} {crew : Option Nat} (h : s.ok) : (armGang s k pay g cs crew).ok :=
  foldl_ok (fun h1 => gateTo_ok h1) (updKernel_ok h)

theorem bringRank_ok {s : State} {cid inc rank : Nat} (h : s.ok) : (bringRank s cid inc rank).ok :=
  ok_ite h (schedTrap_ok (setOv_ok h))

theorem bringIn_ok {s : State} {k : Kernel} (h : s.ok) : (bringIn s k).ok :=
  foldl_ok (fun h1 => ok_ite (bringRank_ok h1) (mgmtTo_ok h1)) h

theorem gatesDone_ok {s : State} {kid n : Nat} (h : s.ok) : (gatesDone s kid n).ok := by
  unfold gatesDone
  split
  · exact ok_ite (updKernel_ok (freeEntry_ok h)) h
  · exact h

theorem armNext_ok {s : State} {kid : Nat} (h : s.ok) : (armNext s kid).ok := by
  unfold armNext
  split
  · exact h
  · split
    · exact h
    · split
      · exact h
      · split
        · exact ok_ite (badKernel_ok h) h
        · extract_lets -underBinder -merge
          split
          · exact h
          · split
            have h1 := ok_snd (snd_ite h h) ‹_›
            extract_lets -underBinder -merge _ s1
            have hs1 : s1.ok := foldl_ok (fun h2 => armGang_ok h2) (updKernel_ok h1)
            exact ok_ite (gatesDone_ok hs1) (mgmtTo_ok (updKernel_ok hs1))

theorem placeGangs_ok {s : State} {k : Kernel} (h : s.ok) : (placeGangs s k).ok := by
  unfold placeGangs
  extract_lets -underBinder -merge
  split
  · exact badKernel_ok h
  · exact ok_ite (badKernel_ok h) (ok_ite (settleKernel_ok (updKernel_ok (freeEntry_ok h))) (foldl_ok (fun h1 => ok_ite h1 (emit_ok h1)) (updKernel_ok h)))

theorem execGateArm_ok {die kid : Nat} {s : State} (h : s.ok) : NextOk (execGateArm die kid s) := by
  unfold execGateArm
  split
  · exact h
  · exact next_ite h (next_ite (armNext_ok h) (next_ite (bringIn_ok h) (next_ite h (armNext_ok (placeGangs_ok h)))))

theorem rowStart_ok {s : State} {c kid : Nat} (h : s.ok) : (rowStart s c kid).ok :=
  ok_ite (updDie_ok h) h

theorem gateDrop_ok {s : State} {kid row : Nat} (h : s.ok) : (gateDrop s kid row).ok :=
  ok_ite h (settleKernel_ok (updKernel_ok h))

theorem discard_ok {s : State} {c : Nat} {m : QMsg} (h : s.ok) : (discard s c m).ok :=
  report_ok (msgGone_ok h)

theorem headFate_ok {s : State} {c slot : Nat} {m : QMsg} (h : s.ok) : SomeOk (headFate s c slot m) :=
  some_ite (staleAt_ok h) (some_ite (failMsg_ok (msgGone_ok h)) (some_ite (discard_ok h) (some_ite (failMsg_ok (msgGone_ok h)) trivial)))

theorem startPair_ok {s : State} {c slot qn : Nat} {m : QMsg} (h : s.ok) : SomeOk (startPair s c slot qn m) := by
  unfold startPair
  split
  · exact trivial
  · extract_lets -underBinder -merge _ _ _ _ s1 s2
    have hs1 : s1.ok := updCore_ok (startAct_ok (ok_ite h (lmWrite_ok h))) (fun h1 => h1)
    have hs2 : s2.ok := updCore_ok (startAct_ok hs1) (fun h2 => h2)
    exact rowStart_ok (rowStart_ok (linkPair_ok hs2))

theorem execActivationStart_ok {core : Nat} {s : State} (h : s.ok) : NextOk (execActivationStart core s) := by
  unfold execActivationStart
  extract_lets -underBinder -merge _ t1
  split
  · exact h
  · split
    · unfold t1
      split
      · exact next_ite (linkPair_ok (startSucc_ok (startSucc_ok h))) h
      · exact startSucc_ok h
    · split
      · exact h
      · split
        · extract_lets -underBinder -merge s1
          have hs1 : s1.ok := setCore_ok h (coreOf_ok h)
          split
          extract_lets -underBinder -merge
          split
          have h1 := ok_snd (snd_ite (placeLaunch_ok hs1) hs1) ‹_›
          split
          · have h2 := (headFate_ok h1).get ‹_›
            exact gateDrop_ok (leaveGang_ok h2)
          · exact gateDrop_ok (rowStart_ok (startAct_ok h1))
        · split
          · exact h
          · extract_lets -underBinder -merge pop1
            have hpop1 : pop1.ok := updCore_ok h (fun h3 => updSlot_ok h3)
            split
            · exact sealCore_ok h
            · split
              · exact (headFate_ok hpop1).get ‹_›
              · split
                · split
                  · exact (startPair_ok hpop1).get ‹_›
                  · exact h
                · exact rowStart_ok (startAct_ok hpop1)

end Sys2Proof.Machine
end

section
/-! ### Kept by every step: the dispatcher: adjacency, locks, stakes and tasks (06) -/

namespace Sys2Proof.Machine

theorem adjGone_ok {s : State} {cid inc num : Nat} (h : s.ok) : (adjGone s cid inc num).ok :=
  h

theorem adjAnswer_ok {s : State} {o : Op} {st : Nat} (h : s.ok) : (adjAnswer s o st).ok :=
  emit_ok h

theorem adjSettle_ok {s : State} {o : Op} (h : s.ok) : (adjSettle s o).ok :=
  ok_ite (adjAnswer_ok (foldl_ok (fun h1 => mgmtTo_ok h1) (adjGone_ok h))) (adjAnswer_ok h)

theorem adjBack_ok {s : State} {tok st chip : Nat} (h : s.ok) : (adjBack s tok st chip).ok := by
  unfold adjBack
  split
  · exact h
  · exact ok_ite h (ok_ite (adjSettle_ok h) (updOp_ok h))

theorem adjAsk_ok {s : State} {die : Nat} {p : Packet} {a : AdjReg} {tok : Nat} {drop : Bool} (h : s.ok) : (adjAsk s die p a tok drop).ok :=
  ok_ite (answerCore_ok (ok_ite (adjGone_ok h) h)) (foldl_ok (fun h1 => mgmtTo_ok h1) h)

theorem execAdjregRequest_ok {src die : Nat} {s : State} (h : s.ok) : NextOk (execAdjregRequest src die s) := by
  unfold execAdjregRequest
  extract_lets -underBinder -merge
  split
  · exact h
  · split
    · extract_lets -underBinder -merge s1
      have hs1 : s1.ok := chanPop_ok h
      split
      · exact staleDrop_ok hs1
      · split
        · split
          · exact answerCore_ok hs1
          · exact next_ite (answerCore_ok hs1) (adjAsk_ok hs1)
        · split
          · exact answerCore_ok hs1
          · exact adjAsk_ok hs1
    · exact h

theorem setHold_ok {s : State} {hd : HoldW} (h : s.ok) : (setHold s hd).ok :=
  h

theorem grantLock_ok {s : State} {cid : Nat} {r : LockReq} {x : Nat × Bool} (h : s.ok) : (grantLock s cid r x).ok :=
  setHold_ok h

theorem freeLock_ok {s : State} {cid : Nat} {r : LockReq} {x : Nat × Bool} (h : s.ok) : (freeLock s cid r x).ok :=
  setHold_ok h

theorem lockAnswer_ok {s : State} {die sl cid inc : Nat} {r : LockReq} {granted older : Bool} (h : s.ok) : (lockAnswer s die sl cid inc r granted older).ok :=
  emit_ok h

theorem engClock_ok {s : State} {die sl : Nat} {r : LockReq} (h : s.ok) : (engClock s die sl r).ok := by
  unfold engClock
  split
  · exact updDie_ok h
  · exact h

theorem retest_ok {die sl : Nat} {l : List LockReq} {s : State} (h : s.ok) : (retest die sl l s).ok := by
  induction l generalizing s with
  | nil => exact h
  | cons r l ih =>
    unfold retest
    extract_lets -underBinder -merge keep
    have hkeep : keep.ok := updDie_ok h
    split
    · extract_lets -underBinder -merge
      split
      · exact ih (count_ok h)
      · split
        · exact ok_ite (ih hkeep) (ih (lockAnswer_ok h))
        · split
          · exact ih (lockAnswer_ok (grantLock_ok h))
          · exact ok_ite (ih (lockAnswer_ok (updDie_ok h))) (ih hkeep)
    · exact ih h

theorem retestAll_ok {s : State} {die sl : Nat} (h : s.ok) : (retestAll s die sl).ok :=
  retest_ok (updDie_ok h)

theorem execLockRequest_ok {src eng : Nat} {s : State} (h : s.ok) : NextOk (execLockRequest src eng s) := by
  unfold execLockRequest
  extract_lets -underBinder -merge
  split
  · exact h
  · exact next_ite (staleDrop_ok (chanPop_ok h)) (next_ite (next_ite (lockAnswer_ok (foldl_ok (fun h1 => grantLock_ok h1) (engClock_ok (chanPop_ok h)))) (lockAnswer_ok (engClock_ok (chanPop_ok h)))) (retest_ok (engClock_ok (chanPop_ok h))))

theorem execLockRelease_ok {src eng : Nat} {s : State} (h : s.ok) : NextOk (execLockRelease src eng s) := by
  unfold execLockRelease
  extract_lets -underBinder -merge
  split
  · exact h
  · exact next_ite (staleDrop_ok (chanPop_ok h)) (retestAll_ok (foldl_ok (fun h1 => freeLock_ok h1) (chanPop_ok h)))

theorem execStakeRequest_ok {src eng : Nat} {s : State} (h : s.ok) : NextOk (execStakeRequest src eng s) := by
  unfold execStakeRequest
  extract_lets -underBinder -merge
  split
  · exact h
  · extract_lets -underBinder -merge _ _ s'1 s'2
    have hs'1 : s'1.ok := foldl_ok (fun h1 => by
      extract_lets -underBinder -merge
      split
      · exact ok_ite h1 (setHold_ok h1)
      · exact setHold_ok h1) (engClock_ok (chanPop_ok h))
    have hs'2 : s'2.ok := foldl_ok (fun h2 => ok_ite (setHold_ok h2) h2) (chanPop_ok h)
    exact next_ite (staleDrop_ok (chanPop_ok h)) (next_ite (lockAnswer_ok hs'1) (retestAll_ok hs'2))

theorem updDisp_ok {s : State} {die : Nat} {f : Dispatcher → Dispatcher} (h : s.ok) : (updDisp s die f).ok :=
  updDie_ok h

theorem updTask_ok {s : State} {die age : Nat} {f : Task → Task} (h : s.ok) : (updTask s die age f).ok :=
  updDisp_ok h

theorem dropTask_ok {s : State} {die age : Nat} (h : s.ok) : (dropTask s die age).ok :=
  updDisp_ok h

theorem lockSend_ok {s : State} {die : Nat} {t : Task} {at_ : Nat × Nat × Nat} {locks : List (Nat × Bool)} {kind : Nat} {compound : Bool} (h : s.ok) : (lockSend s die t at_ locks kind compound).ok :=
  emit_ok h

theorem releaseLocks_ok {s : State} {die : Nat} {t : Task} {l : List (Nat × Bool)} (h : s.ok) : (releaseLocks s die t l).ok := by
  unfold releaseLocks
  split
  · exact foldl_ok (fun h1 => lockSend_ok h1) h
  · exact h

theorem noteRelease_ok {s : State} {die cid inc reg : Nat} (h : s.ok) : (noteRelease s die cid inc reg).ok :=
  updDisp_ok h

theorem liftStakes_ok {s : State} {die : Nat} {t : Task} (h : s.ok) : (liftStakes s die t).ok := by
  unfold liftStakes
  split
  · extract_lets -underBinder -merge s1
    have hs1 : s1.ok := foldl_ok (fun h1 => lockSend_ok h1) h
    exact updDisp_ok (updTask_ok hs1)
  · exact updDisp_ok h
  · exact h

theorem enterTask_ok {s : State} {die : Nat} {k : Kernel} {elem : Nat} {pay : List Byte} {spawned : Bool} {tag srank : Nat} {poison : Bool} (h : s.ok) : (enterTask s die k elem pay spawned tag srank poison).ok :=
  updDisp_ok h

theorem execWindowRefill_ok {die : Nat} {s : State} (h : s.ok) : NextOk (execWindowRefill die s) := by
  unfold execWindowRefill
  extract_lets -underBinder -merge
  split
  · extract_lets -underBinder -merge
    split
    · exact enterTask_ok (updDisp_ok h)
    · exact (updDisp_ok h)
  · split
    · exact h
    · extract_lets -underBinder -merge
      split
      · exact settleKernel_ok (updDisp_ok h)
      · extract_lets -underBinder -merge
        split
        · exact enterTask_ok (updDisp_ok h)
        · exact failMsg_ok (updDisp_ok h)

theorem issueTask_ok {s : State} {die : Nat} {t : Task} (h : s.ok) : (issueTask s die t).ok := by
  unfold issueTask
  split
  · extract_lets -underBinder -merge
    split
    have h1 := ok_snd (freshMsg_ok h) ‹_›
    extract_lets -underBinder -merge
    split
    · exact updTask_ok h
    · have h2 := (agentSend_ok (updTask_ok h1)).get ‹_›
      exact ok_ite (dropTask_ok (releaseLocks_ok h2)) h2
  · exact dropTask_ok h

theorem execTaskTry_ok {die age : Nat} {s : State} (h : s.ok) : NextOk (execTaskTry die age s) := by
  unfold execTaskTry
  extract_lets -underBinder -merge
  split
  · exact h
  · split
    · exact issueTask_ok h
    · split
      · exact h
      · exact next_ite h (next_ite (failMsg_ok (dropTask_ok h)) (next_ite (lockSend_ok (updTask_ok h)) (foldl_ok (fun h1 => lockSend_ok h1) (updTask_ok h))))

theorem acquireNext_ok {s : State} {die : Nat} {t : Task} (h : s.ok) : (acquireNext s die t).ok := by
  unfold acquireNext
  split
  · exact lockSend_ok h
  · exact h

theorem placeStakes_ok {s : State} {die : Nat} {t : Task} (h : s.ok) : (placeStakes s die t).ok := by
  unfold placeStakes
  split
  · exact h
  · exact foldl_ok (fun h1 => lockSend_ok h1) (updTask_ok h)

theorem execStakeSlotGrant_ok {die age : Nat} {s : State} (h : s.ok) : NextOk (execStakeSlotGrant die age s) := by
  unfold execStakeSlotGrant
  extract_lets -underBinder -merge
  split
  · exact h
  · exact next_ite h (placeStakes_ok (updTask_ok (updDisp_ok h)))

theorem dispClock_ok {s : State} {die clock : Nat} (h : s.ok) : (dispClock s die clock).ok :=
  updDisp_ok h

theorem endTry_ok {s : State} {die age : Nat} (h : s.ok) : (endTry s die age).ok := by
  unfold endTry
  split
  · exact h
  · split
    · exact h
    · split
      · exact issueTask_ok h
      · extract_lets -underBinder -merge _ s1
        have hs1 : s1.ok := updDisp_ok (releaseLocks_ok h)
        exact updTask_ok hs1

theorem execLockResponse_ok {src die : Nat} {s : State} (h : s.ok) : NextOk (execLockResponse src die s) := by
  unfold execLockResponse
  extract_lets -underBinder -merge
  split
  · exact h
  · split
    · split
      · exact staleDrop_ok (chanPop_ok h)
      · extract_lets -underBinder -merge
        split
        · exact next_ite (emit_ok (noteRelease_ok (dispClock_ok (chanPop_ok h)))) (dispClock_ok (chanPop_ok h))
        · split
          · extract_lets -underBinder -merge s'1
            have hs'1 : s'1.ok := updTask_ok (dispClock_ok (chanPop_ok h))
            exact endTry_ok hs'1
          · split
            · extract_lets -underBinder -merge s'2
              have hs'2 : s'2.ok := updTask_ok (dispClock_ok (chanPop_ok h))
              exact ok_ite (acquireNext_ok hs'2) hs'2
            · split
              · extract_lets -underBinder -merge _ s'3
                have hs'3 : s'3.ok := updTask_ok (dispClock_ok (chanPop_ok h))
                exact next_ite (issueTask_ok (liftStakes_ok hs'3)) (acquireNext_ok hs'3)
              · split
                · extract_lets -underBinder -merge s'4
                  have hs'4 : s'4.ok := releaseLocks_ok (dispClock_ok (chanPop_ok h))
                  exact updTask_ok hs'4
                · exact placeStakes_ok (dispClock_ok (chanPop_ok h))
    · exact h

theorem execTaskChainEnd_ok {die age : Nat} {s : State} (h : s.ok) : NextOk (execTaskChainEnd die age s) := by
  unfold execTaskChainEnd
  split
  · split
    · exact h
    · extract_lets -underBinder -merge _ s1
      have hs1 : s1.ok := noteRelease_ok (releaseLocks_ok (updDisp_ok h))
      exact next_ite (updTask_ok hs1) (dropTask_ok hs1)
  · exact updDisp_ok h
  · exact h

theorem execDspnArrive_ok {src die : Nat} {s : State} (h : s.ok) : NextOk (execDspnArrive src die s) := by
  unfold execDspnArrive
  extract_lets -underBinder -merge
  split
  · exact h
  · split
    · extract_lets -underBinder -merge _ ok1
      have hok1 : ok1.ok := markApplied_ok (ok_ite (chanPop_ok h) (mgmtTo_ok (chanPop_ok h)))
      split
      · exact staleDrop_ok (chanPop_ok h)
      · split
        · exact failMsg_ok hok1
        · split
          · exact failMsg_ok hok1
          · exact next_ite (failMsg_ok hok1) (next_ite (report_ok hok1) (next_ite h (updDisp_ok hok1)))
    · exact h

theorem cancelAt_ok {s : State} {die cid job : Nat} (h : s.ok) : (cancelAt s die cid job).ok := by
  unfold cancelAt
  extract_lets -underBinder -merge _ _ _ s1 s2
  have hs1 : s1.ok := foldl_ok (fun h1 => by
    extract_lets -underBinder -merge s3 s4
    have hs3 : s3.ok := liftStakes_ok (releaseLocks_ok h1)
    have hs4 : s4.ok := ok_ite hs3 (noteRelease_ok hs3)
    exact report_ok (dropTask_ok hs4)) h
  have hs2 : s2.ok := foldl_ok (fun h2 => report_ok (updDisp_ok h2)) hs1
  exact foldl_ok (fun h3 => ok_ite (updDisp_ok h3) (report_ok (updDisp_ok h3))) hs2

theorem filterAdd_ok {job : Nat} {k : Core} (hk : k.ok) : (filterAdd job k).ok := by
  unfold filterAdd
  split
  · exact hk
  · split <;> exact hk

theorem cancelJob_ok {s : State} {cid job : Nat} (h : s.ok) : (cancelJob s cid job).ok := by
  unfold cancelJob
  extract_lets -underBinder -merge _ _ s1 _ s2
  have hs1 : s1.ok := foldl_ok (fun h1 => ok_ite (updCore_ok h1 (fun h2 => filterAdd_ok h2)) h1) (updDie_ok (updDie_ok h))
  have hs2 : s2.ok := foldl_ok (fun h3 => by
    extract_lets -underBinder -merge s3
    have hs3 : s3.ok := updKernel_ok (freeEntry_ok h3)
    exact ok_ite (applySmask_ok hs3) hs3) hs1
  exact cancelAt_ok (cancelAt_ok hs2)

theorem execJcanApply_ok {src die : Nat} {s : State} (h : s.ok) : NextOk (execJcanApply src die s) := by
  unfold execJcanApply
  extract_lets -underBinder -merge
  split
  · exact h
  · split
    · extract_lets -underBinder -merge _ s'1
      have hs'1 : s'1.ok := markApplied_ok (chanPop_ok h)
      exact next_ite (staleDrop_ok (chanPop_ok h)) (next_ite (answerCore_ok (count_ok hs'1)) (next_ite (answerCore_ok hs'1) (foldl_ok (fun h1 => emit_ok h1) (cancelJob_ok hs'1))))
    · exact h

theorem execJcanComplete_ok {op : Nat} {s : State} (h : s.ok) : NextOk (execJcanComplete op s) := by
  unfold execJcanComplete
  split
  · exact h
  · split
    · exact h
    · extract_lets -underBinder -merge _ _ s1
      have hs1 : s1.ok := foldl_ok (fun h1 => ok_ite (updCore_ok h1 (fun h2 => h2)) h1) h
      split <;> exact emit_ok hs1

end Sys2Proof.Machine
end

section
/-! ### Kept by every step: command operands, matrix runs and copies (23) -/

namespace Sys2Proof.Machine

theorem cmdXlate_ok {s : State} {core : Nat} {c : Cmd} {va acc blk : Nat} (h : s.ok) : (cmdXlate s core c va acc blk).Ok :=
  engXlate_ok h

theorem askWord_ok {s : State} {core : Nat} {c : Cmd} {key : Nat} {p : Place} (h : s.ok) : (askWord s core c key p).Ok := by
  unfold askWord
  extract_lets -underBinder -merge
  split
  · exact AskR.ite (AskR.asked_ok (emit_ok h)) AskR.waits_ok
  · split
    · exact AskR.waits_ok
    · exact AskR.refused_ok
    · have h1 := ok_snd (peerAt_ok h) ‹_›
      exact AskR.ite AskR.refused_ok (AskR.ite (AskR.asked_ok (emit_ok h1)) AskR.waits_ok)
  · exact AskR.ite (AskR.asked_ok (emit_ok h)) AskR.waits_ok
  · split
    · exact AskR.fail_ok
    · split
      · exact AskR.stall_ok ((cmdXlate_ok h).stall ‹_›)
      · exact AskR.ite (AskR.asked_ok (emit_ok h)) AskR.waits_ok
  · exact AskR.refused_ok

theorem askAll_ok {core : Nat} {c : Cmd} {l : List (Nat × Place)} {s : State} {ks : List Nat} (h : s.ok) : (askAll core c l s ks).2.Ok := by
  induction l generalizing s ks with
  | nil => exact AskR.asked_ok h
  | cons x l ih =>
    unfold askAll
    split
    · exact ih ((askWord_ok h).asked ‹_›)
    · exact AskR.asked_ok h
    · exact AskR.asked_ok h
    · exact AskR.stall_ok ((askWord_ok h).stall ‹_›)
    · exact AskR.fail_ok

theorem gatherKeep_ok {s : State} {core : Nat} {r : RunCmd} {base w : Nat} {ps : List Place} (h : s.ok) : (gatherKeep s core r base w ps).Ok := by
  unfold gatherKeep
  extract_lets -underBinder -merge _ _ _ _ _ _ fresh1
  split
  · exact Got.all_ok h
  · unfold fresh1
    split
    · exact Got.some_ok h
    · split
      · exact Got.refused_ok
      · exact Got.some_ok h
      · exact Got.fail_ok
      · exact Got.some_ok ((askWord_ok h).stall ‹_›)
      next hasked =>
        have hall := fun l ks => askAll_ok (core := core) (c := r.cmd) (l := l) (ks := ks) ((askWord_ok h).asked hasked)
        split
        next hall' => exact Got.some_ok (updRun_ok ((hall _ _).asked (congrArg Prod.snd hall')))
        next hall' => exact Got.some_ok (updRun_ok ((hall _ _).stall (congrArg Prod.snd hall')))
        · exact Got.fail_ok

theorem gather_ok {s : State} {core : Nat} {r : RunCmd} {base w : Nat} {ps : List Place} (h : s.ok) : (gather s core r base w ps).Ok := by
  unfold gather
  split
  · exact Got.all_ok (updRun_ok ((gatherKeep_ok h).all ‹_›))
  · exact gatherKeep_ok h

theorem putLocal_ok {s : State} {core : Nat} {c : Cmd} {i a : Nat} {bs : List Byte} {full : Bool} (h : s.ok) : (putLocal s core c i a bs full).ok := by
  unfold putLocal
  extract_lets -underBinder -merge _ s1
  have hs1 : s1.ok := foldl_ok (fun h1 => emit_ok h1) h
  exact updRun_ok hs1

theorem tilesClear_ok {k : Core} {mask : Nat} (hk : k.ok) : (tilesClear k mask).ok :=
  hk

theorem fetchBlock_ok {s : State} {core : Nat} {r : RunCmd} {b w : Nat} (h : s.ok) : (fetchBlock s core r b w).Ok := by
  unfold fetchBlock
  extract_lets -underBinder -merge
  split
  · exact Fetch.fail_ok
  · extract_lets -underBinder -merge
    split
    · exact Fetch.more_ok ((gather_ok h).some_ ‹_›)
    · exact Fetch.fail_ok
    · exact Fetch.fail_ok
    · have h1 := (gather_ok h).all ‹_›
      exact Fetch.ok_ok (inject_ok h1)

theorem accBlock_ok {k : Core} {c cB : Cmd} {pos zt blk : Nat} {a b sa sb : List Nat} (hk : k.ok) : (accBlock k c cB pos zt blk a b sa sb).ok :=
  setTile_ok hk

theorem blockLost_ok {s : State} {core : Nat} {r : RunCmd} {b : Nat} (h : s.ok) : (blockLost s core r b).ok :=
  updRun_ok h

theorem fetchAhead_ok {s : State} {core : Nat} {r : RunCmd} {b w : Nat} (h : s.ok) : (fetchAhead s core r b w).ok := by
  unfold fetchAhead
  split
  · exact h
  · split
    · exact (fetchBlock_ok h).more ‹_›
    · exact blockLost_ok h
    · exact (fetchBlock_ok h).ok ‹_›

theorem mmaSStep_ok {s : State} {core : Nat} {r : RunCmd} {b w : Nat} (h : s.ok) : (mmaSStep s core r b w).ok := by
  unfold mmaSStep
  extract_lets -underBinder -merge
  split
  · exact fetchAhead_ok h
  · split
    · exact endRun_ok h
    · split
      · exact (fetchBlock_ok h).more ‹_›
      · exact endRun_ok h
      · have h1 := (fetchBlock_ok h).ok ‹_›
        extract_lets -underBinder -merge _ s1
        have hs1 : s1.ok := updCore_ok h1 (fun h2 => accBlock_ok h2)
        exact ok_ite (sealCore_ok (endRun_ok h1)) (syncHold_ok (updRun_ok hs1))

theorem endGang_ok {s : State} {gid st aux : Nat} (h : s.ok) : (endGang s gid st aux).ok :=
  foldl_ok (fun h1 => by
    split
    · exact endRun_ok h1
    · exact h1) h

theorem execMmagJoin_ok {gid : Nat} {s : State} (h : s.ok) : NextOk (execMmagJoin gid s) := by
  unfold execMmagJoin
  extract_lets -underBinder -merge _ _ _ gone1
  split
  · exact h
  · unfold gone1
    split
    · exact endGang_ok h
    · split
      · exact h
      · extract_lets -underBinder -merge
        split
        · exact endGang_ok h
        · exact foldl_ok (fun h1 => updRun_ok h1) h

theorem gangFetch_ok {s : State} {core : Nat} {r : RunCmd} {w : Nat} (h : s.ok) : (gangFetch s core r w).ok := by
  unfold gangFetch
  split
  · exact (fetchBlock_ok h).more ‹_›
  · exact blockLost_ok h
  · have h1 := (fetchBlock_ok h).ok ‹_›
    exact ok_ite (sealCore_ok h1) (updRun_ok h1)

theorem gangStep_ok {s : State} {rs : List ((Nat × Nat) × RunCmd)} (h : s.ok) : (gangStep s rs).ok :=
  foldl_ok (fun h1 => by
    extract_lets -underBinder -merge
    split
    · exact h1
    · split
      · extract_lets -underBinder -merge s1
        have hs1 : s1.ok := updCore_ok h1 (fun h2 => accBlock_ok h2)
        exact updRun_ok hs1
      · exact h1) h

theorem execMmagStep_ok {gid : Nat} {s : State} (h : s.ok) : NextOk (execMmagStep gid s) := by
  unfold execMmagStep
  extract_lets -underBinder -merge
  split
  · exact h
  · split
    · exact endGang_ok h
    · split
      · exact syncHolds_ok (endGang_ok h)
      · split
        · split
          · exact sealCore_ok h
          · exact foldl_ok (fun h1 => syncHold_ok h1) (gangStep_ok h)
        · exact foldl_ok (fun h2 => ok_ite h2 (gangFetch_ok h2)) h

theorem noteAsked_ok {s : State} {core cmd i : Nat} (h : s.ok) : (noteAsked s core cmd i).ok :=
  updRun_ok h

theorem writePa_ok {s : State} {core : Nat} {c : Cmd} {i : Nat} {v : Word} {bad : Bool} {a : Nat} {unc : Bool} (h : s.ok) : SomeOk (writePa s core c i v bad a unc) :=
  some_ite (noteAsked_ok (emit_ok h)) trivial

theorem writePlace_ok {s : State} {core : Nat} {c : Cmd} {i : Nat} {v : Word} {bad full : Bool} {p : Place} (h : s.ok) : SomeOk (writePlace s core c i v bad full p) := by
  unfold writePlace
  split
  · exact noteAsked_ok (emit_ok h)
  · split
    · exact trivial
    · have h1 := ok_snd (peerAt_ok h) ‹_›
      exact engDone_ok h1
    · have h2 := ok_snd (peerAt_ok h) ‹_›
      exact some_ite (engDone_ok h2) (some_ite (noteAsked_ok (emit_ok h2)) trivial)
  · exact writePa_ok h
  · split
    · exact endRun_ok h
    · split
      · exact (cmdXlate_ok h).stall ‹_›
      · exact writePa_ok h
  · exact engDone_ok h

theorem moveWord_ok {s : State} {core : Nat} {r : RunCmd} {i : Nat} {src dst : Place} {full : Bool} (h : s.ok) : (moveWord s core r i src dst full).ok := by
  unfold moveWord
  extract_lets -underBinder -merge
  split
  · exact h
  · split
    · split
      · have h1 := (writePlace_ok h).get ‹_›
        exact updRun_ok h1
      · exact h
    · split
      · exact (gather_ok h).some_ ‹_›
      · exact (gather_ok h).all ‹_›
      · exact engDone_ok h
      · exact endRun_ok h

theorem copyStep_ok {s : State} {core : Nat} {r : RunCmd} {i : Nat} (h : s.ok) : (copyStep s core r i).ok := by
  unfold copyStep
  extract_lets -underBinder -merge
  split
  · exact moveWord_ok h
  · exact h

theorem layreg_ok {s : State} {core : Nat} {r : RunCmd} {w : Nat} (h : s.ok) : (layreg s core r w).ok := by
  unfold layreg
  extract_lets -underBinder -merge
  split
  · exact endRun_ok h
  · split
    · exact (Got.ite (gather_ok h) Got.fail_ok).some_ ‹_›
    · exact endRun_ok h
    · exact endRun_ok h
    · have h1 := (Got.ite (gather_ok h) Got.fail_ok).all ‹_›
      split
      split
      · exact sealCore_ok (endRun_ok h1)
      · extract_lets -underBinder -merge
        split
        · exact endRun_ok h1
        · split
          · exact endRun_ok h1
          · split
            · exact endRun_ok h1
            · exact ok_ite (endRun_ok h1) (endRun_ok (updDie_ok h1))

theorem laydrop_ok {s : State} {core : Nat} {c : Cmd} (h : s.ok) : SomeSndOk (laydrop s core c) := by
  unfold laydrop
  extract_lets -underBinder -merge
  split
  · exact h
  · exact someSnd_ite trivial (updDie_ok h)

theorem strSend_ok {s : State} {core : Nat} {c : Cmd} {i : Nat} {e : EndRec} {op len : Nat} {body : StrmHdr → Body} (h : s.ok) : SomeOk (strSend s core c i e op len body) := by
  unfold strSend
  extract_lets -underBinder -merge
  split
  · exact trivial
  · have h1 := (sendRank_ok h).get ‹_›
    exact ok_ite (engDone_ok h1) (noteAsked_ok h1)

theorem fillStep_ok {s : State} {core : Nat} {r : RunCmd} {i : Nat} (h : s.ok) : (fillStep s core r i).ok := by
  unfold fillStep
  extract_lets -underBinder -merge _ ask1
  split
  · exact sealCore_ok (endRun_ok h)
  · split
    · split
      · unfold ask1
        split
        · exact (gather_ok h).some_ ‹_›
        · exact (gather_ok h).all ‹_›
        · exact endRun_ok h
      · exact h
    · split
      · exact updRun_ok (engDone_ok h)
      · split
        · exact updRun_ok (ok_ite (freeEnd_ok (engDone_ok h)) (engDone_ok h))
        · split
          · exact ok_ite h (updRun_ok (engDone_ok h))
          · split
            · split
              · exact h
              · have h1 := (strSend_ok h).get ‹_›
                exact updRun_ok (updEnd_ok h1)
            · split
              · exact h
              · split
                · unfold ask1
                  split
                  · exact (gather_ok h).some_ ‹_›
                  · exact (gather_ok h).all ‹_›
                  · exact endRun_ok h
                · split
                  · exact h
                  · have h2 := (strSend_ok h).get ‹_›
                    exact updRun_ok (updRun_ok (updEnd_ok h2))

theorem drainStep_ok {s : State} {core : Nat} {r : RunCmd} {i : Nat} (h : s.ok) : (drainStep s core r i).ok := by
  unfold drainStep
  extract_lets -underBinder -merge
  split
  · exact sealCore_ok (endRun_ok h)
  · split
    · exact h
    · split
      · exact updRun_ok h
      · split
        · exact ok_ite (updRun_ok h) h
        · split
          · split
            · exact (gather_ok h).some_ ‹_›
            · exact (gather_ok h).all ‹_›
            · exact endRun_ok h
          · split
            · exact h
            · have h1 := (writePlace_ok h).get ‹_›
              split
              · exact h1
              · extract_lets -underBinder -merge _ _ s1
                have hs1 : s1.ok := updRun_ok (updEnd_ok (updRun_ok h1))
                split
                · split
                  · exact tryEos_ok (credit_ok hs1)
                  · exact hs1
                · exact hs1

end Sys2Proof.Machine
end

section
/-! ### Kept by every step: reductions, and collectives with their leaves and rounds (02, 23) -/

namespace Sys2Proof.Machine

theorem redAt_ok {s : State} {core : Nat} {c : Cmd} (h : s.ok) : (redAt s core c).2.ok := by
  unfold redAt
  split
  · split
    · exact h
    · split <;> exact ok_snd (peerAt_ok h) ‹_›
  · exact h

theorem redFree_ok {s : State} {die : Nat} {g : RedG} (h : s.ok) : (redFree s die g).ok :=
  updDie_ok h

theorem redFinish_ok {s : State} {die : Nat} {g : RedG} (h : s.ok) : (redFinish s die g).ok := by
  unfold redFinish
  extract_lets -underBinder -merge s1 _ _ _ _ s2
  have hs1 : s1.ok := redFree_ok h
  have hs2 : s2.ok := updDie_ok (s := { s1 with opNext := s1.opNext + 1 }) hs1
  exact foldl_ok (fun h1 => emit_ok h1) hs2

theorem redPut_ok {s : State} {die : Nat} {g : RedG} (h : s.ok) : (redPut s die g).ok :=
  updDie_ok h

theorem redDrop_ok {s : State} {die : Nat} {g : RedG} (h : s.ok) : (redDrop s die g).ok :=
  updDie_ok h

theorem redStage_ok {s : State} {cid inc who tok : Nat} {c : RedC} (h : s.ok) : (redStage s cid inc who tok c).ok := by
  unfold redStage
  extract_lets -underBinder -merge
  split
  · exact ok_ite (redEnd_ok h) (ok_ite (redFinish_ok (updDie_ok h)) (redPut_ok (updDie_ok h)))
  · split
    · exact redPut_ok (redEnd_ok h)
    · split
      · exact redEnd_ok h
      · split
        · extract_lets -underBinder -merge s1
          have hs1 : s1.ok := foldl_ok (fun h1 => redEnd_ok h1) (redFree_ok (redEnd_ok h))
          exact redPut_ok hs1
        · exact ok_ite (redEnd_ok h) (ok_ite (redFinish_ok (redDrop_ok (updDie_ok h))) (redPut_ok (updDie_ok h)))

theorem redSend_ok {src cid inc slot tok : Nat} {c : RedC} {n : Nat} {l : List Nat} {s : State} (h : s.ok) : (redSend src cid inc slot tok c n l s).ok := by
  induction n generalizing s l with
  | zero => exact h
  | succ n ih => exact ok_ite h (ih (emit_ok h))

theorem redPart_ok {s : State} {cid inc who tok : Nat} {c : RedC} (h : s.ok) : (redPart s cid inc who tok c).ok :=
  ok_ite (redStage_ok (updDie_ok h)) (updDie_ok (updDie_ok h))

theorem redContribute_ok {s : State} {core : Nat} {r : RunCmd} {w : Nat} (h : s.ok) : (redContribute s core r w).ok := by
  unfold redContribute
  extract_lets -underBinder -merge
  split
  · exact h
  · split
    · exact h
    · have h1 := ok_snd (redAt_ok h) ‹_›
      exact endRun_ok h1
    · have h2 := ok_snd (redAt_ok h) ‹_›
      split
      split
      · exact h2
      · split
        · exact (gather_ok h2).some_ ‹_›
        · exact endRun_ok h2
        · exact endRun_ok h2
        · have h3 := (gather_ok h2).all ‹_›
          exact ok_ite (sealCore_ok (endRun_ok h3)) (ok_ite (redStage_ok (noteAsked_ok h3)) (redSend_ok (noteAsked_ok h3)))

theorem redWord_ok {s : State} {core : Nat} {r : RunCmd} {i w : Nat} (h : s.ok) : (redWord s core r i w).ok := by
  unfold redWord
  extract_lets -underBinder -merge
  split
  · exact h
  · split
    · exact h
    · have h1 := ok_snd (redAt_ok h) ‹_›
      exact engDone_ok h1
    · have h2 := ok_snd (redAt_ok h) ‹_›
      extract_lets -underBinder -merge
      split
      split
      · exact h2
      · split
        · exact (gather_ok h2).some_ ‹_›
        · exact engDone_ok h2
        · exact engDone_ok h2
        · have h3 := (gather_ok h2).all ‹_›
          split
          extract_lets -underBinder -merge
          split
          · exact sealCore_ok (endRun_ok h3)
          · split
            · extract_lets -underBinder -merge s1
              have hs1 : s1.ok := foldl_ok (fun h4 => redEnd_ok h4) (redFree_ok (endRun_ok h3))
              exact redPut_ok hs1
            · exact emit_ok (noteAsked_ok h3)

theorem redStep_ok {s : State} {core : Nat} {r : RunCmd} {i w : Nat} (h : s.ok) : (redStep s core r i w).ok :=
  ok_ite (redWord_ok h) (redContribute_ok h)

theorem execRedContributionArrive_ok {core cmd : Nat} {s : State} (h : s.ok) : NextOk (execRedContributionArrive core cmd s) := by
  unfold execRedContributionArrive
  split
  · exact h
  · exact next_ite (redStep_ok h) h

theorem execRedTimeout_ok {die cid tag : Nat} {s : State} (h : s.ok) : NextOk (execRedTimeout die cid tag s) :=
  foldl_ok (fun h1 => ok_ite (redDrop_ok h1) (foldl_ok (fun h2 => redEnd_ok h2) (redFree_ok (redDrop_ok h1)))) h

theorem copyMChips_ok {c cid : Nat} {l : List Nat} {s : State} (h : s.ok) : (copyMChips c cid l s).2.ok := by
  induction l generalizing s with
  | nil => exact h
  | cons r l ih =>
    unfold copyMChips
    split
    have h1 := ok_snd (resolve_ok h) ‹_›
    split
    · exact ih h1
    · exact ih h1
    · exact h1

theorem copyMStep_ok {s : State} {core : Nat} {r : RunCmd} {i w : Nat} (h : s.ok) : (copyMStep s core r i w).ok := by
  unfold copyMStep
  extract_lets -underBinder -merge
  split
  · exact h
  · split
    · exact h
    · extract_lets -underBinder -merge
      split
      · exact h
      · have h1 := ok_snd (copyMChips_ok h) ‹_›
        split
        · exact (gather_ok h1).some_ ‹_›
        · exact engDone_ok h1
        · exact engDone_ok h1
        · have h2 := (gather_ok h1).all ‹_›
          exact ok_ite (engDone_ok h2) (noteAsked_ok h2)

theorem leafData_ok {s : State} {p : Packet} {o : MOperand} {words : List (Word × Bool)} (h : s.ok) : (leafData s p o words).2.ok := by
  refine foldl_pred (φ := fun x : Bool × State => x.2.ok) (fun {x rank} hx => ?_) h _
  refine snd_ite hx ?_
  extract_lets -underBinder -merge
  split
  · exact hx
  · split
    · exact staleAt_ok hx
    · refine foldl_pred (φ := fun x : Bool × State => x.2.ok) (fun {y w} hy => ?_) hx _
      extract_lets -underBinder -merge
      split
      · exact hy
      · exact ok_ite (lmPoison_ok (lmWriteFull_ok hy)) (lmWriteFull_ok hy)

theorem collSend_ok {s : State} {core : Nat} {r : RunCmd} {w : Nat} (h : s.ok) : (collSend s core r w).ok := by
  unfold collSend
  extract_lets -underBinder -merge
  split
  · exact h
  · split
    · exact endRun_ok h
    · split
      · exact (gather_ok h).some_ ‹_›
      · exact endRun_ok h
      · exact endRun_ok h
      · have h1 := (gather_ok h).all ‹_›
        exact ok_ite (ok_ite (endRun_ok h1) (sealCore_ok (endRun_ok h1))) (updDie_ok (updRun_ok h1))

theorem updRound_ok {s : State} {die : Nat} {e : RoundE} {f : RoundE → RoundE} (h : s.ok) : (updRound s die e f).ok :=
  updDie_ok h

theorem leafResult_ok {s : State} {c : Contrib} {status : Nat} (h : s.ok) : (leafResult s c status).ok := by
  unfold leafResult
  split
  · exact h
  · split
    · exact h
    · extract_lets -underBinder -merge s1
      have hs1 : s1.ok := foldl_ok (fun h1 => by
        split
        split
        · exact endRun_ok h1
        · extract_lets -underBinder -merge
          split
          · exact endRun_ok (putLocal_ok h1)
          · exact h1) h
      exact updRound_ok hs1

theorem execCollTimeout_ok {core cmd : Nat} {s : State} (h : s.ok) : NextOk (execCollTimeout core cmd s) := by
  unfold execCollTimeout
  split
  · exact h
  · split
    · exact h
    · extract_lets -underBinder -merge
      split
      · exact updRound_ok (endRun_ok h)
      · exact (endRun_ok h)

end Sys2Proof.Machine
end

section
/-! ### Kept by every step: the NIC: work requests, packets, acknowledgements and losses -/

namespace Sys2Proof.Machine

theorem updNic_ok {s : State} {die : Nat} {f : Nic → Nic} (h : s.ok) : (updNic s die f).ok :=
  updDie_ok h

theorem postWrq_ok {s : State} {core : Nat} {c : Cmd} {w : List Word} {data : List Byte} (h : s.ok) : (postWrq s core c w data).ok :=
  updNic_ok h

theorem postAll_ok {core : Nat} {c : Cmd} {l : List (Nat × List Word × List Byte)} {s : State} (h : s.ok) : (postAll core c l s).2.ok := by
  induction l generalizing s with
  | nil => exact h
  | cons x l ih => exact snd_ite h (ih (postWrq_ok h))

theorem nicpost_ok {s : State} {core : Nat} {r : RunCmd} {w : Nat} (h : s.ok) : (nicpost s core r w).ok := by
  unfold nicpost
  extract_lets -underBinder -merge
  split
  · exact (gatherKeep_ok h).some_ ‹_›
  · exact endRun_ok h
  · exact endRun_ok h
  · have h1 := (gatherKeep_ok h).all ‹_›
    split
    split
    · exact sealCore_ok (endRun_ok h1)
    · extract_lets -underBinder -merge
      split
      · exact (gatherKeep_ok h1).some_ ‹_›
      · exact endRun_ok h1
      · exact endRun_ok h1
      · have h2 := (gatherKeep_ok h1).all ‹_›
        extract_lets -underBinder -merge
        split
        · exact sealCore_ok (endRun_ok (updRun_ok h2))
        · split
          · have h3 := ok_snd (postAll_ok (updRun_ok h2)) ‹_›
            exact endRun_ok h3
          · have h4 := ok_snd (postAll_ok (updRun_ok h2)) ‹_›
            exact endRun_ok h4

theorem rxPut_ok {s : State} {die : Nat} {x : RxPair} (h : s.ok) : (rxPut s die x).ok :=
  updNic_ok h

theorem sackSend_ok {s : State} {die : Nat} {x : RxPair} (h : s.ok) : (sackSend s die x).ok :=
  updNic_ok h

theorem nicRefuse_ok {s : State} {die : Nat} {p : NicPkt} (h : s.ok) : (nicRefuse s die p).ok :=
  updNic_ok h

theorem rxTake_ok {s : State} {die : Nat} {p : NicPkt} (h : s.ok) : (rxTake s die p).ok :=
  sackSend_ok (rxPut_ok h)

theorem cqAdd_ok {s : State} {die : Nat} {e : CqE} (h : s.ok) : (cqAdd s die e).ok :=
  ok_ite (count_ok h) (updNic_ok h)

theorem cctrAdd_ok {s : State} {die : Nat} {r : Wrq} {v : Nat} (h : s.ok) : (cctrAdd s die r v).ok := by
  unfold cctrAdd
  split
  · exact h
  · exact emit_ok h

theorem wrqEnd_ok {s : State} {die : Nat} {r : Wrq} {status : Nat} (h : s.ok) : (wrqEnd s die r status).ok :=
  ok_ite (cqAdd_ok (cctrAdd_ok (updNic_ok h))) (cctrAdd_ok (updNic_ok h))

theorem nicSettle_ok {s : State} {die : Nat} (h : s.ok) : (nicSettle s die).ok :=
  foldl_ok (fun h1 => wrqEnd_ok h1) h

theorem nicPlaced_ok {s : State} {die : Nat} (h : s.ok) : (nicPlaced s die).ok :=
  foldl_ok (fun h1 => rxTake_ok (updNic_ok h1)) h

theorem nicDue_ok {s : State} (h : s.ok) : (nicDue s).ok :=
  nicSettle_ok (nicSettle_ok (nicPlaced_ok (nicPlaced_ok h)))

theorem niccq_ok {s : State} {core : Nat} {c : Cmd} (h : s.ok) : (niccq s core c).ok :=
  updRun_ok (updNic_ok (putLocal_ok h))

theorem updPkt_ok {s : State} {die id psn : Nat} {f : WPkt → WPkt} (h : s.ok) : (updPkt s die id psn f).ok :=
  updNic_ok h

theorem execNicPacketSend_ok {die i : Nat} {s : State} (h : s.ok) : NextOk (execNicPacketSend die i s) := by
  unfold execNicPacketSend
  split
  · exact h
  · extract_lets -underBinder -merge
    split
    · exact h
    · exact next_ite h (updNic_ok (updPkt_ok h))

theorem pktLost_ok {s : State} {die : Nat} {r : Wrq} {p : WPkt} {hi : Nat} (h : s.ok) : (pktLost s die r p hi).ok :=
  ok_ite (wrqEnd_ok h) (updNic_ok (updPkt_ok h))

theorem execNicSackReceive_ok {die cid peer cum bitmap : Nat} {s : State} (h : s.ok) : NextOk (execNicSackReceive die cid peer cum bitmap s) := by
  unfold execNicSackReceive
  extract_lets -underBinder -merge s1
  have hs1 : s1.ok := foldl_ok (fun h1 => ok_ite (updPkt_ok h1) h1) h
  exact foldl_ok (fun h2 => ok_ite (pktLost_ok h2) h2) (nicSettle_ok hs1)

theorem execNicRetransmitTimeout_ok {die cid peer psn : Nat} {s : State} (h : s.ok) : NextOk (execNicRetransmitTimeout die cid peer psn s) := by
  unfold execNicRetransmitTimeout
  split
  · exact h
  · exact next_ite (pktLost_ok h) h

theorem execNicRefusalReceive_ok {die cid peer psn : Nat} {s : State} (h : s.ok) : NextOk (execNicRefusalReceive die cid peer psn s) := by
  unfold execNicRefusalReceive
  split
  · exact h
  · exact wrqEnd_ok h

theorem placeBytes_ok {s : State} {die cid inc tok va : Nat} {tr : Nat → Option Nat} {bs : List Byte} (h : s.ok) : (placeBytes s die cid inc tok va tr bs).2.ok := by
  refine foldl_pred (φ := fun x : Nat × State => x.2.ok) (fun {x q} hx => ?_) h _
  split
  · exact emit_ok hx
  · exact hx

theorem placeLocal_ok {s : State} {die : Nat} {r : Wrq} {tok a : Nat} {bs : List Byte} (h : s.ok) : (placeLocal s die r tok a bs).2.ok :=
  foldl_pred (φ := fun x : Nat × State => x.2.ok) (fun hx => emit_ok hx) h _

theorem placeNote_ok {s : State} {die cid inc : Nat} {p : NicPkt} {req : Option Nat} {n : Nat} (h : s.ok) : (placeNote s die cid inc p req n).ok :=
  updNic_ok h

theorem recvPlace_ok {s : State} {die : Nat} {r : Wrq} {p : NicPkt} (h : s.ok) : (recvPlace s die r p).ok := by
  unfold recvPlace
  extract_lets -underBinder -merge
  split
  have h1 := ok_snd (snd_ite (placeBytes_ok h) (placeLocal_ok h)) ‹_›
  exact placeNote_ok (updNic_ok h1)

theorem writePlaceAt_ok {s : State} {die : Nat} {p : NicPkt} (h : s.ok) : (writePlaceAt s die p).ok := by
  unfold writePlaceAt
  extract_lets -underBinder -merge
  split
  · exact nicRefuse_ok h
  · split
    have h1 := ok_snd (placeBytes_ok h) ‹_›
    exact placeNote_ok h1

theorem execNicPacketReceive_ok {die : Nat} {p : NicPkt} {s : State} (h : s.ok) : NextOk (execNicPacketReceive die p s) := by
  unfold execNicPacketReceive
  extract_lets -underBinder -merge
  split
  · exact nicRefuse_ok h
  · split
    · exact sackSend_ok h
    · split
      · exact writePlaceAt_ok h
      · split
        · exact nicRefuse_ok h
        · split
          · exact h
          · exact next_ite (nicRefuse_ok (rxPut_ok (wrqEnd_ok h))) (next_ite h (recvPlace_ok h))

end Sys2Proof.Machine
end

section
/-! ### Kept by every step: commands placed, started and ended, and their element operations (23) -/

namespace Sys2Proof.Machine

theorem afterPlace_ok {k : Core} {rd : Reg} {tok : Nat} {by_ : Option Nat} (hk : k.ok) : (afterPlace k rd tok by_).ok := by
  unfold afterPlace
  extract_lets -underBinder -merge _ k1
  have hk1 : k1.ok := by
    unfold k1
    split
    · exact clearRestart_ok (sampleStep_ok hk)
    · exact (sampleStep_ok hk)
  exact advance_ok (pendReg_ok hk1)

theorem placeCmd_ok {s : State} {rd : Reg} {ws : List Word} {mirror : Bool} (h : s.ok) : NextOk (placeCmd s rd ws mirror) := by
  unfold placeCmd
  extract_lets -underBinder -merge _ _ _ s1
  have hs1 : s1.ok := setCC_ok h (afterPlace_ok (cc_ok h))
  split
  · exact updCore_ok hs1 (fun h1 => afterPlace_ok h1)
  · exact hs1

theorem cmdOp_ok {s : State} {rd ra : Reg} {imm : BitVec 15} {nb : Bool} (h : s.ok) : NextOk (cmdOp s rd ra imm nb) :=
  next_ite (trap_ok h) (guardTrap_ok h (rowFirst_ok h (next_ite (sealCore_ok h) (next_ite (next_ite (writeX_ok h) h) (next_ite (pairFirst_ok h (fun h1 => placeCmd_ok h1)) (placeCmd_ok h))))))

theorem startHead_ok {s : State} {core : Nat} (h : s.ok) : SomeOk (startHead s core) := by
  unfold startHead
  extract_lets -underBinder -merge
  split
  · exact trivial
  · extract_lets -underBinder -merge
    split
    · exact trivial
    · split
      · exact updCore_ok (setCore_ok h (coreOf_ok h)) (fun h1 => h1)
      · split
        · exact trivial
        · split
          · exact trivial
          · extract_lets -underBinder -merge _ pop1
            have hpop1 : pop1.ok := ok_ite (updCore_ok (setCore_ok h (coreOf_ok h)) (fun h2 => popQ_ok h2)) (setCore_ok h (coreOf_ok h))
            exact some_ite (sealCore_ok h) (some_ite (count_ok hpop1) (updCore_ok hpop1 (fun h3 => h3)))

theorem execCommandStart_ok {core : Nat} {s : State} (h : s.ok) : NextOk (execCommandStart core s) := by
  unfold execCommandStart
  split
  · exact (startHead_ok h).get ‹_›
  · exact h

theorem zldStep_ok {s : State} {core : Nat} {r : RunCmd} {k w : Nat} (h : s.ok) : (zldStep s core r k w).ok := by
  unfold zldStep
  extract_lets -underBinder -merge
  split
  · exact (gather_ok h).some_ ‹_›
  · exact engDone_ok h
  · exact endRun_ok h
  · have h1 := (gather_ok h).all ‹_›
    exact ok_ite (sealCore_ok (endRun_ok h1)) (engDone_ok (updCore_ok (inject_ok h1) (fun h2 => setTile_ok h2)))

theorem zstStep_ok {s : State} {core : Nat} {r : RunCmd} {k : Nat} (h : s.ok) : (zstStep s core r k).ok := by
  unfold zstStep
  extract_lets -underBinder -merge
  split
  · exact h
  · split
    have h1 := ok_snd (inject_ok h) ‹_›
    split
    · exact (writePlace_ok h1).get ‹_›
    · exact h

theorem elemStep_ok {s : State} {core : Nat} {r : RunCmd} {e w : Nat} (h : s.ok) : (elemStep s core r e w).ok := by
  unfold elemStep
  extract_lets -underBinder -merge
  split
  · exact endRun_ok (updCore_ok h (fun h1 => tilesClear_ok h1))
  · exact zldStep_ok h
  · exact zstStep_ok h
  · exact mmaSStep_ok h
  · exact ok_ite (fetchAhead_ok h) h
  · exact copyStep_ok h
  · exact copyMStep_ok h
  · exact redStep_ok h
  · exact layreg_ok h
  · split
    · have h2 := (laydrop_ok h).get ‹_›
      exact endRun_ok h2
    · exact h
  · exact fillStep_ok h
  · exact drainStep_ok h
  · exact nicpost_ok h
  · exact niccq_ok h
  · exact collSend_ok h
  · exact updRun_ok h

theorem tryStep_ok {s : State} {core cmd k : Nat} (h : s.ok) : (tryStep s core cmd k).ok := by
  unfold tryStep
  split
  · exact h
  · exact ok_ite h (elemStep_ok h)

theorem signal_ok {s : State} {core : Nat} {c : Cmd} {st : Nat} {v : Word} (h : s.ok) : (signal s core c st v).ok := by
  unfold signal
  extract_lets -underBinder -merge s1
  have hs1 : s1.ok := ok_ite (updCore_ok h (fun h1 => setQreg_ok h1)) h
  exact ok_ite (mbBump_ok hs1) hs1

theorem execCommandComplete_ok {core cmd : Nat} {s : State} (h : s.ok) : NextOk (execCommandComplete core cmd s) := by
  unfold execCommandComplete
  extract_lets -underBinder -merge
  split
  · exact h
  · split
    · exact h
    · extract_lets -underBinder -merge _ _ _ s1
      have hs1 : s1.ok := ok_ite (deliver_ok (setCore_ok h (coreOf_ok h))) (setCore_ok h (coreOf_ok h))
      split
      · exact setCore_ok h (coreOf_ok h)
      · split
        · exact signal_ok (signal_ok hs1)
        · exact (signal_ok hs1)

theorem runAll_ok {s : State} {core cmd : Nat} (h : s.ok) : (runAll s core cmd).ok := by
  unfold runAll
  split
  · exact h
  · exact foldl_ok (fun h1 => tryStep_ok h1) h

theorem tileCmd_ok {code : Nat} {w0 w1 w2 w3 : Word} {s : State} (h : s.ok) : NextOk (tileCmd code w0 w1 w2 w3 s) := by
  unfold tileCmd
  extract_lets -underBinder -merge _ going1
  have hgoing1 : going1.ok := by
    unfold going1
    split
    · exact runAll_ok h
    · exact h
  split
  · split
    · split
      · have h1 := (startHead_ok h).get ‹_›
        exact runAll_ok h1
      · exact hgoing1
    · exact hgoing1
  · exact hgoing1

end Sys2Proof.Machine
end

section
/-! ### Kept by every step: kills, reclamation, translation requests and migration windows (03, 08) -/

namespace Sys2Proof.Machine

theorem stopReport_ok {s : State} {a : Act} {aborts : Nat} {pc : Word} {counted : Bool} (h : s.ok) : (stopReport s a aborts pc counted).ok := by
  unfold stopReport
  extract_lets -underBinder -merge _ s1
  have hs1 : s1.ok := by
    unfold s1
    split
    · exact ok_ite (failRec_ok h) h
    · exact h
  exact ok_ite hs1 (report_ok hs1)

theorem stopAct_ok {s : State} {c : Nat} (h : s.ok) : (stopAct s c).ok := by
  unfold stopAct
  split
  have h1 := ok_snd (unpair_ok h) ‹_›
  extract_lets -underBinder -merge
  split
  · exact h1
  · extract_lets -underBinder -merge s1
    have hs1 : s1.ok := stopReport_ok (reportSettings_ok h1)
    exact updCore_ok (disarm_ok (leaveGang_ok hs1)) (fun h2 => clearRun_ok h2)

theorem stopSucc_ok {s : State} {c : Nat} (h : s.ok) : (stopSucc s c).ok := by
  unfold stopSucc
  split
  · exact h
  · exact updCore_ok (leaveGang_ok (stopReport_ok h)) (fun h1 => h1)

theorem freeOut_ok {s : State} {c cid old : Nat} (h : s.ok) : (freeOut s c cid old).ok :=
  updCore_ok h (fun h1 => h1)

theorem killCore_ok {s : State} {c cid old : Nat} (h : s.ok) : (killCore s c cid old).ok := by
  unfold killCore
  extract_lets -underBinder -merge _ _ s1 s2 _ s3 s4 _ _ s5 s6 s7 _ _ s8
  have hs1 : s1.ok := ok_ite (stopSucc_ok (ok_ite (stopAct_ok h) h)) (ok_ite (stopAct_ok h) h)
  have hs2 : s2.ok := updCore_ok hs1 (fun h1 => h1)
  have hs3 : s3.ok := ok_ite (updCore_ok hs2 (fun h2 => clearBank_ok h2)) hs2
  have hs4 : s4.ok := updCore_ok hs3 (fun h3 => h3)
  have hs5 : s5.ok := updCore_ok hs4 (fun h4 => h4)
  have hs6 : s6.ok := foldl_ok (fun h5 => markApplied_ok (handleDead_ok (staleAt_ok h5))) hs5
  have hs7 : s7.ok := foldl_ok (fun h6 => killEnd_ok h6) hs6
  have hs8 : s8.ok := updCore_ok (freeOut_ok hs7) (fun h7 => h7)
  exact pendNow_ok hs8

theorem killRtu_ok {s : State} {die n cid old : Nat} (h : s.ok) : (killRtu s die n cid old).ok := by
  unfold killRtu
  extract_lets -underBinder -merge _ _ _ _ _ s1
  have hs1 : s1.ok := foldl_ok (fun h1 => updCore_ok h1 (fun h2 => h2)) (updRtu_ok h)
  exact syncHolds_ok (foldl_ok (fun h3 => count_ok h3) hs1)

theorem killSlice_ok {s : State} {a cid old : Nat} (h : s.ok) : (killSlice s a cid old).ok :=
  foldl_ok (fun h1 => foldl_ok (fun h2 => staleDrop_ok h2) (ok_ite h1 (setMig_ok h1))) h

theorem killRuns_ok {s : State} {on : Nat → Bool} {eng cid old : Nat} (h : s.ok) : (killRuns s on eng cid old).ok := by
  obtain ⟨hmem, hcores⟩ := (ok_iff s).mp h
  refine (ok_iff _).mpr ⟨hmem, fun p hp => ?_⟩
  obtain ⟨q, hq, rfl⟩ := List.mem_map.mp hp
  split
  · exact hcores q hq
  · exact hcores q hq

theorem killDisp_ok {s : State} {die cid old : Nat} (h : s.ok) : (killDisp s die cid old).ok :=
  updDisp_ok h

theorem killLocks_ok {s : State} {die sl cid old : Nat} (h : s.ok) : (killLocks s die sl cid old).ok :=
  updDisp_ok h

theorem killSched_ok {s : State} {die cid old new : Nat} (h : s.ok) : (killSched s die cid old new).ok := by
  unfold killSched
  extract_lets -underBinder -merge _ s1
  have hs1 : s1.ok := foldl_ok (fun h1 => rampDown_ok (updKernel_ok (freeEntry_ok h1))) h
  exact hs1

theorem killStore_ok {s : State} {die cid old : Nat} {restore : Bool} (h : s.ok) : (killStore s die cid old restore).ok := by
  unfold killStore
  extract_lets -underBinder -merge s1
  have hs1 : s1.ok := foldl_ok (fun h1 => foldl_ok (fun h2 => by
    extract_lets -underBinder -merge _ s2
    have hs2 : s2.ok := ok_ite (failMsg_ok (handleDead_ok (ovFree_ok h2))) (handleDead_ok (ovFree_ok h2))
    exact count_ok hs2) (setOv_ok h1)) h
  exact foldl_ok (fun h3 => redDrop_ok (redFree_ok h3)) (updDie_ok hs1)

theorem killFabric_ok {s : State} {die cid old : Nat} (h : s.ok) : (killFabric s die cid old).ok := by
  unfold killFabric
  extract_lets -underBinder -merge s1 s2
  have hs1 : s1.ok := killRuns_ok h
  have hs2 : s2.ok := updDie_ok hs1
  exact hs2

theorem killNic_ok {s : State} {die cid old : Nat} (h : s.ok) : (killNic s die cid old).ok :=
  updNic_ok (killRuns_ok h)

theorem applyKill_ok {s : State} {a cid old new : Nat} {restore : Bool} (h : s.ok) : (applyKill s a cid old new restore).ok := by
  unfold applyKill
  extract_lets -underBinder -merge
  split
  · exact killSlice_ok h
  · exact killRuns_ok h
  · exact killNic_ok h
  · exact ok_ite (killDisp_ok h) (killLocks_ok h)
  · split
    · exact killFabric_ok h
    · exact h
    · exact h
    · exact killSched_ok h
    · exact killStore_ok h
    · exact ok_ite (killRtu_ok h) h
  · exact killCore_ok h

theorem execIncarnationBroadcast_ok {agent cid inc : Nat} {s : State} (h : s.ok) : NextOk (execIncarnationBroadcast agent cid inc s) := by
  unfold execIncarnationBroadcast
  split
  · exact h
  · exact updOp_ok (applyKill_ok h)

theorem execKillAckReceive_ok {agent cid : Nat} {s : State} (h : s.ok) : NextOk (execKillAckReceive agent cid s) := by
  unfold execKillAckReceive
  split
  · exact h
  · exact opSettle_ok (updOp_ok h)

theorem execReclQuery_ok {agent cid : Nat} {s : State} (h : s.ok) : NextOk (execReclQuery agent cid s) := by
  unfold execReclQuery
  split
  · exact h
  · exact updOp_ok h

theorem execReclAnswer_ok {agent cid : Nat} {s : State} (h : s.ok) : NextOk (execReclAnswer agent cid s) := by
  unfold execReclAnswer
  split
  · exact h
  · exact next_ite h (updOp_ok h)

theorem execReclAnswerReceive_ok {agent cid : Nat} {s : State} (h : s.ok) : NextOk (execReclAnswerReceive agent cid s) := by
  unfold execReclAnswerReceive
  split
  · exact h
  · exact opSettle_ok (updOp_ok h)

theorem execTranslationRequest_ok {die rtu : Nat} {s : State} (h : s.ok) : NextOk (execTranslationRequest die rtu s) := by
  unfold execTranslationRequest
  extract_lets -underBinder -merge
  split
  · exact h
  · split
    · exact (serveReq_ok (updRtu_ok h)).get ‹_›
    · exact h

theorem execFstoExpire_ok {die rtu idx : Nat} {s : State} (h : s.ok) : NextOk (execFstoExpire die rtu idx s) := by
  unfold execFstoExpire
  split
  · exact h
  · exact next_ite (resolveSlot_ok h) h

theorem execFresRetry_ok {die cid : Nat} {v : Word} {s : State} (h : s.ok) : NextOk (execFresRetry die cid v s) :=
  next_ite (resWrite_ok h) h

theorem execFresFail_ok {die cid : Nat} {v : Word} {s : State} (h : s.ok) : NextOk (execFresFail die cid v s) :=
  next_ite (resWrite_ok h) h

theorem execS2resRetry_ok {die : Nat} {v : Word} {s : State} (h : s.ok) : NextOk (execS2resRetry die v s) :=
  next_ite (resWrite_ok h) h

theorem execS2resFail_ok {die : Nat} {v : Word} {s : State} (h : s.ok) : NextOk (execS2resFail die v s) :=
  next_ite (resWrite_ok h) h

theorem execTlbinvArrive_ok {die rtu op : Nat} {s : State} (h : s.ok) : NextOk (execTlbinvArrive die rtu op s) := by
  unfold execTlbinvArrive
  split
  · exact h
  · extract_lets -underBinder -merge _ _ _ _ s1
    have hs1 : s1.ok := foldl_ok (fun h1 => unstall_ok h1) h
    exact syncHolds_ok (updOp_ok (updRtu_ok hs1))

theorem execTlbinvAck_ok {die rtu op : Nat} {s : State} (h : s.ok) : NextOk (execTlbinvAck die rtu op s) := by
  unfold execTlbinvAck
  split
  · exact h
  · exact next_ite h (updOp_ok (updRtu_ok h))

theorem execTlbinvAckReceive_ok {die rtu op : Nat} {s : State} (h : s.ok) : NextOk (execTlbinvAckReceive die rtu op s) := by
  unfold execTlbinvAckReceive
  extract_lets -underBinder -merge
  split
  · exact h
  · exact opSettle_ok (updOp_ok h)

theorem execMigwinHold_ok {die n : Nat} {v : Word} {s : State} (h : s.ok) : NextOk (execMigwinHold die n v s) :=
  next_ite (migWrite0_ok h) h

end Sys2Proof.Machine
end

section
/-! ### Kept by every step: boot, configuration, registers of the host, rows and power (03, 04) -/

namespace Sys2Proof.Machine

theorem retireRow_ok {s : State} {row : Nat} (h : s.ok) : (retireRow s row).ok :=
  updDie_ok h

theorem cfgApply_ok {s : State} {r : List Byte} (h : s.ok) : (cfgApply s r).ok := by
  unfold cfgApply
  extract_lets -underBinder -merge _ _ _ src1
  have hsrc1 : src1.ok := foldl_ok (fun h1 => retireRow_ok h1) h
  exact hsrc1

theorem raiseFloor_ok {s : State} {cfg : Option (List Byte)} (h : s.ok) : (raiseFloor s cfg).ok :=
  h

theorem execBoot_ok {s : State} (h : s.ok) : NextOk (execBoot s) := by
  unfold execBoot
  split
  · exact h
  · extract_lets -underBinder -merge
    split
    · exact h
    · split
      · exact h
      · split
        · exact h
        · split
          · exact raiseFloor_ok (cfgApply_ok h)
          · exact raiseFloor_ok h

theorem execAttestationRequest_ok {nonce : List Byte} {s : State} (h : s.ok) : NextOk (execAttestationRequest nonce s) :=
  next_ite h h

theorem hostRead_ok {s : State} {die off n : Nat} (h : s.ok) : (hostRead s die off n).ok :=
  regRead_ok h

theorem execWindowSubmission_ok {die cid off : Nat} {data : List Byte} {s : State} (h : s.ok) : NextOk (execWindowSubmission die cid off data s) :=
  next_ite (submit_ok h) h

theorem ctxWrite_ok {s : State} {cid w : Nat} {v : Word} (h : s.ok) : (ctxWrite s cid w v).ok := by
  unfold ctxWrite
  split
  · extract_lets -underBinder -merge _ _ s1 s2
    have hs1 : s1.ok := updCtx_ok h
    have hs2 : s2.ok := ok_ite hs1 hs1
    exact updDie_ok (updDie_ok hs2)
  · exact updCtx_ok h
  · exact updCtx_ok h

theorem spanWrite_ok {s : State} {n i chip : Nat} (h : s.ok) : (spanWrite s n i chip).ok :=
  h

theorem flashWrite_ok {s : State} {which i : Nat} {v : Word} (h : s.ok) : (flashWrite s which i v).ok :=
  h

theorem senseAt_ok {s : State} {die : Nat} {ctl v : Word} (h : s.ok) : (senseAt s die ctl v).ok := by
  unfold senseAt
  split
  · exact updDie_ok h
  · exact updDie_ok h
  · exact updDie_ok (updDie_ok h)
  · exact h

theorem execThresholdCrossing_ok {die u : Nat} {v : Word} {s : State} (h : s.ok) : NextOk (execThresholdCrossing die u v s) := by
  unfold execThresholdCrossing
  extract_lets -underBinder -merge
  split
  · exact h
  · split
    · exact (senseAt_ok h)
    · split
      have h1 := ok_snd (freshMsg_ok (senseAt_ok h)) ‹_›
      extract_lets -underBinder -merge
      split
      · exact setThr_ok h1
      · split
        · have h2 := (agentSend_ok h1).get ‹_›
          exact setThr_ok h2
        · exact h1

theorem spoil_ok {s : State} {core kind i : Nat} (h : s.ok) : (spoil s core kind i).ok := by
  unfold spoil
  split
  · exact lmPoison_ok h
  · exact ok_ite h (updCore_ok h (fun h1 => h1))
  · exact updCore_ok h (fun h2 => setTile_ok h2)
  · exact updCore_ok h (fun h3 => h3)
  · exact updCore_ok h (fun h4 => core_ite h4 h4)
  · exact updCore_ok h (fun h5 => updSlot_ok h5)
  · exact memPoisonAdd_ok h

theorem storageError_ok {s : State} {core kind i : Nat} {hard : Bool} (h : s.ok) : (storageError s core kind i hard).ok := by
  unfold storageError
  extract_lets -underBinder -merge
  split
  · exact updRtu_ok h
  · exact updRtu_ok h
  · exact ok_ite (count_ok (spoil_ok h)) (count_ok h)

theorem execRegisterWrite_ok {die off width : Nat} {v : Word} {s : State} (h : s.ok) : NextOk (execRegisterWrite die off width v s) := by
  unfold execRegisterWrite
  split
  · exact regWrite_ok h
  · exact regWrite_ok h
  · exact ctxWrite_ok h
  · exact spanWrite_ok h
  · exact flashWrite_ok h
  · exact h
  · exact h
  · exact h
  · exact h
  · exact hostRead_ok h
  · exact hostRead_ok h
  · exact storageError_ok h
  · exact h

theorem execFailureRecordWrite_ok {s : State} (h : s.ok) : NextOk (execFailureRecordWrite s) := by
  unfold execFailureRecordWrite
  split
  · exact h
  · exact next_ite (mgmtTo_ok h) (ringAdd_ok h)

theorem putImage_ok {k : Core} {slot : Nat} {i : Image} {r : Resident} (hk : k.ok) : (putImage k slot i r).ok := by
  have hlm : Memory.wf (i.mem.foldl (fun m x => wrBytes m x.1 x.2) k.lm) = true :=
    foldl_pred (φ := fun m : Memory => Memory.wf m = true) (fun hm => wrBytes_wf _ _ _ hm) (lm_wf hk) _
  exact setSlot_ok (setLm_ok hk hlm)

theorem keepMsg_ok {s : State} {c slot : Nat} {m : QMsg} {bs : List Byte} (h : s.ok) : (keepMsg s c slot m bs).ok :=
  updCore_ok (ok_ite h (lmWrite_ok h)) (fun h1 => updSlot_ok h1)

theorem execResidentRebuild_ok {core slot target tslot : Nat} {s : State} (h : s.ok) : NextOk (execResidentRebuild core slot target tslot s) := by
  unfold execResidentRebuild
  extract_lets -underBinder -merge
  split
  · split
    · exact h
    · extract_lets -underBinder -merge _ _ _ s1 _ s2 s3 _ s4
      have hs1 : s1.ok := updCore_ok h (fun h1 => putImage_ok h1)
      have hs2 : s2.ok := foldl_ok (fun h2 => foldl_ok (fun h3 => by
        split
        · exact failMsg_ok (msgGone_ok h3)
        · split
          · exact keepMsg_ok h3
          · exact failMsg_ok (msgGone_ok h3)) h2) (moveEnds_ok hs1)
      have hs3 : s3.ok := updCore_ok hs2 (fun h4 => setSlot_ok h4)
      have hs4 : s4.ok := foldl_ok (fun h5 => ok_ite (resend_ok (updCore_ok h5 (fun h6 => h6))) h5) (putRank_ok hs3)
      exact next_ite h (ok_ite hs4 (failRec_ok hs4))
  · exact h

theorem fenceRow_ok {s : State} {row : Nat} (h : s.ok) : (fenceRow s row).ok :=
  updDie_ok h

theorem execCoreTestComplete_ok {core : Nat} {pass : Bool} {s : State} (h : s.ok) : NextOk (execCoreTestComplete core pass s) := by
  unfold execCoreTestComplete
  extract_lets -underBinder -merge
  split
  · exact h
  · split
    · exact updCore_ok h fun hk => setLm_ok hk rfl
    · exact next_ite (fenceRow_ok h) h

theorem execPairTimeout_ok {core : Nat} {s : State} (h : s.ok) : NextOk (execPairTimeout core s) := by
  unfold execPairTimeout
  extract_lets -underBinder -merge
  split
  · exact next_ite (abortWith_ok h) h
  · exact h

theorem relocate_ok {s : State} {r : Resident} {c slot d dslot : Nat} (h : s.ok) : SomeOk (relocate s r c slot d dslot) :=
  some_ite trivial (putRank_ok (moveSlot_ok h))

/-- By the definition itself, as `clearRow_empty`: Lean derives no equation of `clearRow` within its recursion depth. -/
theorem clearRow_ok {row : Nat} {l : List (Nat × Nat)} {x : State × List Away} (h : x.1.ok) : SomeFstOk (clearRow row l x) := by
  induction l generalizing x with
  | nil =>
    obtain ⟨s, away⟩ := x
    change SomeFstOk (some (s, away))
    exact h
  | cons p l ih =>
    obtain ⟨s, away⟩ := x
    obtain ⟨c, slot⟩ := p
    change SomeFstOk (match (slotOf (coreOf s c) slot).resident with | none => clearRow row l (s, away) | some _ => _)
    split
    · exact ih h
    · split
      next hfound =>
        obtain ⟨q, -, hq⟩ := List.exists_of_findSome?_eq_some hfound
        obtain ⟨u, hu, hpair⟩ := Option.map_eq_some_iff.mp hq
        obtain ⟨rfl, rfl⟩ := Prod.mk.inj hpair
        exact ih ((relocate_ok h).get hu)
      · trivial

theorem returnRow_ok {l : List Away} {s : State} (h : s.ok) : SomeOk (returnRow l s) := by
  induction l generalizing s with
  | nil => exact h
  | cons a l ih =>
    unfold returnRow
    split
    · exact ih h
    · cases hmoved : relocate s a.res a.nowCore a.nowSlot a.core a.slot with
      | none => trivial
      | some t => exact ih ((relocate_ok h).get hmoved)

theorem execRowTestStart_ok {die row : Nat} {s : State} (h : s.ok) : NextOk (execRowTestStart die row s) := by
  unfold execRowTestStart
  extract_lets -underBinder -merge
  split
  · exact h
  · split
    · exact h
    · have h1 := (clearRow_ok h).get ‹_›
      exact updDie_ok h1

theorem execRowTestComplete_ok {die row : Nat} {pass : Bool} {s : State} (h : s.ok) : NextOk (execRowTestComplete die row pass s) := by
  unfold execRowTestComplete
  extract_lets -underBinder -merge
  split
  · exact h
  · split
    · split
      · exact (returnRow_ok (updDie_ok h)).get ‹_›
      · exact h
    · exact fenceRow_ok h

theorem execPowerUp_ok {s : State} (h : s.ok) : NextOk (execPowerUp s) := by
  have hoff : ∀ {s : State} {d : Nat}, s.ok → (updDie s d fun x => { x with rows := x.rows.map fun r => (r.1, { r.2 with powered := false }) }).ok :=
    fun h => updDie_ok h
  unfold execPowerUp
  split
  · exact h
  · extract_lets -underBinder -merge off
    have hs1 : (off (off s 0) 1).ok := hoff (hoff h)
    exact next_ite h hs1

theorem execRowGroupPowerOn_ok {g : Nat} {s : State} (h : s.ok) : NextOk (execRowGroupPowerOn g s) := by
  unfold execRowGroupPowerOn
  split
  · exact h
  · exact next_ite h (foldl_ok (fun h1 => ok_ite h1 (updDie_ok h1)) h)

theorem execTrimStepDemand_ok {die row cause step : Nat} {s : State} (h : s.ok) : NextOk (execTrimStepDemand die row cause step s) :=
  next_ite h (updDie_ok h)

theorem execTrimStepGrant_ok {s : State} (h : s.ok) : NextOk (execTrimStepGrant s) := by
  unfold execTrimStepGrant
  extract_lets -underBinder -merge
  split
  · exact h
  · split
    · exact h
    · extract_lets -underBinder -merge s1
      have hs1 : s1.ok := updDie_ok h
      exact hs1

theorem execEnergyUpdate_ok {die kid uj : Nat} {s : State} (h : s.ok) : NextOk (execEnergyUpdate die kid uj s) :=
  next_ite (updDie_ok h) h

end Sys2Proof.Machine
end

section
/-! ### Kept by every step: flits, ports and the recovery of a link (01) -/

namespace Sys2Proof.Machine

theorem execFlitReceive_ok {port : Nat} {f : Flit} {s : State} (h : s.ok) : NextOk (execFlitReceive port f s) :=
  next_ite h (updPort_ok h)

theorem execRecoveryRequestReceive_ok {port lseq step : Nat} {s : State} (h : s.ok) : NextOk (execRecoveryRequestReceive port lseq step s) := by
  unfold execRecoveryRequestReceive
  extract_lets -underBinder -merge
  split
  · exact h
  · split
    · exact h
    · exact next_ite (updPort_ok h) (next_ite (updPort_ok h) h)

theorem execParityIncrementReceive_ok {port : Nat} {f : Flit} {s : State} (h : s.ok) : NextOk (execParityIncrementReceive port f s) :=
  next_ite h (next_ite (updPort_ok h) (next_ite (updPort_ok h) (next_ite h (updPort_ok h))))

theorem execRecoveryRetryTimeout_ok {port lseq : Nat} {s : State} (h : s.ok) : NextOk (execRecoveryRetryTimeout port lseq s) := by
  unfold execRecoveryRetryTimeout
  extract_lets -underBinder -merge
  split
  · exact h
  · exact next_ite (updPort_ok h) h

theorem execLinkrecmaxExpire_ok {port lseq : Nat} {s : State} (h : s.ok) : NextOk (execLinkrecmaxExpire port lseq s) := by
  unfold execLinkrecmaxExpire
  extract_lets -underBinder -merge
  split
  · exact h
  · exact next_ite (updPort_ok h) h

theorem execPortTraining_ok {port : Nat} {partnerOk : Bool} {s : State} (h : s.ok) : NextOk (execPortTraining port partnerOk s) :=
  next_ite h (updPort_ok h)

theorem execRetrainComplete_ok {port : Nat} {four : Bool} {s : State} (h : s.ok) : NextOk (execRetrainComplete port four s) :=
  next_ite h (updPort_ok h)

theorem execPacketInject_ok {port n : Nat} {s : State} (h : s.ok) : NextOk (execPacketInject port n s) := by
  have hdrawn : ∀ ps : List Packet, (ps.foldl (fun (x : List Byte × State) p => let (f, s) := drawFree x.2; (x.1 ++ packetBytes p f, s)) ([], s)).2.ok :=
    fun ps => by
      refine foldl_pred (φ := fun x : List Byte × State => x.2.ok) (fun hx => ?_) ?_ ps
      · exact drawFree_ok hx
      · exact h
  unfold execPacketInject
  extract_lets -underBinder -merge
  split
  · exact h
  · split
    · exact ok_ite (updPort_ok h) h
    · split
      extract_lets -underBinder -merge
      split
      · exact ok_ite (updPort_ok h) h
      · split
        · exact h
        · split
          have h1 := ok_snd (hdrawn _) ‹_›
          split
          have h2 := ok_snd (inject_ok h1) ‹_›
          extract_lets -underBinder -merge _ _ s1
          have hs1 : s1.ok := updPort_ok h2
          exact hs1

end Sys2Proof.Machine
end

section
/-! ### Kept by every step: packets between chips, multicast and combining (02) -/

namespace Sys2Proof.Machine

theorem startFor_ok {s : State} {o : Op} (h : s.ok) : (startFor s o).ok :=
  h

theorem chipBack_ok {s : State} {tok chip : Nat} (h : s.ok) : (chipBack s tok chip).ok :=
  updOp_ok h

theorem remoteKill_ok {s : State} {p : Packet} {cid inc : Nat} (h : s.ok) : (remoteKill s p cid inc).ok :=
  startFor_ok (broadcast_ok (updCtx_ok h))

theorem homeStatus_ok {s : State} {tok status : Nat} (h : s.ok) : (homeStatus s tok status).ok := by
  unfold homeStatus
  split
  · exact h
  · exact ok_ite (opDone_ok h) (ok_ite (mgmtTo_ok h) (ok_ite (opDone_ok h) h))

theorem learn_ok {s : State} {p : Packet} (h : s.ok) : (learn s p).ok := by
  unfold learn
  split
  · exact ok_ite h h
  · exact h

theorem adjFrom_ok {s : State} {p : Packet} {a : AdjReg} {what tok : Nat} (h : s.ok) : (adjFrom s p a what tok).ok := by
  unfold adjFrom
  extract_lets -underBinder -merge
  split
  · exact ok_ite (mgmtTo_ok h) (ok_ite (mgmtTo_ok h) (mgmtTo_ok h))
  · exact mgmtTo_ok h
  · exact h

theorem manage_ok {s : State} {p : Packet} {code arg : Nat} (h : s.ok) : (manage s p code arg).ok := by
  unfold manage
  extract_lets -underBinder -merge
  split
  · exact startFor_ok (cancelJob_ok h)
  · exact h
  · exact startFor_ok (setRank_ok h)
  · exact opSettle_ok (updOp_ok h)
  · exact startFor_ok h
  · exact chipBack_ok h
  · exact startFor_ok h
  · exact chipBack_ok h
  · split
    · exact chipBack_ok h
    · exact h
  · exact peersDead_ok h
  · exact endRun_ok h
  · exact failRec_ok h
  · exact h
  · exact h
  · split
    · exact putCursors_ok h
    · exact h
  · exact adjBack_ok h
  · split <;> exact h
  · extract_lets -underBinder -merge
    split
    · exact settleKernel_ok (gatesDone_ok (updKernel_ok h))
    · exact (updKernel_ok h)
  · exact bringRank_ok h
  · exact updCore_ok h (fun h1 => h1)
  · exact setEvents_ok h
  · exact putEvents_ok h
  · exact homeKill_ok h
  · exact homeStatus_ok h
  · exact homeRecl_ok h
  · exact h

theorem notePair_ok {s : State} {src mtag : Nat} {drop due : Bool} (h : s.ok) : (notePair s src mtag drop due).ok := by
  unfold notePair
  split <;> exact h

theorem leafApply_ok {s : State} {p : Packet} (h : s.ok) : (leafApply s p).2.ok := by
  unfold leafApply
  split
  · exact count_ok h
  · split
    · exact count_ok h
    · split
      · exact count_ok h
      · split
        · exact leafData_ok h
        · exact leafResult_ok h
        · exact h

theorem formCopies_ok {p : Packet} {hd : MsgHdr} {pay : List Byte} {l : List Nat} {s : State} (h : s.ok) : (formCopies p hd pay l s).ok := by
  induction l generalizing s with
  | nil => exact h
  | cons i l ih => exact ih (ok_ite (report_ok (failRec_ok (freshMsg_ok h))) (forwardTo_ok (freshMsg_ok h)))

theorem handOff_ok {s : State} {p : Packet} (h : s.ok) : (handOff s p).ok := by
  unfold handOff
  extract_lets -underBinder -merge
  split
  · exact formCopies_ok (learn_ok h)
  · exact ok_ite (learn_ok h) (notePair_ok (leafApply_ok (learn_ok h)))
  · exact redPart_ok (learn_ok h)
  · exact ok_ite (engGot_ok (learn_ok h)) (ok_ite (chanPush_ok (learn_ok h)) (learn_ok h))
  · exact ok_ite (chanPush_ok (learn_ok h)) (learn_ok h)
  · exact ok_ite (ok_ite (engLost_ok (learn_ok h)) (engDone_ok (learn_ok h))) (ok_ite (chanPush_ok (learn_ok h)) (markApplied_ok (learn_ok h)))
  · exact remoteKill_ok (learn_ok h)
  · exact chanPush_ok (learn_ok h)
  · exact manage_ok (learn_ok h)
  · exact adjFrom_ok (learn_ok h)
  · exact chanPush_ok (learn_ok h)

theorem takeIn_ok {s : State} {p : Packet} (h : s.ok) : (takeIn s p).ok := by
  unfold takeIn
  extract_lets -underBinder -merge _ _ s1
  have hs1 : s1.ok := handleDead_ok (count_ok (ok_ite (updDie_ok h) h))
  exact ok_ite (count_ok (ok_ite (updDie_ok h) h)) (ok_ite (ok_ite (statusTo_ok hs1) hs1) (ok_ite (ok_ite (updCore_ok (count_ok (ok_ite (updDie_ok h) h)) (fun h1 => h1)) (staleDrop_ok (ok_ite (updDie_ok h) h))) (handOff_ok (ok_ite (updDie_ok h) h))))

theorem updE2e_ok {s : State} {key : Nat} {f : E2e → E2e} (h : s.ok) : (updE2e s key f).ok :=
  h

theorem ackSend_ok {s : State} {chip cls : Nat} (h : s.ok) : (ackSend s chip cls).ok :=
  updE2e_ok h

theorem ackAt32_ok {s : State} {chip cls : Nat} (h : s.ok) : (ackAt32 s chip cls).ok :=
  ok_ite (ackSend_ok h) h

theorem passTime_ok {n : Nat} {s : State} (h : s.ok) : (passTime n s).ok :=
  foldl_ok (fun h1 => ackSend_ok h1) (nicDue_ok (tick_ok h))

theorem takeInOrder_ok {key n : Nat} {p : Packet} {s : State} (h : s.ok) : (takeInOrder key n p s).ok := by
  induction n generalizing p s with
  | zero => exact h
  | succ n ih =>
    have htaken := ackAt32_ok (chip := key / 16) (cls := key % 16) (takeIn_ok (p := p) (updE2e_ok (key := key) (f := fun e => ackOwed s.now { e with rxNext := (e.rxNext + 1) % 2 ^ 24 }) h))
    unfold takeInOrder
    extract_lets -underBinder -merge
    split
    · exact ih (updE2e_ok htaken)
    · exact htaken

theorem execFabricPacketArrive_ok {p : Packet} {s : State} (h : s.ok) : NextOk (execFabricPacketArrive p s) :=
  next_ite h (next_ite (ok_ite (count_ok h) h) (next_ite (takeInOrder_ok h) (next_ite (updE2e_ok h) (ackAt32_ok (updE2e_ok (count_ok h))))))

theorem execE2eackSend_ok {chip cls : Nat} {s : State} (h : s.ok) : NextOk (execE2eackSend chip cls s) :=
  ok_ite h (ackSend_ok h)

theorem copyDone_ok {s : State} {src mtag chip : Nat} {failed : Bool} (h : s.ok) : (copyDone s src mtag chip failed).ok := by
  unfold copyDone
  split
  · exact h
  · exact ok_ite (engDone_ok h) h

theorem acked_ok {s : State} {p : Packet} (h : s.ok) : (acked s p).ok := by
  unfold acked
  split
  · exact copyDone_ok h
  · exact h
  · exact ok_ite h (freeOut_ok h)
  · exact ok_ite (freeOut_ok h) (ok_ite (markApplied_ok h) (ok_ite (markApplied_ok h) h))

theorem execE2eackReceive_ok {chip cls next : Nat} {s : State} (h : s.ok) : NextOk (execE2eackReceive chip cls next s) := by
  unfold execE2eackReceive
  extract_lets -underBinder -merge _ _ _ _ s1
  have hs1 : s1.ok := foldl_ok (fun h1 => acked_ok h1) (updE2e_ok h)
  exact ok_ite (e2eDrain_ok hs1) (nicDue_ok (e2eDrain_ok hs1))

theorem failPacket_ok {s : State} {p : Packet} (h : s.ok) : (failPacket s p).ok := by
  unfold failPacket
  extract_lets -underBinder -merge
  split
  · exact ok_ite (engLost_ok h) (ok_ite (statusAt_ok h) h)
  · split
    · exact fenceackAt_ok h
    · exact copyDone_ok h
    · extract_lets -underBinder -merge
      split
      · exact endRun_ok (failRec_ok h)
      · exact ok_ite (engDone_ok (failRec_ok h)) (markApplied_ok (failRec_ok h))
  · extract_lets -underBinder -merge s1
    have hs1 : s1.ok := by
      unfold s1
      split
      · exact foldl_ok (fun h1 => failMsg_ok h1) h
      · exact failMsg_ok h
    exact markApplied_ok (handleDead_ok hs1)
  · exact markApplied_ok (failRec_ok (drawFree_ok h))
  · exact h

theorem declareDead_ok {s : State} {chip cls : Nat} (h : s.ok) : (declareDead s chip cls).ok := by
  unfold declareDead
  extract_lets -underBinder -merge _ _ _ s1 _ s2
  have hs1 : s1.ok := foldl_ok (fun h1 => failPacket_ok h1) (updE2e_ok h)
  have hs2 : s2.ok := peersDead_ok (e2eDrain_ok hs1)
  exact ok_ite (schedTrap_ok hs2) (mgmtTo_ok (schedTrap_ok hs2))

theorem setEgress_ok {s : State} {l : List Packet} (h : s.ok) : ({ s with egress := l } : State).ok := h

theorem resendOut_ok {s : State} {chip cls seq : Nat} (h : s.ok) : (resendOut s chip cls seq).ok := by
  unfold resendOut
  extract_lets -underBinder -merge
  split
  · exact h
  · exact ok_ite (declareDead_ok h) (setEgress_ok (updE2e_ok h))

theorem execE2eTimeout_ok {chip cls seq : Nat} {s : State} (h : s.ok) : NextOk (execE2eTimeout chip cls seq s) := by
  unfold execE2eTimeout
  split
  · exact h
  · exact next_ite (resendOut_ok h) h

theorem execRetrainTimeout_ok {port : Nat} {s : State} (h : s.ok) : NextOk (execRetrainTimeout port s) :=
  next_ite h (foldl_ok (fun h1 => resendOut_ok h1) (updPort_ok h))

theorem execFenceMarkerArrive_ok {src die : Nat} {s : State} (h : s.ok) : NextOk (execFenceMarkerArrive src die s) := by
  unfold execFenceMarkerArrive
  extract_lets -underBinder -merge
  split
  · exact h
  · split
    · exact next_ite (staleDrop_ok (chanPop_ok h)) (next_ite h (next_ite (respond_ok (chanPop_ok h)) (respond_ok (updDie_ok (chanPop_ok h)))))
    · exact h

theorem updSw_ok {s : State} {sw : Nat} {f : Switch → Switch} (h : s.ok) : (updSw s sw f).ok :=
  h

theorem offWire_ok {s : State} {p : Packet} (h : s.ok) : (offWire s p).ok :=
  h

theorem execMulticastReplicate_ok {sw : Nat} {p : Packet} {s : State} (h : s.ok) : NextOk (execMulticastReplicate sw p s) := by
  unfold execMulticastReplicate
  extract_lets -underBinder -merge _ _ _ _ _ s1 s2
  have hs1 : s1.ok := offWire_ok h
  have hs2 : s2.ok := updSw_ok hs1
  split
  · exact h
  · exact hs2

theorem execMulticastLeafDeliver_ok {p : Packet} {s : State} (h : s.ok) : NextOk (execMulticastLeafDeliver p s) :=
  next_ite h (next_ite (notePair_ok (offWire_ok h)) (notePair_ok (leafApply_ok (offWire_ok h))))

theorem execBfackSend_ok {src mtag : Nat} {s : State} (h : s.ok) : NextOk (execBfackSend src mtag s) := by
  unfold execBfackSend
  split
  · exact h
  · exact next_ite h h

theorem execMtagPairExpire_ok {src mtag : Nat} {s : State} (h : s.ok) : NextOk (execMtagPairExpire src mtag s) :=
  h

theorem groupFreed_ok {s : State} {p : Packet} (h : s.ok) : (groupFreed s p).ok := by
  unfold groupFreed
  split <;> exact h

theorem mcastDone_ok {s : State} {m : MOut} {drop : Bool} (h : s.ok) : (mcastDone s m drop).ok :=
  ok_ite (engDone_ok (groupFreed_ok h)) (groupFreed_ok h)

theorem execBfackReceive_ok {sw : Option Nat} {src mtag : Nat} {drop : Bool} {s : State} (h : s.ok) : NextOk (execBfackReceive sw src mtag drop s) := by
  unfold execBfackReceive
  extract_lets -underBinder -merge
  split
  · split
    · exact h
    · extract_lets -underBinder -merge _ _ s1
      have hs1 : s1.ok := updSw_ok h
      split
      · exact hs1
      · exact updSw_ok h
  · split
    · exact h
    · exact next_ite h (mcastDone_ok h)

theorem unicastCopies_ok {s : State} {m : MOut} (h : s.ok) : (unicastCopies s m).ok := by
  unfold unicastCopies
  extract_lets -underBinder -merge _ _ send
  have hsend : ∀ {s : State} {c : Nat}, s.ok → (send s c).ok := by
    intro s c h
    unfold send
    split
    · exact emit_ok h
    · exact h
  split
  have h1 := ok_snd (snd_ite (notePair_ok (leafApply_ok h)) h) ‹_›
  split
  · exact mcastDone_ok h1
  · exact foldl_ok hsend h1

theorem execMulticastResend_ok {src mtag : Nat} {s : State} (h : s.ok) : NextOk (execMulticastResend src mtag s) := by
  unfold execMulticastResend
  split
  · exact h
  · exact next_ite h (next_ite (ok_ite h h) (next_ite (next_ite (unicastCopies_ok h) h) (groupFreed_ok h)))

theorem sendResult_ok {s : State} {sw : Nat} {g : CombG} {status : Nat} (h : s.ok) : (sendResult s sw g status).ok := by
  unfold sendResult
  extract_lets -underBinder -merge _ _ _ _ _ s1
  have hs1 : s1.ok := updSw_ok h
  exact hs1

theorem atRoot_ok {s : State} {sw : Nat} {c : Contrib} (h : s.ok) : SomeOk (atRoot s sw c) := by
  unfold atRoot
  extract_lets -underBinder -merge
  split
  · exact some_ite trivial (ok_ite (sendResult_ok (updSw_ok h)) (updSw_ok h))
  · exact some_ite h (ok_ite (sendResult_ok (updSw_ok h)) (updSw_ok h))

theorem belowRoot_ok {s : State} {c : Contrib} (h : s.ok) : (belowRoot s c).ok := by
  unfold belowRoot
  extract_lets -underBinder -merge _ mate1
  unfold mate1
  split <;> exact h

theorem execCombContributionArrive_ok {sw : Nat} {c : Contrib} {s : State} (h : s.ok) : NextOk (execCombContributionArrive sw c s) := by
  unfold execCombContributionArrive
  extract_lets -underBinder -merge there1 s'1
  have hs'1 : s'1.ok := by
    unfold s'1
    unfold there1
    split
    · exact offWire_ok h
    · exact h
  split
  · exact h
  · split
    · exact hs'1
    · split
      · split
        · exact (atRoot_ok hs'1).get ‹_›
        · exact h
      · exact belowRoot_ok hs'1

theorem execCombtoExpire_ok {sw cid gid round : Nat} {s : State} (h : s.ok) : NextOk (execCombtoExpire sw cid gid round s) := by
  unfold execCombtoExpire
  split
  · exact h
  · exact next_ite (sendResult_ok h) h

end Sys2Proof.Machine
end

section
/-! ### Kept by every step: the issue point, full/empty forms, vector forms and loops at issue (16, 18) -/

namespace Sys2Proof.Machine

theorem issue_ok {s : State} (h : s.ok) : (issue s).Ok := by
  unfold issue
  extract_lets -underBinder -merge
  split
  · exact Issue.ok_of_ne nofun
  · split
    · exact Issue.ok_of_ne nofun
    · split
      · exact Issue.moved_ok (takeTrap_ok (setCC_ok h (cc_ok h)))
      · split
        · exact Issue.ok_of_ne nofun
        · split
          · exact Issue.ok_of_ne nofun
          · exact Issue.ite (Issue.moved_ok h) (Issue.ite (Issue.moved_ok (sealCore_ok h)) (Issue.ok_of_ne nofun))

theorem execFetchTrap_ok {s : State} (h : s.ok) : NextOk (execFetchTrap s) := by
  unfold execFetchTrap
  split
  · exact h
  · split
    · exact h
    · exact sealCore_ok h
    · exact trap_ok h

theorem execIllegalWord_ok {w : IWord} {s : State} (h : s.ok) : NextOk (execIllegalWord w s) := by
  unfold execIllegalWord
  split
  · exact ill_ok h
  · exact h

theorem localLoad_ok {s : State} {rd ra : Reg} {w : BitVec 2} {off : BitVec 13} {sx : Bool} (h : s.ok) : NextOk (localLoad s rd ra w off sx) := by
  unfold localLoad
  extract_lets -underBinder -merge
  split
  · exact trap_ok h
  · exact next_ite (next_ite (sealCore_ok (struck_ok h)) (writeX_ok (struck_ok h))) (issueReq_ok h (fun h1 => h1))

theorem localStore_ok {s : State} {ra rb : Reg} {w : BitVec 2} {off : BitVec 13} (h : s.ok) : NextOk (localStore s ra rb w off) := by
  unfold localStore
  extract_lets -underBinder -merge
  split
  · exact trap_ok h
  · exact next_ite (done_ok (ok_ite (lmPoison_ok (localWrite_ok h)) (localWrite_ok h)) (fun h1 => h1)) (done_ok (rowStore_ok (protect_ok h)) (fun h2 => h2))

theorem feAccess_ok {s : State} {ra : Reg} {off : BitVec 13} {wr : Bool} {cont : Nat → Nat → Out} (h : s.ok) (hcont : ∀ {x0 : Nat} {x1 : Nat}, NextOk (cont x0 x1)) : NextOk (feAccess s ra off wr cont) := by
  unfold feAccess
  extract_lets -underBinder -merge
  split
  · exact trap_ok h
  · exact hcont

theorem rowFull_ok {s : State} {rd : Reg} {c a kind : Nat} {f : State → State} (h : s.ok) (hf : ∀ {x0 : State}, x0.ok → (f x0).ok) : NextOk (rowFull s rd c a kind f) := by
  unfold rowFull
  split
  · exact next_ite h (setCC_ok h (advance_ok (cc_ok h)))
  · exact issueReq_ok (hf h) (fun h1 => h1)

theorem execLdF_ok {rd ra : Reg} {off : BitVec 13} {s : State} (h : s.ok) : NextOk (execLdF rd ra off s) :=
  feAccess_ok h (next_ite (rowFull_ok h (fun h1 => h1)) (next_ite h (next_ite (sealCore_ok (struck_ok h)) (writeX_ok (struck_ok h)))))

theorem execFec_ok {rd ra : Reg} {off : BitVec 13} {s : State} (h : s.ok) : NextOk (execFec rd ra off s) :=
  feAccess_ok h (next_ite (rowFull_ok h (fun h1 => protect_ok h1)) (next_ite h (next_ite (sealCore_ok (struck_ok h)) (writeX_ok (feSet_ok (protect_ok (struck_ok h)))))))

theorem execFes_ok {rd ra : Reg} {off : BitVec 13} {s : State} (h : s.ok) : NextOk (execFes rd ra off s) :=
  feAccess_ok h (next_ite (issueReq_ok (protect_ok h) (fun h1 => h1)) (writeX_ok (feSet_ok (protect_ok h))))

theorem execStF_ok {ra rb : Reg} {off : BitVec 13} {s : State} (h : s.ok) : NextOk (execStF ra rb off s) :=
  next_ite (next_ite (trap_ok h) (next_ite (trap_ok h) (buffer_ok h (fun h1 => h1)))) (feAccess_ok h (@fun _ _ => by
    extract_lets -underBinder -merge _ _ _ s1
    have hs1 : s1.ok := struck_ok (lmWriteFull_ok (protect_ok h))
    exact next_ite (done_ok (rowStore_ok (protect_ok h)) (fun h2 => h2)) (done_ok (ok_ite (lmPoison_ok hs1) hs1) (fun h3 => h3))))

theorem execAmo_ok {rd ra rb : Reg} {op : BitVec 4} {w : BitVec 2} {s : State} (h : s.ok) : NextOk (execAmo rd ra rb op w s) := by
  unfold execAmo
  extract_lets -underBinder -merge
  split
  · exact trap_ok h
  · split
    · exact trap_ok h
    · split
      split
      · exact issueReq_ok (protect_ok h) (fun h1 => core_ite (sampleStep_ok h1) h1)
      · extract_lets -underBinder -merge _ _ _ _ s1
        have hs1 : s1.ok := lmWrite_ok (protect_ok (struck_ok h))
        exact next_ite (sealCore_ok (struck_ok h)) (done_ok hs1 (fun h2 => wx_ok (core_ite (sampleStep_ok h2) h2)))

theorem execRst_ok {ra rb : Reg} {w : BitVec 2} {s : State} (h : s.ok) : NextOk (execRst ra rb w s) :=
  next_ite (trap_ok h) (next_ite (trap_ok h) (buffer_ok h (fun h1 => h1)))

theorem execRstn_ok {ra rb : Reg} {off : BitVec 3} {size : BitVec 2} {s : State} (h : s.ok) : NextOk (execRstn ra rb off size s) :=
  next_ite (trap_ok h) (buffer_ok h (fun h1 => h1))

theorem execFlush_ok {s : State} (h : s.ok) : NextOk (execFlush s) :=
  afterFlush_ok h (fun h1 => done_ok h1 (fun h2 => h2))

theorem execLdg_ok {rd ra : Reg} {w : BitVec 2} {off : BitVec 13} {s : State} (h : s.ok) : NextOk (execLdg rd ra w off s) := by
  unfold execLdg
  extract_lets -underBinder -merge
  split
  · exact trap_ok h
  · split
    · split
      · exact trap_ok h
      · split
        · exact trap_ok h
        · split
          · exact writeX_ok h
          · exact afterDrain_ok h (fun h1 => issueReq_ok h1 (fun h2 => h2))
    · exact remoteLoad_ok h

theorem execStg_ok {ra rb : Reg} {w : BitVec 2} {off : BitVec 13} {s : State} (h : s.ok) : NextOk (execStg ra rb w off s) := by
  unfold execStg
  extract_lets -underBinder -merge
  split
  · exact trap_ok h
  · split
    · exact trap_ok h
    · split
      · split
        · exact trap_ok h
        · exact afterDrain_ok h (fun h1 => by
            extract_lets -underBinder -merge
            split
            · split
              have h2 := core_snd (freshTok_ok (cc_ok h1)) ‹_›
              split
              extract_lets -underBinder -merge k1
              have hk1 : k1.ok := noteStore_ok (unacked_ok (outstanding_ok h2))
              exact emit_ok (setCC_ok h1 (advance_ok hk1))
            · exact h1)
      · exact next_ite (trap_ok h) (afterDrain_ok h (fun h3 => by
          split
          have h4 := core_snd (freshTok_ok (cc_ok h3)) ‹_›
          extract_lets -underBinder -merge s1
          have hs1 : s1.ok := setCC_ok h3 (outstanding_ok h4)
          split
          · exact h3
          · have h5 := (storeOut_ok hs1).get ‹_›
            exact done_ok h5 (fun h6 => h6)))

theorem loopi_ok {s : State} {l : BitVec 5} {n : Nat} (h : s.ok) : NextOk (loopi s l n) :=
  next_ite (ill_ok h) (next_ite (setCC_ok h (passTo_ok (cc_ok h))) (setCC_ok h (cc_ok h)))

theorem vmap_ok {k : Core} {vd : Reg} {w : Nat} {m : BitVec 3} {f : Nat → Nat} (hk : k.ok) : (vmap k vd w m f).ok :=
  wv_ok hk

theorem vzip_ok {e : VEnv} {k : Core} {vd va vb : Reg} {t : BitVec 4} {m : BitVec 3} {f : ETy → RM → Nat → Nat → Nat → Nat} (hk : k.ok) : (vzip e k vd va vb t m f).ok := by
  unfold vzip
  split
  · exact hk
  · exact vmap_ok hk

theorem vcmp_ok {cc_ : Nat} {e : VEnv} {k : Core} {kd : BitVec 3} {va vb : Reg} {t : BitVec 4} {m : BitVec 3} (hk : k.ok) : (vcmp cc_ e k kd va vb t m).ok := by
  unfold vcmp
  split
  · exact hk
  · exact wk_ok hk

theorem vcvt_ok {e : VEnv} {k : Core} {vd va : Reg} {src t : BitVec 4} {m : BitVec 3} (hk : k.ok) : (vcvt e k vd va src t m).ok := by
  unfold vcvt
  split
  · exact vmap_ok hk
  · exact hk

theorem vop_ok {e : VEnv} {k : Core} {xs : List Word} {a3 : Instr} (hk : k.ok) : (vop e k xs a3).1.ok := by
  unfold vop
  split
  · with_reducible exact vzip_ok hk
  · with_reducible exact vzip_ok hk
  · with_reducible exact vzip_ok hk
  · with_reducible exact vzip_ok hk
  · with_reducible exact vzip_ok hk
  · with_reducible exact vzip_ok hk
  · with_reducible exact vzip_ok hk
  · with_reducible exact vzip_ok hk
  · with_reducible exact vzip_ok hk
  · with_reducible exact vzip_ok hk
  · with_reducible exact vzip_ok hk
  · with_reducible exact vzip_ok hk
  · with_reducible exact vzip_ok hk
  · with_reducible exact vzip_ok hk
  · with_reducible exact vcmp_ok hk
  · with_reducible exact vcmp_ok hk
  · with_reducible exact vcmp_ok hk
  · with_reducible exact vcmp_ok hk
  · with_reducible exact vcmp_ok hk
  · with_reducible exact vcmp_ok hk
  · with_reducible exact vcmp_ok hk
  · split
    · exact hk
    · exact wv_ok hk
  · with_reducible exact vcvt_ok hk
  · exact hk
  · split
    · exact hk
    · exact vmap_ok hk
  · split
    · exact hk
    · exact vmap_ok hk
  · split <;> exact hk
  · split
    · exact hk
    · exact wv_ok hk
  · with_reducible exact vzip_ok hk
  · with_reducible exact vzip_ok hk
  · with_reducible exact vzip_ok hk
  · with_reducible exact vzip_ok hk
  · with_reducible exact vzip_ok hk
  · with_reducible exact vzip_ok hk
  · with_reducible exact wk_ok hk
  · with_reducible exact wk_ok hk
  · with_reducible exact wk_ok hk
  · exact hk

theorem vcheck_ok {s : State} {i : Instr} {go : Out} (h : s.ok) (hgo : NextOk go) : NextOk (vcheck s i go) :=
  next_ite (ill_ok h) (next_ite (trap_ok h) (next_ite h hgo))

theorem vrun_ok {k : Core} {i : Instr} (hk : k.ok) : (vrun k i).ok := by
  unfold vrun
  split
  have h1 := core_fst (vop_ok hk) ‹_›
  extract_lets -underBinder -merge k'1
  have hk'1 : k'1.ok := by
    unfold k'1
    split
    · exact wx_ok h1
    · exact h1
  exact core_ite (sampleStep_ok hk'1) hk'1

theorem vissue_ok {s : State} {i : Instr} (h : s.ok) : NextOk (vissue s i) :=
  vcheck_ok h (done_ok h (fun h1 => vrun_ok h1))

theorem takeWord_ok {s : State} {w : Nat} (h : s.ok) : (takeWord s w).ok :=
  ok_ite (setCC_ok (struck_ok h) (cc_ok (struck_ok h))) (askRow_ok h)

theorem vloadEnd_ok {s : State} {v : Reg} {w : Nat} {l : List VAcc} (h : s.ok) : NextOk (vloadEnd s v w l) :=
  next_ite (sealCore_ok h) (done_ok h (fun h1 => sampleStep_ok (wv_ok h1)))

theorem vload_ok {s : State} {i : Instr} {v : Reg} {w : Nat} {l : List VAcc} {span : Bool} {base : Word} (h : s.ok) : NextOk (vload s i v w l span base) :=
  vcheck_ok h (by
    split
    · exact trap_ok h
    · split
      · exact trap_ok h
      · extract_lets -underBinder -merge _ s1
        have hs1 : s1.ok := by
          unfold s1
          split
          · exact takeWord_ok h
          · exact h
        exact next_ite (vloadEnd_ok hs1) hs1)

theorem vstoreUnit_ok {s : State} {a : Nat} {bs : List Byte} {bad : Bool} (h : s.ok) : (vstoreUnit s a bs bad).ok := by
  unfold vstoreUnit
  split
  extract_lets -underBinder -merge _ s1
  have hs1 : s1.ok := struck_ok (lmWrite_ok (protect_ok h))
  exact ok_ite (ok_ite (lmPoison_ok hs1) hs1) (rowStore_ok (protect_ok h))

theorem vstore_ok {s : State} {i : Instr} {v : Reg} {w : Nat} {l : List VAcc} {span : Bool} {base : Word} (h : s.ok) : NextOk (vstore s i v w l span base) :=
  vcheck_ok h (by
    split
    · exact trap_ok h
    · split
      · exact trap_ok h
      · extract_lets -underBinder -merge
        split
        · exact done_ok h (fun h1 => sampleStep_ok h1)
        · exact next_ite (done_ok (vstoreUnit_ok h) (fun h2 => sampleStep_ok h2)) (setCC_ok (vstoreUnit_ok h) (cc_ok (vstoreUnit_ok h))))

theorem execVloop_ok {l : BitVec 5} {xs : Reg} {s : State} (h : s.ok) : NextOk (execVloop l xs s) := by
  unfold execVloop
  extract_lets -underBinder -merge
  split
  · exact sealCore_ok h
  · exact trap_ok h
  · extract_lets -underBinder -merge _ _ bound1
    split
    · exact ill_ok h
    · split
      · exact setCC_ok h (passTo_ok (wx_ok (cc_ok h)))
      · unfold bound1
        split <;> exact setCC_ok h (passTo_ok (wx_ok (cc_ok h)))

theorem popAll_ok {k k' : Core} {rs : List Reg} {vs : List Word} (hk : k.ok) (h : popAll k rs = some (vs, k')) : k'.ok := by
  induction rs generalizing k vs with
  | nil =>
    obtain ⟨rfl, rfl⟩ := Prod.mk.inj (Option.some.inj h)
    exact hk
  | cons r rs ih =>
    unfold popAll at h
    split at h
    · cases h
    · obtain ⟨p, hp, hpair⟩ := Option.map_eq_some_iff.mp h
      obtain ⟨-, rfl⟩ := Prod.mk.inj hpair
      exact ih (popQ_ok hk) hp

theorem bodyStep_ok {e : VEnv} {k k' : Core} {i : Instr} (hk : k.ok) (h : bodyStep e k i = some k') : k'.ok := by
  unfold bodyStep at h
  split at h
  · cases h
  · split at h
    · cases h
    next hpop =>
      have hpopped := popAll_ok hk hpop
      split at h
      · rw [← Option.some.inj h]
        exact vop_ok hpopped
      · split at h
        · cases h
        · rw [← Option.some.inj h]
          exact setQreg_ok (vop_ok hpopped)

theorem bodyRun_ok {e : VEnv} {iter : Nat} {l : List IWord} {j : Nat} {k : Core} (hk : k.ok) : (bodyRun e iter l j k).1.ok := by
  induction l generalizing j k with
  | nil => exact hk
  | cons w l ih =>
    unfold bodyRun
    split
    · exact ih hk
    · split
      · exact hk
      · exact ih (bodyStep_ok hk ‹_›)

theorem execLoopIteration_ok {core : Nat} {s : State} (h : s.ok) : NextOk (execLoopIteration core s) := by
  unfold execLoopIteration
  extract_lets -underBinder -merge
  split
  · exact h
  · split
    · exact h
    · split
      · exact h
      · extract_lets -underBinder -merge
        split
        · exact tryEos_ok h
        · split
          · exact h
          · split
            · exact sealCore_ok h
            · split
              extract_lets -underBinder -merge k1
              have hk1 : k1.ok := core_ite (coreOf_ok h) (wv_ok (coreOf_ok h))
              split
              have h1 := core_fst (bodyRun_ok hk1) ‹_›
              split
              · exact next_ite (sealCore_ok (setCore_ok h h1)) (setCore_ok h h1)
              · extract_lets -underBinder -merge _ _ s1
                have hs1 : s1.ok := by
                  unfold s1
                  split
                  · exact credit_ok (updEnd_ok (setCore_ok h h1))
                  · exact (updEnd_ok (setCore_ok h h1))
                exact tryEos_ok hs1

end Sys2Proof.Machine
end

section
/-! ### Every step keeps a safe package safe -/

namespace Sys2Proof.Machine

theorem execBeq_ok {ra rb : Reg} {off : BitVec 15} {s : State} (h : s.ok) : NextOk (execBeq ra rb off s) := by
  unfold execBeq
  with_reducible exact branch_ok h

theorem execBne_ok {ra rb : Reg} {off : BitVec 15} {s : State} (h : s.ok) : NextOk (execBne ra rb off s) := by
  unfold execBne
  with_reducible exact branch_ok h

theorem execBge_ok {ra rb : Reg} {off : BitVec 15} {s : State} (h : s.ok) : NextOk (execBge ra rb off s) := by
  unfold execBge
  with_reducible exact branch_ok h

theorem execBgen_ok {ra rb : Reg} {off : BitVec 15} {s : State} (h : s.ok) : NextOk (execBgen ra rb off s) := by
  unfold execBgen
  with_reducible exact branch_ok h

theorem execJump_ok {off : BitVec 20} {s : State} (h : s.ok) : NextOk (execJump off s) := by
  unfold execJump
  with_reducible exact transfer_ok h

theorem execJal_ok {rd : Reg} {off : BitVec 20} {s : State} (h : s.ok) : NextOk (execJal rd off s) := by
  unfold execJal
  with_reducible exact transfer_ok h

theorem execJr_ok {ra : Reg} {imm : BitVec 15} {s : State} (h : s.ok) : NextOk (execJr ra imm s) := by
  unfold execJr
  with_reducible exact transfer_ok h

theorem execJalr_ok {rd ra : Reg} {imm : BitVec 15} {s : State} (h : s.ok) : NextOk (execJalr rd ra imm s) := by
  unfold execJalr
  with_reducible exact transfer_ok h

theorem execVexp2_ok {vd va : Reg} {m : BitVec 3} {s : State} (h : s.ok) : NextOk (execVexp2 vd va m s) := by
  unfold execVexp2
  with_reducible exact vissue_ok h

theorem execVrcp_ok {vd va : Reg} {m : BitVec 3} {s : State} (h : s.ok) : NextOk (execVrcp vd va m s) := by
  unfold execVrcp
  with_reducible exact vissue_ok h

theorem execVrsq_ok {vd va : Reg} {m : BitVec 3} {s : State} (h : s.ok) : NextOk (execVrsq vd va m s) := by
  unfold execVrsq
  with_reducible exact vissue_ok h

theorem execKand_ok {kd ka kb : BitVec 3} {s : State} (h : s.ok) : NextOk (execKand kd ka kb s) := by
  unfold execKand
  with_reducible exact vissue_ok h

theorem execKor_ok {kd ka kb : BitVec 3} {s : State} (h : s.ok) : NextOk (execKor kd ka kb s) := by
  unfold execKor
  with_reducible exact vissue_ok h

theorem execKnot_ok {kd ka : BitVec 3} {s : State} (h : s.ok) : NextOk (execKnot kd ka s) := by
  unfold execKnot
  with_reducible exact vissue_ok h

theorem execFmtsWrite_ok {ra : Reg} {s : State} (h : s.ok) : NextOk (execFmtsWrite ra s) := by
  unfold execFmtsWrite
  with_reducible exact csrWrite_ok h

theorem execRmodeWrite_ok {ra : Reg} {s : State} (h : s.ok) : NextOk (execRmodeWrite ra s) := by
  unfold execRmodeWrite
  with_reducible exact csrWrite_ok h

theorem execBlt_ok {ra rb : Reg} {off : BitVec 15} {s : State} (h : s.ok) : NextOk (execBlt ra rb off s) := by
  unfold execBlt
  with_reducible exact branch_ok h

theorem execBltn_ok {ra rb : Reg} {off : BitVec 15} {s : State} (h : s.ok) : NextOk (execBltn ra rb off s) := by
  unfold execBltn
  with_reducible exact branch_ok h

/-- Every instruction and every step of an agent. -/
theorem exec_ok {s : State} (h : s.ok) : ∀ i, NextOk (exec i s)
  | .add .. => writeX_ok h
  | .sub .. => writeX_ok h
  | .and .. => writeX_ok h
  | .or .. => writeX_ok h
  | .xor .. => writeX_ok h
  | .andn .. => writeX_ok h
  | .sll .. => writeX_ok h
  | .srl .. => writeX_ok h
  | .sra .. => writeX_ok h
  | .rol .. => writeX_ok h
  | .ror .. => writeX_ok h
  | .slt .. => writeX_ok h
  | .sltn .. => writeX_ok h
  | .min .. => writeX_ok h
  | .max .. => writeX_ok h
  | .minn .. => writeX_ok h
  | .maxn .. => writeX_ok h
  | .mul .. => writeX_ok h
  | .mulh .. => writeX_ok h
  | .mulhn .. => writeX_ok h
  | .div .. => writeX_ok h
  | .divn .. => writeX_ok h
  | .rem .. => writeX_ok h
  | .remn .. => writeX_ok h
  | .clz .. => writeX_ok h
  | .ctz .. => writeX_ok h
  | .popc .. => writeX_ok h
  | .brev .. => writeX_ok h
  | .bswap .. => writeX_ok h
  | .clmul .. => writeX_ok h
  | .clmulh .. => writeX_ok h
  | .sel .. => writeX_ok h
  | .exts .. => writeX_ok h
  | .extz .. => writeX_ok h
  | .ins .. => writeX_ok h
  | .addi .. => writeX_ok h
  | .andi .. => writeX_ok h
  | .ori .. => writeX_ok h
  | .xori .. => writeX_ok h
  | .slli .. => writeX_ok h
  | .srli .. => writeX_ok h
  | .srai .. => writeX_ok h
  | .slti .. => writeX_ok h
  | .lui .. => writeX_ok h
  | .addpc .. => writeX_ok h
  | .beq .. => execBeq_ok h
  | .bne .. => execBne_ok h
  | .blt .. => execBlt_ok h
  | .bge .. => execBge_ok h
  | .bltn .. => execBltn_ok h
  | .bgen .. => execBgen_ok h
  | .jump .. => execJump_ok h
  | .jal .. => execJal_ok h
  | .jr .. => execJr_ok h
  | .jalr .. => execJalr_ok h
  | .loopi .. => loopi_ok h
  | .loopiReg .. => loopi_ok h
  | .ld .. => localLoad_ok h
  | .ldn .. => localLoad_ok h
  | .st .. => localStore_ok h
  | .ldF .. => execLdF_ok h
  | .stF .. => execStF_ok h
  | .fec .. => execFec_ok h
  | .fes .. => execFes_ok h
  | .amo .. => execAmo_ok h
  | .rld .. => remoteLoad_ok h
  | .rldAcq .. => remoteLoad_ok h
  | .rst .. => execRst_ok h
  | .rstn .. => execRstn_ok h
  | .ramo .. => remoteAmo_ok h
  | .hins .. => remoteHins_ok h
  | .hinsTag .. => remoteHins_ok h
  | .flush => execFlush_ok h
  | .fenceRow => fence_ok h
  | .fenceDie => fence_ok h
  | .fencePkg => fence_ok h
  | .fenceFab => fence_ok h
  | .waitm .. => waitmOp_ok h
  | .ldg .. => execLdg_ok h
  | .stg .. => execStg_ok h
  | .send .. => execSend_ok h
  | .sendnz .. => execSendnz_ok h
  | .sendnzStream .. => execSendnzStream_ok h
  | .sendh .. => execSendh_ok h
  | .strnew .. => execStrnew_ok h
  | .strbind .. => execStrbind_ok h
  | .strunb .. => execStrunb_ok h
  | .streos .. => execStreos_ok h
  | .strstat .. => execStrstat_ok h
  | .exit => execExit_ok h
  | .exitS .. => execExitS_ok h
  | .bar .. => barrier_ok h
  | .barA .. => barrier_ok h
  | .barT .. => phaseDist_ok h
  | .barTP .. => execBarTP_ok h
  | .crewbar .. => barrier_ok h
  | .crewbarA .. => barrier_ok h
  | .crewbarT .. => phaseDist_ok h
  | .launch .. => execLaunch_ok h
  | .ksub .. => execKsub_ok h
  | .dspn .. => execDspn_ok h
  | .adjreg .. => execAdjreg_ok h
  | .setev .. => buffer_ok h (fun h1 => h1)
  | .setevClr .. => buffer_ok h (fun h1 => h1)
  | .jcan .. => execJcan_ok h
  | .cmd .. => cmdOp_ok h
  | .cmdNb .. => cmdOp_ok h
  | .csrr .. => csrRead_ok h
  | .csrw .. => csrWrite_ok h
  | .csrs .. => csrBits_ok h
  | .csrc .. => csrBits_ok h
  | .trap .. => trap_ok h
  | .rta => execRta_ok h
  | .abort => trap_ok h
  | .bkpt => trap_ok h
  | .halt .. => execHalt_ok h
  | .ctxKill .. => execCtxKill_ok h
  | .ctxRecl .. => execCtxRecl_ok h
  | .tlbinv .. => execTlbinv_ok h
  | .rankset .. => execRankset_ok h
  | .resmove .. => execResmove_ok h
  | .slotsave .. => execSlotsave_ok h
  | .slotdrop .. => execSlotdrop_ok h
  | .slotload rd ra rb => execSlotload_ok (rd := rd) (ra := ra) (rb := rb) h
  | .vld .. => vload_ok h
  | .vst .. => vstore_ok h
  | .vlds .. => vload_ok h
  | .vsts .. => vstore_ok h
  | .vgath .. => vload_ok h
  | .vscat .. => vstore_ok h
  | .vadd .. => vissue_ok h
  | .vsub .. => vissue_ok h
  | .vmul .. => vissue_ok h
  | .vfma .. => vissue_ok h
  | .vmin .. => vissue_ok h
  | .vmax .. => vissue_ok h
  | .vabs .. => vissue_ok h
  | .vneg .. => vissue_ok h
  | .vand .. => vissue_ok h
  | .vor .. => vissue_ok h
  | .vxor .. => vissue_ok h
  | .vshl .. => vissue_ok h
  | .vshr .. => vissue_ok h
  | .vsra .. => vissue_ok h
  | .vcmpEq .. => vissue_ok h
  | .vcmpNe .. => vissue_ok h
  | .vcmpLt .. => vissue_ok h
  | .vcmpLe .. => vissue_ok h
  | .vcmpGt .. => vissue_ok h
  | .vcmpGe .. => vissue_ok h
  | .vcmpUn .. => vissue_ok h
  | .vsel .. => vissue_ok h
  | .vcvt .. => vissue_ok h
  | .vred .. => vissue_ok h
  | .vperm .. => vissue_ok h
  | .vbcst .. => vissue_ok h
  | .vext .. => vissue_ok h
  | .vins .. => vissue_ok h
  | .vpopc .. => vissue_ok h
  | .vclmul .. => vissue_ok h
  | .vclmulh .. => vissue_ok h
  | .vexp2 .. => execVexp2_ok h
  | .vrcp .. => execVrcp_ok h
  | .vrsq .. => execVrsq_ok h
  | .kand .. => execKand_ok h
  | .kor .. => execKor_ok h
  | .knot .. => execKnot_ok h
  | .vloop .. => execVloop_ok h
  | .zclr .. => tileCmd_ok h
  | .zld .. => tileCmd_ok h
  | .zst .. => tileCmd_ok h
  | .mmaS .. => tileCmd_ok h
  | .mmaG .. => tileCmd_ok h
  | .copy .. => tileCmd_ok h
  | .copyM .. => tileCmd_ok h
  | .red .. => tileCmd_ok h
  | .layreg .. => tileCmd_ok h
  | .laydrop .. => tileCmd_ok h
  | .strfill .. => tileCmd_ok h
  | .strdrain .. => tileCmd_ok h
  | .nicpost .. => tileCmd_ok h
  | .niccq .. => tileCmd_ok h
  | .coll .. => tileCmd_ok h
  | .cprobe .. => tileCmd_ok h
  | .xbWrite .. => csrWrite_ok h
  | .trappcWrite .. => csrWrite_ok h
  | .queuePop .. => csrRead_ok h
  | .queuePush .. => csrWrite_ok h
  | .streamPop .. => csrRead_ok h
  | .streamPush .. => csrWrite_ok h
  | .mailboxWrite .. => csrWrite_ok h
  | .formatWrite .. => csrWrite_ok h
  | .fmtsWrite .. => execFmtsWrite_ok h
  | .rmodeWrite .. => execRmodeWrite_ok h
  | .wstatRead .. => hostRead_ok h
  | .windowSubmission .. => execWindowSubmission_ok h
  | .registerWrite .. => execRegisterWrite_ok h
  | .thresholdCtlWrite .. => thrWrite_ok h
  | .fresRetry .. => execFresRetry_ok h
  | .fresFail .. => execFresFail_ok h
  | .s2resRetry .. => execS2resRetry_ok h
  | .s2resFail .. => execS2resFail_ok h
  | .migwinHold .. => execMigwinHold_ok h
  | .migwinRelease .. => migWrite0_ok h
  | .migwinClose .. => migWrite0_ok h
  | .flitReceive .. => execFlitReceive_ok h
  | .recoveryRequestReceive .. => execRecoveryRequestReceive_ok h
  | .parityIncrementReceive .. => execParityIncrementReceive_ok h
  | .recoveryRetryTimeout .. => execRecoveryRetryTimeout_ok h
  | .linkrecmaxExpire .. => execLinkrecmaxExpire_ok h
  | .retrainComplete .. => execRetrainComplete_ok h
  | .retrainTimeout .. => execRetrainTimeout_ok h
  | .packetInject .. => execPacketInject_ok h
  | .fabricPacketArrive .. => execFabricPacketArrive_ok h
  | .e2eackSend .. => execE2eackSend_ok h
  | .e2eackReceive .. => execE2eackReceive_ok h
  | .e2eTimeout .. => execE2eTimeout_ok h
  | .fenceMarkerArrive .. => execFenceMarkerArrive_ok h
  | .fenceackReceive .. => execFenceackReceive_ok h
  | .multicastReplicate .. => execMulticastReplicate_ok h
  | .replicationEntryTimeout .. => updSw_ok h
  | .multicastLeafDeliver .. => execMulticastLeafDeliver_ok h
  | .bfackSend .. => execBfackSend_ok h
  | .bfackReceive .. => execBfackReceive_ok h
  | .multicastResend .. => execMulticastResend_ok h
  | .mtagPairExpire .. => execMtagPairExpire_ok h
  | .combContributionArrive .. => execCombContributionArrive_ok h
  | .combtoExpire .. => execCombtoExpire_ok h
  | .boot => execBoot_ok h
  | .attestationRequest .. => execAttestationRequest_ok h
  | .incarnationBroadcast .. => execIncarnationBroadcast_ok h
  | .killAckReceive .. => execKillAckReceive_ok h
  | .reclQuery .. => execReclQuery_ok h
  | .reclAnswer .. => execReclAnswer_ok h
  | .reclAnswerReceive .. => execReclAnswerReceive_ok h
  | .patrolScrub .. => execPatrolScrub_ok h
  | .residentRebuild .. => execResidentRebuild_ok h
  | .coreTestComplete .. => execCoreTestComplete_ok h
  | .pairTimeout .. => execPairTimeout_ok h
  | .rowTestStart .. => execRowTestStart_ok h
  | .rowTestComplete .. => execRowTestComplete_ok h
  | .powerUp => execPowerUp_ok h
  | .rowGroupPowerOn .. => execRowGroupPowerOn_ok h
  | .trimStepGrant => execTrimStepGrant_ok h
  | .energyUpdate .. => execEnergyUpdate_ok h
  | .thresholdCrossing .. => execThresholdCrossing_ok h
  | .kernelAccept .. => execKernelAccept_ok h
  | .ksubArrive .. => execKsubArrive_ok h
  | .setevApply .. => execSetevApply_ok h
  | .schedulerLaunch .. => execSchedulerLaunch_ok h
  | .gateArm .. => execGateArm_ok h
  | .liveCountReport => execLiveCountReport_ok h
  | .liveCountAck .. => execLiveCountAck_ok h
  | .activationStart .. => execActivationStart_ok h
  | .ageingTick .. => execAgeingTick_ok h
  | .rankInvalidate .. => execRankInvalidate_ok h
  | .rankInvalidateAck .. => execRankInvalidateAck_ok h
  | .overflowPark .. => execOverflowPark_ok h
  | .overflowDrain .. => execOverflowDrain_ok h
  | .jcanApply .. => execJcanApply_ok h
  | .jcanComplete .. => execJcanComplete_ok h
  | .adjregRequest .. => execAdjregRequest_ok h
  | .windowRefill .. => execWindowRefill_ok h
  | .taskTry .. => execTaskTry_ok h
  | .lockRequest .. => execLockRequest_ok h
  | .lockResponse .. => execLockResponse_ok h
  | .lockRelease .. => execLockRelease_ok h
  | .taskChainEnd .. => execTaskChainEnd_ok h
  | .stakeSlotGrant .. => execStakeSlotGrant_ok h
  | .stakeRequest .. => execStakeRequest_ok h
  | .dspnArrive .. => execDspnArrive_ok h
  | .messageLand .. => execMessageLand_ok h
  | .failureRecordWrite => execFailureRecordWrite_ok h
  | .watchdogExpire .. => execWatchdogExpire_ok h
  | .barrierArrive .. => execBarrierArrive_ok h
  | .barrierAdvance .. => execBarrierAdvance_ok h
  | .loopIteration .. => execLoopIteration_ok h
  | .translationRequest .. => execTranslationRequest_ok h
  | .walkStep .. => walkerStep_ok h
  | .fstoExpire .. => execFstoExpire_ok h
  | .tlbinvArrive .. => execTlbinvArrive_ok h
  | .tlbinvAck .. => execTlbinvAck_ok h
  | .tlbinvAckReceive .. => execTlbinvAckReceive_ok h
  | .lineEvict .. => evict_ok h
  | .leave .. => execLeave_ok h
  | .applyStep .. => execApplyStep_ok h
  | .spuriousWake .. => wakeCore_ok h
  | .returnStep .. => execReturnStep_ok h
  | .ack .. => execAck_ok h
  | .engine .. => tryStep_ok h
  | .streamItemArrive .. => strmArrive_ok h
  | .streamEosArrive .. => strmArrive_ok h
  | .creditArrive .. => strmArrive_ok h
  | .rerouteArrive .. => strmArrive_ok h
  | .reackArrive .. => strmArrive_ok h
  | .orphanArrive .. => strmArrive_ok h
  | .finackArrive .. => strmArrive_ok h
  | .retireArrive .. => strmArrive_ok h
  | .bounceArrive .. => strmArrive_ok h
  | .strmwaitExpire .. => execStrmwaitExpire_ok h
  | .unreachableDeclarationReceive .. => peersDead_ok h
  | .commandStart .. => execCommandStart_ok h
  | .commandComplete .. => execCommandComplete_ok h
  | .mmagJoin .. => execMmagJoin_ok h
  | .mmagStep .. => execMmagStep_ok h
  | .redContributionArrive .. => execRedContributionArrive_ok h
  | .redTimeout .. => execRedTimeout_ok h
  | .collTimeout .. => execCollTimeout_ok h
  | .roundForget .. => updDie_ok h
  | .nicPacketSend .. => execNicPacketSend_ok h
  | .nicPacketReceive .. => execNicPacketReceive_ok h
  | .nicSackReceive .. => execNicSackReceive_ok h
  | .nicRetransmitTimeout .. => execNicRetransmitTimeout_ok h
  | .portTraining .. => execPortTraining_ok h
  | .trimStepDemand .. => execTrimStepDemand_ok h
  | .nicRefusalReceive .. => execNicRefusalReceive_ok h
  | .illegalWord .. => execIllegalWord_ok h
  | .fetchTrap => execFetchTrap_ok h

theorem coreStep_ok {s : State} (h : s.ok) : NextOk (coreStep s) := by
  unfold coreStep
  split
  · trivial
  · split
    · exact h
    · split
      · exact (issue_ok h).moved ‹_›
      · exact exec_ok h _
      · exact execActivationStart_ok h
      · exact execWatchdogExpire_ok h
      · exact execFetchTrap_ok h
      · exact execIllegalWord_ok h

theorem step_ok {s : State} (h : s.ok) : NextOk (step s) := by
  have hfree : ({ s with free := s.free + 1 } : State).ok := h
  have hrest : ∀ ms, ({ s with free := s.free + 1, agenda := ms } : State).ok := fun _ => h
  have hcur : ∀ ms c, ({ s with free := s.free + 1, agenda := ms, cur := c } : State).ok := fun _ _ => h
  unfold step
  dsimp only
  split
  · exact coreStep_ok hfree
  · exact ok_ite (tick_ok (hrest _)) (passTime_ok (hrest _))
  · exact coreStep_ok (hcur ..)
  · exact next_ite (exec_ok (hrest _) _) (hrest _)

/-- Settles O38: every function of the model that makes a state keeps the two memories' form and x0, so every instruction and every step does. -/
theorem stepsKeepOk : Obligations.StepsKeepOk := by
  unfold Obligations.StepsKeepOk
  exact fun s t hs ht => (step_ok hs).get ht

end Sys2Proof.Machine
end
